-- ==== Sys2Proof/Word.lean ====
section
/-! DEFINITION. The word types of the machine and their plainest arithmetic. -/

namespace Sys2Proof

/-- A 64-bit register or memory word (R142, R245). -/
abbrev Word := BitVec 64

/-- One byte of memory (R11). -/
abbrev Byte := BitVec 8

/-- A 32-bit word of code (R217) or one 32-bit lane (R272). -/
abbrev Half := BitVec 32

/-- A vector register: 1,536 bits, 48 lanes of 32 (R272). -/
abbrev VWord := BitVec 1536

/-- A mask register: 48 bits, bit i for 32-bit lane i (R272). -/
abbrev MWord := BitVec 48

/-- The word whose value is one when `b` holds, zero otherwise (R246). -/
def Word.ofBool (b : Bool) : Word := if b then 1 else 0

/-- Bits [hi:lo] of a natural number, as in `bits(v, hi, lo)` of Table 0.3. -/
def bits (v hi lo : Nat) : Nat := (v / 2 ^ lo) % 2 ^ (hi + 1 - lo)

/-- `a` rounded up to a multiple of `n`. -/
def roundUp (a n : Nat) : Nat := if n = 0 then a else (a + n - 1) / n * n

/-- `v` read as a two's-complement number of `n` bits: `sext(v, n)` of Table 0.3. -/
def sextNat (v n : Nat) : Int :=
  let u := v % 2 ^ n
  if n ≠ 0 ∧ 2 ^ (n - 1) ≤ u then (u : Int) - 2 ^ n else u

/-- The least nonnegative number congruent to `v` modulo `2 ^ n`. -/
def wrapInt (v : Int) (n : Nat) : Nat := (v % (2 ^ n : Int)).toNat

end Sys2Proof
end

