-- ==== Sys2Proof/Machine/Num.lean ====
section
/-! DEFINITION. Number formats and arithmetic rules (06 R142 to R157): exact values, rounding, flags. -/

namespace Sys2Proof.Machine

/-- Rounding modes (Table 6.2). -/
inductive RMode where
  | rne | rtz | rdn | rup | rna
  deriving DecidableEq, Repr

/-- The mode of a code of Table 6.2; codes 5 to 7 are not stored and read as RNE here. -/
def RMode.ofCode : Nat → RMode
  | 1 => .rtz
  | 2 => .rdn
  | 3 => .rup
  | 4 => .rna
  | _ => .rne

/-- Saturation settings (Table 6.2): DEF, SAT, NOSAT. -/
inductive SatMode where
  | dflt | sat | nosat
  deriving DecidableEq, Repr

/-- The setting of a code of Table 6.2. -/
def SatMode.ofCode : Nat → SatMode
  | 1 => .sat
  | 2 => .nosat
  | _ => .dflt

/-- A resolved rounding mode and saturation setting (R147). -/
structure RndMode where
  rm : RMode := .rne
  sat : SatMode := .dflt
  deriving DecidableEq, Repr

/-- The six flags of Table 6.4: bit 0 NX, 1 UF, 2 OF, 3 DZ, 4 NV, 5 ST. -/
abbrev Flags := BitVec 6

/-- Inexact. -/
def fNX : Flags := 1
/-- Tiny and inexact. -/
def fUF : Flags := 2
/-- Overflow not saturated. -/
def fOF : Flags := 4
/-- Division of a finite nonzero value by zero. -/
def fDZ : Flags := 8
/-- Invalid operation. -/
def fNV : Flags := 16
/-- Saturation changed a value. -/
def fST : Flags := 32

/-- An exact value: NaN with its sign and whether it is signalling, an infinity, or
(-1)^neg * m * 2^e. -/
inductive FVal where
  | nan (neg sig : Bool)
  | inf (neg : Bool)
  | fin (neg : Bool) (m : Nat) (e : Int)
  deriving DecidableEq, Repr

/-- How a format encodes infinities and NaN (Table 6.1). -/
inductive FKind where
  | ieee | e4m3 | e2m1
  deriving DecidableEq, Repr

/-- The parameters of a floating format (Table 6.1). -/
structure Fmt where
  eb : Nat
  mb : Nat
  bias : Nat
  kind : FKind := .ieee
  deriving DecidableEq, Repr

/-- FP32. -/
def fp32 : Fmt := { eb := 8, mb := 23, bias := 127 }
/-- FP16. -/
def fp16 : Fmt := { eb := 5, mb := 10, bias := 15 }
/-- BF16. -/
def bf16 : Fmt := { eb := 8, mb := 7, bias := 127 }
/-- E4M3. -/
def e4m3 : Fmt := { eb := 4, mb := 3, bias := 7, kind := .e4m3 }
/-- E5M2. -/
def e5m2 : Fmt := { eb := 5, mb := 2, bias := 15 }
/-- E2M1. -/
def e2m1 : Fmt := { eb := 2, mb := 1, bias := 1, kind := .e2m1 }

/-- Bits of a format. -/
def Fmt.width (f : Fmt) : Nat := 1 + f.eb + f.mb

/-- The sign bit in place. -/
def Fmt.signBit (f : Fmt) (neg : Bool) : Nat := if neg then 2 ^ (f.eb + f.mb) else 0

/-- Code of the largest finite magnitude (Table 6.1). -/
def Fmt.largestCode (f : Fmt) : Nat :=
  match f.kind with
  | .ieee => (2 ^ f.eb - 2) * 2 ^ f.mb + (2 ^ f.mb - 1)
  | .e4m3 => 0x7E
  | .e2m1 => 7

/-- Code of positive infinity of an IEEE-like format. -/
def Fmt.infCode (f : Fmt) : Nat := (2 ^ f.eb - 1) * 2 ^ f.mb

/-- The canonical NaN (Table 6.1). -/
def Fmt.canonNaN (f : Fmt) : Nat :=
  match f.kind with
  | .ieee => f.infCode + 2 ^ (f.mb - 1)
  | .e4m3 => 0x7F
  | .e2m1 => 0

/-- The value of a code (R143). -/
def Fmt.value (f : Fmt) (c : Nat) : FVal :=
  let neg := bits c (f.eb + f.mb) (f.eb + f.mb) == 1
  let ex := (c / 2 ^ f.mb) % 2 ^ f.eb
  let ma := c % 2 ^ f.mb
  let norm : FVal :=
    if ex = 0 then .fin neg ma (1 - (f.bias : Int) - f.mb)
    else .fin neg (2 ^ f.mb + ma) ((ex : Int) - f.bias - f.mb)
  match f.kind with
  | .ieee =>
    if ex = 2 ^ f.eb - 1 then
      if ma = 0 then .inf neg else .nan neg (ma / 2 ^ (f.mb - 1) == 0)
    else norm
  | .e4m3 => if c % 128 = 127 then .nan neg false else norm
  | .e2m1 => norm

/-- `m * 2^-k` rounded to an integer by the mode; `neg` is the sign of the whole value. The flag says
that the value changed. -/
def roundShift (m k : Nat) (neg : Bool) (rm : RMode) : Nat × Bool :=
  let n := m / 2 ^ k
  let r := m % 2 ^ k
  if r = 0 then (n, false)
  else
    let up : Bool := match rm with
      | .rne => decide (2 ^ k < 2 * r) || (decide (2 * r = 2 ^ k) && n % 2 == 1)
      | .rtz => false
      | .rdn => neg
      | .rup => !neg
      | .rna => decide (2 ^ k ≤ 2 * r)
    (if up then n + 1 else n, true)

/-- `m * 2^s` rounded to an integer (R149 round_integer). -/
def roundScaled (m : Nat) (s : Int) (neg : Bool) (rm : RMode) : Nat × Bool :=
  match s with
  | .ofNat k => (m * 2 ^ k, false)
  | .negSucc k => roundShift m (k + 1) neg rm

/-- Whether the setting saturates for this destination (R147, R150): DEF saturates E4M3, E5M2 and E2M1. -/
def Fmt.saturates (f : Fmt) (s : SatMode) : Bool :=
  match s with
  | .sat => true
  | .nosat => false
  | .dflt => f == e4m3 || f == e5m2 || f == e2m1

/-- Overflow of a finite value (R150). -/
def Fmt.overflow (f : Fmt) (neg : Bool) (r : RndMode) : Nat × Flags :=
  let sg := f.signBit neg
  match f.kind with
  | .e2m1 => (sg + f.largestCode, fST ||| fNX)
  | .e4m3 =>
    if f.saturates r.sat then (sg + f.largestCode, fST ||| fNX) else (sg + 0x7F, fOF ||| fNX)
  | .ieee =>
    if f.saturates r.sat then (sg + f.largestCode, fST ||| fNX)
    else
      let big : Bool := match r.rm with
        | .rne => false
        | .rna => false
        | .rtz => true
        | .rdn => !neg
        | .rup => neg
      (sg + (if big then f.largestCode else f.infCode), fOF ||| fNX)

/-- The code of `n * 2^(e - mb)` with `n < 2^(mb+1)` and `e` the exponent R149 uses. -/
def Fmt.pack (f : Fmt) (neg : Bool) (n : Nat) (e : Int) : Nat :=
  f.signBit neg +
    (if n < 2 ^ f.mb then n else ((e + f.bias).toNat) * 2 ^ f.mb + (n - 2 ^ f.mb))

/-- round(x, fmt, mode, sat) (R149, R150): the code and the flags it raises. -/
def Fmt.round (f : Fmt) (x : FVal) (r : RndMode) : Nat × Flags :=
  match x with
  | .nan neg sig =>
    match f.kind with
    | .ieee => (f.canonNaN, if sig then fNV else 0)
    | .e4m3 => (f.signBit neg + 0x7F, if sig then fNV else 0)
    | .e2m1 => (0, fNV)
  | .inf neg =>
    match f.kind with
    | .ieee =>
      if f.saturates r.sat then (f.signBit neg + f.largestCode, fST) else (f.signBit neg + f.infCode, 0)
    | .e4m3 =>
      if f.saturates r.sat then (f.signBit neg + f.largestCode, fST) else (f.signBit neg + 0x7F, fNV)
    | .e2m1 => (f.signBit neg + f.largestCode, fST)
  | .fin neg m ex =>
    if m = 0 then (f.signBit neg, 0)
    else
      let e0 : Int := max ((Nat.log2 m : Int) + ex) (1 - (f.bias : Int))
      let q := roundScaled m (ex + f.mb - e0) neg r.rm
      let carry := q.1 = 2 ^ (f.mb + 1)
      let n := if carry then 2 ^ f.mb else q.1
      let e := if carry then e0 + 1 else e0
      let code := f.pack false n e
      if f.largestCode < code then f.overflow neg r
      else
        (f.signBit neg + code,
          (if q.2 then fNX else 0) ||| (if q.2 && decide (n < 2 ^ f.mb) then fUF else 0))

/-- The largest exponent code can exceed the format: R149 compares magnitudes, and codes of one sign
are ordered as magnitudes. -/
def Fmt.isNaN (f : Fmt) (c : Nat) : Bool :=
  match f.value c with
  | .nan _ _ => true
  | _ => false

/-- Whether a value is a signalling NaN. -/
def FVal.snan : FVal → Bool
  | .nan _ s => s
  | _ => false

/-- Whether a value is a NaN. -/
def FVal.isNaN : FVal → Bool
  | .nan _ _ => true
  | _ => false

/-- Whether a value is infinite. -/
def FVal.isInf : FVal → Bool
  | .inf _ => true
  | _ => false

/-- The sign of a value. -/
def FVal.neg : FVal → Bool
  | .nan n _ => n
  | .inf n => n
  | .fin n _ _ => n

/-- The value with the other sign. -/
def FVal.negate : FVal → FVal
  | .nan n s => .nan (!n) s
  | .inf n => .inf (!n)
  | .fin n m e => .fin (!n) m e

/-- The signed integer `m`, as an exact value with exponent `e`; the sign of an exact zero is `z`. -/
def FVal.ofInt (v : Int) (e : Int) (z : Bool) : FVal :=
  if v = 0 then .fin z 0 e else .fin (decide (v < 0)) v.natAbs e

/-- The signed integer of a finite value at exponent `e`, which is at most its own. -/
def scaledInt (neg : Bool) (m : Nat) (ex e : Int) : Int :=
  let v : Int := m * 2 ^ (ex - e).toNat
  if neg then -v else v

/-- The quiet NaN that an invalid operation gives, before rounding makes it canonical. -/
def qnan : FVal := .nan false false

/-- x + y, exact (R151, R154): the value, and NV for a signalling operand or for opposite infinities.
`rm` decides the sign of an exact zero sum. -/
def FVal.add (x y : FVal) (rm : RMode) : FVal × Flags :=
  let nv : Flags := if x.snan || y.snan then fNV else 0
  match x, y with
  | .nan _ _, _ => (qnan, nv)
  | _, .nan _ _ => (qnan, nv)
  | .inf a, .inf b => if a = b then (.inf a, 0) else (qnan, fNV)
  | .inf a, _ => (.inf a, 0)
  | _, .inf b => (.inf b, 0)
  | .fin a m1 e1, .fin b m2 e2 =>
    if m1 = 0 ∧ m2 = 0 then (.fin (if a = b then a else rm == .rdn) 0 e1, 0)
    else
      let e := min e1 e2
      (FVal.ofInt (scaledInt a m1 e1 e + scaledInt b m2 e2 e) e (rm == .rdn), 0)

/-- x * y, exact (R151, R154). -/
def FVal.mul (x y : FVal) : FVal × Flags :=
  let nv : Flags := if x.snan || y.snan then fNV else 0
  let sg := x.neg != y.neg
  match x, y with
  | .nan _ _, _ => (qnan, nv)
  | _, .nan _ _ => (qnan, nv)
  | .inf _, .inf _ => (.inf sg, 0)
  | .inf _, .fin _ m _ => if m = 0 then (qnan, fNV) else (.inf sg, 0)
  | .fin _ m _, .inf _ => if m = 0 then (qnan, fNV) else (.inf sg, 0)
  | .fin _ m1 e1, .fin _ m2 e2 => (.fin sg (m1 * m2) (e1 + e2), 0)

/-- x / y (R251): the quotient carried to 80 bits below the divisor's length with a sticky bit, which
every format rounds as the exact quotient; DZ and NV as the entry gives. -/
def FVal.div (x y : FVal) : FVal × Flags :=
  let nv : Flags := if x.snan || y.snan then fNV else 0
  let sg := x.neg != y.neg
  match x, y with
  | .nan _ _, _ => (qnan, nv)
  | _, .nan _ _ => (qnan, nv)
  | .inf _, .inf _ => (qnan, fNV)
  | .inf _, .fin _ _ _ => (.inf sg, 0)
  | .fin _ _ _, .inf _ => (.fin sg 0 0, 0)
  | .fin _ m1 e1, .fin _ m2 e2 =>
    if m2 = 0 then (if m1 = 0 then (qnan, fNV) else (.inf sg, fDZ))
    else
      let k := 80 + Nat.log2 m2
      let q := m1 * 2 ^ k / m2
      let st := if m1 * 2 ^ k % m2 = 0 then 0 else 1
      (.fin sg (2 * q + st) (e1 - e2 - k - 1), 0)

/-- The integer square root of `n`, one bit at a time from bit `k - 1` down, above the part `r` found. -/
def isqrtFrom (n : Nat) : Nat → Nat → Nat
  | 0, r => r
  | k + 1, r => if (r + 2 ^ k) * (r + 2 ^ k) ≤ n then isqrtFrom n k (r + 2 ^ k) else isqrtFrom n k r

/-- The square root (R275): carried far enough with a sticky bit that every format rounds it as the
exact root. -/
def FVal.sqrt (x : FVal) : FVal × Flags :=
  match x with
  | .nan _ s => (qnan, if s then fNV else 0)
  | .inf neg => if neg then (qnan, fNV) else (.inf false, 0)
  | .fin neg m e =>
    if m = 0 then (.fin neg 0 e, 0)
    else if neg then (qnan, fNV)
    else
      let k := 80 + (e % 2).toNat
      let n := m * 2 ^ k
      let r := isqrtFrom n ((Nat.log2 n + 2) / 2) 0
      let st := if r * r = n then 0 else 1
      (.fin false (2 * r + st) ((e - k) / 2 - 1), 0)

/-- a * b + c, exact (R276). -/
def FVal.fma (a b c : FVal) (rm : RMode) : FVal × Flags :=
  let p := a.mul b
  if (p.1.isNaN && !(a.isNaN || b.isNaN)) then (qnan, fNV)
  else if a.isNaN || b.isNaN || c.isNaN then
    (qnan, if a.snan || b.snan || c.snan then fNV else 0)
  else
    let t := p.1.add c rm
    (t.1, t.2)

/-- The signed integer nearest a value by the mode, with whether it changed; 0 for NaN and infinities. -/
def FVal.toIntRound (x : FVal) (rm : RMode) : Int × Bool :=
  match x with
  | .fin neg m e =>
    let q := roundScaled m e neg rm
    ((if neg then -(q.1 : Int) else q.1), q.2)
  | _ => (0, false)

/-- Conversion of a floating value to an integer from `lo` to `hi` (R150): clamp and NV out of range,
0 and NV for NaN, NX when the value changes in range. -/
def FVal.toIntClamp (x : FVal) (lo hi : Int) (rm : RMode) : Int × Flags :=
  match x with
  | .nan _ _ => (0, fNV)
  | .inf neg => (if neg then lo else hi, fNV)
  | .fin _ _ _ =>
    let q := x.toIntRound rm
    if q.1 < lo then (lo, fNV)
    else if hi < q.1 then (hi, fNV)
    else (q.1, if q.2 then fNX else 0)

/-- x < y for values that are not NaN. -/
def FVal.lt (x y : FVal) : Bool :=
  match x, y with
  | .nan _ _, _ => false
  | _, .nan _ _ => false
  | .inf a, .inf b => a && !b
  | .inf a, .fin _ _ _ => a
  | .fin _ _ _, .inf b => !b
  | .fin a m1 e1, .fin b m2 e2 =>
    let e := min e1 e2
    decide (scaledInt a m1 e1 e < scaledInt b m2 e2 e)

/-- x = y for values that are not NaN; the zeros are equal. -/
def FVal.eqv (x y : FVal) : Bool :=
  match x, y with
  | .inf a, .inf b => a == b
  | .fin a m1 e1, .fin b m2 e2 =>
    let e := min e1 e2
    decide (scaledInt a m1 e1 e = scaledInt b m2 e2 e)
  | _, _ => false

/-- The exact value of an integer. -/
def FVal.int (v : Int) : FVal := FVal.ofInt v 0 false

/-! FP32 operations on 32-bit codes (R251, R154): each gives the result and the flags raised. -/

/-- A two-source FP32 operation that rounds once. -/
def f32round (p : FVal × Flags) (r : RndMode) : Nat × Flags :=
  let q := fp32.round p.1 r
  (q.1, p.2 ||| q.2)

/-- FADD.F32. -/
def f32add (a b : Nat) (r : RndMode) : Nat × Flags :=
  f32round ((fp32.value a).add (fp32.value b) r.rm) r

/-- FSUB.F32: the sign of the subtrahend is inverted first (R154). -/
def f32sub (a b : Nat) (r : RndMode) : Nat × Flags :=
  f32round ((fp32.value a).add (fp32.value b).negate r.rm) r

/-- FMUL.F32. -/
def f32mul (a b : Nat) (r : RndMode) : Nat × Flags := f32round ((fp32.value a).mul (fp32.value b)) r

/-- FDIV.F32. -/
def f32div (a b : Nat) (r : RndMode) : Nat × Flags := f32round ((fp32.value a).div (fp32.value b)) r

/-- VSQRT.F32. -/
def f32sqrt (a : Nat) (r : RndMode) : Nat × Flags := f32round (fp32.value a).sqrt r

/-- VFMA.F32, and VFNMA.F32 when `sub` (R276). -/
def f32fma (sub : Bool) (a b c : Nat) (r : RndMode) : Nat × Flags :=
  let x := fp32.value a
  f32round ((if sub then x.negate else x).fma (fp32.value b) (fp32.value c) r.rm) r

/-- FMIN.F32, and FMAX.F32 when `mx` (R251): the zeros are ordered, one NaN gives the other operand. -/
def f32minmax (mx : Bool) (a b : Nat) : Nat × Flags :=
  let x := fp32.value a
  let y := fp32.value b
  let nv : Flags := if x.snan || y.snan then fNV else 0
  if x.isNaN && y.isNaN then (fp32.canonNaN, nv)
  else if x.isNaN then (b, nv)
  else if y.isNaN then (a, nv)
  else
    let less := x.lt y || (x.eqv y && x.neg && !y.neg)
    (if less != mx then a else b, nv)

/-- FLT.F32 (strict) or the ≤ of VCMPLE: NV if either operand is NaN. -/
def f32less (orEq : Bool) (a b : Nat) : Bool × Flags :=
  let x := fp32.value a
  let y := fp32.value b
  if x.isNaN || y.isNaN then (false, fNV) else (x.lt y || (orEq && x.eqv y), 0)

/-- FEQ.F32: NV only for a signalling NaN. -/
def f32eq (a b : Nat) : Bool × Flags :=
  let x := fp32.value a
  let y := fp32.value b
  (x.eqv y, if x.snan || y.snan then fNV else 0)

/-! Block-scaled formats (R155 to R157). -/

/-- The six block-scaled formats, in the order of Table 6.5. -/
inductive BFmt where
  | b48e4m3 | b48e5m2 | b48e2m1 | b48i8 | b48i4 | b48t2
  deriving DecidableEq, Repr

/-- Bits of an element. -/
def BFmt.ebits : BFmt → Nat
  | .b48e4m3 => 8
  | .b48e5m2 => 8
  | .b48e2m1 => 4
  | .b48i8 => 8
  | .b48i4 => 4
  | .b48t2 => 2

/-- Element bytes per block (Table 6.5). -/
def BFmt.nb (f : BFmt) : Nat := 6 * f.ebits

/-- etop (Table 6.5). -/
def BFmt.etop : BFmt → Int
  | .b48e4m3 => 8
  | .b48e5m2 => 15
  | .b48e2m1 => 2
  | .b48i8 => 6
  | .b48i4 => 2
  | .b48t2 => 0

/-- The code of a trit (R145). -/
def tritCode (t : Int) : Nat := if t = 0 then 0 else if 0 < t then 1 else 3

/-- The value of an element code (R143, R145, R155). A T2 code 0b10 is invalid and reads as a NaN that
raises NV (R146, R287). -/
def BFmt.elem (f : BFmt) (c : Nat) : FVal :=
  match f with
  | .b48e4m3 => e4m3.value c
  | .b48e5m2 => e5m2.value c
  | .b48e2m1 => e2m1.value c
  | .b48i8 => .int (sextNat c 8)
  | .b48i4 => .int (sextNat c 4)
  | .b48t2 => match c % 4 with
    | 0 => .int 0
    | 1 => .int 1
    | 3 => .int (-1)
    | _ => .nan false true

/-- The value times 2^k, exactly. -/
def FVal.scale (x : FVal) (k : Int) : FVal :=
  match x with
  | .fin n m e => .fin n m (e + k)
  | y => y

/-- R157: an integer element is rounded by the mode and clamped with ST and NX under every setting. -/
def roundElemInt (x : FVal) (lo hi : Int) (rm : RMode) : Int × Flags :=
  let q := x.toIntRound rm
  if q.1 < lo then (lo, fST ||| fNX)
  else if hi < q.1 then (hi, fST ||| fNX)
  else (q.1, if q.2 then fNX else 0)

/-- One element of R157, from the value already scaled. -/
def BFmt.roundElem (f : BFmt) (x : FVal) (r : RndMode) : Nat × Flags :=
  match f with
  | .b48e4m3 => e4m3.round x r
  | .b48e5m2 => e5m2.round x r
  | .b48e2m1 => e2m1.round x r
  | .b48i8 => let q := roundElemInt x (-128) 127 r.rm; (wrapInt q.1 8, q.2)
  | .b48i4 => let q := roundElemInt x (-8) 7 r.rm; (wrapInt q.1 4, q.2)
  | .b48t2 => let q := roundElemInt x (-1) 1 r.rm; (tritCode q.1, q.2)

/-- floor(log2 |x|) of the largest magnitude of a list of finite values; none when all are zero. -/
def maxExp : List FVal → Option Int
  | [] => none
  | .fin _ m e :: l =>
    if m = 0 then maxExp l
    else match maxExp l with
      | none => some ((Nat.log2 m : Int) + e)
      | some v => some (max v ((Nat.log2 m : Int) + e))
  | _ :: l => maxExp l

/-- The NaN fill of quant_block (R157). -/
def BFmt.nanFill : BFmt → Nat
  | .b48e4m3 => 0x7F
  | .b48e5m2 => 0x7E
  | _ => 0

/-- The flags of a list of results. -/
def orFlags (l : List (Nat × Flags)) : Flags := l.foldl (fun f p => f ||| p.2) 0

/-- quant_block (R157) on exact values: the scale, the element codes, the flags. -/
def quantBlock (f : BFmt) (x : List FVal) (r : RndMode) : Nat × List Nat × Flags :=
  if x.any (fun v => v.isNaN || v.isInf) then (255, x.map (fun _ => f.nanFill), fNV)
  else
    let s : Nat := match maxExp x with
      | none => 127
      | some e => (max 0 (min 254 (e - f.etop + 127))).toNat
    let el := x.map (fun v => f.roundElem (v.scale (127 - (s : Int))) r)
    (s, el.map (·.1), orFlags el)

/-- Element `i` of a block with scale `s` (R156). -/
def BFmt.blockValue (f : BFmt) (s c : Nat) : FVal :=
  if s = 255 then qnan else (f.elem c).scale ((s : Int) - 127)

/-! Lists of lanes and packed codes. -/

/-- A list of codes of `w` bits each packed little-endian into a number. -/
def packCodes (w : Nat) : List Nat → Nat
  | [] => 0
  | c :: l => c % 2 ^ w + 2 ^ w * packCodes w l

/-- The first `n` codes of `w` bits of a number. -/
def unpackCodes (w v : Nat) : Nat → List Nat
  | 0 => []
  | n + 1 => v % 2 ^ w :: unpackCodes w (v / 2 ^ w) n

end Sys2Proof.Machine
end

