-- ==== Sys2Proof/Config.lean ====
section
/-! DEFINITION. What an implementation fixes, and the free values the manual leaves open.
A free value is an opaque constant: no proof can see what it is. -/

namespace Sys2Proof.Config

/-- Free (log 9). Whether a pending register yields its earlier value when an undersized gap executes
with c.chk.EN = 0: R233 allows either value. Applied to the free-value counter of the state. -/
opaque earlierValue : Nat → Bool

/-- The value of a line register of a bank unit that RD and the ALU both write in one micro-word, from the line read and the ALU's
result: the manual gives none (log 14). -/
opaque buBoth : BitVec 512 → BitVec 512 → BitVec 512

/-- Free (log 9). Which of several pending registers the cause of a gap trap names (R233), by the details of those
registers alone, so that equal groups name equal registers (R7). -/
opaque pendingPick : List Nat → Nat

/-- Free (log 14). The bank, 0 to 15, in which a 1 KiB row of a channel lies: the manual gives no rule
(R10), and the choice changes timing only. -/
opaque bankOfRow : Nat → Nat

/-- Free (log 14). How many activations of a bank bring on refresh management: R108 leaves the thresholds to the stack. -/
opaque rfmThreshold : Nat

/-- Free (log 11). SHA-384 of a list of bytes (R421, R425): named by the manual, not defined in it. -/
opaque sha384 : List Byte → BitVec 384

/-- Free (log 11). The ECDSA P-384 signature the root of trust makes over a list of bytes (R422, R427). -/
opaque ecdsaP384 : List Byte → BitVec 768

/-- Free (log 11). The bytes of an SPDM 1.3 answer: request code, request bytes, measurement bytes (R422). -/
opaque spdmAnswer : Nat → List Byte → List Byte → List Byte

/-- Free (log 17). A value of the register that R433 and its like leave unstated, by a plain counter. -/
opaque freeWord : Nat → Word

/-- Free (log 9). Which of the two results a register written under an undersized gap ends with. -/
opaque laterResult : Nat → Bool

/-- Free (log 19). The node one hop from a node by its neighbour port 0 east, 1 west, 2 north, 3 south (R351):
the manual gives no geometry of the rill cores. -/
opaque neighbour : Nat → Nat → Nat

/-- Free (log 19). How many messages the output of a neighbour port holds (R354): the manual gives no number. -/
opaque portDepth : Nat

/-- Free (log 20). Which packages exist beside a node's own (R356): the machine that is built decides it. -/
opaque packagePresent : Nat → Bool

/-- Free (log 29). The handle that the device assigns to a new context, by a plain counter (Table 15.1): it is 12 bits wide and
names no other live context, and the manual says no more. -/
opaque newHandle : Nat → Nat

/-- Free (log 20). Whether every route between two packages of a list crosses a transit package (R419): the cabling of the
machine decides it. -/
opaque transitPath : List Nat → Nat → Nat → Bool

/-- Free (log 85). Whether a route between two packages is left when the links listed, each as its package and its number, are out
of service (R420): the cabling of the machine decides it. -/
opaque routeLeft : List (Nat × Nat) → Nat → Nat → Bool

/-- Number of packages of a pod (R417). -/
def podSize : Nat := 2048

/-- Compute dies of a package (R1). -/
def dies : Nat := 4

/-- Physical cores of a die: 64 active and 4 spare (Table 0.1, Table 1.1). -/
def coresPerDie : Nat := 68

/-- Active cores of a die (R1). -/
def activePerDie : Nat := 64

end Sys2Proof.Config
end

