-- ==== Sys2Proof/Syntax.lean ====
section
/-! DEFINITION. The instructions and device events of spec/opcode_table.json, one constructor a row. -/

namespace Sys2Proof

/-- The RND settings of a group (Table 9.4): FMASK suppresses flags, SAT and RM override c.rmode. -/
structure Rnd where
  fmask : BitVec 6
  sat : Fin 4
  rm : Fin 8
  deriving DecidableEq, Repr

/-- The fields of Table 13.1: the two AFTER token registers in use and the requested priority. -/
structure After where
  e0 : Option (Fin 16)
  e1 : Option (Fin 16)
  pri : Fin 16
  deriving DecidableEq, Repr

/-- One constructor for each row of the opcode table. Register operands are field values (R224),
`rnd` and `w` are the RND and WAIT settings a group may carry (R227), `imm` and `off` are the whole
immediate of R225. Device events (spec/95) carry no operand: what the event concerns (a message of the
net, an operation, a core, a unit, what the host writes) stands in the state (State.ev). -/
inductive Instr where
  /-- R246. Writes the 64-bit sum of xa and xb to xd. -/
  | add (d a b : Fin 32)
  /-- R246. Writes xa minus xb to xd. -/
  | sub (d a b : Fin 32)
  /-- R246. Writes the bitwise AND of xa and xb to xd. -/
  | and (d a b : Fin 32)
  /-- R246. Writes the bitwise OR of xa and xb to xd. -/
  | or (d a b : Fin 32)
  /-- R246. Writes the bitwise XOR of xa and xb to xd. -/
  | xor (d a b : Fin 32)
  /-- R246. Shifts xa left by xb[5:0] into xd. -/
  | sll (d a b : Fin 32)
  /-- R246. Shifts xa right by xb[5:0] with zeros in, into xd. -/
  | srl (d a b : Fin 32)
  /-- R246. Shifts xa right by xb[5:0] with sign copies in, into xd. -/
  | sra (d a b : Fin 32)
  /-- R246. Writes 1 to xd if xa is below xb signed, else 0. -/
  | slt (d a b : Fin 32)
  /-- R246. Writes 1 to xd if xa is below xb unsigned, else 0. -/
  | sltn (d a b : Fin 32)
  /-- R246. Writes the signed smaller of xa and xb to xd. -/
  | min (d a b : Fin 32)
  /-- R246. Writes the signed larger of xa and xb to xd. -/
  | max (d a b : Fin 32)
  /-- R246. Writes the unsigned smaller of xa and xb to xd. -/
  | minn (d a b : Fin 32)
  /-- R246. Writes the unsigned larger of xa and xb to xd. -/
  | maxn (d a b : Fin 32)
  /-- R246. Writes xa AND NOT xb to xd. -/
  | andn (d a b : Fin 32)
  /-- R246. Writes xa OR NOT xb to xd. -/
  | orn (d a b : Fin 32)
  /-- R247. Writes the low 64 bits of xa times xb to xd. -/
  | mul (d a b : Fin 32)
  /-- R247. Writes the high 64 bits of the signed product to xd. -/
  | mulh (d a b : Fin 32)
  /-- R247. Writes the high 64 bits of the unsigned product to xd. -/
  | mulhn (d a b : Fin 32)
  /-- R247. Writes the high 64 bits of signed xa times unsigned xb to xd. -/
  | mulhsn (d a b : Fin 32)
  /-- R247. Blocking signed division toward zero with defined results for zero and overflow. -/
  | div (d a b : Fin 32)
  /-- R247. Blocking unsigned division with all ones for a zero divisor. -/
  | divn (d a b : Fin 32)
  /-- R247. Blocking signed remainder with defined results for zero and overflow. -/
  | rem (d a b : Fin 32)
  /-- R247. Blocking unsigned remainder returning xa for a zero divisor. -/
  | remn (d a b : Fin 32)
  /-- R247. Writes the count of leading zero bits of xa to xd. -/
  | clz (d a : Fin 32)
  /-- R247. Writes the count of trailing zero bits of xa to xd. -/
  | ctz (d a : Fin 32)
  /-- R247. Writes the count of one bits of xa to xd. -/
  | popc (d a : Fin 32)
  /-- R247. Writes xa with its bytes reversed to xd. -/
  | rev8 (d a : Fin 32)
  /-- R248. Writes xa plus the immediate to xd. -/
  | addi (d a : Fin 32) (imm : BitVec 34)
  /-- R248. Writes xa AND the immediate to xd. -/
  | andi (d a : Fin 32) (imm : BitVec 34)
  /-- R248. Writes xa OR the immediate to xd. -/
  | ori (d a : Fin 32) (imm : BitVec 34)
  /-- R248. Writes xa XOR the immediate to xd. -/
  | xori (d a : Fin 32) (imm : BitVec 34)
  /-- R248. Shifts xa left by an immediate 0 to 63 into xd. -/
  | slli (d a : Fin 32) (imm : BitVec 34)
  /-- R248. Shifts xa right logically by an immediate 0 to 63 into xd. -/
  | srli (d a : Fin 32) (imm : BitVec 34)
  /-- R248. Shifts xa right arithmetically by an immediate 0 to 63 into xd. -/
  | srai (d a : Fin 32) (imm : BitVec 34)
  /-- R248. Writes 1 to xd if xa is below the immediate signed. -/
  | slti (d a : Fin 32) (imm : BitVec 34)
  /-- R248. Writes 1 to xd if xa is below the sign-extended immediate unsigned. -/
  | sltni (d a : Fin 32) (imm : BitVec 34)
  /-- R249. Writes the immediate to xd. -/
  | movi (d : Fin 32) (imm : BitVec 34)
  /-- R249. Writes the low 8 bits of xa sign-extended to xd. -/
  | sext8 (d a : Fin 32)
  /-- R249. Writes the low 16 bits of xa sign-extended to xd. -/
  | sext16 (d a : Fin 32)
  /-- R249. Writes the low 32 bits of xa sign-extended to xd. -/
  | sext32 (d a : Fin 32)
  /-- R249. Writes the low 8 bits of xa zero-extended to xd. -/
  | zext8 (d a : Fin 32)
  /-- R249. Writes the low 16 bits of xa zero-extended to xd. -/
  | zext16 (d a : Fin 32)
  /-- R249. Writes the low 32 bits of xa zero-extended to xd. -/
  | zext32 (d a : Fin 32)
  /-- R252. Branches by a word offset when xa equals xb. -/
  | beq (a b : Fin 32) (off : BitVec 34)
  /-- R252. Branches by a word offset when xa differs from xb. -/
  | bne (a b : Fin 32) (off : BitVec 34)
  /-- R252. Branches when xa is below xb signed. -/
  | blt (a b : Fin 32) (off : BitVec 34)
  /-- R252. Branches when xa is at least xb signed. -/
  | bge (a b : Fin 32) (off : BitVec 34)
  /-- R252. Branches when xa is below xb unsigned. -/
  | bltn (a b : Fin 32) (off : BitVec 34)
  /-- R252. Branches when xa is at least xb unsigned. -/
  | bgen (a b : Fin 32) (off : BitVec 34)
  /-- R253. Jumps by a 19-bit word offset from the group's first word. -/
  | jmp (off : BitVec 44)
  /-- R253. Jumps by a word offset and writes the next group address to x1. -/
  | jal (off : BitVec 44)
  /-- R253. Jumps to xa plus the immediate and writes the next group address to xd. -/
  | jalr (d a : Fin 32) (imm : BitVec 34)
  /-- R255. Sets up or skips a hardware loop body at level N. -/
  | loop (n : Fin 2) (a : Fin 32) (imm : BitVec 34)
  /-- R254. Branches when every bit of the mask is zero. -/
  | bmaskNone (m : Fin 8) (off : BitVec 34)
  /-- R254. Branches when the mask holds at least one set bit. -/
  | bmaskAny (m : Fin 8) (off : BitVec 34)
  /-- R254. Branches when all 48 mask bits are set. -/
  | bmaskAll (m : Fin 8) (off : BitVec 34)
  /-- R361. On a rill core, branches when flag fN is 0. -/
  | bflClr (n : Fin 16) (off : BitVec 34)
  /-- R361. On a rill core, branches when flag fN is 1. -/
  | bflSet (n : Fin 16) (off : BitVec 34)
  /-- R260. Raises the TRAP-instruction trap with a code from 0 to 31. -/
  | trap (code : Fin 32)
  /-- R251. Adds two FP32 values with one rounding. -/
  | faddF32 (rnd : Option Rnd) (d a b : Fin 32)
  /-- R251. Subtracts two FP32 values with one rounding. -/
  | fsubF32 (rnd : Option Rnd) (d a b : Fin 32)
  /-- R251. Multiplies two FP32 values with one rounding. -/
  | fmulF32 (rnd : Option Rnd) (d a b : Fin 32)
  /-- R251. Blocking FP32 division with one rounding. -/
  | fdivF32 (rnd : Option Rnd) (d a b : Fin 32)
  /-- R251. Writes the smaller FP32 operand, with NaN rules. -/
  | fminF32 (rnd : Option Rnd) (d a b : Fin 32)
  /-- R251. Writes the larger FP32 operand, with NaN rules. -/
  | fmaxF32 (rnd : Option Rnd) (d a b : Fin 32)
  /-- R251. Writes 1 if xa is below xb as FP32. -/
  | fltF32 (rnd : Option Rnd) (d a b : Fin 32)
  /-- R251. Writes 1 if xa equals xb as FP32. -/
  | feqF32 (rnd : Option Rnd) (d a b : Fin 32)
  /-- R251. Converts the I64 in xa to FP32. -/
  | cvtF32I64 (rnd : Option Rnd) (d a : Fin 32)
  /-- R251. Converts the FP32 in xa to I64 by the mode, clamping with NV. -/
  | cvtI64F32 (rnd : Option Rnd) (d a : Fin 32)
  /-- R296. Blocking load of one byte, sign-extended. -/
  | ldI8 (w : Option (Fin 4)) (d a : Fin 32) (imm : BitVec 34)
  /-- R296. Blocking load of one byte, zero-extended. -/
  | ldN8 (w : Option (Fin 4)) (d a : Fin 32) (imm : BitVec 34)
  /-- R296. Blocking load of two bytes, sign-extended. -/
  | ldI16 (w : Option (Fin 4)) (d a : Fin 32) (imm : BitVec 34)
  /-- R296. Blocking load of two bytes, zero-extended. -/
  | ldN16 (w : Option (Fin 4)) (d a : Fin 32) (imm : BitVec 34)
  /-- R296. Blocking load of four bytes, sign-extended. -/
  | ldI32 (w : Option (Fin 4)) (d a : Fin 32) (imm : BitVec 34)
  /-- R296. Blocking load of four bytes, zero-extended. -/
  | ldN32 (w : Option (Fin 4)) (d a : Fin 32) (imm : BitVec 34)
  /-- R296. Blocking load of eight bytes. -/
  | ld64 (w : Option (Fin 4)) (d a : Fin 32) (imm : BitVec 34)
  /-- R296. Stores one byte of xs. -/
  | st8 (w : Option (Fin 4)) (s a : Fin 32) (imm : BitVec 34)
  /-- R296. Stores two bytes of xs. -/
  | st16 (w : Option (Fin 4)) (s a : Fin 32) (imm : BitVec 34)
  /-- R296. Stores four bytes of xs. -/
  | st32 (w : Option (Fin 4)) (s a : Fin 32) (imm : BitVec 34)
  /-- R296. Stores eight bytes of xs. -/
  | st64 (w : Option (Fin 4)) (s a : Fin 32) (imm : BitVec 34)
  /-- R298. Prefetch hint that changes no visible state and never traps. -/
  | prf (w : Option (Fin 4)) (a : Fin 32) (imm : BitVec 34)
  /-- R275. Adds FP32 lanes of va and vb. -/
  | vaddF32 (rnd : Option Rnd) (d a b : Fin 32)
  /-- R275. Subtracts FP32 lanes. -/
  | vsubF32 (rnd : Option Rnd) (d a b : Fin 32)
  /-- R275. Multiplies FP32 lanes. -/
  | vmulF32 (rnd : Option Rnd) (d a b : Fin 32)
  /-- R275. Blocking division of FP32 lanes. -/
  | vdivF32 (rnd : Option Rnd) (d a b : Fin 32)
  /-- R275. Lane-wise FP32 minimum. -/
  | vminF32 (rnd : Option Rnd) (d a b : Fin 32)
  /-- R275. Lane-wise FP32 maximum. -/
  | vmaxF32 (rnd : Option Rnd) (d a b : Fin 32)
  /-- R275. Clears the sign bit of each lane. -/
  | vabsF32 (rnd : Option Rnd) (d a : Fin 32)
  /-- R275. Inverts the sign bit of each lane. -/
  | vnegF32 (rnd : Option Rnd) (d a : Fin 32)
  /-- R275. Blocking lane-wise FP32 square root. -/
  | vsqrtF32 (rnd : Option Rnd) (d a : Fin 32)
  /-- R277. Adds 32-bit integer lanes modulo 2^32. -/
  | vaddI32 (d a b : Fin 32)
  /-- R277. Subtracts 32-bit integer lanes. -/
  | vsubI32 (d a b : Fin 32)
  /-- R277. Low 32 bits of lane products. -/
  | vmulI32 (d a b : Fin 32)
  /-- R277. Signed lane minimum. -/
  | vminI32 (d a b : Fin 32)
  /-- R277. Signed lane maximum. -/
  | vmaxI32 (d a b : Fin 32)
  /-- R277. Unsigned lane minimum. -/
  | vminN32 (d a b : Fin 32)
  /-- R277. Unsigned lane maximum. -/
  | vmaxN32 (d a b : Fin 32)
  /-- R277. Lane-wise bitwise AND. -/
  | vand (d a b : Fin 32)
  /-- R277. Lane-wise bitwise OR. -/
  | vor (d a b : Fin 32)
  /-- R277. Lane-wise bitwise XOR. -/
  | vxor (d a b : Fin 32)
  /-- R277. Lane-wise left shift by b[4:0]. -/
  | vsllI32 (d a b : Fin 32)
  /-- R277. Lane-wise logical right shift. -/
  | vsrlI32 (d a b : Fin 32)
  /-- R277. Lane-wise arithmetic right shift. -/
  | vsraI32 (d a b : Fin 32)
  /-- R278. Sets mask bits where FP32 lanes are equal. -/
  | vcmpeqF32 (d : Fin 8) (a b : Fin 32)
  /-- R278. Sets mask bits where FP32 lane a is below b. -/
  | vcmpltF32 (d : Fin 8) (a b : Fin 32)
  /-- R278. Sets mask bits where FP32 lane a is at most b. -/
  | vcmpleF32 (d : Fin 8) (a b : Fin 32)
  /-- R278. Sets mask bits where integer lanes are equal. -/
  | vcmpeqI32 (d : Fin 8) (a b : Fin 32)
  /-- R278. Sets mask bits where lane a is below b signed. -/
  | vcmpltI32 (d : Fin 8) (a b : Fin 32)
  /-- R278. Sets mask bits where lane a is below b unsigned. -/
  | vcmpltN32 (d : Fin 8) (a b : Fin 32)
  /-- R279. Selects lanes of va or vb by a mask. -/
  | vsel (d a b : Fin 32) (m : Fin 8)
  /-- R290. Blocking load of 192 bytes into a vector register, decoded by the page kind or alias window. -/
  | vld (w : Option (Fin 4)) (d a : Fin 32) (imm : BitVec 34)
  /-- R291. Stores a vector register, encoded by the alias window for SCR pages. -/
  | vst (w : Option (Fin 4)) (rnd : Option Rnd) (s a : Fin 32) (imm : BitVec 34)
  /-- R280. Writes xa[31:0] into every 32-bit lane. -/
  | vbcast32 (d a : Fin 32)
  /-- R280. Writes xa[15:0] into every 16-bit lane. -/
  | vbcast16 (d a : Fin 32)
  /-- R280. Writes xa[7:0] into every byte lane. -/
  | vbcast8 (d a : Fin 32)
  /-- R281. Moves lane xb of va, zero-extended, to xd. -/
  | vmovx (d a b : Fin 32)
  /-- R283. Converts I32 lanes to FP32. -/
  | vcvtF32I32 (rnd : Option Rnd) (d a : Fin 32)
  /-- R283. Converts FP32 lanes to I32. -/
  | vcvtI32F32 (rnd : Option Rnd) (d a : Fin 32)
  /-- R283. Narrows the FP32 lanes of va and vb to 96 BF16 lanes. -/
  | vcvtBf16F32 (rnd : Option Rnd) (d a b : Fin 32)
  /-- R283. Widens 48 BF16 lanes exactly to FP32. -/
  | vcvtF32Bf16 (rnd : Option Rnd) (d a : Fin 32)
  /-- R283. Narrows the FP32 lanes of va and vb to FP16. -/
  | vcvtF16F32 (rnd : Option Rnd) (d a b : Fin 32)
  /-- R283. Widens 48 FP16 lanes exactly to FP32. -/
  | vcvtF32F16 (rnd : Option Rnd) (d a : Fin 32)
  /-- R283. Converts FP32 lanes to E4M3 bytes. -/
  | vcvtE4m3F32 (rnd : Option Rnd) (d a : Fin 32)
  /-- R283. Converts FP32 lanes to E5M2 bytes. -/
  | vcvtE5m2F32 (rnd : Option Rnd) (d a : Fin 32)
  /-- R283. Widens E4M3 bytes to FP32. -/
  | vcvtF32E4m3 (rnd : Option Rnd) (d a : Fin 32)
  /-- R283. Widens E5M2 bytes to FP32. -/
  | vcvtF32E5m2 (rnd : Option Rnd) (d a : Fin 32)
  /-- R282. Permutes lanes of va by indices in vb. -/
  | vperm (d a b : Fin 32)
  /-- R282. Slides lanes up by xb, filling with zero. -/
  | vslideup (d a b : Fin 32)
  /-- R282. Slides lanes down by xb, filling with zero. -/
  | vslidedn (d a b : Fin 32)
  /-- R282. Interleaves the low lanes of va and vb. -/
  | vzip (d a b : Fin 32)
  /-- R282. Takes the even lanes of va followed by vb. -/
  | vunzip (d a b : Fin 32)
  /-- R282. Reverses the lane order. -/
  | vrev (d a : Fin 32)
  /-- R284. Sums masked FP32 lanes in the fixed pairwise tree. -/
  | vredAddF32 (rnd : Option Rnd) (d a : Fin 32) (m : Fin 8)
  /-- R284. Maximum of masked FP32 lanes. -/
  | vredMaxF32 (rnd : Option Rnd) (d a : Fin 32) (m : Fin 8)
  /-- R284. Minimum of masked FP32 lanes. -/
  | vredMinF32 (rnd : Option Rnd) (d a : Fin 32) (m : Fin 8)
  /-- R284. Exact I64 sum of masked I32 lanes. -/
  | vredAddI32 (rnd : Option Rnd) (d a : Fin 32) (m : Fin 8)
  /-- R285. AND of two mask registers. -/
  | mand (d a b : Fin 8)
  /-- R285. OR of two mask registers. -/
  | mor (d a b : Fin 8)
  /-- R285. XOR of two mask registers. -/
  | mxor (d a b : Fin 8)
  /-- R285. Inverts a mask register. -/
  | mnot (d a : Fin 8)
  /-- R285. Writes the count of set mask bits to xd. -/
  | mpopc (d : Fin 32) (a : Fin 8)
  /-- R285. Writes the index of the lowest set mask bit, or 48, to xd. -/
  | mfirst (d : Fin 32) (a : Fin 8)
  /-- R286. Quantises 48 FP32 lanes into a B48.E4M3 block image and scale. -/
  | vquantB48e4m3 (rnd : Option Rnd) (d a b : Fin 32)
  /-- R286. Quantises into a B48.E5M2 block. -/
  | vquantB48e5m2 (rnd : Option Rnd) (d a b : Fin 32)
  /-- R286. Quantises into a B48.E2M1 block. -/
  | vquantB48e2m1 (rnd : Option Rnd) (d a b : Fin 32)
  /-- R286. Quantises into a B48.I8 block. -/
  | vquantB48i8 (rnd : Option Rnd) (d a b : Fin 32)
  /-- R286. Quantises into a B48.I4 block. -/
  | vquantB48i4 (rnd : Option Rnd) (d a b : Fin 32)
  /-- R286. Quantises into a B48.T2 block. -/
  | vquantB48t2 (rnd : Option Rnd) (d a b : Fin 32)
  /-- R287. Dequantises a B48.E4M3 block image to FP32 lanes. -/
  | vdeqB48e4m3 (d a b : Fin 32)
  /-- R287. Dequantises a B48.E5M2 block. -/
  | vdeqB48e5m2 (d a b : Fin 32)
  /-- R287. Dequantises a B48.E2M1 block. -/
  | vdeqB48e2m1 (d a b : Fin 32)
  /-- R287. Dequantises a B48.I8 block. -/
  | vdeqB48i8 (d a b : Fin 32)
  /-- R287. Dequantises a B48.I4 block. -/
  | vdeqB48i4 (d a b : Fin 32)
  /-- R287. Dequantises a B48.T2 block. -/
  | vdeqB48t2 (d a b : Fin 32)
  /-- R293. Writes a vector register to a spill slot. -/
  | vspill (a : Fin 32) (slot : Fin 512)
  /-- R293. Blocking read of a spill slot into a vector register. -/
  | vfill (d : Fin 32) (slot : Fin 512)
  /-- R262. Blocking read of a control register into xd. -/
  | rdc (d : Fin 32) (cr : Fin 512)
  /-- R262. Writes xa to a control register under its access codes. -/
  | wrc (cr : Fin 512) (a : Fin 32)
  /-- R128. Blocks until journal entries within the scope have all replies. -/
  | fenceJ (scope : Fin 8)
  /-- R129. Blocks until earlier stores, and for wide scopes cache maintenance, are complete. -/
  | fenceM (scope : Fin 8)
  /-- R130. Blocks until earlier child operations in the scope have registered at their inboxes. -/
  | fenceK (scope : Fin 8)
  /-- R265. Translates a range and writes back its dirty lines to the stacks. -/
  | cleanr (w : Option (Fin 4)) (a b : Fin 32)
  /-- R265. Writes back and removes a range's lines from every cluster cache. -/
  | invalr (w : Option (Fin 4)) (a b : Fin 32)
  /-- R266. Reads, checks and accepts a launch record, registering its gates. -/
  | spawn (a : Fin 32)
  /-- R356. Rill core sends a message with a TYPE header to a node. -/
  | send (d a b : Fin 32)
  /-- R356. Rill core sends a message carrying a handler address. -/
  | sendh (d a b : Fin 32)
  /-- R357. Reads the next unread payload word of the current message. -/
  | recv (d : Fin 32)
  /-- R357. Loads 8 bytes of rill-core data memory. -/
  | recvLd (d a : Fin 32)
  /-- R357. Stores 8 bytes to rill-core data memory. -/
  | recvSt (a b : Fin 32)
  /-- R358. Sends a reply on the reply channel to the current message's source with its TAG. -/
  | reply (a b : Fin 32)
  /-- R360. Writes a rill-core dispatch entry in START or RECOVERY mode. -/
  | dtcfg (a b : Fin 32)
  /-- R363. Copies a 64-byte unit entry into the bank command queue. -/
  | bqpush (a : Fin 32)
  /-- R364. Blocks until a bank completion record is available and returns the oldest. -/
  | bqwait (d : Fin 32)
  /-- R362. Router adder adds two 192-byte FP32 blocks. -/
  | rcombAddF32 (d a b : Fin 32)
  /-- R362. Router adder lane-wise FP32 maximum. -/
  | rcombMaxF32 (d a b : Fin 32)
  /-- R362. Router adder lane-wise FP32 minimum. -/
  | rcombMinF32 (d a b : Fin 32)
  /-- R362. Router adder integer lane sum modulo 2^32. -/
  | rcombAddI32 (d a b : Fin 32)
  /-- R362. Router adder signed lane maximum. -/
  | rcombMaxI32 (d a b : Fin 32)
  /-- R362. Router adder signed lane minimum. -/
  | rcombMinI32 (d a b : Fin 32)
  /-- R362. Router adder widens 48 BF16 values to FP32. -/
  | rcombWidBf16 (d a : Fin 32)
  /-- R362. Router adder narrows 48 FP32 values to BF16. -/
  | rcombNarBf16 (d a : Fin 32)
  /-- R288. Adds two B48.E4M3 block records and requantises the sum. -/
  | baddqB48e4m3 (rnd : Option Rnd) (d a b : Fin 32)
  /-- R288. Adds two B48.E5M2 block records. -/
  | baddqB48e5m2 (rnd : Option Rnd) (d a b : Fin 32)
  /-- R288. Adds two B48.E2M1 block records. -/
  | baddqB48e2m1 (rnd : Option Rnd) (d a b : Fin 32)
  /-- R288. Adds two B48.I8 block records. -/
  | baddqB48i8 (rnd : Option Rnd) (d a b : Fin 32)
  /-- R288. Adds two B48.I4 block records. -/
  | baddqB48i4 (rnd : Option Rnd) (d a b : Fin 32)
  /-- R250. Writes a 27-bit or prefixed 52-bit immediate to xd. -/
  | movl (d : Fin 32) (imm : BitVec 52)
  /-- R250. Writes xa plus a long immediate to xd. -/
  | addl (d a : Fin 32) (imm : BitVec 52)
  /-- R52. Checks and queues the arming of W macros in a format, blocking until the sequencer re-encodes them. -/
  | arm (fmt : Fin 16) (a b c : Fin 32)
  /-- R54. Waits for matrix users then restores armed macros to plain. -/
  | disarm (a b : Fin 32)
  /-- R270. Creates or releases a plain W scratch window. -/
  | winallocW (a b : Fin 32)
  /-- R270. Creates or releases a plain A scratch window. -/
  | winallocA (a b : Fin 32)
  /-- R270. Creates or releases a C scratch window. -/
  | winallocC (a b : Fin 32)
  /-- R56. Creates a W landing region with tile size and generation. -/
  | winallocWl (tsize : Fin 16) (a b c : Fin 32)
  /-- R56. Creates an A landing region with tile size and generation. -/
  | winallocAl (tsize : Fin 16) (a b c : Fin 32)
  /-- R304. Posts one join of a contribution to a cell at a generation. -/
  | join (w : Fin 4) (ty : Fin 16) (af : Bool) (off : BitVec 16) (a g c : Fin 32)
  /-- R305. Posts one join per active lane, one message per freeze unit. -/
  | joinv (w : Fin 4) (ty : Fin 16) (m : Fin 8) (off : BitVec 16) (d a g c : Fin 32)
  /-- R307. Posts a fill of a FILL cell or landing tile from a register or memory source. -/
  | fill (w src : Fin 4) (sz : Fin 16) (off : BitVec 16) (a g c : Fin 32)
  /-- R308. Blocking threshold read that parks until a trigger passes or the unit settles. -/
  | thr (w : Fin 4) (ty : Fin 16) (nt : Fin 8) (sz : Fin 16) (off : BitVec 16) (d a g c : Fin 32)
  /-- R309. Blocking read that parks until the unit is frozen, in conflict or moved on. -/
  | thrF (w : Fin 4) (ty sz : Fin 16) (off : BitVec 16) (d a g : Fin 32)
  /-- R310. Posts a freeze of the cell's unit at a generation. -/
  | freeze (w : Fin 4) (ty sz : Fin 16) (off : BitVec 16) (a g : Fin 32)
  /-- R311. Posts a freeze of every unit that meets a byte range. -/
  | freezeR (w : Fin 4) (off : BitVec 16) (a g c : Fin 32)
  /-- R312. Blocking read of 1 to 8 bytes of a frozen image. -/
  | frd (w n : Fin 4) (off : BitVec 16) (d a g : Fin 32)
  /-- R313. Blocking read of 64 to 192 bytes of frozen images into a vector register. -/
  | frdv (w n : Fin 4) (off : BitVec 16) (d a g : Fin 32)
  /-- R314. Posts the advance of a unit from generation g to g + 1. -/
  | renew (w : Fin 4) (ty sz : Fin 16) (off : BitVec 16) (a g : Fin 32)
  /-- R323. Creates a BF16 matrix operation of armed weights against ring activations. -/
  | mxsBf16 (aft : After) (wrap z afmt : Bool) (ring : Fin 8) (k : Fin 16) (a b c : Fin 32)
  /-- R323. Creates an FP16 matrix operation. -/
  | mxsF16 (aft : After) (wrap z afmt : Bool) (ring : Fin 8) (k : Fin 16) (a b c : Fin 32)
  /-- R323. Creates an E4M3 or E5M2 matrix operation. -/
  | mxsF8 (aft : After) (wrap z afmt : Bool) (ring : Fin 8) (k : Fin 16) (a b c : Fin 32)
  /-- R323. Creates an E2M1 matrix operation. -/
  | mxsE2m1 (aft : After) (wrap z afmt : Bool) (ring : Fin 8) (k : Fin 16) (a b c : Fin 32)
  /-- R323. Creates an I8 matrix operation with I32 accumulators. -/
  | mxsI8 (aft : After) (wrap z afmt : Bool) (ring : Fin 8) (k : Fin 16) (a b c : Fin 32)
  /-- R323. Creates an I4 matrix operation with I32 accumulators. -/
  | mxsI4 (aft : After) (wrap z afmt : Bool) (ring : Fin 8) (k : Fin 16) (a b c : Fin 32)
  /-- R323. Creates a ternary-by-I8 matrix operation. -/
  | mxsT2 (aft : After) (wrap z afmt : Bool) (ring : Fin 8) (k : Fin 16) (a b c : Fin 32)
  /-- R323. Creates a block-scaled matrix operation. -/
  | mxsB48 (aft : After) (wrap z afmt : Bool) (ring : Fin 8) (k : Fin 16) (a b c : Fin 32)
  /-- R326. Creates an operation that zeroes M rows of C. -/
  | mxz (aft : After) (k : Fin 16) (b c : Fin 32)
  /-- R327. Creates the epilogue that scales and converts accumulators into A or C. -/
  | mxe (rnd : Option Rnd) (aft : After) (relu srci dbuf : Bool) (dfmt : Fin 8) (k : Fin 16) (a b c : Fin 32)
  /-- R328. Sets or clears a ring descriptor at issue. -/
  | ringcfg (ring : Fin 8) (a b : Fin 32)
  /-- R331. Creates a linear copy with optional conversion or ring push. -/
  | cpy (w : Fin 4) (rnd : Option Rnd) (aft : After) (dsp ssp : Fin 8) (conv : Fin 16) (ring : Fin 8) (k : Fin 16) (a b c : Fin 32)
  /-- R332. Creates an affine copy from a descriptor. -/
  | cpya (w : Fin 4) (rnd : Option Rnd) (aft : After) (dsp ssp ring : Fin 8) (k : Fin 16) (a b c : Fin 32)
  /-- R333. Creates a gather copy by an index table. -/
  | cpyg (w : Fin 4) (rnd : Option Rnd) (aft : After) (dsp ssp ring : Fin 8) (k : Fin 16) (a b c : Fin 32)
  /-- R333. Creates a scatter copy by an index table. -/
  | cpys (w : Fin 4) (rnd : Option Rnd) (aft : After) (dsp ssp : Fin 8) (k : Fin 16) (a b c : Fin 32)
  /-- R336. Creates a remote copy that fills cells or landing tiles. -/
  | cpyr (w : Fin 4) (aft : After) (ssp : Fin 8) (k : Fin 16) (a b c : Fin 32)
  /-- R334. Binds v24 + VREG to a stream operation. -/
  | sbind (w : Fin 4) (rnd : Option Rnd) (aft : After) (vreg ssp : Fin 8) (conv k : Fin 16) (b c : Fin 32)
  /-- R335. Unbinds a stream register and discards its queue. -/
  | sunbind (w : Fin 4) (vreg : Fin 8)
  /-- R338. Checks maintenance and creates a bank-unit call over 1 to 4 ranges. -/
  | bankcall (w : Fin 4) (aft : After) (nr : Fin 4) (entry k : Fin 16) (a b : Fin 32)
  /-- R343. Creates a gang all-reduce. -/
  | collAr (w : Fin 4) (rnd : Option Rnd) (aft : After) (rsp ssp : Fin 8) (k : Fin 16) (a b c : Fin 32)
  /-- R343. Creates a gang reduce-scatter. -/
  | collRs (w : Fin 4) (rnd : Option Rnd) (aft : After) (rsp ssp : Fin 8) (k : Fin 16) (a b c : Fin 32)
  /-- R343. Creates a gang all-gather. -/
  | collAg (w : Fin 4) (aft : After) (rsp ssp : Fin 8) (k : Fin 16) (a b c : Fin 32)
  /-- R344. Creates a gang all-to-all with count exchange. -/
  | collA2a (w : Fin 4) (aft : After) (rsp ssp : Fin 8) (k : Fin 16) (a b c : Fin 32)
  /-- R343. Creates a gang broadcast from a root. -/
  | collBc (w : Fin 4) (aft : After) (rsp ssp : Fin 8) (k : Fin 16) (a b c : Fin 32)
  /-- R199. Parks until an operation ends, then releases it or traps on failure. -/
  | wait (k : Fin 16)
  /-- R199. Parks until every masked operation ends, then releases them or traps. -/
  | waitm (mask : BitVec 16)
  /-- R203. Sends a cancel for an operation and retires at once. -/
  | cancel (k : Fin 16)
  /-- R204. Redirects an operation to report through a completion cell and frees its slot. -/
  | detach (k : Fin 16) (b c : Fin 32)
  /-- R207. Parks until a child task exits, then takes one of its orphans as a token. -/
  | adopt (k : Fin 16) (a : Fin 32)
  /-- R202. Lowers or sets an operation's priority. -/
  | kprio (k : Fin 16) (b : Fin 32)
  /-- R199. Parks until an operation ends, returns its fault record and releases it. -/
  | kstat (d : Fin 32) (k : Fin 16)
  /-- R346. Moves a token between token registers, emptying the source. -/
  | kmov (d a : Fin 16)
  /-- R276. Fused multiply-add of FP32 lanes with one rounding. -/
  | vfmaF32 (rnd : Option Rnd) (d a b c : Fin 32)
  /-- R276. Fused c minus a times b with one rounding. -/
  | vfnmaF32 (rnd : Option Rnd) (d a b c : Fin 32)
  /-- R276. Integer multiply-add of 32-bit lanes. -/
  | vfmaI32 (d a b c : Fin 32)
  /-- R342. A collective unit reduces or delivers one block by the fixed tree. -/
  | collectiveBlock
  /-- R258. Has no effect. -/
  | nop
  /-- R183. Retires the task once replies and child operations are settled, freeing its slot, orphaning tokens and retiring pages. -/
  | exit
  /-- R258. Acts as NOP with Y set, letting another thread issue. -/
  | yield
  /-- R261. Returns from a trap handler to TEPC and clears TSTAT.H. -/
  | eret
  /-- R267. With debugging enabled, makes a debug stop of the thread's halt group. -/
  | halt
  /-- R359. Ends the running handler and chooses the next handler or resumes a pre-empted one. -/
  | mret
  /-- R94. Accepted-operation reply at the issuer decrements its posted counter and may free the journal entry. -/
  | ack
  /-- R121. Refusal reply at the issuer marks the journal entry refused. -/
  | refuse
  /-- R94. Threshold-read completion reply writes the outcome and readies the thread. -/
  | wake
  /-- R94. Frozen-read reply writes the bytes or raises the read's trap. -/
  | data
  /-- R124. Taken at a boundary while a refused journal entry is pending. -/
  | postedRefusalTrap
  /-- R31. The supervising rill core handles an ABSENT fault message, creating and installing a page. -/
  | pageFaultRepair
  /-- R33. Resume message replays the faulted access and releases held accesses. -/
  | resume
  /-- R199. Operation reply ends the token's operation and wakes waiting token instructions. -/
  | operationReply
  /-- R205. Frees the redirect entry of a detached operation. -/
  | redirectAcknowledgement
  /-- R96. An eddy merges an arriving lattice message into a pending one or passes it on. -/
  | eddyMerge
  /-- R78. The home JU applies a join, fill, freeze or renew to a freeze unit. -/
  | apply
  /-- R95. When all invalidations are acknowledged the held operation is applied. -/
  | invalidationComplete
  /-- R80. The home evaluates a threshold read or gate and completes or parks it. -/
  | evaluate
  /-- R83. A frozen read is answered at the home or a cached copy, or parks. -/
  | frozenReadEvaluate
  /-- R57. The owner's core applies a lattice operation to a landing region. -/
  | landingApply
  /-- R53. The arm sequencer finishes re-encoding or restoring one macro. -/
  | armSequencerMacro
  /-- R55. An armed macro unread for 32,768 cycles enters low-voltage retention. -/
  | retentionEntry
  /-- R193. A child operation's message arrives at its engine inbox. -/
  | engineMessageArrival
  /-- R202. An engine starts or resumes its highest-priority startable operation. -/
  | operationStart
  /-- R203. The engine receives a cancel and acts on the operation's state. -/
  | cancelArrival
  /-- R323. A matrix unit computes one row of one N-group and retires. -/
  | matrixUnit
  /-- R331. A copy unit writes one strip or pushes one ring tile and retires. -/
  | copyStrip
  /-- R334. A stream unit produces images into the bound register's queue. -/
  | streamStrip
  /-- R337. The receiving rill core translates and registers a remote-copy destination. -/
  | cpyrRequest
  /-- R337. The sender receives the physical address and credits and starts strips. -/
  | readyToReceive
  /-- R336. A remote-copy unit retires when all its fills have replies. -/
  | remoteCopyStrip
  /-- R105. A base-die rill core splits a bank call into row units and queues them. -/
  | bankcallMessage
  /-- R365. A bank unit runs one row unit of a call to ROWEND. -/
  | bankRowUnit
  /-- R103. A micro-program exceeding 192 cycles without ROWEND fails the unit. -/
  | buseg
  /-- R106. An ordinary access to a bank held by its BU is queued. -/
  | ordinaryAccessArrival
  /-- R106. At ROWEND the BU is suspended and the bank enters an ordinary phase. -/
  | buSuspend
  /-- R106. The arbitration window ends and the BU resumes at MPC. -/
  | ordinaryPhaseEnd
  /-- R108. An activation count reaching its threshold triggers refresh management. -/
  | rfm
  /-- R108. The stack's alert starts refresh management. -/
  | stackAlert
  /-- R110. A write of MODE = 0 switches a channel to normal mode or holds the switch. -/
  | modeSwitchNormal
  /-- R110. A write of MODE = 1 returns to near-bank mode or cancels a held switch. -/
  | modeSwitchNearBank
  /-- R110. A held switch completes when BUs drain, setting DONE. -/
  | modeSwitchComplete
  /-- R103. Firmware loads bank-unit micro-words and entry table, measured. -/
  | controlStoreLoad
  /-- R352. A message arriving at a rill-core inbox selects and starts a handler. -/
  | handlerDispatch
  /-- R384. A message for a moved core state is passed on through a forwarding entry. -/
  | messageForward
  /-- R372. A queue slot reads, checks and accepts or rejects one launch entry. -/
  | launchEntryProcess
  /-- R373. A free active slot binds the pending queue at the head of the list. -/
  | queueBind
  /-- R175. A settled gate's wake reaches the record's die; the last one readies the task. -/
  | gateWake
  /-- R377. The placement engine places a ready task on a thread slot. -/
  | placement
  /-- R377. After 20 µs a task's placement confinement to its stack group ends. -/
  | levelConfinementExpiry
  /-- R178. A ready gang is placed atomically or not at all. -/
  | gangPlacement
  /-- R378. An idle core for 20 µs is scrubbed and returns to the free pool. -/
  | coreReturn
  /-- R381. A victim core is selected and its save starts with the drain. -/
  | preemption
  /-- R382. The drain ends and the core state stream begins. -/
  | drainComplete
  /-- R383. The core state stream ends and the vacated core is free. -/
  | streamComplete
  /-- R383. A saved core state is restored to a granted core. -/
  | restore
  /-- R387. A thread blocked in WINALLOC is resolved by moving threads. -/
  | threadMove
  /-- R399. A core state is moved for a lasting fault or management request. -/
  | migration
  /-- R457. A management request empties a core by migration. -/
  | coreEmptyRequest
  /-- R457. An emptied core is scrubbed, tested and becomes a spare or is retired. -/
  | coreReturnToService
  /-- R30. A NEAR or PRIV page moves when its stack's spare rows are exhausted. -/
  | pageMove
  /-- R187. A sweep pair sums the counters to test quiescence. -/
  | quiescenceSweep
  /-- R184. The context completes and is reported to the host. -/
  | contextComplete
  /-- R398. STOPPED is set once no message of a stopping context is in flight. -/
  | contextStopped
  /-- R396. The supervising rill core appends a context fault record to the fault log. -/
  | contextFaultRecord
  /-- R403. A member thread about to issue at a breakpoint address stops its halt group. -/
  | breakpoint
  /-- R404. A write of STOP = 1 halts every thread of the group and cross-triggered groups. -/
  | haltGroupStop
  /-- R406. A write of RUN = 1 releases a stopped group. -/
  | haltGroupRun
  /-- R406. A write of STEP = 1 lets each ready thread issue one group. -/
  | haltGroupStep
  /-- R407. A host debug write to a halted thread's state sets DETREL. -/
  | debugRegisterWrite
  /-- R369. A write of V = 1 configures a launch queue. -/
  | queueEnable
  /-- R369. A write of V = 0 clears HEAD, TAIL and ERR. -/
  | queueDisable
  /-- R374. A write of OPEN = 0 closes the launch queue to notifies. -/
  | queueClose
  /-- R370. A notify write advances TAIL or stops the queue with ERR. -/
  | notify
  /-- R412. A write of V = 1 configures a host window or is refused. -/
  | windowEnable
  /-- R412. A write of OPEN = 0 closes a host window. -/
  | windowClose
  /-- R13. A host write to a device register with no behaviour of its own. -/
  | registerWrite
  /-- R415. Loads the region table on every listed package and creates the context. -/
  | create
  /-- R424. Stops the context and scrubs its on-chip state on every package. -/
  | release
  /-- R424. Scrub ends, STATUS 0 is written and cores return to the pool. -/
  | scrubComplete
  /-- R416. Closes a HOST region and converts it to CONST or frozen LAT FILL. -/
  | seal
  /-- R416. SEAL ends on every package, STATUS 0 is written and waiting accesses proceed. -/
  | sealComplete
  /-- R427. Writes audit records and a signature to host memory and frees them. -/
  | auditread
  /-- R139. A host write through a window joins LAT cells, writes HOST pages or is refused. -/
  | hostWrite
  /-- R413. A host read through a window returns frozen or plain bytes or is refused. -/
  | hostRead
  /-- R423. A secured vendor message loads a context key into a slot. -/
  | keyLoad
  /-- R422. SPDM request answered by the root of trust. -/
  | getVersion
  /-- R422. SPDM request answered by the root of trust. -/
  | getCapabilities
  /-- R422. SPDM request answered by the root of trust. -/
  | negotiateAlgorithms
  /-- R422. SPDM request answered by the root of trust. -/
  | getDigests
  /-- R422. SPDM request returning the certificate chain. -/
  | getCertificate
  /-- R422. SPDM challenge signed with the device identity key. -/
  | challenge
  /-- R422. SPDM request reporting measurement registers. -/
  | getMeasurements
  /-- R422. SPDM request starting a secured session. -/
  | keyExchange
  /-- R422. SPDM request completing a secured session. -/
  | finish
  /-- R422. SPDM request ending a secured session. -/
  | endSession
  /-- R421. Reset runs the boot ROM and starts rill cores in START mode. -/
  | deviceReset
  /-- R418. Root-of-trust blocks agree link keys over SPDM. -/
  | linkBringup
  /-- R417. A link flit is received, or retried on CRC or tag failure. -/
  | flitReceive
  /-- R418. Link keys are replaced every 2^32 flits. -/
  | linkKeyReplace
  /-- R420. A lane failing CRC in 16 of 1,024 flits is replaced by the spare. -/
  | laneSpare
  /-- R420. Link retraining after a lane spare completes. -/
  | linkRetrainComplete
  /-- R205. The redirect that DETACH sends arrives at the operation's engine, which then owes a redirect acknowledgement and makes the completion join itself when the operation ends done. -/
  | redirect
  /-- R265. The write-backs and removals of a retired CLEANR or INVALR complete at the memory stacks some time after the instruction retired, releasing a waiting FENCE.M of scope DIE or wider. -/
  | writeBackComplete
  /-- R37. The device on its own makes a replica of a CONST page or an all-frozen LAT page near a reader and switches reads to it. -/
  | replicaCreate
  /-- R428. A power, temperature or current condition lowers or restores the main clock in 0.1 GHz steps, updating CLK and THR and the cluster rill-core clocks. -/
  | throttling
  /-- R409. The host issues a PCI Express Function Level Reset to the device's physical function. -/
  | functionLevelReset
  deriving DecidableEq, Repr

end Sys2Proof
end

