-- ==== Sys2Proof/WellFormed.lean ====
section
/-! DEFINITION. Instruction classes, and when an instruction is one the encodings can carry. -/

namespace Sys2Proof

/-- The instruction classes of R236; `event` marks the rows no word encodes (spec/95). -/
inductive Class where
  | scalar | control | system | memory | scratch | task | lattice | vector | matrix | copy
  | collective | token | message | event
  deriving DecidableEq, Repr

/-- The B48 formats of ARM, the only ones that read SOFF (R268). -/
def fmtB48 (fmt : Nat) : Bool := decide (8 ≤ fmt) && decide (fmt < 14)

/-- The class of each instruction (R236, Tables 9.6 to 9.10). -/
def Instr.cls : Instr → Class
  | .add _ _ _ => .scalar
  | .sub _ _ _ => .scalar
  | .and _ _ _ => .scalar
  | .or _ _ _ => .scalar
  | .xor _ _ _ => .scalar
  | .sll _ _ _ => .scalar
  | .srl _ _ _ => .scalar
  | .sra _ _ _ => .scalar
  | .slt _ _ _ => .scalar
  | .sltn _ _ _ => .scalar
  | .min _ _ _ => .scalar
  | .max _ _ _ => .scalar
  | .minn _ _ _ => .scalar
  | .maxn _ _ _ => .scalar
  | .andn _ _ _ => .scalar
  | .orn _ _ _ => .scalar
  | .mul _ _ _ => .scalar
  | .mulh _ _ _ => .scalar
  | .mulhn _ _ _ => .scalar
  | .mulhsn _ _ _ => .scalar
  | .div _ _ _ => .scalar
  | .divn _ _ _ => .scalar
  | .rem _ _ _ => .scalar
  | .remn _ _ _ => .scalar
  | .clz _ _ => .scalar
  | .ctz _ _ => .scalar
  | .popc _ _ => .scalar
  | .rev8 _ _ => .scalar
  | .addi _ _ _ => .scalar
  | .andi _ _ _ => .scalar
  | .ori _ _ _ => .scalar
  | .xori _ _ _ => .scalar
  | .slli _ _ _ => .scalar
  | .srli _ _ _ => .scalar
  | .srai _ _ _ => .scalar
  | .slti _ _ _ => .scalar
  | .sltni _ _ _ => .scalar
  | .movi _ _ => .scalar
  | .sext8 _ _ => .scalar
  | .sext16 _ _ => .scalar
  | .sext32 _ _ => .scalar
  | .zext8 _ _ => .scalar
  | .zext16 _ _ => .scalar
  | .zext32 _ _ => .scalar
  | .beq _ _ _ => .control
  | .bne _ _ _ => .control
  | .blt _ _ _ => .control
  | .bge _ _ _ => .control
  | .bltn _ _ _ => .control
  | .bgen _ _ _ => .control
  | .jmp _ => .control
  | .jal _ => .control
  | .jalr _ _ _ => .control
  | .loop _ _ _ => .control
  | .bmaskNone _ _ => .control
  | .bmaskAny _ _ => .control
  | .bmaskAll _ _ => .control
  | .bflClr _ _ => .message
  | .bflSet _ _ => .message
  | .nop => .control
  | .exit => .control
  | .yield => .control
  | .trap _ => .control
  | .eret => .control
  | .faddF32 _ _ _ _ => .scalar
  | .fsubF32 _ _ _ _ => .scalar
  | .fmulF32 _ _ _ _ => .scalar
  | .fdivF32 _ _ _ _ => .scalar
  | .fminF32 _ _ _ _ => .scalar
  | .fmaxF32 _ _ _ _ => .scalar
  | .fltF32 _ _ _ _ => .scalar
  | .feqF32 _ _ _ _ => .scalar
  | .cvtF32I64 _ _ _ => .scalar
  | .cvtI64F32 _ _ _ => .scalar
  | .ldI8 _ _ _ _ => .memory
  | .ldN8 _ _ _ _ => .memory
  | .ldI16 _ _ _ _ => .memory
  | .ldN16 _ _ _ _ => .memory
  | .ldI32 _ _ _ _ => .memory
  | .ldN32 _ _ _ _ => .memory
  | .ld64 _ _ _ _ => .memory
  | .st8 _ _ _ _ => .memory
  | .st16 _ _ _ _ => .memory
  | .st32 _ _ _ _ => .memory
  | .st64 _ _ _ _ => .memory
  | .prf _ _ _ => .memory
  | .vaddF32 _ _ _ _ => .vector
  | .vsubF32 _ _ _ _ => .vector
  | .vmulF32 _ _ _ _ => .vector
  | .vdivF32 _ _ _ _ => .vector
  | .vminF32 _ _ _ _ => .vector
  | .vmaxF32 _ _ _ _ => .vector
  | .vabsF32 _ _ _ => .vector
  | .vnegF32 _ _ _ => .vector
  | .vsqrtF32 _ _ _ => .vector
  | .vaddI32 _ _ _ => .vector
  | .vsubI32 _ _ _ => .vector
  | .vmulI32 _ _ _ => .vector
  | .vminI32 _ _ _ => .vector
  | .vmaxI32 _ _ _ => .vector
  | .vminN32 _ _ _ => .vector
  | .vmaxN32 _ _ _ => .vector
  | .vand _ _ _ => .vector
  | .vor _ _ _ => .vector
  | .vxor _ _ _ => .vector
  | .vsllI32 _ _ _ => .vector
  | .vsrlI32 _ _ _ => .vector
  | .vsraI32 _ _ _ => .vector
  | .vcmpeqF32 _ _ _ => .vector
  | .vcmpltF32 _ _ _ => .vector
  | .vcmpleF32 _ _ _ => .vector
  | .vcmpeqI32 _ _ _ => .vector
  | .vcmpltI32 _ _ _ => .vector
  | .vcmpltN32 _ _ _ => .vector
  | .vsel _ _ _ _ => .vector
  | .vld _ _ _ _ => .vector
  | .vst _ _ _ _ _ => .vector
  | .vbcast32 _ _ => .vector
  | .vbcast16 _ _ => .vector
  | .vbcast8 _ _ => .vector
  | .vmovx _ _ _ => .vector
  | .vcvtF32I32 _ _ _ => .vector
  | .vcvtI32F32 _ _ _ => .vector
  | .vcvtBf16F32 _ _ _ _ => .vector
  | .vcvtF32Bf16 _ _ _ => .vector
  | .vcvtF16F32 _ _ _ _ => .vector
  | .vcvtF32F16 _ _ _ => .vector
  | .vcvtE4m3F32 _ _ _ => .vector
  | .vcvtE5m2F32 _ _ _ => .vector
  | .vcvtF32E4m3 _ _ _ => .vector
  | .vcvtF32E5m2 _ _ _ => .vector
  | .vperm _ _ _ => .vector
  | .vslideup _ _ _ => .vector
  | .vslidedn _ _ _ => .vector
  | .vzip _ _ _ => .vector
  | .vunzip _ _ _ => .vector
  | .vrev _ _ => .vector
  | .vredAddF32 _ _ _ _ => .vector
  | .vredMaxF32 _ _ _ _ => .vector
  | .vredMinF32 _ _ _ _ => .vector
  | .vredAddI32 _ _ _ _ => .vector
  | .mand _ _ _ => .vector
  | .mor _ _ _ => .vector
  | .mxor _ _ _ => .vector
  | .mnot _ _ => .vector
  | .mpopc _ _ => .vector
  | .mfirst _ _ => .vector
  | .vquantB48e4m3 _ _ _ _ => .vector
  | .vquantB48e5m2 _ _ _ _ => .vector
  | .vquantB48e2m1 _ _ _ _ => .vector
  | .vquantB48i8 _ _ _ _ => .vector
  | .vquantB48i4 _ _ _ _ => .vector
  | .vquantB48t2 _ _ _ _ => .vector
  | .vdeqB48e4m3 _ _ _ => .vector
  | .vdeqB48e5m2 _ _ _ => .vector
  | .vdeqB48e2m1 _ _ _ => .vector
  | .vdeqB48i8 _ _ _ => .vector
  | .vdeqB48i4 _ _ _ => .vector
  | .vdeqB48t2 _ _ _ => .vector
  | .vspill _ _ => .vector
  | .vfill _ _ => .vector
  | .rdc _ _ => .system
  | .wrc _ _ => .system
  | .fenceJ _ => .memory
  | .fenceM _ => .memory
  | .fenceK _ => .memory
  | .cleanr _ _ _ => .memory
  | .invalr _ _ _ => .memory
  | .spawn _ => .task
  | .halt => .system
  | .send _ _ _ => .message
  | .sendh _ _ _ => .message
  | .recv _ => .message
  | .recvLd _ _ => .message
  | .recvSt _ _ => .message
  | .reply _ _ => .message
  | .mret => .message
  | .dtcfg _ _ => .message
  | .bqpush _ => .message
  | .bqwait _ => .message
  | .rcombAddF32 _ _ _ => .message
  | .rcombMaxF32 _ _ _ => .message
  | .rcombMinF32 _ _ _ => .message
  | .rcombAddI32 _ _ _ => .message
  | .rcombMaxI32 _ _ _ => .message
  | .rcombMinI32 _ _ _ => .message
  | .rcombWidBf16 _ _ => .message
  | .rcombNarBf16 _ _ => .message
  | .baddqB48e4m3 _ _ _ _ => .message
  | .baddqB48e5m2 _ _ _ _ => .message
  | .baddqB48e2m1 _ _ _ _ => .message
  | .baddqB48i8 _ _ _ _ => .message
  | .baddqB48i4 _ _ _ _ => .message
  | .movl _ _ => .scalar
  | .addl _ _ _ => .scalar
  | .arm _ _ _ _ => .scratch
  | .disarm _ _ => .scratch
  | .winallocW _ _ => .scratch
  | .winallocA _ _ => .scratch
  | .winallocC _ _ => .scratch
  | .winallocWl _ _ _ _ => .scratch
  | .winallocAl _ _ _ _ => .scratch
  | .join _ _ _ _ _ _ _ => .lattice
  | .joinv _ _ _ _ _ _ _ _ => .lattice
  | .fill _ _ _ _ _ _ _ => .lattice
  | .thr _ _ _ _ _ _ _ _ _ => .lattice
  | .thrF _ _ _ _ _ _ _ => .lattice
  | .freeze _ _ _ _ _ _ => .lattice
  | .freezeR _ _ _ _ _ => .lattice
  | .frd _ _ _ _ _ _ => .lattice
  | .frdv _ _ _ _ _ _ => .lattice
  | .renew _ _ _ _ _ _ => .lattice
  | .mxsBf16 _ _ _ _ _ _ _ _ _ => .matrix
  | .mxsF16 _ _ _ _ _ _ _ _ _ => .matrix
  | .mxsF8 _ _ _ _ _ _ _ _ _ => .matrix
  | .mxsE2m1 _ _ _ _ _ _ _ _ _ => .matrix
  | .mxsI8 _ _ _ _ _ _ _ _ _ => .matrix
  | .mxsI4 _ _ _ _ _ _ _ _ _ => .matrix
  | .mxsT2 _ _ _ _ _ _ _ _ _ => .matrix
  | .mxsB48 _ _ _ _ _ _ _ _ _ => .matrix
  | .mxz _ _ _ _ => .matrix
  | .mxe _ _ _ _ _ _ _ _ _ _ => .matrix
  | .ringcfg _ _ _ => .matrix
  | .cpy _ _ _ _ _ _ _ _ _ _ _ => .copy
  | .cpya _ _ _ _ _ _ _ _ _ _ => .copy
  | .cpyg _ _ _ _ _ _ _ _ _ _ => .copy
  | .cpys _ _ _ _ _ _ _ _ _ => .copy
  | .cpyr _ _ _ _ _ _ _ => .copy
  | .sbind _ _ _ _ _ _ _ _ _ => .copy
  | .sunbind _ _ => .copy
  | .bankcall _ _ _ _ _ _ _ => .copy
  | .collAr _ _ _ _ _ _ _ _ _ => .collective
  | .collRs _ _ _ _ _ _ _ _ _ => .collective
  | .collAg _ _ _ _ _ _ _ _ => .collective
  | .collA2a _ _ _ _ _ _ _ _ => .collective
  | .collBc _ _ _ _ _ _ _ _ => .collective
  | .wait _ => .token
  | .waitm _ => .token
  | .cancel _ => .token
  | .detach _ _ _ => .token
  | .adopt _ _ => .token
  | .kprio _ _ => .token
  | .kstat _ _ => .token
  | .kmov _ _ => .token
  | .vfmaF32 _ _ _ _ _ => .vector
  | .vfnmaF32 _ _ _ _ _ => .vector
  | .vfmaI32 _ _ _ _ => .vector
  | .ack => .event
  | .refuse => .event
  | .wake => .event
  | .data => .event
  | .postedRefusalTrap => .event
  | .pageFaultRepair => .event
  | .resume => .event
  | .operationReply => .event
  | .redirectAcknowledgement => .event
  | .eddyMerge => .event
  | .apply => .event
  | .invalidationComplete => .event
  | .evaluate => .event
  | .frozenReadEvaluate => .event
  | .landingApply => .event
  | .armSequencerMacro => .event
  | .retentionEntry => .event
  | .engineMessageArrival => .event
  | .operationStart => .event
  | .cancelArrival => .event
  | .matrixUnit => .event
  | .copyStrip => .event
  | .streamStrip => .event
  | .cpyrRequest => .event
  | .readyToReceive => .event
  | .remoteCopyStrip => .event
  | .collectiveBlock => .event
  | .bankcallMessage => .event
  | .bankRowUnit => .event
  | .buseg => .event
  | .ordinaryAccessArrival => .event
  | .buSuspend => .event
  | .ordinaryPhaseEnd => .event
  | .rfm => .event
  | .stackAlert => .event
  | .modeSwitchNormal => .event
  | .modeSwitchNearBank => .event
  | .modeSwitchComplete => .event
  | .controlStoreLoad => .event
  | .handlerDispatch => .event
  | .messageForward => .event
  | .launchEntryProcess => .event
  | .queueBind => .event
  | .gateWake => .event
  | .placement => .event
  | .levelConfinementExpiry => .event
  | .gangPlacement => .event
  | .coreReturn => .event
  | .preemption => .event
  | .drainComplete => .event
  | .streamComplete => .event
  | .restore => .event
  | .threadMove => .event
  | .migration => .event
  | .coreEmptyRequest => .event
  | .coreReturnToService => .event
  | .pageMove => .event
  | .quiescenceSweep => .event
  | .contextComplete => .event
  | .contextStopped => .event
  | .contextFaultRecord => .event
  | .breakpoint => .event
  | .haltGroupStop => .event
  | .haltGroupRun => .event
  | .haltGroupStep => .event
  | .debugRegisterWrite => .event
  | .queueEnable => .event
  | .queueDisable => .event
  | .queueClose => .event
  | .notify => .event
  | .windowEnable => .event
  | .windowClose => .event
  | .registerWrite => .event
  | .create => .event
  | .release => .event
  | .scrubComplete => .event
  | .seal => .event
  | .sealComplete => .event
  | .auditread => .event
  | .hostWrite => .event
  | .hostRead => .event
  | .keyLoad => .event
  | .getVersion => .event
  | .getCapabilities => .event
  | .negotiateAlgorithms => .event
  | .getDigests => .event
  | .getCertificate => .event
  | .challenge => .event
  | .getMeasurements => .event
  | .keyExchange => .event
  | .finish => .event
  | .endSession => .event
  | .deviceReset => .event
  | .linkBringup => .event
  | .flitReceive => .event
  | .linkKeyReplace => .event
  | .laneSpare => .event
  | .linkRetrainComplete => .event
  | .redirect => .event
  | .writeBackComplete => .event
  | .replicaCreate => .event
  | .throttling => .event
  | .functionLevelReset => .event

/-- RM codes 5 and 6 are not assigned (R147, R228). -/
def rndWf : Option Rnd → Bool
  | none => true
  | some r => r.rm != 5 && r.rm != 6

/-- What an encodable instruction must meet: it has an encoding (it is no device event), its RND
settings name an assigned mode (R228), a mask destination is not m0 (R224), and the c field of an ARM or a THR that does
not read it is 0 (R268, R308). -/
def Instr.wf : Instr → Bool
  | .add _ _ _ => true
  | .sub _ _ _ => true
  | .and _ _ _ => true
  | .or _ _ _ => true
  | .xor _ _ _ => true
  | .sll _ _ _ => true
  | .srl _ _ _ => true
  | .sra _ _ _ => true
  | .slt _ _ _ => true
  | .sltn _ _ _ => true
  | .min _ _ _ => true
  | .max _ _ _ => true
  | .minn _ _ _ => true
  | .maxn _ _ _ => true
  | .andn _ _ _ => true
  | .orn _ _ _ => true
  | .mul _ _ _ => true
  | .mulh _ _ _ => true
  | .mulhn _ _ _ => true
  | .mulhsn _ _ _ => true
  | .div _ _ _ => true
  | .divn _ _ _ => true
  | .rem _ _ _ => true
  | .remn _ _ _ => true
  | .clz _ _ => true
  | .ctz _ _ => true
  | .popc _ _ => true
  | .rev8 _ _ => true
  | .addi _ _ _ => true
  | .andi _ _ _ => true
  | .ori _ _ _ => true
  | .xori _ _ _ => true
  | .slli _ _ _ => true
  | .srli _ _ _ => true
  | .srai _ _ _ => true
  | .slti _ _ _ => true
  | .sltni _ _ _ => true
  | .movi _ _ => true
  | .sext8 _ _ => true
  | .sext16 _ _ => true
  | .sext32 _ _ => true
  | .zext8 _ _ => true
  | .zext16 _ _ => true
  | .zext32 _ _ => true
  | .beq _ _ _ => true
  | .bne _ _ _ => true
  | .blt _ _ _ => true
  | .bge _ _ _ => true
  | .bltn _ _ _ => true
  | .bgen _ _ _ => true
  | .jmp _ => true
  | .jal _ => true
  | .jalr _ _ _ => true
  | .loop _ _ _ => true
  | .bmaskNone _ _ => true
  | .bmaskAny _ _ => true
  | .bmaskAll _ _ => true
  | .bflClr _ _ => true
  | .bflSet _ _ => true
  | .nop => true
  | .exit => true
  | .yield => true
  | .trap _ => true
  | .eret => true
  | .faddF32 rnd _ _ _ => rndWf rnd
  | .fsubF32 rnd _ _ _ => rndWf rnd
  | .fmulF32 rnd _ _ _ => rndWf rnd
  | .fdivF32 rnd _ _ _ => rndWf rnd
  | .fminF32 rnd _ _ _ => rndWf rnd
  | .fmaxF32 rnd _ _ _ => rndWf rnd
  | .fltF32 rnd _ _ _ => rndWf rnd
  | .feqF32 rnd _ _ _ => rndWf rnd
  | .cvtF32I64 rnd _ _ => rndWf rnd
  | .cvtI64F32 rnd _ _ => rndWf rnd
  | .ldI8 _ _ _ _ => true
  | .ldN8 _ _ _ _ => true
  | .ldI16 _ _ _ _ => true
  | .ldN16 _ _ _ _ => true
  | .ldI32 _ _ _ _ => true
  | .ldN32 _ _ _ _ => true
  | .ld64 _ _ _ _ => true
  | .st8 _ _ _ _ => true
  | .st16 _ _ _ _ => true
  | .st32 _ _ _ _ => true
  | .st64 _ _ _ _ => true
  | .prf _ _ _ => true
  | .vaddF32 rnd _ _ _ => rndWf rnd
  | .vsubF32 rnd _ _ _ => rndWf rnd
  | .vmulF32 rnd _ _ _ => rndWf rnd
  | .vdivF32 rnd _ _ _ => rndWf rnd
  | .vminF32 rnd _ _ _ => rndWf rnd
  | .vmaxF32 rnd _ _ _ => rndWf rnd
  | .vabsF32 rnd _ _ => rndWf rnd
  | .vnegF32 rnd _ _ => rndWf rnd
  | .vsqrtF32 rnd _ _ => rndWf rnd
  | .vaddI32 _ _ _ => true
  | .vsubI32 _ _ _ => true
  | .vmulI32 _ _ _ => true
  | .vminI32 _ _ _ => true
  | .vmaxI32 _ _ _ => true
  | .vminN32 _ _ _ => true
  | .vmaxN32 _ _ _ => true
  | .vand _ _ _ => true
  | .vor _ _ _ => true
  | .vxor _ _ _ => true
  | .vsllI32 _ _ _ => true
  | .vsrlI32 _ _ _ => true
  | .vsraI32 _ _ _ => true
  | .vcmpeqF32 d _ _ => d != 0
  | .vcmpltF32 d _ _ => d != 0
  | .vcmpleF32 d _ _ => d != 0
  | .vcmpeqI32 d _ _ => d != 0
  | .vcmpltI32 d _ _ => d != 0
  | .vcmpltN32 d _ _ => d != 0
  | .vsel _ _ _ _ => true
  | .vld _ _ _ _ => true
  | .vst _ rnd _ _ _ => rndWf rnd
  | .vbcast32 _ _ => true
  | .vbcast16 _ _ => true
  | .vbcast8 _ _ => true
  | .vmovx _ _ _ => true
  | .vcvtF32I32 rnd _ _ => rndWf rnd
  | .vcvtI32F32 rnd _ _ => rndWf rnd
  | .vcvtBf16F32 rnd _ _ _ => rndWf rnd
  | .vcvtF32Bf16 rnd _ _ => rndWf rnd
  | .vcvtF16F32 rnd _ _ _ => rndWf rnd
  | .vcvtF32F16 rnd _ _ => rndWf rnd
  | .vcvtE4m3F32 rnd _ _ => rndWf rnd
  | .vcvtE5m2F32 rnd _ _ => rndWf rnd
  | .vcvtF32E4m3 rnd _ _ => rndWf rnd
  | .vcvtF32E5m2 rnd _ _ => rndWf rnd
  | .vperm _ _ _ => true
  | .vslideup _ _ _ => true
  | .vslidedn _ _ _ => true
  | .vzip _ _ _ => true
  | .vunzip _ _ _ => true
  | .vrev _ _ => true
  | .vredAddF32 rnd _ _ _ => rndWf rnd
  | .vredMaxF32 rnd _ _ _ => rndWf rnd
  | .vredMinF32 rnd _ _ _ => rndWf rnd
  | .vredAddI32 rnd _ _ _ => rndWf rnd
  | .mand d _ _ => d != 0
  | .mor d _ _ => d != 0
  | .mxor d _ _ => d != 0
  | .mnot d _ => d != 0
  | .mpopc _ _ => true
  | .mfirst _ _ => true
  | .vquantB48e4m3 rnd _ _ _ => rndWf rnd
  | .vquantB48e5m2 rnd _ _ _ => rndWf rnd
  | .vquantB48e2m1 rnd _ _ _ => rndWf rnd
  | .vquantB48i8 rnd _ _ _ => rndWf rnd
  | .vquantB48i4 rnd _ _ _ => rndWf rnd
  | .vquantB48t2 rnd _ _ _ => rndWf rnd
  | .vdeqB48e4m3 _ _ _ => true
  | .vdeqB48e5m2 _ _ _ => true
  | .vdeqB48e2m1 _ _ _ => true
  | .vdeqB48i8 _ _ _ => true
  | .vdeqB48i4 _ _ _ => true
  | .vdeqB48t2 _ _ _ => true
  | .vspill _ _ => true
  | .vfill _ _ => true
  | .rdc _ _ => true
  | .wrc _ _ => true
  | .fenceJ _ => true
  | .fenceM _ => true
  | .fenceK _ => true
  | .cleanr _ _ _ => true
  | .invalr _ _ _ => true
  | .spawn _ => true
  | .halt => true
  | .send _ _ _ => true
  | .sendh _ _ _ => true
  | .recv _ => true
  | .recvLd _ _ => true
  | .recvSt _ _ => true
  | .reply _ _ => true
  | .mret => true
  | .dtcfg _ _ => true
  | .bqpush _ => true
  | .bqwait _ => true
  | .rcombAddF32 _ _ _ => true
  | .rcombMaxF32 _ _ _ => true
  | .rcombMinF32 _ _ _ => true
  | .rcombAddI32 _ _ _ => true
  | .rcombMaxI32 _ _ _ => true
  | .rcombMinI32 _ _ _ => true
  | .rcombWidBf16 _ _ => true
  | .rcombNarBf16 _ _ => true
  | .baddqB48e4m3 rnd _ _ _ => rndWf rnd
  | .baddqB48e5m2 rnd _ _ _ => rndWf rnd
  | .baddqB48e2m1 rnd _ _ _ => rndWf rnd
  | .baddqB48i8 rnd _ _ _ => rndWf rnd
  | .baddqB48i4 rnd _ _ _ => rndWf rnd
  | .movl _ _ => true
  | .addl _ _ _ => true
  | .arm fmt _ _ c => fmtB48 fmt.val || c == 0
  | .disarm _ _ => true
  | .winallocW _ _ => true
  | .winallocA _ _ => true
  | .winallocC _ _ => true
  | .winallocWl _ _ _ _ => true
  | .winallocAl _ _ _ _ => true
  | .join _ _ _ _ _ _ _ => true
  | .joinv _ _ _ _ _ _ _ _ => true
  | .fill _ _ _ _ _ _ _ => true
  | .thr _ _ nt _ _ _ _ _ c => nt != 0 || c == 0
  | .thrF _ _ _ _ _ _ _ => true
  | .freeze _ _ _ _ _ _ => true
  | .freezeR _ _ _ _ _ => true
  | .frd _ _ _ _ _ _ => true
  | .frdv _ _ _ _ _ _ => true
  | .renew _ _ _ _ _ _ => true
  | .mxsBf16 _ _ _ _ _ _ _ _ _ => true
  | .mxsF16 _ _ _ _ _ _ _ _ _ => true
  | .mxsF8 _ _ _ _ _ _ _ _ _ => true
  | .mxsE2m1 _ _ _ _ _ _ _ _ _ => true
  | .mxsI8 _ _ _ _ _ _ _ _ _ => true
  | .mxsI4 _ _ _ _ _ _ _ _ _ => true
  | .mxsT2 _ _ _ _ _ _ _ _ _ => true
  | .mxsB48 _ _ _ _ _ _ _ _ _ => true
  | .mxz _ _ _ _ => true
  | .mxe rnd _ _ _ _ _ _ _ _ _ => rndWf rnd
  | .ringcfg _ _ _ => true
  | .cpy _ rnd _ _ _ _ _ _ _ _ _ => rndWf rnd
  | .cpya _ rnd _ _ _ _ _ _ _ _ => rndWf rnd
  | .cpyg _ rnd _ _ _ _ _ _ _ _ => rndWf rnd
  | .cpys _ rnd _ _ _ _ _ _ _ => rndWf rnd
  | .cpyr _ _ _ _ _ _ _ => true
  | .sbind _ rnd _ _ _ _ _ _ _ => rndWf rnd
  | .sunbind _ _ => true
  | .bankcall _ _ _ _ _ _ _ => true
  | .collAr _ rnd _ _ _ _ _ _ _ => rndWf rnd
  | .collRs _ rnd _ _ _ _ _ _ _ => rndWf rnd
  | .collAg _ _ _ _ _ _ _ _ => true
  | .collA2a _ _ _ _ _ _ _ _ => true
  | .collBc _ _ _ _ _ _ _ _ => true
  | .wait _ => true
  | .waitm _ => true
  | .cancel _ => true
  | .detach _ _ _ => true
  | .adopt _ _ => true
  | .kprio _ _ => true
  | .kstat _ _ => true
  | .kmov _ _ => true
  | .vfmaF32 rnd _ _ _ _ => rndWf rnd
  | .vfnmaF32 rnd _ _ _ _ => rndWf rnd
  | .vfmaI32 _ _ _ _ => true
  | .ack => false
  | .refuse => false
  | .wake => false
  | .data => false
  | .postedRefusalTrap => false
  | .pageFaultRepair => false
  | .resume => false
  | .operationReply => false
  | .redirectAcknowledgement => false
  | .eddyMerge => false
  | .apply => false
  | .invalidationComplete => false
  | .evaluate => false
  | .frozenReadEvaluate => false
  | .landingApply => false
  | .armSequencerMacro => false
  | .retentionEntry => false
  | .engineMessageArrival => false
  | .operationStart => false
  | .cancelArrival => false
  | .matrixUnit => false
  | .copyStrip => false
  | .streamStrip => false
  | .cpyrRequest => false
  | .readyToReceive => false
  | .remoteCopyStrip => false
  | .collectiveBlock => false
  | .bankcallMessage => false
  | .bankRowUnit => false
  | .buseg => false
  | .ordinaryAccessArrival => false
  | .buSuspend => false
  | .ordinaryPhaseEnd => false
  | .rfm => false
  | .stackAlert => false
  | .modeSwitchNormal => false
  | .modeSwitchNearBank => false
  | .modeSwitchComplete => false
  | .controlStoreLoad => false
  | .handlerDispatch => false
  | .messageForward => false
  | .launchEntryProcess => false
  | .queueBind => false
  | .gateWake => false
  | .placement => false
  | .levelConfinementExpiry => false
  | .gangPlacement => false
  | .coreReturn => false
  | .preemption => false
  | .drainComplete => false
  | .streamComplete => false
  | .restore => false
  | .threadMove => false
  | .migration => false
  | .coreEmptyRequest => false
  | .coreReturnToService => false
  | .pageMove => false
  | .quiescenceSweep => false
  | .contextComplete => false
  | .contextStopped => false
  | .contextFaultRecord => false
  | .breakpoint => false
  | .haltGroupStop => false
  | .haltGroupRun => false
  | .haltGroupStep => false
  | .debugRegisterWrite => false
  | .queueEnable => false
  | .queueDisable => false
  | .queueClose => false
  | .notify => false
  | .windowEnable => false
  | .windowClose => false
  | .registerWrite => false
  | .create => false
  | .release => false
  | .scrubComplete => false
  | .seal => false
  | .sealComplete => false
  | .auditread => false
  | .hostWrite => false
  | .hostRead => false
  | .keyLoad => false
  | .getVersion => false
  | .getCapabilities => false
  | .negotiateAlgorithms => false
  | .getDigests => false
  | .getCertificate => false
  | .challenge => false
  | .getMeasurements => false
  | .keyExchange => false
  | .finish => false
  | .endSession => false
  | .deviceReset => false
  | .linkBringup => false
  | .flitReceive => false
  | .linkKeyReplace => false
  | .laneSpare => false
  | .linkRetrainComplete => false
  | .redirect => false
  | .writeBackComplete => false
  | .replicaCreate => false
  | .throttling => false
  | .functionLevelReset => false

end Sys2Proof
end

