-- ==== Sys2Proof/Decode.lean ====
section
/-! DEFINITION. The decoder (R217 to R229, R236, R237, Tables 9.1 to 9.11) and the encoder. -/

namespace Sys2Proof

/-- The assigned kinds of Table 9.4. -/
inductive PKind where
  | imm | rnd | page | wait
  deriving DecidableEq, Repr

/-- One extension word of a group: its kind and its 25-bit payload (Table 9.3). -/
structure Pfx where
  kind : PKind
  payload : Nat
  deriving DecidableEq, Repr

/-- The kind named by bits [6:3] of an extension word (Table 9.4). -/
def pkindOf : Nat → Option PKind
  | 1 => some .imm
  | 3 => some .rnd
  | 6 => some .page
  | 10 => some .wait
  | _ => none

/-- The code of a kind (Table 9.4). -/
def PKind.code : PKind → Nat
  | .imm => 1
  | .rnd => 3
  | .page => 6
  | .wait => 10

/-- The payload of the group's word of kind `k`, if it has one (R229). -/
def payloadOf (k : PKind) : List Pfx → Option Nat
  | [] => none
  | q :: r => if q.kind = k then some q.payload else payloadOf k r

/-- The fields of a 32-bit instruction word (Table 9.1). -/
structure Fields where
  fn : Nat
  b : Nat
  a : Nat
  d : Nat
  op : Nat
  deriving DecidableEq, Repr

/-- The fields of a 32-bit instruction word. -/
def fieldsOf (w : Nat) : Fields :=
  { fn := bits w 31 28, b := bits w 27 23, a := bits w 22 18, d := bits w 17 13, op := bits w 12 7 }

/-- The nine immediate bits of the I and B forms (Table 9.1). -/
def Fields.imm9 (f : Fields) : Nat := f.fn * 32 + f.b

/-- The fields of word 0 of a 64-bit instruction (Table 9.2). -/
structure Fields64 where
  w : Nat
  b : Nat
  a : Nat
  d : Nat
  op : Nat
  deriving DecidableEq, Repr

/-- The fields of word 0 of a 64-bit instruction. -/
def fields64Of (w : Nat) : Fields64 :=
  { w := bits w 31 30, b := bits w 29 25, a := bits w 24 20, d := bits w 19 15, op := bits w 14 7 }

/-- R225: the immediate of an I or B form, sign-extended from 9 bits, or the 34 bits an IMM word forms. -/
def imm34 (p : List Pfx) (f : Fields) : BitVec 34 :=
  match payloadOf .imm p with
  | some h => BitVec.ofNat 34 (h * 512 + f.imm9)
  | none => BitVec.ofNat 34 (if f.imm9 < 256 then f.imm9 else f.imm9 + 17179868672)

/-- R225: the immediate of an entry that reads the field as unsigned. -/
def imm34u (p : List Pfx) (f : Fields) : BitVec 34 :=
  match payloadOf .imm p with
  | some h => BitVec.ofNat 34 (h * 512 + f.imm9)
  | none => BitVec.ofNat 34 f.imm9

/-- R225: the offset of the J form, sign-extended from 19 bits, or the 44 bits an IMM word forms. -/
def off44 (p : List Pfx) (f : Fields) : BitVec 44 :=
  let v := f.fn * 32768 + f.b * 1024 + f.a * 32 + f.d
  match payloadOf .imm p with
  | some h => BitVec.ofNat 44 (h * 524288 + v)
  | none => BitVec.ofNat 44 (if v < 262144 then v else v + 17592185520128)

/-- R226: the immediate of MOVL and ADDL. -/
def imm52 (p : List Pfx) (w1 : Nat) : BitVec 52 :=
  let v := bits w1 31 5
  match payloadOf .imm p with
  | some h => BitVec.ofNat 52 (h * 134217728 + v)
  | none => BitVec.ofNat 52 (if v < 67108864 then v else v + 4503599493152768)

/-- The RND settings of a group (Table 9.4): payload bits [10:5] FMASK, [4:3] SAT, [2:0] RM. -/
def rndOf (p : List Pfx) : Option Rnd :=
  match payloadOf .rnd p with
  | none => none
  | some v => some { fmask := BitVec.ofNat 6 (bits v 10 5), sat := Fin.ofNat 4 (bits v 4 3), rm := Fin.ofNat 8 (bits v 2 0) }

/-- The wait field of a group (Table 9.4). -/
def waitOf (p : List Pfx) : Option (Fin 4) :=
  match payloadOf .wait p with
  | none => none
  | some v => some (Fin.ofNat 4 v)

/-- The AFTER tokens and priority of word 1 (Table 13.1). -/
def afterOf (w1 : Nat) : After :=
  { e0 := if bits w1 31 31 = 1 then some (Fin.ofNat 16 (bits w1 30 27)) else none
    e1 := if bits w1 26 26 = 1 then some (Fin.ofNat 16 (bits w1 25 22)) else none
    pri := Fin.ofNat 16 (bits w1 21 18) }

/-- Table 13.1: A0 is 0 when E0 = 0, and A1 is 0 when E1 = 0. -/
def afterOk (w1 : Nat) : Bool :=
  (bits w1 31 31 == 1 || bits w1 30 27 == 0) && (bits w1 26 26 == 1 || bits w1 25 22 == 0)

/-- What the opcode map says of one group: the instruction (or, where the entry's own check refuses it, one of the
entry with its registers), whether the reserved fields of words 0 and 1 are zero and the field values lie in their
files (Table 9.11 order 2), which extension words it accepts, and whether w is honoured (order 3). -/
structure Row where
  i : Except Instr Instr
  ok0 : Bool := true
  ok1 : Bool := true
  imm : Bool := false
  rnd : Bool := false
  wait : Bool := false
  page : Bool := true
  wok : Bool := true

/-- Page 0, op6 0x01: ADD, SUB, AND ... (R246). -/
def dec0x01 (_p : List Pfx) (f : Fields) : Option Row :=
  match f.fn with
  | 0 => some { i := .ok (.add (Fin.ofNat 32 f.d) (Fin.ofNat 32 f.a) (Fin.ofNat 32 f.b)) }
  | 1 => some { i := .ok (.sub (Fin.ofNat 32 f.d) (Fin.ofNat 32 f.a) (Fin.ofNat 32 f.b)) }
  | 2 => some { i := .ok (.and (Fin.ofNat 32 f.d) (Fin.ofNat 32 f.a) (Fin.ofNat 32 f.b)) }
  | 3 => some { i := .ok (.or (Fin.ofNat 32 f.d) (Fin.ofNat 32 f.a) (Fin.ofNat 32 f.b)) }
  | 4 => some { i := .ok (.xor (Fin.ofNat 32 f.d) (Fin.ofNat 32 f.a) (Fin.ofNat 32 f.b)) }
  | 5 => some { i := .ok (.sll (Fin.ofNat 32 f.d) (Fin.ofNat 32 f.a) (Fin.ofNat 32 f.b)) }
  | 6 => some { i := .ok (.srl (Fin.ofNat 32 f.d) (Fin.ofNat 32 f.a) (Fin.ofNat 32 f.b)) }
  | 7 => some { i := .ok (.sra (Fin.ofNat 32 f.d) (Fin.ofNat 32 f.a) (Fin.ofNat 32 f.b)) }
  | 8 => some { i := .ok (.slt (Fin.ofNat 32 f.d) (Fin.ofNat 32 f.a) (Fin.ofNat 32 f.b)) }
  | 9 => some { i := .ok (.sltn (Fin.ofNat 32 f.d) (Fin.ofNat 32 f.a) (Fin.ofNat 32 f.b)) }
  | 10 => some { i := .ok (.min (Fin.ofNat 32 f.d) (Fin.ofNat 32 f.a) (Fin.ofNat 32 f.b)) }
  | 11 => some { i := .ok (.max (Fin.ofNat 32 f.d) (Fin.ofNat 32 f.a) (Fin.ofNat 32 f.b)) }
  | 12 => some { i := .ok (.minn (Fin.ofNat 32 f.d) (Fin.ofNat 32 f.a) (Fin.ofNat 32 f.b)) }
  | 13 => some { i := .ok (.maxn (Fin.ofNat 32 f.d) (Fin.ofNat 32 f.a) (Fin.ofNat 32 f.b)) }
  | 14 => some { i := .ok (.andn (Fin.ofNat 32 f.d) (Fin.ofNat 32 f.a) (Fin.ofNat 32 f.b)) }
  | 15 => some { i := .ok (.orn (Fin.ofNat 32 f.d) (Fin.ofNat 32 f.a) (Fin.ofNat 32 f.b)) }
  | _ => none

/-- Page 0, op6 0x02: MUL, MULH, MULHN ... (R247). -/
def dec0x02 (_p : List Pfx) (f : Fields) : Option Row :=
  match f.fn with
  | 0 => some { i := .ok (.mul (Fin.ofNat 32 f.d) (Fin.ofNat 32 f.a) (Fin.ofNat 32 f.b)) }
  | 1 => some { i := .ok (.mulh (Fin.ofNat 32 f.d) (Fin.ofNat 32 f.a) (Fin.ofNat 32 f.b)) }
  | 2 => some { i := .ok (.mulhn (Fin.ofNat 32 f.d) (Fin.ofNat 32 f.a) (Fin.ofNat 32 f.b)) }
  | 3 => some { i := .ok (.mulhsn (Fin.ofNat 32 f.d) (Fin.ofNat 32 f.a) (Fin.ofNat 32 f.b)) }
  | 4 => some { i := .ok (.div (Fin.ofNat 32 f.d) (Fin.ofNat 32 f.a) (Fin.ofNat 32 f.b)) }
  | 5 => some { i := .ok (.divn (Fin.ofNat 32 f.d) (Fin.ofNat 32 f.a) (Fin.ofNat 32 f.b)) }
  | 6 => some { i := .ok (.rem (Fin.ofNat 32 f.d) (Fin.ofNat 32 f.a) (Fin.ofNat 32 f.b)) }
  | 7 => some { i := .ok (.remn (Fin.ofNat 32 f.d) (Fin.ofNat 32 f.a) (Fin.ofNat 32 f.b)) }
  | 8 => some { i := .ok (.clz (Fin.ofNat 32 f.d) (Fin.ofNat 32 f.a)), ok0 := f.b == 0 }
  | 9 => some { i := .ok (.ctz (Fin.ofNat 32 f.d) (Fin.ofNat 32 f.a)), ok0 := f.b == 0 }
  | 10 => some { i := .ok (.popc (Fin.ofNat 32 f.d) (Fin.ofNat 32 f.a)), ok0 := f.b == 0 }
  | 11 => some { i := .ok (.rev8 (Fin.ofNat 32 f.d) (Fin.ofNat 32 f.a)), ok0 := f.b == 0 }
  | _ => none

/-- Page 0, op6 0x03: ADDI (R248). -/
def dec0x03 (p : List Pfx) (f : Fields) : Option Row :=
  some { i := .ok (.addi (Fin.ofNat 32 f.d) (Fin.ofNat 32 f.a) (imm34 p f)), imm := true }

/-- Page 0, op6 0x04: ANDI (R248). -/
def dec0x04 (p : List Pfx) (f : Fields) : Option Row :=
  some { i := .ok (.andi (Fin.ofNat 32 f.d) (Fin.ofNat 32 f.a) (imm34 p f)), imm := true }

/-- Page 0, op6 0x05: ORI (R248). -/
def dec0x05 (p : List Pfx) (f : Fields) : Option Row :=
  some { i := .ok (.ori (Fin.ofNat 32 f.d) (Fin.ofNat 32 f.a) (imm34 p f)), imm := true }

/-- Page 0, op6 0x06: XORI (R248). -/
def dec0x06 (p : List Pfx) (f : Fields) : Option Row :=
  some { i := .ok (.xori (Fin.ofNat 32 f.d) (Fin.ofNat 32 f.a) (imm34 p f)), imm := true }

/-- Page 0, op6 0x07: SLLI (R248). -/
def dec0x07 (p : List Pfx) (f : Fields) : Option Row :=
  some { i := .ok (.slli (Fin.ofNat 32 f.d) (Fin.ofNat 32 f.a) (imm34 p f)), imm := true }

/-- Page 0, op6 0x08: SRLI (R248). -/
def dec0x08 (p : List Pfx) (f : Fields) : Option Row :=
  some { i := .ok (.srli (Fin.ofNat 32 f.d) (Fin.ofNat 32 f.a) (imm34 p f)), imm := true }

/-- Page 0, op6 0x09: SRAI (R248). -/
def dec0x09 (p : List Pfx) (f : Fields) : Option Row :=
  some { i := .ok (.srai (Fin.ofNat 32 f.d) (Fin.ofNat 32 f.a) (imm34 p f)), imm := true }

/-- Page 0, op6 0x0A: SLTI (R248). -/
def dec0x0A (p : List Pfx) (f : Fields) : Option Row :=
  some { i := .ok (.slti (Fin.ofNat 32 f.d) (Fin.ofNat 32 f.a) (imm34 p f)), imm := true }

/-- Page 0, op6 0x0B: SLTNI (R248). -/
def dec0x0B (p : List Pfx) (f : Fields) : Option Row :=
  some { i := .ok (.sltni (Fin.ofNat 32 f.d) (Fin.ofNat 32 f.a) (imm34 p f)), imm := true }

/-- Page 0, op6 0x0C: MOVI (R249). -/
def dec0x0C (p : List Pfx) (f : Fields) : Option Row :=
  some { i := .ok (.movi (Fin.ofNat 32 f.d) (imm34 p f)), ok0 := f.a == 0, imm := true }

/-- Page 0, op6 0x0D: SEXT_8, SEXT_16, SEXT_32 ... (R249). -/
def dec0x0D (_p : List Pfx) (f : Fields) : Option Row :=
  match f.fn with
  | 0 => some { i := .ok (.sext8 (Fin.ofNat 32 f.d) (Fin.ofNat 32 f.a)), ok0 := f.b == 0 }
  | 1 => some { i := .ok (.sext16 (Fin.ofNat 32 f.d) (Fin.ofNat 32 f.a)), ok0 := f.b == 0 }
  | 2 => some { i := .ok (.sext32 (Fin.ofNat 32 f.d) (Fin.ofNat 32 f.a)), ok0 := f.b == 0 }
  | 3 => some { i := .ok (.zext8 (Fin.ofNat 32 f.d) (Fin.ofNat 32 f.a)), ok0 := f.b == 0 }
  | 4 => some { i := .ok (.zext16 (Fin.ofNat 32 f.d) (Fin.ofNat 32 f.a)), ok0 := f.b == 0 }
  | 5 => some { i := .ok (.zext32 (Fin.ofNat 32 f.d) (Fin.ofNat 32 f.a)), ok0 := f.b == 0 }
  | _ => none

/-- Page 0, op6 0x10: BEQ (R252). -/
def dec0x10 (p : List Pfx) (f : Fields) : Option Row :=
  some { i := .ok (.beq (Fin.ofNat 32 f.d) (Fin.ofNat 32 f.a) (imm34 p f)), imm := true }

/-- Page 0, op6 0x11: BNE (R252). -/
def dec0x11 (p : List Pfx) (f : Fields) : Option Row :=
  some { i := .ok (.bne (Fin.ofNat 32 f.d) (Fin.ofNat 32 f.a) (imm34 p f)), imm := true }

/-- Page 0, op6 0x12: BLT (R252). -/
def dec0x12 (p : List Pfx) (f : Fields) : Option Row :=
  some { i := .ok (.blt (Fin.ofNat 32 f.d) (Fin.ofNat 32 f.a) (imm34 p f)), imm := true }

/-- Page 0, op6 0x13: BGE (R252). -/
def dec0x13 (p : List Pfx) (f : Fields) : Option Row :=
  some { i := .ok (.bge (Fin.ofNat 32 f.d) (Fin.ofNat 32 f.a) (imm34 p f)), imm := true }

/-- Page 0, op6 0x14: BLTN (R252). -/
def dec0x14 (p : List Pfx) (f : Fields) : Option Row :=
  some { i := .ok (.bltn (Fin.ofNat 32 f.d) (Fin.ofNat 32 f.a) (imm34 p f)), imm := true }

/-- Page 0, op6 0x15: BGEN (R252). -/
def dec0x15 (p : List Pfx) (f : Fields) : Option Row :=
  some { i := .ok (.bgen (Fin.ofNat 32 f.d) (Fin.ofNat 32 f.a) (imm34 p f)), imm := true }

/-- Page 0, op6 0x16: JMP (R253). -/
def dec0x16 (p : List Pfx) (f : Fields) : Option Row :=
  some { i := .ok (.jmp (off44 p f)), imm := true }

/-- Page 0, op6 0x17: JAL (R253). -/
def dec0x17 (p : List Pfx) (f : Fields) : Option Row :=
  some { i := .ok (.jal (off44 p f)), imm := true }

/-- Page 0, op6 0x18: JALR (R253). -/
def dec0x18 (p : List Pfx) (f : Fields) : Option Row :=
  some { i := .ok (.jalr (Fin.ofNat 32 f.d) (Fin.ofNat 32 f.a) (imm34 p f)), imm := true }

/-- Page 0, op6 0x19: LOOP (R255). -/
def dec0x19 (p : List Pfx) (f : Fields) : Option Row :=
  some { i := .ok (.loop (Fin.ofNat 2 f.d) (Fin.ofNat 32 f.a) (imm34u p f)), ok0 := decide (f.d < 2), imm := true }

/-- Page 0, op6 0x1A: BMASK (R254). -/
def dec0x1A (p : List Pfx) (f : Fields) : Option Row :=
  match f.a % 4 with
  | 0 => some { i := .ok (.bmaskNone (Fin.ofNat 8 f.d) (imm34 p f)), ok0 := decide (f.a < 4) && decide (f.d < 8), imm := true }
  | 1 => some { i := .ok (.bmaskAny (Fin.ofNat 8 f.d) (imm34 p f)), ok0 := decide (f.a < 4) && decide (f.d < 8), imm := true }
  | 2 => some { i := .ok (.bmaskAll (Fin.ofNat 8 f.d) (imm34 p f)), ok0 := decide (f.a < 4) && decide (f.d < 8), imm := true }
  | _ => some { i := .error (.bmaskNone (Fin.ofNat 8 f.d) 0), ok0 := decide (f.a < 4) && decide (f.d < 8), imm := true }

/-- Page 0, op6 0x1B: BFL (R361). -/
def dec0x1B (p : List Pfx) (f : Fields) : Option Row :=
  match f.a % 2 with
  | 0 => some { i := .ok (.bflClr (Fin.ofNat 16 f.d) (imm34 p f)), ok0 := decide (f.a < 2) && decide (f.d < 16), imm := true }
  | _ => some { i := .ok (.bflSet (Fin.ofNat 16 f.d) (imm34 p f)), ok0 := decide (f.a < 2) && decide (f.d < 16), imm := true }

/-- Page 0, op6 0x1C: NOP, EXIT, YIELD ... (R258). -/
def dec0x1C (_p : List Pfx) (f : Fields) : Option Row :=
  match f.fn with
  | 0 => some { i := .ok (.nop), ok0 := f.b == 0 && f.a == 0 && f.d == 0 }
  | 1 => some { i := .ok (.exit), ok0 := f.b == 0 && f.a == 0 && f.d == 0 }
  | 2 => some { i := .ok (.yield), ok0 := f.b == 0 && f.a == 0 && f.d == 0 }
  | 3 => some { i := .ok (.trap (Fin.ofNat 32 f.b)), ok0 := f.a == 0 && f.d == 0 }
  | 4 => some { i := .ok (.eret), ok0 := f.b == 0 && f.a == 0 && f.d == 0 }
  | _ => none

/-- Page 0, op6 0x1D: FADD_F32, FSUB_F32, FMUL_F32 ... (R251). -/
def dec0x1D (p : List Pfx) (f : Fields) : Option Row :=
  match f.fn with
  | 0 => some { i := .ok (.faddF32 (rndOf p) (Fin.ofNat 32 f.d) (Fin.ofNat 32 f.a) (Fin.ofNat 32 f.b)), rnd := true }
  | 1 => some { i := .ok (.fsubF32 (rndOf p) (Fin.ofNat 32 f.d) (Fin.ofNat 32 f.a) (Fin.ofNat 32 f.b)), rnd := true }
  | 2 => some { i := .ok (.fmulF32 (rndOf p) (Fin.ofNat 32 f.d) (Fin.ofNat 32 f.a) (Fin.ofNat 32 f.b)), rnd := true }
  | 3 => some { i := .ok (.fdivF32 (rndOf p) (Fin.ofNat 32 f.d) (Fin.ofNat 32 f.a) (Fin.ofNat 32 f.b)), rnd := true }
  | 4 => some { i := .ok (.fminF32 (rndOf p) (Fin.ofNat 32 f.d) (Fin.ofNat 32 f.a) (Fin.ofNat 32 f.b)), rnd := true }
  | 5 => some { i := .ok (.fmaxF32 (rndOf p) (Fin.ofNat 32 f.d) (Fin.ofNat 32 f.a) (Fin.ofNat 32 f.b)), rnd := true }
  | 6 => some { i := .ok (.fltF32 (rndOf p) (Fin.ofNat 32 f.d) (Fin.ofNat 32 f.a) (Fin.ofNat 32 f.b)), rnd := true }
  | 7 => some { i := .ok (.feqF32 (rndOf p) (Fin.ofNat 32 f.d) (Fin.ofNat 32 f.a) (Fin.ofNat 32 f.b)), rnd := true }
  | 8 => some { i := .ok (.cvtF32I64 (rndOf p) (Fin.ofNat 32 f.d) (Fin.ofNat 32 f.a)), ok0 := f.b == 0, rnd := true }
  | 9 => some { i := .ok (.cvtI64F32 (rndOf p) (Fin.ofNat 32 f.d) (Fin.ofNat 32 f.a)), ok0 := f.b == 0, rnd := true }
  | _ => none

/-- Page 0, op6 0x20: LD_I8 (R296). -/
def dec0x20 (p : List Pfx) (f : Fields) : Option Row :=
  some { i := .ok (.ldI8 (waitOf p) (Fin.ofNat 32 f.d) (Fin.ofNat 32 f.a) (imm34 p f)), imm := true, wait := true }

/-- Page 0, op6 0x21: LD_N8 (R296). -/
def dec0x21 (p : List Pfx) (f : Fields) : Option Row :=
  some { i := .ok (.ldN8 (waitOf p) (Fin.ofNat 32 f.d) (Fin.ofNat 32 f.a) (imm34 p f)), imm := true, wait := true }

/-- Page 0, op6 0x22: LD_I16 (R296). -/
def dec0x22 (p : List Pfx) (f : Fields) : Option Row :=
  some { i := .ok (.ldI16 (waitOf p) (Fin.ofNat 32 f.d) (Fin.ofNat 32 f.a) (imm34 p f)), imm := true, wait := true }

/-- Page 0, op6 0x23: LD_N16 (R296). -/
def dec0x23 (p : List Pfx) (f : Fields) : Option Row :=
  some { i := .ok (.ldN16 (waitOf p) (Fin.ofNat 32 f.d) (Fin.ofNat 32 f.a) (imm34 p f)), imm := true, wait := true }

/-- Page 0, op6 0x24: LD_I32 (R296). -/
def dec0x24 (p : List Pfx) (f : Fields) : Option Row :=
  some { i := .ok (.ldI32 (waitOf p) (Fin.ofNat 32 f.d) (Fin.ofNat 32 f.a) (imm34 p f)), imm := true, wait := true }

/-- Page 0, op6 0x25: LD_N32 (R296). -/
def dec0x25 (p : List Pfx) (f : Fields) : Option Row :=
  some { i := .ok (.ldN32 (waitOf p) (Fin.ofNat 32 f.d) (Fin.ofNat 32 f.a) (imm34 p f)), imm := true, wait := true }

/-- Page 0, op6 0x26: LD_64 (R296). -/
def dec0x26 (p : List Pfx) (f : Fields) : Option Row :=
  some { i := .ok (.ld64 (waitOf p) (Fin.ofNat 32 f.d) (Fin.ofNat 32 f.a) (imm34 p f)), imm := true, wait := true }

/-- Page 0, op6 0x27: ST_8 (R296). -/
def dec0x27 (p : List Pfx) (f : Fields) : Option Row :=
  some { i := .ok (.st8 (waitOf p) (Fin.ofNat 32 f.d) (Fin.ofNat 32 f.a) (imm34 p f)), imm := true, wait := true }

/-- Page 0, op6 0x28: ST_16 (R296). -/
def dec0x28 (p : List Pfx) (f : Fields) : Option Row :=
  some { i := .ok (.st16 (waitOf p) (Fin.ofNat 32 f.d) (Fin.ofNat 32 f.a) (imm34 p f)), imm := true, wait := true }

/-- Page 0, op6 0x29: ST_32 (R296). -/
def dec0x29 (p : List Pfx) (f : Fields) : Option Row :=
  some { i := .ok (.st32 (waitOf p) (Fin.ofNat 32 f.d) (Fin.ofNat 32 f.a) (imm34 p f)), imm := true, wait := true }

/-- Page 0, op6 0x2A: ST_64 (R296). -/
def dec0x2A (p : List Pfx) (f : Fields) : Option Row :=
  some { i := .ok (.st64 (waitOf p) (Fin.ofNat 32 f.d) (Fin.ofNat 32 f.a) (imm34 p f)), imm := true, wait := true }

/-- Page 0, op6 0x2B: PRF (R298). -/
def dec0x2B (p : List Pfx) (f : Fields) : Option Row :=
  some { i := .ok (.prf (waitOf p) (Fin.ofNat 32 f.a) (imm34 p f)), ok0 := f.d == 0, imm := true, wait := true }

/-- Page 0, op6 0x30: VADD_F32, VSUB_F32, VMUL_F32 ... (R275). -/
def dec0x30 (p : List Pfx) (f : Fields) : Option Row :=
  match f.fn with
  | 0 => some { i := .ok (.vaddF32 (rndOf p) (Fin.ofNat 32 f.d) (Fin.ofNat 32 f.a) (Fin.ofNat 32 f.b)), rnd := true }
  | 1 => some { i := .ok (.vsubF32 (rndOf p) (Fin.ofNat 32 f.d) (Fin.ofNat 32 f.a) (Fin.ofNat 32 f.b)), rnd := true }
  | 2 => some { i := .ok (.vmulF32 (rndOf p) (Fin.ofNat 32 f.d) (Fin.ofNat 32 f.a) (Fin.ofNat 32 f.b)), rnd := true }
  | 3 => some { i := .ok (.vdivF32 (rndOf p) (Fin.ofNat 32 f.d) (Fin.ofNat 32 f.a) (Fin.ofNat 32 f.b)), rnd := true }
  | 4 => some { i := .ok (.vminF32 (rndOf p) (Fin.ofNat 32 f.d) (Fin.ofNat 32 f.a) (Fin.ofNat 32 f.b)), rnd := true }
  | 5 => some { i := .ok (.vmaxF32 (rndOf p) (Fin.ofNat 32 f.d) (Fin.ofNat 32 f.a) (Fin.ofNat 32 f.b)), rnd := true }
  | 6 => some { i := .ok (.vabsF32 (rndOf p) (Fin.ofNat 32 f.d) (Fin.ofNat 32 f.a)), ok0 := f.b == 0, rnd := true }
  | 7 => some { i := .ok (.vnegF32 (rndOf p) (Fin.ofNat 32 f.d) (Fin.ofNat 32 f.a)), ok0 := f.b == 0, rnd := true }
  | 8 => some { i := .ok (.vsqrtF32 (rndOf p) (Fin.ofNat 32 f.d) (Fin.ofNat 32 f.a)), ok0 := f.b == 0, rnd := true }
  | _ => none

/-- Page 0, op6 0x31: VADD_I32, VSUB_I32, VMUL_I32 ... (R277). -/
def dec0x31 (_p : List Pfx) (f : Fields) : Option Row :=
  match f.fn with
  | 0 => some { i := .ok (.vaddI32 (Fin.ofNat 32 f.d) (Fin.ofNat 32 f.a) (Fin.ofNat 32 f.b)) }
  | 1 => some { i := .ok (.vsubI32 (Fin.ofNat 32 f.d) (Fin.ofNat 32 f.a) (Fin.ofNat 32 f.b)) }
  | 2 => some { i := .ok (.vmulI32 (Fin.ofNat 32 f.d) (Fin.ofNat 32 f.a) (Fin.ofNat 32 f.b)) }
  | 3 => some { i := .ok (.vminI32 (Fin.ofNat 32 f.d) (Fin.ofNat 32 f.a) (Fin.ofNat 32 f.b)) }
  | 4 => some { i := .ok (.vmaxI32 (Fin.ofNat 32 f.d) (Fin.ofNat 32 f.a) (Fin.ofNat 32 f.b)) }
  | 5 => some { i := .ok (.vminN32 (Fin.ofNat 32 f.d) (Fin.ofNat 32 f.a) (Fin.ofNat 32 f.b)) }
  | 6 => some { i := .ok (.vmaxN32 (Fin.ofNat 32 f.d) (Fin.ofNat 32 f.a) (Fin.ofNat 32 f.b)) }
  | 7 => some { i := .ok (.vand (Fin.ofNat 32 f.d) (Fin.ofNat 32 f.a) (Fin.ofNat 32 f.b)) }
  | 8 => some { i := .ok (.vor (Fin.ofNat 32 f.d) (Fin.ofNat 32 f.a) (Fin.ofNat 32 f.b)) }
  | 9 => some { i := .ok (.vxor (Fin.ofNat 32 f.d) (Fin.ofNat 32 f.a) (Fin.ofNat 32 f.b)) }
  | 10 => some { i := .ok (.vsllI32 (Fin.ofNat 32 f.d) (Fin.ofNat 32 f.a) (Fin.ofNat 32 f.b)) }
  | 11 => some { i := .ok (.vsrlI32 (Fin.ofNat 32 f.d) (Fin.ofNat 32 f.a) (Fin.ofNat 32 f.b)) }
  | 12 => some { i := .ok (.vsraI32 (Fin.ofNat 32 f.d) (Fin.ofNat 32 f.a) (Fin.ofNat 32 f.b)) }
  | _ => none

/-- Page 0, op6 0x32: VCMPEQ_F32, VCMPLT_F32, VCMPLE_F32 ... (R278). -/
def dec0x32 (_p : List Pfx) (f : Fields) : Option Row :=
  match f.fn with
  | 0 => some { i := .ok (.vcmpeqF32 (Fin.ofNat 8 f.d) (Fin.ofNat 32 f.a) (Fin.ofNat 32 f.b)), ok0 := decide (f.d < 8) && f.d != 0 }
  | 1 => some { i := .ok (.vcmpltF32 (Fin.ofNat 8 f.d) (Fin.ofNat 32 f.a) (Fin.ofNat 32 f.b)), ok0 := decide (f.d < 8) && f.d != 0 }
  | 2 => some { i := .ok (.vcmpleF32 (Fin.ofNat 8 f.d) (Fin.ofNat 32 f.a) (Fin.ofNat 32 f.b)), ok0 := decide (f.d < 8) && f.d != 0 }
  | 3 => some { i := .ok (.vcmpeqI32 (Fin.ofNat 8 f.d) (Fin.ofNat 32 f.a) (Fin.ofNat 32 f.b)), ok0 := decide (f.d < 8) && f.d != 0 }
  | 4 => some { i := .ok (.vcmpltI32 (Fin.ofNat 8 f.d) (Fin.ofNat 32 f.a) (Fin.ofNat 32 f.b)), ok0 := decide (f.d < 8) && f.d != 0 }
  | 5 => some { i := .ok (.vcmpltN32 (Fin.ofNat 8 f.d) (Fin.ofNat 32 f.a) (Fin.ofNat 32 f.b)), ok0 := decide (f.d < 8) && f.d != 0 }
  | _ => none

/-- Page 0, op6 0x33: VSEL (R279). -/
def dec0x33 (_p : List Pfx) (f : Fields) : Option Row :=
  some { i := .ok (.vsel (Fin.ofNat 32 f.d) (Fin.ofNat 32 f.a) (Fin.ofNat 32 f.b) (Fin.ofNat 8 f.fn)), ok0 := decide (f.fn < 8) }

/-- Page 0, op6 0x34: VLD (R290). -/
def dec0x34 (p : List Pfx) (f : Fields) : Option Row :=
  some { i := .ok (.vld (waitOf p) (Fin.ofNat 32 f.d) (Fin.ofNat 32 f.a) (imm34 p f)), imm := true, wait := true }

/-- Page 0, op6 0x35: VST (R291). -/
def dec0x35 (p : List Pfx) (f : Fields) : Option Row :=
  some { i := .ok (.vst (waitOf p) (rndOf p) (Fin.ofNat 32 f.d) (Fin.ofNat 32 f.a) (imm34 p f)), imm := true, rnd := true, wait := true }

/-- Page 0, op6 0x36: VBCAST_32, VBCAST_16, VBCAST_8 (R280). -/
def dec0x36 (_p : List Pfx) (f : Fields) : Option Row :=
  match f.fn with
  | 0 => some { i := .ok (.vbcast32 (Fin.ofNat 32 f.d) (Fin.ofNat 32 f.a)), ok0 := f.b == 0 }
  | 1 => some { i := .ok (.vbcast16 (Fin.ofNat 32 f.d) (Fin.ofNat 32 f.a)), ok0 := f.b == 0 }
  | 2 => some { i := .ok (.vbcast8 (Fin.ofNat 32 f.d) (Fin.ofNat 32 f.a)), ok0 := f.b == 0 }
  | _ => none

/-- Page 0, op6 0x37: VMOVX (R281). -/
def dec0x37 (_p : List Pfx) (f : Fields) : Option Row :=
  match f.fn with
  | 0 => some { i := .ok (.vmovx (Fin.ofNat 32 f.d) (Fin.ofNat 32 f.a) (Fin.ofNat 32 f.b)) }
  | _ => none

/-- The majors of page 0 (Tables 9.6 to 9.8). -/
def decPage0 (p : List Pfx) (f : Fields) : Option Row :=
  match f.op with
  | 0x01 => dec0x01 p f
  | 0x02 => dec0x02 p f
  | 0x03 => dec0x03 p f
  | 0x04 => dec0x04 p f
  | 0x05 => dec0x05 p f
  | 0x06 => dec0x06 p f
  | 0x07 => dec0x07 p f
  | 0x08 => dec0x08 p f
  | 0x09 => dec0x09 p f
  | 0x0A => dec0x0A p f
  | 0x0B => dec0x0B p f
  | 0x0C => dec0x0C p f
  | 0x0D => dec0x0D p f
  | 0x10 => dec0x10 p f
  | 0x11 => dec0x11 p f
  | 0x12 => dec0x12 p f
  | 0x13 => dec0x13 p f
  | 0x14 => dec0x14 p f
  | 0x15 => dec0x15 p f
  | 0x16 => dec0x16 p f
  | 0x17 => dec0x17 p f
  | 0x18 => dec0x18 p f
  | 0x19 => dec0x19 p f
  | 0x1A => dec0x1A p f
  | 0x1B => dec0x1B p f
  | 0x1C => dec0x1C p f
  | 0x1D => dec0x1D p f
  | 0x20 => dec0x20 p f
  | 0x21 => dec0x21 p f
  | 0x22 => dec0x22 p f
  | 0x23 => dec0x23 p f
  | 0x24 => dec0x24 p f
  | 0x25 => dec0x25 p f
  | 0x26 => dec0x26 p f
  | 0x27 => dec0x27 p f
  | 0x28 => dec0x28 p f
  | 0x29 => dec0x29 p f
  | 0x2A => dec0x2A p f
  | 0x2B => dec0x2B p f
  | 0x30 => dec0x30 p f
  | 0x31 => dec0x31 p f
  | 0x32 => dec0x32 p f
  | 0x33 => dec0x33 p f
  | 0x34 => dec0x34 p f
  | 0x35 => dec0x35 p f
  | 0x36 => dec0x36 p f
  | 0x37 => dec0x37 p f
  | _ => none

/-- Page 1, op6 0x01: VCVT_F32_I32, VCVT_I32_F32, VCVT_BF16_F32 ... (R283). -/
def dec1x01 (p : List Pfx) (f : Fields) : Option Row :=
  match f.fn with
  | 0 => some { i := .ok (.vcvtF32I32 (rndOf p) (Fin.ofNat 32 f.d) (Fin.ofNat 32 f.a)), ok0 := f.b == 0, rnd := true }
  | 1 => some { i := .ok (.vcvtI32F32 (rndOf p) (Fin.ofNat 32 f.d) (Fin.ofNat 32 f.a)), ok0 := f.b == 0, rnd := true }
  | 2 => some { i := .ok (.vcvtBf16F32 (rndOf p) (Fin.ofNat 32 f.d) (Fin.ofNat 32 f.a) (Fin.ofNat 32 f.b)), rnd := true }
  | 3 => some { i := .ok (.vcvtF32Bf16 (rndOf p) (Fin.ofNat 32 f.d) (Fin.ofNat 32 f.a)), ok0 := f.b == 0, rnd := true }
  | 4 => some { i := .ok (.vcvtF16F32 (rndOf p) (Fin.ofNat 32 f.d) (Fin.ofNat 32 f.a) (Fin.ofNat 32 f.b)), rnd := true }
  | 5 => some { i := .ok (.vcvtF32F16 (rndOf p) (Fin.ofNat 32 f.d) (Fin.ofNat 32 f.a)), ok0 := f.b == 0, rnd := true }
  | 6 => some { i := .ok (.vcvtE4m3F32 (rndOf p) (Fin.ofNat 32 f.d) (Fin.ofNat 32 f.a)), ok0 := f.b == 0, rnd := true }
  | 7 => some { i := .ok (.vcvtE5m2F32 (rndOf p) (Fin.ofNat 32 f.d) (Fin.ofNat 32 f.a)), ok0 := f.b == 0, rnd := true }
  | 8 => some { i := .ok (.vcvtF32E4m3 (rndOf p) (Fin.ofNat 32 f.d) (Fin.ofNat 32 f.a)), ok0 := f.b == 0, rnd := true }
  | 9 => some { i := .ok (.vcvtF32E5m2 (rndOf p) (Fin.ofNat 32 f.d) (Fin.ofNat 32 f.a)), ok0 := f.b == 0, rnd := true }
  | _ => none

/-- Page 1, op6 0x02: VPERM, VSLIDEUP, VSLIDEDN ... (R282). -/
def dec1x02 (_p : List Pfx) (f : Fields) : Option Row :=
  match f.fn with
  | 0 => some { i := .ok (.vperm (Fin.ofNat 32 f.d) (Fin.ofNat 32 f.a) (Fin.ofNat 32 f.b)) }
  | 1 => some { i := .ok (.vslideup (Fin.ofNat 32 f.d) (Fin.ofNat 32 f.a) (Fin.ofNat 32 f.b)) }
  | 2 => some { i := .ok (.vslidedn (Fin.ofNat 32 f.d) (Fin.ofNat 32 f.a) (Fin.ofNat 32 f.b)) }
  | 3 => some { i := .ok (.vzip (Fin.ofNat 32 f.d) (Fin.ofNat 32 f.a) (Fin.ofNat 32 f.b)) }
  | 4 => some { i := .ok (.vunzip (Fin.ofNat 32 f.d) (Fin.ofNat 32 f.a) (Fin.ofNat 32 f.b)) }
  | 5 => some { i := .ok (.vrev (Fin.ofNat 32 f.d) (Fin.ofNat 32 f.a)), ok0 := f.b == 0 }
  | _ => none

/-- Page 1, op6 0x03: VRED_ADD_F32, VRED_MAX_F32, VRED_MIN_F32 ... (R284). -/
def dec1x03 (p : List Pfx) (f : Fields) : Option Row :=
  match f.fn with
  | 0 => some { i := .ok (.vredAddF32 (rndOf p) (Fin.ofNat 32 f.d) (Fin.ofNat 32 f.a) (Fin.ofNat 8 f.b)), ok0 := decide (f.b < 8), rnd := true }
  | 1 => some { i := .ok (.vredMaxF32 (rndOf p) (Fin.ofNat 32 f.d) (Fin.ofNat 32 f.a) (Fin.ofNat 8 f.b)), ok0 := decide (f.b < 8), rnd := true }
  | 2 => some { i := .ok (.vredMinF32 (rndOf p) (Fin.ofNat 32 f.d) (Fin.ofNat 32 f.a) (Fin.ofNat 8 f.b)), ok0 := decide (f.b < 8), rnd := true }
  | 3 => some { i := .ok (.vredAddI32 (rndOf p) (Fin.ofNat 32 f.d) (Fin.ofNat 32 f.a) (Fin.ofNat 8 f.b)), ok0 := decide (f.b < 8), rnd := true }
  | _ => none

/-- Page 1, op6 0x04: MAND, MOR, MXOR ... (R285). -/
def dec1x04 (_p : List Pfx) (f : Fields) : Option Row :=
  match f.fn with
  | 0 => some { i := .ok (.mand (Fin.ofNat 8 f.d) (Fin.ofNat 8 f.a) (Fin.ofNat 8 f.b)), ok0 := decide (f.b < 8) && decide (f.a < 8) && decide (f.d < 8) && f.d != 0 }
  | 1 => some { i := .ok (.mor (Fin.ofNat 8 f.d) (Fin.ofNat 8 f.a) (Fin.ofNat 8 f.b)), ok0 := decide (f.b < 8) && decide (f.a < 8) && decide (f.d < 8) && f.d != 0 }
  | 2 => some { i := .ok (.mxor (Fin.ofNat 8 f.d) (Fin.ofNat 8 f.a) (Fin.ofNat 8 f.b)), ok0 := decide (f.b < 8) && decide (f.a < 8) && decide (f.d < 8) && f.d != 0 }
  | 3 => some { i := .ok (.mnot (Fin.ofNat 8 f.d) (Fin.ofNat 8 f.a)), ok0 := f.b == 0 && decide (f.a < 8) && decide (f.d < 8) && f.d != 0 }
  | 4 => some { i := .ok (.mpopc (Fin.ofNat 32 f.d) (Fin.ofNat 8 f.a)), ok0 := f.b == 0 && decide (f.a < 8) }
  | 5 => some { i := .ok (.mfirst (Fin.ofNat 32 f.d) (Fin.ofNat 8 f.a)), ok0 := f.b == 0 && decide (f.a < 8) }
  | _ => none

/-- Page 1, op6 0x05: VQUANT_B48E4M3, VQUANT_B48E5M2, VQUANT_B48E2M1 ... (R286). -/
def dec1x05 (p : List Pfx) (f : Fields) : Option Row :=
  match f.fn with
  | 0 => some { i := .ok (.vquantB48e4m3 (rndOf p) (Fin.ofNat 32 f.d) (Fin.ofNat 32 f.a) (Fin.ofNat 32 f.b)), rnd := true }
  | 1 => some { i := .ok (.vquantB48e5m2 (rndOf p) (Fin.ofNat 32 f.d) (Fin.ofNat 32 f.a) (Fin.ofNat 32 f.b)), rnd := true }
  | 2 => some { i := .ok (.vquantB48e2m1 (rndOf p) (Fin.ofNat 32 f.d) (Fin.ofNat 32 f.a) (Fin.ofNat 32 f.b)), rnd := true }
  | 3 => some { i := .ok (.vquantB48i8 (rndOf p) (Fin.ofNat 32 f.d) (Fin.ofNat 32 f.a) (Fin.ofNat 32 f.b)), rnd := true }
  | 4 => some { i := .ok (.vquantB48i4 (rndOf p) (Fin.ofNat 32 f.d) (Fin.ofNat 32 f.a) (Fin.ofNat 32 f.b)), rnd := true }
  | 5 => some { i := .ok (.vquantB48t2 (rndOf p) (Fin.ofNat 32 f.d) (Fin.ofNat 32 f.a) (Fin.ofNat 32 f.b)), rnd := true }
  | _ => none

/-- Page 1, op6 0x06: VDEQ_B48E4M3, VDEQ_B48E5M2, VDEQ_B48E2M1 ... (R287). -/
def dec1x06 (_p : List Pfx) (f : Fields) : Option Row :=
  match f.fn with
  | 0 => some { i := .ok (.vdeqB48e4m3 (Fin.ofNat 32 f.d) (Fin.ofNat 32 f.a) (Fin.ofNat 32 f.b)) }
  | 1 => some { i := .ok (.vdeqB48e5m2 (Fin.ofNat 32 f.d) (Fin.ofNat 32 f.a) (Fin.ofNat 32 f.b)) }
  | 2 => some { i := .ok (.vdeqB48e2m1 (Fin.ofNat 32 f.d) (Fin.ofNat 32 f.a) (Fin.ofNat 32 f.b)) }
  | 3 => some { i := .ok (.vdeqB48i8 (Fin.ofNat 32 f.d) (Fin.ofNat 32 f.a) (Fin.ofNat 32 f.b)) }
  | 4 => some { i := .ok (.vdeqB48i4 (Fin.ofNat 32 f.d) (Fin.ofNat 32 f.a) (Fin.ofNat 32 f.b)) }
  | 5 => some { i := .ok (.vdeqB48t2 (Fin.ofNat 32 f.d) (Fin.ofNat 32 f.a) (Fin.ofNat 32 f.b)) }
  | _ => none

/-- Page 1, op6 0x07: VSPILL (R293). -/
def dec1x07 (_p : List Pfx) (f : Fields) : Option Row :=
  some { i := .ok (.vspill (Fin.ofNat 32 f.a) (Fin.ofNat 512 f.imm9)), ok0 := f.d == 0 }

/-- Page 1, op6 0x08: VFILL (R293). -/
def dec1x08 (_p : List Pfx) (f : Fields) : Option Row :=
  some { i := .ok (.vfill (Fin.ofNat 32 f.d) (Fin.ofNat 512 f.imm9)), ok0 := f.a == 0 }

/-- The majors of page 1 (Tables 9.6 to 9.8). -/
def decPage1 (p : List Pfx) (f : Fields) : Option Row :=
  match f.op with
  | 0x01 => dec1x01 p f
  | 0x02 => dec1x02 p f
  | 0x03 => dec1x03 p f
  | 0x04 => dec1x04 p f
  | 0x05 => dec1x05 p f
  | 0x06 => dec1x06 p f
  | 0x07 => dec1x07 p f
  | 0x08 => dec1x08 p f
  | _ => none

/-- Page 2, op6 0x01: RDC (R262). -/
def dec2x01 (_p : List Pfx) (f : Fields) : Option Row :=
  some { i := .ok (.rdc (Fin.ofNat 32 f.d) (Fin.ofNat 512 f.imm9)), ok0 := f.a == 0 }

/-- Page 2, op6 0x02: WRC (R262). -/
def dec2x02 (_p : List Pfx) (f : Fields) : Option Row :=
  some { i := .ok (.wrc (Fin.ofNat 512 f.imm9) (Fin.ofNat 32 f.a)), ok0 := f.d == 0 }

/-- Page 2, op6 0x03: FENCE_J, FENCE_M, FENCE_K (R128). -/
def dec2x03 (_p : List Pfx) (f : Fields) : Option Row :=
  match f.fn with
  | 0 => some { i := .ok (.fenceJ (Fin.ofNat 8 f.b)), ok0 := decide (f.b < 8) && f.a == 0 && f.d == 0 }
  | 1 => some { i := .ok (.fenceM (Fin.ofNat 8 f.b)), ok0 := decide (f.b < 8) && f.a == 0 && f.d == 0 }
  | 2 => some { i := .ok (.fenceK (Fin.ofNat 8 f.b)), ok0 := decide (f.b < 8) && f.a == 0 && f.d == 0 }
  | _ => none

/-- Page 2, op6 0x04: CLEANR, INVALR (R265). -/
def dec2x04 (p : List Pfx) (f : Fields) : Option Row :=
  match f.fn with
  | 0 => some { i := .ok (.cleanr (waitOf p) (Fin.ofNat 32 f.a) (Fin.ofNat 32 f.b)), ok0 := f.d == 0, wait := true }
  | 1 => some { i := .ok (.invalr (waitOf p) (Fin.ofNat 32 f.a) (Fin.ofNat 32 f.b)), ok0 := f.d == 0, wait := true }
  | _ => none

/-- Page 2, op6 0x05: SPAWN (R266). -/
def dec2x05 (_p : List Pfx) (f : Fields) : Option Row :=
  match f.fn with
  | 0 => some { i := .ok (.spawn (Fin.ofNat 32 f.a)), ok0 := f.b == 0 && f.d == 0 }
  | _ => none

/-- Page 2, op6 0x06: HALT (R267). -/
def dec2x06 (_p : List Pfx) (f : Fields) : Option Row :=
  match f.fn with
  | 0 => some { i := .ok (.halt), ok0 := f.b == 0 && f.a == 0 && f.d == 0 }
  | _ => none

/-- Page 2, op6 0x10: SEND (R356). -/
def dec2x10 (_p : List Pfx) (f : Fields) : Option Row :=
  match f.fn with
  | 0 => some { i := .ok (.send (Fin.ofNat 32 f.d) (Fin.ofNat 32 f.a) (Fin.ofNat 32 f.b)) }
  | _ => none

/-- Page 2, op6 0x11: SENDH (R356). -/
def dec2x11 (_p : List Pfx) (f : Fields) : Option Row :=
  match f.fn with
  | 0 => some { i := .ok (.sendh (Fin.ofNat 32 f.d) (Fin.ofNat 32 f.a) (Fin.ofNat 32 f.b)) }
  | _ => none

/-- Page 2, op6 0x12: RECV, RECV_LD, RECV_ST (R357). -/
def dec2x12 (_p : List Pfx) (f : Fields) : Option Row :=
  match f.fn with
  | 0 => some { i := .ok (.recv (Fin.ofNat 32 f.d)), ok0 := f.b == 0 && f.a == 0 }
  | 1 => some { i := .ok (.recvLd (Fin.ofNat 32 f.d) (Fin.ofNat 32 f.a)), ok0 := f.b == 0 }
  | 2 => some { i := .ok (.recvSt (Fin.ofNat 32 f.a) (Fin.ofNat 32 f.b)), ok0 := f.d == 0 }
  | _ => none

/-- Page 2, op6 0x13: REPLY (R358). -/
def dec2x13 (_p : List Pfx) (f : Fields) : Option Row :=
  match f.fn with
  | 0 => some { i := .ok (.reply (Fin.ofNat 32 f.a) (Fin.ofNat 32 f.b)), ok0 := f.d == 0 }
  | _ => none

/-- Page 2, op6 0x14: MRET (R359). -/
def dec2x14 (_p : List Pfx) (f : Fields) : Option Row :=
  match f.fn with
  | 0 => some { i := .ok (.mret), ok0 := f.b == 0 && f.a == 0 && f.d == 0 }
  | _ => none

/-- Page 2, op6 0x15: DTCFG (R360). -/
def dec2x15 (_p : List Pfx) (f : Fields) : Option Row :=
  match f.fn with
  | 0 => some { i := .ok (.dtcfg (Fin.ofNat 32 f.a) (Fin.ofNat 32 f.b)), ok0 := f.d == 0 }
  | _ => none

/-- Page 2, op6 0x16: BQPUSH (R363). -/
def dec2x16 (_p : List Pfx) (f : Fields) : Option Row :=
  match f.fn with
  | 0 => some { i := .ok (.bqpush (Fin.ofNat 32 f.a)), ok0 := f.b == 0 && f.d == 0 }
  | _ => none

/-- Page 2, op6 0x17: BQWAIT (R364). -/
def dec2x17 (_p : List Pfx) (f : Fields) : Option Row :=
  match f.fn with
  | 0 => some { i := .ok (.bqwait (Fin.ofNat 32 f.d)), ok0 := f.b == 0 && f.a == 0 }
  | _ => none

/-- Page 2, op6 0x18: RCOMB_ADD_F32, RCOMB_MAX_F32, RCOMB_MIN_F32 ... (R362). `b` other than 0 with op 6 or 7 is judged by the entry,
after the class (log 98). -/
def dec2x18 (_p : List Pfx) (f : Fields) : Option Row :=
  match f.fn with
  | 0 => some { i := .ok (.rcombAddF32 (Fin.ofNat 32 f.d) (Fin.ofNat 32 f.a) (Fin.ofNat 32 f.b)) }
  | 1 => some { i := .ok (.rcombMaxF32 (Fin.ofNat 32 f.d) (Fin.ofNat 32 f.a) (Fin.ofNat 32 f.b)) }
  | 2 => some { i := .ok (.rcombMinF32 (Fin.ofNat 32 f.d) (Fin.ofNat 32 f.a) (Fin.ofNat 32 f.b)) }
  | 3 => some { i := .ok (.rcombAddI32 (Fin.ofNat 32 f.d) (Fin.ofNat 32 f.a) (Fin.ofNat 32 f.b)) }
  | 4 => some { i := .ok (.rcombMaxI32 (Fin.ofNat 32 f.d) (Fin.ofNat 32 f.a) (Fin.ofNat 32 f.b)) }
  | 5 => some { i := .ok (.rcombMinI32 (Fin.ofNat 32 f.d) (Fin.ofNat 32 f.a) (Fin.ofNat 32 f.b)) }
  | 6 => some { i := if f.b == 0 then .ok (.rcombWidBf16 (Fin.ofNat 32 f.d) (Fin.ofNat 32 f.a)) else .error (.rcombWidBf16 (Fin.ofNat 32 f.d) (Fin.ofNat 32 f.a)) }
  | 7 => some { i := if f.b == 0 then .ok (.rcombNarBf16 (Fin.ofNat 32 f.d) (Fin.ofNat 32 f.a)) else .error (.rcombNarBf16 (Fin.ofNat 32 f.d) (Fin.ofNat 32 f.a)) }
  | _ => none

/-- Page 2, op6 0x19: BADDQ_B48E4M3, BADDQ_B48E5M2, BADDQ_B48E2M1 ... (R288). -/
def dec2x19 (p : List Pfx) (f : Fields) : Option Row :=
  match f.fn with
  | 0 => some { i := .ok (.baddqB48e4m3 (rndOf p) (Fin.ofNat 32 f.d) (Fin.ofNat 32 f.a) (Fin.ofNat 32 f.b)), rnd := true }
  | 1 => some { i := .ok (.baddqB48e5m2 (rndOf p) (Fin.ofNat 32 f.d) (Fin.ofNat 32 f.a) (Fin.ofNat 32 f.b)), rnd := true }
  | 2 => some { i := .ok (.baddqB48e2m1 (rndOf p) (Fin.ofNat 32 f.d) (Fin.ofNat 32 f.a) (Fin.ofNat 32 f.b)), rnd := true }
  | 3 => some { i := .ok (.baddqB48i8 (rndOf p) (Fin.ofNat 32 f.d) (Fin.ofNat 32 f.a) (Fin.ofNat 32 f.b)), rnd := true }
  | 4 => some { i := .ok (.baddqB48i4 (rndOf p) (Fin.ofNat 32 f.d) (Fin.ofNat 32 f.a) (Fin.ofNat 32 f.b)), rnd := true }
  | _ => none

/-- The majors of page 2 (Tables 9.6 to 9.8). -/
def decPage2 (p : List Pfx) (f : Fields) : Option Row :=
  match f.op with
  | 0x01 => dec2x01 p f
  | 0x02 => dec2x02 p f
  | 0x03 => dec2x03 p f
  | 0x04 => dec2x04 p f
  | 0x05 => dec2x05 p f
  | 0x06 => dec2x06 p f
  | 0x10 => dec2x10 p f
  | 0x11 => dec2x11 p f
  | 0x12 => dec2x12 p f
  | 0x13 => dec2x13 p f
  | 0x14 => dec2x14 p f
  | 0x15 => dec2x15 p f
  | 0x16 => dec2x16 p f
  | 0x17 => dec2x17 p f
  | 0x18 => dec2x18 p f
  | 0x19 => dec2x19 p f
  | _ => none

/-- The 64-bit opcodes 0x01 to 0x0A (Table 9.10). -/
def dec64Lattice (_p : List Pfx) (f : Fields64) (w1 : Nat) : Option Row :=
  match f.op with
  | 0x01 => some { i := .ok (.join (Fin.ofNat 4 f.w) (Fin.ofNat 16 (bits w1 15 12)) (bits w1 11 11 == 1) (BitVec.ofNat 16 (bits w1 31 16)) (Fin.ofNat 32 f.a) (Fin.ofNat 32 f.b) (Fin.ofNat 32 (bits w1 4 0))), ok0 := f.d == 0, ok1 := bits w1 10 5 == 0, page := false }
  | 0x02 => some { i := .ok (.joinv (Fin.ofNat 4 f.w) (Fin.ofNat 16 (bits w1 15 12)) (Fin.ofNat 8 (bits w1 11 9)) (BitVec.ofNat 16 (bits w1 31 16)) (Fin.ofNat 32 f.d) (Fin.ofNat 32 f.a) (Fin.ofNat 32 f.b) (Fin.ofNat 32 (bits w1 4 0))), ok1 := bits w1 8 5 == 0, page := false }
  | 0x03 => some { i := .ok (.fill (Fin.ofNat 4 f.w) (Fin.ofNat 4 (bits w1 11 10)) (Fin.ofNat 16 (bits w1 8 5)) (BitVec.ofNat 16 (bits w1 31 16)) (Fin.ofNat 32 f.a) (Fin.ofNat 32 f.b) (Fin.ofNat 32 (bits w1 4 0))), ok0 := f.d == 0, ok1 := bits w1 9 9 == 0 && bits w1 15 12 == 0, page := false }
  | 0x04 => some { i := .ok (.thr (Fin.ofNat 4 f.w) (Fin.ofNat 16 (bits w1 15 12)) (Fin.ofNat 8 (bits w1 11 9)) (Fin.ofNat 16 (bits w1 8 5)) (BitVec.ofNat 16 (bits w1 31 16)) (Fin.ofNat 32 f.d) (Fin.ofNat 32 f.a) (Fin.ofNat 32 f.b) (Fin.ofNat 32 (bits w1 4 0))), ok1 := bits w1 11 9 != 0 || bits w1 4 0 == 0, page := false }
  | 0x05 => some { i := .ok (.thrF (Fin.ofNat 4 f.w) (Fin.ofNat 16 (bits w1 15 12)) (Fin.ofNat 16 (bits w1 8 5)) (BitVec.ofNat 16 (bits w1 31 16)) (Fin.ofNat 32 f.d) (Fin.ofNat 32 f.a) (Fin.ofNat 32 f.b)), ok1 := bits w1 4 0 == 0 && bits w1 11 9 == 0, page := false }
  | 0x06 => some { i := .ok (.freeze (Fin.ofNat 4 f.w) (Fin.ofNat 16 (bits w1 15 12)) (Fin.ofNat 16 (bits w1 8 5)) (BitVec.ofNat 16 (bits w1 31 16)) (Fin.ofNat 32 f.a) (Fin.ofNat 32 f.b)), ok0 := f.d == 0, ok1 := bits w1 4 0 == 0 && bits w1 11 9 == 0, page := false }
  | 0x07 => some { i := .ok (.freezeR (Fin.ofNat 4 f.w) (BitVec.ofNat 16 (bits w1 31 16)) (Fin.ofNat 32 f.a) (Fin.ofNat 32 f.b) (Fin.ofNat 32 (bits w1 4 0))), ok0 := f.d == 0, ok1 := bits w1 15 5 == 0, page := false }
  | 0x08 => some { i := .ok (.frd (Fin.ofNat 4 f.w) (Fin.ofNat 4 (bits w1 6 5)) (BitVec.ofNat 16 (bits w1 31 16)) (Fin.ofNat 32 f.d) (Fin.ofNat 32 f.a) (Fin.ofNat 32 f.b)), ok1 := bits w1 4 0 == 0 && bits w1 15 7 == 0, page := false }
  | 0x09 => some { i := .ok (.frdv (Fin.ofNat 4 f.w) (Fin.ofNat 4 (bits w1 6 5)) (BitVec.ofNat 16 (bits w1 31 16)) (Fin.ofNat 32 f.d) (Fin.ofNat 32 f.a) (Fin.ofNat 32 f.b)), ok1 := bits w1 4 0 == 0 && bits w1 15 7 == 0, page := false }
  | 0x0A => some { i := .ok (.renew (Fin.ofNat 4 f.w) (Fin.ofNat 16 (bits w1 15 12)) (Fin.ofNat 16 (bits w1 8 5)) (BitVec.ofNat 16 (bits w1 31 16)) (Fin.ofNat 32 f.a) (Fin.ofNat 32 f.b)), ok0 := f.d == 0, ok1 := bits w1 4 0 == 0 && bits w1 11 9 == 0, page := false }
  | _ => none

/-- The 64-bit opcodes 0x20 to 0x37 (Table 9.10). The a field of a copy to a ring may name any register, which is then read and
not used (log 73). -/
def dec64Engine (p : List Pfx) (f : Fields64) (w1 : Nat) : Option Row :=
  match f.op with
  | 0x20 => some { i := .ok (.mxsBf16 (afterOf w1) (bits w1 10 10 == 1) (bits w1 9 9 == 1) (bits w1 8 8 == 1) (Fin.ofNat 8 (bits w1 7 5)) (Fin.ofNat 16 f.d) (Fin.ofNat 32 f.a) (Fin.ofNat 32 f.b) (Fin.ofNat 32 (bits w1 4 0))), ok0 := decide (f.d < 16), ok1 := afterOk w1 && bits w1 17 11 == 0, wok := f.w == 0, page := false }
  | 0x21 => some { i := .ok (.mxsF16 (afterOf w1) (bits w1 10 10 == 1) (bits w1 9 9 == 1) (bits w1 8 8 == 1) (Fin.ofNat 8 (bits w1 7 5)) (Fin.ofNat 16 f.d) (Fin.ofNat 32 f.a) (Fin.ofNat 32 f.b) (Fin.ofNat 32 (bits w1 4 0))), ok0 := decide (f.d < 16), ok1 := afterOk w1 && bits w1 17 11 == 0, wok := f.w == 0, page := false }
  | 0x22 => some { i := .ok (.mxsF8 (afterOf w1) (bits w1 10 10 == 1) (bits w1 9 9 == 1) (bits w1 8 8 == 1) (Fin.ofNat 8 (bits w1 7 5)) (Fin.ofNat 16 f.d) (Fin.ofNat 32 f.a) (Fin.ofNat 32 f.b) (Fin.ofNat 32 (bits w1 4 0))), ok0 := decide (f.d < 16), ok1 := afterOk w1 && bits w1 17 11 == 0, wok := f.w == 0, page := false }
  | 0x23 => some { i := .ok (.mxsE2m1 (afterOf w1) (bits w1 10 10 == 1) (bits w1 9 9 == 1) (bits w1 8 8 == 1) (Fin.ofNat 8 (bits w1 7 5)) (Fin.ofNat 16 f.d) (Fin.ofNat 32 f.a) (Fin.ofNat 32 f.b) (Fin.ofNat 32 (bits w1 4 0))), ok0 := decide (f.d < 16), ok1 := afterOk w1 && bits w1 17 11 == 0, wok := f.w == 0, page := false }
  | 0x24 => some { i := .ok (.mxsI8 (afterOf w1) (bits w1 10 10 == 1) (bits w1 9 9 == 1) (bits w1 8 8 == 1) (Fin.ofNat 8 (bits w1 7 5)) (Fin.ofNat 16 f.d) (Fin.ofNat 32 f.a) (Fin.ofNat 32 f.b) (Fin.ofNat 32 (bits w1 4 0))), ok0 := decide (f.d < 16), ok1 := afterOk w1 && bits w1 17 11 == 0, wok := f.w == 0, page := false }
  | 0x25 => some { i := .ok (.mxsI4 (afterOf w1) (bits w1 10 10 == 1) (bits w1 9 9 == 1) (bits w1 8 8 == 1) (Fin.ofNat 8 (bits w1 7 5)) (Fin.ofNat 16 f.d) (Fin.ofNat 32 f.a) (Fin.ofNat 32 f.b) (Fin.ofNat 32 (bits w1 4 0))), ok0 := decide (f.d < 16), ok1 := afterOk w1 && bits w1 17 11 == 0, wok := f.w == 0, page := false }
  | 0x26 => some { i := .ok (.mxsT2 (afterOf w1) (bits w1 10 10 == 1) (bits w1 9 9 == 1) (bits w1 8 8 == 1) (Fin.ofNat 8 (bits w1 7 5)) (Fin.ofNat 16 f.d) (Fin.ofNat 32 f.a) (Fin.ofNat 32 f.b) (Fin.ofNat 32 (bits w1 4 0))), ok0 := decide (f.d < 16), ok1 := afterOk w1 && bits w1 17 11 == 0, wok := f.w == 0, page := false }
  | 0x27 => some { i := .ok (.mxsB48 (afterOf w1) (bits w1 10 10 == 1) (bits w1 9 9 == 1) (bits w1 8 8 == 1) (Fin.ofNat 8 (bits w1 7 5)) (Fin.ofNat 16 f.d) (Fin.ofNat 32 f.a) (Fin.ofNat 32 f.b) (Fin.ofNat 32 (bits w1 4 0))), ok0 := decide (f.d < 16), ok1 := afterOk w1 && bits w1 17 11 == 0, wok := f.w == 0, page := false }
  | 0x28 => some { i := .ok (.mxz (afterOf w1) (Fin.ofNat 16 f.d) (Fin.ofNat 32 f.b) (Fin.ofNat 32 (bits w1 4 0))), ok0 := f.a == 0 && decide (f.d < 16), ok1 := afterOk w1 && bits w1 17 5 == 0, wok := f.w == 0, page := false }
  | 0x29 => some { i := .ok (.mxe (rndOf p) (afterOf w1) (bits w1 10 10 == 1) (bits w1 9 9 == 1) (bits w1 8 8 == 1) (Fin.ofNat 8 (bits w1 7 5)) (Fin.ofNat 16 f.d) (Fin.ofNat 32 f.a) (Fin.ofNat 32 f.b) (Fin.ofNat 32 (bits w1 4 0))), ok0 := decide (f.d < 16), ok1 := afterOk w1 && bits w1 17 11 == 0, wok := f.w == 0, rnd := true, page := false }
  | 0x2A => some { i := .ok (.ringcfg (Fin.ofNat 8 (bits w1 7 5)) (Fin.ofNat 32 f.a) (Fin.ofNat 32 f.b)), ok0 := f.d == 0, ok1 := bits w1 4 0 == 0 && bits w1 31 8 == 0, wok := f.w == 0, page := false }
  | 0x30 => some { i := .ok (.cpy (Fin.ofNat 4 f.w) (rndOf p) (afterOf w1) (Fin.ofNat 8 (bits w1 17 15)) (Fin.ofNat 8 (bits w1 14 12)) (Fin.ofNat 16 (bits w1 11 8)) (Fin.ofNat 8 (bits w1 7 5)) (Fin.ofNat 16 f.d) (Fin.ofNat 32 f.a) (Fin.ofNat 32 f.b) (Fin.ofNat 32 (bits w1 4 0))), ok0 := decide (f.d < 16), ok1 := afterOk w1, rnd := true, page := false }
  | 0x31 => some { i := .ok (.cpya (Fin.ofNat 4 f.w) (rndOf p) (afterOf w1) (Fin.ofNat 8 (bits w1 17 15)) (Fin.ofNat 8 (bits w1 14 12)) (Fin.ofNat 8 (bits w1 7 5)) (Fin.ofNat 16 f.d) (Fin.ofNat 32 f.a) (Fin.ofNat 32 f.b) (Fin.ofNat 32 (bits w1 4 0))), ok0 := decide (f.d < 16), ok1 := afterOk w1 && bits w1 11 8 == 0, rnd := true, page := false }
  | 0x32 => some { i := .ok (.cpyg (Fin.ofNat 4 f.w) (rndOf p) (afterOf w1) (Fin.ofNat 8 (bits w1 17 15)) (Fin.ofNat 8 (bits w1 14 12)) (Fin.ofNat 8 (bits w1 7 5)) (Fin.ofNat 16 f.d) (Fin.ofNat 32 f.a) (Fin.ofNat 32 f.b) (Fin.ofNat 32 (bits w1 4 0))), ok0 := decide (f.d < 16), ok1 := afterOk w1 && bits w1 11 8 == 0, rnd := true, page := false }
  | 0x33 => some { i := .ok (.cpys (Fin.ofNat 4 f.w) (rndOf p) (afterOf w1) (Fin.ofNat 8 (bits w1 17 15)) (Fin.ofNat 8 (bits w1 14 12)) (Fin.ofNat 16 f.d) (Fin.ofNat 32 f.a) (Fin.ofNat 32 f.b) (Fin.ofNat 32 (bits w1 4 0))), ok0 := decide (f.d < 16), ok1 := afterOk w1 && bits w1 11 5 == 0, rnd := true, page := false }
  | 0x34 => some { i := .ok (.cpyr (Fin.ofNat 4 f.w) (afterOf w1) (Fin.ofNat 8 (bits w1 14 12)) (Fin.ofNat 16 f.d) (Fin.ofNat 32 f.a) (Fin.ofNat 32 f.b) (Fin.ofNat 32 (bits w1 4 0))), ok0 := decide (f.d < 16), ok1 := afterOk w1 && bits w1 11 5 == 0 && bits w1 17 15 == 0, page := false }
  | 0x35 => some { i := .ok (.sbind (Fin.ofNat 4 f.w) (rndOf p) (afterOf w1) (Fin.ofNat 8 (bits w1 17 15)) (Fin.ofNat 8 (bits w1 14 12)) (Fin.ofNat 16 (bits w1 11 8)) (Fin.ofNat 16 f.d) (Fin.ofNat 32 f.b) (Fin.ofNat 32 (bits w1 4 0))), ok0 := f.a == 0 && decide (f.d < 16), ok1 := afterOk w1 && bits w1 7 5 == 0, rnd := true, page := false }
  | 0x36 => some { i := .ok (.sunbind (Fin.ofNat 4 f.w) (Fin.ofNat 8 (bits w1 17 15))), ok0 := f.b == 0 && f.a == 0 && f.d == 0, ok1 := bits w1 14 0 == 0 && bits w1 31 18 == 0, page := false }
  | 0x37 => some { i := .ok (.bankcall (Fin.ofNat 4 f.w) (afterOf w1) (Fin.ofNat 4 (bits w1 12 11)) (Fin.ofNat 16 (bits w1 8 5)) (Fin.ofNat 16 f.d) (Fin.ofNat 32 f.a) (Fin.ofNat 32 f.b)), ok0 := decide (f.d < 16), ok1 := afterOk w1 && bits w1 4 0 == 0 && bits w1 10 9 == 0 && bits w1 17 13 == 0, page := false }
  | _ => none

/-- The 64-bit opcodes 0x40 to 0x44 (Table 9.10). -/
def dec64Coll (p : List Pfx) (f : Fields64) (w1 : Nat) : Option Row :=
  match f.op with
  | 0x40 => some { i := .ok (.collAr (Fin.ofNat 4 f.w) (rndOf p) (afterOf w1) (Fin.ofNat 8 (bits w1 17 15)) (Fin.ofNat 8 (bits w1 14 12)) (Fin.ofNat 16 f.d) (Fin.ofNat 32 f.a) (Fin.ofNat 32 f.b) (Fin.ofNat 32 (bits w1 4 0))), ok0 := decide (f.d < 16), ok1 := afterOk w1 && bits w1 11 5 == 0, rnd := true, page := false }
  | 0x41 => some { i := .ok (.collRs (Fin.ofNat 4 f.w) (rndOf p) (afterOf w1) (Fin.ofNat 8 (bits w1 17 15)) (Fin.ofNat 8 (bits w1 14 12)) (Fin.ofNat 16 f.d) (Fin.ofNat 32 f.a) (Fin.ofNat 32 f.b) (Fin.ofNat 32 (bits w1 4 0))), ok0 := decide (f.d < 16), ok1 := afterOk w1 && bits w1 11 5 == 0, rnd := true, page := false }
  | 0x42 => some { i := .ok (.collAg (Fin.ofNat 4 f.w) (afterOf w1) (Fin.ofNat 8 (bits w1 17 15)) (Fin.ofNat 8 (bits w1 14 12)) (Fin.ofNat 16 f.d) (Fin.ofNat 32 f.a) (Fin.ofNat 32 f.b) (Fin.ofNat 32 (bits w1 4 0))), ok0 := decide (f.d < 16), ok1 := afterOk w1 && bits w1 11 5 == 0, page := false }
  | 0x43 => some { i := .ok (.collA2a (Fin.ofNat 4 f.w) (afterOf w1) (Fin.ofNat 8 (bits w1 17 15)) (Fin.ofNat 8 (bits w1 14 12)) (Fin.ofNat 16 f.d) (Fin.ofNat 32 f.a) (Fin.ofNat 32 f.b) (Fin.ofNat 32 (bits w1 4 0))), ok0 := decide (f.d < 16), ok1 := afterOk w1 && bits w1 11 5 == 0, page := false }
  | 0x44 => some { i := .ok (.collBc (Fin.ofNat 4 f.w) (afterOf w1) (Fin.ofNat 8 (bits w1 17 15)) (Fin.ofNat 8 (bits w1 14 12)) (Fin.ofNat 16 f.d) (Fin.ofNat 32 f.a) (Fin.ofNat 32 f.b) (Fin.ofNat 32 (bits w1 4 0))), ok0 := decide (f.d < 16), ok1 := afterOk w1 && bits w1 11 5 == 0, page := false }
  | _ => none

/-- The 64-bit opcodes 0x50 to 0x57 (Table 9.10). -/
def dec64Token (_p : List Pfx) (f : Fields64) (w1 : Nat) : Option Row :=
  match f.op with
  | 0x50 => some { i := .ok (.wait (Fin.ofNat 16 f.a)), ok0 := f.b == 0 && decide (f.a < 16) && f.d == 0, ok1 := bits w1 31 0 == 0, wok := f.w == 0, page := false }
  | 0x51 => some { i := .ok (.waitm (BitVec.ofNat 16 (bits w1 20 5))), ok0 := f.b == 0 && f.a == 0 && f.d == 0, ok1 := bits w1 4 0 == 0 && bits w1 31 21 == 0, wok := f.w == 0, page := false }
  | 0x52 => some { i := .ok (.cancel (Fin.ofNat 16 f.a)), ok0 := f.b == 0 && decide (f.a < 16) && f.d == 0, ok1 := bits w1 31 0 == 0, wok := f.w == 0, page := false }
  | 0x53 => some { i := .ok (.detach (Fin.ofNat 16 f.a) (Fin.ofNat 32 f.b) (Fin.ofNat 32 (bits w1 4 0))), ok0 := decide (f.a < 16) && f.d == 0, ok1 := bits w1 31 5 == 0, wok := f.w == 0, page := false }
  | 0x54 => some { i := .ok (.adopt (Fin.ofNat 16 f.d) (Fin.ofNat 32 f.a)), ok0 := f.b == 0 && decide (f.d < 16), ok1 := bits w1 31 0 == 0, wok := f.w == 0, page := false }
  | 0x55 => some { i := .ok (.kprio (Fin.ofNat 16 f.a) (Fin.ofNat 32 f.b)), ok0 := decide (f.a < 16) && f.d == 0, ok1 := bits w1 31 0 == 0, wok := f.w == 0, page := false }
  | 0x56 => some { i := .ok (.kstat (Fin.ofNat 32 f.d) (Fin.ofNat 16 f.a)), ok0 := f.b == 0 && decide (f.a < 16), ok1 := bits w1 31 0 == 0, wok := f.w == 0, page := false }
  | 0x57 => some { i := .ok (.kmov (Fin.ofNat 16 f.d) (Fin.ofNat 16 f.a)), ok0 := f.b == 0 && decide (f.a < 16) && decide (f.d < 16), ok1 := bits w1 31 0 == 0, wok := f.w == 0, page := false }
  | _ => none

/-- The 64-bit opcodes 0x60 to 0x79 (Table 9.10). -/
def dec64Misc (p : List Pfx) (f : Fields64) (w1 : Nat) : Option Row :=
  match f.op with
  | 0x60 => some { i := .ok (.vfmaF32 (rndOf p) (Fin.ofNat 32 f.d) (Fin.ofNat 32 f.a) (Fin.ofNat 32 f.b) (Fin.ofNat 32 (bits w1 4 0))), ok1 := bits w1 31 5 == 0, wok := f.w == 0, rnd := true, page := false }
  | 0x61 => some { i := .ok (.vfnmaF32 (rndOf p) (Fin.ofNat 32 f.d) (Fin.ofNat 32 f.a) (Fin.ofNat 32 f.b) (Fin.ofNat 32 (bits w1 4 0))), ok1 := bits w1 31 5 == 0, wok := f.w == 0, rnd := true, page := false }
  | 0x62 => some { i := .ok (.vfmaI32 (Fin.ofNat 32 f.d) (Fin.ofNat 32 f.a) (Fin.ofNat 32 f.b) (Fin.ofNat 32 (bits w1 4 0))), ok1 := bits w1 31 5 == 0, wok := f.w == 0, page := false }
  | 0x70 => some { i := .ok (.movl (Fin.ofNat 32 f.d) (imm52 p w1)), ok0 := f.b == 0 && f.a == 0, ok1 := bits w1 4 0 == 0, wok := f.w == 0, imm := true, page := false }
  | 0x71 => some { i := .ok (.addl (Fin.ofNat 32 f.d) (Fin.ofNat 32 f.a) (imm52 p w1)), ok0 := f.b == 0, ok1 := bits w1 4 0 == 0, wok := f.w == 0, imm := true, page := false }
  | 0x78 => some { i := .ok (.arm (Fin.ofNat 16 (bits w1 8 5)) (Fin.ofNat 32 f.a) (Fin.ofNat 32 f.b) (Fin.ofNat 32 (bits w1 4 0))), ok0 := f.d == 0, ok1 := bits w1 31 9 == 0 && (fmtB48 (bits w1 8 5) || bits w1 4 0 == 0), wok := f.w == 0, page := false }
  | 0x79 => some { i := .ok (.disarm (Fin.ofNat 32 f.a) (Fin.ofNat 32 f.b)), ok0 := f.d == 0, ok1 := bits w1 31 0 == 0, wok := f.w == 0, page := false }
  | _ => none

/-- WINALLOC, op8 0x7A (R270): the forms its check 1 allows; any other raises the illegal-instruction trap. -/
def decWinalloc (f : Fields64) (w1 : Nat) : Row :=
  let a : Fin 32 := Fin.ofNat 32 f.a
  let b : Fin 32 := Fin.ofNat 32 f.b
  let c : Fin 32 := Fin.ofNat 32 (bits w1 4 0)
  let t : Fin 16 := Fin.ofNat 16 (bits w1 11 8)
  let ok1 := bits w1 31 12 == 0
  let plain := ok1 && bits w1 4 0 == 0
  let wok := f.w == 0
  let ok0 := f.d == 0
  match bits w1 7 7, bits w1 6 5 with
  | 0, 0 => { i := if bits w1 11 8 == 0 then .ok (.winallocW a b) else .error (.winallocW a b), ok0 := ok0, ok1 := plain, wok := wok, page := false }
  | 0, 1 => { i := if bits w1 11 8 == 0 then .ok (.winallocA a b) else .error (.winallocA a b), ok0 := ok0, ok1 := plain, wok := wok, page := false }
  | 0, 2 => { i := if bits w1 11 8 == 0 then .ok (.winallocC a b) else .error (.winallocC a b), ok0 := ok0, ok1 := plain, wok := wok, page := false }
  | 1, 0 => { i := .ok (.winallocWl t a b c), ok0 := ok0, ok1 := ok1, wok := wok, page := false }
  | 1, 1 => { i := .ok (.winallocAl t a b c), ok0 := ok0, ok1 := ok1, wok := wok, page := false }
  | 0, _ => { i := .error (.winallocW a b), ok0 := ok0, ok1 := plain, wok := wok, page := false }
  | _, _ => { i := .error (.winallocWl t a b c), ok0 := ok0, ok1 := ok1, wok := wok, page := false }

/-- The 64-bit opcode map (R237). -/
def dec64 (p : List Pfx) (f : Fields64) (w1 : Nat) : Option Row :=
  match f.op / 16 with
  | 0 => dec64Lattice p f w1
  | 2 => dec64Engine p f w1
  | 3 => dec64Engine p f w1
  | 4 => dec64Coll p f w1
  | 5 => dec64Token p f w1
  | 6 => dec64Misc p f w1
  | 7 => if f.op = 0x7A then some (decWinalloc f w1) else dec64Misc p f w1
  | _ => none

/-- R228: whether the row accepts this extension word and its payload. -/
def Row.accepts (r : Row) (q : Pfx) : Bool :=
  match q.kind with
  | .imm => r.imm
  | .rnd => r.rnd && decide (q.payload < 2048) && q.payload % 8 != 5 && q.payload % 8 != 6
  | .page => r.page && decide (q.payload < 4)
  | .wait => r.wait && decide (q.payload < 4)

/-- Why decoding refuses a group (Table 9.11 orders 1 to 3, and checks of an entry that no instruction
passes); R456 gives the word each names. -/
inductive DecErr where
  /-- Order 1: page 3, an unassigned slot, or an fn the major does not assign. -/
  | unassigned
  /-- Order 2: a nonzero reserved field or a field outside its file, in word 0 or word 1. -/
  | reserved (word1 : Bool)
  /-- Order 3: an extension word not accepted, by its place in the group. -/
  | pfx (n : Nat)
  /-- Order 3: a nonzero w that is not honoured. -/
  | wField
  /-- A check of the entry itself: the class, and the gaps of its registers, which `i` shows, are judged first (orders 4 and 6). -/
  | entry (i : Instr)
  deriving DecidableEq, Repr

/-- The place in the group of the first extension word the row does not accept; of several, the first is reported (log 72). -/
def Row.badPfx (r : Row) : List Pfx → Nat → Option Nat
  | [], _ => none
  | q :: l, n => if r.accepts q then r.badPfx l (n + 1) else some n

/-- Table 9.11 orders 1 to 3 on the row the opcode map gives; within order 3 a prefix is reported before the w field (log 72). -/
def Row.judge (r : Row) (p : List Pfx) : Except DecErr Instr :=
  if r.ok0 = false then .error (.reserved false)
  else if r.ok1 = false then .error (.reserved true)
  else match r.badPfx p 0 with
    | some n => .error (.pfx n)
    | none =>
      if r.wok = false then .error .wField
      else match r.i with
        | .ok i => .ok i
        | .error i => .error (.entry i)

/-- R236: the row of a 32-bit instruction, by the page its group selects. -/
def dec32 (p : List Pfx) (f : Fields) : Option Row :=
  match (payloadOf .page p).getD 0 % 4 with
  | 0 => decPage0 p f
  | 1 => decPage1 p f
  | 2 => decPage2 p f
  | _ => none

/-- The instruction of a group (R236, R237, Table 9.11 orders 1 to 3): its extension words, its word 0,
and its word 1, which a 32-bit instruction does not have. -/
def decode (p : List Pfx) (w0 w1 : Nat) : Except DecErr Instr :=
  match (if w0 % 4 = 2 then dec64 p (fields64Of w0) w1 else dec32 p (fieldsOf w0)) with
  | none => .error .unassigned
  | some r => r.judge p

/-- What reading a group's words meets (R220): a fetch that fails at a word, an instruction word that
opens a group with P = 1, a word with P = 0 after an extension word, an illegal word. -/
inductive GroupErr (ε : Type) where
  | fetch (e : ε) (n : Nat)
  | splitGroup
  | orphan (n : Nat)
  | illegal (n : Nat)
  deriving DecidableEq, Repr

/-- A group as fetched: its extension words in order, word 0 and word 1 of its instruction. -/
structure Group where
  pfx : List Pfx
  w0 : Nat
  w1 : Nat
  deriving DecidableEq, Repr

/-- Words of a group: extension words and one or two instruction words (R219). -/
def Group.words (g : Group) : Nat := g.pfx.length + (if g.w0 % 4 = 2 then 2 else 1)

/-- The loop of R220 from word `n`, which has been fetched as `w`; `seen` holds the extension words
read so far, newest first. -/
def readFrom {ε : Type} (fetch : Nat → Except ε Nat) : Nat → Nat → List Pfx → Nat → Except (GroupErr ε) Group
  | 0, n, _, _ => .error (.illegal n)
  | fuel + 1, n, seen, w =>
    match w % 4 with
    | 1 =>
      match pkindOf (bits w 6 3) with
      | none => .error (.illegal n)
      | some k =>
        if seen.any (fun q => q.kind == k) || seen.length == 4 then .error (.illegal n)
        else match fetch (n + 1) with
          | .error e => .error (.fetch e (n + 1))
          | .ok v =>
            if bits v 2 2 = 0 then .error (.orphan (n + 1))
            else readFrom fetch fuel (n + 1) ({ kind := k, payload := bits w 31 7 } :: seen) v
    | 3 => .error (.illegal n)
    | 2 =>
      match fetch (n + 1) with
      | .error e => .error (.fetch e (n + 1))
      | .ok v => .ok { pfx := seen.reverse, w0 := w, w1 := v }
    | _ => .ok { pfx := seen.reverse, w0 := w, w1 := 0 }

/-- R220: the words of the group at word 0 of `fetch`. -/
def readGroup {ε : Type} (fetch : Nat → Except ε Nat) : Except (GroupErr ε) Group :=
  match fetch 0 with
  | .error e => .error (.fetch e 0)
  | .ok w => if bits w 2 2 = 1 then .error .splitGroup else readFrom fetch 6 0 [] w

/-- The word at a place of a list of words. -/
def wordAt (l : List Nat) (n : Nat) : Except Unit Nat :=
  match l[n]? with
  | some w => .ok w
  | none => .error ()

/-- The issue header of an instruction word (R218). -/
structure Header where
  gap : Fin 8
  y : Bool
  deriving DecidableEq, Repr

/-- The issue header that word 0 carries. -/
def headerOf (w0 : Nat) : Header := { gap := Fin.ofNat 8 (bits w0 6 4), y := bits w0 3 3 == 1 }

/-- The instruction and header of a list of words that is one group, or nothing. -/
def decodeWords (l : List Nat) : Option (Instr × Header) :=
  match readGroup (wordAt l) with
  | .error _ => none
  | .ok g =>
    if g.words = l.length then
      match decode g.pfx g.w0 g.w1 with
      | .error _ => none
      | .ok i => some (i, headerOf g.w0)
    else none

/-! The encoder. -/

/-- The parts of a group: its page, the other extension words it needs, and its instruction words with
an empty header. -/
structure Enc where
  w0 : Nat
  w1 : Option Nat := none
  page : Nat := 0
  rnd : Option Rnd := none
  imm : Option Nat := none
  wait : Option (Fin 4) := none

/-- A 32-bit instruction word without its header (Table 9.1). -/
def pack32 (fn b a d op : Nat) : Nat :=
  fn * 268435456 + b * 8388608 + a * 262144 + d * 8192 + op * 128

/-- A J-form word without its header (Table 9.1). -/
def j19 (v op : Nat) : Nat := v * 8192 + op * 128

/-- Word 0 of a 64-bit instruction without its header (Table 9.2). -/
def pack64 (w b a d op : Nat) : Nat :=
  w * 1073741824 + b * 33554432 + a * 1048576 + d * 32768 + op * 128 + 2

/-- R225, R241: whether a signed immediate of an I or B form fits its nine bits. -/
def fitsS (v : BitVec 34) : Bool := v.toNat < 256 || 17179868928 ≤ v.toNat

/-- The low nine bits of an I- or B-form immediate. -/
def lowS (v : BitVec 34) : Nat := v.toNat % 512

/-- The IMM payload of a signed immediate, when it does not fit (R241). -/
def highS (v : BitVec 34) : Option Nat := if fitsS v then none else some (v.toNat / 512)

/-- The low nine bits of an unsigned immediate. -/
def lowU (v : BitVec 34) : Nat := v.toNat % 512

/-- The IMM payload of an unsigned immediate, when it does not fit. -/
def highU (v : BitVec 34) : Option Nat := if v.toNat < 512 then none else some (v.toNat / 512)

/-- The low 19 bits of a J-form offset. -/
def low44 (v : BitVec 44) : Nat := v.toNat % 524288

/-- The IMM payload of a J-form offset, when it does not fit. -/
def high44 (v : BitVec 44) : Option Nat :=
  if v.toNat < 262144 || 17592185782272 ≤ v.toNat then none else some (v.toNat / 524288)

/-- The low 27 bits of a MOVL or ADDL immediate. -/
def low27 (v : BitVec 52) : Nat := v.toNat % 134217728

/-- The IMM payload of a MOVL or ADDL immediate, when it does not fit. -/
def high52 (v : BitVec 52) : Option Nat :=
  if v.toNat < 67108864 || 4503599560261632 ≤ v.toNat then none else some (v.toNat / 134217728)

/-- The word 1 bits of the AFTER tokens and priority (Table 13.1). -/
def afterBits (t : After) : Nat :=
  (match t.e0 with
    | some k => 2147483648 + k.val * 134217728
    | none => 0)
  + (match t.e1 with
    | some k => 67108864 + k.val * 4194304
    | none => 0)
  + t.pri.val * 262144

/-- The encoding parts of each instruction (Tables 9.6 to 9.10 and the entries they name); none for an event. -/
def encParts : Instr → Option Enc
  | .add d a b => some { w0 := pack32 0 b.val a.val d.val 1 }
  | .sub d a b => some { w0 := pack32 1 b.val a.val d.val 1 }
  | .and d a b => some { w0 := pack32 2 b.val a.val d.val 1 }
  | .or d a b => some { w0 := pack32 3 b.val a.val d.val 1 }
  | .xor d a b => some { w0 := pack32 4 b.val a.val d.val 1 }
  | .sll d a b => some { w0 := pack32 5 b.val a.val d.val 1 }
  | .srl d a b => some { w0 := pack32 6 b.val a.val d.val 1 }
  | .sra d a b => some { w0 := pack32 7 b.val a.val d.val 1 }
  | .slt d a b => some { w0 := pack32 8 b.val a.val d.val 1 }
  | .sltn d a b => some { w0 := pack32 9 b.val a.val d.val 1 }
  | .min d a b => some { w0 := pack32 10 b.val a.val d.val 1 }
  | .max d a b => some { w0 := pack32 11 b.val a.val d.val 1 }
  | .minn d a b => some { w0 := pack32 12 b.val a.val d.val 1 }
  | .maxn d a b => some { w0 := pack32 13 b.val a.val d.val 1 }
  | .andn d a b => some { w0 := pack32 14 b.val a.val d.val 1 }
  | .orn d a b => some { w0 := pack32 15 b.val a.val d.val 1 }
  | .mul d a b => some { w0 := pack32 0 b.val a.val d.val 2 }
  | .mulh d a b => some { w0 := pack32 1 b.val a.val d.val 2 }
  | .mulhn d a b => some { w0 := pack32 2 b.val a.val d.val 2 }
  | .mulhsn d a b => some { w0 := pack32 3 b.val a.val d.val 2 }
  | .div d a b => some { w0 := pack32 4 b.val a.val d.val 2 }
  | .divn d a b => some { w0 := pack32 5 b.val a.val d.val 2 }
  | .rem d a b => some { w0 := pack32 6 b.val a.val d.val 2 }
  | .remn d a b => some { w0 := pack32 7 b.val a.val d.val 2 }
  | .clz d a => some { w0 := pack32 8 0 a.val d.val 2 }
  | .ctz d a => some { w0 := pack32 9 0 a.val d.val 2 }
  | .popc d a => some { w0 := pack32 10 0 a.val d.val 2 }
  | .rev8 d a => some { w0 := pack32 11 0 a.val d.val 2 }
  | .addi d a imm => some { w0 := pack32 (lowS imm / 32) (lowS imm % 32) a.val d.val 3, imm := highS imm }
  | .andi d a imm => some { w0 := pack32 (lowS imm / 32) (lowS imm % 32) a.val d.val 4, imm := highS imm }
  | .ori d a imm => some { w0 := pack32 (lowS imm / 32) (lowS imm % 32) a.val d.val 5, imm := highS imm }
  | .xori d a imm => some { w0 := pack32 (lowS imm / 32) (lowS imm % 32) a.val d.val 6, imm := highS imm }
  | .slli d a imm => some { w0 := pack32 (lowS imm / 32) (lowS imm % 32) a.val d.val 7, imm := highS imm }
  | .srli d a imm => some { w0 := pack32 (lowS imm / 32) (lowS imm % 32) a.val d.val 8, imm := highS imm }
  | .srai d a imm => some { w0 := pack32 (lowS imm / 32) (lowS imm % 32) a.val d.val 9, imm := highS imm }
  | .slti d a imm => some { w0 := pack32 (lowS imm / 32) (lowS imm % 32) a.val d.val 10, imm := highS imm }
  | .sltni d a imm => some { w0 := pack32 (lowS imm / 32) (lowS imm % 32) a.val d.val 11, imm := highS imm }
  | .movi d imm => some { w0 := pack32 (lowS imm / 32) (lowS imm % 32) 0 d.val 12, imm := highS imm }
  | .sext8 d a => some { w0 := pack32 0 0 a.val d.val 13 }
  | .sext16 d a => some { w0 := pack32 1 0 a.val d.val 13 }
  | .sext32 d a => some { w0 := pack32 2 0 a.val d.val 13 }
  | .zext8 d a => some { w0 := pack32 3 0 a.val d.val 13 }
  | .zext16 d a => some { w0 := pack32 4 0 a.val d.val 13 }
  | .zext32 d a => some { w0 := pack32 5 0 a.val d.val 13 }
  | .beq a b off => some { w0 := pack32 (lowS off / 32) (lowS off % 32) b.val a.val 16, imm := highS off }
  | .bne a b off => some { w0 := pack32 (lowS off / 32) (lowS off % 32) b.val a.val 17, imm := highS off }
  | .blt a b off => some { w0 := pack32 (lowS off / 32) (lowS off % 32) b.val a.val 18, imm := highS off }
  | .bge a b off => some { w0 := pack32 (lowS off / 32) (lowS off % 32) b.val a.val 19, imm := highS off }
  | .bltn a b off => some { w0 := pack32 (lowS off / 32) (lowS off % 32) b.val a.val 20, imm := highS off }
  | .bgen a b off => some { w0 := pack32 (lowS off / 32) (lowS off % 32) b.val a.val 21, imm := highS off }
  | .jmp off => some { w0 := j19 (low44 off) 22, imm := high44 off }
  | .jal off => some { w0 := j19 (low44 off) 23, imm := high44 off }
  | .jalr d a imm => some { w0 := pack32 (lowS imm / 32) (lowS imm % 32) a.val d.val 24, imm := highS imm }
  | .loop n a imm => some { w0 := pack32 (lowU imm / 32) (lowU imm % 32) a.val n.val 25, imm := highU imm }
  | .bmaskNone m off => some { w0 := pack32 (lowS off / 32) (lowS off % 32) 0 m.val 26, imm := highS off }
  | .bmaskAny m off => some { w0 := pack32 (lowS off / 32) (lowS off % 32) 1 m.val 26, imm := highS off }
  | .bmaskAll m off => some { w0 := pack32 (lowS off / 32) (lowS off % 32) 2 m.val 26, imm := highS off }
  | .bflClr n off => some { w0 := pack32 (lowS off / 32) (lowS off % 32) 0 n.val 27, imm := highS off }
  | .bflSet n off => some { w0 := pack32 (lowS off / 32) (lowS off % 32) 1 n.val 27, imm := highS off }
  | .nop => some { w0 := pack32 0 0 0 0 28 }
  | .exit => some { w0 := pack32 1 0 0 0 28 }
  | .yield => some { w0 := pack32 2 0 0 0 28 }
  | .trap code => some { w0 := pack32 3 code.val 0 0 28 }
  | .eret => some { w0 := pack32 4 0 0 0 28 }
  | .faddF32 rnd d a b => some { w0 := pack32 0 b.val a.val d.val 29, rnd := rnd }
  | .fsubF32 rnd d a b => some { w0 := pack32 1 b.val a.val d.val 29, rnd := rnd }
  | .fmulF32 rnd d a b => some { w0 := pack32 2 b.val a.val d.val 29, rnd := rnd }
  | .fdivF32 rnd d a b => some { w0 := pack32 3 b.val a.val d.val 29, rnd := rnd }
  | .fminF32 rnd d a b => some { w0 := pack32 4 b.val a.val d.val 29, rnd := rnd }
  | .fmaxF32 rnd d a b => some { w0 := pack32 5 b.val a.val d.val 29, rnd := rnd }
  | .fltF32 rnd d a b => some { w0 := pack32 6 b.val a.val d.val 29, rnd := rnd }
  | .feqF32 rnd d a b => some { w0 := pack32 7 b.val a.val d.val 29, rnd := rnd }
  | .cvtF32I64 rnd d a => some { w0 := pack32 8 0 a.val d.val 29, rnd := rnd }
  | .cvtI64F32 rnd d a => some { w0 := pack32 9 0 a.val d.val 29, rnd := rnd }
  | .ldI8 w d a imm => some { w0 := pack32 (lowS imm / 32) (lowS imm % 32) a.val d.val 32, wait := w, imm := highS imm }
  | .ldN8 w d a imm => some { w0 := pack32 (lowS imm / 32) (lowS imm % 32) a.val d.val 33, wait := w, imm := highS imm }
  | .ldI16 w d a imm => some { w0 := pack32 (lowS imm / 32) (lowS imm % 32) a.val d.val 34, wait := w, imm := highS imm }
  | .ldN16 w d a imm => some { w0 := pack32 (lowS imm / 32) (lowS imm % 32) a.val d.val 35, wait := w, imm := highS imm }
  | .ldI32 w d a imm => some { w0 := pack32 (lowS imm / 32) (lowS imm % 32) a.val d.val 36, wait := w, imm := highS imm }
  | .ldN32 w d a imm => some { w0 := pack32 (lowS imm / 32) (lowS imm % 32) a.val d.val 37, wait := w, imm := highS imm }
  | .ld64 w d a imm => some { w0 := pack32 (lowS imm / 32) (lowS imm % 32) a.val d.val 38, wait := w, imm := highS imm }
  | .st8 w s a imm => some { w0 := pack32 (lowS imm / 32) (lowS imm % 32) a.val s.val 39, wait := w, imm := highS imm }
  | .st16 w s a imm => some { w0 := pack32 (lowS imm / 32) (lowS imm % 32) a.val s.val 40, wait := w, imm := highS imm }
  | .st32 w s a imm => some { w0 := pack32 (lowS imm / 32) (lowS imm % 32) a.val s.val 41, wait := w, imm := highS imm }
  | .st64 w s a imm => some { w0 := pack32 (lowS imm / 32) (lowS imm % 32) a.val s.val 42, wait := w, imm := highS imm }
  | .prf w a imm => some { w0 := pack32 (lowS imm / 32) (lowS imm % 32) a.val 0 43, wait := w, imm := highS imm }
  | .vaddF32 rnd d a b => some { w0 := pack32 0 b.val a.val d.val 48, rnd := rnd }
  | .vsubF32 rnd d a b => some { w0 := pack32 1 b.val a.val d.val 48, rnd := rnd }
  | .vmulF32 rnd d a b => some { w0 := pack32 2 b.val a.val d.val 48, rnd := rnd }
  | .vdivF32 rnd d a b => some { w0 := pack32 3 b.val a.val d.val 48, rnd := rnd }
  | .vminF32 rnd d a b => some { w0 := pack32 4 b.val a.val d.val 48, rnd := rnd }
  | .vmaxF32 rnd d a b => some { w0 := pack32 5 b.val a.val d.val 48, rnd := rnd }
  | .vabsF32 rnd d a => some { w0 := pack32 6 0 a.val d.val 48, rnd := rnd }
  | .vnegF32 rnd d a => some { w0 := pack32 7 0 a.val d.val 48, rnd := rnd }
  | .vsqrtF32 rnd d a => some { w0 := pack32 8 0 a.val d.val 48, rnd := rnd }
  | .vaddI32 d a b => some { w0 := pack32 0 b.val a.val d.val 49 }
  | .vsubI32 d a b => some { w0 := pack32 1 b.val a.val d.val 49 }
  | .vmulI32 d a b => some { w0 := pack32 2 b.val a.val d.val 49 }
  | .vminI32 d a b => some { w0 := pack32 3 b.val a.val d.val 49 }
  | .vmaxI32 d a b => some { w0 := pack32 4 b.val a.val d.val 49 }
  | .vminN32 d a b => some { w0 := pack32 5 b.val a.val d.val 49 }
  | .vmaxN32 d a b => some { w0 := pack32 6 b.val a.val d.val 49 }
  | .vand d a b => some { w0 := pack32 7 b.val a.val d.val 49 }
  | .vor d a b => some { w0 := pack32 8 b.val a.val d.val 49 }
  | .vxor d a b => some { w0 := pack32 9 b.val a.val d.val 49 }
  | .vsllI32 d a b => some { w0 := pack32 10 b.val a.val d.val 49 }
  | .vsrlI32 d a b => some { w0 := pack32 11 b.val a.val d.val 49 }
  | .vsraI32 d a b => some { w0 := pack32 12 b.val a.val d.val 49 }
  | .vcmpeqF32 d a b => some { w0 := pack32 0 b.val a.val d.val 50 }
  | .vcmpltF32 d a b => some { w0 := pack32 1 b.val a.val d.val 50 }
  | .vcmpleF32 d a b => some { w0 := pack32 2 b.val a.val d.val 50 }
  | .vcmpeqI32 d a b => some { w0 := pack32 3 b.val a.val d.val 50 }
  | .vcmpltI32 d a b => some { w0 := pack32 4 b.val a.val d.val 50 }
  | .vcmpltN32 d a b => some { w0 := pack32 5 b.val a.val d.val 50 }
  | .vsel d a b m => some { w0 := pack32 m.val b.val a.val d.val 51 }
  | .vld w d a imm => some { w0 := pack32 (lowS imm / 32) (lowS imm % 32) a.val d.val 52, wait := w, imm := highS imm }
  | .vst w rnd s a imm => some { w0 := pack32 (lowS imm / 32) (lowS imm % 32) a.val s.val 53, rnd := rnd, wait := w, imm := highS imm }
  | .vbcast32 d a => some { w0 := pack32 0 0 a.val d.val 54 }
  | .vbcast16 d a => some { w0 := pack32 1 0 a.val d.val 54 }
  | .vbcast8 d a => some { w0 := pack32 2 0 a.val d.val 54 }
  | .vmovx d a b => some { w0 := pack32 0 b.val a.val d.val 55 }
  | .vcvtF32I32 rnd d a => some { w0 := pack32 0 0 a.val d.val 1, page := 1, rnd := rnd }
  | .vcvtI32F32 rnd d a => some { w0 := pack32 1 0 a.val d.val 1, page := 1, rnd := rnd }
  | .vcvtBf16F32 rnd d a b => some { w0 := pack32 2 b.val a.val d.val 1, page := 1, rnd := rnd }
  | .vcvtF32Bf16 rnd d a => some { w0 := pack32 3 0 a.val d.val 1, page := 1, rnd := rnd }
  | .vcvtF16F32 rnd d a b => some { w0 := pack32 4 b.val a.val d.val 1, page := 1, rnd := rnd }
  | .vcvtF32F16 rnd d a => some { w0 := pack32 5 0 a.val d.val 1, page := 1, rnd := rnd }
  | .vcvtE4m3F32 rnd d a => some { w0 := pack32 6 0 a.val d.val 1, page := 1, rnd := rnd }
  | .vcvtE5m2F32 rnd d a => some { w0 := pack32 7 0 a.val d.val 1, page := 1, rnd := rnd }
  | .vcvtF32E4m3 rnd d a => some { w0 := pack32 8 0 a.val d.val 1, page := 1, rnd := rnd }
  | .vcvtF32E5m2 rnd d a => some { w0 := pack32 9 0 a.val d.val 1, page := 1, rnd := rnd }
  | .vperm d a b => some { w0 := pack32 0 b.val a.val d.val 2, page := 1 }
  | .vslideup d a b => some { w0 := pack32 1 b.val a.val d.val 2, page := 1 }
  | .vslidedn d a b => some { w0 := pack32 2 b.val a.val d.val 2, page := 1 }
  | .vzip d a b => some { w0 := pack32 3 b.val a.val d.val 2, page := 1 }
  | .vunzip d a b => some { w0 := pack32 4 b.val a.val d.val 2, page := 1 }
  | .vrev d a => some { w0 := pack32 5 0 a.val d.val 2, page := 1 }
  | .vredAddF32 rnd d a m => some { w0 := pack32 0 m.val a.val d.val 3, page := 1, rnd := rnd }
  | .vredMaxF32 rnd d a m => some { w0 := pack32 1 m.val a.val d.val 3, page := 1, rnd := rnd }
  | .vredMinF32 rnd d a m => some { w0 := pack32 2 m.val a.val d.val 3, page := 1, rnd := rnd }
  | .vredAddI32 rnd d a m => some { w0 := pack32 3 m.val a.val d.val 3, page := 1, rnd := rnd }
  | .mand d a b => some { w0 := pack32 0 b.val a.val d.val 4, page := 1 }
  | .mor d a b => some { w0 := pack32 1 b.val a.val d.val 4, page := 1 }
  | .mxor d a b => some { w0 := pack32 2 b.val a.val d.val 4, page := 1 }
  | .mnot d a => some { w0 := pack32 3 0 a.val d.val 4, page := 1 }
  | .mpopc d a => some { w0 := pack32 4 0 a.val d.val 4, page := 1 }
  | .mfirst d a => some { w0 := pack32 5 0 a.val d.val 4, page := 1 }
  | .vquantB48e4m3 rnd d a b => some { w0 := pack32 0 b.val a.val d.val 5, page := 1, rnd := rnd }
  | .vquantB48e5m2 rnd d a b => some { w0 := pack32 1 b.val a.val d.val 5, page := 1, rnd := rnd }
  | .vquantB48e2m1 rnd d a b => some { w0 := pack32 2 b.val a.val d.val 5, page := 1, rnd := rnd }
  | .vquantB48i8 rnd d a b => some { w0 := pack32 3 b.val a.val d.val 5, page := 1, rnd := rnd }
  | .vquantB48i4 rnd d a b => some { w0 := pack32 4 b.val a.val d.val 5, page := 1, rnd := rnd }
  | .vquantB48t2 rnd d a b => some { w0 := pack32 5 b.val a.val d.val 5, page := 1, rnd := rnd }
  | .vdeqB48e4m3 d a b => some { w0 := pack32 0 b.val a.val d.val 6, page := 1 }
  | .vdeqB48e5m2 d a b => some { w0 := pack32 1 b.val a.val d.val 6, page := 1 }
  | .vdeqB48e2m1 d a b => some { w0 := pack32 2 b.val a.val d.val 6, page := 1 }
  | .vdeqB48i8 d a b => some { w0 := pack32 3 b.val a.val d.val 6, page := 1 }
  | .vdeqB48i4 d a b => some { w0 := pack32 4 b.val a.val d.val 6, page := 1 }
  | .vdeqB48t2 d a b => some { w0 := pack32 5 b.val a.val d.val 6, page := 1 }
  | .vspill a slot => some { w0 := pack32 (slot.val / 32) (slot.val % 32) a.val 0 7, page := 1 }
  | .vfill d slot => some { w0 := pack32 (slot.val / 32) (slot.val % 32) 0 d.val 8, page := 1 }
  | .rdc d cr => some { w0 := pack32 (cr.val / 32) (cr.val % 32) 0 d.val 1, page := 2 }
  | .wrc cr a => some { w0 := pack32 (cr.val / 32) (cr.val % 32) a.val 0 2, page := 2 }
  | .fenceJ scope => some { w0 := pack32 0 scope.val 0 0 3, page := 2 }
  | .fenceM scope => some { w0 := pack32 1 scope.val 0 0 3, page := 2 }
  | .fenceK scope => some { w0 := pack32 2 scope.val 0 0 3, page := 2 }
  | .cleanr w a b => some { w0 := pack32 0 b.val a.val 0 4, page := 2, wait := w }
  | .invalr w a b => some { w0 := pack32 1 b.val a.val 0 4, page := 2, wait := w }
  | .spawn a => some { w0 := pack32 0 0 a.val 0 5, page := 2 }
  | .halt => some { w0 := pack32 0 0 0 0 6, page := 2 }
  | .send d a b => some { w0 := pack32 0 b.val a.val d.val 16, page := 2 }
  | .sendh d a b => some { w0 := pack32 0 b.val a.val d.val 17, page := 2 }
  | .recv d => some { w0 := pack32 0 0 0 d.val 18, page := 2 }
  | .recvLd d a => some { w0 := pack32 1 0 a.val d.val 18, page := 2 }
  | .recvSt a b => some { w0 := pack32 2 b.val a.val 0 18, page := 2 }
  | .reply a b => some { w0 := pack32 0 b.val a.val 0 19, page := 2 }
  | .mret => some { w0 := pack32 0 0 0 0 20, page := 2 }
  | .dtcfg a b => some { w0 := pack32 0 b.val a.val 0 21, page := 2 }
  | .bqpush a => some { w0 := pack32 0 0 a.val 0 22, page := 2 }
  | .bqwait d => some { w0 := pack32 0 0 0 d.val 23, page := 2 }
  | .rcombAddF32 d a b => some { w0 := pack32 0 b.val a.val d.val 24, page := 2 }
  | .rcombMaxF32 d a b => some { w0 := pack32 1 b.val a.val d.val 24, page := 2 }
  | .rcombMinF32 d a b => some { w0 := pack32 2 b.val a.val d.val 24, page := 2 }
  | .rcombAddI32 d a b => some { w0 := pack32 3 b.val a.val d.val 24, page := 2 }
  | .rcombMaxI32 d a b => some { w0 := pack32 4 b.val a.val d.val 24, page := 2 }
  | .rcombMinI32 d a b => some { w0 := pack32 5 b.val a.val d.val 24, page := 2 }
  | .rcombWidBf16 d a => some { w0 := pack32 6 0 a.val d.val 24, page := 2 }
  | .rcombNarBf16 d a => some { w0 := pack32 7 0 a.val d.val 24, page := 2 }
  | .baddqB48e4m3 rnd d a b => some { w0 := pack32 0 b.val a.val d.val 25, page := 2, rnd := rnd }
  | .baddqB48e5m2 rnd d a b => some { w0 := pack32 1 b.val a.val d.val 25, page := 2, rnd := rnd }
  | .baddqB48e2m1 rnd d a b => some { w0 := pack32 2 b.val a.val d.val 25, page := 2, rnd := rnd }
  | .baddqB48i8 rnd d a b => some { w0 := pack32 3 b.val a.val d.val 25, page := 2, rnd := rnd }
  | .baddqB48i4 rnd d a b => some { w0 := pack32 4 b.val a.val d.val 25, page := 2, rnd := rnd }
  | .movl d imm => some { w0 := pack64 0 0 0 d.val 112, imm := high52 imm, w1 := some (low27 imm * 32) }
  | .addl d a imm => some { w0 := pack64 0 0 a.val d.val 113, imm := high52 imm, w1 := some (low27 imm * 32) }
  | .arm fmt a b c => some { w0 := pack64 0 b.val a.val 0 120, w1 := some (fmt.val * 32 + c.val) }
  | .disarm a b => some { w0 := pack64 0 b.val a.val 0 121, w1 := some (0) }
  | .winallocW a b => some { w0 := pack64 0 b.val a.val 0 122, w1 := some (0) }
  | .winallocA a b => some { w0 := pack64 0 b.val a.val 0 122, w1 := some (32) }
  | .winallocC a b => some { w0 := pack64 0 b.val a.val 0 122, w1 := some (64) }
  | .winallocWl tsize a b c => some { w0 := pack64 0 b.val a.val 0 122, w1 := some (tsize.val * 256 + 128 + c.val) }
  | .winallocAl tsize a b c => some { w0 := pack64 0 b.val a.val 0 122, w1 := some (tsize.val * 256 + 128 + 32 + c.val) }
  | .join w ty af off a g c => some { w0 := pack64 w.val g.val a.val 0 1, w1 := some (off.toNat * 65536 + ty.val * 4096 + af.toNat * 2048 + c.val) }
  | .joinv w ty m off d a g c => some { w0 := pack64 w.val g.val a.val d.val 2, w1 := some (off.toNat * 65536 + ty.val * 4096 + m.val * 512 + c.val) }
  | .fill w src sz off a g c => some { w0 := pack64 w.val g.val a.val 0 3, w1 := some (off.toNat * 65536 + src.val * 1024 + sz.val * 32 + c.val) }
  | .thr w ty nt sz off d a g c => some { w0 := pack64 w.val g.val a.val d.val 4, w1 := some (off.toNat * 65536 + ty.val * 4096 + nt.val * 512 + sz.val * 32 + c.val) }
  | .thrF w ty sz off d a g => some { w0 := pack64 w.val g.val a.val d.val 5, w1 := some (off.toNat * 65536 + ty.val * 4096 + sz.val * 32) }
  | .freeze w ty sz off a g => some { w0 := pack64 w.val g.val a.val 0 6, w1 := some (off.toNat * 65536 + ty.val * 4096 + sz.val * 32) }
  | .freezeR w off a g c => some { w0 := pack64 w.val g.val a.val 0 7, w1 := some (off.toNat * 65536 + c.val) }
  | .frd w n off d a g => some { w0 := pack64 w.val g.val a.val d.val 8, w1 := some (off.toNat * 65536 + n.val * 32) }
  | .frdv w n off d a g => some { w0 := pack64 w.val g.val a.val d.val 9, w1 := some (off.toNat * 65536 + n.val * 32) }
  | .renew w ty sz off a g => some { w0 := pack64 w.val g.val a.val 0 10, w1 := some (off.toNat * 65536 + ty.val * 4096 + sz.val * 32) }
  | .mxsBf16 aft wrap z afmt ring k a b c => some { w0 := pack64 0 b.val a.val k.val 32, w1 := some (afterBits aft + wrap.toNat * 1024 + z.toNat * 512 + afmt.toNat * 256 + ring.val * 32 + c.val) }
  | .mxsF16 aft wrap z afmt ring k a b c => some { w0 := pack64 0 b.val a.val k.val 33, w1 := some (afterBits aft + wrap.toNat * 1024 + z.toNat * 512 + afmt.toNat * 256 + ring.val * 32 + c.val) }
  | .mxsF8 aft wrap z afmt ring k a b c => some { w0 := pack64 0 b.val a.val k.val 34, w1 := some (afterBits aft + wrap.toNat * 1024 + z.toNat * 512 + afmt.toNat * 256 + ring.val * 32 + c.val) }
  | .mxsE2m1 aft wrap z afmt ring k a b c => some { w0 := pack64 0 b.val a.val k.val 35, w1 := some (afterBits aft + wrap.toNat * 1024 + z.toNat * 512 + afmt.toNat * 256 + ring.val * 32 + c.val) }
  | .mxsI8 aft wrap z afmt ring k a b c => some { w0 := pack64 0 b.val a.val k.val 36, w1 := some (afterBits aft + wrap.toNat * 1024 + z.toNat * 512 + afmt.toNat * 256 + ring.val * 32 + c.val) }
  | .mxsI4 aft wrap z afmt ring k a b c => some { w0 := pack64 0 b.val a.val k.val 37, w1 := some (afterBits aft + wrap.toNat * 1024 + z.toNat * 512 + afmt.toNat * 256 + ring.val * 32 + c.val) }
  | .mxsT2 aft wrap z afmt ring k a b c => some { w0 := pack64 0 b.val a.val k.val 38, w1 := some (afterBits aft + wrap.toNat * 1024 + z.toNat * 512 + afmt.toNat * 256 + ring.val * 32 + c.val) }
  | .mxsB48 aft wrap z afmt ring k a b c => some { w0 := pack64 0 b.val a.val k.val 39, w1 := some (afterBits aft + wrap.toNat * 1024 + z.toNat * 512 + afmt.toNat * 256 + ring.val * 32 + c.val) }
  | .mxz aft k b c => some { w0 := pack64 0 b.val 0 k.val 40, w1 := some (afterBits aft + c.val) }
  | .mxe rnd aft relu srci dbuf dfmt k a b c => some { w0 := pack64 0 b.val a.val k.val 41, w1 := some (afterBits aft + relu.toNat * 1024 + srci.toNat * 512 + dbuf.toNat * 256 + dfmt.val * 32 + c.val), rnd := rnd }
  | .ringcfg ring a b => some { w0 := pack64 0 b.val a.val 0 42, w1 := some (ring.val * 32) }
  | .cpy w rnd aft dsp ssp conv ring k a b c => some { w0 := pack64 w.val b.val a.val k.val 48, w1 := some (afterBits aft + dsp.val * 32768 + ssp.val * 4096 + conv.val * 256 + ring.val * 32 + c.val), rnd := rnd }
  | .cpya w rnd aft dsp ssp ring k a b c => some { w0 := pack64 w.val b.val a.val k.val 49, w1 := some (afterBits aft + dsp.val * 32768 + ssp.val * 4096 + ring.val * 32 + c.val), rnd := rnd }
  | .cpyg w rnd aft dsp ssp ring k a b c => some { w0 := pack64 w.val b.val a.val k.val 50, w1 := some (afterBits aft + dsp.val * 32768 + ssp.val * 4096 + ring.val * 32 + c.val), rnd := rnd }
  | .cpys w rnd aft dsp ssp k a b c => some { w0 := pack64 w.val b.val a.val k.val 51, w1 := some (afterBits aft + dsp.val * 32768 + ssp.val * 4096 + c.val), rnd := rnd }
  | .cpyr w aft ssp k a b c => some { w0 := pack64 w.val b.val a.val k.val 52, w1 := some (afterBits aft + ssp.val * 4096 + c.val) }
  | .sbind w rnd aft vreg ssp conv k b c => some { w0 := pack64 w.val b.val 0 k.val 53, w1 := some (afterBits aft + vreg.val * 32768 + ssp.val * 4096 + conv.val * 256 + c.val), rnd := rnd }
  | .sunbind w vreg => some { w0 := pack64 w.val 0 0 0 54, w1 := some (vreg.val * 32768) }
  | .bankcall w aft nr entry k a b => some { w0 := pack64 w.val b.val a.val k.val 55, w1 := some (afterBits aft + nr.val * 2048 + entry.val * 32) }
  | .collAr w rnd aft rsp ssp k a b c => some { w0 := pack64 w.val b.val a.val k.val 64, w1 := some (afterBits aft + rsp.val * 32768 + ssp.val * 4096 + c.val), rnd := rnd }
  | .collRs w rnd aft rsp ssp k a b c => some { w0 := pack64 w.val b.val a.val k.val 65, w1 := some (afterBits aft + rsp.val * 32768 + ssp.val * 4096 + c.val), rnd := rnd }
  | .collAg w aft rsp ssp k a b c => some { w0 := pack64 w.val b.val a.val k.val 66, w1 := some (afterBits aft + rsp.val * 32768 + ssp.val * 4096 + c.val) }
  | .collA2a w aft rsp ssp k a b c => some { w0 := pack64 w.val b.val a.val k.val 67, w1 := some (afterBits aft + rsp.val * 32768 + ssp.val * 4096 + c.val) }
  | .collBc w aft rsp ssp k a b c => some { w0 := pack64 w.val b.val a.val k.val 68, w1 := some (afterBits aft + rsp.val * 32768 + ssp.val * 4096 + c.val) }
  | .wait k => some { w0 := pack64 0 0 k.val 0 80, w1 := some (0) }
  | .waitm mask => some { w0 := pack64 0 0 0 0 81, w1 := some (mask.toNat * 32) }
  | .cancel k => some { w0 := pack64 0 0 k.val 0 82, w1 := some (0) }
  | .detach k b c => some { w0 := pack64 0 b.val k.val 0 83, w1 := some (c.val) }
  | .adopt k a => some { w0 := pack64 0 0 a.val k.val 84, w1 := some (0) }
  | .kprio k b => some { w0 := pack64 0 b.val k.val 0 85, w1 := some (0) }
  | .kstat d k => some { w0 := pack64 0 0 k.val d.val 86, w1 := some (0) }
  | .kmov d a => some { w0 := pack64 0 0 a.val d.val 87, w1 := some (0) }
  | .vfmaF32 rnd d a b c => some { w0 := pack64 0 b.val a.val d.val 96, w1 := some (c.val), rnd := rnd }
  | .vfnmaF32 rnd d a b c => some { w0 := pack64 0 b.val a.val d.val 97, w1 := some (c.val), rnd := rnd }
  | .vfmaI32 d a b c => some { w0 := pack64 0 b.val a.val d.val 98, w1 := some (c.val) }
  | .ack => none
  | .refuse => none
  | .wake => none
  | .data => none
  | .postedRefusalTrap => none
  | .pageFaultRepair => none
  | .resume => none
  | .operationReply => none
  | .redirectAcknowledgement => none
  | .eddyMerge => none
  | .apply => none
  | .invalidationComplete => none
  | .evaluate => none
  | .frozenReadEvaluate => none
  | .landingApply => none
  | .armSequencerMacro => none
  | .retentionEntry => none
  | .engineMessageArrival => none
  | .operationStart => none
  | .cancelArrival => none
  | .matrixUnit => none
  | .copyStrip => none
  | .streamStrip => none
  | .cpyrRequest => none
  | .readyToReceive => none
  | .remoteCopyStrip => none
  | .collectiveBlock => none
  | .bankcallMessage => none
  | .bankRowUnit => none
  | .buseg => none
  | .ordinaryAccessArrival => none
  | .buSuspend => none
  | .ordinaryPhaseEnd => none
  | .rfm => none
  | .stackAlert => none
  | .modeSwitchNormal => none
  | .modeSwitchNearBank => none
  | .modeSwitchComplete => none
  | .controlStoreLoad => none
  | .handlerDispatch => none
  | .messageForward => none
  | .launchEntryProcess => none
  | .queueBind => none
  | .gateWake => none
  | .placement => none
  | .levelConfinementExpiry => none
  | .gangPlacement => none
  | .coreReturn => none
  | .preemption => none
  | .drainComplete => none
  | .streamComplete => none
  | .restore => none
  | .threadMove => none
  | .migration => none
  | .coreEmptyRequest => none
  | .coreReturnToService => none
  | .pageMove => none
  | .quiescenceSweep => none
  | .contextComplete => none
  | .contextStopped => none
  | .contextFaultRecord => none
  | .breakpoint => none
  | .haltGroupStop => none
  | .haltGroupRun => none
  | .haltGroupStep => none
  | .debugRegisterWrite => none
  | .queueEnable => none
  | .queueDisable => none
  | .queueClose => none
  | .notify => none
  | .windowEnable => none
  | .windowClose => none
  | .registerWrite => none
  | .create => none
  | .release => none
  | .scrubComplete => none
  | .seal => none
  | .sealComplete => none
  | .auditread => none
  | .hostWrite => none
  | .hostRead => none
  | .keyLoad => none
  | .getVersion => none
  | .getCapabilities => none
  | .negotiateAlgorithms => none
  | .getDigests => none
  | .getCertificate => none
  | .challenge => none
  | .getMeasurements => none
  | .keyExchange => none
  | .finish => none
  | .endSession => none
  | .deviceReset => none
  | .linkBringup => none
  | .flitReceive => none
  | .linkKeyReplace => none
  | .laneSpare => none
  | .linkRetrainComplete => none
  | .redirect => none
  | .writeBackComplete => none
  | .replicaCreate => none
  | .throttling => none
  | .functionLevelReset => none

/-- The extension words an encoding needs, in the order PAGE, RND, IMM, WAIT (R241). -/
def Enc.pfx (e : Enc) : List Pfx :=
  (if e.page = 0 then [] else [{ kind := .page, payload := e.page }])
  ++ (match e.rnd with
    | none => []
    | some r => [{ kind := .rnd, payload := r.fmask.toNat * 32 + r.sat.val * 8 + r.rm.val }])
  ++ (match e.imm with
    | none => []
    | some v => [{ kind := .imm, payload := v }])
  ++ (match e.wait with
    | none => []
    | some v => [{ kind := .wait, payload := v.val }])

/-- The word of an extension word with P = `pbit` (Table 9.3). -/
def Pfx.word (q : Pfx) (pbit : Nat) : Nat := q.payload * 128 + q.kind.code * 8 + pbit * 4 + 1

/-- The header bits of an instruction word with P = `pbit` (R218). -/
def Header.bitsOf (h : Header) (pbit : Nat) : Nat := h.gap.val * 16 + h.y.toNat * 8 + pbit * 4

/-- The words of the extension words of a group; the first has P = 0 (R219). -/
def pfxWords : List Pfx → Nat → List Nat
  | [], _ => []
  | q :: l, pbit => q.word pbit :: pfxWords l 1

/-- The words of a group. -/
def Enc.words (e : Enc) (h : Header) : List Nat :=
  pfxWords e.pfx 0
  ++ (e.w0 + h.bitsOf (if e.pfx = [] then 0 else 1)) :: (match e.w1 with
    | none => []
    | some v => [v])

/-- The words of the group that carries instruction `i` with header `h`; none for a device event. -/
def encode (i : Instr) (h : Header) : List Nat :=
  match encParts i with
  | none => []
  | some e => e.words h

/-- The 32-bit words of an instruction whose bits, the first word lowest, are `v`. -/
def tableWords : Nat → Nat → List Nat
  | 0, _ => []
  | n + 1, v => v % 4294967296 :: tableWords n (v / 4294967296)

/-- The instruction this decoder reads from the bits of an opcode-table row: bit 0 is the least
significant bit of the first word, and the bits above `nbits` are zero. Words stand little-endian (R11),
so the first 32 bits are the first word of the group. -/
def decodeTableWord (nbits w : Nat) : Option Instr :=
  match readGroup (wordAt (tableWords 6 (w % 2 ^ nbits))) with
  | .error _ => none
  | .ok g =>
    match decode g.pfx g.w0 g.w1 with
    | .error _ => none
    | .ok i => some i

end Sys2Proof
end

