-- ==== Sys2Proof/Machine/State.lean ====
section
/-! DEFINITION. The state of the machine as plain data, its reset value, and the reasons a step can stop. -/

namespace Sys2Proof.Machine

/-! ## Harts: compute-core threads and rill cores -/

/-- Who issues: slot `slot` of the core state `core`, or the rill core of a node (R351). -/
inductive HartId where
  | thread (core slot : Nat)
  | rill (node : Nat)
  deriving DecidableEq, Repr

/-- The register files of R224 that the checking scoreboard watches (Table 16.1, cause 0x06). -/
inductive RegFile where
  | x | v | m | k
  deriving DecidableEq, Repr

/-- One register of a file. -/
structure RegId where
  file : RegFile
  idx : Nat
  deriving DecidableEq, Repr

/-- A result of the checking scoreboard (R232): the register, its latency less the distance so far, its
value before the result, the result itself while the register shows the earlier value (R233), and the
result that is to overwrite a later write. -/
structure Pend where
  reg : RegId
  left : Int
  old : Nat
  held : Option Nat := none
  later : Option Nat := none
  deriving DecidableEq, Repr

/-- Control registers of a hart (Table 10.4), each held as the bits that are stored. -/
structure Ctl where
  rmode : Word := 0
  fflags : Word := 0
  chk : Word := 0
  sptr : Word := 0
  tvec : Word := 0
  tepc : Word := 0
  tcause : Word := 0
  taddr : Word := 0
  h : Bool := false
  lcnt0 : Word := 0
  lbeg0 : Word := 0
  lend0 : Word := 0
  lcnt1 : Word := 0
  lbeg1 : Word := 0
  lend1 : Word := 0
  deriving DecidableEq, Repr

/-! ## Lattice operations -/

/-- Who a message is from, and so who its reply goes to (R94, R97): a thread, a unit of a child operation,
a host write, a task's gate, a rill core, the join unit of a channel (by its number over the basin), a compute core, or the
firmware. -/
inductive Who where
  | thread (core slot : Nat)
  | op (core slot gen unit : Nat)
  | host (win : Nat) (cxl : Bool)
  | gate (task gate : Nat)
  | rill (node : Nat)
  | ju (chan : Nat)
  | core (id : Nat)
  deriving DecidableEq, Repr

/-- The operation classes of R112 as a home sees them. -/
inductive LKind where
  | join | fill | freeze | renew | thr | thrF | frd
  deriving DecidableEq, Repr

/-- A home as sequence numbers count it (R113): the join unit of a channel, or the core of a gang member. -/
inductive Home where
  | ju (chan : Nat)
  | member (gang rank : Nat)
  deriving DecidableEq, Repr

/-- One original operation of a lattice message (R97): its issuer, its journal entry, its posted-count class
(0 none, 1 P, 2 F, 3 B), whether its home was die-local when sent (R114), the PC, lane, virtual and physical
address, its contribution in the layout of Table 12.4 (for FILL, the bytes), and its sequence number for its thread and
home (R113). -/
structure Member where
  who : Who
  entry : Nat := 0
  cls : Nat := 0
  loc : Bool := true
  pc : Nat := 0
  lane : Nat := 0
  va : Nat
  pa : Nat
  v : Nat := 0
  seq : Nat := 0
  home : Option Home := none
  deriving DecidableEq, Repr

/-- Where a message goes: the join unit that homes a freeze unit, the core of a landing region's owner
(by gang member, R24), an issuing core state, an engine or rill core by node, or a launch record. -/
inductive Dest where
  | unit (pa : Nat)
  | member (gang rank buf off : Nat)
  | core (id : Nat)
  | node (n : Nat)
  | host
  deriving DecidableEq, Repr

/-- A lattice request: class, cell type and size code, generation carried, members, triggers of a THR
(`cand`: FILL candidates), bytes of a frozen read with its place among the lines of an FRDV;
for a parked one its arrival number, its first trigger-store slot, and whether it lies in the overflow area (R98, R99). -/
structure LReq where
  kind : LKind
  ty : Nat := 0
  sz : Nat := 0
  gen : Nat
  members : List Member
  trigs : List Nat := []
  cand : Bool := false
  len : Nat := 0
  part : Nat := 0
  seq : Nat := 0
  tidx : Nat := 0
  moved : Bool := false
  deriving DecidableEq, Repr

/-- A message of a posted instruction: one for each freeze unit, with the unit it goes to (R112). -/
structure Outgoing where
  dest : Dest
  req : LReq
  deriving DecidableEq, Repr

/-- What a posted access asks for, with its operands read: one cell, the active lanes of a JOINV (lane, address,
contribution), the units of a range, a plain store, or messages whose homes are known. -/
inductive LaterOp where
  | cell (kind : LKind) (ty sz gen va v : Nat)
  | lanes (ty gen : Nat) (ls : List (Nat × Nat × Nat))
  | range (gen lo hi : Nat)
  | store (va n v : Nat)
  | send (outs : List Outgoing)
  deriving DecidableEq, Repr

/-- A posted access that its core has taken in and not yet let go (R33, R113): the journal entry of a lattice operation, its
PC, what it asks for, the address whose repair it waits for, the addresses that no region covers, and the line whose bank a plain
store waits for (R106). -/
structure Later where
  entry : Nat
  pc : Nat
  what : LaterOp
  ask : Option Nat := none
  told : List Nat := []
  bank : Option Nat := none
  deriving DecidableEq, Repr

/-- A message of a posted operation without its reply: where it went, whether it is an update, and its number for its
home (R113). -/
structure Sent where
  dest : Dest
  upd : Bool
  home : Home
  seq : Nat
  deriving DecidableEq, Repr

/-- Vector, mask and token registers of a thread (R272, R195). -/
structure Vecs where
  v : Vector VWord 32 := Vector.replicate 32 0
  m : Vector MWord 8 := Vector.replicate 8 0
  k : Vector Word 16 := Vector.replicate 16 0
  deriving DecidableEq, Repr

/-- One entry of the posted-join journal (Table 5.1), its messages still without a reply (R121), and the order in which
it became refused (R188). -/
structure JEntry where
  v : Bool := false
  ref : Bool := false
  hscope : Nat := 0
  fault : Nat := 0
  tcode : Nat := 0
  lanes : Nat := 0
  addr : Nat := 0
  pc : Nat := 0
  gop : Nat := 0
  gfound : Nat := 0
  out : Nat := 0
  stamp : Nat := 0
  deriving DecidableEq, Repr

/-- The posted-join journal and the posted counters of a thread (R119, R121), the accesses its core holds in issue order (R33),
its messages without a reply, and the next sequence number for each home (R113). -/
structure Posted where
  j : Vector JEntry 16 := Vector.replicate 16 {}
  p : Nat := 0
  f : Nat := 0
  b : Nat := 0
  later : List Later := []
  sent : List Sent := []
  seqs : List (Home × Nat) := []
  deriving DecidableEq, Repr

/-- A range-lock entry of a thread slot (Table 5.6); `kgen` is the generation of its token's slot, and `left` says that the
thread it was made for has exited while its operation runs (R137). -/
structure RangeLock where
  watermark : Bool
  dir : Bool
  space : Nat
  kslot : Nat
  kgen : Nat
  start : Nat
  stop : Nat
  wmark : Nat
  left : Bool := false
  deriving DecidableEq, Repr

/-- The freeze-unit states of R65. -/
inductive UState where
  | growing | frozen | conflict
  deriving DecidableEq, Repr

/-- A scratch window (Table 2.3) in bytes of its view, with the filled bit of each tile of a landing
region (R56). -/
structure Win where
  buf : Nat
  base : Nat
  len : Nat
  land : Bool := false
  tsize : Nat := 0
  lstate : UState := .growing
  lgen : Nat := 0
  filled : List Bool := []
  deriving DecidableEq, Repr

/-- An armed macro (R49 to R51, R55): its place in the W view, format, integer weights row by row, column
exponents or scales, checksums, and its retention state; `region` names the ARM that armed it. -/
structure Armed where
  off : Nat
  fmt : Nat
  region : Nat
  q : List (List Int)
  col : List Int
  csum : List Int
  retained : Bool := false
  deriving DecidableEq, Repr

/-- A ring descriptor (Table 2.9). -/
structure Ring where
  v : Bool := false
  size : Nat := 0
  base : Nat := 0
  tile : Nat := 0
  tail : Nat := 0
  head : Nat := 0
  deriving DecidableEq, Repr

/-- A stream binding of v24 + `vreg` (R334): the operation that feeds it by slot and slot generation,
images in its queue, images popped, images the descriptor gives in all, and the ADDR of the fault record
if the operation failed or was cancelled. -/
structure Stream where
  vreg : Nat
  slot : Nat
  gen : Nat
  queue : List VWord := []
  popped : Nat := 0
  total : Nat
  fail : Option Nat := none
  deriving DecidableEq, Repr

/-- Where the contents of a spill slot lie (R62): a register of the bank of a thread slot that holds no thread, a place in a C
granule that lies in no window, or device memory that no context maps. -/
inductive SpillAt where
  | bank (slot reg : Nat)
  | granule (g i : Nat)
  | memory
  deriving DecidableEq, Repr

/-- The scratchpad of a thread as it sees it: windows, view bytes, armed macros, rings, spill slots with
the spill map, stream bindings (R41 to R62, R334), and the rings that a detached operation names (R328). -/
structure Scratch where
  wins : List Win := []
  w : List Host.Cell := []
  a : List Host.Cell := []
  c : List Host.Cell := []
  armed : List Armed := []
  rings : Vector Ring 8 := Vector.replicate 8 {}
  spill : List (Nat × VWord) := []
  spillMap : List (Nat × SpillAt) := []
  streams : List Stream := []
  ringsHeld : List Nat := []
  deriving DecidableEq, Repr

/-- What the maintenance check of R339 judges, in program order. Ranges are byte ranges; an operation is named
by its token slot and slot generation. -/
inductive Hist where
  | load (lo hi : Nat)
  | store (lo hi : Nat)
  | opIssued (slot gen lo hi : Nat)
  | opReleased (slot gen : Nat)
  | cleanr (lo hi : Nat)
  | invalr (lo hi : Nat)
  | fenceM
  deriving DecidableEq, Repr

/-- Why a thread is blocked or parked (Table 7.4), as the condition that ends it. -/
inductive WaitOn where
  /-- A wait field, or what waits as one does (R119, R123, R126). -/
  | counters (w : Nat)
  /-- A full journal (R121). -/
  | journal
  /-- FENCE.J of a scope (R128). -/
  | fenceJ (scope : Nat)
  /-- FENCE.M: the stores that the core holds, and with a scope of DIE or wider the maintenance (R129). -/
  | fenceM (wide : Bool)
  /-- FENCE.K of a scope (R130). -/
  | fenceK (scope : Nat)
  /-- The reply of a parked THR, THR.F, FRD or FRDV of an address (R94). -/
  | reply (va : Nat)
  /-- An ABSENT page under repair (R31, R33). -/
  | repair (va : Nat)
  /-- A HOST page that waits for SEAL (R22). -/
  | seal (va : Nat)
  /-- A cache fill from a bank that its bank unit holds, at a physical address (R106). -/
  | bank (pa : Nat)
  /-- The accesses that the core holds in issue order (R33, R113). -/
  | accesses
  /-- A lattice read behind an earlier message of the thread to its unit (R113). -/
  | order (d : Dest)
  /-- A growing landing region of the thread, for an access at an address (R52, R59). -/
  | landing (buf base va : Nat)
  /-- A WATERMARK range, until the watermark passes `last` or the operation ends (R135). -/
  | watermark (kslot kgen last : Nat)
  /-- WAIT, WAITM or KSTAT on unfinished operations, with the first one's token (R199). -/
  | tokens (slots : List Nat) (val : Nat)
  /-- The arm sequencer's completion of this thread's request (R52, R54). -/
  | sequencer
  /-- DISARM until matrix operations that name the range have ended (R54). -/
  | matrixOps (off n : Nat)
  /-- WINALLOC until the core has granules for a window (R43). -/
  | space (buf len : Nat)
  /-- SPAWN of a record with the record store full (R176). -/
  | recordStore (va : Nat)
  /-- The next image of a stream (R274). -/
  | stream (vreg : Nat)
  /-- EXIT until the thread's child operations end (R183). -/
  | childOps
  /-- EXIT with the context's orphan area full (R206). -/
  | orphanArea
  /-- ADOPT until every member of a child has exited (R207): the task and which of its SPAWNs. -/
  | child (task k : Nat)
  /-- DETACH with the redirect table full, or until its cell is settled (R204, R205). -/
  | redirects
  /-- SEND with the outbox full (R356). -/
  | outbox
  /-- BQPUSH with the queue full (R363). -/
  | bankQueue
  /-- BQWAIT with no record (R364). -/
  | bankRecord
  deriving DecidableEq, Repr

/-- The states of Table 7.4, and two that end a thread's issue: its context has stopped (R398), and it
has exited (R183). A halted thread keeps what it waited for. -/
inductive ThreadStat where
  | ready
  | waiting (w : WaitOn)
  | halted (w : Option WaitOn) (step : Bool)
  | stopped
  | exited
  deriving DecidableEq, Repr

/-- One line of an FRDV that has its result (R313): its place, its value, and the cause and generation found
of the trap it ends in (cause 0 for none). -/
structure LineRes where
  part : Nat
  value : Nat
  cause : Nat
  addr : Nat
  detail : Nat
  deriving DecidableEq, Repr

/-- The answer a parked read holds when its thread becomes ready (R94): an outcome with a value, the trap it
ends in, or the lines of an FRDV that have come, of so many. -/
inductive Reply where
  | value (outcome value : Nat)
  | trap (cause addr detail : Nat)
  | lines (need : Nat) (got : List LineRes)
  deriving DecidableEq, Repr

/-- What a thread's task gives it (R169 to R182): context handle, internal task number, name, rank,
gang, effective priority, GANG and GOUT words, the SPAWN count of R177. -/
structure TaskRef where
  ctx : Nat := 0
  num : Nat := 0
  name : Nat := 0
  rank : Nat := 0
  gang : Option Nat := none
  prio : Nat := 0
  gword : Nat := 0
  gout : Nat := 0
  spawns : Nat := 0
  colls : Nat := 0
  dbg : Bool := false
  deriving DecidableEq, Repr

/-- A message between nodes (R350, R351): header, payload words, source and destination node, and the
output port of the source that it left by, if a neighbour port. -/
structure RMsg where
  hdr : Nat
  payload : List Nat
  src : Nat
  dst : Nat
  port : Option Nat := none
  deriving DecidableEq, Repr

/-- One level of a rill core (R189, R190, R353): the register bank, pc and scoreboard while the level does
not run, the current message, payload words left, whether a handler is in progress, and whether the bank is cleared when it ends
since a context that the rill core served has been scrubbed (R424). -/
structure RLevel where
  x : Vector Word 32 := Vector.replicate 32 0
  pc : Word := 0
  board : List Pend := []
  hdr : Nat := 0
  left : List Nat := []
  active : Bool := false
  wipe : Bool := false
  deriving DecidableEq, Repr

/-- The modes of R189. -/
inductive RMode4 where
  | service | start | test | recovery
  deriving DecidableEq, Repr

/-- A unit in the command queue of a base-die rill core (Table 14.7), its argument words copied (R365); a row of a
BANKCALL has its operation and the generations of its LAT ranges. -/
structure BqUnit where
  first : Bool
  entry : Nat
  prio : Nat
  ch : Nat
  bank : Nat
  call : Nat
  row : Nat
  ag : List Nat
  args : List Nat
  lc0 : Nat
  lc1 : Nat
  gens : List (Option Nat) := []
  op : Option (Nat × Nat × Nat) := none
  deriving DecidableEq, Repr

/-- A rill core beside its running registers (R348 to R364). At reset it runs a handler at level 0 with a
header of zero (R352). The inbox holds the messages of every level in order of arrival; the outbox is what
it has sent and the network still holds. -/
structure Rill where
  mode : RMode4 := .start
  pendMode : Option Nat := none
  level : Nat := 0
  levels : Vector RLevel 4 := (Vector.replicate 4 {}).set 0 { active := true }
  dtab : List (Nat × Nat) := []
  inbox : List RMsg := []
  imem : List Host.Cell := []
  dmem : List Host.Cell := []
  undel : Nat := 0
  bq : List BqUnit := []
  brec : List Nat := []
  logged : Nat := 0
  deriving DecidableEq, Repr

/-- Thread-only parts of a hart. `pj` is the journal entry that a held posted group has taken (R302), and
`popped` says that a held group has popped its stream registers (R274). -/
structure ThreadPart where
  task : TaskRef := {}
  vec : Vecs := { m := (Vector.replicate 8 0).set 0 (BitVec.allOnes 48) }
  post : Posted := {}
  scr : Scratch := {}
  rlt : List (Nat × RangeLock) := []
  hist : List Hist := []
  pj : Option Nat := none
  popped : Bool := false
  deriving DecidableEq, Repr

/-- One hart: a thread of a core state, or a rill core. `replay` says that the group at pc has already
passed its boundary and was held; `reply` is the answer of its parked read; `earliest` is the first
cycle in which it may issue (R230); `since` orders the waits of threads (R188); `pass` says that it has been
released from a stop and its next group issues whatever breakpoint stands there (R406, log 27). -/
structure Hart where
  id : HartId := .rill 0
  pc : Word := 0
  x : Vector Word 32 := Vector.replicate 32 0
  ctl : Ctl := {}
  board : List Pend := []
  stat : ThreadStat := .ready
  replay : Bool := false
  reply : Option Reply := none
  t : ThreadPart := {}
  r : Rill := {}
  earliest : Nat := 0
  since : Nat := 0
  pass : Bool := false
  deriving DecidableEq, Repr

/-! ## The lattice: messages, freeze units, translation -/

/-- The classes of access of Table 1.3; `fetch` is the fetch of R222, and `maint` the translation of CLEANR
and INVALR (R265). -/
inductive Acc where
  | load | store | latUpdate | latRead | engRead | engWrite | hostRead | hostWrite | fetch | maint
  deriving DecidableEq, Repr

/-- What a message carries. Operations are named by core state, token slot and slot generation. -/
inductive Body where
  | lat (r : LReq)
  | ack (m : Member)
  | refuse (m : Member) (lanes fault tcode gop gfound : Nat)
  | wake (m : Member) (outcome value : Nat)
  | data (m : Member) (part len value cause detail : Nat)
  | pageFault (ctx va : Nat) (a : Acc) (w : Who) (task : Nat)
  | resume (ctx va : Nat) (w : Who) (code : Nat)
  | engine (core slot gen : Nat)
  | cancel (core slot gen : Nat)
  | redirect (core slot gen : Nat)
  | redirectAck (core slot gen : Nat)
  | opReply (core slot gen w0 w1 : Nat)
  | cpyrRequest (core slot gen : Nat)
  | ready (core slot gen : Nat) (pa : Option Nat) (cls code : Nat)
  | bankcall (core slot gen : Nat)
  | gateWake (task gate outcome : Nat)
  | rill (m : RMsg)
  deriving DecidableEq, Repr

/-- A message in flight: `via` is the vacated core that is still to pass it on (R384). -/
structure Msg where
  src : Who
  ctx : Nat
  dest : Dest
  body : Body
  via : Option Nat := none
  deriving DecidableEq, Repr

/-- A freeze unit that differs from its page's initial state (R65, R89): the values are those of the
growing layout while growing and of the frozen image after a freeze (R93). -/
structure LUnit where
  pa : Nat
  gen : Nat
  st : UState
  cells : List Nat
  filled : List Bool
  parked : List Msg := []
  held : List Msg := []
  deriving DecidableEq, Repr

/-- A region of a context (Table 1.2). -/
structure Region where
  base : Nat
  len : Nat
  psize : Nat
  kind : Nat
  ctype : Nat
  csize : Nat
  pol : Nat
  win : Nat
  key : Nat
  gen : Nat
  sealed : Bool := false
  deriving DecidableEq, Repr

/-- A frame handed out (R31, R36): its global physical address and size, the context and page it holds,
its kind and cells, the generation and state its units start in, its key slot, and the key check that its lines were written with
when it was created (R90). -/
structure Frame where
  pa : Nat
  size : Nat
  ctx : Nat
  va : Nat
  kind : Nat
  ctype : Nat := 0
  csize : Nat := 0
  gen : Nat := 0
  sealed : Bool := false
  key : Nat := 0
  chk : Nat := 0
  replicas : List (Nat × Nat) := []
  deriving DecidableEq, Repr

/-- A leaf entry as a walk returns it (Table 1.5), with the page it maps. -/
structure Leaf where
  va : Nat
  size : Nat
  kind : Nat
  pa : Nat
  key : Nat
  ret : Bool
  owner : Nat
  ctype : Nat
  csize : Nat
  win : Nat
  deriving DecidableEq, Repr

/-- A cached leaf: which TLB holds it, by its core state or its die, the context, the leaf (R29). -/
structure TlbEntry where
  core : Option Nat
  die : Nat
  ctx : Nat
  leaf : Leaf
  deriving DecidableEq, Repr

/-- A line in a cluster cache: the cluster, the line, whether it is dirty, and for a copy of a frozen lattice
line its generation and image (R83, R265). What caches hold of a plain line stands in memory, and what DRAM holds
beside it in `Lattice.dram` (log 7). -/
structure CLine where
  cluster : Nat
  line : Nat
  dirty : Bool
  gen : Option Nat := none
  img : Nat := 0
  deriving DecidableEq, Repr

/-- A CLEANR or INVALR whose write-backs and removals are under way (R265): its thread, context and byte
range, and the cached lines it acts on, the dirty ones with the contents that are written back. -/
structure WriteBack where
  hart : HartId
  ctx : Nat
  lo : Nat
  hi : Nat
  inval : Bool
  lines : List (Nat × Option Nat) := []
  deriving DecidableEq, Repr

/-- The lattice, the network and the memory system beside DRAM bytes: freeze units, messages in flight,
messages that wait at a member's core for a landing region (R58), readers parked at landing regions (R59), fault messages that
a rill core has accepted and not yet answered (R31), frames, root directories by context and
index (R25), TLB copies, cache lines, newest first, what DRAM holds of the lines that caches hold otherwise (R129), write-backs
of CLEANR and INVALR under way, the lines the stack's ECC reports as lost, the key checks of lines written since their page
was created (R90), the next arrival number of each join unit (R99), and the messages sent and received by context (R186). -/
structure Lattice where
  units : List LUnit := []
  net : List Msg := []
  waiting : List Msg := []
  landParked : List Msg := []
  faults : List Msg := []
  frames : List Frame := []
  roots : List (Nat × Nat × Nat) := []
  tlb : List TlbEntry := []
  cache : List CLine := []
  dram : List (Nat × Nat) := []
  writeBacks : List WriteBack := []
  lost : List Nat := []
  checks : List (Nat × Nat) := []
  arrivals : List (Nat × Nat) := []
  sent : List (Nat × Nat) := []
  received : List (Nat × Nat) := []
  deriving DecidableEq, Repr

/-! ## Child operations -/

/-- The end states and live states of Table 8.3. -/
inductive OpState where
  | queued | running | suspended | done | failed | cancelled
  deriving DecidableEq, Repr

/-- What an operation does, with its operands resolved at issue (R192, 13). -/
inductive OpWork where
  | mxs (fmt afmt : Nat) (wrap z : Bool) (ring off kb ng m cbase cstride : Nat)
  | mxz (rw m cbase cstride : Nat)
  | mxe (relu srci : Bool) (dbuf dfmt : Nat) (rm : Nat) (sat : Nat) (cbase cstride m dbase dstride alpha nb sptr : Nat)
  | cpy (dsp ssp conv ring dst src len rm sat : Nat)
  | cpya (dsp ssp ring dst src rm sat : Nat) (desc : List Nat)
  | cpyg (dsp ssp ring dst src rm sat : Nat) (desc : List Nat)
  | cpys (dsp ssp dst src rm sat : Nat) (desc : List Nat)
  | sbind (vreg ssp conv src rm sat : Nat) (desc : List Nat)
  | cpyr (ssp dst src len gen : Nat)
  | bankcall (entry nr : Nat) (args : List Nat) (ranges : List (Nat × Nat × Nat × Nat × List Nat))
  | coll (op rsp ssp send recv rm sat : Nat) (desc : List Nat) (gang index : Nat)
  | adopted
  deriving DecidableEq, Repr

/-- How a unit of a bank unit stands: it runs, it has ended, or it fails with BUCODE, a stale LAT line, or a lost line. -/
inductive BuStat where
  | run
  | done
  | code
  | stale (va : Nat)
  | lost (va pa : Nat)
  deriving DecidableEq, Repr

/-- A row of a bank call that a bank unit has run before its turn to retire (R194): how it ended, whether it was late, and the
lines that it writes when it retires. -/
structure RowEnd where
  row : Nat
  st : BuStat
  late : Bool
  wr : List (Nat × Nat)
  deriving DecidableEq, Repr

/-- A child operation (R192 to R207): its core state, slot and slot generation, thread slot, task and context,
kind (Table 8.1), priority, what it does, the operations its AFTER names that have not ended, its state at its
engine, whether its message has arrived, units retired, fault record, order of issue, and how it is held: 0 in its
token slot, 1 detached, 2 the same with its engine to make the completion join, 3 the same with its entry free, 4 as an orphan,
5 as a detached record, 6 with nothing left but a redirect entry. `replied` says that the token table knows of its end, `cell` is its
completion cell (virtual and physical address, generation), `waitVa` the address it waits for repair at, `pushed`
the remote fills sent, `fills` those without a reply, `h0` the first tile of a matrix
operation or the cell size at a registered remote destination, `dstPa` the place that ready-to-receive names, `node` the rill core that serves it.
`entry` says that its redirect entry is in use (R205), `begun` that the unit under way has started, `cut` that a cancel takes
effect at its end (R203), `written` how many bytes or elements of that unit are done, `got` what it has gathered (R209), and `pkg`
is the package where it was issued or, once it has ended, where it ended (R396), `bankAt` the line whose bank holds its unit back
(R106), and `ahead` the rows that bank units have run before their turn (R194). -/
structure Op where
  core : Nat
  slot : Nat
  gen : Nat
  thread : Nat
  task : Nat
  ctx : Nat
  kind : Nat
  prio : Nat
  work : OpWork
  aft : List (Nat × Nat × Nat) := []
  st : OpState := .queued
  arrived : Bool := false
  units : Nat := 0
  cls : Nat := 0
  code : Nat := 0
  addr : Nat := 0
  order : Nat := 0
  hold : Nat := 0
  orphan : Option Nat := none
  cell : Option (Nat × Nat × Nat) := none
  waitVa : Option Nat := none
  pushed : Nat := 0
  dstPa : Option Nat := none
  fills : Nat := 0
  h0 : Nat := 0
  replied : Bool := false
  node : Nat := 0
  entry : Bool := false
  begun : Bool := false
  cut : Bool := false
  written : Nat := 0
  got : List Host.Cell := []
  pkg : Nat := 0
  bankAt : Option Nat := none
  ahead : List RowEnd := []
  deriving DecidableEq, Repr

/-! ## Bank units and channels -/

/-- The phase of a bank in near-bank mode (R106). -/
inductive Phase where
  | idle | unit | ordinary
  deriving DecidableEq, Repr

/-- An entry-table entry (Table 14.9); `std` names the standard entry whose row result it is to have. -/
structure BankEntry where
  v : Bool := false
  nrmask : Nat := 0
  dirreq : Nat := 0
  start : Nat := 0
  std : Option Nat := none
  deriving DecidableEq, Repr

/-- The line registers that a call has left on a bank unit (R365): the operation and its context, or the number that firmware
gave the call. -/
structure CallAcc where
  op : Option (Nat × Nat × Nat)
  ctx : Option Nat
  call : Nat
  acc : Vector (BitVec 512) 8
  deriving DecidableEq, Repr

/-- A bank unit (Table 4.5), the unit it runs, its bank's phase, queued ordinary accesses (R106),
activations of the bank's rows, rows that queued accesses will activate and refresh management due (R108), lines that its unit
writes when it ends (R194), cycles since its ACT, its control store (R103), the line
registers of calls whose units it has run (R365), and the context whose call left its registers (R424). -/
structure BankUnit where
  mpc : Nat := 0
  acc : Vector (BitVec 512) 8 := Vector.replicate 8 0
  arg : Vector Word 8 := Vector.replicate 8 0
  ag : Vector Nat 4 := Vector.replicate 4 0
  lc0 : Nat := 0
  lc1 : Nat := 0
  rows : Nat := 0
  cur : Option BqUnit := none
  phase : Phase := .idle
  suspended : Bool := false
  waiting : Nat := 0
  acts : List (Nat × Nat) := []
  rowsDue : List Nat := []
  wr : List (Nat × Nat) := []
  rfm : Bool := false
  since : Option Nat := none
  store : List Nat := []
  entries : Vector BankEntry 16 := Vector.replicate 16 {}
  calls : List CallAcc := []
  owner : Option Nat := none
  deriving DecidableEq, Repr

/-- The mode register of a channel (Table 4.7); BUSY is computed from its bank units. -/
structure Channel where
  mode : Bool := false
  held : Bool := false
  done : Bool := false
  deriving DecidableEq, Repr

/-! ## Contexts, tasks, gangs, cores -/

/-- A context (R169, R396, R397). A fault record is its eight words; `opened` says that the host has opened a launch queue or
a host window of it (log 24), `home` is the package where it was created (R397), and `served` lists the rill cores that have served
it (R424). -/
structure Ctx where
  handle : Nat
  prio : Nat
  key : Nat
  dbg : Bool
  hgrp : Nat
  pkgs : List Nat
  compl : Nat := 0
  regions : List Region
  log : List (List Nat) := []
  pend : List (List Nat × Bool) := []
  nfault : Nat := 0
  stopping : Bool := false
  stopped : Bool := false
  done : Bool := false
  quiet : Bool := false
  detrel : Bool := false
  sealedPaths : List (Nat × Nat) := []
  released : Bool := false
  opened : Bool := false
  home : Nat := 0
  served : List Nat := []
  deriving DecidableEq, Repr

/-- Where a task stands on its path (R175 to R183). -/
inductive TaskStat where
  | gated | ready | placed (core slot : Nat) | exited
  deriving DecidableEq, Repr

/-- A gate that has been checked: GK = 1, its cell, generation, trigger, and what the cell's page gives. -/
structure Gate where
  fr : Bool
  cell : Nat
  gen : Nat
  trig : Nat
  pa : Nat := 0
  ty : Nat := 0
  sz : Nat := 0
  deriving DecidableEq, Repr

/-- A task, or the shared record of a gang before its members are placed (R171 to R178): number, name,
record words, gang and rank, outcomes of its gates, parent and which SPAWN made it (R177), the die that
keeps its record (R375), its order of readiness (R376), its confinement (R377), whether its pages have retired (R20), how
many orphans it left (R206), its gates as checked, and its order of acceptance (R188). -/
structure Task where
  num : Nat
  ctx : Nat
  name : Nat
  words : List Nat
  gang : Option Nat := none
  rank : Nat := 0
  gates : List (Option Nat) := []
  st : TaskStat := .gated
  parent : Option (Nat × Nat) := none
  die : Nat := 0
  readyAt : Nat := 0
  confined : Bool := false
  retired : Bool := false
  orphans : Nat := 0
  cells : List Gate := []
  born : Nat := 0
  deriving DecidableEq, Repr

/-- What a gang member that has exited leaves to later operations on its landing regions (R58): its rank, the cluster rill core
that answers for it, its windows, and the bytes of its W and A views. -/
structure PastMember where
  rank : Nat
  node : Nat
  wins : List Win
  w : List Host.Cell
  a : List Host.Cell
  deriving DecidableEq, Repr

/-- A member's instance of a gang's collective (R341, R454, R455): its index, the rank, what every instance must
agree in, its operation as it arrived, the blocks it has supplied by unit, and how it ended (3 done, 4 failed,
5 cancelled, 6 failed or cancelled before it started). -/
structure CollPart where
  index : Nat
  rank : Nat
  key : List Nat
  op : Op
  blocks : List (List Nat) := []
  fin : Option Nat := none
  deriving DecidableEq, Repr

/-- A gang (R178, R179): its members' task numbers by rank, whether it is placed, the cores and slots its
reservation covers, what its exited members leave, and its collectives under way. -/
structure Gang where
  num : Nat
  ctx : Nat
  members : List Nat
  placed : Bool := false
  target : List (Nat × Nat) := []
  past : List PastMember := []
  colls : List CollPart := []
  deriving DecidableEq, Repr

/-- A request of the arm sequencer (R52 to R54, R63). -/
structure SeqReq where
  slot : Nat
  arm : Bool
  off : Nat
  n : Nat
  fmt : Nat
  soff : Nat
  next : Nat := 0
  scanned : Bool := false
  region : Nat := 0
  deriving DecidableEq, Repr

/-- Where a core state is (R383): on a physical core, draining, streaming to a core or to memory, or in a
save area. -/
inductive CoreLoc where
  | at (phys : Nat)
  | draining (phys : Nat) (dst : Option Nat) (migrate : Bool)
  | streaming (phys : Nat) (dst : Option Nat)
  | saved (pkg : Nat)
  deriving DecidableEq, Repr

/-- A core state (R170, R196, R379, R383): its number in this model, its tag, its context, where it is,
round-robin pointers, the last issuer and yield, the cycle of the main clock, slot generations that are
not 0, the arm sequencer's queue, the tag map: the tags of other core states that it admits, by token slot; and whether a thread
move has made it in the save area and it has not been restored since (R387). -/
structure Core where
  id : Nat
  tag : Nat
  ctx : Nat
  loc : CoreLoc
  rr : Vector Nat 12 := Vector.replicate 12 0
  last : Option Nat := none
  lastY : Bool := false
  cycle : Nat := 0
  gens : List (Nat × Nat) := []
  seq : List SeqReq := []
  arms : Nat := 0
  tags : List (Nat × Nat) := []
  spared : Bool := false
  deriving DecidableEq, Repr

/-- What a physical core serves (R378, R401, R457). -/
inductive PhysStat where
  | free | held (core : Nat) | scrubbing | spare | retired | emptied
  deriving DecidableEq, Repr

/-- A reply that is owed to a core state which moves (R214), by the task of the thread or the order of issue of the operation: of a
posted message by its home and number, of a read or a repair by when its wait began, of a repair for an access that the core
holds, of an operation, of its fault message, of its redirect, of its completion join or remote fills. -/
inductive Owe where
  | posted (task : Nat) (home : Home) (seq : Nat)
  | waits (task since : Nat)
  | asked (task va : Nat)
  | reply (order : Nat)
  | fault (order va : Nat)
  | redirect (order : Nat)
  | fills (order : Nat)
  deriving DecidableEq, Repr

/-- A forwarding entry (R384): the core state and, for a thread move, the slot it names, and the replies that were owed when the
state moved. -/
structure Fwd where
  core : Nat
  slot : Option Nat := none
  owes : List Owe := []
  deriving DecidableEq, Repr

/-- A physical core: its number (package * 272 + local), its status, its forwarding entries (R384); and whether a lasting fault has been found, so that it retires
when its state has left (R401); `emptying` says that a management request empties it
(R457), and `claim` names the work that it is being saved for (R381): 0 a task, 1 a gang, 2 a saved core state. -/
structure Phys where
  n : Nat
  st : PhysStat
  fwd : List Fwd := []
  bad : Bool := false
  emptying : Bool := false
  claim : Option (Nat × Nat) := none
  deriving DecidableEq, Repr

/-! ## The host, the root of trust, links, debug -/

/-- A launch-queue descriptor (Table 15.1); `bound` counts entries consumed since a slot bound it (R373), and `entry` holds the
words of an entry that has been read and not yet consumed (R371). -/
structure Queue where
  base : Nat := 0
  log2n : Nat := 0
  ctx : Nat := 0
  opn : Bool := false
  v : Bool := false
  err : Bool := false
  tail : Nat := 0
  head : Nat := 0
  bound : Option Nat := none
  entry : Option (List Nat) := none
  deriving DecidableEq, Repr

/-- A host window descriptor (Table 17.4). -/
structure HostWin where
  va : Nat := 0
  len : Nat := 0
  hoff : Nat := 0
  ctx : Nat := 0
  gen : Nat := 0
  opn : Bool := false
  v : Bool := false
  deriving DecidableEq, Repr

/-- A halt-group control block (Table 16.7); a breakpoint is its V and its ADDR, which keeps what was written though
V is 0 (R13). -/
structure HaltGroup where
  xmask : Nat := 0
  sidx : Nat := 0
  src : Nat := 0
  onflt : Bool := false
  ontrap : Bool := false
  stop : Bool := false
  bps : Vector (Bool × Nat) 4 := Vector.replicate 4 (false, 0)
  deriving DecidableEq, Repr

/-- The management registers (Table 17.8). -/
structure Mgmt where
  plim : Nat := 3000
  clk : Nat := 2400
  tmax : Nat := 0
  thr : Nat := 0
  xfer : Nat := 0
  corr : Nat := 0
  spcore : Nat := 16
  splane : Nat := 24
  sprow : Nat := 0
  ldown : Nat := 0
  deriving DecidableEq, Repr

/-- A device link (R417 to R420): whether its keys are agreed and with which link of which package, flits under the current key
of its incoming direction, that key's number, the failed receptions of the flit that is expected, the lanes that failed CRC in each
of the last 1,024 flits, and its spare and service. -/
structure Link where
  up : Bool := false
  peer : Option (Nat × Nat) := none
  keyNo : Nat := 0
  flits : Nat := 0
  failed : Nat := 0
  hist : List Nat := []
  spareUsed : Bool := false
  retraining : Bool := false
  out : Bool := false
  deriving DecidableEq, Repr

/-- The SPDM responder (R422): the requests it has answered in order, whether a session stands, the bytes of its last answer, and the
measurements that the answer reports, each as its index and register value. -/
structure Spdm where
  version : Bool := false
  caps : Bool := false
  algs : Bool := false
  handshake : Bool := false
  session : Bool := false
  answer : List Nat := []
  report : List (Nat × BitVec 384) := []
  deriving DecidableEq, Repr

/-- The state of one package that the host and the root of trust see (17): mailbox words, queues with the
list of pending ones (R373), windows, refusal log, management registers, halt groups, measurement
registers, key slots with the key check of each (R90), SPDM, audit log, links, and the answer of the last
host read. -/
structure Pkg where
  mbox : Vector Word 8 := Vector.replicate 8 0
  queues : List (Nat × Queue) := []
  pending : List Nat := []
  wins : List (Nat × HostWin) := []
  refusals : List (List Nat) := []
  nrefused : Nat := 0
  aerUr : Bool := false
  nonFatal : Nat := 0
  mgmt : Mgmt := {}
  halts : Vector HaltGroup 16 := Vector.replicate 16 {}
  meas : Vector (BitVec 384) 16 := Vector.replicate 16 0
  keys : List (Nat × Nat) := []
  checks : List (Nat × Nat) := []
  spdm : Spdm := {}
  links : Vector Link 24 := Vector.replicate 24 {}
  hread : Option (List Nat) := none
  deriving DecidableEq, Repr

/-- The audit log of a package (R425 to R427): records of 16 words not yet read out, the next SEQ, and the
digest of the newest record. -/
structure Audit where
  recs : List (List Nat) := []
  next : Nat := 0
  prev : Nat := 0
  deriving DecidableEq, Repr

/-- Work and its scheduling. -/
structure Work where
  ctxs : List Ctx := []
  tasks : List Task := []
  gangs : List Gang := []
  cores : List Core := []
  phys : List Phys := []
  ops : List Op := []
  nextTask : Nat := 0
  nextGang : Nat := 0
  nextCore : Nat := 0
  nextOrder : Nat := 0
  nextReady : Nat := 0
  deriving DecidableEq, Repr

/-- Everything beside harts, memory and work. -/
structure Device where
  banks : List (Nat × BankUnit) := []
  chans : List (Nat × Channel) := []
  pkgs : List (Nat × Pkg) := []
  audits : List (Nat × Audit) := []
  host : List Host.Cell := []
  deriving DecidableEq, Repr

/-! ## The whole state -/

/-- The header of the group being issued: its gap, its yield bit, its words and its instruction words
(R218, R219). -/
structure GroupHdr where
  gap : Nat := 0
  y : Bool := false
  words : Nat := 1
  iw : Nat := 1
  deriving DecidableEq, Repr

/-- The next move of the machine when one is due: a device event with its operands, an issue on a hart, an error of the silicon that
the next group of a hart meets, by its kind (R395, R401, log 88), or firmware's request for an audit record of a package, by its
type, context and data words (R425). -/
inductive Due where
  | event (i : Instr) (args : List Nat)
  | issueOn (id : HartId)
  | errorOn (id : HartId) (kind : Nat)
  | auditOn (pkg ty ctx : Nat) (data : List Nat)
  deriving DecidableEq, Repr

/-- The state. `h` is the hart that issues and `harts` the others; `grp` is the group being issued;
`agenda` says which agent moves next and `ev` holds the operands of the event under way (log 1); `free`
counts the free values used (log 9); `mem` is memory by global physical address, as cores read it: DRAM, and of the lines that
cluster caches hold what they hold (log 7). -/
structure State where
  h : Hart := {}
  harts : List Hart := []
  grp : GroupHdr := {}
  agenda : List Due := []
  ev : List Nat := []
  free : Nat := 0
  mem : List Host.Cell := []
  lat : Lattice := {}
  work : Work := {}
  dev : Device := {}
  deriving DecidableEq, Repr

/-- The machine right after reset: rill core 0 of package 0 in START mode at instruction address 0, level 0,
with a header of zero (R352); nothing placed, nothing in memory. -/
def State.reset : State := {}

/-- Reasons a step can stop with a fault. -/
inductive Fault where
  /-- Raised by no meaning of this model: every access the manual refuses has a delivery (R34). Safe. -/
  | noSuchAddress (a : Nat)
  deriving DecidableEq, Repr

/-- Reasons a step can be refused. -/
inductive Refusal where
  /-- Raised by `exec` for an instruction that has no meaning yet. Safe: nothing is claimed of it. -/
  | notModelled (mnemonic : String)
  deriving DecidableEq, Repr

end Sys2Proof.Machine
end

