-- ==== Sys2Proof/Machine/Mem.lean ====
section
/-! DEFINITION. Byte memories in canonical form, and association lists with a default. An address that a
memory does not list reads as zero (log 3, log 4). -/

namespace Sys2Proof.Machine

/-- The byte at an address; an unlisted address reads as zero. -/
def Mem.read : List Host.Cell → Nat → Byte
  | [], _ => 0
  | (k, b) :: m, a => if k = a then b else Mem.read m a

/-- Writes one byte, keeping the canonical form: addresses strictly rising, no zero byte listed. -/
def Mem.write : List Host.Cell → Nat → Byte → List Host.Cell
  | [], a, v => if v = 0 then [] else [(a, v)]
  | (k, b) :: m, a, v =>
    if a < k then (if v = 0 then (k, b) :: m else (a, v) :: (k, b) :: m)
    else if a = k then (if v = 0 then m else (k, v) :: m)
    else (k, b) :: Mem.write m a v

/-- Whether every address of a memory lies above `lo` in strictly rising order with no zero byte. -/
def Mem.wfFrom : Nat → List Host.Cell → Bool
  | _, [] => true
  | lo, (k, b) :: m => decide (lo ≤ k) && (b != 0) && Mem.wfFrom (k + 1) m

/-- The canonical form of a memory. -/
def Mem.wf (m : List Host.Cell) : Bool := Mem.wfFrom 0 m

/-- The `n` bytes from `a` as a little-endian number (R11). -/
def Mem.readN (m : List Host.Cell) (a : Nat) : Nat → Nat
  | 0 => 0
  | n + 1 => (Mem.read m a).toNat + 256 * Mem.readN m (a + 1) n

/-- Writes the low `n` bytes of `v` from `a`, least significant first (R11). -/
def Mem.writeN (m : List Host.Cell) (a : Nat) : Nat → Nat → List Host.Cell
  | 0, _ => m
  | n + 1, v => Mem.writeN (Mem.write m a (BitVec.ofNat 8 v)) (a + 1) n (v / 256)

/-- Clears the bytes from `lo` to `hi - 1`. -/
def Mem.clear (m : List Host.Cell) (lo hi : Nat) : List Host.Cell :=
  m.filter (fun c => c.1 < lo || hi ≤ c.1)

/-- The `n` 64-bit words from `a`. -/
def Mem.words (m : List Host.Cell) (a : Nat) : Nat → List Nat
  | 0 => []
  | n + 1 => Mem.readN m a 8 :: Mem.words m (a + 8) n

/-- Writes a list of 64-bit words from `a`. -/
def Mem.writeWords (m : List Host.Cell) (a : Nat) : List Nat → List Host.Cell
  | [] => m
  | v :: l => Mem.writeWords (Mem.writeN m a 8 v) (a + 8) l

/-- The value of a key in an association list, or the default. -/
def assocGet {α : Type} (d : α) (k : Nat) : List (Nat × α) → α
  | [] => d
  | (j, v) :: l => if j = k then v else assocGet d k l

/-- An association list with one key set. -/
def assocSet {α : Type} (k : Nat) (v : α) : List (Nat × α) → List (Nat × α)
  | [] => [(k, v)]
  | (j, w) :: l => if j = k then (k, v) :: l else (j, w) :: assocSet k v l

/-- An association list without a key. -/
def assocDel {α : Type} (k : Nat) : List (Nat × α) → List (Nat × α)
  | [] => []
  | (j, w) :: l => if j = k then assocDel k l else (j, w) :: assocDel k l

/-- Changes the elements that meet a condition. -/
def updWhere {α : Type} (p : α → Bool) (f : α → α) (l : List α) : List α :=
  l.map (fun a => if p a then f a else a)

/-- Element `n` of a list of numbers, or zero. -/
def nth (l : List Nat) (n : Nat) : Nat := l.getD n 0

/-- The numbers `a`, `a + 1`, … , `a + n - 1`. -/
def countFrom (a : Nat) : Nat → List Nat
  | 0 => []
  | n + 1 => a :: countFrom (a + 1) n

/-- Puts an element before the first one whose key is greater. -/
def insertBy {α : Type} (f : α → Nat) (a : α) : List α → List α
  | [] => [a]
  | b :: l => if f a < f b then a :: b :: l else b :: insertBy f a l

/-- A list in the order of a key; equal keys keep their order. -/
def sortBy {α : Type} (f : α → Nat) (l : List α) : List α := l.foldl (fun acc a => insertBy f a acc) []

/-- Whether two byte ranges, given by first byte and first byte after, overlap. -/
def overlaps (a b c d : Nat) : Bool := a < d && c < b

end Sys2Proof.Machine
end

