-- ==== Sys2Proof/Machine/Ops.lean ====
section
/-! DEFINITION. The named operations over registers, control flow, traps and context faults (07, 09, 10, 16). -/

namespace Sys2Proof.Machine

/-! ## Registers -/

/-- A read of a scalar register; x0 reads as zero (R224). -/
def Hart.getX (h : Hart) (r : Fin 32) : Word := if r = 0 then 0 else h.x[r]

/-- A write of a scalar register; a write to x0 is discarded (R224). -/
def Hart.setX (h : Hart) (r : Fin 32) (v : Word) : Hart :=
  if r = 0 then h else { h with x := h.x.set r v }

/-- A scalar register of the issuing hart. -/
def State.x (s : State) (r : Fin 32) : Word := s.h.getX r

/-- Writes a scalar register of the issuing hart. -/
def State.setX (s : State) (r : Fin 32) (v : Word) : State := { s with h := s.h.setX r v }

/-- Replaces the vector, mask and token registers of a hart. -/
def Hart.setVec (h : Hart) (w : Vecs) : Hart := { h with t := { h.t with vec := w } }

/-- A vector register of the issuing thread. -/
def State.v (s : State) (r : Fin 32) : VWord := s.h.t.vec.v[r]

/-- Writes a vector register. -/
def State.setV (s : State) (r : Fin 32) (v : VWord) : State :=
  { s with h := s.h.setVec { s.h.t.vec with v := s.h.t.vec.v.set r v } }

/-- A mask register; m0 reads as all ones (R272). -/
def State.m (s : State) (r : Fin 8) : MWord := if r = 0 then BitVec.allOnes 48 else s.h.t.vec.m[r]

/-- Writes a mask register; m0 is fixed (R272). -/
def State.setM (s : State) (r : Fin 8) (v : MWord) : State :=
  if r = 0 then s else { s with h := s.h.setVec { s.h.t.vec with m := s.h.t.vec.m.set r v } }

/-- A token register. -/
def State.k (s : State) (r : Fin 16) : Word := s.h.t.vec.k[r]

/-- Writes a token register. -/
def State.setK (s : State) (r : Fin 16) (v : Word) : State :=
  { s with h := s.h.setVec { s.h.t.vec with k := s.h.t.vec.k.set r v } }

/-- Replaces the control registers of the issuing hart. -/
def State.setCtl (s : State) (c : Ctl) : State := { s with h := { s.h with ctl := c } }

/-- Replaces the program counter of the issuing hart. -/
def State.setPc (s : State) (pc : Word) : State := { s with h := { s.h with pc := pc } }

/-- The raw contents of a register of the scoreboard's files. -/
def Hart.rawReg (h : Hart) (r : RegId) : Nat :=
  match r.file with
  | .x => (h.x[r.idx % 32]'(Nat.mod_lt _ (by decide))).toNat
  | .v => (h.t.vec.v[r.idx % 32]'(Nat.mod_lt _ (by decide))).toNat
  | .m => (h.t.vec.m[r.idx % 8]'(Nat.mod_lt _ (by decide))).toNat
  | .k => (h.t.vec.k[r.idx % 16]'(Nat.mod_lt _ (by decide))).toNat

/-- Sets the raw contents of a register of the scoreboard's files. -/
def Hart.setRawReg (h : Hart) (r : RegId) (v : Nat) : Hart :=
  let w := h.t.vec
  match r.file with
  | .x => { h with x := h.x.set (r.idx % 32) (BitVec.ofNat 64 v) (Nat.mod_lt _ (by decide)) }
  | .v => h.setVec { w with v := w.v.set (r.idx % 32) (BitVec.ofNat 1536 v) (Nat.mod_lt _ (by decide)) }
  | .m => h.setVec { w with m := w.m.set (r.idx % 8) (BitVec.ofNat 48 v) (Nat.mod_lt _ (by decide)) }
  | .k => h.setVec { w with k := w.k.set (r.idx % 16) (BitVec.ofNat 64 v) (Nat.mod_lt _ (by decide)) }

/-! ## Harts -/

/-- A hart by its name: the issuing one, another that is listed, or a rill core in its reset state. -/
def State.hart? (s : State) (id : HartId) : Option Hart :=
  if s.h.id = id then some s.h
  else match s.harts.find? (fun h => h.id == id) with
    | some h => some h
    | none => match id with
      | .rill _ => some { id := id }
      | .thread _ _ => none

/-- Replaces a hart, by its own name; a rill core not yet listed is added. -/
def State.putHart (s : State) (h : Hart) : State :=
  if s.h.id = h.id then { s with h := h }
  else if s.harts.any (fun g => g.id == h.id) then
    { s with harts := updWhere (fun g => g.id == h.id) (fun _ => h) s.harts }
  else { s with harts := s.harts ++ [h] }

/-- Changes a hart, if there is one of that name. -/
def State.updHart (s : State) (id : HartId) (f : Hart → Hart) : State :=
  match s.hart? id with
  | none => s
  | some h => s.putHart (f h)

/-- Changes every hart, the issuing one included. -/
def State.mapHarts (s : State) (f : Hart → Hart) : State :=
  { s with h := f s.h, harts := s.harts.map f }

/-- Every hart that is listed, the issuing one first. -/
def State.allHarts (s : State) : List Hart := s.h :: s.harts

/-- Makes a hart the issuing one. -/
def State.switchTo (s : State) (id : HartId) : State :=
  if s.h.id = id then s
  else match s.hart? id with
    | none => s
    | some h => { s with h := h, harts := s.h :: s.harts.filter (fun g => g.id != id) }

/-- The task of a hart that is a thread. -/
def Hart.task (h : Hart) : TaskRef := h.t.task

/-- Whether a hart is a thread of a compute core. -/
def Hart.isThread (h : Hart) : Bool :=
  match h.id with
  | .thread _ _ => true
  | .rill _ => false

/-- The core state and slot of a thread; rill cores have none. -/
def Hart.coreSlot (h : Hart) : Nat × Nat :=
  match h.id with
  | .thread c t => (c, t)
  | .rill n => (n, 0)

/-! ## Places of the device -/

/-- Kind of a rill core by its node (Table 14.2, Table 14.4): 0 cluster, 1 base-die, 2 link. -/
def rillKind (node : Nat) : Nat :=
  let e := node % 1024
  if e < 0x40 then 0 else if e < 0x80 then 1 else 2

/-- Whether an endpoint is assigned (Table 14.2). -/
def endpointOk (e : Nat) : Bool :=
  decide (e < 0x98) || (decide (0x100 ≤ e) && decide (e < 0x210))
    || (decide (0x3F0 ≤ e) && decide (e ≤ 0x3F3)) || e == 0x3FF

/-- The die of a physical core, counted over the basin: four dies a package, 68 cores each (Table 1.1). -/
def physDie (n : Nat) : Nat := n / 272 * 4 + n % 272 / 68

/-- The package of a physical core. -/
def physPkg (n : Nat) : Nat := n / 272

/-- The cluster of a physical core, counted over the basin: sixteen a die (Table 14.2); spare cores are
taken with the die's last cluster, which changes timing only. -/
def physCluster (n : Nat) : Nat := physDie n * 16 + min (n % 68 / 4) 15

/-- The stack group of a physical core, counted over the basin: four a die (Table 7.1). -/
def physGroup (n : Nat) : Nat := physDie n * 4 + min (n % 68 / 16) 3

/-- The core state of a number. -/
def State.core? (s : State) (id : Nat) : Option Core := s.work.cores.find? (fun c => c.id == id)

/-- Changes a core state. -/
def State.updCore (s : State) (id : Nat) (f : Core → Core) : State :=
  { s with work := { s.work with cores := updWhere (fun c => c.id == id) f s.work.cores } }

/-- The physical core a core state is on, or was last on, or 0 of its save package. -/
def CoreLoc.phys : CoreLoc → Nat
  | .at n => n
  | .draining n _ _ => n
  | .streaming n _ => n
  | .saved p => p * 272

/-- The physical core of a core state. -/
def State.physOf (s : State) (id : Nat) : Nat :=
  match s.core? id with
  | none => 0
  | some c => c.loc.phys

/-- The package of a hart. -/
def HartId.pkg (s : State) (id : HartId) : Nat :=
  match id with
  | .thread c _ => physPkg (s.physOf c)
  | .rill n => n / 1024

/-- The package a hart is in. -/
def State.pkgOf (s : State) (h : Hart) : Nat := h.id.pkg s

/-- The state of a package, at its reset value when nothing has changed it. -/
def State.pkg (s : State) (p : Nat) : Pkg := assocGet {} p s.dev.pkgs

/-- Replaces the state of a package. -/
def State.setPkg (s : State) (p : Nat) (v : Pkg) : State :=
  { s with dev := { s.dev with pkgs := assocSet p v s.dev.pkgs } }

/-! ## Contexts -/

/-- The context of a handle. -/
def State.ctx? (s : State) (c : Nat) : Option Ctx := s.work.ctxs.find? (fun x => x.handle == c)

/-- Changes a context. -/
def State.updCtx (s : State) (c : Nat) (f : Ctx → Ctx) : State :=
  { s with work := { s.work with ctxs := updWhere (fun x => x.handle == c) f s.work.ctxs } }

/-- A rill core has served a context (R424). -/
def State.servedBy (s : State) (ctx node : Nat) : State :=
  s.updCtx ctx (fun c => if c.served.contains node then c else { c with served := node :: c.served })

/-- The bytes of a number, least significant first. -/
def leBytes : Nat → Nat → List Byte
  | 0, _ => []
  | n + 1, v => BitVec.ofNat 8 v :: leBytes n (v / 256)

/-- The bytes of a list of 64-bit words, each least significant byte first (R11). -/
def wordBytes (l : List Nat) : List Byte := l.flatMap (leBytes 8)

/-- A list of words cut or padded with zeros to length `n`. -/
def padTo (n : Nat) (l : List Nat) : List Nat := l.take n ++ List.replicate (n - l.length) 0

/-- The audit log of a package. -/
def State.audit (s : State) (p : Nat) : Audit := assocGet {} p s.dev.audits

/-- Appends an audit record (Table 17.7): its SEQ, type, package, context, data words and the digest of the
record before it. -/
def State.auditAppend (s : State) (p ty ctx : Nat) (data : List Nat) : State :=
  let a := s.audit p
  let r := [a.next, ty * 2 ^ 56 + p * 2 ^ 38 + ctx * 2 ^ 20] ++ padTo 6 data
    ++ (unpackCodes 64 a.prev 6) ++ [0, 0]
  let a' : Audit := { recs := a.recs ++ [r], next := a.next + 1, prev := (Config.sha384 (wordBytes r)).toNat }
  { s with dev := { s.dev with audits := assocSet p a' s.dev.audits } }

/-- Sets the determinism-released bit of a context (R9); the setting is logged once (R203, Table 17.7). -/
def State.setDetrel (s : State) (c : Nat) : State :=
  match s.ctx? c with
  | none => s
  | some x =>
    if x.detrel then s
    else (s.updCtx c (fun y => { y with detrel := true })).auditAppend x.home 7 c []

/-- Puts an event on the agenda. -/
def State.due (s : State) (i : Instr) (args : List Nat) : State :=
  { s with agenda := s.agenda ++ [.event i args] }

/-- The words of a context fault record (Table 16.3) but for its SEQ. -/
def faultRec (kind pkg name addr gexp gfound pc d0 d1 d2 : Nat) : List Nat :=
  [kind * 2 ^ 56 + pkg * 2 ^ 38, name, addr % 2 ^ 57, gexp % 65536 * 65536 + gfound % 65536,
    pc % 2 ^ 57 / 4 * 4, d0, d1, d2]

/-- Raises a context fault (R395, R396): its record goes to the supervising rill core, which will append it;
`stop` says that the context stops when it is recorded (Table 16.2). -/
def State.raise (s : State) (c : Nat) (r : List Nat) (stop : Bool) : State :=
  (s.updCtx c (fun x => { x with pend := x.pend ++ [(r, stop)] })).due .contextFaultRecord [c]

/-! ## Control flow -/

/-- The address of the word that follows the group (R245). -/
def State.nextAddr (s : State) : Word := s.h.pc + BitVec.ofNat 64 (4 * s.grp.words)

/-- The address of word 0 of the instruction of the group (R456). -/
def State.word0 (s : State) : Nat := (s.h.pc + BitVec.ofNat 64 (4 * (s.grp.words - s.grp.iw))).toNat

/-- The end-of-body check at level 0 (R256). -/
def Hart.endCheck0 (h : Hart) (npc : Word) : Hart :=
  let c := h.ctl
  if c.lend0 ≠ 0 ∧ npc = c.lend0 then
    if c.lcnt0 ≠ 0 then { h with pc := c.lbeg0, ctl := { c with lcnt0 := c.lcnt0 - 1 } }
    else { h with pc := npc, ctl := { c with lend0 := 0 } }
  else { h with pc := npc }

/-- The end-of-body check (R256): level 1, then level 0 unless level 1 wrapped. -/
def Hart.endCheck (h : Hart) (npc : Word) : Hart :=
  let c := h.ctl
  if c.lend1 ≠ 0 ∧ npc = c.lend1 then
    if c.lcnt1 ≠ 0 then { h with pc := c.lbeg1, ctl := { c with lcnt1 := c.lcnt1 - 1 } }
    else ({ h with ctl := { c with lend1 := 0 } }).endCheck0 npc
  else h.endCheck0 npc

/-- The group has run to its end: it is no longer being replayed, its parked read has been answered, and it
holds no journal entry or popped image. -/
def Hart.settle (h : Hart) : Hart :=
  { h with replay := false, reply := none, pass := false, t := { h.t with pj := none, popped := false } }

/-- A group that ends without effect gives back the journal entry it has taken (R14). -/
def Hart.giveBack (h : Hart) : Hart :=
  match h.t.pj with
  | none => h
  | some i => { h with t := { h.t with post := { h.t.post with j := h.t.post.j.setIfInBounds i {} } } }

/-- A group that transfers no control completes (R256). -/
def State.retire (s : State) : State := { s with h := (s.h.endCheck s.nextAddr).settle }

/-- A group that transfers control completes at its target; no end-of-body check is made (R256). -/
def State.jumpTo (s : State) (t : Word) : State := { s with h := { s.h with pc := t }.settle }

/-- The group is held until `w` ends, and then runs again from its own checks. -/
def State.block (s : State) (w : WaitOn) : State :=
  { s with
    h := { s.h with replay := true
                    since := if s.h.replay then s.h.since else s.work.nextOrder
                    stat := match s.h.stat with
                      | .halted _ b => .halted (some w) b
                      | _ => .waiting w }
    work := { s.work with nextOrder := s.work.nextOrder + 1 } }

/-! ## Halt groups (R403, R404) -/

/-- Writes the pending results of a hart and keeps its distances (R234). -/
def Hart.writePending (h : Hart) : Hart :=
  let f := fun (g : Hart) (e : Pend) =>
    match e.later.or e.held with
    | some v => g.setRawReg e.reg v
    | none => g
  { (h.board.foldl f h) with board := h.board.map (fun e => { e with held := none, later := none }) }

/-- Halts a thread, also one whose fault stops its context (Table 16.8): it keeps what it waited for, and its pending results are
written (R234). -/
def Hart.halt (h : Hart) : Hart :=
  match h.stat with
  | .ready => { h.writePending with stat := .halted none false }
  | .stopped => { h.writePending with stat := .halted none false }
  | .waiting w => { h.writePending with stat := .halted (some w) false }
  | _ => h

/-- Releases a halted thread (R406). -/
def Hart.release (h : Hart) : Hart :=
  match h.stat with
  | .halted none _ => { h with stat := .ready }
  | .halted (some w) _ => { h with stat := .waiting w }
  | _ => h

/-- Whether a hart is a thread of halt group `g` of package `p` (R403). -/
def State.inGroup (s : State) (p g : Nat) (h : Hart) : Bool :=
  h.isThread && s.pkgOf h == p &&
    (match s.ctx? h.task.ctx with
      | some c => c.dbg && c.hgrp == g
      | none => false)

/-- Whether an operation belongs to a context that a halt group of a package stops (R403). -/
def State.opInGroup (s : State) (p g : Nat) (o : Op) : Bool :=
  physPkg (s.physOf o.core) == p &&
    (match s.ctx? o.ctx with
      | some c => c.dbg && c.hgrp == g
      | none => false)

/-- The operations of a group that stops: a running one between two units is suspended, one in a unit at the unit's end
(R198, R404). -/
def State.suspendOps (s : State) (p g : Nat) : State :=
  { s with work := { s.work with
      ops := updWhere (fun o => o.st == .running && !o.begun && s.opInGroup p g o) (fun o => { o with st := .suspended }) s.work.ops } }

/-- Stops one group, recording the source (Table 16.7). -/
def State.stopOne (s : State) (p g src sidx : Nat) : State :=
  let k := s.pkg p
  let b := k.halts.getD g {}
  let s1 := s.setPkg p { k with halts := k.halts.setIfInBounds g { b with stop := true, src := src, sidx := sidx % 16 } }
  ((s1.mapHarts (fun h => if s1.inGroup p g h then h.halt else h)).suspendOps p g).auditAppend p 6 0 [g, src]

/-- Cross-triggers along XMASK from the groups listed, in any number of steps (R403). -/
def State.crossStop (p : Nat) : Nat → List Nat → State → State
  | 0, _, s => s
  | _, [], s => s
  | fuel + 1, g :: rest, s =>
    let k := s.pkg p
    let new := (countFrom 0 16).filter
      (fun j => (k.halts.getD g {}).xmask.testBit j && !(k.halts.getD j {}).stop)
    State.crossStop p fuel (rest ++ new) (new.foldl (fun t j => t.stopOne p j 6 g) s)

/-- A stop of group `g` of package `p` and of every group it cross-triggers. -/
def State.stopGroup (s : State) (p g src sidx : Nat) : State :=
  State.crossStop p 17 [g] (s.stopOne p g src sidx)

/-! ## Taking a trap -/

/-- A trap: its cause and detail (Table 16.1), TADDR, TEPC where it is not the group's address, and the generation that a
frozen read asked for. -/
structure TrapInfo where
  cause : Nat
  addr : Nat := 0
  detail : Nat := 0
  epc : Option Word := none
  gexp : Nat := 0
  deriving DecidableEq, Repr

/-- Writes every pending result (R234): a register that shows its earlier value gets its result, and a
result that is to overwrite a later write is written. -/
def Hart.settleBoard (h : Hart) : Hart :=
  { h.writePending with board := [] }

/-- The bits of an address that the loop, trap and handler registers store: [56:2] (R257, Table 10.5). -/
def codeAddr (v : Word) : Word := v &&& 0x01FFFFFFFFFFFFFC

/-- TCAUSE keeps DETAIL and CAUSE (Table 10.5). -/
def writeCause (v : Word) : Word := v &&& 0x0000FFFF000000FF

/-- Entering the handler (R390): which registers save the pc and the cause, H, and where the pc goes. -/
def Hart.enterHandler (h : Hart) (t : TrapInfo) : Hart :=
  let g := h.settleBoard.giveBack.settle
  { g with
    pc := g.ctl.tvec
    ctl := { g.ctl with
      tepc := codeAddr (t.epc.getD h.pc)
      tcause := writeCause (BitVec.ofNat 64 (t.detail * 2 ^ 32 + t.cause))
      taddr := BitVec.ofNat 64 t.addr
      h := true } }

/-- Leaving the handler (R261): every pending result is written. -/
def Hart.leaveHandler (h : Hart) : Hart :=
  let g := h.settleBoard.settle
  { g with pc := g.ctl.tepc, ctl := { g.ctl with h := false } }

/-- A rill core with an unhandled or nested trap is reset into RECOVERY, and the event is logged (R394).
Its memories, dispatch table and inboxes keep their contents (log 18). -/
def Hart.rillRecover (h : Hart) : Hart :=
  { h with
    pc := 0
    board := []
    ctl := {}
    replay := false
    reply := none
    stat := .ready
    r := { h.r with mode := .recovery, pendMode := none, level := 0
                    levels := h.r.levels.map (fun l => { l with active := false, left := [] })
                    logged := h.r.logged + 1 } }

/-- The TCAUSE word of a trap (R390). -/
def TrapInfo.word (t : TrapInfo) : Nat := t.detail * 2 ^ 32 + t.cause

/-- The context fault of an unhandled or nested trap of a thread (R393, Table 16.4): the thread's trap
registers are not changed, and it issues no more. -/
def State.trapFault (s : State) (t : TrapInfo) : State :=
  let h := s.h
  let epc := (t.epc.getD h.pc).toNat
  let nested := h.ctl.h
  let r := faultRec (if nested then 8 else 7) (s.pkgOf h) h.task.name t.addr 0 0 epc t.word
    (if nested then h.ctl.tcause.toNat else 0) (if nested then h.ctl.tepc.toNat else 0)
  ({ s with h := { h with stat := .stopped } }).raise h.task.ctx r true

/-- R125: the refusal context fault of a frozen read's stale-generation trap and of an OWNER refusal. -/
def State.refusalOf (s : State) (t : TrapInfo) : State :=
  if s.h.isThread && (t.cause == 0x13 || (t.cause == 9 && t.detail == 7)) then
    s.raise s.h.task.ctx
      (faultRec 0x0B (s.pkgOf s.h) s.h.task.name t.addr t.gexp (if t.cause = 0x13 then t.detail else 0) (t.epc.getD s.h.pc).toNat t.word 0 0) false
  else s

/-- A trap entry of a member thread stops its group when ONTRAP is set (R403). -/
def State.onTrapStop (s : State) : State :=
  match s.ctx? s.h.task.ctx with
  | none => s
  | some c =>
    if s.h.isThread && c.dbg && ((s.pkg (s.pkgOf s.h)).halts.getD c.hgrp {}).ontrap then
      s.stopGroup (s.pkgOf s.h) c.hgrp 4 0
    else s

/-- Taking a trap (R390, R393, R394). -/
def State.takeTrap (s : State) (t : TrapInfo) : State :=
  let s1 := s.refusalOf t
  if s1.h.ctl.h = false ∧ s1.h.ctl.tvec ≠ 0 then
    ({ s1 with h := s1.h.enterHandler t }).onTrapStop
  else match s1.h.id with
    | .rill _ => { s1 with h := s1.h.rillRecover }
    | .thread _ _ => s1.trapFault t

/-- The illegal-instruction trap of an entry's check, at word 0 (R456). -/
def State.illegal (s : State) : State := s.takeTrap { cause := 1, addr := s.word0 }

/-- The illegal-operand trap (Table 16.1). -/
def State.badOperand (s : State) : State := s.takeTrap { cause := 0x0F, addr := s.word0 }

/-- The privilege trap. -/
def State.privilege (s : State) : State := s.takeTrap { cause := 5, addr := s.word0 }

/-- The misalignment trap at an address. -/
def State.misaligned (s : State) (a : Nat) : State := s.takeTrap { cause := 7, addr := a }

/-- The scratch-window trap. -/
def State.scratchTrap (s : State) (a : Nat) : State := s.takeTrap { cause := 0x0A, addr := a }

/-- The trap of a translation fault that is not repaired (R34): protection for PROT and OWNER. -/
def faultTrap (code va : Nat) : TrapInfo :=
  { cause := if code = 6 ∨ code = 7 then 9 else 8, addr := va, detail := code }

/-! ## Outcomes -/

/-- The outcome of a meaning that goes on. -/
abbrev Out := Host.Outcome State Fault Refusal

end Sys2Proof.Machine
end

