-- ==== Sys2Proof/Machine/Flags.lean ====
section
/-! DEFINITION. Rounding settings and flags of an instruction (R147, R148, R152, R153). -/

namespace Sys2Proof.Machine

/-- The rounding mode and saturation in force (R147): those of the RND settings, DYN codes and an
instruction without them taking c.rmode's. -/
def rndOfCtl (c : Ctl) (r : Option Rnd) : RndMode :=
  let rm := bits c.rmode.toNat 2 0
  let sat := bits c.rmode.toNat 4 3
  match r with
  | none => { rm := RMode.ofCode rm, sat := SatMode.ofCode sat }
  | some q =>
    { rm := if q.rm = 7 then RMode.ofCode rm else RMode.ofCode q.rm.val
      sat := if q.sat = 3 then SatMode.ofCode sat else SatMode.ofCode q.sat.val }

/-- The rounding mode and saturation in force on the issuing hart. -/
def State.rnd (s : State) (r : Option Rnd) : RndMode := rndOfCtl s.h.ctl r

/-- The flags an FMASK lets through (R152). -/
def unmasked (r : Option Rnd) (f : Flags) : Flags :=
  match r with
  | none => f
  | some q => f &&& ~~~ q.fmask

/-- Sets the flags an instruction raises; none is cleared (R152). -/
def State.addFlags (s : State) (r : Option Rnd) (f : Flags) : State :=
  s.setCtl { s.h.ctl with fflags := s.h.ctl.fflags ||| (unmasked r f).zeroExtend 64 }

/-- The mode code of a resolved setting, as an engine message carries it (R153). -/
def RMode.code : RMode → Nat
  | .rne => 0
  | .rtz => 1
  | .rdn => 2
  | .rup => 3
  | .rna => 4

/-- The saturation code of a resolved setting. -/
def SatMode.code : SatMode → Nat
  | .dflt => 0
  | .sat => 1
  | .nosat => 2

/-- A resolved setting from its codes. -/
def RndMode.ofCodes (rm sat : Nat) : RndMode := { rm := RMode.ofCode rm, sat := SatMode.ofCode sat }

end Sys2Proof.Machine
end

