-- ==== Sys2Proof/Machine/Scalar.lean ====
section
/-! DEFINITION. Scalar instructions (R246 to R251). -/

namespace Sys2Proof.Machine

/-- A scalar instruction writes its result and completes (R245). -/
def State.result (s : State) (d : Fin 32) (v : Word) : Out := .next (s.setX d v).retire

/-- The sign-extended value of a 34-bit immediate (R225). -/
def imm64 (i : BitVec 34) : Word := i.signExtend 64

/-- Leading zero bits of a word (R247). -/
def clz64 (v : Word) : Nat := if v.toNat = 0 then 64 else 63 - Nat.log2 v.toNat

/-- Trailing zero bits of a number below 2^n (R247). -/
def ctzFrom (v : Nat) : Nat → Nat
  | 0 => 0
  | n + 1 => if v % 2 = 1 then 0 else ctzFrom (v / 2) n + 1

/-- One bits among the low `n` bits of a number (R247). -/
def popFrom (v : Nat) : Nat → Nat
  | 0 => 0
  | n + 1 => v % 2 + popFrom (v / 2) n

/-- The bytes of a word in reverse order (R247). -/
def rev8 (v : Word) : Word :=
  BitVec.ofNat 64 (packCodes 8 (unpackCodes 8 v.toNat 8).reverse)

/-- The high 64 bits of an exact product (R247). -/
def mulHigh (p : Int) : Word := BitVec.ofInt 64 (p / 2 ^ 64)

/-- DIV (R247): toward zero; division by zero and the one overflow as the entry gives. -/
def divSigned (a b : Word) : Word :=
  if b = 0 then BitVec.allOnes 64
  else if a = 0x8000000000000000 ∧ b = BitVec.allOnes 64 then a
  else BitVec.ofInt 64 (a.toInt.tdiv b.toInt)

/-- REM (R247). -/
def remSigned (a b : Word) : Word :=
  if b = 0 then a
  else if a = 0x8000000000000000 ∧ b = BitVec.allOnes 64 then 0
  else BitVec.ofInt 64 (a.toInt - b.toInt * a.toInt.tdiv b.toInt)

/-- DIVN (R247). -/
def divUnsigned (a b : Word) : Word :=
  if b = 0 then BitVec.allOnes 64 else BitVec.ofNat 64 (a.toNat / b.toNat)

/-- REMN (R247). -/
def remUnsigned (a b : Word) : Word := if b = 0 then a else BitVec.ofNat 64 (a.toNat % b.toNat)

/-- A shift amount: the low six bits (R246). -/
def shamt (b : Word) : Nat := b.toNat % 64

/-- ADD: xa + xb (R246). -/
def execAdd (d a b : Fin 32) (s : State) : Out := s.result d (s.x a + s.x b)

/-- SUB: xa - xb (R246). -/
def execSub (d a b : Fin 32) (s : State) : Out := s.result d (s.x a - s.x b)

/-- AND (R246). -/
def execAnd (d a b : Fin 32) (s : State) : Out := s.result d (s.x a &&& s.x b)

/-- OR (R246). -/
def execOr (d a b : Fin 32) (s : State) : Out := s.result d (s.x a ||| s.x b)

/-- XOR (R246). -/
def execXor (d a b : Fin 32) (s : State) : Out := s.result d (s.x a ^^^ s.x b)

/-- SLL (R246). -/
def execSll (d a b : Fin 32) (s : State) : Out := s.result d (s.x a <<< shamt (s.x b))

/-- SRL (R246). -/
def execSrl (d a b : Fin 32) (s : State) : Out := s.result d (s.x a >>> shamt (s.x b))

/-- SRA (R246). -/
def execSra (d a b : Fin 32) (s : State) : Out := s.result d ((s.x a).sshiftRight (shamt (s.x b)))

/-- SLT: signed (R246). -/
def execSlt (d a b : Fin 32) (s : State) : Out := s.result d (Word.ofBool ((s.x a).slt (s.x b)))

/-- SLTN: unsigned (R246). -/
def execSltn (d a b : Fin 32) (s : State) : Out := s.result d (Word.ofBool ((s.x a).ult (s.x b)))

/-- MIN: signed (R246). -/
def execMin (d a b : Fin 32) (s : State) : Out := s.result d (if (s.x a).slt (s.x b) then s.x a else s.x b)

/-- MAX: signed (R246). -/
def execMax (d a b : Fin 32) (s : State) : Out := s.result d (if (s.x a).slt (s.x b) then s.x b else s.x a)

/-- MINN: unsigned (R246). -/
def execMinn (d a b : Fin 32) (s : State) : Out := s.result d (if (s.x a).ult (s.x b) then s.x a else s.x b)

/-- MAXN: unsigned (R246). -/
def execMaxn (d a b : Fin 32) (s : State) : Out := s.result d (if (s.x a).ult (s.x b) then s.x b else s.x a)

/-- ANDN: xa and not xb (R246). -/
def execAndn (d a b : Fin 32) (s : State) : Out := s.result d (s.x a &&& ~~~ s.x b)

/-- ORN: xa or not xb (R246). -/
def execOrn (d a b : Fin 32) (s : State) : Out := s.result d (s.x a ||| ~~~ s.x b)

/-- MUL (R247). -/
def execMul (d a b : Fin 32) (s : State) : Out := s.result d (s.x a * s.x b)

/-- MULH (R247). -/
def execMulh (d a b : Fin 32) (s : State) : Out := s.result d (mulHigh ((s.x a).toInt * (s.x b).toInt))

/-- MULHN (R247). -/
def execMulhn (d a b : Fin 32) (s : State) : Out := s.result d (mulHigh (((s.x a).toNat : Int) * (s.x b).toNat))

/-- MULHSN (R247). -/
def execMulhsn (d a b : Fin 32) (s : State) : Out := s.result d (mulHigh ((s.x a).toInt * (s.x b).toNat))

/-- DIV (R247). -/
def execDiv (d a b : Fin 32) (s : State) : Out := s.result d (divSigned (s.x a) (s.x b))

/-- DIVN (R247). -/
def execDivn (d a b : Fin 32) (s : State) : Out := s.result d (divUnsigned (s.x a) (s.x b))

/-- REM (R247). -/
def execRem (d a b : Fin 32) (s : State) : Out := s.result d (remSigned (s.x a) (s.x b))

/-- REMN (R247). -/
def execRemn (d a b : Fin 32) (s : State) : Out := s.result d (remUnsigned (s.x a) (s.x b))

/-- CLZ (R247). -/
def execClz (d a : Fin 32) (s : State) : Out := s.result d (BitVec.ofNat 64 (clz64 (s.x a)))

/-- CTZ (R247). -/
def execCtz (d a : Fin 32) (s : State) : Out := s.result d (BitVec.ofNat 64 (ctzFrom (s.x a).toNat 64))

/-- POPC (R247). -/
def execPopc (d a : Fin 32) (s : State) : Out := s.result d (BitVec.ofNat 64 (popFrom (s.x a).toNat 64))

/-- REV8 (R247). -/
def execRev8 (d a : Fin 32) (s : State) : Out := s.result d (rev8 (s.x a))

/-- ADDI (R248). -/
def execAddi (d a : Fin 32) (imm : BitVec 34) (s : State) : Out := s.result d (s.x a + imm64 imm)

/-- ANDI (R248). -/
def execAndi (d a : Fin 32) (imm : BitVec 34) (s : State) : Out := s.result d (s.x a &&& imm64 imm)

/-- ORI (R248). -/
def execOri (d a : Fin 32) (imm : BitVec 34) (s : State) : Out := s.result d (s.x a ||| imm64 imm)

/-- XORI (R248). -/
def execXori (d a : Fin 32) (imm : BitVec 34) (s : State) : Out := s.result d (s.x a ^^^ imm64 imm)

/-- SLLI (R248): an amount outside 0 to 63 raises the illegal-instruction trap. -/
def execSlli (d a : Fin 32) (imm : BitVec 34) (s : State) : Out :=
  if 63 < imm.toNat then .next s.illegal else s.result d (s.x a <<< imm.toNat)

/-- SRLI (R248): an amount outside 0 to 63 raises the illegal-instruction trap. -/
def execSrli (d a : Fin 32) (imm : BitVec 34) (s : State) : Out :=
  if 63 < imm.toNat then .next s.illegal else s.result d (s.x a >>> imm.toNat)

/-- SRAI (R248): an amount outside 0 to 63 raises the illegal-instruction trap. -/
def execSrai (d a : Fin 32) (imm : BitVec 34) (s : State) : Out :=
  if 63 < imm.toNat then .next s.illegal else s.result d ((s.x a).sshiftRight imm.toNat)

/-- SLTI (R248). -/
def execSlti (d a : Fin 32) (imm : BitVec 34) (s : State) : Out := s.result d (Word.ofBool ((s.x a).slt (imm64 imm)))

/-- SLTNI: unsigned, against the sign-extended immediate (R248). -/
def execSltni (d a : Fin 32) (imm : BitVec 34) (s : State) : Out := s.result d (Word.ofBool ((s.x a).ult (imm64 imm)))

/-- MOVI (R249). -/
def execMovi (d : Fin 32) (imm : BitVec 34) (s : State) : Out := s.result d (imm64 imm)

/-- SEXT.8 (R249). -/
def execSext8 (d a : Fin 32) (s : State) : Out := s.result d (((s.x a).setWidth 8).signExtend 64)

/-- SEXT.16 (R249). -/
def execSext16 (d a : Fin 32) (s : State) : Out := s.result d (((s.x a).setWidth 16).signExtend 64)

/-- SEXT.32 (R249). -/
def execSext32 (d a : Fin 32) (s : State) : Out := s.result d (((s.x a).setWidth 32).signExtend 64)

/-- ZEXT.8 (R249). -/
def execZext8 (d a : Fin 32) (s : State) : Out := s.result d (((s.x a).setWidth 8).zeroExtend 64)

/-- ZEXT.16 (R249). -/
def execZext16 (d a : Fin 32) (s : State) : Out := s.result d (((s.x a).setWidth 16).zeroExtend 64)

/-- ZEXT.32 (R249). -/
def execZext32 (d a : Fin 32) (s : State) : Out := s.result d (((s.x a).setWidth 32).zeroExtend 64)

/-- MOVL (R250). -/
def execMovl (d : Fin 32) (imm : BitVec 52) (s : State) : Out := s.result d (imm.signExtend 64)

/-- ADDL (R250). -/
def execAddl (d a : Fin 32) (imm : BitVec 52) (s : State) : Out := s.result d (s.x a + imm.signExtend 64)

/-! Scalar float (R251): FP32 values stand in bits [31:0]; results have bits [63:32] zero. -/

/-- The FP32 code in a register. -/
def State.f32 (s : State) (r : Fin 32) : Nat := (s.x r).toNat % 2 ^ 32

/-- A scalar float instruction writes its result, sets the flags it raises and completes. -/
def State.fresult (s : State) (rnd : Option Rnd) (d : Fin 32) (p : Nat × Flags) : Out :=
  .next ((s.setX d (BitVec.ofNat 64 p.1)).addFlags rnd p.2).retire

/-- FADD.F32 (R251). -/
def execFaddF32 (rnd : Option Rnd) (d a b : Fin 32) (s : State) : Out :=
  s.fresult rnd d (f32add (s.f32 a) (s.f32 b) (s.rnd rnd))

/-- FSUB.F32 (R251). -/
def execFsubF32 (rnd : Option Rnd) (d a b : Fin 32) (s : State) : Out :=
  s.fresult rnd d (f32sub (s.f32 a) (s.f32 b) (s.rnd rnd))

/-- FMUL.F32 (R251). -/
def execFmulF32 (rnd : Option Rnd) (d a b : Fin 32) (s : State) : Out :=
  s.fresult rnd d (f32mul (s.f32 a) (s.f32 b) (s.rnd rnd))

/-- FDIV.F32 (R251). -/
def execFdivF32 (rnd : Option Rnd) (d a b : Fin 32) (s : State) : Out :=
  s.fresult rnd d (f32div (s.f32 a) (s.f32 b) (s.rnd rnd))

/-- FMIN.F32 (R251). -/
def execFminF32 (rnd : Option Rnd) (d a b : Fin 32) (s : State) : Out :=
  s.fresult rnd d (f32minmax false (s.f32 a) (s.f32 b))

/-- FMAX.F32 (R251). -/
def execFmaxF32 (rnd : Option Rnd) (d a b : Fin 32) (s : State) : Out :=
  s.fresult rnd d (f32minmax true (s.f32 a) (s.f32 b))

/-- A comparison as a number, with its flags. -/
def boolFlags (p : Bool × Flags) : Nat × Flags := (p.1.toNat, p.2)

/-- FLT.F32 (R251). -/
def execFltF32 (rnd : Option Rnd) (d a b : Fin 32) (s : State) : Out :=
  s.fresult rnd d (boolFlags (f32less false (s.f32 a) (s.f32 b)))

/-- FEQ.F32 (R251). -/
def execFeqF32 (rnd : Option Rnd) (d a b : Fin 32) (s : State) : Out :=
  s.fresult rnd d (boolFlags (f32eq (s.f32 a) (s.f32 b)))

/-- CVT.F32.I64 (R251): all 64 bits are read. -/
def execCvtF32I64 (rnd : Option Rnd) (d a : Fin 32) (s : State) : Out :=
  s.fresult rnd d (fp32.round (.int (s.x a).toInt) (s.rnd rnd))

/-- CVT.I64.F32 (R251, R150): by the mode; clamp or 0 with NV out of range or for NaN. -/
def execCvtI64F32 (rnd : Option Rnd) (d a : Fin 32) (s : State) : Out :=
  let q := (fp32.value (s.f32 a)).toIntClamp (-(2 ^ 63)) (2 ^ 63 - 1) (s.rnd rnd).rm
  .next ((s.setX d (BitVec.ofInt 64 q.1)).addFlags rnd q.2).retire

end Sys2Proof.Machine
end

