-- ==== Sys2Proof/Machine/Control.lean ====
section
/-! DEFINITION. Branches, jumps, loops and thread control (R252 to R261, R267). EXIT is in Tasks.lean. -/

namespace Sys2Proof.Machine

/-- The byte displacement of a word offset (R221). -/
def State.target (s : State) (off : Word) : Word := s.h.pc + 4 * off

/-- A branch (R252): to group_addr + 4 * off when it is taken, otherwise on to the next group. -/
def State.branch (s : State) (taken : Bool) (off : BitVec 34) : Out :=
  if taken then .next (s.jumpTo (s.target (imm64 off))) else .next s.retire

/-- BEQ (R252). -/
def execBeq (a b : Fin 32) (off : BitVec 34) (s : State) : Out := s.branch (s.x a == s.x b) off

/-- BNE (R252). -/
def execBne (a b : Fin 32) (off : BitVec 34) (s : State) : Out := s.branch (s.x a != s.x b) off

/-- BLT: signed (R252). -/
def execBlt (a b : Fin 32) (off : BitVec 34) (s : State) : Out := s.branch ((s.x a).slt (s.x b)) off

/-- BGE: signed (R252). -/
def execBge (a b : Fin 32) (off : BitVec 34) (s : State) : Out := s.branch (!(s.x a).slt (s.x b)) off

/-- BLTN: unsigned (R252). -/
def execBltn (a b : Fin 32) (off : BitVec 34) (s : State) : Out := s.branch ((s.x a).ult (s.x b)) off

/-- BGEN: unsigned (R252). -/
def execBgen (a b : Fin 32) (off : BitVec 34) (s : State) : Out := s.branch (!(s.x a).ult (s.x b)) off

/-- JMP (R253). -/
def execJmp (off : BitVec 44) (s : State) : Out := .next (s.jumpTo (s.target (off.signExtend 64)))

/-- JAL (R253): the link goes to x1. -/
def execJal (off : BitVec 44) (s : State) : Out :=
  .next ((s.setX 1 s.nextAddr).jumpTo (s.target (off.signExtend 64)))

/-- JALR (R253): the target is computed before the link is written; a target that is no word address
raises the misalignment trap. -/
def execJalr (d a : Fin 32) (imm : BitVec 34) (s : State) : Out :=
  let t := s.x a + imm64 imm
  if t.toNat % 4 ≠ 0 then .next (s.misaligned t.toNat)
  else .next ((s.setX d s.nextAddr).jumpTo t)

/-- LOOP (R255): an extent that does not pass the group raises the illegal-instruction trap; a count of
zero skips the body; otherwise the level's three registers are set. -/
def execLoop (n : Fin 2) (a : Fin 32) (imm : BitVec 34) (s : State) : Out :=
  if imm.toNat ≤ s.grp.words then .next s.illegal
  else
    let stop := s.h.pc + 4 * imm.zeroExtend 64
    if s.x a = 0 then .next (s.jumpTo stop)
    else
      let c := s.h.ctl
      let c' : Ctl :=
        if n = 0 then { c with lcnt0 := s.x a - 1, lbeg0 := codeAddr s.nextAddr, lend0 := codeAddr stop }
        else { c with lcnt1 := s.x a - 1, lbeg1 := codeAddr s.nextAddr, lend1 := codeAddr stop }
      .next (s.setCtl c').retire

/-- BMASK.NONE (R254). -/
def execBmaskNone (m : Fin 8) (off : BitVec 34) (s : State) : Out := s.branch (s.m m == 0) off

/-- BMASK.ANY (R254). -/
def execBmaskAny (m : Fin 8) (off : BitVec 34) (s : State) : Out := s.branch (s.m m != 0) off

/-- BMASK.ALL (R254). -/
def execBmaskAll (m : Fin 8) (off : BitVec 34) (s : State) : Out :=
  s.branch (s.m m == BitVec.allOnes 48) off

/-- NOP has no effect (R258). -/
def execNop (s : State) : Out := .next s.retire

/-- YIELD has the effect of NOP with Y = 1 (R258, R235). -/
def execYield (s : State) : Out :=
  let s1 := match s.h.id with
    | .thread c _ => s.updCore c (fun k => { k with lastY := true })
    | .rill _ => s
  .next s1.retire

/-- TRAP (R260): TEPC receives next_addr, the detail the code, TADDR 0. -/
def execTrap (code : Fin 32) (s : State) : Out :=
  .next (s.takeTrap { cause := 0x15, detail := code.val, epc := some s.nextAddr })

/-- ERET (R261): outside a handler it raises the privilege trap. -/
def execEret (s : State) : Out :=
  if s.h.ctl.h then .next { s with h := s.h.leaveHandler } else .next s.privilege

/-- HALT (R267, R403): with debugging enabled it retires and its halt group stops; otherwise privilege. -/
def execHalt (s : State) : Out :=
  if s.h.task.dbg && s.h.isThread then
    let p := s.pkgOf s.h
    let g := match s.ctx? s.h.task.ctx with
      | some c => c.hgrp
      | none => 0
    .next (s.retire.stopGroup p g 2 0)
  else .next s.privilege

end Sys2Proof.Machine
end

