-- ==== Sys2Proof/Machine/System.lean ====
section
/-! DEFINITION. Control registers: RDC and WRC (R262, R263, Tables 10.4, 10.5, 5.1, 14.4). -/

namespace Sys2Proof.Machine

/-- Whether the posted counters that a wait field names are zero (R119). -/
def Posted.clear (p : Posted) (w : Nat) : Bool :=
  match w with
  | 0 => true
  | 1 => p.later.isEmpty && p.p == 0
  | 2 => p.later.isEmpty && p.p == 0 && p.f == 0
  | _ => p.later.isEmpty && p.p == 0 && p.f == 0 && p.b == 0

/-- pjjsN as it reads (Table 5.1). -/
def JEntry.pjjs (e : JEntry) : Nat :=
  e.v.toNat * 2 ^ 63 + e.ref.toNat * 2 ^ 62 + e.hscope * 2 ^ 59 + e.fault * 2 ^ 56 + e.tcode * 2 ^ 52
    + e.lanes % 2 ^ 48

/-- pjjgN as it reads (Table 5.1). -/
def JEntry.pjjg (e : JEntry) : Nat := e.gop % 65536 * 65536 + e.gfound % 65536

/-- Journal register `k` (0 pjjs, 1 pjja, 2 pjjp, 3 pjjg) of an entry. -/
def JEntry.reg (e : JEntry) (k : Nat) : Nat :=
  match k with
  | 0 => e.pjjs
  | 1 => e.addr % 2 ^ 57
  | 2 => e.pc % 2 ^ 57 / 4 * 4
  | _ => e.pjjg

/-- TSTAT (Table 10.5). -/
def Hart.tstat (h : Hart) : Nat := h.task.dbg.toNat * 2 + h.ctl.h.toNat

/-- The code of a rill-core mode (Table 14.4). -/
def RMode4.code : RMode4 → Nat
  | .service => 0
  | .start => 1
  | .test => 2
  | .recovery => 3

/-- The mode of a code (Table 14.4). -/
def RMode4.ofCode (n : Nat) : RMode4 :=
  match n % 4 with
  | 0 => .service
  | 1 => .start
  | 2 => .test
  | _ => .recovery

/-- The control registers both core kinds have (Table 10.4). -/
def Hart.readCommon (h : Hart) (cr : Nat) : Option Word :=
  let c := h.ctl
  match cr with
  | 0x000 => some c.rmode
  | 0x001 => some c.fflags
  | 0x002 => some c.chk
  | 0x008 => some c.tvec
  | 0x009 => some c.tepc
  | 0x00A => some c.tcause
  | 0x00B => some c.taddr
  | 0x00C => some (BitVec.ofNat 64 h.tstat)
  | 0x018 => some c.lcnt0
  | 0x019 => some c.lbeg0
  | 0x01A => some c.lend0
  | 0x01B => some c.lcnt1
  | 0x01C => some c.lbeg1
  | 0x01D => some c.lend1
  | _ => none

/-- The control registers only a compute core has (Table 10.4). -/
def Hart.readThread (h : Hart) (cr : Nat) : Option Word :=
  let t := h.task
  match cr with
  | 0x003 => some h.ctl.sptr
  | 0x010 => some (BitVec.ofNat 64 t.prio)
  | 0x011 => some (BitVec.ofNat 64 t.name)
  | 0x012 => some (BitVec.ofNat 64 t.rank)
  | 0x013 => some (BitVec.ofNat 64 t.gword)
  | 0x014 => some (BitVec.ofNat 64 t.gout)
  | n =>
    if 0x040 ≤ n ∧ n < 0x080 then
      some (BitVec.ofNat 64 ((h.t.post.j.getD ((n - 0x040) / 4) {}).reg (n % 4)))
    else none

/-- The control registers only a rill core has (Table 14.4). -/
def Hart.readRill (h : Hart) (node cr : Nat) : Option Word :=
  let l := h.r.levels.getD h.r.level {}
  match cr with
  | 0x100 => some (BitVec.ofNat 64 h.r.mode.code)
  | 0x101 => some (BitVec.ofNat 64 h.r.level)
  | 0x102 => some (BitVec.ofNat 64 l.hdr)
  | 0x103 => some (BitVec.ofNat 64 l.left.length)
  | 0x104 => some (BitVec.ofNat 64 (node % 2 ^ 28))
  | 0x105 => some (BitVec.ofNat 64 h.r.undel)
  | 0x106 => some (BitVec.ofNat 64 (rillKind node))
  | _ => none

/-- The value of a control register, or nothing for a number that the core kind does not have. -/
def Hart.readCr (h : Hart) (cr : Nat) : Option Word :=
  match h.readCommon cr with
  | some v => some v
  | none => match h.id with
    | .thread _ _ => h.readThread cr
    | .rill n => h.readRill n cr

/-- Whether a number names a journal register of a thread (Table 10.4). -/
def isJournal (h : Hart) (cr : Nat) : Bool := h.isThread && decide (0x040 ≤ cr) && decide (cr < 0x080)

/-- RDC (R262, R123): an unlisted number is illegal; a journal register waits as a wait field of 0b11 does. -/
def execRdc (d : Fin 32) (cr : Fin 512) (s : State) : Out :=
  match s.h.readCr cr.val with
  | none => .next s.illegal
  | some v =>
    if isJournal s.h cr.val && !s.h.t.post.clear 3 then .next (s.block (.counters 3))
    else s.result d v

/-- c.rmode after a write (R148): an unassigned code leaves its field unchanged. -/
def writeRmode (old v : Word) : Word :=
  let rm := bits v.toNat 2 0
  let sat := bits v.toNat 4 3
  BitVec.ofNat 64 ((if sat = 3 then bits old.toNat 4 3 else sat) * 8 + (if 4 < rm then bits old.toNat 2 0 else rm))

/-- c.chk after a write (Table 9.11a): EN is written, HIT is cleared by a one. -/
def writeChk (old v : Word) : Word := (v &&& 1) ||| (old &&& 2 &&& ~~~ v)

/-- The journal after a write of pjjsN: a one in V clears a refused entry (Table 5.1). One with messages still out stays in use,
not refused, until each has its reply (R121, log 75). -/
def Posted.writeJ (p : Posted) (n : Nat) (v : Word) : Posted :=
  let e := p.j.getD n {}
  let e' : JEntry := if e.out = 0 then {} else { v := true, hscope := e.hscope, pc := e.pc, out := e.out }
  if v.getLsbD 63 && e.ref then { p with j := p.j.setIfInBounds n e' } else p

/-- The hart after a write to a control register it has; a read-only register or field is unchanged
(R13, R262). -/
def Hart.writeCr (h : Hart) (cr : Nat) (v : Word) : Hart :=
  let c := h.ctl
  match cr with
  | 0x000 => { h with ctl := { c with rmode := writeRmode c.rmode v } }
  | 0x001 => { h with ctl := { c with fflags := v &&& 0x3F } }
  | 0x002 => { h with ctl := { c with chk := writeChk c.chk v } }
  | 0x003 => { h with ctl := { c with sptr := v &&& 0x1FFFFF } }
  | 0x008 => { h with ctl := { c with tvec := codeAddr v } }
  | 0x009 => { h with ctl := { c with tepc := codeAddr v } }
  | 0x00A => { h with ctl := { c with tcause := writeCause v } }
  | 0x00B => { h with ctl := { c with taddr := v } }
  | 0x018 => { h with ctl := { c with lcnt0 := v } }
  | 0x019 => { h with ctl := { c with lbeg0 := codeAddr v } }
  | 0x01A => { h with ctl := { c with lend0 := codeAddr v } }
  | 0x01B => { h with ctl := { c with lcnt1 := v } }
  | 0x01C => { h with ctl := { c with lbeg1 := codeAddr v } }
  | 0x01D => { h with ctl := { c with lend1 := codeAddr v } }
  | 0x100 =>
    if v.toNat % 4 = 0 ∧ (assocGet 0 0 h.r.dtab).testBit 63 = false then h
    else { h with r := { h.r with pendMode := some (v.toNat % 4) } }
  | 0x105 => { h with r := { h.r with undel := v.toNat % 2 ^ 32 } }
  | n =>
    if isJournal h n && n % 4 == 0 then
      { h with t := { h.t with post := h.t.post.writeJ ((n - 0x040) / 4) v } }
    else h

/-- The handler registers that only a handler writes (R262). -/
def isHandlerReg (cr : Nat) : Bool := cr == 0x009 || cr == 0x00A || cr == 0x00B

end Sys2Proof.Machine
end

