-- ==== Sys2Proof/Machine/Vector.lean ====
section
/-! DEFINITION. Vector and mask instructions on registers (R272 to R287), and stream pops (R274). Loads,
stores and spills are in MemInstr.lean. -/

namespace Sys2Proof.Machine

/-! ## Lanes -/

/-- Lane `i` of the view with lanes of `w` bits (R272). -/
def lane (w : Nat) (v : VWord) (i : Nat) : Nat := v.toNat / 2 ^ (w * i) % 2 ^ w

/-- The lanes 0 to `n - 1` of a view. -/
def lanes (w n : Nat) (v : VWord) : List Nat := (countFrom 0 n).map (lane w v)

/-- A register from the lanes of a view; lanes past the list are zero. -/
def ofLanes (w : Nat) (l : List Nat) : VWord := BitVec.ofNat 1536 (packCodes w l)

/-- A register whose 32-bit lane i is `f i` (R275 to R282). -/
def build (f : Nat → Nat) : VWord := ofLanes 32 ((countFrom 0 48).map f)

/-- The two's-complement value of a 32-bit lane. -/
def s32 (v : Nat) : Int := sextNat v 32

/-- A mask register whose bit i is `f i`. -/
def buildMask (f : Nat → Bool) : MWord :=
  BitVec.ofNat 48 (packCodes 1 ((countFrom 0 48).map (fun i => (f i).toNat)))

/-! ## Bound stream registers (R274, R334) -/

/-- The binding of a vector register, if it is bound. -/
def State.stream? (s : State) (r : Fin 32) : Option Stream :=
  if r.val < 24 then none else s.h.t.scr.streams.find? (fun b => b.vreg + 24 == r.val)

/-- Replaces the bindings of the issuing thread. -/
def State.setStreams (s : State) (l : List Stream) : State :=
  { s with h := { s.h with t := { s.h.t with scr := { s.h.t.scr with streams := l } } } }

/-- Pops the next image of a bound register into the register. -/
def State.pop (s : State) (r : Fin 32) : State :=
  match s.stream? r with
  | some { queue := v :: q, vreg := n, .. } =>
    (s.setStreams (updWhere (fun b => b.vreg == n)
      (fun b => { b with queue := q, popped := b.popped + 1 }) s.h.t.scr.streams)).setV r v
  | _ => s

/-- Whether a pop of the register would lie past the last image. -/
def State.pastEnd (s : State) (r : Fin 32) : Bool :=
  match s.stream? r with
  | some b => decide (b.total ≤ b.popped)
  | none => false

/-- What stops a pop: an image that has not come, or one that never will. -/
inductive PopStop where
  | ready
  | wait (vreg : Nat)
  | never (vreg addr : Nat)
  deriving DecidableEq, Repr

/-- Whether the register can be popped now. -/
def State.popState (s : State) (r : Fin 32) : PopStop :=
  match s.stream? r with
  | none => .ready
  | some b => match b.queue, b.fail with
    | _ :: _, _ => .ready
    | [], some a => .never b.vreg a
    | [], none => .wait b.vreg

/-- The first stop among the sources, in the order of the fields. -/
def State.popStop (s : State) : List (Fin 32) → PopStop
  | [] => .ready
  | r :: l => match s.popState r with
    | .ready => s.popStop l
    | p => p

/-- Marks whether the group has popped. -/
def State.markPopped (s : State) (b : Bool) : State := { s with h := { s.h with t := { s.h.t with popped := b } } }

/-- A group that names vector registers `src` as sources and `dst` as destinations (R274): a bound
destination or a pop past the end is an illegal operand, an image not yet there is waited for, and each
bound source is popped once before the group runs, however often the group is held afterwards. -/
def State.withPops (s : State) (dst src : List (Fin 32)) (k : State → Out) : Out :=
  if s.h.t.popped then k s
  else if dst.any (fun r => (s.stream? r).isSome) || src.any s.pastEnd then .next s.badOperand
  else match s.popStop src with
    | .wait n => .next (s.block (.stream n))
    | .never n a => .next (s.takeTrap { cause := 0x11, addr := a, detail := 16 + n })
    | .ready => k ((src.dedup.foldl State.pop s).markPopped (src.any (fun r => (s.stream? r).isSome)))

/-! ## Shared forms -/

/-- A vector result: the register is written and the group completes. -/
def State.vresult (s : State) (d : Fin 32) (v : VWord) : Out := .next (s.setV d v).retire

/-- A vector result from lane results with their flags. -/
def State.vfresult (s : State) (rnd : Option Rnd) (d : Fin 32) (w : Nat) (l : List (Nat × Flags)) : Out :=
  .next ((s.setV d (ofLanes w (l.map (·.1)))).addFlags rnd (orFlags l)).retire

/-- The float form on two sources, lane by lane (R275). -/
def State.vfa (s : State) (rnd : Option Rnd) (d a b : Fin 32) (f : Nat → Nat → Nat × Flags) : Out :=
  s.withPops [d] [a, b] fun t =>
    t.vfresult rnd d 32 ((countFrom 0 48).map (fun i => f (lane 32 (t.v a) i) (lane 32 (t.v b) i)))

/-- A form on one source whose lanes give results with flags. -/
def State.vf1 (s : State) (rnd : Option Rnd) (d a : Fin 32) (n wi wo : Nat) (f : Nat → Nat × Flags) : Out :=
  s.withPops [d] [a] fun t => t.vfresult rnd d wo ((countFrom 0 n).map (fun i => f (lane wi (t.v a) i)))

/-- The integer form on two sources, lane by lane (R277). -/
def State.via (s : State) (d a b : Fin 32) (f : Nat → Nat → Nat) : Out :=
  s.withPops [d] [a, b] fun t => t.vresult d (build (fun i => f (lane 32 (t.v a) i) (lane 32 (t.v b) i)))

/-- The three-source float form (R276). -/
def State.vfma (s : State) (rnd : Option Rnd) (d a b c : Fin 32) (sub : Bool) : Out :=
  s.withPops [d] [a, b, c] fun t =>
    t.vfresult rnd d 32 ((countFrom 0 48).map (fun i =>
      f32fma sub (lane 32 (t.v a) i) (lane 32 (t.v b) i) (lane 32 (t.v c) i) (t.rnd rnd)))

/-- A comparison of lanes into a mask register (R278). -/
def State.vcmp (s : State) (d : Fin 8) (a b : Fin 32) (f : Nat → Nat → Bool × Flags) : Out :=
  s.withPops [] [a, b] fun t =>
    let l := (countFrom 0 48).map (fun i => boolFlags (f (lane 32 (t.v a) i) (lane 32 (t.v b) i)))
    .next ((t.setM d (BitVec.ofNat 48 (packCodes 1 (l.map (·.1))))).addFlags none (orFlags l)).retire

/-- A permutation of 32-bit lanes (R282). -/
def State.vprm1 (s : State) (d a : Fin 32) (f : (Nat → Nat) → Nat → Nat) : Out :=
  s.withPops [d] [a] fun t => t.vresult d (build (f (lane 32 (t.v a))))

/-- A permutation of the 32-bit lanes of two registers (R282). -/
def State.vprm2 (s : State) (d a b : Fin 32) (f : (Nat → Nat) → (Nat → Nat) → Nat → Nat) : Out :=
  s.withPops [d] [a, b] fun t => t.vresult d (build (f (lane 32 (t.v a)) (lane 32 (t.v b))))

/-- A mask result (R285). -/
def State.mresult (s : State) (d : Fin 8) (v : MWord) : Out := .next (s.setM d v).retire

/-- VADD.F32 (R275). -/
def execVaddF32 (rnd : Option Rnd) (d a b : Fin 32) (s : State) : Out :=
  s.vfa rnd d a b (fun x y => f32add x y (s.rnd rnd))

/-- VSUB.F32 (R275). -/
def execVsubF32 (rnd : Option Rnd) (d a b : Fin 32) (s : State) : Out :=
  s.vfa rnd d a b (fun x y => f32sub x y (s.rnd rnd))

/-- VMUL.F32 (R275). -/
def execVmulF32 (rnd : Option Rnd) (d a b : Fin 32) (s : State) : Out :=
  s.vfa rnd d a b (fun x y => f32mul x y (s.rnd rnd))

/-- VDIV.F32 (R275). -/
def execVdivF32 (rnd : Option Rnd) (d a b : Fin 32) (s : State) : Out :=
  s.vfa rnd d a b (fun x y => f32div x y (s.rnd rnd))

/-- VMIN.F32 (R275). -/
def execVminF32 (rnd : Option Rnd) (d a b : Fin 32) (s : State) : Out := s.vfa rnd d a b (f32minmax false)

/-- VMAX.F32 (R275). -/
def execVmaxF32 (rnd : Option Rnd) (d a b : Fin 32) (s : State) : Out := s.vfa rnd d a b (f32minmax true)

/-- VABS.F32: bit 31 cleared, no flag (R275). -/
def execVabsF32 (rnd : Option Rnd) (d a : Fin 32) (s : State) : Out :=
  s.vf1 rnd d a 48 32 32 (fun x => (x % 2 ^ 31, 0))

/-- VNEG.F32: bit 31 inverted, no flag (R275). -/
def execVnegF32 (rnd : Option Rnd) (d a : Fin 32) (s : State) : Out :=
  s.vf1 rnd d a 48 32 32 (fun x => ((x + 2 ^ 31) % 2 ^ 32, 0))

/-- VSQRT.F32 (R275). -/
def execVsqrtF32 (rnd : Option Rnd) (d a : Fin 32) (s : State) : Out :=
  s.vf1 rnd d a 48 32 32 (fun x => f32sqrt x (s.rnd rnd))

/-- VADD.I32 (R277). -/
def execVaddI32 (d a b : Fin 32) (s : State) : Out := s.via d a b (fun x y => (x + y) % 2 ^ 32)

/-- VSUB.I32 (R277). -/
def execVsubI32 (d a b : Fin 32) (s : State) : Out := s.via d a b (fun x y => (x + 2 ^ 32 - y) % 2 ^ 32)

/-- VMUL.I32 (R277). -/
def execVmulI32 (d a b : Fin 32) (s : State) : Out := s.via d a b (fun x y => x * y % 2 ^ 32)

/-- VMIN.I32: signed (R277). -/
def execVminI32 (d a b : Fin 32) (s : State) : Out := s.via d a b (fun x y => if s32 x < s32 y then x else y)

/-- VMAX.I32: signed (R277). -/
def execVmaxI32 (d a b : Fin 32) (s : State) : Out := s.via d a b (fun x y => if s32 x < s32 y then y else x)

/-- VMIN.N32: unsigned (R277). -/
def execVminN32 (d a b : Fin 32) (s : State) : Out := s.via d a b (fun x y => Nat.min x y)

/-- VMAX.N32: unsigned (R277). -/
def execVmaxN32 (d a b : Fin 32) (s : State) : Out := s.via d a b (fun x y => Nat.max x y)

/-- VAND (R277). -/
def execVand (d a b : Fin 32) (s : State) : Out := s.via d a b (fun x y => x &&& y)

/-- VOR (R277). -/
def execVor (d a b : Fin 32) (s : State) : Out := s.via d a b (fun x y => x ||| y)

/-- VXOR (R277). -/
def execVxor (d a b : Fin 32) (s : State) : Out := s.via d a b (fun x y => x ^^^ y)

/-- VSLL.I32: by b[4:0] (R277). -/
def execVsllI32 (d a b : Fin 32) (s : State) : Out := s.via d a b (fun x y => x * 2 ^ (y % 32) % 2 ^ 32)

/-- VSRL.I32: zeros in (R277). -/
def execVsrlI32 (d a b : Fin 32) (s : State) : Out := s.via d a b (fun x y => x / 2 ^ (y % 32))

/-- VSRA.I32: copies of bit 31 in (R277). -/
def execVsraI32 (d a b : Fin 32) (s : State) : Out := s.via d a b (fun x y => wrapInt (s32 x / 2 ^ (y % 32)) 32)

/-- VCMPEQ.F32 (R278). -/
def execVcmpeqF32 (d : Fin 8) (a b : Fin 32) (s : State) : Out := s.vcmp d a b (f32eq)

/-- VCMPLT.F32 (R278). -/
def execVcmpltF32 (d : Fin 8) (a b : Fin 32) (s : State) : Out := s.vcmp d a b (f32less false)

/-- VCMPLE.F32 (R278). -/
def execVcmpleF32 (d : Fin 8) (a b : Fin 32) (s : State) : Out := s.vcmp d a b (f32less true)

/-- VCMPEQ.I32 (R278). -/
def execVcmpeqI32 (d : Fin 8) (a b : Fin 32) (s : State) : Out := s.vcmp d a b (fun x y => (x == y, 0))

/-- VCMPLT.I32: signed (R278). -/
def execVcmpltI32 (d : Fin 8) (a b : Fin 32) (s : State) : Out := s.vcmp d a b (fun x y => (decide (s32 x < s32 y), 0))

/-- VCMPLT.N32: unsigned (R278). -/
def execVcmpltN32 (d : Fin 8) (a b : Fin 32) (s : State) : Out := s.vcmp d a b (fun x y => (decide (x < y), 0))

/-- VSEL (R279). -/
def execVsel (d a b : Fin 32) (m : Fin 8) (s : State) : Out :=
  s.withPops [d] [a, b] fun t =>
    t.vresult d (build (fun i => if (t.m m).getLsbD i then lane 32 (t.v a) i else lane 32 (t.v b) i))

/-- VBCAST.32 (R280). -/
def execVbcast32 (d a : Fin 32) (s : State) : Out :=
  s.withPops [d] [] fun t => t.vresult d (ofLanes 32 (List.replicate 48 ((t.x a).toNat % 2 ^ 32)))

/-- VBCAST.16 (R280). -/
def execVbcast16 (d a : Fin 32) (s : State) : Out :=
  s.withPops [d] [] fun t => t.vresult d (ofLanes 16 (List.replicate 96 ((t.x a).toNat % 2 ^ 16)))

/-- VBCAST.8 (R280). -/
def execVbcast8 (d a : Fin 32) (s : State) : Out :=
  s.withPops [d] [] fun t => t.vresult d (ofLanes 8 (List.replicate 192 ((t.x a).toNat % 2 ^ 8)))

/-- VMOVX (R281): a lane past 47 is an illegal operand, and nothing is popped. -/
def execVmovx (d a b : Fin 32) (s : State) : Out :=
  if 47 < (s.x b).toNat then .next s.badOperand
  else s.withPops [] [a] fun t => t.result d (BitVec.ofNat 64 (lane 32 (t.v a) (t.x b).toNat))

/-- VPERM (R282). -/
def execVperm (d a b : Fin 32) (s : State) : Out :=
  s.vprm2 d a b (fun p q i => if q i ≤ 47 then p (q i) else 0)

/-- VSLIDEUP (R282). -/
def execVslideup (d a b : Fin 32) (s : State) : Out :=
  s.vprm1 d a (fun p i => if (s.x b).toNat ≤ i then p (i - (s.x b).toNat) else 0)

/-- VSLIDEDN (R282). -/
def execVslidedn (d a b : Fin 32) (s : State) : Out :=
  s.vprm1 d a (fun p i => if i + (s.x b).toNat ≤ 47 then p (i + (s.x b).toNat) else 0)

/-- VZIP (R282). -/
def execVzip (d a b : Fin 32) (s : State) : Out :=
  s.vprm2 d a b (fun p q i => if i % 2 = 0 then p (i / 2) else q ((i - 1) / 2))

/-- VUNZIP (R282). -/
def execVunzip (d a b : Fin 32) (s : State) : Out :=
  s.vprm2 d a b (fun p q i => if 2 * i < 48 then p (2 * i) else q (2 * i - 48))

/-- VREV (R282). -/
def execVrev (d a : Fin 32) (s : State) : Out := s.vprm1 d a (fun p i => p (47 - i))

/-! ## Conversions (R283) -/

/-- The narrowing of two registers to 16-bit lanes. -/
def State.narrow16 (s : State) (rnd : Option Rnd) (d a b : Fin 32) (f : Fmt) : Out :=
  s.withPops [d] [a, b] fun t =>
    let g := fun x => f.round (fp32.value x) (t.rnd rnd)
    t.vfresult rnd d 16 ((lanes 32 48 (t.v a)).map g ++ (lanes 32 48 (t.v b)).map g)

/-- An exact widening to FP32: a NaN gives the canonical NaN, with NV if signalling. -/
def widen (f : Fmt) (x : Nat) : Nat × Flags := fp32.round (f.value x) { rm := .rne, sat := .nosat }

/-- VCVT.F32.I32 (R283). -/
def execVcvtF32I32 (rnd : Option Rnd) (d a : Fin 32) (s : State) : Out :=
  s.vf1 rnd d a 48 32 32 (fun x => fp32.round (.int (s32 x)) (s.rnd rnd))

/-- VCVT.I32.F32 (R283, R150). -/
def execVcvtI32F32 (rnd : Option Rnd) (d a : Fin 32) (s : State) : Out :=
  s.vf1 rnd d a 48 32 32 (fun x =>
    let q := (fp32.value x).toIntClamp (-(2 ^ 31)) (2 ^ 31 - 1) (s.rnd rnd).rm
    (wrapInt q.1 32, q.2))

/-- VCVT.BF16.F32 (R283). -/
def execVcvtBf16F32 (rnd : Option Rnd) (d a b : Fin 32) (s : State) : Out := s.narrow16 rnd d a b bf16

/-- VCVT.F32.BF16 (R283): the bits kept, no flag. -/
def execVcvtF32Bf16 (rnd : Option Rnd) (d a : Fin 32) (s : State) : Out :=
  s.vf1 rnd d a 48 16 32 (fun x => (x * 2 ^ 16, 0))

/-- VCVT.F16.F32 (R283). -/
def execVcvtF16F32 (rnd : Option Rnd) (d a b : Fin 32) (s : State) : Out := s.narrow16 rnd d a b fp16

/-- VCVT.F32.F16 (R283). -/
def execVcvtF32F16 (rnd : Option Rnd) (d a : Fin 32) (s : State) : Out :=
  s.vf1 rnd d a 48 16 32 (widen fp16)

/-- VCVT.E4M3.F32 (R283). -/
def execVcvtE4m3F32 (rnd : Option Rnd) (d a : Fin 32) (s : State) : Out :=
  s.vf1 rnd d a 48 32 8 (fun x => e4m3.round (fp32.value x) (s.rnd rnd))

/-- VCVT.E5M2.F32 (R283). -/
def execVcvtE5m2F32 (rnd : Option Rnd) (d a : Fin 32) (s : State) : Out :=
  s.vf1 rnd d a 48 32 8 (fun x => e5m2.round (fp32.value x) (s.rnd rnd))

/-- VCVT.F32.E4M3 (R283). -/
def execVcvtF32E4m3 (rnd : Option Rnd) (d a : Fin 32) (s : State) : Out :=
  s.vf1 rnd d a 48 8 32 (widen e4m3)

/-- VCVT.F32.E5M2 (R283). -/
def execVcvtF32E5m2 (rnd : Option Rnd) (d a : Fin 32) (s : State) : Out :=
  s.vf1 rnd d a 48 8 32 (widen e5m2)

/-! ## Reductions (R284) -/

/-- One pair of the tree: an absent element gives the other. -/
def redPair {α : Type} (f : α → α → α × Flags) (p q : Option α) : Option α × Flags :=
  match p, q with
  | none, q => (q, 0)
  | p, none => (p, 0)
  | some x, some y => (some (f x y).1, (f x y).2)

/-- One level of the tree; a last odd element is carried up. -/
def redLevel {α : Type} (f : α → α → α × Flags) : List (Option α) → List (Option α) × Flags
  | p :: q :: l =>
    let r := redPair f p q
    let t := redLevel f l
    (r.1 :: t.1, r.2 ||| t.2)
  | l => (l, 0)

/-- `n` levels of the tree, with the flags of every combine. -/
def redTree {α : Type} (f : α → α → α × Flags) : Nat → List (Option α) × Flags → List (Option α) × Flags
  | 0, t => t
  | n + 1, t => let u := redLevel f t.1; redTree f n (u.1, t.2 ||| u.2)

/-- vred (R284): 48 elements take six levels. -/
def vred {α : Type} (f : α → α → α × Flags) (empty : α) (t : List (Option α)) : α × Flags :=
  let u := redTree f 6 (t, 0)
  (((u.1.headD none).getD empty), u.2)

/-- The elements of a register that a mask selects. -/
def masked {α : Type} (m : MWord) (f : Nat → α) : List (Option α) :=
  (countFrom 0 48).map (fun i => if m.getLsbD i then some (f i) else none)

/-- A float reduction. -/
def State.vredF (s : State) (rnd : Option Rnd) (d a : Fin 32) (m : Fin 8) (f : Nat → Nat → Nat × Flags)
    (empty : Nat) : Out :=
  s.withPops [] [a] fun t => t.fresult rnd d (vred f empty (masked (t.m m) (lane 32 (t.v a))))

/-- VRED.ADD.F32 (R284). -/
def execVredAddF32 (rnd : Option Rnd) (d a : Fin 32) (m : Fin 8) (s : State) : Out :=
  s.vredF rnd d a m (fun p q => f32add p q (s.rnd rnd)) 0

/-- VRED.MAX.F32 (R284). -/
def execVredMaxF32 (rnd : Option Rnd) (d a : Fin 32) (m : Fin 8) (s : State) : Out :=
  s.vredF rnd d a m (f32minmax true) 0xFF800000

/-- VRED.MIN.F32 (R284). -/
def execVredMinF32 (rnd : Option Rnd) (d a : Fin 32) (m : Fin 8) (s : State) : Out :=
  s.vredF rnd d a m (f32minmax false) 0x7F800000

/-- VRED.ADD.I32: the exact sum (R284). -/
def execVredAddI32 (_rnd : Option Rnd) (d a : Fin 32) (m : Fin 8) (s : State) : Out :=
  s.withPops [] [a] fun t =>
    t.result d (BitVec.ofInt 64
      (vred (fun p q => (p + q, 0)) 0 (masked (t.m m) (fun i => s32 (lane 32 (t.v a) i)))).1)

/-! ## Masks (R285) -/

/-- MAND (R285). -/
def execMand (d a b : Fin 8) (s : State) : Out := s.mresult d (s.m a &&& s.m b)

/-- MOR (R285). -/
def execMor (d a b : Fin 8) (s : State) : Out := s.mresult d (s.m a ||| s.m b)

/-- MXOR (R285). -/
def execMxor (d a b : Fin 8) (s : State) : Out := s.mresult d (s.m a ^^^ s.m b)

/-- MNOT (R285). -/
def execMnot (d a : Fin 8) (s : State) : Out := s.mresult d (~~~ s.m a)

/-- MPOPC (R285). -/
def execMpopc (d : Fin 32) (a : Fin 8) (s : State) : Out :=
  s.result d (BitVec.ofNat 64 (popFrom (s.m a).toNat 48))

/-- MFIRST (R285). -/
def execMfirst (d : Fin 32) (a : Fin 8) (s : State) : Out :=
  s.result d (BitVec.ofNat 64 (ctzFrom (s.m a).toNat 48))

/-! ## Block-scaled formats (R286, R287) -/

/-- VQUANT (R286): the block image to vd, the scale to xb. -/
def State.vquant (s : State) (rnd : Option Rnd) (d a b : Fin 32) (f : BFmt) : Out :=
  s.withPops [d] [a] fun t =>
    let q := quantBlock f ((lanes 32 48 (t.v a)).map fp32.value) (t.rnd rnd)
    .next (((t.setV d (ofLanes f.ebits q.2.1)).setX b (BitVec.ofNat 64 q.1)).addFlags rnd q.2.2).retire

/-- One lane that VDEQ and the A.B48E4M3 window decode, with RNE (R46, R287). -/
def deqLane (f : BFmt) (scale c : Nat) : Nat × Flags :=
  fp32.round (f.blockValue scale c) { rm := .rne, sat := .nosat }

/-- VDEQ (R287). -/
def State.vdeq (s : State) (d a b : Fin 32) (f : BFmt) : Out :=
  s.withPops [d] [a] fun t =>
    t.vfresult none d 32 ((lanes f.ebits 48 (t.v a)).map (deqLane f ((t.x b).toNat % 256)))

/-- VQUANT.B48E4M3 (R286). -/
def execVquantB48e4m3 (rnd : Option Rnd) (d a b : Fin 32) (s : State) : Out := s.vquant rnd d a b .b48e4m3

/-- VQUANT.B48E5M2 (R286). -/
def execVquantB48e5m2 (rnd : Option Rnd) (d a b : Fin 32) (s : State) : Out := s.vquant rnd d a b .b48e5m2

/-- VQUANT.B48E2M1 (R286). -/
def execVquantB48e2m1 (rnd : Option Rnd) (d a b : Fin 32) (s : State) : Out := s.vquant rnd d a b .b48e2m1

/-- VQUANT.B48I8 (R286). -/
def execVquantB48i8 (rnd : Option Rnd) (d a b : Fin 32) (s : State) : Out := s.vquant rnd d a b .b48i8

/-- VQUANT.B48I4 (R286). -/
def execVquantB48i4 (rnd : Option Rnd) (d a b : Fin 32) (s : State) : Out := s.vquant rnd d a b .b48i4

/-- VQUANT.B48T2 (R286). -/
def execVquantB48t2 (rnd : Option Rnd) (d a b : Fin 32) (s : State) : Out := s.vquant rnd d a b .b48t2

/-- VDEQ.B48E4M3 (R287). -/
def execVdeqB48e4m3 (d a b : Fin 32) (s : State) : Out := s.vdeq d a b .b48e4m3

/-- VDEQ.B48E5M2 (R287). -/
def execVdeqB48e5m2 (d a b : Fin 32) (s : State) : Out := s.vdeq d a b .b48e5m2

/-- VDEQ.B48E2M1 (R287). -/
def execVdeqB48e2m1 (d a b : Fin 32) (s : State) : Out := s.vdeq d a b .b48e2m1

/-- VDEQ.B48I8 (R287). -/
def execVdeqB48i8 (d a b : Fin 32) (s : State) : Out := s.vdeq d a b .b48i8

/-- VDEQ.B48I4 (R287). -/
def execVdeqB48i4 (d a b : Fin 32) (s : State) : Out := s.vdeq d a b .b48i4

/-- VDEQ.B48T2 (R287). -/
def execVdeqB48t2 (d a b : Fin 32) (s : State) : Out := s.vdeq d a b .b48t2

/-- VFMA.F32 (R276). -/
def execVfmaF32 (rnd : Option Rnd) (d a b c : Fin 32) (s : State) : Out := s.vfma rnd d a b c false

/-- VFNMA.F32: c - a * b (R276). -/
def execVfnmaF32 (rnd : Option Rnd) (d a b c : Fin 32) (s : State) : Out := s.vfma rnd d a b c true

/-- VFMA.I32 (R276). -/
def execVfmaI32 (d a b c : Fin 32) (s : State) : Out :=
  s.withPops [d] [a, b, c] fun t =>
    t.vresult d (build (fun i => (lane 32 (t.v a) i * lane 32 (t.v b) i + lane 32 (t.v c) i) % 2 ^ 32))

end Sys2Proof.Machine
end

