-- ==== Sys2Proof/Machine/Rill.lean ====
section
/-! DEFINITION. Message-class instructions of the rill cores, their flags, the router adder, block records and
the bank command queue (R288, R348 to R364). -/

namespace Sys2Proof.Machine

/-- Replaces the rill part of the issuing hart. -/
def State.setRill (s : State) (r : Rill) : State := { s with h := { s.h with r := r } }

/-- The node of the issuing rill core. -/
def State.node (s : State) : Nat :=
  match s.h.id with
  | .rill n => n
  | .thread _ _ => 0

/-! ## Data memory (R348) -/

/-- The alignment check of a data access. -/
def alignCheck (a al : Nat) : Option TrapInfo := if a % al = 0 then none else some { cause := 7, addr := a }

/-- The check of a data access of `n` bytes at `a` with its alignment: the trap it raises, if any. -/
def dataCheck (a n al : Nat) : Option TrapInfo :=
  if a % al ≠ 0 then some { cause := 7, addr := a }
  else if 0x40000 < a + n then some { cause := 9, addr := a, detail := 6 }
  else none

/-- The first trap of a list of checks. -/
def firstTrap (l : List (Option TrapInfo)) : Option TrapInfo := l.findSome? id

/-- Runs the group unless a check traps. -/
def State.checked (s : State) (l : List (Option TrapInfo)) (k : Out) : Out :=
  match firstTrap l with
  | some t => .next (s.takeTrap t)
  | none => k

/-- The 192-byte block at an address of the data memory, in the lane order of a vector register. -/
def State.block192 (s : State) (a : Nat) : VWord := BitVec.ofNat 1536 (Mem.readN s.h.r.dmem a 192)

/-- Writes `n` bytes of the data memory. -/
def State.setData (s : State) (a n v : Nat) : State :=
  s.setRill { s.h.r with dmem := Mem.writeN s.h.r.dmem a n v }

/-! ## Headers, levels and dispatch (R350, R352, R359) -/

/-- LEN of a header. -/
def hdrLen (h : Nat) : Nat := bits h 60 56

/-- TYPE of a header. -/
def hdrType (h : Nat) : Nat := bits h 55 48

/-- The source node of a header: SPKG and SEP (R351). -/
def hdrSrc (h : Nat) : Nat := bits h 47 30 * 1024 + bits h 29 20

/-- The dispatch entry of an index (Table 14.3). -/
def Rill.entry (r : Rill) (t : Nat) : Nat := assocGet 0 t r.dtab

/-- The level and the handler address that a message has under the mode (R352), or nothing for a message
that stays in its inbox. -/
def Rill.select (r : Rill) (m : RMsg) : Option (Nat × Nat) :=
  match r.mode with
  | .service =>
    let e := r.entry (hdrType m.hdr)
    if m.hdr.testBit 63 = false ∧ e.testBit 63 then some (bits e 62 61, bits e 19 2 * 4)
    else some (3, bits (r.entry 0) 19 2 * 4)
  | _ => if m.hdr.testBit 63 then some (0, bits m.hdr 19 0) else none

/-- The inbox level at which a message waits (R350, R354). -/
def Rill.levelOf (r : Rill) (m : RMsg) : Nat := ((r.select m).map (·.1)).getD 0

/-- The oldest message of level `l` that can be dispatched. -/
def Rill.oldest (r : Rill) (l : Nat) : Option RMsg :=
  r.inbox.find? (fun m => match r.select m with
    | some (k, _) => k == l
    | none => false)

/-- The highest level with a handler in progress. -/
def Rill.busy (r : Rill) : Option Nat :=
  [3, 2, 1, 0].find? (fun l => (r.levels.getD l {}).active)

/-- The oldest message of level `l` that may start above a handler in progress: with a mode pending, one with H = 1 waits for the
MRET, and is dispatched under the mode then in force (R353, R368). -/
def Rill.oldestAbove (r : Rill) (l : Nat) : Option RMsg :=
  r.inbox.find? (fun m => !(r.pendMode.isSome && m.hdr.testBit 63) && match r.select m with
    | some (k, _) => k == l
    | none => false)

/-- The message that level `l` serves next, if it may start now: above every handler in progress, and in SERVICE only, if there
is one (R189, R359). -/
def Rill.ready (r : Rill) (l : Nat) : Option RMsg :=
  match r.busy with
  | some b => if b < l ∧ r.mode = .service then r.oldestAbove l else none
  | none => r.oldest l

/-- The level to serve next: the highest with a message that may start (R189, R359). -/
def Rill.nextLevel (r : Rill) : Option Nat := [3, 2, 1, 0].find? (fun l => (r.ready l).isSome)

/-- Puts the running registers into the level's bank. -/
def Hart.bankOut (h : Hart) : Hart :=
  let l := h.r.levels.getD h.r.level {}
  { h with r := { h.r with levels := h.r.levels.setIfInBounds h.r.level { l with x := h.x, pc := h.pc, board := h.board } } }

/-- Makes a level the running one, with the registers of its bank. -/
def Hart.bankIn (h : Hart) (n : Nat) : Hart :=
  let l := h.r.levels.getD n {}
  { h with x := l.x, pc := l.pc, board := l.board, r := { h.r with level := n } }

/-- The registers at handler entry (R190). -/
def Hart.handlerRegs (h : Hart) (m : RMsg) : Hart :=
  let w := fun i => BitVec.ofNat 64 (nth m.payload i)
  { h with x := (((((((h.x.set 3 (BitVec.ofNat 64 m.hdr)).set 4 (w 0)).set 5 (w 1)).set 6 (w 2)).set 7 (w 3)).set 8
      (w 4)).set 9 (BitVec.ofNat 64 m.payload.length)) }

/-- Starts the handler of a message at a level. No result is pending then, and the issue distances start anew (log 71). -/
def Hart.startHandler (h : Hart) (m : RMsg) (lvl addr : Nat) : Hart :=
  let g := (h.bankOut.bankIn lvl).handlerRegs m
  let l : RLevel := { x := g.x, pc := BitVec.ofNat 64 addr, hdr := m.hdr, left := m.payload.drop 5, active := true }
  { g with pc := BitVec.ofNat 64 addr, board := [], stat := .ready, replay := false, reply := none,
           r := { g.r with levels := g.r.levels.setIfInBounds lvl l, inbox := g.r.inbox.erase m } }

/-- At an instruction boundary: a message above every handler in progress starts its handler (R189); none does after EXIT
(log 35). -/
def Hart.rillBoundary (h : Hart) : Hart :=
  match if h.stat = .exited then none else h.r.nextLevel with
  | none => h
  | some l => match h.r.ready l with
    | none => h
    | some m => match h.r.select m with
      | some (_, a) => h.startHandler m l a
      | none => h

/-- After a handler has ended: a message or the highest handler in progress runs next (R359). -/
def Hart.rillNext (h : Hart) : Hart :=
  match h.r.nextLevel with
  | some _ => h.rillBoundary
  | none => match h.r.busy with
    | some b => h.bankOut.bankIn b
    | none => h

/-- MRET (R359): the level ends, a pending mode takes effect, and the next handler is chosen; pending results are written and the
distances start anew, as at an ERET (log 71). The bank of a level that is to be cleared is (R424). -/
def Hart.mret (h : Hart) : Hart :=
  let z := h.settleBoard
  let l := z.r.levels.getD z.r.level {}
  let g := { z with x := if l.wipe then Vector.replicate 32 0 else z.x, replay := false, reply := none }
  let r : Rill := { g.r with
    levels := g.r.levels.setIfInBounds g.r.level { l with x := g.x, active := false, left := [], board := [], wipe := false }
    mode := match g.r.pendMode with
      | some m => RMode4.ofCode m
      | none => g.r.mode
    pendMode := none }
  ({ g with r := r }).rillNext

/-- MRET (R359). -/
def execMret (s : State) : Out := .next { s with h := s.h.mret }

/-! ## Sending (R356, R358) -/

/-- Whether an endpoint is a neighbour port. -/
def isPort (e : Nat) : Bool := decide (0x3F0 ≤ e) && decide (e ≤ 0x3F3)

/-- The messages that a rill core has sent and the network still holds. -/
def State.sentBy (s : State) (n : Nat) : List RMsg :=
  s.lat.net.filterMap (fun m => match m.body with
    | .rill r => if r.src = n then some r else none
    | _ => none)

/-- Whether a message is one that the program of a rill core has sent and its outbox still holds: to another rill core, to the
host, or one of the three that a compute core takes (R348, R351). -/
def Msg.inOutbox (m : Msg) (n : Nat) : Bool :=
  m.src == .rill n && m.via.isNone && match m.body with
    | .rill _ => true
    | .opReply _ _ _ _ _ => true
    | .resume _ _ _ _ => true
    | .redirectAck _ _ _ => true
    | _ => false

/-- Whether the outbox is full: f4 (R348, R354). -/
def State.outboxFull (s : State) (n : Nat) : Bool := decide (16 ≤ (s.lat.net.filter (fun m => m.inOutbox n)).length)

/-- One more in a count by context. -/
def bumpCount (c : Nat) (l : List (Nat × Nat)) : List (Nat × Nat) := assocSet c (assocGet 0 c l + 1) l

/-- Whether a context has begun to stop (R398). -/
def State.isStopping (s : State) (c : Nat) : Bool :=
  match s.ctx? c with
  | some x => x.stopping
  | none => true

/-- Whether a message is a reply (R94, R205, R398). -/
def Body.isReply (b : Body) : Bool :=
  match b with
  | .ack _ | .refuse _ _ _ _ _ _ | .wake _ _ _ | .data _ _ _ _ _ _ => true
  | .resume _ _ _ _ | .redirectAck _ _ _ | .opReply _ _ _ _ _ | .ready _ _ _ _ _ _ | .gateWake _ _ _ => true
  | _ => false

/-- Whether a message is a reply in a context that stops, which is discarded (R398). -/
def State.discards (s : State) (m : Msg) : Bool := m.body.isReply && s.isStopping m.ctx

/-- Puts a message into the network; its context has sent one more (R186). -/
def State.send (s : State) (m : Msg) : State :=
  { s with lat := if s.discards m then s.lat
                  else { s.lat with net := s.lat.net ++ [m], sent := bumpCount m.ctx s.lat.sent } }

/-- The address whose repair a thread waits for, its group held or an access that its core holds (R33). -/
def Hart.repairOf (h : Hart) : Option Nat :=
  match h.stat with
  | .waiting (.repair va) => some va
  | .halted (some (.repair va)) _ => some va
  | _ => (h.t.post.later.head?).bind (·.ask)

/-- Whether a core state takes a message of a rill core: an operation in the token slot whose reply has not come, a redirect
entry of the slot, or a requester that waits for a repair. -/
def State.coreTakes (s : State) (c : Nat) (m : RMsg) : Bool :=
  let slot := bits m.hdr 19 0
  let ops := s.work.ops.filter (fun o => o.core == c)
  match hdrType m.hdr with
  | 0x01 => ops.any (fun o => o.slot == slot && !o.replied)
  | 0x03 => ops.any (fun o => o.slot == slot && o.entry)
  | 0x02 => if slot < 8 then ((s.hart? (.thread c slot)).bind Hart.repairOf).isSome
    else ops.any (fun o => o.slot + 256 == slot && o.waitVa.isSome)
  | _ => false

/-- The core state that a message to a compute core reaches (R351, R358, R384): the one on the physical core, or one that its
forwarding entries name, whichever the message is for. -/
def State.coreOfNode (s : State) (m : RMsg) : Option Core :=
  let n := m.dst / 1024 * 272 + (m.dst % 1024 - 0x100)
  let here := s.work.cores.filter (fun c => c.loc == .at n || (match c.loc with
    | .draining p _ _ => p == n
    | .streaming p _ => p == n
    | _ => false))
  let fwd := ((s.work.phys.filter (fun p => p.n == n)).flatMap (·.fwd)).filterMap (fun e => s.work.cores.find? (fun c => c.id == e.core))
  (here ++ fwd).find? (fun c => s.coreTakes c.id m)

/-- A message to a compute core, by its TYPE (R351): an operation reply or a redirect acknowledgement to the oldest operation of
the token slot that still awaits it, or a resume after a repair, whose TAG is a thread slot or 256 more than a token slot (log 78);
any other TYPE is ignored, and so is a message with H = 1, whose TYPE means nothing (Table 14.1). -/
def State.toCore (s : State) (m : RMsg) : State :=
  match if m.hdr.testBit 63 then none else s.coreOfNode m with
  | none => s
  | some c =>
    let slot := bits m.hdr 19 0
    let find := fun (p : Op → Bool) => s.work.ops.find? (fun o => o.core == c.id && p o)
    let mk := fun b => s.send { src := .rill m.src, ctx := c.ctx, dest := .core c.id, body := b }
    match hdrType m.hdr with
    | 0x01 => match find (fun o => o.slot == slot && !o.replied) with
      | some o => mk (.opReply c.id slot o.gen (nth m.payload 0) (nth m.payload 1))
      | none => s
    | 0x02 =>
      if slot < 8 then
        match (s.hart? (.thread c.id slot)).bind Hart.repairOf with
        | some va => mk (.resume c.ctx va (.thread c.id slot) 0)
        | none => s
      else match find (fun o => o.slot + 256 == slot && o.waitVa.isSome) with
        | some o => mk (.resume c.ctx (o.waitVa.getD 0) (.op c.id o.slot o.gen o.units) 0)
        | none => s
    | 0x03 => match find (fun o => o.slot == slot && o.entry) with
      | some o => mk (.redirectAck c.id slot o.gen)
      | none => s
    | _ => s

/-- Sends a built message: a package that does not exist discards it and counts it; a neighbour port leads
one hop; a compute core takes its three types; the host interface takes the rest (R351, R356). -/
def State.route (s : State) (m : RMsg) : State :=
  let e := m.dst % 1024
  let mine := s.node
  if isPort e then
    s.send { src := .rill mine, ctx := 0, dest := .node (Config.neighbour mine (e - 0x3F0)),
             body := .rill { m with dst := Config.neighbour mine (e - 0x3F0), port := some (e - 0x3F0) } }
  else if m.dst / 1024 ≠ mine / 1024 ∧ Config.packagePresent (m.dst / 1024) = false then
    s.setRill { s.h.r with undel := (s.h.r.undel + 1) % 2 ^ 32 }
  else if 0x100 ≤ e ∧ e < 0x210 then s.toCore m
  else if e = 0x3FF then s.send { src := .rill mine, ctx := 0, dest := .host, body := .rill m }
  else s.send { src := .rill mine, ctx := 0, dest := .node m.dst, body := .rill m }

/-- The header a rill core sends: H, the sender's CHAN, LEN, TYPE and TAG or HADDR, and its own node
(R356). -/
def buildHdr (hbit : Bool) (chan x tag node : Nat) : Nat :=
  hbit.toNat * 2 ^ 63 + chan * 2 ^ 61 + bits x 60 48 * 2 ^ 48 + node / 1024 % 2 ^ 18 * 2 ^ 30
    + node % 1024 * 2 ^ 20 + tag

/-- SEND, SENDH and REPLY once their operands are known (R356). -/
def State.sendTo (s : State) (node hdr pa : Nat) : Out :=
  let n := hdrLen hdr
  let e := node % 1024
  let bad := decide (2 ^ 28 ≤ node) || !endpointOk e || bits hdr 62 61 == 3
    || (hdr.testBit 63 && decide (hdr % 4 ≠ 0)) || (isPort e && decide (1024 ≤ node))
  if bad then .next s.badOperand
  else s.checked [if n = 0 then none else dataCheck pa (8 * n) 8]
    (if s.outboxFull s.node then .next (s.block .outbox)
     else .next (s.route { hdr := hdr, payload := Mem.words s.h.r.dmem pa n, src := s.node, dst := node }).retire)

/-- SEND (R356). -/
def execSend (d a b : Fin 32) (s : State) : Out :=
  let x := (s.x b).toNat
  s.sendTo (s.x a).toNat (buildHdr false (bits x 62 61) x (bits x 19 0) s.node) (s.x d).toNat

/-- SENDH (R356). -/
def execSendh (d a b : Fin 32) (s : State) : Out :=
  let x := (s.x b).toNat
  s.sendTo (s.x a).toNat (buildHdr true (bits x 62 61) x (bits x 19 0) s.node) (s.x d).toNat

/-- REPLY (R358): an illegal operand when the current message has H = 1 or a zero header. -/
def execReply (a b : Fin 32) (s : State) : Out :=
  let cur := (s.h.r.levels.getD s.h.r.level {}).hdr
  if cur = 0 ∨ cur.testBit 63 then .next s.badOperand
  else s.sendTo (hdrSrc cur) (buildHdr false 1 (s.x a).toNat (bits cur 19 0) s.node) (s.x b).toNat

/-! ## Receiving (R357) -/

/-- RECV (R357): an illegal operand when no payload word is left. -/
def execRecv (d : Fin 32) (s : State) : Out :=
  let l := s.h.r.levels.getD s.h.r.level {}
  match l.left with
  | [] => .next s.badOperand
  | v :: rest =>
    (s.setRill { s.h.r with levels := s.h.r.levels.setIfInBounds s.h.r.level { l with left := rest } }).result d
      (BitVec.ofNat 64 v)

/-- RECV.LD (R357). -/
def execRecvLd (d a : Fin 32) (s : State) : Out :=
  let p := (s.x a).toNat
  s.checked [dataCheck p 8 8] (s.result d (BitVec.ofNat 64 (Mem.readN s.h.r.dmem p 8)))

/-- RECV.ST (R357). -/
def execRecvSt (a b : Fin 32) (s : State) : Out :=
  let p := (s.x a).toNat
  s.checked [dataCheck p 8 8] (.next (s.setData p 8 (s.x b).toNat).retire)

/-! ## The dispatch table and the flags (R354, R360, R361) -/

/-- DTCFG (R360). -/
def execDtcfg (a b : Fin 32) (s : State) : Out :=
  let i := (s.x a).toNat
  let e := (s.x b).toNat
  let bad := decide (255 < i) || bits e 60 20 != 0 || bits e 1 0 != 0 || (i == 0 && !e.testBit 63)
    || !(s.h.r.mode == .start || s.h.r.mode == .recovery)
  if bad then .next s.badOperand
  else .next (s.setRill { s.h.r with dtab := assocSet i e s.h.r.dtab }).retire

/-- The input port that a message leaves from: the opposite of the port it was sent by. -/
def oppositePort (p : Nat) : Nat := if p % 2 = 0 then p + 1 else p - 1

/-- Whether the input of a neighbour port holds a message. -/
def State.portIn (s : State) (n p : Nat) : Bool :=
  s.lat.net.any (fun m => match m.body with
    | .rill r => r.dst == n && r.port == some (oppositePort p)
    | _ => false)

/-- Whether the output of a neighbour port is full. -/
def State.portFull (s : State) (n p : Nat) : Bool :=
  decide (Config.portDepth ≤ ((s.sentBy n).filter (fun r => r.port == some p)).length)

/-- The flags f0 to f15 (Table 14.5). -/
def State.flag (s : State) (f : Nat) : Bool :=
  let r := s.h.r
  let base := rillKind s.node == 1
  if f < 4 then r.inbox.any (fun m => r.levelOf m == f)
  else if f = 4 then s.outboxFull s.node
  else if f = 5 then !(r.levels.getD r.level {}).left.isEmpty
  else if f = 6 then base && decide (256 ≤ r.bq.length)
  else if f = 7 then base && !r.brec.isEmpty
  else if f < 12 then s.portIn s.node (f - 8)
  else s.portFull s.node (f - 12)

/-- BFL.CLR (R361). -/
def execBflClr (n : Fin 16) (off : BitVec 34) (s : State) : Out := s.branch (!s.flag n.val) off

/-- BFL.SET (R361). -/
def execBflSet (n : Fin 16) (off : BitVec 34) (s : State) : Out := s.branch (s.flag n.val) off

/-! ## The router adder (R362) -/

/-- RCOMB on two blocks: cluster rill cores only; both sources are read before the block is written. -/
def State.rcomb2 (s : State) (d a b : Fin 32) (f : Nat → Nat → Nat × Flags) : Out :=
  let p := (s.x a).toNat
  let q := (s.x b).toNat
  let t := (s.x d).toNat
  if rillKind s.node ≠ 0 then .next s.illegal
  else s.checked [dataCheck p 192 64, dataCheck q 192 64, dataCheck t 192 64]
    (let l := (countFrom 0 48).map (fun i => f (lane 32 (s.block192 p) i) (lane 32 (s.block192 q) i))
     .next ((s.setData t 192 (packCodes 32 (l.map (·.1)))).addFlags none (orFlags l)).retire)

/-- RCOMB on one block, reading lanes of `wi` bits and writing lanes of `wo` bits; both operands are 192-byte blocks. -/
def State.rcomb1 (s : State) (d a : Fin 32) (wi wo : Nat) (f : Nat → Nat × Flags) : Out :=
  let p := (s.x a).toNat
  let t := (s.x d).toNat
  if rillKind s.node ≠ 0 then .next s.illegal
  else s.checked [dataCheck p 192 64, dataCheck t 192 64]
    (let l := (countFrom 0 48).map (fun i => f (lane wi (s.block192 p) i))
     .next ((s.setData t 192 (packCodes wo (l.map (·.1)))).addFlags none (orFlags l)).retire)

/-- RCOMB.ADD.F32 (R362). -/
def execRcombAddF32 (d a b : Fin 32) (s : State) : Out := s.rcomb2 d a b (fun x y => f32add x y (s.rnd none))

/-- RCOMB.MAX.F32 (R362). -/
def execRcombMaxF32 (d a b : Fin 32) (s : State) : Out := s.rcomb2 d a b (f32minmax true)

/-- RCOMB.MIN.F32 (R362). -/
def execRcombMinF32 (d a b : Fin 32) (s : State) : Out := s.rcomb2 d a b (f32minmax false)

/-- RCOMB.ADD.I32 (R362). -/
def execRcombAddI32 (d a b : Fin 32) (s : State) : Out := s.rcomb2 d a b (fun x y => ((x + y) % 2 ^ 32, 0))

/-- RCOMB.MAX.I32 (R362). -/
def execRcombMaxI32 (d a b : Fin 32) (s : State) : Out := s.rcomb2 d a b (fun x y => (if s32 x < s32 y then y else x, 0))

/-- RCOMB.MIN.I32 (R362). -/
def execRcombMinI32 (d a b : Fin 32) (s : State) : Out := s.rcomb2 d a b (fun x y => (if s32 x < s32 y then x else y, 0))

/-- RCOMB.WID.BF16 (R362). -/
def execRcombWidBf16 (d a : Fin 32) (s : State) : Out := s.rcomb1 d a 16 32 (fun x => (x * 2 ^ 16, 0))

/-- RCOMB.NAR.BF16 (R362). -/
def execRcombNarBf16 (d a : Fin 32) (s : State) : Out :=
  s.rcomb1 d a 32 16 (fun x => bf16.round (fp32.value x) (s.rnd none))

/-! ## Block records (R288) -/

/-- The values of the 48 elements of the record at an address (Table 11.4, R156). -/
def State.recordValues (s : State) (f : BFmt) (a : Nat) : List FVal :=
  let v := Mem.readN s.h.r.dmem a 64
  (unpackCodes f.ebits v 48).map (f.blockValue (bits v 391 384))

/-- The exact lane sums of two records (R288). -/
def addLanes (rm : RMode) (x y : List FVal) : List FVal := List.zipWith (fun a b => (a.add b rm).1) x y

/-- BADDQ (R288): the sum of two block records, requantised and written at xa; a NaN or an infinity gives the
NaN record through quant_block. -/
def State.baddq (s : State) (rnd : Option Rnd) (d a b : Fin 32) (f : BFmt) : Out :=
  let p := (s.x a).toNat
  let q := (s.x b).toNat
  s.checked [alignCheck p 64, alignCheck q 64, dataCheck p 64 64, dataCheck q 64 64]
    (let r := quantBlock f (addLanes (s.rnd rnd).rm (s.recordValues f p) (s.recordValues f q)) (s.rnd rnd)
     .next (((s.setData p 64 (packCodes f.ebits r.2.1 + r.1 * 2 ^ 384)).setX d (BitVec.ofNat 64 r.1)).addFlags rnd
       r.2.2).retire)

/-- BADDQ.B48E4M3 (R288). -/
def execBaddqB48e4m3 (rnd : Option Rnd) (d a b : Fin 32) (s : State) : Out := s.baddq rnd d a b .b48e4m3

/-- BADDQ.B48E5M2 (R288). -/
def execBaddqB48e5m2 (rnd : Option Rnd) (d a b : Fin 32) (s : State) : Out := s.baddq rnd d a b .b48e5m2

/-- BADDQ.B48E2M1 (R288). -/
def execBaddqB48e2m1 (rnd : Option Rnd) (d a b : Fin 32) (s : State) : Out := s.baddq rnd d a b .b48e2m1

/-- BADDQ.B48I8 (R288). -/
def execBaddqB48i8 (rnd : Option Rnd) (d a b : Fin 32) (s : State) : Out := s.baddq rnd d a b .b48i8

/-- BADDQ.B48I4 (R288). -/
def execBaddqB48i4 (rnd : Option Rnd) (d a b : Fin 32) (s : State) : Out := s.baddq rnd d a b .b48i4

/-! ## The bank command queue (R363, R364) -/

/-- The quarter stack of a base-die rill core, counted over the basin. -/
def quarterOf (node : Nat) : Nat := node / 1024 * 64 + (node % 1024 - 0x40)

/-- The unit of a 64-byte queue entry (Table 14.7), its argument words read from the data memory. -/
def bqUnitOf (dmem : List Host.Cell) (e : List Nat) : BqUnit :=
  let w0 := nth e 0
  let w6 := nth e 6
  { first := w0.testBit 63, entry := bits w0 62 59, prio := bits w0 58 55, ch := bits w0 54 52,
    bank := bits w0 51 48, call := bits w0 47 32, row := bits w0 31 0, ag := [nth e 1, nth e 2, nth e 3, nth e 4],
    args := Mem.words dmem (nth e 5) 8, lc0 := bits w6 31 0, lc1 := bits w6 63 32 }

/-- Whether a reserved field of a queue entry is nonzero (Table 14.7). -/
def bqReserved (e : List Nat) : Bool :=
  [nth e 1, nth e 2, nth e 3, nth e 4].any (fun w => bits w 63 58 != 0 || bits w 5 0 != 0)
    || nth e 5 != bits (nth e 5) 17 3 * 8 || nth e 7 != 0

/-- BQPUSH (R363): base-die rill cores only; every channel and bank number names a bank unit, so only the
reserved fields and the entry are checked. -/
def execBqpush (a : Fin 32) (s : State) : Out :=
  let p := (s.x a).toNat
  let e := Mem.words s.h.r.dmem p 8
  let u := bqUnitOf s.h.r.dmem e
  if rillKind s.node ≠ 1 then .next s.illegal
  else s.checked [dataCheck p 64 64]
    (if bqReserved e || !((assocGet {} (quarterOf s.node * 128 + u.ch * 16 + u.bank) s.dev.banks).entries.getD u.entry {}).v then .next s.badOperand
     else s.checked [dataCheck (nth e 5) 64 8]
       (if 256 ≤ s.h.r.bq.length then .next (s.block .bankQueue)
        else .next (s.setRill { s.h.r with bq := s.h.r.bq ++ [u] }).retire))

/-- BQWAIT (R364): base-die rill cores only; the oldest completion record. -/
def execBqwait (d : Fin 32) (s : State) : Out :=
  if rillKind s.node ≠ 1 then .next s.illegal
  else match s.h.r.brec with
    | [] => .next (s.block .bankRecord)
    | v :: rest => (s.setRill { s.h.r with brec := rest }).result d (BitVec.ofNat 64 v)

end Sys2Proof.Machine
end

