-- ==== Sys2Proof/Machine/Trans.lean ====
section
/-! DEFINITION. Frames, translation tables, TLBs and the walk (R15 to R37, R90). -/

namespace Sys2Proof.Machine

/-! ## Physical places (R16) -/

/-- The package of a global physical address. -/
def paPkg (pa : Nat) : Nat := pa / 2 ^ 40

/-- The first local address of the linear segments; those below are interleaved (log 5). -/
def linearBase : Nat := 288 * 2 ^ 30

/-- The stack of the package that holds a physical address: interleaved segments rotate 4 KiB pieces over the
sixteen stacks, and each stack has eighteen linear segments (log 5). -/
def paStack (pa : Nat) : Nat :=
  let l := pa % 2 ^ 40
  if l < linearBase then l / 4096 % 16 else (l - linearBase) / (18 * 2 ^ 30) % 16

/-- The channel of the stack that homes the piece (R16). -/
def paChannel (pa : Nat) : Nat :=
  let l := pa % 2 ^ 40
  if l < linearBase then l / 65536 % 32 else (l - linearBase) / 4096 % 32

/-- The die whose four stacks hold a physical address, counted over the basin (R114). -/
def paDie (pa : Nat) : Nat := paPkg pa * 4 + paStack pa / 4

/-- The base-die rill core that owns the channel of a physical address (R105). -/
def paRill (pa : Nat) : Nat := paPkg pa * 1024 + 0x40 + paStack pa * 4 + paChannel pa / 8

/-- The stack that serves a core's stack group (Table 7.1). -/
def physStack (n : Nat) : Nat := physGroup n % 16

/-- The cluster rill core that supervises a physical core (R31). -/
def physRill (n : Nat) : Nat := physPkg n * 1024 + physCluster n % 64

/-! ## Page sizes (Table 1.6a) -/

/-- Bytes of a page of size code `n`. -/
def pageBytes (n : Nat) : Nat := 4096 * 4 ^ n

/-- The level at which a leaf of size code `n` stands. -/
def leafLevel (n : Nat) : Nat := if n ≤ 4 then 1 else if n ≤ 8 then 2 else 3

/-- Bytes that one entry of a level spans. -/
def levelSpan (lvl : Nat) : Nat := 2 ^ (12 + 9 * (lvl - 1))

/-- Entries of a leaf group. -/
def groupSize (n : Nat) : Nat := pageBytes n / levelSpan (leafLevel n)

/-! ## Frames (R31, R36) -/

/-- Whether a range of physical addresses holds no frame. -/
def Lattice.isFree (l : Lattice) (pa size : Nat) : Bool :=
  l.frames.all (fun f => !overlaps pa (pa + size) f.pa (f.pa + f.size))

/-- The lowest free place of a size in a range of physical addresses, a multiple of the size (R26): at its start, or after a
frame. -/
def Lattice.place (l : Lattice) (lo hi size : Nat) : Option Nat :=
  let c := (roundUp lo size :: l.frames.map (fun f => roundUp (f.pa + f.size) size)).filter
    (fun a => decide (lo ≤ a) && decide (a + size ≤ hi) && l.isFree a size)
  c.min?

/-- The range of linear segments of a stack. -/
def stackRange (pkg st : Nat) : Nat × Nat :=
  (pkg * 2 ^ 40 + linearBase + st * (18 * 2 ^ 30), pkg * 2 ^ 40 + linearBase + (st + 1) * (18 * 2 ^ 30))

/-- The stacks of a package in their order of nearness to one (R36, R381): itself, those of its die, those of other dies; among equals
the lowest number first (log 5). -/
def nearStacks (st : Nat) : List Nat :=
  let others := (countFrom 0 16).filter (· != st)
  st :: (others.filter (· / 4 == st / 4) ++ others.filter (· / 4 != st / 4))

/-- A place for a frame of a region's policy (R36): INTERLEAVE in the interleaved segments of the package,
NEAR in the stack of the creating core's group or the nearest with room. -/
def Lattice.placeBy (l : Lattice) (near : Bool) (pkg st size : Nat) : Option Nat :=
  if near then
    (nearStacks (st % 16)).findSome? (fun i =>
      let r := stackRange pkg i
      l.place r.1 r.2 size)
  else l.place (pkg * 2 ^ 40) (pkg * 2 ^ 40 + linearBase) size

/-- The lattice without what caches, key checks and ECC say of the lines of a physical range. -/
def Lattice.forget (l : Lattice) (pa size : Nat) : Lattice :=
  let out := fun (line : Nat) => !overlaps pa (pa + size) (64 * line) (64 * line + 64)
  { l with
    cache := l.cache.filter (fun c => out c.line)
    dram := l.dram.filter (fun d => out d.1)
    checks := l.checks.filter (fun d => out d.1)
    lost := l.lost.filter out }

/-- Takes a frame: its bytes are cleared. -/
def State.takeFrame (s : State) (f : Frame) : State :=
  let l := s.lat.forget f.pa f.size
  { s with mem := Mem.clear s.mem f.pa (f.pa + f.size), lat := { l with frames := f :: s.lat.frames } }

/-- The frame that holds a physical address. -/
def State.frameOf (s : State) (pa : Nat) : Option Frame :=
  s.lat.frames.find? (fun f => decide (f.pa ≤ pa) && decide (pa < f.pa + f.size))

/-! ## Entries and the walk (R26 to R28) -/

/-- The leaf that two words hold, for the page of an address (Table 1.5). -/
def leafOf (va w0 w1 : Nat) : Leaf :=
  let n := bits w0 11 8
  { va := va / pageBytes n * pageBytes n, size := n, kind := bits w0 7 5, pa := bits w0 57 12 * 4096,
    key := bits w0 63 58, ret := w0.testBit 2, owner := bits w1 63 32, ctype := bits w1 31 28,
    csize := bits w1 27 24, win := bits w1 23 21 }

/-- The words of a leaf (Table 1.5). -/
def Leaf.words (l : Leaf) : Nat × Nat :=
  (l.key % 64 * 2 ^ 58 + l.pa / 4096 % 2 ^ 46 * 4096 + l.size % 16 * 256 + l.kind % 8 * 32 + l.ret.toNat * 4 + 1,
   l.owner % 2 ^ 32 * 2 ^ 32 + l.ctype % 16 * 2 ^ 28 + l.csize % 16 * 2 ^ 24 + l.win % 8 * 2 ^ 21)

/-- Whether a physical address lies in a range that no leaf may name (Table 1.1). -/
def reservedLocal (pa : Nat) : Bool :=
  let l := pa % 2 ^ 40
  decide (0x9000000000 ≤ l) && !(decide (0xE000000000 ≤ l) && decide (l < 0xE088000000))

/-- Table 1.6 code of a malformed leaf at a level, if it is one. -/
def leafBad (lvl : Nat) (l : Leaf) : Bool :=
  decide (11 < l.size) || leafLevel l.size != lvl || l.kind == 0 || l.kind == 7
    || decide (l.pa % pageBytes l.size ≠ 0) || reservedLocal l.pa

/-- The walk below the root (R28), from the table at a physical address at level `lvl`. -/
def walkFrom (m : List Host.Cell) (va : Nat) : Nat → Nat → Except Nat Leaf
  | 0, _ => .error 2
  | k + 1, tab =>
    let e := tab + 16 * bits va (20 + 9 * k) (12 + 9 * k)
    let w0 := Mem.readN m e 8
    if w0.testBit 0 = false then .error 1
    else if w0.testBit 1 = false then
      let l := leafOf va w0 (Mem.readN m (e + 8) 8)
      if leafBad (k + 1) l then .error 2 else .ok l
    else if k = 0 then .error 2
    else walkFrom m va k (bits w0 57 13 * 8192)

/-- The root entry of an address (R25). -/
def State.root (s : State) (ctx va : Nat) : Nat :=
  match s.lat.roots.find? (fun r => r.1 == ctx && r.2.1 == bits va 56 48) with
  | some r => r.2.2
  | none => 0

/-- walk (R28). -/
def State.walk (s : State) (ctx va : Nat) : Except Nat Leaf :=
  if bits va 63 57 ≠ 0 then .error 0
  else
    let r := s.root ctx va
    if r.testBit 0 = false then .error 1
    else if r.testBit 1 = false then .error 2
    else walkFrom s.mem va 4 (bits r 57 13 * 8192)

/-- The physical addresses of the entries that a walk below the root reads, from the table at a physical address (R28). -/
def walkPath (m : List Host.Cell) (va : Nat) : Nat → Nat → List Nat
  | 0, _ => []
  | k + 1, tab =>
    let e := tab + 16 * bits va (20 + 9 * k) (12 + 9 * k)
    let w0 := Mem.readN m e 8
    e :: (if w0.testBit 0 && w0.testBit 1 then walkPath m va k (bits w0 57 13 * 8192) else [])

/-- The entry of a page table whose line is lost, if a walk meets one (R90). -/
def State.lostEntry (s : State) (ctx va : Nat) : Option Nat :=
  if s.lat.lost.isEmpty || !(s.root ctx va).testBit 0 then none
  else (walkPath s.mem va 4 (bits (s.root ctx va) 57 13 * 8192)).find? (fun e => s.lat.lost.contains (e / 64))

/-- What Table 1.3 says of an access to a kind. -/
inductive Perm where
  | yes | wait | no
  deriving DecidableEq, Repr

/-- Table 1.3; an instruction is fetched from CONST pages only (R222). -/
def permitted (kind : Nat) (a : Acc) : Perm :=
  match kind with
  | 1 => match a with
    | .load | .store | .engRead | .engWrite | .maint => .yes
    | _ => .no
  | 2 => match a with
    | .load | .engRead | .hostRead | .fetch | .maint => .yes
    | _ => .no
  | 3 => match a with
    | .latUpdate | .latRead | .engRead | .engWrite | .hostRead | .hostWrite | .maint => .yes
    | _ => .no
  | 4 => match a with
    | .hostRead | .hostWrite => .yes
    | _ => .wait
  | 5 => match a with
    | .load | .store => .yes
    | _ => .no
  | 6 => match a with
    | .latUpdate | .latRead => .yes
    | _ => .no
  | _ => .no

/-- Whether a key slot is loaded on a package; slot 0 holds the device firmware key (R38). -/
def State.keyLoaded (s : State) (pkg slot : Nat) : Bool := slot == 0 || (s.pkg pkg).keys.any (fun k => k.1 == slot)

/-- The key check that a package has assigned to a slot; that of slot 0 is 0 (R90, log 77). -/
def State.checkOf (s : State) (pkg slot : Nat) : Nat := assocGet 0 slot (s.pkg pkg).checks

/-- The kind code of FILL among the cell types (Table 3.1). -/
def fillType : Nat := 8

/-- What a translation ends in: a leaf with the physical address, a wait for SEAL, a table entry whose line is lost (R90), or a
code of Table 1.6. -/
inductive TRes where
  | ok (l : Leaf) (pa : Nat)
  | wait
  | lost (pa : Nat)
  | fault (code : Nat)
  deriving DecidableEq, Repr

/-- check (R28), in its order; a HOST leaf that waits does so before the other results of Table 1.3. -/
def State.checkLeaf (s : State) (l : Leaf) (va : Nat) (a : Acc) (task : Nat) : TRes :=
  if l.kind = 3 ∧ (l.ctype = 0 ∨ 0xC ≤ l.ctype) then .fault 4
  else if l.kind = 3 ∧ l.ctype = fillType ∧ 9 < l.csize then .fault 4
  else if l.kind = 3 ∧ l.ctype ≠ fillType ∧ l.csize ≠ 0 then .fault 4
  else if 1 ≤ l.kind ∧ l.kind ≤ 4 ∧ s.keyLoaded (paPkg l.pa) l.key = false then .fault 5
  else match permitted l.kind a with
    | .wait => .wait
    | .no => .fault 6
    | .yes =>
      if l.kind = 1 ∧ (l.ret ∨ l.owner ≠ task) then .fault 7
      else .ok l (l.pa + va % pageBytes l.size)

/-! ## TLBs (R29) -/

/-- Whether a cached leaf serves an address. -/
def TlbEntry.hits (e : TlbEntry) (ctx va : Nat) : Bool :=
  e.ctx == ctx && decide (e.leaf.va ≤ va) && decide (va < e.leaf.va + pageBytes e.leaf.size)

/-- A TLB copy for an access from a core of a die, the core's own first. -/
def State.tlbFind (s : State) (core : Option Nat) (die ctx va : Nat) : Option Leaf :=
  match s.lat.tlb.find? (fun e => e.core.isSome && e.core == core && e.hits ctx va) with
  | some e => some e.leaf
  | none => (s.lat.tlb.find? (fun e => e.core.isNone && e.die == die && e.hits ctx va)).map (·.leaf)

/-- A TLB with one more entry at the front, the oldest given up past its size. -/
def tlbPush (p : TlbEntry → Bool) (size : Nat) (e : TlbEntry) (l : List TlbEntry) : List TlbEntry :=
  let mine := l.filter p
  let l' := if size ≤ mine.length then
    match mine.getLast? with
    | some x => l.erase x
    | none => l
    else l
  e :: l'

/-- Fills both TLB levels with a leaf (R29). -/
def State.tlbFill (s : State) (core : Option Nat) (die ctx : Nat) (leaf : Leaf) : State :=
  let l1 := tlbPush (fun e => e.core.isNone && e.die == die) 1024 { core := none, die := die, ctx := ctx, leaf := leaf } s.lat.tlb
  let l2 := match core with
    | none => l1
    | some c => tlbPush (fun e => e.core == some c) 64 { core := some c, die := die, ctx := ctx, leaf := leaf } l1
  { s with lat := { s.lat with tlb := l2 } }

/-- Removes every TLB copy that meets a range of a context (R30). -/
def State.tlbInvalidate (s : State) (ctx lo hi : Nat) : State :=
  { s with lat := { s.lat with
      tlb := s.lat.tlb.filter (fun e => !(e.ctx == ctx && overlaps lo hi e.leaf.va (e.leaf.va + pageBytes e.leaf.size))) } }

/-- A translation from a core of a die: a TLB copy or the walk, then the checks (R28). The state has the
TLBs filled. -/
def State.translate (s : State) (core : Option Nat) (die ctx task va : Nat) (a : Acc) : State × TRes :=
  if bits va 63 57 ≠ 0 then (s, .fault 0)
  else match s.tlbFind core die ctx va with
    | some l => (s, s.checkLeaf l va a task)
    | none => match s.lostEntry ctx va with
    | some pa => (s, .lost pa)
    | none => match s.walk ctx va with
      | .error c => (s, .fault c)
      | .ok l => (s.tlbFill core die ctx l, s.checkLeaf l va a task)

/-! ## Installing leaves (R27, R31, R32) -/

/-- The region that covers an address. -/
def State.regionOf (s : State) (ctx va : Nat) : Option Region :=
  match s.ctx? ctx with
  | none => none
  | some c => c.regions.find? (fun r => decide (r.base ≤ va) && decide (va < r.base + r.len))

/-- A table below the root: the one an entry points to, or a new one that the entry then points to. -/
def State.tableAt (s : State) (pkg ctx entry : Nat) : Option (Nat × State) :=
  let w := Mem.readN s.mem entry 8
  if w.testBit 0 then (if w.testBit 1 then some (bits w 57 13 * 8192, s) else none)
  else match s.lat.placeBy false pkg 0 8192 with
    | none => none
    | some pa =>
      let s1 := s.takeFrame { pa := pa, size := 8192, ctx := ctx, va := 2 ^ 64, kind := 0 }
      some (pa, { s1 with mem := Mem.writeN s1.mem entry 8 (pa + 3) })

/-- Descends from the table of level `lvl + 1`, `k` levels down. -/
def State.descend (s : State) (pkg ctx va : Nat) : Nat → Nat → Nat → Option (Nat × State)
  | 0, _, tab => some (tab, s)
  | k + 1, lvl, tab =>
    match s.tableAt pkg ctx (tab + 16 * bits va (20 + 9 * (lvl - 1)) (12 + 9 * (lvl - 1))) with
    | none => none
    | some (t, s1) => s1.descend pkg ctx va k (lvl - 1) t

/-- The level 4 table of an address, made if there is none. -/
def State.rootTable (s : State) (pkg ctx va : Nat) : Option (Nat × State) :=
  let r := s.root ctx va
  if r.testBit 0 then some (bits r 57 13 * 8192, s)
  else match s.lat.placeBy false pkg 0 8192 with
    | none => none
    | some pa =>
      let s1 := s.takeFrame { pa := pa, size := 8192, ctx := ctx, va := 2 ^ 64, kind := 0 }
      some (pa, { s1 with lat := { s1.lat with roots := (ctx, bits va 56 48, pa + 3) :: s1.lat.roots } })

/-- Writes the same entry `n` times from an address. -/
def writeEntries (m : List Host.Cell) (w : Nat × Nat) : Nat → Nat → List Host.Cell
  | 0, _ => m
  | n + 1, a => writeEntries (Mem.writeN (Mem.writeN m a 8 w.1) (a + 8) 8 w.2) w n (a + 16)

/-- Writes the leaf group of a page into the tables (R27); none when a table cannot be made. -/
def State.setLeaf (s : State) (pkg ctx : Nat) (l : Leaf) : Option State :=
  let lvl := leafLevel l.size
  match s.rootTable pkg ctx l.va with
  | none => none
  | some (t4, s1) => match s1.descend pkg ctx l.va (4 - lvl) 4 t4 with
    | none => none
    | some (t, s2) =>
      let i := bits l.va (20 + 9 * (lvl - 1)) (12 + 9 * (lvl - 1))
      some { s2 with mem := writeEntries s2.mem l.words (groupSize l.size) (t + 16 * i) }

/-- Replaces the leaf of a page and every TLB copy of it (R30). -/
def State.changeLeaf (s : State) (pkg ctx : Nat) (l : Leaf) : State :=
  match s.setLeaf pkg ctx l with
  | none => s
  | some t => t.tlbInvalidate ctx l.va (l.va + pageBytes l.size)

/-- Creates the page of a region at an address (R31, R36): a frame by the region's policy, initialised, and
the leaf group; `task` owns a PRIV page (R20). The page stays if one is there already (R32); none when
there is no room. -/
def State.createPage (s : State) (ctx : Nat) (r : Region) (va task pkg st : Nat) : Option State :=
  let size := pageBytes r.psize
  let base := va / size * size
  match s.walk ctx base with
  | .ok _ => some s
  | .error _ =>
    let leaf := fun pa => ({ va := base, size := r.psize, kind := r.kind, pa := pa, key := r.key, ret := false,
                             owner := if r.kind = 1 then task else 0, ctype := r.ctype, csize := r.csize,
                             win := r.win } : Leaf)
    if r.kind = 5 ∨ r.kind = 6 then s.setLeaf pkg ctx { leaf 0 with key := 0 }
    else match s.lat.placeBy (r.pol == 1) pkg st size with
      | none => none
      | some pa =>
        (s.takeFrame { pa := pa, size := size, ctx := ctx, va := base, kind := r.kind, ctype := r.ctype,
                       csize := r.csize, gen := r.gen, sealed := r.sealed, key := r.key,
                       chk := s.checkOf (paPkg pa) r.key }).setLeaf pkg ctx (leaf pa)

/-! ## Lost lines (R90) -/

/-- The numbers of the lines that a byte range meets. -/
def linesOf (pa n : Nat) : List Nat := countFrom (pa / 64) ((pa + n - 1) / 64 + 1 - pa / 64)

/-- KCHK of a line (Table 4.1): the key check it was last written with; zero outside the pages of contexts. -/
def State.kchk (s : State) (line : Nat) : Nat :=
  match s.frameOf (64 * line) with
  | some f => assocGet f.chk line s.lat.checks
  | none => 0

/-- Whether the key check of a line is not that of the slot of its page. -/
def State.badCheck (s : State) (line : Nat) : Bool :=
  match s.frameOf (64 * line) with
  | some f => f.kind != 0 && assocGet f.chk line s.lat.checks != s.checkOf (paPkg f.pa) f.key
  | none => false

/-- Whether a line of a byte range is lost: the stack's ECC reports it, or its key check differs (R90). -/
def State.isLost (s : State) (pa n : Nat) : Bool :=
  s.lat.lost.any (fun l => overlaps pa (pa + n) (l * 64) (l * 64 + 64)) || (linesOf pa n).any s.badCheck

/-- The lines of a byte range have been written (R90): each has the check of its page's slot, and one that is written whole is
lost no more (log 77). -/
def State.wrote (s : State) (pa n : Nat) : State :=
  match s.frameOf pa with
  | none => s
  | some f =>
    let c := s.checkOf (paPkg f.pa) f.key
    let put := fun (l : List (Nat × Nat)) (line : Nat) => if c = f.chk then assocDel line l else assocSet line c l
    { s with lat := { s.lat with
        checks := if f.kind = 0 then s.lat.checks else (linesOf pa n).foldl put s.lat.checks
        lost := s.lat.lost.filter (fun l => !(decide (pa ≤ 64 * l) && decide (64 * l + 64 ≤ pa + n))) } }

/-- D0 of the record of a loss that an access to a byte range meets (Table 16.4): bit 8 says that a key check differs. -/
def State.lossD0 (s : State) (pa n : Nat) : Nat := if (linesOf pa n).any s.badCheck then 256 else 0

/-- The record of an uncorrectable memory loss in DRAM (Table 16.4), and the context stops. -/
def State.raiseLoss (s : State) (ctx pkg name addr pc d0 : Nat) : State :=
  s.raise ctx (faultRec 5 pkg name addr 0 0 pc d0 0 0) true

/-! ## Bank units and their places (R105, R106) -/

/-- The bank unit attached to the bank of a row, counted over the basin: sixteen a channel, eight channels a base-die rill
core. -/
def buOf (pa : Nat) : Nat := quarterOf (paRill pa) * 128 + paChannel pa % 8 * 16 + Config.bankOfRow (pa / 1024) % 16

/-- A bank unit's state. -/
def State.bank (s : State) (bu : Nat) : BankUnit := assocGet {} bu s.dev.banks

/-- Replaces a bank unit's state. -/
def State.setBank (s : State) (bu : Nat) (b : BankUnit) : State :=
  { s with dev := { s.dev with banks := assocSet bu b s.dev.banks } }

/-- Whether a bank unit holds the bank of an address, so that an ordinary access to it waits (R106). -/
def State.bankHeld (s : State) (pa : Nat) : Bool := !s.dev.banks.isEmpty && (s.bank (buOf pa)).phase == .unit

/-! ## Routes between packages (R420) -/

/-- The links that are out of service, each as its package and its number (R420). -/
def State.linksOut (s : State) : List (Nat × Nat) :=
  s.dev.pkgs.flatMap (fun p => ((List.zip (countFrom 0 24) p.2.links.toList).filter (fun l => l.2.out)).map (fun l => (p.1, l.1)))

/-- Whether a route between two packages is left (R420): always while every link is in service, never when one of them has no link
in service, and otherwise as the cabling gives (log 85). -/
def State.routed (s : State) (p q : Nat) : Bool :=
  let out := s.linksOut
  p == q || out.isEmpty || (decide ((out.filter (fun l => l.1 == p)).length < 24) && decide ((out.filter (fun l => l.1 == q)).length < 24)
    && Config.routeLeft out p q)

/-- Whether DRAM at a physical address gives no answer to an agent of a package now: a bank unit holds the bank (R106), or every
route to its package is lost (R420). -/
def State.dramWaits (s : State) (p pa : Nat) : Bool := s.bankHeld pa || !s.routed p (paPkg pa)

end Sys2Proof.Machine
end

