-- ==== Sys2Proof/Machine/Scratch.lean ====
section
/-! DEFINITION. Scratch views, alias windows, range locks, and the checks of a thread's access to its scratchpad
(R41 to R47, R54, R59 to R61, R133 to R135). -/

namespace Sys2Proof.Machine

/-- Replaces the scratchpad of a hart. -/
def Hart.setScr (h : Hart) (c : Scratch) : Hart := { h with t := { h.t with scr := c } }

/-- Replaces the scratchpad of the issuing thread. -/
def State.setScr (s : State) (c : Scratch) : State := { s with h := s.h.setScr c }

/-- The bytes of a view: 0 W, 1 A, 2 C. -/
def Scratch.view (c : Scratch) (buf : Nat) : List Host.Cell :=
  match buf with
  | 0 => c.w
  | 1 => c.a
  | _ => c.c

/-- Replaces the bytes of a view. -/
def Scratch.setView (c : Scratch) (buf : Nat) (m : List Host.Cell) : Scratch :=
  match buf with
  | 0 => { c with w := m }
  | 1 => { c with a := m }
  | _ => { c with c := m }

/-- The size of a view (Table 2.1). -/
def viewSize (buf : Nat) : Nat :=
  match buf with
  | 0 => 0x300000
  | 1 => 0x180000
  | _ => 0xC0000

/-- The allocation granule of a buffer (Table 2.1). -/
def granule (buf : Nat) : Nat := if buf = 0 then 0x6000 else 0x1000

/-- The window that holds a view offset. -/
def Scratch.winAt (c : Scratch) (buf o : Nat) : Option Win :=
  c.wins.find? (fun w => w.buf == buf && decide (w.base ≤ o) && decide (o < w.base + w.len))

/-- Whether every byte of a view range lies in a window (R41): the windows are at most eight. -/
def Scratch.covers (c : Scratch) (buf : Nat) : Nat → Nat → Nat → Bool
  | 0, lo, hi => decide (hi ≤ lo)
  | k + 1, lo, hi =>
    if hi ≤ lo then true
    else match c.winAt buf lo with
      | none => false
      | some w => c.covers buf k (w.base + w.len) hi

/-- Whether a view range lies in windows. -/
def Scratch.inWindows (c : Scratch) (buf lo n : Nat) : Bool := c.covers buf 9 lo (lo + n)

/-- Whether a range of A touches a valid ring (R61). -/
def Scratch.onRing (c : Scratch) (buf lo n : Nat) : Bool :=
  buf == 1 && c.rings.toList.any (fun r => r.v && overlaps lo (lo + n) r.base (r.base + r.size))

/-- Whether a range of W touches an armed macro (R54). -/
def Scratch.onArmed (c : Scratch) (buf lo n : Nat) : Bool :=
  buf == 0 && c.armed.any (fun a => overlaps lo (lo + n) a.off (a.off + 0x6000))

/-- The landing regions that a range touches. -/
def Scratch.landings (c : Scratch) (buf lo n : Nat) : List Win :=
  c.wins.filter (fun w => w.land && w.buf == buf && overlaps lo (lo + n) w.base (w.base + w.len))

/-! ## Range locks (R135) -/

/-- What a range lock says of an access. -/
inductive LockRes where
  | ok
  | trap (entry : Nat)
  | wait (slot gen last : Nat)
  deriving DecidableEq, Repr

/-- Whether an operation has ended (R199). -/
def OpState.ended (t : OpState) : Bool := t == .done || t == .failed || t == .cancelled

/-- Whether the operation of a slot and generation of a core state has ended (R135): its token knows it, or it is detached and has
ended at its engine, or nothing is left of it. -/
def State.lockEnded (s : State) (core slot gen : Nat) : Bool :=
  s.work.ops.all (fun o => !(o.core == core && o.slot == slot && o.gen == gen) || o.replied || (o.hold != 0 && o.st.ended))

/-- The entries of a slot whose bytes its thread can reach: not those that an exited thread has left (R135, R137,
log 80). -/
def Hart.ownLocks (h : Hart) : List (Nat × RangeLock) := h.t.rlt.filter (fun e => !e.2.left)

/-- The range-lock entries of the issuing thread (R133); a WATERMARK entry whose operation has ended holds no load (R135). -/
def State.locks (s : State) : List (Nat × RangeLock) :=
  s.h.ownLocks.map (fun e => if e.2.watermark && s.lockEnded s.h.coreSlot.1 e.2.kslot e.2.kgen then (e.1, { e.2 with wmark := 2 ^ 64 }) else e)

/-- The index of an entry in the core's table: entries 4k to 4k + 3 belong to slot k (R133). -/
def State.lockIndex (s : State) (i : Nat) : Nat := s.h.coreSlot.2 * 4 + i

/-- Judges an access of a space against the entries in order (R135). -/
def lockJudge (st : Bool) (space lo n : Nat) : List (Nat × RangeLock) → LockRes
  | [] => .ok
  | (i, e) :: l =>
    if e.space = space ∧ overlaps lo (lo + n) e.start e.stop then
      if st then .trap i
      else if e.watermark then (if lo + n ≤ e.wmark then lockJudge st space lo n l else .wait e.kslot e.kgen (lo + n))
      else if e.dir then .trap i
      else lockJudge st space lo n l
    else lockJudge st space lo n l

/-- Runs an access unless a range lock traps or holds it (R135). -/
def State.locked (s : State) (st : Bool) (space lo n va : Nat) (k : Out) : Out :=
  match lockJudge st space lo n s.locks with
  | .ok => k
  | .trap i => .next (s.takeTrap { cause := 0x0B, addr := va, detail := s.lockIndex i })
  | .wait slot gen last => .next (s.block (.watermark slot gen last))

/-! ## Checks of a thread access to view bytes -/

/-- The checks of a thread read of view bytes: window, ring, range lock, landing region. `va` is the virtual
address of the access. -/
def State.viewRead (s : State) (buf lo n va : Nat) (k : Out) : Out :=
  let c := s.h.t.scr
  if !c.inWindows buf lo n || c.onRing buf lo n then .next (s.scratchTrap va)
  else s.locked false (buf + 1) lo n va <|
    let ls := c.landings buf lo n
    if ls.any (fun w => w.lstate == .conflict) then .next (s.takeTrap { cause := 0x0C, addr := va, detail := 1 })
    else match ls.find? (fun w => w.lstate == .growing) with
      | some w => .next (s.block (.landing w.buf w.base va))
      | none => k

/-- The checks of a thread write of view bytes. -/
def State.viewWrite (s : State) (buf lo n va : Nat) (k : Out) : Out :=
  let c := s.h.t.scr
  if !c.inWindows buf lo n || c.onRing buf lo n || c.onArmed buf lo n || !(c.landings buf lo n).isEmpty then
    .next (s.scratchTrap va)
  else s.locked true (buf + 1) lo n va k

/-! ## Alias windows (R45 to R47) -/

/-- The view a window reaches. -/
def winBuf (w : Nat) : Nat := if w = 0 then 0 else if w ≤ 5 then 1 else 2

/-- The length of a window's region (Table 2.4). -/
def winLen (w : Nat) : Nat :=
  match w with
  | 0 => 0x300000
  | 1 => 0x180000
  | 2 => 0x300000
  | 3 => 0x300000
  | 4 => 0x600000
  | 5 => 0x600000
  | 6 => 0xC0000
  | _ => 0x60000

/-- Whether a window passes scalar accesses. -/
def winRaw (w : Nat) : Bool := w == 0 || w == 1 || w == 6

/-- The first view byte and the byte count that a 192-byte access at an offset reaches (Table 2.4). -/
def winReach (w o : Nat) : Nat × Nat :=
  match w with
  | 2 => (o / 4 * 2, 96)
  | 3 => (o / 4 * 2, 96)
  | 4 => (o / 4, 48)
  | 5 => (o / 4, 48)
  | 7 => (2 * o, 384)
  | _ => (o, 192)

/-- The alignment of a vector access through a window (Table 2.4), of the window offset (log 21). -/
def winAlign (w : Nat) : Nat := if winRaw w then 64 else 192

/-- Decoding on load (Table 2.5): the register that a vector load through a window returns, and its flags.
`v` holds the view bytes and `sc` the scale byte. -/
def winDecode (w v sc : Nat) : VWord × Flags :=
  let rne : RndMode := { rm := .rne, sat := .nosat }
  let of := fun (ow : Nat) (l : List (Nat × Flags)) => (ofLanes ow (l.map (·.1)), orFlags l)
  match w with
  | 2 => of 32 ((unpackCodes 16 v 48).map (fun x => (x * 2 ^ 16, 0)))
  | 3 => of 32 ((unpackCodes 16 v 48).map (widen fp16))
  | 4 => of 32 ((unpackCodes 8 v 48).map (widen e4m3))
  | 5 => of 32 ((unpackCodes 8 v 48).map (deqLane .b48e4m3 sc))
  | 7 => of 16 ((unpackCodes 32 v 96).map (fun x => bf16.round (fp32.value x) rne))
  | _ => (BitVec.ofNat 1536 v, 0)

/-- One lane of a store through the A.B48E4M3 window (Table 2.6): with a scale of 255 the NaN of the lane's
sign and no flag (log 97), otherwise x / 2^(s - 127) converted. -/
def encB48 (sc : Nat) (r : RndMode) (x : Nat) : Nat × Flags :=
  if sc = 255 then (x / 2 ^ 31 % 2 * 128 + 0x7F, 0)
  else e4m3.round ((fp32.value x).scale (127 - (sc : Int))) r

/-- Encoding on store (Table 2.6): the view bytes and the flags. -/
def winEncode (w sc : Nat) (v : VWord) (r : RndMode) : Nat × Flags :=
  let of := fun (ow : Nat) (l : List (Nat × Flags)) => (packCodes ow (l.map (·.1)), orFlags l)
  let l32 := lanes 32 48 v
  match w with
  | 2 => of 16 (l32.map (fun x => bf16.round (fp32.value x) r))
  | 3 => of 16 (l32.map (fun x => fp16.round (fp32.value x) r))
  | 4 => of 8 (l32.map (fun x => e4m3.round (fp32.value x) r))
  | 5 => of 8 (l32.map (encB48 sc r))
  | 7 => of 32 ((lanes 16 96 v).map (fun x => (x * 2 ^ 16, 0)))
  | _ => (v.toNat, 0)

/-! ## The spill map (R62) -/

/-- Bytes of a buffer that the threads of a core hold in windows. Those of a thread that has exited take no granules, also while
an operation it detached still uses them (log 93). -/
def State.bufUsed (s : State) (core buf : Nat) : Nat :=
  ((s.allHarts.filter (fun h => h.isThread && h.coreSlot.1 == core && h.stat != .exited)).flatMap (fun h => h.t.scr.wins)).foldl
    (fun a w => if w.buf = buf then a + w.len else a) 0

/-- The C granules of a core that lie in no window. -/
def State.freeGranules (s : State) (core : Nat) : Nat := (viewSize 2 - s.bufUsed core 2) / granule 2

/-- Whether a thread slot of a core holds no thread. -/
def State.slotIdle (s : State) (core k : Nat) : Bool :=
  !s.allHarts.any (fun h => h.id == .thread core k && h.stat != .exited)

/-- The places that the spill maps of a core's threads name. -/
def State.spillTaken (s : State) (core : Nat) : List SpillAt :=
  (s.allHarts.filter (fun h => h.isThread && h.coreSlot.1 == core)).flatMap (fun h => h.t.scr.spillMap.map (·.2))

/-- The place that the core chooses for a spill slot (R62): a register of an idle bank, a C granule in no window, which holds 21
slots, or device memory; the lowest of its kind (log 64). -/
def State.spillPlace (s : State) (core : Nat) : SpillAt :=
  let used := s.spillTaken core
  let bank := (countFrom 0 8).findSome? (fun k => if s.slotIdle core k then
    ((countFrom 0 32).find? (fun r => !used.contains (.bank k r))).map (fun r => SpillAt.bank k r) else none)
  let gran := (countFrom 0 (s.freeGranules core)).findSome? (fun g =>
    ((countFrom 0 21).find? (fun i => !used.contains (.granule g i))).map (fun i => SpillAt.granule g i))
  (bank.or gran).getD .memory

/-- The spill map of a hart with a place for a slot. -/
def Hart.putSpill (h : Hart) (slot : Nat) (p : SpillAt) : Hart :=
  h.setScr { h.t.scr with spillMap := assocSet slot p h.t.scr.spillMap }

/-- A spill slot of the issuing thread that has no place gets one. -/
def State.placeSpill (s : State) (slot : Nat) : State :=
  if s.h.t.scr.spillMap.any (fun x => x.1 == slot) then s
  else { s with h := s.h.putSpill slot (s.spillPlace s.h.coreSlot.1) }

/-- Whether a place of a core may no longer hold a spill slot. -/
def State.spillLost (s : State) (core : Nat) (p : SpillAt) : Bool :=
  match p with
  | .bank k _ => !s.slotIdle core k
  | .granule g _ => decide (s.freeGranules core ≤ g)
  | .memory => false

/-- Moves the spill slots of a core out of banks and granules that are claimed; their contents stay as they are (R62, R63). -/
def State.respill (s : State) (core : Nat) : State :=
  (s.allHarts.filter (fun h => h.isThread && h.coreSlot.1 == core)).foldl (fun t h =>
    (h.t.scr.spillMap.filter (fun x => t.spillLost core x.2)).foldl (fun u x =>
      let v := u.updHart h.id (fun g => g.setScr { g.t.scr with spillMap := assocDel x.1 g.t.scr.spillMap })
      v.updHart h.id (fun g => g.putSpill x.1 (v.spillPlace core))) t) s

end Sys2Proof.Machine
end

