-- ==== Sys2Proof/Machine/Access.lean ====
section
/-! DEFINITION. A thread's access to memory: wait fields, translation with its faults, journal refusals, and plain
reads and writes of bytes (R33, R34, R119 to R125, R296, R297). -/

namespace Sys2Proof.Machine

/-- The core state number of the issuing thread. -/
def State.coreId (s : State) : Nat := s.h.coreSlot.1

/-- The physical core the issuing thread runs on. -/
def State.phys (s : State) : Nat := s.physOf s.coreId

/-- The tag of the issuing thread's core state (R196). -/
def State.tag (s : State) : Nat :=
  match s.core? s.coreId with
  | some c => c.tag
  | none => 0

/-- The issuing thread as the sender of messages. -/
def State.me (s : State) : Who := .thread s.coreId s.h.coreSlot.2

/-- Holds the access until the counters of a wait field are zero (R119). -/
def State.held (s : State) (w : Nat) (k : Out) : Out :=
  if s.h.t.post.clear w then k else .next (s.block (.counters w))

/-- The wait field of an optional WAIT prefix. -/
def waitOfPfx (w : Option (Fin 4)) : Nat :=
  match w with
  | some v => v.val
  | none => 0

/-- Sends the fault message of an ABSENT page to the supervising rill core (R31). -/
def State.sendFault (s : State) (va : Nat) (a : Acc) : State :=
  s.send { src := s.me, ctx := s.h.task.ctx, dest := .node (physRill s.phys),
           body := .pageFault s.h.task.ctx va a s.me s.h.task.num }

/-- A lost item: the access fails, the fault is recorded, and the thread issues no more (R90, R395); `d0` says what was lost. -/
def State.lose (s : State) (va d0 : Nat) : Out :=
  .next (({ s with h := { s.h with stat := .stopped } }).raiseLoss s.h.task.ctx (s.pkgOf s.h) s.h.task.name va
    s.h.pc.toNat d0)

/-- An access of the issuing thread that blocks it (R28, R31, R33, R34): it waits behind the accesses that the core holds; an
ABSENT page is repaired while the thread is held, a HOST page waits for SEAL, and any other fault goes to `onFault` with its
code. A page that no region covers is answered NOREGION once the rill core has been asked. -/
def State.access (s : State) (va : Nat) (a : Acc) (onFault : Nat → State → Out) (k : Leaf → Nat → State → Out) : Out :=
  if s.h.t.post.later.isEmpty = false then .next (s.block .accesses)
  else
    let r := s.translate (some s.coreId) (physDie s.phys) s.h.task.ctx s.h.task.num va a
    match r.2 with
    | .ok l pa => k l pa r.1
    | .wait => .next (r.1.block (.seal va))
    | .lost pa => r.1.lose va (r.1.lossD0 pa 16)
    | .fault c =>
      if c = 1 then
        match s.regionOf s.h.task.ctx va with
        | none => if s.h.replay then onFault 3 r.1 else .next ((r.1.sendFault va a).block (.repair va))
        | some g => if g.kind = 4 then .next (r.1.block (.seal va)) else .next ((r.1.sendFault va a).block (.repair va))
      else onFault c r.1

/-- Delivery to a blocking access: the trap of R34. -/
def trapOn (va c : Nat) (s : State) : Out := .next (s.takeTrap (faultTrap c va))

/-! ## The journal (R121, R125) -/

/-- The lowest free entry of the journal. -/
def Posted.freeEntry (p : Posted) : Option Nat := (countFrom 0 16).find? (fun i => !(p.j.getD i {}).v)

/-- Replaces the posted state of a hart. -/
def Hart.setPost (h : Hart) (p : Posted) : Hart := { h with t := { h.t with post := p } }

/-- Sets a journal entry of a hart. -/
def Hart.setEntry (h : Hart) (i : Nat) (e : JEntry) : Hart :=
  h.setPost { h.t.post with j := h.t.post.j.setIfInBounds i e }

/-- The refusal context fault of a journal entry (R125, Table 16.4). -/
def State.entryFault (s : State) (h : Hart) (kind : Nat) (e : JEntry) : State :=
  s.raise h.task.ctx
    (faultRec kind (s.pkgOf h) h.task.name (e.addr % 2 ^ 57) e.gop e.gfound e.pc e.pjjs e.pjjg 0) false

/-- A refusal of a message of journal entry `i` of a hart (R121, R122): the first is recorded and raises the
refusal context fault; a later one adds only its lane. -/
def State.refuseEntry (s : State) (h : Hart) (i : Nat) (fault tcode lane addr gop gfound : Nat) : State × Hart :=
  let e := h.t.post.j.getD i {}
  let lanes := if e.lanes.testBit lane then e.lanes else e.lanes + 2 ^ lane
  if e.ref then (s, h.setEntry i { e with lanes := lanes })
  else
    let e' : JEntry := { e with v := true, ref := true, fault := fault, tcode := tcode, lanes := lanes, addr := addr,
                                gop := gop, gfound := gfound, stamp := s.work.nextOrder }
    let t := s.entryFault h 0x0B e'
    ({ t with work := { t.work with nextOrder := t.work.nextOrder + 1 } }, h.setEntry i e')

/-- A refusal of the issuing thread's own entry. -/
def State.refuseOwn (s : State) (i fault tcode lane addr gop gfound : Nat) : State :=
  let r := s.refuseEntry s.h i fault tcode lane addr gop gfound
  { r.1 with h := r.2 }

/-- The lowest refused entry of a journal. -/
def Posted.firstRefused (p : Posted) : Option Nat := (countFrom 0 16).find? (fun i => (p.j.getD i {}).ref)

/-- Whether every entry of a journal is refused. -/
def Posted.allRefused (p : Posted) : Bool := p.j.toList.all (·.ref)

/-- The posted-refusal trap of the issuing thread for entry `i` (R124). -/
def State.refusalTrap (s : State) (i : Nat) : State :=
  s.takeTrap { cause := 0x16, addr := (s.h.t.post.j.getD i {}).addr % 2 ^ 57, detail := i }

/-- An access that finds no free entry waits (R121); when every entry is refused, the posted-refusal trap is taken before it
issues (Table 5.7). -/
def State.noEntry (s : State) : Out :=
  if s.h.ctl.h = false ∧ s.h.t.post.allRefused then .next (s.refusalTrap (s.h.t.post.firstRefused.getD 0))
  else .next (s.block .journal)

/-! ## Caches and history (R83, R265, R339) -/

/-- The cluster of the issuing thread. -/
def State.cluster (s : State) : Nat := physCluster s.phys

/-- The lines that a cluster's cache holds: 8 MiB (Table 0.1). -/
def cacheLines : Nat := 131072

/-- The contents of a line as caches and cores see it. -/
def State.lineNow (s : State) (line : Nat) : Nat := Mem.readN s.mem (64 * line) 64

/-- Whether a write-back of a line is under way (R265). -/
def State.cleaning (s : State) (line : Nat) : Bool :=
  s.lat.writeBacks.any (fun w => w.lines.any (fun x => x.1 == line && x.2.isSome))

/-- A write-back with nothing of a line left to write. -/
def WriteBack.written (w : WriteBack) (line : Nat) : WriteBack :=
  { w with lines := updWhere (fun x => x.1 == line) (fun x => (x.1, none)) w.lines }

/-- What DRAM holds of a line that leaves the caches: a dirty one, or one whose write-back is under way, is written back; of a
clean one the contents of DRAM are what is read from then on (R104, R129). -/
def State.settleLine (s : State) (line : Nat) (dirty : Bool) : State :=
  match s.lat.dram.find? (fun d => d.1 == line) with
  | none => s
  | some d =>
    let t := { s with lat := { s.lat with dram := assocDel line s.lat.dram
                                          writeBacks := s.lat.writeBacks.map (fun w => w.written line) } }
    if dirty || s.cleaning line then t else { t with mem := Mem.writeN t.mem (64 * line) 64 d.2 }

/-- Whether an entry of a cache is of a plain line. -/
def CLine.plain (c : CLine) : Bool := c.gen.isNone

/-- Takes the entries of plain lines that meet a condition out of every cache; what they held settles in DRAM. -/
def State.uncache (s : State) (p : CLine → Bool) : State :=
  let gone := s.lat.cache.filter (fun c => c.plain && p c)
  let t := { s with lat := { s.lat with cache := s.lat.cache.filter (fun c => !(c.plain && p c)) } }
  gone.foldl (fun u c => if u.lat.cache.any (fun d => d.plain && d.line == c.line) then u
    else u.settleLine c.line (gone.any (fun d => d.line == c.line && d.dirty))) t

/-- One line of a CLEANR or INVALR is done (R265): the contents it had at the instruction are in DRAM, and INVALR removes it from
every cluster cache. -/
def State.lineDone (s : State) (inval : Bool) (x : Nat × Option Nat) : State :=
  let s1 := match x.2 with
    | some v => { s with lat := { s.lat with
        dram := if s.lineNow x.1 = v then assocDel x.1 s.lat.dram else assocSet x.1 v s.lat.dram } }
    | none => s
  if inval then
    let s2 := s1.uncache (fun c => c.line == x.1)
    { s2 with lat := { s2.lat with cache := s2.lat.cache.filter (fun c => c.line != x.1) } }
  else s1

/-- The maintenance of a line that is under way is done before the line is written (R265). -/
def State.maintainFirst (s : State) (line : Nat) : State :=
  let mine := s.lat.writeBacks.flatMap (fun w => (w.lines.filter (fun x => x.1 == line)).map (fun x => (w.inval, x)))
  let t := { s with lat := { s.lat with
    writeBacks := s.lat.writeBacks.map (fun w => { w with lines := w.lines.filter (fun x => x.1 != line) }) } }
  mine.foldl (fun u x => u.lineDone x.1 x.2) t

/-- Gives up the oldest line of a cluster whose cache is full, but for a dirty one that DRAM cannot take now (R1, R106, R420,
log 7). -/
def State.evict (s : State) (cluster : Nat) : State :=
  let mine := s.lat.cache.filter (fun c => c.cluster == cluster)
  if mine.length ≤ cacheLines then s
  else match mine.reverse.find? (fun c => !(c.dirty && s.dramWaits (c.cluster / 64) (64 * c.line))) with
    | none => s
    | some c => if c.plain then s.uncache (fun d => d.cluster == cluster && d.line == c.line)
      else { s with lat := { s.lat with cache := s.lat.cache.erase c } }

/-- Puts a plain line into a cluster's cache, or marks the entry that it has, as the newest one. -/
def State.touchLine (s : State) (cluster : Nat) (dirty : Bool) (line : Nat) : State :=
  let here := fun (c : CLine) => c.plain && c.cluster == cluster && c.line == line
  let old := (s.lat.cache.find? here).any (·.dirty)
  let e : CLine := { cluster := cluster, line := line, dirty := old || dirty }
  ({ s with lat := { s.lat with cache := e :: s.lat.cache.filter (fun c => !here c) } } : State).evict cluster

/-- What DRAM holds of the lines of a range stands apart from now on, since caches will hold other contents (R129). -/
def State.keepDram (s : State) (pa n : Nat) : State :=
  let add := fun (d : List (Nat × Nat)) (l : Nat) => if d.any (fun x => x.1 == l) then d else (l, s.lineNow l) :: d
  { s with lat := { s.lat with dram := (linesOf pa n).foldl add s.lat.dram } }

/-- Marks the lines of a physical range in a cluster's cache. -/
def State.touchIn (s : State) (cluster pa n : Nat) (dirty : Bool) : State :=
  (linesOf pa n).foldl (fun t l => t.touchLine cluster dirty l) s

/-- Writes bytes into the lines of a cluster's cache (R265, R330). -/
def State.putCached (s : State) (cluster pa n v : Nat) : State :=
  let t := ((linesOf pa n).foldl State.maintainFirst s).keepDram pa n
  (({ t with mem := Mem.writeN t.mem pa n v } : State).wrote pa n).touchIn cluster pa n true

/-- Marks the lines of a physical range in the issuing thread's cluster cache. -/
def State.touch (s : State) (pa n : Nat) (dirty : Bool) : State := s.touchIn s.cluster pa n dirty

/-- Whether a line of a range is in none of a cluster's cache entries and DRAM cannot give it now, so that its fill waits (R106,
R420). -/
def State.fillWaits (s : State) (cluster pa n : Nat) : Bool :=
  (linesOf pa n).any (fun l => s.dramWaits (cluster / 64) (64 * l) &&
    !s.lat.cache.any (fun c => c.plain && c.cluster == cluster && c.line == l))

/-- Whether a write of a range waits for DRAM: a line of it is to be filled, or its write-back is under way (R106, R265). -/
def State.storeWaits (s : State) (cluster pa n : Nat) : Bool :=
  s.fillWaits cluster pa n || (linesOf pa n).any (fun l => s.cleaning l && s.dramWaits (cluster / 64) (64 * l))

/-- Adds to the program-order history of the issuing thread. -/
def State.note (s : State) (e : Hist) : State := { s with h := { s.h with t := { s.h.t with hist := s.h.t.hist ++ [e] } } }

/-- What a plain access of a PRIV or CONST page leaves in the thread's history (R339). -/
def State.noteHist (s : State) (l : Leaf) (va n : Nat) (store : Bool) : State :=
  if l.kind = 1 then s.note (if store then .store va (va + n) else .load va (va + n)) else s

/-- What a load of a PRIV or CONST page leaves beside its data. -/
def State.noteAccess (s : State) (l : Leaf) (va pa n : Nat) : State := (s.touch pa n false).noteHist l va n false

/-- The offset of an address in the alias window that its region maps (R23). -/
def State.scrOffset (s : State) (va : Nat) : Nat :=
  match s.regionOf s.h.task.ctx va with
  | some r => va - r.base
  | none => 0

/-! ## Plain reads and writes -/

/-- Reads `n` bytes, within one page, as a load does (R296, Table 12.2). -/
def State.loadFrom (s : State) (va n : Nat) (k : Nat → State → Out) : Out :=
  s.locked false 0 va n va <|
    s.access va .load (trapOn va) fun l pa t =>
      if l.kind = 5 then
        if winRaw l.win then
          t.viewRead (winBuf l.win) (t.scrOffset va) n va
            (k (Mem.readN (t.h.t.scr.view (winBuf l.win)) (t.scrOffset va) n) t)
        else .next (t.misaligned va)
      else if t.isLost pa n then t.lose va (t.lossD0 pa n)
      else if t.fillWaits t.cluster pa n then .next (t.block (.bank pa))
      else k (Mem.readN t.mem pa n) (t.noteAccess l va pa n)

/-- Writes view bytes of the issuing thread. -/
def State.putView (s : State) (buf o n v : Nat) : State :=
  s.setScr (s.h.t.scr.setView buf (Mem.writeN (s.h.t.scr.view buf) o n v))

/-- Writes bytes of memory as a store does. -/
def State.putBytes (s : State) (l : Leaf) (va pa n v : Nat) : State :=
  (s.putCached s.cluster pa n v).noteHist l va n true

end Sys2Proof.Machine
end

