-- ==== Sys2Proof/Machine/Posted.lean ====
section
/-! DEFINITION. Posted accesses: the homes of cells, and the accesses that a core holds in issue order until they may go
(R24, R33, R112 to R114, R119 to R121, R297, R303 to R314). -/

namespace Sys2Proof.Machine

/-! ## Cell types (Table 3.1) -/

/-- The size of a cell in bytes; `sz` is the FILL size code. -/
def cellBytes (ty sz : Nat) : Nat :=
  match ty with
  | 5 => 64
  | 6 => 16
  | 8 => 8 * 2 ^ sz
  | 9 => 64
  | 10 => 16
  | _ => 8

/-- The bytes of a freeze unit (R65). -/
def unitBytes (ty sz : Nat) : Nat := max 64 (cellBytes ty sz)

/-- The freeze unit of a physical address on a page of a type. -/
def unitOf (ty sz pa : Nat) : Nat := pa / unitBytes ty sz * unitBytes ty sz

/-! ## Homes (R114, R122, R119, R24) -/

/-- Where an operation's home is: the message's destination, the physical address of the cell (the view offset
for a landing region), whether it is die-local, its posted-count class and its fence scope. -/
structure HomeAt where
  dest : Dest
  pa : Nat
  loc : Bool
  cls : Nat
  scope : Nat
  deriving DecidableEq, Repr

/-- The posted-count class of a package seen from another (R119). -/
def pkgClass (mine p : Nat) : Nat :=
  if p = mine then 1 else if p / Config.podSize = mine / Config.podSize then 2 else 3

/-- The fence scope of a package seen from another (Table 5.2). -/
def pkgScope (mine p : Nat) : Nat :=
  if p = mine then 3 else if p / Config.podSize = mine / Config.podSize then 4 else 5

/-- The home of a LAT cell seen from a physical core. -/
def latHome (phys ty sz pa : Nat) : HomeAt :=
  let here := paDie pa == physDie phys
  { dest := .unit (unitOf ty sz pa), pa := pa, loc := here, cls := pkgClass (physPkg phys) (paPkg pa),
    scope := if here then 2 else pkgScope (physPkg phys) (paPkg pa) }

/-- The gang of a number. -/
def State.gang? (s : State) (n : Nat) : Option Gang := s.work.gangs.find? (fun g => g.num == n)

/-- The task of a number. -/
def State.task? (s : State) (n : Nat) : Option Task := s.work.tasks.find? (fun t => t.num == n)

/-- The core state and slot of a gang member that is placed. -/
def State.memberAt (s : State) (gang rank : Nat) : Option (Nat × Nat) :=
  match s.gang? gang with
  | none => none
  | some g => match s.task? (nth g.members rank) with
    | some t => match t.st with
      | .placed c k => some (c, k)
      | _ => none
    | none => none

/-- The home of an operation to a gang member's view (R24), seen from a physical core and a core state. For a member that is
not placed or has exited the class is P, the scope PACKAGE, and the home not die-local (log 67). -/
def State.memberHome (s : State) (phys core gang rank buf off : Nat) : HomeAt :=
  match s.memberAt gang rank with
  | none => { dest := .member gang rank buf off, pa := off, loc := false, cls := 1, scope := 3 }
  | some (c, _) =>
    let p := s.physOf c
    let here := physDie p == physDie phys
    { dest := .member gang rank buf off, pa := off, loc := here, cls := pkgClass (physPkg phys) (physPkg p),
      scope := if c = core then 0 else if physCluster p = physCluster phys then 1 else if here then 2
               else pkgScope (physPkg phys) (physPkg p) }

/-- R24: the member view that an offset of the GANG region names. -/
def gangView (o : Nat) : Option (Nat × Nat) :=
  let m := o % 0x800000
  if m < 0x300000 then some (0, m)
  else if 0x400000 ≤ m ∧ m < 0x580000 then some (1, m - 0x400000)
  else none

/-- The resolution of R24 after the checks of R28 and R303: a home or a code of Table 1.6. -/
def State.gangHome (s : State) (va : Nat) : Except Nat HomeAt :=
  let o := s.scrOffset va
  match s.h.task.gang with
  | none => .error 8
  | some g =>
    let n := match s.gang? g with
      | some x => x.members.length
      | none => 0
    if n ≤ o / 0x800000 then .error 8
    else match gangView o with
      | none => .error 6
      | some (buf, off) => .ok (s.memberHome s.phys s.coreId g (o / 0x800000) buf off)

/-- What a lattice instruction asks of the page (R303): its cell type if it has one, the FILL size code that
must match, and whether a GANG page is permitted. -/
structure LatKind where
  ty : Option Nat
  sz : Option Nat
  gang : Bool
  deriving DecidableEq, Repr

/-- R303: whether a leaf is refused with PROT. -/
def LatKind.refuses (q : LatKind) (l : Leaf) : Bool :=
  if l.kind = 6 then
    !q.gang || (match q.ty with
      | some t => t != 8
      | none => false)
  else
    (match q.ty with
      | some t => t != l.ctype
      | none => false)
    || (match q.sz with
      | some z => l.ctype == 8 && l.csize != z
      | none => false)

/-- The home that a leaf gives a lattice operand, or a code of Table 1.6 (R303, R24). -/
def State.homeOn (s : State) (q : LatKind) (va : Nat) (l : Leaf) (pa : Nat) : Except Nat HomeAt :=
  if q.refuses l then .error 6
  else if l.kind = 6 then s.gangHome va
  else .ok (latHome s.phys l.ctype l.csize pa)

/-! ## Freeze units and their order (R113, R114) -/

/-- The region of a list of windows that covers a view offset. -/
def landAt (l : List Win) (buf off : Nat) : Option Win :=
  l.find? (fun w => w.land && w.buf == buf && decide (w.base ≤ off) && decide (off < w.base + w.len))

/-- What an exited member of a gang left. -/
def State.past? (s : State) (gang rank : Nat) : Option PastMember :=
  match s.gang? gang with
  | none => none
  | some g => g.past.find? (fun x => x.rank == rank)

/-- The first offset of the landing region that covers a place of a member's view, if one does. -/
def State.landBase (s : State) (gang rank buf off : Nat) : Option Nat :=
  match s.past? gang rank with
  | some x => (landAt x.wins buf off).map (·.base)
  | none => match s.memberAt gang rank with
    | some (c, k) => ((s.hart? (.thread c k)).bind (fun h => landAt h.t.scr.wins buf off)).map (·.base)
    | none => none

/-- Whether two messages go to one freeze unit: a unit of a LAT page, or one landing region. A place that no region covers yet
counts by itself; messages to several that one region comes to cover are applied in their thread's order (log 89). -/
def State.sameUnit (s : State) (a b : Dest) : Bool :=
  match a, b with
  | .unit x, .unit y => x == y
  | .member g r v o, .member h q w p => g == h && r == q && v == w && (o == p || ((s.landBase g r v o).isSome && s.landBase g r v o == s.landBase g r v p))
  | _, _ => false

/-- The number of the channel that homes a physical address, over the basin (R16). -/
def paHome (pa : Nat) : Nat := (paPkg pa * 16 + paStack pa) * 32 + paChannel pa

/-- The home that a destination's sequence numbers count for (R113). -/
def Dest.home (d : Dest) : Home :=
  match d with
  | .member g r _ _ => .member g r
  | .unit pa => .ju (paHome pa)
  | _ => .ju 0

/-- Whether a unit's home is die-local to a physical core (R114). -/
def State.dieLocal (s : State) (phys : Nat) (d : Dest) : Bool :=
  match d with
  | .unit pa => paDie pa == physDie phys
  | .member g r _ _ => match s.memberAt g r with
    | some (c, _) => physDie (s.physOf c) == physDie phys
    | none => false
  | _ => false

/-- The updates of R112. -/
def LKind.isUpdate (k : LKind) : Bool := k == .join || k == .fill || k == .renew

/-- Whether a message of a thread to a unit stays in its core (R113): an earlier one to the unit has no reply, and it left on
the other channel or the home is not die-local. -/
def State.mustStay (s : State) (h : Hart) (d : Dest) (upd : Bool) : Bool :=
  h.t.post.sent.any (fun x => s.sameUnit x.dest d && (x.upd != upd || !s.dieLocal (s.physOf h.coreSlot.1) d))

/-- The next sequence number of a thread for a home. -/
def Posted.seqOf (p : Posted) (k : Home) : Nat := ((p.seqs.find? (fun x => x.1 == k)).map (·.2)).getD 0

/-- One more message of a thread to a home. -/
def Posted.bumpSeq (p : Posted) (k : Home) : Posted :=
  { p with seqs := (k, p.seqOf k + 1) :: p.seqs.filter (fun x => x.1 != k) }

/-- The home of a destination, seen from the issuing thread. -/
def State.homeNow (s : State) (d : Dest) (ty sz : Nat) : HomeAt :=
  match d with
  | .unit pa => latHome s.phys ty sz pa
  | .member g r b o => s.memberHome s.phys s.coreId g r b o
  | _ => { dest := d, pa := 0, loc := false, cls := 0, scope := 0 }

/-! ## Sending (R112, R113, R119) -/

/-- A posted counter after one more message of its class (R119). -/
def Posted.count (p : Posted) (cls : Nat) : Posted :=
  match cls with
  | 1 => { p with p := p.p + 1 }
  | 2 => { p with f := p.f + 1 }
  | 3 => { p with b := p.b + 1 }
  | _ => p

/-- A request as it is sent: every member has the class and locality of the home, and the thread's number for it. -/
def LReq.stamp (r : LReq) (h : HomeAt) (k : Home) (n : Nat) : LReq :=
  { r with members := r.members.map (fun m => { m with cls := h.cls, loc := h.loc, seq := n, home := some k }) }

/-- Sends one message of a posted instruction; the counter of its class counts it. -/
def State.sendPosted (s : State) (o : Outgoing) : State :=
  let h := s.homeNow o.dest o.req.ty o.req.sz
  let k := o.dest.home
  let n := s.h.t.post.seqOf k
  let p := (s.h.t.post.bumpSeq k).count h.cls
  let p' := { p with sent := p.sent ++ [{ dest := o.dest, upd := o.req.kind.isUpdate, home := k, seq := n }] }
  ({ s with h := s.h.setPost p' }).send
    { src := s.me, ctx := s.h.task.ctx, dest := o.dest, body := .lat (o.req.stamp h k n) }

/-- Sends messages in their order until one must stay; those that are left. -/
def State.sendOuts : List Outgoing → State → State × List Outgoing
  | [], s => (s, [])
  | o :: l, s => if s.mustStay s.h o.dest o.req.kind.isUpdate then (s, o :: l) else State.sendOuts l (s.sendPosted o)

/-- A refusal that is known at the issuer: its lane, address, code and the generation carried. -/
structure LocalRef where
  lane : Nat
  va : Nat
  code : Nat
  gen : Nat
  deriving DecidableEq, Repr

/-- The narrowest scope of some homes (Table 5.1); 0 when there is none (log 68). -/
def State.scopeOf (s : State) (outs : List Outgoing) : Nat :=
  ((outs.map (fun o => (s.homeNow o.dest o.req.ty o.req.sz).scope)).min?).getD 0

/-- What a posted instruction reaches is known: its local refusals enter the journal, entry `i` counts its messages with the
narrowest scope of their homes, and one with no message and no refusal is free again (R121, R305, R311). An instruction whose
refusals are all known at the issuer has HSCOPE and GFOUND 0 (log 68). -/
def State.post (s : State) (i : Nat) (refs : List LocalRef) (outs : List Outgoing) : State :=
  let s1 := refs.foldl (fun t r => t.refuseOwn i 4 r.code r.lane r.va r.gen 0) s
  let e := s1.h.t.post.j.getD i {}
  if outs.isEmpty ∧ e.ref = false then { s1 with h := s1.h.setEntry i {} }
  else { s1 with h := s1.h.setEntry i { e with out := outs.length, hscope := s1.scopeOf outs } }

/-! ## The accesses that a core holds (R33) -/

/-- What the translation of a held access ends in: a leaf with the physical address, a code of Table 1.6 that is not repaired,
or the access stays, as it is now known. -/
inductive LRes where
  | ok (l : Leaf) (pa : Nat)
  | code (c : Nat)
  | stay (l : Later)
  deriving DecidableEq, Repr

/-- Translates an address of a held access (R28, R31, R33): for an ABSENT page the rill core is asked once; a HOST page waits
for SEAL; one that meets a lost line of a table stays, and its context stops (R90). -/
def State.laterTrans (s : State) (l : Later) (va : Nat) (a : Acc) : State × LRes :=
  let r := s.translate (some s.coreId) (physDie s.phys) s.h.task.ctx s.h.task.num va a
  match r.2 with
  | .ok lf pa => (r.1, .ok lf pa)
  | .wait => (r.1, .stay l)
  | .lost pa => (r.1.raiseLoss s.h.task.ctx (s.pkgOf s.h) s.h.task.name va l.pc (s.lossD0 pa 16), .stay l)
  | .fault c =>
    if c ≠ 1 then (r.1, .code c)
    else if (s.regionOf s.h.task.ctx va).any (fun g => g.kind == 4) then (r.1, .stay l)
    else if (s.regionOf s.h.task.ctx va).isNone ∧ l.told.contains va = true then (r.1, .code 3)
    else if l.ask.isSome then (r.1, .stay l)
    else (r.1.sendFault va a, .stay { l with ask := some va })

/-- What a held access reaches once every address of it is known: its refusals and its messages, or it stays. -/
inductive Reach where
  | all (refs : List LocalRef) (outs : List Outgoing)
  | stay (l : Later)
  deriving DecidableEq, Repr

/-- What a lattice instruction asks of the page of a cell (R303). -/
def LKind.asks (k : LKind) (ty sz : Nat) : LatKind :=
  { ty := some ty, sz := if k = .fill then some sz else none, gang := k != .join }

/-- One cell of a held access: its member, with its home's message. -/
def State.reachCell (s : State) (l : Later) (kind : LKind) (ty sz gen va v : Nat) : State × Reach :=
  let r := s.laterTrans l va .latUpdate
  let no := fun (c : Nat) => Reach.all [{ lane := 0, va := va, code := c, gen := gen }] []
  match r.2 with
  | .stay x => (r.1, .stay x)
  | .code c => (r.1, no c)
  | .ok lf pa => match r.1.homeOn (kind.asks ty sz) va lf pa with
    | .error c => (r.1, no c)
    | .ok h =>
      let m : Member := { who := r.1.me, entry := l.entry, pc := l.pc, va := va, pa := h.pa, v := v }
      (r.1, .all [] [{ dest := h.dest, req := { kind := kind, ty := ty, sz := sz, gen := gen, members := [m] } }])

/-- Adds a lane's member to the message of its unit, or starts one (R305). -/
def addLane (ty gen : Nat) (d : Dest) (m : Member) : List Outgoing → List Outgoing
  | [] => [{ dest := d, req := { kind := .join, ty := ty, gen := gen, members := [m] } }]
  | o :: l =>
    if o.dest = d then { o with req := { o.req with members := o.req.members ++ [m] } } :: l
    else o :: addLane ty gen d m l

/-- The lanes of a JOINV in ascending order (R305, R306). -/
def State.reachLanes (l : Later) (ty gen : Nat) : List (Nat × Nat × Nat) → List LocalRef → List Outgoing → State → State × Reach
  | [], refs, outs, s => (s, .all refs outs)
  | (ln, va, v) :: rest, refs, outs, s =>
    let r := s.laterTrans l va .latUpdate
    let no := fun (c : Nat) => refs ++ [{ lane := ln, va := va, code := c, gen := gen }]
    match r.2 with
    | .stay x => (r.1, .stay x)
    | .code c => State.reachLanes l ty gen rest (no c) outs r.1
    | .ok lf pa => match r.1.homeOn { ty := some ty, sz := none, gang := false } va lf pa with
      | .error c => State.reachLanes l ty gen rest (no c) outs r.1
      | .ok h =>
        let m : Member := { who := r.1.me, entry := l.entry, pc := l.pc, lane := ln, va := va, pa := h.pa, v := v }
        State.reachLanes l ty gen rest refs (addLane ty gen h.dest m outs) r.1

/-- The first address of the page after the one an address lies in. -/
def Leaf.stop (l : Leaf) : Nat := l.va + pageBytes l.size

/-- The messages of FREEZE.R to the units of one page that meet [lo, hi) of it (R311). -/
def pageFreezes (who : Who) (i pc gen : Nat) (l : Leaf) (lo hi : Nat) : List Outgoing :=
  let n := unitBytes l.ctype l.csize
  let u0 := (l.pa + (lo - l.va)) / n
  let u1 := (l.pa + (hi - 1 - l.va)) / n
  (countFrom u0 (u1 + 1 - u0)).map (fun u =>
    let m : Member := { who := who, entry := i, pc := pc, va := l.va + (u * n - l.pa), pa := u * n }
    { dest := .unit (u * n), req := { kind := .freeze, ty := l.ctype, sz := l.csize, gen := gen, members := [m] } })

/-- The pages of a range in turn (R311); the fuel is the number of 4 KiB pieces. -/
def State.reachRange (l : Later) (gen hi : Nat) : Nat → Nat → List LocalRef → List Outgoing → State → State × Reach
  | 0, _, refs, outs, s => (s, .all refs outs)
  | n + 1, va, refs, outs, s =>
    if hi ≤ va then (s, .all refs outs)
    else
      let next := match s.regionOf s.h.task.ctx va with
        | some r => va / pageBytes r.psize * pageBytes r.psize + pageBytes r.psize
        | none => va / 4096 * 4096 + 4096
      let r := s.laterTrans l va .latUpdate
      let no := fun (c : Nat) => refs ++ [{ lane := 0, va := va, code := c, gen := gen }]
      match r.2 with
      | .stay x => (r.1, .stay x)
      | .code c => State.reachRange l gen hi n next (no c) outs r.1
      | .ok lf _ =>
        if lf.kind = 6 then State.reachRange l gen hi n next (no 6) outs r.1
        else State.reachRange l gen hi n lf.stop refs (outs ++ pageFreezes r.1.me l.entry l.pc gen lf va (min hi lf.stop)) r.1

/-- What a held access reaches. -/
def State.reach (s : State) (l : Later) : State × Reach :=
  match l.what with
  | .cell kind ty sz gen va v => s.reachCell l kind ty sz gen va v
  | .lanes ty gen ls => State.reachLanes l ty gen ls [] [] s
  | .range gen lo hi => State.reachRange l gen hi ((hi - lo) / 4096 + 2) lo [] [] s
  | .store _ _ _ => (s, .all [] [])
  | .send outs => (s, .all [] outs)

/-- A plain store that is refused takes the lowest free journal entry when the fault is known, and waits for one (R297). -/
def State.refuseStore (s : State) (l : Later) (va code : Nat) : State × Option Later :=
  match s.h.t.post.freeEntry with
  | none => (s, some l)
  | some i =>
    let s1 := { s with h := s.h.setEntry i { v := true, pc := l.pc } }
    (s1.refuseOwn i 4 code 0 va 0 0, none)

/-- Writes `n` bytes of one page and of the next, as a store does. -/
def State.putSplit (s : State) (va n v : Nat) (l : Leaf) (pa : Nat) (two : Option (Leaf × Nat)) : State :=
  match two with
  | none => s.putBytes l va pa n v
  | some (l2, pa2) =>
    let k := l.stop - va
    (s.putBytes l va pa k (v % 2 ^ (8 * k))).putBytes l2 l.stop pa2 (n - k) (v / 2 ^ (8 * k))

/-- The bytes of a store are known to go to one page or to two: it stays while a bank unit holds the bank of a line (R106), and
otherwise writes them. -/
def State.landStore (s : State) (l : Later) (va n v : Nat) (lf : Leaf) (pa : Nat) (two : Option (Leaf × Nat)) : State × Option Later :=
  let k := if two.isNone then n else lf.stop - va
  if s.storeWaits s.cluster pa k then (s, some { l with bank := some pa })
  else match two with
    | some (_, pa2) => if s.storeWaits s.cluster pa2 (n - k) then (s, some { l with bank := some pa2 })
      else (s.putSplit va n v lf pa two, none)
    | none => (s.putSplit va n v lf pa none, none)

/-- A plain store (R297): it writes its bytes, is refused through the journal, or stays. A second page that is no page of
memory beside memory is refused with PROT (log 21). -/
def State.turnStore (s : State) (l0 : Later) (va n v : Nat) : State × Option Later :=
  let l := { l0 with bank := none }
  let r := s.laterTrans l va .store
  match r.2 with
  | .stay x => (r.1, some x)
  | .code c => r.1.refuseStore l va c
  | .ok lf pa =>
    if va + n ≤ lf.stop then r.1.landStore l va n v lf pa none
    else
      let q := r.1.laterTrans l lf.stop .store
      match q.2 with
      | .stay x => (q.1, some x)
      | .code c => q.1.refuseStore l va c
      | .ok l2 pa2 => if l2.kind = 5 then q.1.refuseStore l va 6 else q.1.landStore l va n v lf pa (some (l2, pa2))

/-- What becomes of the oldest held access: nothing is left of it, or it stays as it is now known. -/
def State.turn (s : State) (l : Later) : State × Option Later :=
  match l.what with
  | .store va n v => s.turnStore l va n v
  | .send outs =>
    let r := State.sendOuts outs s
    (r.1, if r.2.isEmpty then none else some { l with what := .send r.2 })
  | _ => match s.reach l with
    | (t, .stay x) => (t, some x)
    | (t, .all refs outs) => (t.post l.entry refs outs, if outs.isEmpty then none else some { l with what := .send outs })

/-- Replaces the held accesses of the issuing thread. -/
def State.setLater (s : State) (l : List Later) : State := { s with h := s.h.setPost { s.h.t.post with later := l } }

/-- Lets the held accesses go, oldest first, until one stays; the fuel bounds the turns. -/
def State.runLater : Nat → State → State
  | 0, s => s
  | n + 1, s => match s.h.t.post.later with
    | [] => s
    | l :: rest =>
      let r := s.turn l
      match r.2 with
      | none => State.runLater n (r.1.setLater rest)
      | some x => if x.what = l.what then r.1.setLater (x :: rest) else State.runLater n (r.1.setLater (x :: rest))

/-- The held accesses of the issuing thread that may go, go; those of a context that stops stay (R398). -/
def State.flush (s : State) : State :=
  if s.h.t.post.later.isEmpty || s.isStopping s.h.task.ctx then s else State.runLater (3 * s.h.t.post.later.length) s

/-- The issuing thread gives an access to its core, which lets it go when every earlier one has gone (R33). -/
def State.give (s : State) (l : Later) : State := (s.setLater (s.h.t.post.later ++ [l])).flush

/-- Does something as another hart would, and makes the issuing one so again. -/
def State.onHart (s : State) (id : HartId) (f : State → State) : State :=
  if s.h.id = id then f s else (f (s.switchTo id)).switchTo s.h.id

/-- The held accesses of a thread that may go, go. -/
def State.flushAt (s : State) (id : HartId) : State :=
  match s.hart? id with
  | some h => if h.t.post.later.isEmpty then s else s.onHart id State.flush
  | none => s

/-- The held accesses of every thread of a context that may go, go. -/
def State.flushCtx (s : State) (ctx : Nat) : State :=
  (s.allHarts.filter (fun h => h.isThread && h.task.ctx == ctx && !h.t.post.later.isEmpty)).foldl (fun t h => t.flushAt h.id) s

/-- The held accesses that wait for a bank go on where they may (R106). -/
def State.bankFreed (s : State) : State :=
  (s.allHarts.filter (fun h => h.isThread && h.t.post.later.any (·.bank.isSome))).foldl (fun t h => t.flushAt h.id) s

/-- WRC (R262): an unlisted number is illegal; TEPC, TCAUSE and TADDR outside a handler are privileged. An access that waited
for a journal entry goes when the write frees one (R297). -/
def execWrc (cr : Fin 512) (a : Fin 32) (s : State) : Out :=
  match s.h.readCr cr.val with
  | none => .next s.illegal
  | some _ =>
    if isHandlerReg cr.val && !s.h.ctl.h then .next s.privilege
    else .next (({ s with h := s.h.writeCr cr.val (s.x a) } : State).flush).retire

/-! ## Plain stores (R296, R297) -/

/-- Whether an address lies in a region that maps an alias window (R23). -/
def State.onScr (s : State) (va : Nat) : Bool := (s.regionOf s.h.task.ctx va).any (fun r => r.kind == 5)

/-- The core takes a plain store in, and the group retires (R297). -/
def State.giveStore (s : State) (va n v : Nat) : Out := .next (s.give { entry := 0, pc := s.h.pc.toNat, what := .store va n v }).retire

/-- Writes `n` bytes, within one page, as a store does (R296, R297): through a window the store blocks until its checks are
complete, and every fault traps; to any other page the core has it, and the thread goes on. -/
def State.storeTo (s : State) (va n v : Nat) : Out :=
  s.locked true 0 va n va <|
    if s.onScr va then
      s.access va .store (trapOn va) fun l pa t =>
        if l.kind = 5 then
          if winRaw l.win then
            t.viewWrite (winBuf l.win) (t.scrOffset va) n va
              (.next (t.putView (winBuf l.win) (t.scrOffset va) n v).retire)
          else .next (t.misaligned va)
        else .next (t.putBytes l va pa n v).retire
    else s.giveStore va n v

/-! ## Posted lattice instructions -/

/-- Takes the lowest free journal entry, once for the group (R121, R302). -/
def State.takeEntry (s : State) (k : Nat → State → Out) : Out :=
  match s.h.t.pj with
  | some i => k i s
  | none => match s.h.t.post.freeEntry with
    | none => s.noEntry
    | some i =>
      let h := s.h.setEntry i { v := true, pc := s.h.pc.toNat }
      k i { s with h := { h with t := { h.t with pj := some i } } }

/-- A posted lattice instruction retires: its core has the access. -/
def State.posted (s : State) (i : Nat) (what : LaterOp) : Out :=
  .next (s.give { entry := i, pc := s.h.pc.toNat, what := what }).retire

/-- A posted instruction whose address is not canonical is refused whole through the journal (R302 order 5, R34). -/
def State.postNoncanon (s : State) (va gen : Nat) : Out :=
  s.takeEntry fun i t => .next (t.post i [{ lane := 0, va := va, code := 0, gen := gen }] []).retire

end Sys2Proof.Machine
end

