-- ==== Sys2Proof/Machine/MemInstr.lean ====
section
/-! DEFINITION. Plain loads, stores, prefetch, vector loads and stores, spills, and the memory fences and cache
maintenance (R128, R129, R264, R265, R290 to R298). FENCE.K is in Token.lean. -/

namespace Sys2Proof.Machine

/-- The virtual address of an I-form access (R296). -/
def State.va (s : State) (a : Fin 32) (imm : BitVec 34) : Nat := (s.x a + imm64 imm).toNat

/-- A load of `n` bytes (R296). -/
def State.ld (s : State) (w : Option (Fin 4)) (d a : Fin 32) (imm : BitVec 34) (n : Nat) (ext : Nat → Word) : Out :=
  if s.va a imm % n ≠ 0 then .next (s.misaligned (s.va a imm))
  else s.held (waitOfPfx w) (s.loadFrom (s.va a imm) n fun v t => t.result d (ext v))

/-- A store of the low `n` bytes (R296). -/
def State.st (s : State) (w : Option (Fin 4)) (r a : Fin 32) (imm : BitVec 34) (n : Nat) : Out :=
  if s.va a imm % n ≠ 0 then .next (s.misaligned (s.va a imm))
  else s.held (waitOfPfx w) (s.storeTo (s.va a imm) n ((s.x r).toNat % 2 ^ (8 * n)))

/-- Sign extension of `n` bits. -/
def sextW (n v : Nat) : Word := BitVec.ofInt 64 (sextNat v n)

/-- LD.I8 (R296). -/
def execLdI8 (w : Option (Fin 4)) (d a : Fin 32) (imm : BitVec 34) (s : State) : Out :=
  s.ld w d a imm 1 (sextW 8)

/-- LD.N8 (R296). -/
def execLdN8 (w : Option (Fin 4)) (d a : Fin 32) (imm : BitVec 34) (s : State) : Out :=
  s.ld w d a imm 1 (BitVec.ofNat 64)

/-- LD.I16 (R296). -/
def execLdI16 (w : Option (Fin 4)) (d a : Fin 32) (imm : BitVec 34) (s : State) : Out :=
  s.ld w d a imm 2 (sextW 16)

/-- LD.N16 (R296). -/
def execLdN16 (w : Option (Fin 4)) (d a : Fin 32) (imm : BitVec 34) (s : State) : Out :=
  s.ld w d a imm 2 (BitVec.ofNat 64)

/-- LD.I32 (R296). -/
def execLdI32 (w : Option (Fin 4)) (d a : Fin 32) (imm : BitVec 34) (s : State) : Out :=
  s.ld w d a imm 4 (sextW 32)

/-- LD.N32 (R296). -/
def execLdN32 (w : Option (Fin 4)) (d a : Fin 32) (imm : BitVec 34) (s : State) : Out :=
  s.ld w d a imm 4 (BitVec.ofNat 64)

/-- LD.64 (R296). -/
def execLd64 (w : Option (Fin 4)) (d a : Fin 32) (imm : BitVec 34) (s : State) : Out :=
  s.ld w d a imm 8 (BitVec.ofNat 64)

/-- ST.8 (R296). -/
def execSt8 (w : Option (Fin 4)) (r a : Fin 32) (imm : BitVec 34) (s : State) : Out := s.st w r a imm 1

/-- ST.16 (R296). -/
def execSt16 (w : Option (Fin 4)) (r a : Fin 32) (imm : BitVec 34) (s : State) : Out := s.st w r a imm 2

/-- ST.32 (R296). -/
def execSt32 (w : Option (Fin 4)) (r a : Fin 32) (imm : BitVec 34) (s : State) : Out := s.st w r a imm 4

/-- ST.64 (R296). -/
def execSt64 (w : Option (Fin 4)) (r a : Fin 32) (imm : BitVec 34) (s : State) : Out := s.st w r a imm 8

/-- Whether a range lock under which the operation writes covers an address (R339). -/
def State.writeLocked (s : State) (va : Nat) : Bool :=
  s.locks.any (fun e => e.2.space == 0 && e.2.dir && decide (e.2.start ≤ va) && decide (va < e.2.stop))

/-- PRF (R298): no trap, no repair and no visible change; the line of a PRIV or CONST page may come into the
cluster cache. The WAIT prefix still holds the thread. -/
def execPrf (w : Option (Fin 4)) (a : Fin 32) (imm : BitVec 34) (s : State) : Out :=
  s.held (waitOfPfx w) <|
    let va := s.va a imm
    let r := s.translate (some s.coreId) (physDie s.phys) s.h.task.ctx s.h.task.num va .load
    match r.2 with
    | .ok l pa => if l.kind = 5 ∨ s.writeLocked va then .next s.retire else .next (r.1.noteAccess l va pa 1).retire
    | _ => .next s.retire

/-! ## Vector loads and stores (R290, R291) -/

/-- The second page of an access of `n` bytes that spans two (R290): it is translated too, and one that is
not scratchpad beside scratchpad, or the other way round, is refused with PROT (log 21). -/
def State.secondPage (s : State) (va n : Nat) (a : Acc) (l : Leaf) (onFault : Nat → Nat → State → Out)
    (k : Option (Leaf × Nat) → State → Out) : Out :=
  if va + n ≤ l.stop then k none s
  else s.access l.stop a (onFault l.stop) fun l2 pa2 t =>
    if (l.kind == 5) = (l2.kind == 5) then k (some (l2, pa2)) t else onFault l.stop 6 t

/-- The bytes of a 192-byte access over one page or two. -/
def State.bytes192 (s : State) (va : Nat) (l : Leaf) (pa : Nat) (two : Option (Leaf × Nat)) : Nat :=
  match two with
  | none => Mem.readN s.mem pa 192
  | some (_, pa2) =>
    let n := l.stop - va
    Mem.readN s.mem pa n + 2 ^ (8 * n) * Mem.readN s.mem pa2 (192 - n)

/-- Notes a 192-byte load over one page or two. -/
def State.note192 (s : State) (va : Nat) (l : Leaf) (pa : Nat) (two : Option (Leaf × Nat)) : State :=
  match two with
  | none => s.noteAccess l va pa 192
  | some (l2, pa2) =>
    let n := l.stop - va
    (s.noteAccess l va pa n).noteAccess l2 l.stop pa2 (192 - n)

/-- Whether a line of a 192-byte access is lost. -/
def State.lost192 (s : State) (va : Nat) (l : Leaf) (pa : Nat) (two : Option (Leaf × Nat)) : Bool :=
  match two with
  | none => s.isLost pa 192
  | some (_, pa2) => s.isLost pa (l.stop - va) || s.isLost pa2 (192 - (l.stop - va))

/-- Whether a cache fill of a 192-byte load waits for a bank (R106). -/
def State.fill192 (s : State) (va : Nat) (l : Leaf) (pa : Nat) (two : Option (Leaf × Nat)) : Bool :=
  match two with
  | none => s.fillWaits s.cluster pa 192
  | some (_, pa2) => s.fillWaits s.cluster pa (l.stop - va) || s.fillWaits s.cluster pa2 (192 - (l.stop - va))

/-- The scale byte that a window reads, with the view offset it lies at (Table 2.4). -/
def State.scaleAt (s : State) (o : Nat) : Nat := s.h.ctl.sptr.toNat + o / 192

/-- A vector load through an alias window (R45, R46): the alignment, the checks of every view byte it reaches,
and the decoding. -/
def State.vldWin (s : State) (win o va : Nat) (k : VWord × Flags → Out) : Out :=
  if o % winAlign win ≠ 0 then .next (s.misaligned va)
  else
    let r := winReach win o
    let a := s.h.t.scr.view (winBuf win)
    s.viewRead (winBuf win) r.1 r.2 va <|
      if win = 5 then
        s.viewRead 1 (s.scaleAt o) 1 va (k (winDecode win (Mem.readN a r.1 r.2) (Mem.read a (s.scaleAt o)).toNat))
      else k (winDecode win (Mem.readN a r.1 r.2) 0)

/-- VLD (R290). A fault of the second page names that page's first byte (log 101). -/
def execVld (w : Option (Fin 4)) (d a : Fin 32) (imm : BitVec 34) (s : State) : Out :=
  let va := s.va a imm
  s.withPops [d] [] fun s =>
    if va % 64 ≠ 0 then .next (s.misaligned va)
    else s.held (waitOfPfx w) <| s.locked false 0 va 192 va <|
      s.access va .load (trapOn va) fun l pa t =>
        t.secondPage va 192 .load l (fun b c => trapOn b c) fun two t =>
          if l.kind = 5 then
            t.vldWin l.win (t.scrOffset va) va fun p => .next ((t.setV d p.1).addFlags none p.2).retire
          else if t.lost192 va l pa two then t.lose va (t.lossD0 pa 192 ||| (two.map (fun x => t.lossD0 x.2 192)).getD 0)
          else if t.fill192 va l pa two then .next (t.block (.bank pa))
          else .next ((t.note192 va l pa two).setV d (BitVec.ofNat 1536 (t.bytes192 va l pa two))).retire

/-- A vector store through an alias window (R47): the scale byte is read, not written. -/
def State.vstWin (s : State) (win o va : Nat) (k : Nat → Out) : Out :=
  if o % winAlign win ≠ 0 then .next (s.misaligned va)
  else
    let r := winReach win o
    s.viewWrite (winBuf win) r.1 r.2 va <|
      if win = 5 then
        s.viewRead 1 (s.scaleAt o) 1 va (k (Mem.read (s.h.t.scr.view 1) (s.scaleAt o)).toNat)
      else k 0

/-- VST (R291): through a window every fault traps and names the operand address, also one of the second page (log 101); to any other
page the core takes the store in (R297). -/
def execVst (w : Option (Fin 4)) (rnd : Option Rnd) (r a : Fin 32) (imm : BitVec 34) (s : State) : Out :=
  let va := s.va a imm
  if va % 64 ≠ 0 then .next (s.misaligned va)
  else s.held (waitOfPfx w) <| s.locked true 0 va 192 va <|
    if s.onScr va then
      s.access va .store (trapOn va) fun l _ t =>
        t.secondPage va 192 .store l (fun _ c => trapOn va c) fun _ t =>
          t.vstWin l.win (t.scrOffset va) va fun sc =>
            t.withPops [] [r] fun u =>
              let e := winEncode l.win sc (u.v r) (u.rnd rnd)
              let q := winReach l.win (u.scrOffset va)
              .next ((u.putView (winBuf l.win) q.1 q.2 e.1).addFlags rnd e.2).retire
    else s.withPops [] [r] fun u => u.giveStore va 192 (u.v r).toNat

/-- VSPILL (R293): a slot above 63 is illegal; one that had no place gets one (R62). -/
def execVspill (a : Fin 32) (slot : Fin 512) (s : State) : Out :=
  if 63 < slot.val then .next s.illegal
  else s.withPops [] [a] fun t =>
    .next ((t.setScr { t.h.t.scr with spill := assocSet slot.val (t.v a) t.h.t.scr.spill }).placeSpill slot.val).retire

/-- VFILL (R293): a slot never written reads as zero. -/
def execVfill (d : Fin 32) (slot : Fin 512) (s : State) : Out :=
  if 63 < slot.val then .next s.illegal
  else s.withPops [d] [] fun t => t.vresult d (assocGet 0 slot.val t.h.t.scr.spill)

/-! ## Fences and maintenance -/

/-- Whether a held access is a plain store. -/
def Later.isStore (l : Later) : Bool :=
  match l.what with
  | .store _ _ _ => true
  | _ => false

/-- Whether a held access is a lattice operation whose homes are not known yet. -/
def Later.unresolved (l : Later) : Bool :=
  match l.what with
  | .store _ _ _ => false
  | .send _ => false
  | _ => true

/-- Whether every journal entry within a scope has all its replies (R128); an operation that the core holds and whose homes are
not known counts in every scope (R33). -/
def Posted.quietIn (p : Posted) (scope : Nat) : Bool :=
  p.j.toList.all (fun e => !e.v || decide (scope < e.hscope) || e.out == 0) && !p.later.any (·.unresolved)

/-- FENCE.J (R128). -/
def execFenceJ (scope : Fin 8) (s : State) : Out :=
  if 5 < scope.val then .next s.illegal
  else if s.h.t.post.quietIn scope.val then .next s.retire
  else .next (s.block (.fenceJ scope.val))

/-- Whether a hart has a write-back or removal under way (R129). -/
def State.writingBack (s : State) (id : HartId) : Bool := s.lat.writeBacks.any (fun w => w.hart == id)

/-- Whether a FENCE.M of a hart still waits (R129): its core holds a store, or, for the wide scopes, maintenance is under way. -/
def State.fenceMWaits (s : State) (h : Hart) (wide : Bool) : Bool :=
  h.t.post.later.any (·.isStore) || (wide && s.writingBack h.id)

/-- FENCE.M (R129): every store has left the core and is in the cache or the scratchpad; the wide scopes wait for maintenance
too. -/
def execFenceM (scope : Fin 8) (s : State) : Out :=
  if 5 < scope.val then .next s.illegal
  else if s.fenceMWaits s.h (decide (2 ≤ scope.val)) then .next (s.block (.fenceM (decide (2 ≤ scope.val))))
  else if scope.val < 2 then .next s.retire
  else .next (s.note .fenceM).retire

/-- Translates every page of a range in turn (R265), a trap naming the first byte of its page, or of the 4 KiB around an address
that no region covers (log 74); the fuel is the number of 4 KiB pieces. -/
def State.eachPage (s : State) (a : Acc) (hi : Nat) (k : State → Out) : Nat → Nat → Out
  | 0, _ => k s
  | n + 1, va =>
    if hi ≤ va then k s
    else
      let base := match s.regionOf s.h.task.ctx va with
        | some r => va / pageBytes r.psize * pageBytes r.psize
        | none => va / 4096 * 4096
      s.access va a (trapOn base) fun l _ t => State.eachPage t a hi k n l.stop

/-- Whether a physical line holds bytes of a virtual range of a context. -/
def State.lineIn (s : State) (ctx lo hi line : Nat) : Bool :=
  match s.frameOf (line * 64) with
  | some f => f.ctx == ctx && overlaps (f.va + (line * 64 - f.pa)) (f.va + (line * 64 - f.pa) + 64) lo hi
  | none => false

/-- Starts the write-backs and removals of a range (R265): the dirty lines of it are clean, and what is written back is what they
hold now. -/
def State.startWriteBack (s : State) (lo hi : Nat) (inval : Bool) : State :=
  let hit := fun (c : CLine) => s.lineIn s.h.task.ctx lo hi c.line
  let ls := ((s.lat.cache.filter hit).map (·.line)).dedup
  let what := fun (l : Nat) => (l, if s.lat.cache.any (fun c => c.line == l && c.dirty) then some (s.lineNow l) else none)
  { s with lat := { s.lat with
      cache := updWhere hit (fun c => { c with dirty := false }) s.lat.cache
      writeBacks := s.lat.writeBacks ++
        [{ hart := s.h.id, ctx := s.h.task.ctx, lo := lo, hi := hi, inval := inval, lines := ls.map what }] } }

/-- CLEANR and INVALR (R265); the trap of a range past the last address names its start (log 74). -/
def State.maintain (s : State) (w : Option (Fin 4)) (a b : Fin 32) (inval : Bool) : Out :=
  let lo := (s.x a).toNat
  let n := (s.x b).toNat
  s.held (waitOfPfx w) <|
    if n = 0 then .next s.retire
    else if 2 ^ 57 < lo + n then trapOn lo 0 s
    else s.eachPage .maint (lo + n) (fun t =>
      .next ((t.note (if inval then .invalr lo (lo + n) else .cleanr lo (lo + n))).startWriteBack lo (lo + n) inval).retire)
      (n / 4096 + 2) lo

/-- CLEANR (R265). -/
def execCleanr (w : Option (Fin 4)) (a b : Fin 32) (s : State) : Out := s.maintain w a b false

/-- INVALR (R265). -/
def execInvalr (w : Option (Fin 4)) (a b : Fin 32) (s : State) : Out := s.maintain w a b true

end Sys2Proof.Machine
end

