-- ==== Sys2Proof/Machine/LatInstr.lean ====
section
/-! DEFINITION. The ten lattice instructions at their issuer (R300 to R315): checks, translation, the journal, and
the messages they send. The homes are in Home.lean. -/

namespace Sys2Proof.Machine

/-! ## Translation of an operand -/

/-- The translation of the operand of a lattice read (R28, R303, R24). -/
def State.latAccess (s : State) (va : Nat) (a : Acc) (q : LatKind) (onFault : Nat → State → Out)
    (k : HomeAt → State → Out) : Out :=
  s.access va a onFault fun l pa t =>
    match t.homeOn q va l pa with
    | .error c => onFault c t
    | .ok h => k h t

/-! ## Common checks (R302) -/

/-- The operand address of a lattice instruction (R300). -/
def State.latVa (s : State) (a : Fin 32) (off : BitVec 16) : Nat := (s.x a + off.signExtend 64).toNat

/-- Whether a type and size code are reserved (R302 order 1). SZ other than 0 with a type that is not FILL is judged here, as the
entry's own check, and not as a reserved field of the word (log 99). -/
def badType (ty sz : Nat) : Bool := ty == 0 || decide (0xC ≤ ty) || decide (9 < sz) || (ty != 8 && sz != 0)

/-- Runs the group after the checks of R302 orders 1 to 3. -/
def State.latChecks (s : State) (illegal : Bool) (badOp : Bool) (va al : Nat) (k : Out) : Out :=
  if illegal then .next s.illegal
  else if badOp then .next s.badOperand
  else if va % al ≠ 0 then .next (s.misaligned va)
  else k

/-- Whether a generation operand is out of range (R302 order 2). -/
def State.badGen (s : State) (g : Fin 32) : Bool := decide (65535 < (s.x g).toNat)

/-! ## Posted instructions -/

/-- A posted operation on one cell (JOIN, FILL, FREEZE, RENEW): the entry, the hold, the contribution, and the access that the
core takes in (R302). `k` gives the contribution; a group refused at order 5 reads its source all the same (R274). -/
def State.postOne (s : State) (w va gen : Nat) (kind : LKind) (ty sz : Nat) (k : State → (Nat → State → Out) → Out) : Out :=
  if 2 ^ 57 ≤ va then s.takeEntry fun _ t => k t fun _ u => u.postNoncanon va gen
  else s.takeEntry fun i t => t.held w <| k t fun v u => u.posted i (.cell kind ty sz gen va v)

/-- JOIN (R304): TY = FILL and an AF outside SATN32L are illegal. -/
def execJoin (w : Fin 4) (ty : Fin 16) (af : Bool) (off : BitVec 16) (a g c : Fin 32) (s : State) : Out :=
  let va := s.latVa a off
  s.latChecks (badType ty.val 0 || ty.val == 8 || (af && ty.val != 6)) (s.badGen g) va (cellBytes ty.val 0) <|
    s.postOne w.val va (s.x g).toNat .join ty.val 0 fun t k =>
      if ty.val = 5 then t.withPops [] [c] fun u => k ((u.v c).toNat % 2 ^ 512) u
      else k (if ty.val = 9 then (t.x c).toNat % 2 ^ 32
              else if ty.val = 6 then (t.x c).toNat + af.toNat * 2 ^ 64 else (t.x c).toNat) t

/-- The contribution of a JOINV lane in the layout of Table 12.4 (R305). -/
def laneValue (ty v : Nat) : Nat :=
  match ty with
  | 2 => wrapInt (s32 v) 64
  | 10 => wrapInt (s32 v) 64
  | 6 => v + 0xFFFFFFFF * 2 ^ 32
  | _ => v

/-- The types JOINV takes (R305). -/
def joinvType (ty : Nat) : Bool := ty == 1 || ty == 2 || ty == 3 || ty == 4 || ty == 6 || ty == 7 || ty == 9 || ty == 10

/-- JOINV (R305): with no active lane it takes no entry and has no effect beyond its wait field; it pops no stream register either
(log 100). -/
def execJoinv (w : Fin 4) (ty : Fin 16) (m : Fin 8) (off : BitVec 16) (d a g c : Fin 32) (s : State) : Out :=
  let base := s.latVa a off
  let size := cellBytes ty.val 0
  s.latChecks (!joinvType ty.val) (s.badGen g) base size <|
    if s.m m = 0 then s.held w.val (.next s.retire)
    else s.takeEntry fun i t => t.held w.val <| t.withPops [] [d, c] fun u =>
      let ls := ((countFrom 0 48).filter (fun j => (u.m m).getLsbD j)).map (fun j =>
        (j, (base + lane 32 (u.v d) j * size) % 2 ^ 64, laneValue ty.val (lane 32 (u.v c) j)))
      u.posted i (.lanes ty.val (u.x g).toNat ls)

/-- The source bytes of a FILL (R307): a register, a vector register, or memory, which is read as a load reads it. -/
def State.fillSource (s : State) (src n : Nat) (c : Fin 32) (k : Nat → State → Out) : Out :=
  match src with
  | 0 => k (s.x c).toNat s
  | 1 => s.withPops [] [c] fun u => k ((u.v c).toNat % 2 ^ (8 * n)) u
  | _ => s.loadFrom (s.x c).toNat n k

/-- FILL (R307); one refused at order 5 does not read memory. -/
def execFill (w src : Fin 4) (sz : Fin 16) (off : BitVec 16) (a g c : Fin 32) (s : State) : Out :=
  let va := s.latVa a off
  let n := 8 * 2 ^ sz.val
  let bad := decide (9 < sz.val) || src.val == 3 || (src.val == 0 && sz.val != 0) || (src.val == 1 && decide (4 < sz.val))
  s.latChecks bad (s.badGen g) va n <|
    if src.val = 2 ∧ (s.x c).toNat % n ≠ 0 then .next (s.misaligned (s.x c).toNat)
    else s.postOne w.val va (s.x g).toNat .fill 8 sz.val fun t k =>
      if 2 ^ 57 ≤ va ∧ src.val = 2 then k 0 t else t.fillSource src.val n c k

/-- FREEZE (R310). -/
def execFreeze (w : Fin 4) (ty sz : Fin 16) (off : BitVec 16) (a g : Fin 32) (s : State) : Out :=
  let va := s.latVa a off
  s.latChecks (badType ty.val sz.val) (s.badGen g) va (cellBytes ty.val sz.val) <|
    s.postOne w.val va (s.x g).toNat .freeze ty.val sz.val fun t k => k 0 t

/-- RENEW (R314): the message carries g + 1. -/
def execRenew (w : Fin 4) (ty sz : Fin 16) (off : BitVec 16) (a g : Fin 32) (s : State) : Out :=
  let va := s.latVa a off
  s.latChecks (badType ty.val sz.val) (s.badGen g) va (cellBytes ty.val sz.val) <|
    s.postOne w.val va (((s.x g).toNat + 1) % 65536) .renew ty.val sz.val fun t k => k 0 t

/-- FREEZE.R (R311). -/
def execFreezeR (w : Fin 4) (off : BitVec 16) (a g c : Fin 32) (s : State) : Out :=
  let va := s.latVa a off
  let n := (s.x c).toNat
  let gen := (s.x g).toNat
  s.latChecks false (s.badGen g || decide (2 ^ 32 ≤ n)) va 1 <|
    if n = 0 then s.held w.val (.next s.retire)
    else if 2 ^ 57 < va + n then s.postNoncanon va gen
    else s.takeEntry fun i t => t.held w.val (t.posted i (.range gen va (va + n)))

/-! ## Threshold reads (R308, R309) -/

/-- A read as it is sent: its member has the thread's next number for the home (R113). -/
def LReq.numbered (r : LReq) (p : Posted) (h : HomeAt) : LReq :=
  { r with members := r.members.map (fun m => { m with loc := h.loc, seq := p.seqOf h.dest.home, home := some h.dest.home }) }

/-- Sends a lattice read of the issuing thread. -/
def State.sendRead (s : State) (h : HomeAt) (req : LReq) : State :=
  let p := s.h.t.post
  ({ s with h := s.h.setPost (p.bumpSeq h.dest.home) }).send
    { src := s.me, ctx := s.h.task.ctx, dest := h.dest, body := .lat (req.numbered p h) }

/-- Sends a read and parks the thread until its reply (R81); it stays behind an earlier message to its unit (R113). -/
def State.park (s : State) (h : HomeAt) (req : LReq) : Out :=
  if s.mustStay s.h h.dest false then .next (s.block (.order h.dest))
  else .next ((s.sendRead h req).block (.reply ((req.members.head?.map (·.va)).getD 0)))

/-- Whether every two candidates differ. -/
def distinct : List Nat → Bool
  | [] => true
  | v :: l => !l.contains v && distinct l

/-- Whether the trigger set is one that Table 3.4 permits (R79, R308). -/
def triggersOk (ty nt sz : Nat) (x : Nat) (cand : List Nat) : Bool :=
  match ty with
  | 9 => false
  | 10 => false
  | 8 => nt == 0 || (sz == 0 && distinct cand)
  | 6 => nt == 1 && decide (x < 2 ^ 32)
  | 11 => nt == 1 && decide (x < 2 ^ 32)
  | _ => nt == 1

/-- The registers from `c` on that hold candidates. -/
def State.candidates (s : State) (c : Fin 32) (nt : Nat) : List Nat :=
  (countFrom c.val nt).map (fun i => (s.x (Fin.ofNat 32 i)).toNat)

/-- Writes a completed threshold read (R308): the outcome, and for FILLED of 8 bytes the value. -/
def State.finishThr (s : State) (d : Fin 32) (two : Bool) (va : Nat) : Out :=
  match s.h.reply with
  | some (.value o v) =>
    let s1 := s.setX d (BitVec.ofNat 64 o)
    let s2 := if two then s1.setX (Fin.ofNat 32 (d.val + 1)) (BitVec.ofNat 64 (if o = 0 then v else 0)) else s1
    .next s2.retire
  | some (.trap c a e) => .next (s.takeTrap { cause := c, addr := a, detail := e })
  | _ => .next (s.block (.reply va))

/-- THR (R308). -/
def execThr (w : Fin 4) (ty : Fin 16) (nt : Fin 8) (sz : Fin 16) (off : BitVec 16) (d a g c : Fin 32) (s : State) :
    Out :=
  let va := s.latVa a off
  let two := ty.val == 8 && nt.val == 0 && sz.val == 0
  let bad := badType ty.val sz.val || decide (4 < nt.val) || decide (31 < c.val + nt.val - 1) || (two && d.val == 31)
  if s.h.reply.isSome then s.finishThr d two va
  else s.latChecks bad (s.badGen g) va (cellBytes ty.val sz.val) <|
    if triggersOk ty.val nt.val sz.val (s.x c).toNat (s.candidates c nt.val) = false then
      .next (s.takeTrap { cause := 0x0D, addr := va })
    else if 2 ^ 57 ≤ va then trapOn va 0 s
    else s.held w.val <|
      s.latAccess va .latRead { ty := some ty.val, sz := some sz.val, gang := true } (trapOn va) fun h t =>
        let m := fun (u : State) => ({ who := u.me, pc := u.h.pc.toNat, va := va, pa := h.pa, loc := h.loc } : Member)
        let req := fun (u : State) (tr : List Nat) =>
          ({ kind := .thr, ty := ty.val, sz := sz.val, gen := (u.x g).toNat, members := [m u], trigs := tr,
             cand := ty.val == 8 && nt.val != 0 } : LReq)
        if ty.val = 5 then t.withPops [] [c] fun u => u.park h (req u [(u.v c).toNat % 2 ^ 512])
        else t.park h (req t (if ty.val = 8 then (if nt.val = 0 then [1] else t.candidates c nt.val) else [(t.x c).toNat]))

/-- THR.F (R309). -/
def execThrF (w : Fin 4) (ty sz : Fin 16) (off : BitVec 16) (d a g : Fin 32) (s : State) : Out :=
  let va := s.latVa a off
  if s.h.reply.isSome then s.finishThr d false va
  else s.latChecks (badType ty.val sz.val) (s.badGen g) va (cellBytes ty.val sz.val) <|
    if 2 ^ 57 ≤ va then trapOn va 0 s
    else s.held w.val <|
      s.latAccess va .latRead { ty := some ty.val, sz := some sz.val, gang := true } (trapOn va) fun h t =>
        t.park h { kind := .thrF, ty := ty.val, sz := sz.val, gen := (t.x g).toNat,
                   members := [{ who := t.me, pc := t.h.pc.toNat, va := va, pa := h.pa, loc := h.loc }] }

/-! ## Frozen reads (R312, R313) -/

/-- A copy of a frozen line at a generation in the issuing thread's cluster cache (R83). It serves FRD and FRDV of that thread's
cluster; a threshold read goes to the home (log 91). -/
def State.copyOf (s : State) (pa gen : Nat) : Option CLine :=
  s.lat.cache.find? (fun c => c.cluster == s.cluster && c.line == pa / 64 && c.gen == some gen)

/-- The trap that a frozen read of generation `g` ends in: a stale-generation trap names the generation read (R125). -/
def readTrap (c x e g : Nat) : TrapInfo := { cause := c, addr := x, detail := e, gexp := if c = 0x13 then g else 0 }

/-- FRD (R312). -/
def execFrd (w n : Fin 4) (off : BitVec 16) (d a g : Fin 32) (s : State) : Out :=
  let va := s.latVa a off
  let len := 2 ^ n.val
  match s.h.reply with
  | some (.value _ v) => s.result d (BitVec.ofNat 64 v)
  | some (.trap c x e) => .next (s.takeTrap (readTrap c x e (s.x g).toNat))
  | some (.lines _ _) => .next (s.block (.reply va))
  | none =>
    s.latChecks false (s.badGen g) va len <|
      if 2 ^ 57 ≤ va then trapOn va 0 s
      else s.held w.val <|
        s.latAccess va .latRead { ty := none, sz := none, gang := true } (trapOn va) fun h t =>
          let copy := match h.dest with
            | .unit _ => t.copyOf h.pa (t.x g).toNat
            | _ => none
          match copy with
          | some c => t.result d (BitVec.ofNat 64 (bits c.img (8 * (h.pa % 64 + len) - 1) (8 * (h.pa % 64))))
          | none => t.park h { kind := .frd, gen := (t.x g).toNat, len := len,
                               members := [{ who := t.me, pc := t.h.pc.toNat, va := va, pa := h.pa, loc := h.loc }] }

/-- The value and the trap of an FRDV whose lines have all come: the trap is that of the lowest line (R313). -/
def linesTrap (got : List LineRes) (n : Nat) : Option LineRes :=
  (countFrom 0 n).findSome? (fun i => got.find? (fun r => r.part == i && r.cause != 0))

/-- The bytes of the lines of an FRDV, zero past them. -/
def linesValue (got : List LineRes) : Nat := got.foldl (fun v r => v + r.value % 2 ^ 512 * 2 ^ (512 * r.part)) 0

/-- The read of line `i` of an FRDV; its part is `i + 1`. -/
def State.lineRead (s : State) (i gen va : Nat) (h : HomeAt) : LReq :=
  { kind := .frd, gen := gen, len := 64, part := i + 1, members := [{ who := s.me, pc := s.h.pc.toNat, va := va, pa := h.pa, loc := h.loc }] }

/-- The result of a line whose translation ends in a fault: the trap of R34. -/
def faultLine (i va c : Nat) : LineRes :=
  { part := i, value := 0, cause := if c = 6 ∨ c = 7 then 9 else 8, addr := va, detail := c }

/-- Resolves the lines of an FRDV (R313): the results that are known, and the reads that go to homes. -/
def State.frdvLines (gen va : Nat) (k : List LineRes → List (HomeAt × LReq) → State → Out) :
    List Nat → List LineRes → List (HomeAt × LReq) → State → Out
  | [], got, rs, s => k got rs s
  | i :: l, got, rs, s =>
    let a := (va + 64 * i) % 2 ^ 64
    s.latAccess a .latRead { ty := none, sz := none, gang := true }
      (fun c t => State.frdvLines gen va k l (got ++ [faultLine i a c]) rs t) fun h t =>
      let copy := match h.dest with
        | .unit _ => t.copyOf h.pa gen
        | _ => none
      match copy with
      | some c => State.frdvLines gen va k l (got ++ [{ part := i, value := c.img, cause := 0, addr := a, detail := 0 }]) rs t
      | none => State.frdvLines gen va k l got (rs ++ [(h, t.lineRead i gen a h)]) t

/-- Completes an FRDV, or parks it until its lines have come. -/
def State.finishFrdv (s : State) (d g : Fin 32) (va need : Nat) (got : List LineRes) : Out :=
  if got.length < need then .next ({ s with h := { s.h with reply := some (.lines need got) } }.block (.reply va))
  else match linesTrap got need with
    | some r => .next (s.takeTrap (readTrap r.cause r.addr r.detail (s.x g).toNat))
    | none => s.vresult d (BitVec.ofNat 1536 (linesValue got))

/-- Sends the reads of an FRDV, once none of them must stay behind an earlier message to its unit (R113). -/
def State.sendLines (s : State) (rs : List (HomeAt × LReq)) (k : State → Out) : Out :=
  match rs.find? (fun r => s.mustStay s.h r.1.dest false) with
  | some r => .next (s.block (.order r.1.dest))
  | none => k (rs.foldl (fun t r => t.sendRead r.1 r.2) s)

/-- FRDV (R313). -/
def execFrdv (w n : Fin 4) (off : BitVec 16) (d a g : Fin 32) (s : State) : Out :=
  let va := s.latVa a off
  match s.h.reply with
  | some (.lines need got) => s.finishFrdv d g va need got
  | some (.trap c x e) => .next (s.takeTrap (readTrap c x e (s.x g).toNat))
  | some (.value _ _) => .next (s.block (.reply va))
  | none =>
    if n.val = 3 then .next s.illegal
    else s.withPops [d] [] fun s =>
      s.latChecks false (s.badGen g) va 64 <|
        if 2 ^ 57 ≤ va then trapOn va 0 s
        else s.held w.val <|
          State.frdvLines (s.x g).toNat va (fun got rs t => t.sendLines rs fun u => u.finishFrdv d g va (n.val + 1) got)
            (countFrom 0 (n.val + 1)) [] [] s

end Sys2Proof.Machine
end

