-- ==== Sys2Proof/Machine/Cells.lean ====
section
/-! DEFINITION. Lattice cells as values and freeze units (R65 to R80, R83, R93). -/

namespace Sys2Proof.Machine

/-! ## Cell values (Tables 3.1 to 3.4) -/

/-- The bottom of a type (Table 3.1). -/
def bottom (ty : Nat) : Nat :=
  match ty with
  | 2 => 2 ^ 63
  | 3 => 2 ^ 64 - 1
  | 6 => 0xFFFFFFFF * 2 ^ 64
  | 11 => 0xFFFFFFFF
  | _ => 0

/-- ord of an ARGMAX key (R68). -/
def ordKey (k : Nat) : Nat := if k.testBit 31 then k ^^^ 0xFFFFFFFF else k ^^^ 0x80000000

/-- The rank of an ARGMAX pair: ord(KEY), then PAYLOAD (R68). -/
def argRank (c : Nat) : Nat := ordKey (c % 2 ^ 32) * 2 ^ 32 + c / 2 ^ 32

/-- join_satn32l (R69). -/
def joinSat (c v : Nat) : Nat :=
  let lim := min (bits c 95 64) (bits v 63 32)
  let af := max (bits c 96 96) (bits v 64 64)
  min (bits c 31 0 + bits v 31 0) lim + lim * 2 ^ 64 + af * 2 ^ 96

/-- state_of (R73), in the layout of Table 3.2. -/
def sumState (x : Nat) : Nat :=
  match fp32.value x with
  | .nan _ _ => 2 ^ 320 + 2 ^ 352
  | .inf false => 2 ^ 320 + 2 ^ 353
  | .inf true => 2 ^ 320 + 2 ^ 354
  | .fin neg m e => wrapInt (scaledInt neg m e (-149)) 320 + 2 ^ 320

/-- join_sumf32 (R73). -/
def joinSum (a b : Nat) : Nat :=
  let n := bits a 351 320 + bits b 351 320
  let big := 0xFFFFFFFF < n
  (a % 2 ^ 320 + b % 2 ^ 320) % 2 ^ 320 + min n 0xFFFFFFFF * 2 ^ 320
    + (bits a 355 352 ||| bits b 355 352 ||| (if big then 8 else 0)) * 2 ^ 352

/-- freeze_sumf32 (R74): the frozen image of Table 3.3. -/
def freezeSum (s : Nat) : Nat :=
  let nan := s.testBit 355 || s.testBit 352 || (s.testBit 353 && s.testBit 354)
  let r : Nat × Flags :=
    if nan then (0x7FC00000, 0)
    else if s.testBit 353 then (0x7F800000, 0)
    else if s.testBit 354 then (0xFF800000, 0)
    else fp32.round (FVal.ofInt (sextNat s 320) (-149) false) { rm := .rne, sat := .nosat }
  r.1 + bits s 351 320 * 2 ^ 32 + bits s 355 352 * 2 ^ 64
    + (r.2 &&& fNX != 0).toNat * 2 ^ 68 + (r.2 &&& fOF != 0).toNat * 2 ^ 69

/-- The freeze of a SUMI64 cell (R75): RES saturated, and SAT. -/
def freezeInt (c : Nat) : Nat :=
  let v := sextNat c 128
  let lo : Int := -2 ^ 63
  let hi : Int := 2 ^ 63 - 1
  if v < lo then 2 ^ 63 + 2 ^ 64 else if hi < v then 2 ^ 63 - 1 + 2 ^ 64 else wrapInt v 64

/-- The frozen image of a cell from its growing value (R93). -/
def freezeCell (ty c : Nat) : Nat :=
  match ty with
  | 9 => freezeSum c
  | 10 => freezeInt c
  | _ => c

/-- The join of a type other than FILL: old value `c`, contribution `v` (Table 3.1, Table 12.4). -/
def joinCell (ty c v : Nat) : Nat :=
  match ty with
  | 1 => max c v
  | 2 => if sextNat c 64 < sextNat v 64 then v else c
  | 3 => min c v
  | 4 => c ||| v
  | 5 => c ||| v
  | 6 => joinSat c v
  | 7 => min (c + v) (2 ^ 64 - 1)
  | 9 => joinSum c (sumState v)
  | 10 => (c + wrapInt (sextNat v 64) 128) % 2 ^ 128
  | 11 => if argRank c < argRank v then v else c
  | _ => c

/-- Whether a trigger of a type other than FILL has passed (Table 3.4). -/
def passedValue (ty c t : Nat) : Bool :=
  match ty with
  | 1 => decide (t ≤ c)
  | 2 => decide (sextNat t 64 ≤ sextNat c 64)
  | 3 => decide (c ≤ t)
  | 4 => c &&& t == t
  | 5 => c &&& t == t
  | 6 => decide (t ≤ bits c 31 0)
  | 7 => decide (t ≤ c)
  | 11 => decide (ordKey (t % 2 ^ 32) ≤ ordKey (c % 2 ^ 32))
  | _ => false

/-- Whether trigger `t` of a read has passed: a FILL cell passes FILLED when it is filled, and a candidate when
it is filled with it. -/
def passed (ty c : Nat) (filled cand : Bool) (t : Nat) : Bool :=
  if ty = 8 then filled && (!cand || c == t) else passedValue ty c t

/-! ## Freeze units -/

/-- The distance of generation `g` from generation `h` (R77). -/
def genDist (g h : Nat) : Nat := (g + 65536 - h % 65536) % 65536

/-- Moves a growing unit to frozen (R78, R93). -/
def LUnit.freeze (ty : Nat) (u : LUnit) : LUnit :=
  if u.st = .growing then { u with st := .frozen, cells := u.cells.map (freezeCell ty) } else u

/-- Advances a unit to a generation: every cell is bottom, none filled (R78, R93). -/
def LUnit.advance (ty gen : Nat) (u : LUnit) : LUnit :=
  { u with gen := gen, st := .growing, cells := u.cells.map (fun _ => bottom ty), filled := u.filled.map (fun _ => false) }

/-- What one operation did at a unit: the unit after it, a fault of Table 3.5 by its FAULT code (Table 5.1), and
whether it raised a fill conflict. -/
structure Applied where
  u : LUnit
  fault : Option Nat := none
  conflict : Bool := false
  deriving DecidableEq, Repr

/-- The join of a current operation into a growing unit (R70, R78). -/
def LUnit.join (ty idx v : Nat) (u : LUnit) : Applied :=
  if ty = 8 then
    if u.filled.getD idx false then
      if nth u.cells idx = v then { u := u } else { u := { u with st := .conflict }, conflict := true }
    else { u := { u with cells := u.cells.set idx v, filled := u.filled.set idx true } }
  else
    let c := joinCell ty (nth u.cells idx) v
    let u1 := { u with cells := u.cells.set idx c }
    { u := if ty = 6 ∧ bits c 96 96 = 1 ∧ bits c 31 0 = bits c 95 64 then u1.freeze ty else u1 }

/-- apply (R78): the operation `kind` carrying generation `gen` at a unit of a type, to its cell `idx` with
contribution `v`. -/
def LUnit.apply (ty : Nat) (kind : LKind) (gen idx v : Nat) (u : LUnit) : Applied :=
  let d := genDist gen u.gen
  if 32768 ≤ d then { u := u, fault := some 2 }
  else if kind = .freeze then (if d ≠ 0 then { u := u, fault := some 3 } else { u := u.freeze ty })
  else if 2 ≤ d then { u := u, fault := some 3 }
  else
    let u1 := if d = 1 then u.advance ty gen else u
    if kind = .renew then { u := u1 }
    else match u1.st with
      | .conflict => { u := u1 }
      | .frozen => { u := u1, fault := some 1 }
      | .growing => u1.join ty idx v

/-- What a read ends in, if it does: an outcome of R80 with a value, or the bytes of R83 or the cause of its
trap. -/
inductive Answer where
  | park
  | wake (outcome value : Nat)
  | data (value : Nat)
  | trap (cause : Nat)
  deriving DecidableEq, Repr

/-- The index of the first trigger that has passed. -/
def firstPassed (ty c : Nat) (filled cand : Bool) (l : List Nat) : Option Nat :=
  (countFrom 0 l.length).find? (fun i => passed ty c filled cand (nth l i))

/-- evaluate (R80). -/
def LUnit.evaluate (ty sz : Nat) (r : LReq) (idx : Nat) (u : LUnit) : Answer :=
  let d := genDist r.gen u.gen
  let c := nth u.cells idx
  let f := u.filled.getD idx false
  if 32768 ≤ d then .wake 6 0
  else if d ≠ 0 then .park
  else if u.st = .conflict then .wake 5 0
  else match firstPassed ty c f r.cand r.trigs with
    | some i => .wake i (if ty = 8 ∧ sz = 0 then c else 0)
    | none =>
      if u.st = .frozen then .wake 4 0
      else if ty = 8 ∧ r.cand ∧ f then .wake 4 0
      else .park

/-- The bytes of a unit's frozen image as one number (R76). -/
def LUnit.image (ty sz : Nat) (u : LUnit) : Nat := packCodes (8 * cellBytes ty sz) u.cells

/-- A frozen read of `len` bytes at offset `off` of the unit (R83). -/
def LUnit.readFrozen (ty sz gen off len : Nat) (u : LUnit) : Answer :=
  let d := genDist gen u.gen
  if 32768 ≤ d then .trap 0x13
  else if d ≠ 0 then .park
  else match u.st with
    | .conflict => .trap 0x12
    | .growing => .park
    | .frozen => .data (u.image ty sz / 2 ^ (8 * off) % 2 ^ (8 * len))

/-- What a unit answers to a read, by its class. -/
def LUnit.answer (ty sz : Nat) (r : LReq) (pa : Nat) (u : LUnit) : Answer :=
  match r.kind with
  | .frd => u.readFrozen ty sz r.gen (pa - u.pa) r.len
  | _ => u.evaluate ty sz r ((pa - u.pa) / cellBytes ty sz)

/-! ## Units of the state -/

/-- The cell type and size code of the page that holds a physical address. -/
def State.cellType (s : State) (pa : Nat) : Nat × Nat :=
  match s.frameOf pa with
  | some f => (f.ctype, f.csize)
  | none => (0, 0)

/-- A unit as its page's creation or SEAL left it (R31, R22). -/
def State.unitInit (s : State) (pa : Nat) : LUnit :=
  match s.frameOf pa with
  | none => { pa := pa, gen := 0, st := .growing, cells := [], filled := [] }
  | some f =>
    let n := cellBytes f.ctype f.csize
    let k := unitBytes f.ctype f.csize / n
    if f.sealed then
      { pa := pa, gen := f.gen, st := .frozen, cells := (countFrom 0 k).map (fun i => Mem.readN s.mem (pa + n * i) n),
        filled := List.replicate k true }
    else { pa := pa, gen := f.gen, st := .growing, cells := List.replicate k (bottom f.ctype),
           filled := List.replicate k false }

/-- The unit at its first physical address. -/
def State.unitAt (s : State) (pa : Nat) : LUnit :=
  match s.lat.units.find? (fun u => u.pa == pa) with
  | some u => u
  | none => s.unitInit pa

/-- Replaces a unit. -/
def State.putUnit (s : State) (u : LUnit) : State :=
  let l := if s.lat.units.any (fun v => v.pa == u.pa) then updWhere (fun v => v.pa == u.pa) (fun _ => u) s.lat.units
    else s.lat.units ++ [u]
  { s with lat := { s.lat with units := l } }

end Sys2Proof.Machine
end

