-- ==== Sys2Proof/Machine/Home.lean ====
section
/-! DEFINITION. The network's order, the join units with their weirs and invalidation holds, eddies, and replies
on their way (R71, R91 to R101, R113 to R118, R384, R398, R405). -/

namespace Sys2Proof.Machine

/-- Operand `n` of the event under way (log 1). -/
def State.evArg (s : State) (n : Nat) : Nat := nth s.ev n

/-! ## The order of messages (R113, R115, R118, R132) -/

/-- Whether an operation follows one of a thread: it is the thread's own, or of an operation that the thread issued (R113,
R118). Host writes through one window are of one issuer, whichever path they take (R413). -/
def State.sameIssuer (s : State) (n m : Who) : Bool :=
  n == m || match n, m with
    | .op c k g _, .thread d t => c == d && s.work.ops.any (fun o => o.core == c && o.slot == k && o.gen == g && o.thread == t)
    | .host a _, .host b _ => a == b
    | _, _ => false

/-- The engine that serves a kind of operation (Table 8.1): 1 the matrix engine, 2 the copy engine, 3 base-die rill cores,
4 the cluster rill core. -/
def engineClass (k : Nat) : Nat := if k = 1 then 1 else if k ≤ 3 then 2 else if k = 4 then 3 else 4

/-- The network channel of a message (Table 14.1): 0 control, 1 reply, 2 bulk, 3 join; only updates and rill messages have one
stated (R112, log 76). -/
def Body.chan (b : Body) : Nat :=
  match b with
  | .lat r => if r.kind.isUpdate then 3 else 0
  | .rill m => bits m.hdr 62 61
  | .ack _ | .refuse _ _ _ _ _ _ | .wake _ _ _ | .data _ _ _ _ _ _ => 1
  | .resume _ _ _ _ | .redirectAck _ _ _ | .opReply _ _ _ _ _ | .ready _ _ _ _ _ _ | .gateWake _ _ _ => 1
  | _ => 0

/-- The agent that a message leaves from (R132): a core for its threads and its own engines, a rill core for other operations. -/
def State.port (s : State) (w : Who) : Who :=
  match w with
  | .thread c _ => .core c
  | .op c k g _ => match s.work.ops.find? (fun o => o.core == c && o.slot == k && o.gen == g) with
    | some o => if 4 ≤ o.kind ∧ o.kind ≤ 6 then .rill o.node else .core c
    | none => .core c
  | w => w

/-- Whether message `n` must wait for the earlier lattice message `m` of an issuer that they share (R113, R115, R116, R118):
they go to one unit, or both homes are die-local and `n` is no observation behind an update. Host writes keep their order. -/
def State.latOrder (s : State) (nd md : Dest) (a b : LReq) : Bool :=
  a.members.any (fun x => b.members.any (fun y => s.sameIssuer x.who y.who &&
    (s.sameUnit nd md || (match x.who with
      | .host _ _ => true
      | .thread _ _ => x.who == y.who && x.loc && y.loc && (a.kind.isUpdate || !b.kind.isUpdate)
      | _ => false))))

/-- Whether a message has left the network though it is not taken up: an operation that waits for its AFTER has not been sent
(R201), a remote copy's request waits at the receiver (R337), and a halted thread's reply waits at its core (R405). -/
def State.offNet (s : State) (m : Msg) (heldBack : Bool) : Bool :=
  heldBack || match m.body with
    | .engine c k g => s.work.ops.any (fun o => o.core == c && o.slot == k && o.gen == g && !o.aft.isEmpty)
    | .cpyrRequest _ _ _ => true
    | _ => false

/-- Whether message `n` must wait for the earlier message `m`: those of one source, destination and channel keep their order
(R132). `back` says that a halted thread keeps `m` waiting. -/
def State.waitsFor (s : State) (n m : Msg) (back : Bool) : Bool :=
  match n.body, m.body with
  | .lat a, .lat b => s.latOrder n.dest m.dest a b
  | .lat _, _ => false
  | _, .lat _ => false
  | x, y => s.port n.src == s.port m.src && n.dest == m.dest && x.chan == y.chan && !s.offNet m back

/-- Whether a thread's operation to a freeze unit is still on its way or held there: an access of an operation that the
thread issued comes after it (R118). -/
def State.postedTo (s : State) (core thread : Nat) (u : Dest) : Bool :=
  let mine := fun (m : Msg) => s.sameUnit m.dest u && (match m.body with
    | .lat r => r.members.any (fun x => x.who == .thread core thread)
    | _ => false)
  s.lat.net.any mine || s.lat.waiting.any mine || s.lat.units.any (fun x => x.held.any mine)

/-- Whether a message is a reply that a halted thread does not take yet (R405). -/
def State.heldBack (s : State) (b : Body) : Bool :=
  let thr := fun (w : Who) => match w with
    | .thread c k => match s.hart? (.thread c k) with
      | some h => match h.stat with
        | .halted _ _ => true
        | _ => false
      | none => false
    | _ => false
  match b with
  | .ack m => thr m.who
  | .refuse m _ _ _ _ _ => thr m.who
  | .wake m _ _ => thr m.who
  | .data m _ _ _ _ _ => thr m.who
  | .resume _ _ w _ => thr w
  | _ => false

/-- Whether a core state runs on a physical core. -/
def State.isPlaced (s : State) (core : Nat) : Bool :=
  match s.core? core with
  | some c => match c.loc with
    | .at _ => true
    | _ => false
  | none => false

/-- Whether a core state drains (R382). -/
def State.isDraining (s : State) (core : Nat) : Bool :=
  (s.core? core).any (fun c => match c.loc with
    | .draining _ _ _ => true
    | _ => false)

/-- Whether a hart waits for a reply that comes to its core: a lattice read, a repair, or a token (R214). -/
def Hart.awaits (h : Hart) : Bool :=
  let f := fun (w : WaitOn) => match w with
    | .reply _ => true
    | .repair _ => true
    | _ => false
  match h.stat with
  | .waiting w => f w
  | .halted (some w) _ => f w
  | _ => false

/-- Whether a destination takes messages now (R384): a core state that streams or is saved holds them, and so does one of
a gang member there. -/
def State.takes (s : State) (d : Dest) : Bool :=
  let placed := fun (c : Nat) => match (s.core? c).map (·.loc) with
    | some (.streaming _ _) => false
    | some (.saved _) => false
    | _ => true
  match d with
  | .core c => placed c
  | .member g r _ _ => match s.memberAt g r with
    | some (c, _) => placed c
    | none => true
  | _ => true

/-- Whether the halt group of a context is stopped on a package (R404); the release of the context releases it (Table 16.8). -/
def State.groupStopped (s : State) (ctx pkg : Nat) : Bool :=
  match s.ctx? ctx with
  | some c => c.dbg && !c.released && ((s.pkg pkg).halts.getD c.hgrp {}).stop
  | none => false

/-- Whether a core state is halted (R404). -/
def State.coreHalted (s : State) (c : Nat) : Bool := (s.core? c).any (fun k => s.groupStopped k.ctx (physPkg (s.physOf c)))

/-- Whether a message is for an operation at a rill core that waits since its halt group is stopped (R404). -/
def State.opWaits (s : State) (b : Body) : Bool :=
  let waits := fun (c k g : Nat) => s.work.ops.any (fun o => o.core == c && o.slot == k && o.gen == g && decide (4 ≤ o.kind)
    && s.groupStopped o.ctx (physPkg (s.physOf c)))
  match b with
  | .cancel c k g => waits c k g
  | .redirect c k g => waits c k g
  | .ready c k g _ _ _ => waits c k g
  | _ => false

/-- Whether a message is for a halted core, be it to a landing region of one of its threads, or for a waiting operation, and so is
held (R405). -/
def State.haltedAt (s : State) (m : Msg) : Bool :=
  (match m.dest with
    | .core c => s.coreHalted c
    | .member g r _ _ => (s.memberAt g r).any (fun x => s.coreHalted x.1)
    | _ => false) || s.opWaits m.body

/-- The package that a message leaves from, if it is known (R417). -/
def State.pkgOfWho (s : State) (w : Who) : Option Nat :=
  match w with
  | .thread c _ => some (physPkg (s.physOf c))
  | .op c _ _ _ => some (physPkg (s.physOf c))
  | .host w _ => some (w / 64)
  | .gate t _ => (s.task? t).map (fun x => x.die / 4)
  | .rill n => some (n / 1024)
  | .ju ch => some (ch / 512)
  | .core c => some (physPkg (s.physOf c))

/-- The package that a message goes to, if it is known. -/
def State.pkgOfDest (s : State) (d : Dest) : Option Nat :=
  match d with
  | .unit pa => some (paPkg pa)
  | .member g r _ _ => match s.past? g r with
    | some x => some (x.node / 1024)
    | none => (s.memberAt g r).map (fun x => physPkg (s.physOf x.1))
  | .core c => some (physPkg (s.physOf c))
  | .node n => some (n / 1024)
  | .host => none

/-- Whether a message waits since every route to its package is lost (R420). -/
def State.cutOff (s : State) (m : Msg) : Bool :=
  match s.pkgOfWho m.src, s.pkgOfDest m.dest with
  | some p, some q => !s.routed p q
  | _, _ => false

/-- Whether message `i` of the network can be delivered now. A context that stops discards the replies to core states that are
nowhere (R398). -/
def State.deliverable (s : State) (i : Nat) : Bool :=
  match s.lat.net[i]? with
  | none => false
  | some n => (n.via.isNone || s.discards n) && (s.takes n.dest || s.isStopping n.ctx) && !s.haltedAt n && !s.cutOff n
      && (s.lat.net.take i).all (fun m => !s.waitsFor n m (s.heldBack m.body)) && !s.heldBack n.body

/-- A message of a context has been received (R186). -/
def State.gotMsg (s : State) (ctx : Nat) : State := { s with lat := { s.lat with received := bumpCount ctx s.lat.received } }

/-- What the delivery of a message leaves beside it: it counts as received, and a rill core that takes it has served its context
(R186, R424). -/
def State.taken (s : State) (m : Msg) : State :=
  match m.dest with
  | .node n => (s.gotMsg m.ctx).servedBy m.ctx n
  | _ => s.gotMsg m.ctx

/-- Takes message `i` out of the network, if it can be delivered. -/
def State.takeMsg (s : State) (i : Nat) : Option (Msg × State) :=
  if s.deliverable i then
    (s.lat.net[i]?).map (fun m => (m, ({ s with lat := { s.lat with net := s.lat.net.eraseIdx i } } : State).taken m))
  else none

/-! ## Replies -/

/-- The first cluster rill core of a die, which takes what is for the die's launch records. -/
def dieNode (d : Nat) : Nat := d / 4 * 1024 + d % 4 * 16

/-- Sends a reply from a home. -/
def State.replyTo (s : State) (src : Who) (ctx : Nat) (w : Who) (b : Body) : State :=
  match w with
    | .thread c _ => s.send { src := src, ctx := ctx, dest := .core c, body := b }
    | .op c _ _ _ => s.send { src := src, ctx := ctx, dest := .core c, body := b }
    | .gate t _ =>
      s.send { src := src, ctx := ctx, dest := .node (dieNode (((s.task? t).map (·.die)).getD 0)), body := b }
    | _ => s

/-- The host refusal log of a package takes a record; of a full ring the oldest record is overwritten where it stands (R414). -/
def State.hostRefuse (s : State) (p cause win ctx va gen found : Nat) : State :=
  let k := s.pkg p
  let r := [cause * 2 ^ 56 + win * 2 ^ 50 + ctx * 2 ^ 32, va, gen % 65536 * 65536 + found % 65536, k.nrefused]
  let l := if 1024 ≤ k.refusals.length then k.refusals.set (k.nrefused % 1024) r else k.refusals ++ [r]
  s.setPkg p { k with refusals := l, nrefused := (k.nrefused + 1) % 2 ^ 64 }

/-- A PCI Express write that has no effect: AER logs an Unsupported Request error, signalled as non-fatal (R409, R414). -/
def State.unsupportedWrite (s : State) (p : Nat) : State :=
  let k := s.pkg p
  s.setPkg p { k with aerUr := true, nonFatal := k.nonFatal + 1 }

/-- A refused host write (R414): a record, and for a PCI Express write the error that AER logs. -/
def State.refuseWrite (s : State) (cxl : Bool) (p cause win ctx va gen found : Nat) : State :=
  let t := s.hostRefuse p cause win ctx va gen found
  if cxl then t else t.unsupportedWrite p

/-- The task name of the thread that an operation is from, or 0 (Table 16.3). -/
def State.whoName (s : State) (w : Who) : Nat :=
  match w with
  | .thread c k => ((s.hart? (.thread c k)).map (·.task.name)).getD 0
  | .op c k g _ =>
    match s.work.ops.find? (fun o => o.core == c && o.slot == k && o.gen == g) with
    | some o => ((s.task? o.task).map (·.name)).getD 0
    | none => 0
  | .gate t _ => ((s.task? t).map (·.name)).getD 0
  | _ => 0

/-- D0 of a fill-conflict record (Table 16.4). -/
def Who.issuerCode (w : Who) : Nat :=
  match w with
  | .thread _ _ => 0
  | .op _ _ _ _ => 1
  | _ => 2

/-- The fill-conflict context fault (R70). -/
def State.raiseConflict (s : State) (ctx pkg : Nat) (m : Member) (gen found : Nat) : State :=
  s.raise ctx (faultRec 1 pkg (s.whoName m.who) m.va gen found m.pc m.who.issuerCode 0 0) false

/-- The stale-generation context fault of outcome 6 (R82, R175). -/
def State.raiseStale (s : State) (ctx pkg : Nat) (m : Member) (gen found : Nat) : State :=
  let g := match m.who with
    | .gate _ _ => 1
    | _ => 0
  s.raise ctx (faultRec 2 pkg (s.whoName m.who) m.va gen found m.pc g 0 0) false

/-- What one member of a message ended in: a FAULT code if it was refused, its TCODE, and the generation found. -/
structure Verdict where
  m : Member
  fault : Option Nat
  tcode : Nat := 0
  found : Nat
  deriving DecidableEq, Repr

/-- The cause code of a host refusal record (R414). -/
def hostCause (fault : Option Nat) : Nat :=
  match fault with
  | some 1 => 4
  | some 2 => 5
  | some 3 => 6
  | _ => 2

/-- The records of a host write's refused cells, one for each (R139, R414). -/
def State.hostRefuseAll (s : State) (cxl : Bool) (ctx w gop : Nat) (l : List Verdict) : State :=
  l.foldl (fun t v =>
    if v.fault.isSome then t.refuseWrite cxl (w / 64) (hostCause v.fault) (w % 64) ctx v.m.va gop v.found else t) s

/-- The reply of one issuer's members of a message: an ACK if none was refused, otherwise a REFUSE with the
first refusal and every refused lane (R94, R121); a host write's refusals enter the host log (R414). -/
def State.replyGroup (s : State) (src : Who) (ctx gop : Nat) (l : List Verdict) : State :=
  match l.find? (fun v => v.fault.isSome), l with
  | some v, _ =>
    match v.m.who with
    | .host w cxl => s.hostRefuseAll cxl ctx w gop l
    | _ =>
      let lanes := l.foldl (fun a x => if x.fault.isSome then a ||| 2 ^ x.m.lane else a) 0
      s.replyTo src ctx v.m.who (.refuse v.m lanes (v.fault.getD 0) v.tcode gop v.found)
  | none, v :: _ => s.replyTo src ctx v.m.who (.ack v.m)
  | none, [] => s

/-- One reply to each issuer of a message, in the order of its members; the fuel is their number. -/
def State.replyAll (s : State) (src : Who) (ctx gop : Nat) : Nat → List Verdict → State
  | 0, _ => s
  | _, [] => s
  | n + 1, v :: l =>
    let mine := fun (x : Verdict) => x.m.who == v.m.who && x.m.entry == v.m.entry
    State.replyAll (s.replyGroup src ctx gop (v :: l.filter mine)) src ctx gop n (l.filter (fun x => !mine x))

/-! ## Join units -/

/-- What the members of a message did at a unit, one after another (R97): the unit, the verdicts, and the
members that raised a fill conflict with the generation found. -/
def applyMembers (ty sz : Nat) (kind : LKind) (gen : Nat) : List Member → LUnit → List Verdict → List (Member × Nat) →
    LUnit × List Verdict × List (Member × Nat)
  | [], u, vs, cs => (u, vs, cs)
  | m :: l, u, vs, cs =>
    let a := u.apply ty kind gen ((m.pa - u.pa) / cellBytes ty sz) m.v
    applyMembers ty sz kind gen l a.u (vs ++ [{ m := m, fault := a.fault, found := u.gen }])
      (if a.conflict then cs ++ [(m, u.gen)] else cs)

/-- The message that a member of a read came in, or the answer it gets: its WAKE, DATA or gate wake, with the
context fault of outcome 6 (R94, R82). -/
def State.answerRead (s : State) (src : Who) (ctx pkg : Nat) (r : LReq) (m : Member) (found : Nat) (a : Answer) : State :=
  match a with
  | .park => s
  | .wake o v =>
    let s1 := if o = 6 then s.raiseStale ctx pkg m r.gen found else s
    match m.who with
    | .gate t g => s1.replyTo src ctx m.who (.gateWake t g o)
    | _ => s1.replyTo src ctx m.who (.wake m o v)
  | .data v => s.replyTo src ctx m.who (.data m r.part r.len v 0 0)
  | .trap c => s.replyTo src ctx m.who (.data m r.part r.len 0 c found)

/-- The frozen line that a thread's read has been answered from is in its cluster cache, with its generation
(R83), in place of a copy of an earlier generation (log 91). -/
def State.cacheCopy (s : State) (w : Who) (pa gen img : Nat) : State :=
  match w with
  | .thread c _ =>
    let e : CLine := { cluster := physCluster (s.physOf c), line := pa / 64, dirty := false, gen := some gen, img := img }
    let l := s.lat.cache.filter (fun x => !(x.cluster == e.cluster && x.line == e.line && x.gen.isSome))
    ({ s with lat := { s.lat with cache := e :: l } } : State).evict e.cluster
  | _ => s

/-- Answers a read at its home, and keeps the line that a frozen read was answered from. -/
def State.answerHome (s : State) (ctx ty sz : Nat) (r : LReq) (m : Member) (u : LUnit) (a : Answer) : State :=
  let s1 := s.answerRead (.ju (paHome u.pa)) ctx (paPkg u.pa) r m u.gen a
  match a with
  | .data _ => s1.cacheCopy m.who m.pa u.gen (u.image ty sz / 2 ^ (8 * ((m.pa - u.pa) / 64 * 64)) % 2 ^ 512)
  | _ => s1

/-- Evaluates the parked readers of a unit in their order (R81, R100): those that complete are answered. -/
def State.reevaluate (s : State) (ty sz : Nat) (u : LUnit) : List Msg → List Msg → State × List Msg
  | [], keep => (s, keep)
  | p :: l, keep =>
    match p.body with
    | .lat r => match r.members with
      | m :: _ => match u.answer ty sz r m.pa with
        | .park => s.reevaluate ty sz u l (keep ++ [p])
        | a => (s.answerHome p.ctx ty sz r m u a).reevaluate ty sz u l keep
      | [] => s.reevaluate ty sz u l keep
    | _ => s.reevaluate ty sz u l keep

/-- The JU applies a message of updates or a FREEZE to its unit (R78, R91, R94, R97, R100). -/
def State.applyAt (s : State) (p : Msg) (r : LReq) (pa : Nat) : State :=
  let t := s.cellType pa
  let u := s.unitAt pa
  let a := applyMembers t.1 t.2 r.kind r.gen r.members u [] []
  let s1 := a.2.2.foldl (fun z c => z.raiseConflict p.ctx (paPkg pa) c.1 r.gen c.2) s
  let s2 := s1.replyAll (.ju (paHome pa)) p.ctx r.gen r.members.length a.2.1
  if a.1 = u then s2
  else
    let e := (s2.wrote pa (unitBytes t.1 t.2)).reevaluate t.1 t.2 a.1 u.parked []
    e.1.putUnit { a.1 with parked := e.2 }

/-! ## Weirs (R98, R99) -/

/-- Entries of a join unit's weir table, and slots of its trigger store. -/
def weirEntries : Nat := 4096
/-- Slots of a trigger store. -/
def weirSlots : Nat := 16384
/-- Bytes of an overflow area. -/
def weirOverflow : Nat := 2 ^ 26

/-- The trigger-store slots of a reader: one for each 64 bits of its triggers, be they a mask, candidates, a single threshold or
FILLED (log 92). -/
def LReq.slots (r : LReq) : Nat := r.trigs.length * (if r.ty = 5 then 8 else 1)

/-- The bytes that a reader takes in an overflow area: its entry of 128 bits and its triggers. -/
def LReq.weirBytes (r : LReq) : Nat := 16 + 8 * r.slots

/-- The request of a message, if it is a lattice message. -/
def Msg.lat? (m : Msg) : Option LReq :=
  match m.body with
  | .lat r => some r
  | _ => none

/-- The readers parked at a join unit. -/
def State.weir (s : State) (ch : Nat) : List LReq :=
  (s.lat.units.filter (fun u => paHome u.pa == ch)).flatMap (fun u => u.parked.filterMap Msg.lat?)

/-- Changes the entry of arrival number `n` in the weirs of a join unit. -/
def State.updWeir (s : State) (ch n : Nat) (f : LReq → LReq) : State :=
  let g := fun (p : Msg) => match p.body with
    | .lat r => if r.seq = n then { p with body := .lat (f r) } else p
    | _ => p
  { s with lat := { s.lat with
      units := updWhere (fun u => paHome u.pa == ch) (fun u => { u with parked := u.parked.map g }) s.lat.units } }

/-- Whether a weir table and a trigger store have room for a reader beside those that are not in the overflow area. -/
def weirFits (l : List LReq) (r : LReq) : Bool :=
  let here := l.filter (fun x => !x.moved)
  decide (here.length < weirEntries) && decide ((here.map (·.slots)).sum + r.slots ≤ weirSlots)

/-- The entries that go to the overflow area so that a reader has room (R98), of those that are not there, the oldest first. -/
def weirMoves (r : LReq) : List LReq → List LReq
  | [] => []
  | x :: l => if weirFits (x :: l) r then [] else x :: weirMoves r l

/-- The readers of a join unit that are not in the overflow area, the oldest first. -/
def State.weirHere (s : State) (ch : Nat) : List LReq := sortBy (·.seq) ((s.weir ch).filter (fun x => !x.moved))

/-- Moves the oldest entries to the overflow area until there is room for a reader (R98). -/
def State.weirRoom (s : State) (ch : Nat) (r : LReq) : State :=
  (weirMoves r (s.weirHere ch)).foldl (fun t x => t.updWeir ch x.seq (fun y => { y with moved := true })) s

/-- The bytes in use of the overflow area of the rill core that owns a channel: those of its 8 channels (R98, R105). -/
def State.weirArea (s : State) (ch : Nat) : Nat :=
  (((countFrom (ch / 8 * 8) 8).flatMap s.weir).filter (·.moved)).map (·.weirBytes) |>.sum

/-- Whether a join unit accepts a reader (R98): its table and store have room, or the overflow area has for what would move. -/
def State.weirTakes (s : State) (ch : Nat) (r : LReq) : Bool :=
  let l := weirMoves r (s.weirHere ch)
  l.isEmpty || decide (s.weirArea ch + (l.map (·.weirBytes)).sum ≤ weirOverflow)

/-- The first trigger-store slot of a reader: the lowest place with so many slots free (log 79). -/
def weirSlot (l : List LReq) (n : Nat) : Nat :=
  let used := (l.filter (fun x => !x.moved && decide (0 < x.slots))).map (fun x => (x.tidx, x.slots))
  let free := fun (i : Nat) => used.all (fun u => !overlaps i (i + n) u.1 (u.1 + u.2))
  (((0 :: used.map (fun u => u.1 + u.2)).filter free).min?).getD 0

/-- A reader parks in the weir of its unit with the next arrival number of its join unit (R98, R99). -/
def State.parkReader (s : State) (p : Msg) (r : LReq) (u : LUnit) : State :=
  let ch := paHome u.pa
  let s1 := (s.putUnit u).weirRoom ch r
  let n := assocGet 0 ch s1.lat.arrivals
  let r' := { r with seq := n, tidx := weirSlot (s1.weir ch) r.slots, moved := false }
  let v := s1.unitAt u.pa
  let s2 := s1.putUnit { v with parked := v.parked ++ [{ p with body := .lat r' }] }
  { s2 with lat := { s2.lat with arrivals := assocSet ch (n + 1) s2.lat.arrivals } }

/-- Whether an operation is of a task's gate. -/
def Who.isGate (w : Who) : Bool :=
  match w with
  | .gate _ _ => true
  | _ => false

/-- KIND of a weir entry (Table 4.4). -/
def LReq.weirKind (r : LReq) : Nat :=
  if r.members.any (fun m => m.who.isGate) then 4
  else match r.kind with
    | .thrF => 1
    | .frd => if r.part = 0 then 2 else 3
    | _ => 0

/-- The global address of a reader's reply slot, bits [63:6]: the core and thread slot of a thread, or the launch record of a gated
task. The manual gives no layout of either (log 79). -/
def Who.replySlot (w : Who) : Nat :=
  match w with
  | .thread c k => (c * 8 + k) % 2 ^ 58
  | .gate t _ => (2 ^ 57 + t) % 2 ^ 58
  | _ => 0

/-- The two words of a weir entry (Table 4.4), word 0 first; `u` is its unit. -/
def LReq.weirWords (r : LReq) (u : Nat) : Nat × Nat :=
  let m := r.members.head?
  let off := ((m.map (·.pa)).getD u - u) % 4096
  (2 ^ 63 + r.weirKind * 2 ^ 60 + r.gen % 65536 * 2 ^ 44 + off * 2 ^ 32 + r.trigs.length % 8 * 2 ^ 29 + r.tidx % 2 ^ 14 * 2 ^ 15
    + r.seq % 2 ^ 15,
   ((m.map (fun x => x.who.replySlot)).getD 0) * 64)

/-- The JU evaluates a read (R80, R83): it completes or parks in the weir. -/
def State.readAt (s : State) (p : Msg) (r : LReq) (pa : Nat) : State :=
  let t := s.cellType pa
  let u := s.unitAt pa
  match r.members with
  | [] => s
  | m :: _ => match u.answer t.1 t.2 r m.pa with
    | .park => s.parkReader p r u
    | a => s.answerHome p.ctx t.1 t.2 r m u a

/-- The replicas of the page that holds a physical address (R37). -/
def State.replicasOf (s : State) (pa : Nat) : List (Nat × Nat) := ((s.frameOf pa).map (·.replicas)).getD []

/-- Whether an operation would advance its unit (R78). -/
def LReq.advances (r : LReq) (u : LUnit) : Bool := r.kind.isUpdate && genDist r.gen u.gen == 1

/-- Whether a read is served by a replica of its page (R37, R83): one of the unit's frozen generation, which the replicas hold
until their invalidation is acknowledged (Table 4.8). -/
def State.atReplica (s : State) (r : LReq) (u : LUnit) (pa : Nat) : Bool :=
  !r.kind.isUpdate && r.kind != .freeze && u.st == .frozen && r.gen == u.gen && !(s.replicasOf pa).isEmpty

/-- An operation to a unit with a lost line fails, and the context fault stops its context (R90). -/
def State.loseAt (s : State) (p : Msg) (r : LReq) (pa : Nat) : State :=
  match r.members with
  | m :: _ => s.raiseLoss p.ctx (paPkg pa) (s.whoName m.who) m.va m.pc
      (s.lossD0 pa (unitBytes (s.cellType pa).1 (s.cellType pa).2))
  | [] => s

/-- The JU takes up a message, or queues it behind a held one; one that would advance a unit of a page with
replicas is held until they are invalidated (R95). -/
def State.homeStep (s : State) (p : Msg) (r : LReq) (pa : Nat) : State :=
  let u := s.unitAt pa
  if s.isLost pa (unitBytes (s.cellType pa).1 (s.cellType pa).2) then s.loseAt p r pa
  else if s.atReplica r u pa then s.readAt p r pa
  else if !u.held.isEmpty || (r.advances u && !(s.replicasOf pa).isEmpty) then s.putUnit { u with held := u.held ++ [p] }
  else if r.kind.isUpdate || r.kind == .freeze then s.applyAt p r pa
  else s.readAt p r pa

/-- Whether the join unit at a place takes a message up now: its bank is not held by a bank unit (R106), and a reader has room in
the weir (R98). -/
def State.homeTakes (s : State) (r : LReq) (pa : Nat) : Bool :=
  !s.bankHeld pa && (r.kind.isUpdate || r.kind == .freeze || s.weirTakes (paHome pa) r)

/-- Whether a thread has issued a message after another to one home (R113). -/
def Msg.follows (p m : Msg) : Bool :=
  match p.lat?, m.lat? with
  | some a, some b => a.members.any (fun x => b.members.any (fun y => x.who == y.who && x.home.isSome && x.home == y.home && decide (y.seq < x.seq)))
  | _, _ => false

/-- Puts a message before every other of the network but those it follows and what lies before them. -/
def putBack (p : Msg) : List Msg → List Msg
  | [] => [p]
  | m :: l => if (m :: l).any p.follows then m :: putBack p l else p :: m :: l

/-- Messages that were taken out of the network wait in it again, before the others. -/
def State.backToNet (s : State) (l : List Msg) : State :=
  { s with lat := { s.lat with net := l.foldr putBack s.lat.net, sent := l.foldl (fun c m => bumpCount m.ctx c) s.lat.sent } }

/-- Takes up the messages that a unit held, in their order; from the first that its join unit does not take now they wait in the
network (R98, R106). -/
def State.releaseHeld (s : State) (pa : Nat) : List Msg → State
  | [] => s
  | p :: l => match p.body with
    | .lat r => if s.homeTakes r pa then (s.homeStep p r pa).releaseHeld pa l else s.backToNet (p :: l)
    | _ => s.releaseHeld pa l

/-! ## Events at join units and eddies -/

/-- Delivers lattice message `i` to its unit if its class is one of those given. -/
def State.toHome (s : State) (i : Nat) (k : LKind → Bool) : Out :=
  match s.takeMsg i with
  | none => .next s
  | some (p, t) => match p.body, p.dest with
    | .lat r, .unit pa => if k r.kind ∧ s.homeTakes r pa = true then .next (t.homeStep p r pa) else .next s
    | _, _ => .next s

/-- APPLY (R78): operand 0 is the message's place in the network. -/
def execApply (s : State) : Out := s.toHome (s.evArg 0) (fun k => k.isUpdate || k == .freeze)

/-- EVALUATE (R80). -/
def execEvaluate (s : State) : Out := s.toHome (s.evArg 0) (fun k => k == .thr || k == .thrF)

/-- FROZEN_READ_EVALUATE (R83). -/
def execFrozenReadEvaluate (s : State) : Out := s.toHome (s.evArg 0) (fun k => k == .frd)

/-- Removes every replica of the page that holds a physical address, with its frames. -/
def State.dropReplicas (s : State) (pa : Nat) : State :=
  let gone := (s.replicasOf pa).map (·.2)
  let l := updWhere (fun f => decide (f.pa ≤ pa) && decide (pa < f.pa + f.size)) (fun f => { f with replicas := [] })
    (s.lat.frames.filter (fun f => !gone.contains f.pa))
  { s with lat := { s.lat with frames := l } }

/-- INVALIDATION_COMPLETE (R95): operand 0 is the unit's physical address. -/
def execInvalidationComplete (s : State) : Out :=
  let pa := s.evArg 0
  let u := s.unitAt pa
  if u.held.isEmpty then .next s
  else .next (((s.dropReplicas pa).putUnit { u with held := [] }).releaseHeld pa u.held)

/-- Whom a message is from: its source, and every member of a combined one. -/
def Msg.sources (m : Msg) : List Who :=
  match m.body with
  | .lat r => m.src :: r.members.map (·.who)
  | _ => [m.src]

/-- Whether a context has an end-to-end sealed path, so that its collectives trap (R419). -/
def State.onSealedPath (s : State) (c : Nat) : Bool := (s.ctx? c).any (fun x => !x.sealedPaths.isEmpty)

/-- Whether a message goes over an end-to-end sealed path (R419): between the package of one of its sources and that of its home. -/
def State.overSealed (s : State) (m : Msg) : Bool :=
  (s.ctx? m.ctx).any (fun x => x.sealedPaths.any (fun e => m.sources.any (fun w => match s.pkgOfWho w, s.pkgOfDest m.dest with
    | some p, some q => e == (p, q) || e == (q, p)
    | _, _ => false)))

/-- The classes that an eddy combines (Table 4.3): for FILL, equal bytes. -/
def mergeable (a b : LReq) : Bool :=
  a.kind == b.kind && a.ty == b.ty && a.sz == b.sz && a.gen == b.gen && decide (a.members.length + b.members.length < 8)
    && (match a.kind with
      | .fill => a.members.map (fun m => (m.pa, m.v)) |>.all (fun x => b.members.all (fun y => x == (y.pa, y.v)))
      | .thr => false
      | .thrF => false
      | .frd => false
      | _ => true)

/-- Whether an eddy may merge arriving message `j` into pending message `i` (R96). -/
def State.canMerge (s : State) (i j : Nat) : Bool :=
  match s.lat.net[i]?, s.lat.net[j]? with
  | some p, some q => match p.body, q.body with
    | .lat a, .lat b =>
      decide (i < j) && p.dest == q.dest && p.via.isNone && q.via.isNone && p.ctx == q.ctx && mergeable a b
        && !s.overSealed p && !s.overSealed q
        && ((s.lat.net.drop (i + 1)).take (j - i - 1)).all (fun m => m.sources.all (fun w => !q.sources.contains w))
    | _, _ => false
  | _, _ => false

/-- EDDY_MERGE (R96, R97): operands 0 and 1 are the pending and the arriving message; one that may not merge
is passed on as it is. -/
def execEddyMerge (s : State) : Out :=
  let i := s.evArg 0
  let j := s.evArg 1
  if s.canMerge i j then
    match s.lat.net[i]?, s.lat.net[j]? with
    | some p, some q => match p.body, q.body with
      | .lat a, .lat b =>
        let c : Msg := { p with body := .lat { a with members := a.members ++ b.members } }
        .next (({ s with lat := { s.lat with net := (s.lat.net.set i c).eraseIdx j } } : State).gotMsg q.ctx)
      | _, _ => .next s
    | _, _ => .next s
  else .next s

/-! ## Landing regions (R57 to R59) -/

/-- The rank of a gang that a thread has. -/
def State.rankOf (s : State) (w : Who) : Option (Nat × Nat) :=
  match w with
  | .thread c k => match s.hart? (.thread c k) with
    | some h => h.task.gang.map (fun g => (g, h.task.rank))
    | none => none
  | _ => none

/-- The bytes of a tile of a landing region (Table 2.3). -/
def Win.tile (w : Win) : Nat := 8 * 2 ^ w.tsize

/-- A region with its bytes. -/
structure Land where
  w : Win
  view : List Host.Cell
  deriving DecidableEq, Repr

/-- What one operation did at a landing region. -/
structure LandRes where
  l : Land
  fault : Option Nat := none
  tcode : Nat := 0
  conflict : Bool := false
  deriving DecidableEq, Repr

/-- A refusal with PROT (R57). -/
def Land.prot (l : Land) : LandRes := { l := l, fault := some 4, tcode := 6 }

/-- A FILL of a landing region (Table 2.8). -/
def Land.fill (l : Land) (r : LReq) (off v : Nat) : LandRes :=
  let n := l.w.tile
  let i := (off - l.w.base) / n
  let d := genDist r.gen l.w.lgen
  if r.sz ≠ l.w.tsize ∨ (off - l.w.base) % n ≠ 0 then l.prot
  else if 32768 ≤ d then { l := l, fault := some 2 }
  else if d ≠ 0 then { l := l, fault := some 3 }
  else match l.w.lstate with
    | .frozen => { l := l, fault := some 1 }
    | .conflict => { l := l }
    | .growing =>
      if l.w.filled.getD i false then
        if Mem.readN l.view off n = v % 2 ^ (8 * n) then { l := l }
        else { l := { l with w := { l.w with lstate := .conflict } }, conflict := true }
      else { l := { w := { l.w with filled := l.w.filled.set i true }, view := Mem.writeN l.view off n v } }

/-- A FREEZE of a landing region (Table 2.8). -/
def Land.freeze (l : Land) (r : LReq) : LandRes :=
  let d := genDist r.gen l.w.lgen
  if 32768 ≤ d then { l := l, fault := some 2 }
  else if d ≠ 0 then { l := l, fault := some 3 }
  else if l.w.lstate = .growing then { l := { l with w := { l.w with lstate := .frozen } } }
  else { l := l }

/-- A RENEW of a landing region (Table 2.8): the message carries g + 1. -/
def Land.renew (l : Land) (r : LReq) (owner armed : Bool) : LandRes :=
  let d := genDist (r.gen + 65535) l.w.lgen
  if !owner || armed then l.prot
  else if 32768 ≤ d then { l := l, fault := some 2 }
  else if d ≠ 0 then { l := l, fault := some 3 }
  else
    let w := { l.w with lgen := (l.w.lgen + 1) % 65536, lstate := .growing, filled := l.w.filled.map (fun _ => false) }
    { l := { w := w, view := Mem.clear l.view w.base (w.base + w.len) } }

/-- One update or FREEZE of a landing region (Table 2.8). -/
def Land.apply (l : Land) (r : LReq) (off v : Nat) (owner armed : Bool) : LandRes :=
  match r.kind with
  | .fill => l.fill r off v
  | .freeze => l.freeze r
  | .renew => l.renew r owner armed
  | _ => l.prot

/-- What a landing region answers to a read (R59): FILLED is its only trigger. -/
def Land.answer (l : Land) (r : LReq) (off : Nat) : Answer :=
  let d := genDist r.gen l.w.lgen
  if r.kind = .frd then
    if 32768 ≤ d then .trap 0x13
    else if d ≠ 0 then .park
    else match l.w.lstate with
      | .conflict => .trap 0x12
      | .growing => .park
      | .frozen => .data (Mem.readN l.view off r.len)
  else if r.sz ≠ l.w.tsize then .trap 9
  else if 32768 ≤ d then .wake 6 0
  else if d ≠ 0 then .park
  else match l.w.lstate with
    | .conflict => .wake 5 0
    | st =>
      if r.kind = .thr ∧ l.w.filled.getD ((off - l.w.base) / l.w.tile) false then .wake 0 0
      else if st = .frozen then .wake 4 0
      else .park

/-- A region of a live member and its bytes. -/
def Hart.landOf (h : Hart) (buf off : Nat) : Option Land :=
  (landAt h.t.scr.wins buf off).map (fun w => { w := w, view := h.t.scr.view buf })

/-- Puts a region back. -/
def Hart.putLand (h : Hart) (l : Land) : Hart :=
  let c := h.t.scr.setView l.w.buf l.view
  h.setScr { c with wins := updWhere (fun w => w.land && w.buf == l.w.buf && w.base == l.w.base) (fun _ => l.w) c.wins }

/-- A region of an exited member (R58). -/
def PastMember.landOf (p : PastMember) (buf off : Nat) : Option Land :=
  (landAt p.wins buf off).map (fun w => { w := w, view := if buf = 0 then p.w else p.a })

/-- The region that an operation reaches at an exited member where none ever covered it: frozen at the
operation's own generation, every tile empty (R58). -/
def ghostLand (r : LReq) (buf off : Nat) : Land :=
  let g := if r.kind = .renew then (r.gen + 65535) % 65536 else r.gen
  let w : Win := { buf := buf, base := off, len := 8 * 2 ^ r.sz, land := true, tsize := r.sz, lstate := .frozen, lgen := g,
                   filled := [] }
  { w := w, view := [] }

/-- The detail of a trap that a landing region gives: the generation found, or PROT. -/
def landDetail (c found : Nat) : Nat := if c = 9 then 6 else found

/-- Answers a read at a landing region. -/
def State.answerLand (s : State) (src : Who) (ctx pkg : Nat) (r : LReq) (m : Member) (found : Nat) (a : Answer) : State :=
  match a with
  | .trap c => s.replyTo src ctx m.who (.data m r.part r.len 0 c (landDetail c found))
  | _ => s.answerRead src ctx pkg r m found a

/-- Evaluates the readers parked at a region of a member (R59). -/
def State.reevalLand (s : State) (src : Who) (pkg gang rank : Nat) (l : Land) : List Msg → List Msg → State
  | [], keep => { s with lat := { s.lat with landParked := keep } }
  | p :: ps, keep =>
    match p.body, p.dest with
    | .lat r, .member g q buf off =>
      if g = gang ∧ q = rank ∧ buf = l.w.buf ∧ l.w.base ≤ off ∧ off < l.w.base + l.w.len then
        match l.answer r off, r.members with
        | .park, _ => s.reevalLand src pkg gang rank l ps (keep ++ [p])
        | a, m :: _ => (s.answerLand src p.ctx pkg r m l.w.lgen a).reevalLand src pkg gang rank l ps keep
        | _, [] => s.reevalLand src pkg gang rank l ps keep
      else s.reevalLand src pkg gang rank l ps (keep ++ [p])
    | _, _ => s.reevalLand src pkg gang rank l ps (keep ++ [p])

/-- Where a message to a gang member goes. -/
structure ToMember where
  gang : Nat
  rank : Nat
  buf : Nat
  off : Nat
  deriving DecidableEq, Repr

/-- What the members of an update or a FREEZE did at a landing region: the region, the verdict of each, and the conflict. A RENEW
of the owner applies once, and one of any other member is refused (Table 2.8, Table 4.3). -/
def Land.applyAll (l : Land) (r : LReq) (off : Nat) (owner : Member → Bool) (armed : Bool) : LandRes × List Verdict :=
  let v := ((r.members.head?).map (·.v)).getD 0
  let a := l.apply r off v (r.members.any owner) armed
  (a, r.members.map (fun x =>
    if r.kind = .renew ∧ owner x = false then { m := x, fault := some 4, tcode := 6, found := l.w.lgen }
    else { m := x, fault := a.fault, tcode := a.tcode, found := l.w.lgen }))

/-- Judges a lattice message at a landing region (R57, R59): `put` puts a changed region back. A refused RENEW reports the
generation that its message carried, one more than the one its instruction named (log 90). -/
def State.judgeLand (s : State) (src : Who) (pkg : Nat) (p : Msg) (r : LReq) (d : ToMember) (l : Land) (armed live : Bool)
    (put : Land → State → State) : State :=
  match r.members with
  | [] => s
  | m :: _ =>
    if r.kind.isUpdate || r.kind == .freeze then
      let a := l.applyAll r d.off (fun x => live && s.rankOf x.who == some (d.gang, d.rank)) armed
      let s1 := if a.1.conflict then s.raiseConflict p.ctx pkg m r.gen l.w.lgen else s
      let s2 := s1.replyAll src p.ctx r.gen r.members.length a.2
      if a.1.l = l then s2
      else (put a.1.l s2).reevalLand src pkg d.gang d.rank a.1.l s2.lat.landParked []
    else match l.answer r d.off with
      | .park => { s with lat := { s.lat with landParked := s.lat.landParked ++ [p] } }
      | a => s.answerLand src p.ctx pkg r m l.w.lgen a

/-- Judges a message at an exited member (R58). -/
def State.judgePast (s : State) (p : Msg) (r : LReq) (d : ToMember) (x : PastMember) : State :=
  s.judgeLand (.rill x.node) (x.node / 1024) p r d ((x.landOf d.buf d.off).getD (ghostLand r d.buf d.off)) false false (fun _ t => t)

/-- The owner's core takes up a message: it is judged at the region that covers it, waits for one, or is
judged as R58 gives once the member has exited. One that waits counts as taken up: a later operation of its thread to another
unit may be applied before it (log 89). -/
def State.landStep (s : State) (p : Msg) (r : LReq) (d : ToMember) : State :=
  match s.past? d.gang d.rank with
  | some x => s.judgePast p r d x
  | none => match s.memberAt d.gang d.rank with
    | none => { s with lat := { s.lat with waiting := s.lat.waiting ++ [p] } }
    | some (c, k) => match s.hart? (.thread c k) with
      | none => { s with lat := { s.lat with waiting := s.lat.waiting ++ [p] } }
      | some h => match h.landOf d.buf d.off with
        | none => { s with lat := { s.lat with waiting := s.lat.waiting ++ [p] } }
        | some l =>
          s.judgeLand (.core c) (physPkg (s.physOf c)) p r d l (h.t.scr.onArmed l.w.buf l.w.base l.w.len) true
            (fun l t => t.updHart (.thread c k) (fun g => g.putLand l))

/-- LANDING_APPLY (R57): operand 0 is the message. -/
def execLandingApply (s : State) : Out :=
  match s.takeMsg (s.evArg 0) with
  | none => .next s
  | some (p, t) => match p.body, p.dest with
    | .lat r, .member g q b o => .next (t.landStep p r { gang := g, rank := q, buf := b, off := o })
    | _, _ => .next s

/-- The messages of a list that a condition on their place picks. -/
def pickMember (f : ToMember → Bool) (l : List Msg) : List Msg :=
  l.filter (fun p => match p.dest with
    | .member g q b o => f { gang := g, rank := q, buf := b, off := o }
    | _ => false)

/-- A landing region has been created: the operations that waited for it are in the network again, before the
others (R58), each behind those of its thread to the member that are still on their way (R113). -/
def State.wakeLanding (s : State) (gang rank : Nat) (w : Win) : State :=
  let f := fun (d : ToMember) => d.gang == gang && d.rank == rank && d.buf == w.buf && decide (w.base ≤ d.off)
    && decide (d.off < w.base + w.len)
  let mine := pickMember f s.lat.waiting
  ({ s with lat := { s.lat with waiting := s.lat.waiting.filter (fun p => !mine.contains p) } } : State).backToNet mine

end Sys2Proof.Machine
end

