-- ==== Sys2Proof/Machine/Op.lean ====
section
/-! DEFINITION. Child operations: tokens and the token table, range registration, issue, the operation's end, AFTER
dependencies, and page retirement (R20, R133 to R137, R192 to R206, R317 to R321). -/

namespace Sys2Proof.Machine

/-! ## Tokens (Table 8.2) -/

/-- The code of a state (Table 8.3). -/
def OpState.code (t : OpState) : Nat :=
  match t with
  | .queued => 0
  | .running => 1
  | .suspended => 2
  | .done => 3
  | .failed => 4
  | .cancelled => 5

/-- Whether the operation is the one of a core state, slot and slot generation. -/
def Op.is (o : Op) (core slot gen : Nat) : Bool := o.core == core && o.slot == slot && o.gen == gen

/-- The operation that messages of a core state, slot and slot generation mean: one that no orphan area holds (R205). -/
def State.op? (s : State) (core slot gen : Nat) : Option Op :=
  s.work.ops.find? (fun o => o.is core slot gen && o.hold != 4 && o.hold != 5)

/-- Whether two records are of one operation: the order of issue is its own. -/
def Op.same (o p : Op) : Bool := o.order == p.order && o.is p.core p.slot p.gen

/-- Replaces an operation by itself changed. -/
def State.setOp (s : State) (o : Op) : State :=
  { s with work := { s.work with ops := updWhere (fun x => x.same o) (fun _ => o) s.work.ops } }

/-- Whether a cancel of an operation is in flight. -/
def State.cancelComes (s : State) (o : Op) : Bool :=
  s.lat.net.any (fun m => match m.body with
    | .cancel c k g => o.is c k g
    | _ => false)

/-- Takes an operation out of the list. A cancel still in flight to one that ended done or failed is one that finds it so
(R203). -/
def State.dropOp (s : State) (o : Op) : State :=
  let t : State := { s with work := { s.work with ops := s.work.ops.filter (fun x => !x.same o) } }
  if (o.st = .done ∨ o.st = .failed) ∧ s.cancelComes o = true then t.setDetrel o.ctx else t

/-- The value of a token. -/
def tokenValue (gen tag slot thread kind prio : Nat) : Word :=
  BitVec.ofNat 64 (gen % 65536 * 2 ^ 48 + tag % 4096 * 2 ^ 36 + slot % 256 * 2 ^ 28 + thread % 8 * 2 ^ 25
    + kind % 16 * 2 ^ 21 + prio % 16 * 2 ^ 17 + 1)

/-- SLOT and GEN of a token. -/
def tokSlot (v : Word) : Nat := bits v.toNat 35 28
/-- GEN of a token. -/
def tokGen (v : Word) : Nat := bits v.toNat 63 48

/-- CORE of a token. -/
def tokTag (v : Word) : Nat := bits v.toNat 47 36

/-- Whether a core state admits a tag in a token of a slot: its own, or one that its tag map has for the slot (R196, R387). -/
def Core.admits (c : Core) (slot tag : Nat) : Bool := c.tag == tag || c.tags.contains (slot, tag)

/-- The operation that a token of the issuing thread names in its table, or nothing for the empty token (V = 0,
log 23) and for one whose slot generation no longer matches (R199). -/
def State.tokenOp (s : State) (v : Word) : Option Op :=
  if v.getLsbD 0 && (s.core? s.coreId).any (fun c => c.admits (tokSlot v) (tokTag v)) then
    s.work.ops.find? (fun o => o.is s.coreId (tokSlot v) (tokGen v) && o.hold == 0)
  else none

/-- The slots that a thread holds (R197). -/
def State.slotsHeld (s : State) (core thread : Nat) : Nat :=
  (s.work.ops.filter (fun o => o.core == core && o.thread == thread && o.hold == 0)).length

/-- The generation of a slot (R196). -/
def State.slotGen (s : State) (core slot : Nat) : Nat := ((s.core? core).map (fun c => assocGet 0 slot c.gens)).getD 0

/-- Whether a slot of a core's token table is free. -/
def State.slotOpen (s : State) (core i : Nat) : Bool := !s.work.ops.any (fun o => o.core == core && o.slot == i && o.hold == 0)

/-- The free slot that the next operation of a core takes (R192): the lowest whose generation no operation still under way
bears (R205), otherwise the lowest (log 70). -/
def State.freeSlot (s : State) (core : Nat) : Nat :=
  let l := (countFrom 0 256).filter (s.slotOpen core)
  ((l.find? (fun i => !s.work.ops.any (fun o => o.is core i (s.slotGen core i)))).or l.head?).getD 0

/-- Frees a slot: its generation rises, and another core's tag is no longer admitted in it (R196, R387). -/
def State.bumpGen (s : State) (core slot : Nat) : State :=
  s.updCore core (fun c => { c with gens := assocSet slot ((assocGet 0 slot c.gens + 1) % 65536) c.gens
                                    tags := c.tags.filter (fun x => x.1 != slot) })

/-! ## Ranges (R134, R136, R137) -/

/-- A range that an engine instruction registers (Table 13.3): space 0 PRIV virtual, 1 W, 2 A, 3 C; whether it is
written, and whether it registers in WATERMARK mode. -/
structure Rng where
  space : Nat
  lo : Nat
  hi : Nat
  wr : Bool
  mark : Bool := false
  deriving DecidableEq, Repr

/-- Whether a virtual range meets a PRIV region of the issuing context. -/
def State.onPriv (s : State) (lo hi : Nat) : Bool :=
  match s.ctx? s.h.task.ctx with
  | some c => c.regions.any (fun r => r.kind == 1 && overlaps lo hi r.base (r.base + r.len))
  | none => false

/-- Whether every byte of a range of W lies in armed macros. -/
def Scratch.allArmed (c : Scratch) (lo hi : Nat) : Bool :=
  decide (lo < hi) && (countFrom (lo / 0x6000) ((hi - 1) / 0x6000 + 1 - lo / 0x6000)).all (fun i => c.armed.any (fun a => a.off == i * 0x6000))

/-- The ranges that are registered: views, and virtual ranges in PRIV pages (R321); not a read of an armed W region (R134). -/
def State.registered (s : State) (l : List Rng) : List Rng :=
  l.filter (fun r => decide (r.lo < r.hi) && (if r.space = 0 then s.onPriv r.lo r.hi
    else !(r.space == 1 && !r.wr && s.h.t.scr.allArmed r.lo r.hi)))

/-- Whether a range conflicts with an entry that no AFTER token of the instruction names (R136). -/
def Rng.hits (r : Rng) (named : List (Nat × Nat)) (e : RangeLock) : Bool :=
  e.space == r.space && overlaps r.lo r.hi e.start e.stop && (r.wr || e.dir) && !named.contains (e.kslot, e.kgen)

/-- The first conflict of a list of ranges with the thread's entries: the address and the entry. -/
def rangeClash (named : List (Nat × Nat)) (locks : List (Nat × RangeLock)) : List Rng → Option (Nat × Nat)
  | [] => none
  | r :: l => match locks.find? (fun e => r.hits named e.2) with
    | some e => some (r.lo, e.1)
    | none => rangeClash named locks l

/-- The entries of a thread after it registers ranges for an operation, in its lowest free entries. -/
def addLocks (slot gen : Nat) : List Rng → List (Nat × RangeLock) → List (Nat × RangeLock)
  | [], l => l
  | r :: rs, l =>
    let i := ((countFrom 0 4).find? (fun i => !l.any (fun e => e.1 == i))).getD 0
    let e : RangeLock := { watermark := r.mark, dir := r.wr, space := r.space, kslot := slot, kgen := gen, start := r.lo,
                           stop := r.hi, wmark := if r.mark then r.lo else 0 }
    addLocks slot gen rs ((i, e) :: l)

/-- The thread's entries in the order of their numbers. -/
def sortLocks (l : List (Nat × RangeLock)) : List (Nat × RangeLock) :=
  (countFrom 0 4).flatMap (fun i => l.filter (fun e => e.1 == i))

/-- Replaces the range-lock entries of a hart. -/
def Hart.setLocks (h : Hart) (l : List (Nat × RangeLock)) : Hart := { h with t := { h.t with rlt := l } }

/-- Releases the entries of an operation (R137). -/
def Hart.unlock (h : Hart) (slot gen : Nat) : Hart :=
  h.setLocks (h.t.rlt.filter (fun e => !(e.2.kslot == slot && e.2.kgen == gen)))

/-- The hart of an operation's thread. -/
def Op.hart (o : Op) : HartId := .thread o.core o.thread

/-! ## The end of an operation (R137, R198 to R206) -/

/-- Whether a hart is that of a task that has exited, or none. -/
def State.gone (s : State) (id : HartId) : Bool :=
  match s.hart? id with
  | none => true
  | some h => h.stat == .exited

/-- Retires the PRIV pages of a task: their leaves stay, marked retired, and their frames are free (R20). -/
def State.retirePages (s : State) (ctx task : Nat) : State :=
  (s.lat.frames.filter (fun f => f.ctx == ctx && f.kind == 1)).foldl (fun t f =>
    match t.walk ctx f.va with
    | .ok l =>
      if l.kind = 1 ∧ l.owner = task then
        let u := t.changeLeaf (paPkg f.pa) ctx { l with ret := true }
        { u with lat := { u.lat with frames := u.lat.frames.filter (fun x => x.pa != f.pa) } }
      else t
    | .error _ => t) s

/-- Retires the pages of a task once it has exited and every operation it issued has ended (R20). -/
def State.settleTask (s : State) (ctx task : Nat) : State :=
  match s.task? task with
  | some t =>
    if t.st = .exited ∧ t.retired = false ∧ s.work.ops.all (fun o => o.task != task || o.st.ended) then
      let u := s.retirePages ctx task
      { u with work := { u.work with tasks := updWhere (fun x => x.num == task) (fun x => { x with retired := true }) u.work.tasks } }
    else s
  | none => s

/-- The completion join of a detached operation that ended done (R204), as unit 2^32 of the operation. -/
def State.completionJoin (s : State) (o : Op) : State :=
  match o.cell with
  | none => s
  | some (va, pa, gen) =>
    let ty := (s.cellType pa).1
    let m : Member := { who := .op o.core o.slot o.gen (2 ^ 32), va := va, pa := pa,
                        v := if ty = 6 then 1 + 0xFFFFFFFF * 2 ^ 32 else 1 }
    let r : LReq := { kind := .join, ty := ty, gen := gen, members := [m] }
    s.send { src := .op o.core o.slot o.gen (2 ^ 32), ctx := o.ctx, dest := .unit (unitOf ty 0 pa), body := .lat r }

/-- Releases the entries of an operation in every thread slot of its core: those of an exited thread stay with its slot (R133,
R137). -/
def State.unlockAll (s : State) (o : Op) : State :=
  s.mapHarts (fun h => if h.isThread && h.coreSlot.1 == o.core then h.unlock o.slot o.gen else h)

/-- A detached operation has ended: the join if it is done, otherwise its record is kept for the host (R204). Its
range-lock entries go once its thread has exited (R137). -/
def State.endDetached (s : State) (o : Op) : State :=
  let s1 := if s.gone o.hart then s.unlockAll o else s
  if o.st = .done then (s1.setOp { o with hold := 3 }).completionJoin o else s1.setOp { o with hold := 5 }

/-- An operation that depends on another that has ended, after it: free of it, or failed with CLASS 7 (R201). -/
def Op.afterEnd (o d : Op) : Op :=
  if o.aft.contains (d.core, d.slot, d.gen) then
    if d.st = .done then { o with aft := o.aft.filter (fun x => x != (d.core, d.slot, d.gen)) }
    else if o.st = .queued then { o with st := .failed, cls := 7, code := d.st.code, aft := [], replied := true }
    else o
  else o

/-- Notes at the other members' instances of a collective how this one has ended; its first end stands. -/
def State.collEnds (s : State) (o : Op) (code : Nat) : State :=
  match o.work with
  | .coll _ _ _ _ _ _ _ _ g i =>
    let rank := ((s.task? o.task).map (·.rank)).getD 0
    let f := fun (l : List CollPart) =>
      if l.any (fun c => c.index == i && c.rank == rank) then
        updWhere (fun c => c.index == i && c.rank == rank && c.fin.isNone) (fun c => { c with fin := some code }) l
      else l ++ [{ index := i, rank := rank, key := [], op := o, fin := some code }]
    { s with work := { s.work with gangs := updWhere (fun y => y.num == g) (fun y => { y with colls := f y.colls }) s.work.gangs } }
  | _ => s

/-- A collective that has ended leaves its end state to the other members' instances (R454, R455); one whose AFTER
failed (CLASS 7) has not started. -/
def State.collFinish (s : State) (o : Op) : State := s.collEnds o (if o.cls = 7 then 6 else o.st.code)

/-- The fault record of a bound stream whose operation did not end done (R334). -/
def State.failStream (s : State) (o : Op) (addr : Nat) : State :=
  s.updHart o.hart (fun h => h.setScr { h.t.scr with
    streams := updWhere (fun b => b.slot == o.slot && b.gen == o.gen) (fun b => { b with fail := some (addr % 2 ^ 57) }) h.t.scr.streams })

/-- The messages of operations whose last AFTER has ended are sent now, behind those sent before (R132, R201); `ops` are the
operations as they were. -/
def State.sentNow (s : State) (ops : List Op) : State :=
  let late := fun (m : Msg) => match m.body with
    | .engine c k g => ops.any (fun o => o.is c k g && !o.aft.isEmpty) && s.work.ops.any (fun o => o.is c k g && o.aft.isEmpty)
    | _ => false
  { s with lat := { s.lat with net := s.lat.net.filter (fun m => !late m) ++ s.lat.net.filter late } }

/-- The token table learns that an operation has ended (R199, R205): its dependents start or fail, and so on
through those that fail; the fuel bounds the chain. -/
def State.opEnded : Nat → Op → State → State
  | 0, _, s => s
  | n + 1, o, s =>
    let s0 := (s.setOp { o with replied := true }).collFinish o
    let s1 := if o.st = .done then s0 else s0.failStream o o.addr
    let failed := (s1.work.ops.map (fun x => x.afterEnd o)).filter (fun x => x.cls == 7 && x.replied &&
      (s1.work.ops.any (fun y => y.same x && !y.replied)))
    let s2 := ({ s1 with work := { s1.work with ops := s1.work.ops.map (fun x => x.afterEnd o) } } : State).sentNow s1.work.ops
    let s3 := if o.hold = 1 ∨ o.hold = 2 ∨ o.hold = 3 then s2.endDetached { o with replied := true, entry := o.entry && o.hold != 1 }
      else s2
    let s4 := failed.foldl (fun t x => State.opEnded n x t) s3
    s4.settleTask o.ctx o.task

/-- The agent that serves an operation: its core, or the rill core of its inbox (Table 8.1). -/
def Op.engine (o : Op) : Who := if 4 ≤ o.kind ∧ o.kind ≤ 6 then .rill o.node else .core o.core

/-- An engine ends an operation and sends its reply; the reply of one whose completion join the engine makes
itself is not sent (R199, R205). -/
def State.endOp (s : State) (o : Op) (st : OpState) (cls code addr : Nat) : State :=
  let o1 := { o with st := st, cls := cls, code := code, addr := addr, waitVa := none, pkg := physPkg (s.physOf o.core) }
  if o.hold = 2 ∨ o.hold = 3 then State.opEnded (s.work.ops.length + 1) o1 (s.setOp o1)
  else
    let w0 := st.code * 2 ^ 61 + cls * 2 ^ 56 + code * 2 ^ 48 + o.units % 2 ^ 32
    let b : Body := .opReply o.core o.slot o.gen w0 (addr % 2 ^ 57)
    ((s.setOp o1).collFinish o1).send { src := o.engine, ctx := o.ctx, dest := .core o.core, body := b }

/-- The fault record of an operation (Table 8.4): word 0 and word 1. -/
def Op.record (o : Op) : Nat × Nat :=
  (o.st.code * 2 ^ 61 + o.cls * 2 ^ 56 + o.code * 2 ^ 48 + o.units % 2 ^ 32, o.addr % 2 ^ 57)

/-- Releases the slot of an operation of the issuing thread with its range-lock entries (R137, R199). -/
def State.release (s : State) (o : Op) : State :=
  let s1 := (s.dropOp o).bumpGen o.core o.slot
  ({ s1 with h := s1.h.unlock o.slot o.gen }).note (.opReleased o.slot o.gen)

/-! ## Issue of an engine instruction (R192, R317, R319) -/

/-- The registers of an AFTER field that are in use. -/
def afterRegs (a : After) : List (Fin 16) := a.e0.toList ++ a.e1.toList

/-- Slot and generation of every AFTER token; an empty one names none (R201). -/
def State.aftNames (s : State) (a : After) : List (Nat × Nat) :=
  ((afterRegs a).filter (fun r => (s.k r).getLsbD 0)).map (fun r => (tokSlot (s.k r), tokGen (s.k r)))

/-- The operations that the AFTER tokens name (R201). -/
def State.aftOps (s : State) (a : After) : List Op := (afterRegs a).filterMap (fun r => s.tokenOp (s.k r))

/-- Whether PRI is a code that is not assigned (Table 13.1). -/
def badPri (a : After) : Bool := 12 ≤ a.pri.val && a.pri.val < 15

/-- The initial priority (Table 13.1). -/
def State.initialPrio (s : State) (a : After) : Nat :=
  if a.pri.val = 15 then s.h.task.prio else min a.pri.val s.h.task.prio

/-- A new operation at issue: one whose AFTER names an operation that ended failed or cancelled fails (R201). -/
def newOp (o : Op) (deps : List Op) : Op :=
  match deps.find? (fun d => d.replied && d.st != .done) with
  | some d => { o with st := .failed, cls := 7, code := d.st.code, replied := true }
  | none => { o with aft := (deps.filter (fun d => !d.replied)).map (fun d => (d.core, d.slot, d.gen)) }

/-- What an engine instruction issues once its checks before range registration have passed; `bind` is the
stream register that SBIND binds, with its number of images. -/
structure Issue where
  w : Fin 4
  aft : After
  k : Fin 16
  kind : Nat
  work : OpWork
  rngs : List Rng
  dest : Dest
  node : Nat := 0
  bind : Option (Nat × Nat) := none
  deriving DecidableEq, Repr

/-- Binds a stream register to the operation of a slot, which gives so many images (R334). -/
def State.bindStream (s : State) (b : Option (Nat × Nat)) (slot gen : Nat) : State :=
  match b with
  | none => s
  | some (v, total) => s.setStreams (s.h.t.scr.streams ++ [{ vreg := v, slot := slot, gen := gen, total := total }])

/-- A thread counts the collectives that it retires (R341). -/
def State.countColl (s : State) (kind : Nat) : State :=
  if kind = 5 then
    { s with h := { s.h with t := { s.h.t with task := { s.h.t.task with colls := s.h.t.task.colls + 1 } } } }
  else s

/-- Steps 1 to 4 of R192. -/
def State.issueNow (s : State) (i : Issue) : State :=
  let slot := s.freeSlot s.coreId
  let gen := s.slotGen s.coreId slot
  let o := newOp { core := s.coreId, slot := slot, gen := gen, thread := s.h.coreSlot.2, task := s.h.task.num, ctx := s.h.task.ctx,
                   kind := i.kind, prio := s.initialPrio i.aft, work := i.work, order := s.work.nextOrder, node := i.node,
                   pkg := physPkg s.phys }
    (s.aftOps i.aft)
  let rs := s.registered i.rngs
  let h := s.h.setLocks (sortLocks (addLocks slot gen rs s.h.t.rlt))
  let s1 := { s with h := h, work := { s.work with ops := s.work.ops ++ [o], nextOrder := s.work.nextOrder + 1 } }
  let s2 := (rs.filter (fun r => r.wr && r.space == 0 && i.kind != 4)).foldl (fun t r => t.note (.opIssued slot gen r.lo r.hi)) s1
  let s3 := (s2.bindStream i.bind slot gen).setK i.k (tokenValue gen s.tag slot s.h.coreSlot.2 i.kind o.prio)
  let s4 := if o.st = .failed then (s3.collFinish o).failStream o 0
    else s3.send { src := s.me, ctx := s.h.task.ctx, dest := i.dest, body := .engine o.core slot gen }
  (s4.countColl i.kind).retire

/-- Orders 9 and 10 of Table 13.2, the hold of the wait field, and the steps of R192. The registration waits behind the accesses
that the core holds (R33). -/
def State.issue (s : State) (i : Issue) : Out :=
  let rs := s.registered i.rngs
  let free := 4 - s.h.t.rlt.length
  if s.h.t.post.later.isEmpty = false then .next (s.block .accesses)
  else if free < rs.length then
    .next (s.takeTrap { cause := 0x0B, addr := ((rs.drop free).head?.map (·.lo)).getD 0, detail := 0x100 })
  else match rangeClash (s.aftNames i.aft) s.h.ownLocks rs with
    | some (a, e) => .next (s.takeTrap { cause := 0x0B, addr := a, detail := s.lockIndex e })
    | none =>
      if 32 ≤ s.slotsHeld s.coreId s.h.coreSlot.2 then .next (s.takeTrap { cause := 0x10, detail := i.k.val })
      else s.held i.w.val (.next (s.issueNow i))

/-! ## Operand checks -/

/-- Whether a view range lies inside one window of a thread (R322, R329). -/
def Scratch.inOne (c : Scratch) (buf lo n : Nat) : Bool :=
  c.wins.any (fun w => w.buf == buf && decide (w.base ≤ lo) && decide (lo + n ≤ w.base + w.len))

/-- Whether a destination view range is free of armed macros, landing regions and valid rings (R329). -/
def Scratch.plain (c : Scratch) (buf lo n : Nat) : Bool :=
  !c.onArmed buf lo n && (c.landings buf lo n).isEmpty && !c.onRing buf lo n

/-- An operand range of an engine instruction: its space (0 virtual, 1 to 3 a view), first byte and length, and
whether the engine writes it. -/
structure Opnd where
  space : Nat
  lo : Nat
  n : Nat
  wr : Bool
  deriving DecidableEq, Repr

/-- The first view operand that a scratch rule refuses (order 7): not inside one window, or a destination that
meets an armed macro, a landing region or a valid ring. -/
def Scratch.refused (c : Scratch) : List Opnd → Option Nat
  | [] => none
  | o :: l =>
    if o.space ≠ 0 ∧ o.n ≠ 0 ∧ (!c.inOne (o.space - 1) o.lo o.n || (o.wr && !c.plain (o.space - 1) o.lo o.n)) then some o.lo
    else c.refused l

/-- The first virtual operand whose last byte lies outside the canonical range (order 4). -/
def nonCanon : List Opnd → Option Nat
  | [] => none
  | o :: l => if o.space = 0 ∧ 2 ^ 57 < o.lo + o.n then some o.lo else nonCanon l

/-- Order 4 of Table 13.2. -/
def State.canonical (s : State) (l : List Opnd) (k : Out) : Out :=
  match nonCanon l with
  | some a => trapOn a 0 s
  | none => k

/-- Order 7 of Table 13.2. -/
def State.inViews (s : State) (l : List Opnd) (k : Out) : Out :=
  match s.h.t.scr.refused l with
  | some a => .next (s.scratchTrap a)
  | none => k

/-- Whether a source and a destination overlap in one space (R321). -/
def Opnd.meets (a b : Opnd) : Bool := a.space == b.space && overlaps a.lo (a.lo + a.n) b.lo (b.lo + b.n)

/-- Reads a 64-byte block of descriptor, argument or range words at issue (order 5): 64-byte aligned, in a PRIV
or CONST page, with the range locks of a load. -/
def State.readBlock (s : State) (va : Nat) (k : List Nat → State → Out) : Out :=
  s.locked false 0 va 64 va <|
    s.access va .load (trapOn va) fun l pa t =>
      if l.kind = 5 then trapOn va 6 t
      else if t.isLost pa 64 then t.lose va (t.lossD0 pa 64)
      else if t.fillWaits t.cluster pa 64 then .next (t.block (.bank pa))
      else k (Mem.words t.mem pa 8) (t.noteAccess l va pa 64)

/-- Reads `n` bytes of one line of a descriptor at issue. -/
def State.readPart (s : State) (va n : Nat) (k : Nat → State → Out) : Out :=
  s.access va .load (trapOn va) fun l pa t =>
    if l.kind = 5 then trapOn va 6 t
    else if t.isLost pa n then t.lose va (t.lossD0 pa n)
    else if t.fillWaits t.cluster pa n then .next (t.block (.bank pa))
    else k (Mem.readN t.mem pa n) (t.noteAccess l va pa n)

/-- Reads the 64 bytes of a descriptor that need not be aligned (R340), the lower line first. -/
def State.readDesc (s : State) (va : Nat) (k : List Nat → State → Out) : Out :=
  if va % 64 = 0 then s.readBlock va k
  else
    let m := 64 - va % 64
    s.locked false 0 va 64 va <|
      s.readPart va m fun v t => t.readPart (va + m) (64 - m) fun w u => k (unpackCodes 64 (v + w * 2 ^ (8 * m)) 8) u

end Sys2Proof.Machine
end

