-- ==== Sys2Proof/Machine/Engine.lean ====
section
/-! DEFINITION. Issue of matrix, copy, stream and remote-copy instructions, RINGCFG and SUNBIND (R317 to R337).
The units that the engines run are in Units.lean, Matrix.lean, Strip.lean and CopyEv.lean. -/

namespace Sys2Proof.Machine

/-! ## Matrix formats (Table 13.5) -/

/-- Armed formats that an MXS variant accepts; `ix` counts the variants of Table 13.5 from 0. -/
def mxAccepts (ix fmt : Nat) : Bool :=
  match ix with
  | 0 => fmt == 0
  | 1 => fmt == 1
  | 2 => fmt == 2 || fmt == 3
  | 3 => fmt == 4
  | 4 => fmt == 5
  | 5 => fmt == 6
  | 6 => fmt == 7
  | _ => decide (8 ≤ fmt) && decide (fmt ≤ 0xD)

/-- EB: element bytes of one activation block, by armed format. -/
def mxEb (fmt : Nat) : Nat :=
  match fmt with
  | 0 => 96
  | 1 => 96
  | 4 => 24
  | 6 => 24
  | 0xA => 24
  | 0xC => 24
  | _ => 48

/-- BPB: bytes of one activation block with its scale byte. -/
def mxBpb (fmt : Nat) : Nat := mxEb fmt + (if 8 ≤ fmt then 1 else 0)

/-- N: columns of an N-group. -/
def mxN (fmt : Nat) : Nat :=
  match fmt with
  | 0 => 256
  | 1 => 256
  | 4 => 1024
  | 6 => 1024
  | 7 => 2048
  | 0xA => 1024
  | 0xC => 1024
  | 0xD => 2048
  | _ => 512

/-- Whether the accumulator of a format is I32. -/
def mxInt (fmt : Nat) : Bool := fmt == 5 || fmt == 6 || fmt == 7

/-- The format that an MXS variant's limits are judged with when none of its macros is armed. -/
def mxDefault (ix : Nat) : Nat :=
  match ix with
  | 0 => 0
  | 1 => 1
  | 2 => 2
  | 3 => 4
  | 4 => 5
  | 5 => 6
  | 6 => 7
  | _ => 0xC

/-- The armed macro at a view offset. -/
def Scratch.macroAt (c : Scratch) (off : Nat) : Option Armed := c.armed.find? (fun a => a.off == off)

/-- The macros of OFF to OFF + n × 0x6000 that are armed. -/
def Scratch.macros (c : Scratch) (off n : Nat) : List Armed :=
  (countFrom 0 n).filterMap (fun i => c.macroAt (off + i * 0x6000))

/-- The first failed alignment of a list of (address, alignment) pairs (order 3). -/
def firstMisaligned (l : List (Nat × Nat)) : Option Nat := (l.find? (fun p => p.1 % p.2 != 0)).map (·.1)

/-- Order 3 of Table 13.2. -/
def State.aligned (s : State) (l : List (Nat × Nat)) (k : Out) : Out :=
  match firstMisaligned l with
  | some a => .next (s.misaligned a)
  | none => k

/-- The spans of M rows with a stride. -/
def rowSpan (m stride row : Nat) : Nat := (m - 1) * stride + row

/-- MXS (R322). -/
def State.mxs (s : State) (ix : Nat) (aft : After) (wrap z afmt : Bool) (ring : Fin 8) (k : Fin 16) (a b c : Fin 32) : Out :=
  let xa := (s.x a).toNat
  let xb := (s.x b).toNat
  let xc := (s.x c).toNat
  let off := xa % 2 ^ 22
  let kb := bits xb 7 0
  let ng := bits xb 15 8
  let m := bits xb 31 16
  let cb := bits xc 19 0
  let cs := bits xc 39 20
  let scr := s.h.t.scr
  let ms := scr.macros off (kb * ng)
  let fmt := (ms.head?.map (·.fmt)).getD (mxDefault ix)
  let r := scr.rings[ring]
  let illegal := badPri aft || (wrap && !(ix == 4 || ix == 5 || ix == 6)) || (afmt && !(ix == 2 || ix == 7))
  let badOp := decide (2 ^ 22 ≤ xa) || decide (2 ^ 32 ≤ xb) || decide (2 ^ 40 ≤ xc) || kb == 0 || decide (128 < kb)
    || ng == 0 || decide (128 < ng) || m == 0 || decide (128 < kb * ng) || !r.v || decide (r.tile < kb * mxBpb fmt)
    || (afmt && ix == 7 && decide (0xA ≤ fmt)) || ms.any (fun x => x.fmt != fmt || !mxAccepts ix x.fmt)
    || (decide (1 < m) && decide (cs < ng * mxN fmt * 4))
  let span := rowSpan m cs (ng * mxN fmt * 4)
  if illegal then .next s.illegal
  else if badOp then .next s.badOperand
  else s.aligned [(off, 0x6000), (cb, 64), (cs, 64)] <|
    if ms.length < kb * ng then .next (s.scratchTrap off)
    else if !scr.inOne 2 cb span then .next (s.scratchTrap cb)
    else s.issue
      { w := 0, aft := aft, k := k, kind := 1, dest := .core s.coreId, rngs := [⟨3, cb, cb + span, true, false⟩],
        work := .mxs fmt afmt.toNat wrap z ring.val off kb ng m cb cs }

/-- MXS.BF16 (R322). -/
def execMxsBf16 (aft : After) (wrap z afmt : Bool) (ring : Fin 8) (k : Fin 16) (a b c : Fin 32) (s : State) : Out :=
  s.mxs 0 aft wrap z afmt ring k a b c

/-- MXS.F16 (R322). -/
def execMxsF16 (aft : After) (wrap z afmt : Bool) (ring : Fin 8) (k : Fin 16) (a b c : Fin 32) (s : State) : Out :=
  s.mxs 1 aft wrap z afmt ring k a b c

/-- MXS.F8 (R322). -/
def execMxsF8 (aft : After) (wrap z afmt : Bool) (ring : Fin 8) (k : Fin 16) (a b c : Fin 32) (s : State) : Out :=
  s.mxs 2 aft wrap z afmt ring k a b c

/-- MXS.E2M1 (R322). -/
def execMxsE2m1 (aft : After) (wrap z afmt : Bool) (ring : Fin 8) (k : Fin 16) (a b c : Fin 32) (s : State) : Out :=
  s.mxs 3 aft wrap z afmt ring k a b c

/-- MXS.I8 (R322). -/
def execMxsI8 (aft : After) (wrap z afmt : Bool) (ring : Fin 8) (k : Fin 16) (a b c : Fin 32) (s : State) : Out :=
  s.mxs 4 aft wrap z afmt ring k a b c

/-- MXS.I4 (R322). -/
def execMxsI4 (aft : After) (wrap z afmt : Bool) (ring : Fin 8) (k : Fin 16) (a b c : Fin 32) (s : State) : Out :=
  s.mxs 5 aft wrap z afmt ring k a b c

/-- MXS.T2 (R322). -/
def execMxsT2 (aft : After) (wrap z afmt : Bool) (ring : Fin 8) (k : Fin 16) (a b c : Fin 32) (s : State) : Out :=
  s.mxs 6 aft wrap z afmt ring k a b c

/-- MXS.B48 (R322). -/
def execMxsB48 (aft : After) (wrap z afmt : Bool) (ring : Fin 8) (k : Fin 16) (a b c : Fin 32) (s : State) : Out :=
  s.mxs 7 aft wrap z afmt ring k a b c

/-- MXZ (R326). -/
def execMxz (aft : After) (k : Fin 16) (b c : Fin 32) (s : State) : Out :=
  let xb := (s.x b).toNat
  let xc := (s.x c).toNat
  let rw := bits xb 15 0
  let m := bits xb 31 16
  let cb := bits xc 19 0
  let cs := bits xc 39 20
  let span := rowSpan m cs (64 * rw)
  let badOp := decide (2 ^ 32 ≤ xb) || decide (2 ^ 40 ≤ xc) || rw == 0 || decide (12288 < rw) || m == 0
    || (decide (1 < m) && decide (cs < 64 * rw))
  if badPri aft then .next s.illegal
  else if badOp then .next s.badOperand
  else s.aligned [(cb, 64), (cs, 64)] <|
    if !s.h.t.scr.inOne 2 cb span then .next (s.scratchTrap cb)
    else s.issue
      { w := 0, aft := aft, k := k, kind := 1, dest := .core s.coreId, rngs := [⟨3, cb, cb + span, true, false⟩],
        work := .mxz rw m cb cs }

/-- Element bytes of an epilogue destination (R327). -/
def mxeSize (dfmt : Nat) : Nat :=
  match dfmt with
  | 0 => 4
  | 1 => 2
  | 2 => 2
  | _ => 1

/-- MXE (R327). -/
def execMxe (rnd : Option Rnd) (aft : After) (relu srci dbuf : Bool) (dfmt : Fin 8) (k : Fin 16) (a b c : Fin 32)
    (s : State) : Out :=
  let xa := (s.x a).toNat
  let xb := (s.x b).toNat
  let xc := (s.x c).toNat
  let cb := bits xa 19 0
  let cs := bits xa 39 20
  let m := bits xa 55 40
  let db := bits xb 20 0
  let ds := bits xb 41 21
  let nb := bits xc 43 32
  let sp := s.h.ctl.sptr.toNat
  let dsp := if dbuf then 3 else 2
  let src : Opnd := { space := 3, lo := cb, n := rowSpan m cs (192 * nb), wr := false }
  let dst : Opnd := { space := dsp, lo := db, n := rowSpan m ds (48 * nb * mxeSize dfmt.val), wr := true }
  let scl : Opnd := { space := dsp, lo := sp, n := if dfmt = 5 then m * nb else 0, wr := true }
  let badOp := decide (2 ^ 56 ≤ xa) || decide (2 ^ 42 ≤ xb) || decide (2 ^ 44 ≤ xc) || m == 0 || nb == 0
    || src.meets dst || (dfmt == 5 && src.meets scl)
  let r := s.rnd rnd
  if badPri aft || dfmt == 7 then .next s.illegal
  else if badOp then .next s.badOperand
  else s.aligned [(cb, 64), (cs, 64), (db, 64), (ds, 64)] <|
    s.inViews [src, dst, scl] <|
      s.issue
        { w := 0, aft := aft, k := k, kind := 1, dest := .core s.coreId,
          rngs := [⟨3, cb, cb + src.n, false, false⟩, ⟨dsp, db, db + dst.n, true, false⟩, ⟨dsp, sp, sp + scl.n, true, false⟩],
          work := .mxe relu srci dbuf.toNat dfmt.val r.rm.code r.sat.code cb cs m db ds (xc % 2 ^ 32) nb sp }

/-- The ring that an operation names. -/
def OpWork.ring? (w : OpWork) : Option Nat :=
  match w with
  | .mxs _ _ _ _ ring _ _ _ _ _ _ => some ring
  | .cpy dsp _ _ ring _ _ _ _ _ => if dsp = 4 then some ring else none
  | .cpya dsp _ ring _ _ _ _ _ => if dsp = 4 then some ring else none
  | .cpyg dsp _ ring _ _ _ _ _ => if dsp = 4 then some ring else none
  | _ => none

/-- Whether an operation of the issuing thread that names a ring still counts for RINGCFG (R328). -/
def State.ringNamed (s : State) (ring : Nat) : Bool :=
  s.h.t.scr.ringsHeld.contains ring ||
    s.work.ops.any (fun o => o.hart == s.h.id && decide (o.hold < 4) && o.work.ring? == some ring)

/-- RINGCFG (R328, R60). -/
def execRingcfg (ring : Fin 8) (a b : Fin 32) (s : State) : Out :=
  let xa := (s.x a).toNat
  let tile := (s.x b).toNat
  let base := bits xa 20 0
  let size := bits xa 41 21
  let c := s.h.t.scr
  let others := (countFrom 0 8).filter (fun i => i != ring.val)
  let meets := others.any (fun i => match c.rings.toList[i]? with
    | some r => r.v && overlaps base (base + size) r.base (r.base + r.size)
    | none => false)
  let inside := c.wins.any (fun w => w.buf == 1 && !w.land && decide (w.base ≤ base) && decide (base + size ≤ w.base + w.len))
  let bad := !inside || meets || base % 64 != 0 || tile % 64 != 0 || tile == 0 || size % tile != 0
  let set := fun (r : Ring) => (.next (s.setScr { c with rings := c.rings.set ring r }).retire : Out)
  if 2 ^ 42 ≤ xa ∨ 2 ^ 21 ≤ tile ∨ (size = 0 ∧ (base ≠ 0 ∨ tile ≠ 0)) then .next s.badOperand
  else if (c.rings[ring]).v && s.ringNamed ring.val then .next (s.scratchTrap base)
  else if size = 0 then set {}
  else if bad then .next (s.scratchTrap base)
  else set { v := true, size := size, base := base, tile := tile }

/-! ## Copies -/

/-- Bytes of a source group and of the destination group it gives, by CONV (R331). -/
def convSizes (conv : Nat) : Nat × Nat :=
  match conv with
  | 1 => (4, 2)
  | 2 => (4, 2)
  | 3 => (4, 1)
  | 4 => (4, 1)
  | 5 => (2, 4)
  | 6 => (2, 4)
  | 7 => (1, 4)
  | 8 => (4, 5)
  | _ => (1, 1)

/-- The alignment of a destination (R331): the T5 to T2 groups are aligned to 4. -/
def convAlign (conv : Nat) : Nat := if conv = 8 then 4 else (convSizes conv).2

/-- Whether the space fields of a copy are ones that no entry allows (R329). -/
def badSpaces (dsp ssp ring : Nat) : Bool :=
  decide (4 < dsp) || decide (3 < ssp) || (ring != 0 && dsp != 4)

/-- Whether a ring push of a length is refused (R331): an invalid ring, a TILE above 4,096, or a part of a tile. -/
def State.badPush (s : State) (dsp : Nat) (ring : Fin 8) (len : Nat) : Bool :=
  let r := s.h.t.scr.rings[ring]
  dsp == 4 && (!r.v || decide (4096 < r.tile) || len % r.tile != 0)

/-- The ranges of a copy: a source, and unless it pushes into a ring, a destination. -/
def copyRanges (src dst : Opnd) (mark : Bool) : List Rng :=
  ⟨src.space, src.lo, src.lo + src.n, false, false⟩ ::
    (if dst.space = 4 then [] else [⟨dst.space, dst.lo, dst.lo + dst.n, true, mark⟩])

/-- CPY (R331). -/
def execCpy (w : Fin 4) (rnd : Option Rnd) (aft : After) (dsp ssp : Fin 8) (conv : Fin 16) (ring : Fin 8) (k : Fin 16)
    (a b c : Fin 32) (s : State) : Out :=
  let len := (s.x c).toNat
  let g := convSizes conv.val
  let src : Opnd := { space := ssp.val, lo := (s.x b).toNat, n := len, wr := false }
  let dst : Opnd := { space := dsp.val, lo := (s.x a).toNat, n := len / g.1 * g.2, wr := true }
  let r := s.rnd rnd
  let dsts := if dsp = 4 then [] else [dst]
  if badPri aft || badSpaces dsp.val ssp.val ring.val || decide (8 < conv.val) then .next s.illegal
  else if 2 ^ 32 ≤ len ∨ len = 0 ∨ len % g.1 ≠ 0 ∨ s.badPush dsp.val ring dst.n ∨ src.meets dst then .next s.badOperand
  else s.aligned ((src.lo, g.1) :: (if dsp = 4 then [] else [(dst.lo, convAlign conv.val)])) <|
    s.canonical (src :: dsts) <| s.inViews (src :: dsts) <|
      s.issue
        { w := w, aft := aft, k := k, kind := 2, dest := .core s.coreId, rngs := copyRanges src dst true,
          work := .cpy dsp.val ssp.val conv.val ring.val dst.lo src.lo len r.rm.code r.sat.code }

/-! ## Affine and gathered copies (Tables 13.7, 13.8) -/

/-- An affine pattern: element bytes, counts, source and destination strides of dimensions 0 to 3. -/
structure Affine where
  e : Nat
  n : List Nat
  ss : List Int
  ds : List Int
  deriving DecidableEq, Repr

/-- The pattern of a descriptor (Table 13.7). -/
def affineOf (d : List Nat) : Affine :=
  let half := fun (w h : Nat) => sextNat (bits (nth d w) (32 * h + 31) (32 * h)) 32
  { e := bits (nth d 0) 12 0,
    n := [bits (nth d 1) 15 0 + 1, bits (nth d 1) 31 16 + 1, bits (nth d 1) 47 32 + 1, bits (nth d 1) 63 48 + 1],
    ss := [half 2 0, half 2 1, half 3 0, half 3 1], ds := [half 4 0, half 4 1, half 5 0, half 5 1] }

/-- Whether a reserved bit of an affine descriptor is set. -/
def affineReserved (d : List Nat) : Bool := decide (2 ^ 13 ≤ nth d 0) || nth d 6 != 0 || nth d 7 != 0

/-- Elements of a pattern. -/
def Affine.total (p : Affine) : Nat := p.n.foldl (· * ·) 1

/-- The indices of element `i`: i0 varies fastest. -/
def Affine.index (p : Affine) (i : Nat) : List Nat :=
  [i % p.n.getD 0 1, i / p.n.getD 0 1 % p.n.getD 1 1, i / (p.n.getD 0 1 * p.n.getD 1 1) % p.n.getD 2 1,
   i / (p.n.getD 0 1 * p.n.getD 1 1 * p.n.getD 2 1)]

/-- The offset of element `i` by a list of strides. -/
def Affine.offset (p : Affine) (st : List Int) (i : Nat) : Int :=
  (List.zipWith (fun (x : Nat) (y : Int) => (x : Int) * y) (p.index i) st).foldl (· + ·) 0

/-- The interval of bytes that a pattern covers from a base (R134): its first byte and its length. -/
def Affine.interval (p : Affine) (base : Nat) (st : List Int) : Nat × Nat :=
  let reach := List.zipWith (fun (x : Nat) (y : Int) => ((x : Int) - 1) * y) p.n st
  let lo := reach.foldl (fun a v => a + min 0 v) 0
  let hi := reach.foldl (fun a v => a + max 0 v) 0
  (wrapInt ((base : Int) + lo) 64, (hi - lo).toNat + p.e)

/-- The first bytes of a destination and a source, as operands of order 4. -/
def firstBytes (dsp dst ssp src : Nat) : List Opnd :=
  [{ space := dsp, lo := dst, n := 1, wr := true }, { space := ssp, lo := src, n := 1, wr := false }]

/-- The checks of a copy's descriptor form before its descriptor is read, and the read (R319). -/
def State.withDesc (s : State) (illegal badOp : Bool) (va : Nat) (l : List Opnd) (k : List Nat → State → Out) : Out :=
  if illegal then .next s.illegal
  else if badOp then .next s.badOperand
  else s.aligned [(va, 64)] <| s.canonical ({ space := 0, lo := va, n := 64, wr := false } :: l) <| s.readBlock va k

/-- CPYA (R332). -/
def execCpya (w : Fin 4) (rnd : Option Rnd) (aft : After) (dsp ssp ring : Fin 8) (k : Fin 16) (a b c : Fin 32)
    (s : State) : Out :=
  let r := s.rnd rnd
  let push := dsp == 4
  s.withDesc (badPri aft || badSpaces dsp.val ssp.val ring.val) (s.badPush dsp.val ring 0) (s.x c).toNat
      (firstBytes dsp.val (s.x a).toNat ssp.val (s.x b).toNat) fun d t =>
    let p := affineOf d
    let si := p.interval (t.x b).toNat p.ss
    let di := p.interval (t.x a).toNat p.ds
    let src : Opnd := { space := ssp.val, lo := si.1, n := si.2, wr := false }
    let dst : Opnd := { space := dsp.val, lo := di.1, n := di.2, wr := true }
    let dsts := if push then [] else [dst]
    let badOp := affineReserved d || p.e == 0 || decide (4096 < p.e) || (push && p.ds.any (fun v => v != 0))
      || t.badPush dsp.val ring (p.total * p.e) || src.meets dst
    if badOp then .next t.badOperand
    else t.canonical (src :: dsts) <| t.inViews (src :: dsts) <|
      t.issue
        { w := w, aft := aft, k := k, kind := 2, dest := .core t.coreId, rngs := copyRanges src dst false,
          work := .cpya dsp.val ssp.val ring.val (t.x a).toNat (t.x b).toNat r.rm.code r.sat.code d }

/-- Whether a reserved bit of a gather or scatter descriptor is set (Table 13.8). -/
def gatherReserved (d : List Nat) : Bool :=
  decide (2 ^ 13 ≤ nth d 0) || decide (2 ^ 57 ≤ nth d 2) || (d.drop 3).any (· != 0)

/-- The common part of CPYG and CPYS (R333): the descriptor's checks, and the issue with the source and the
destination that it bounds. -/
def State.gather (s : State) (w : Fin 4) (aft : After) (dsp ssp : Nat) (ring : Fin 8) (k : Fin 16) (a b : Fin 32)
    (d : List Nat) (scatter : Bool) (work : OpWork) : Out :=
  let e := bits (nth d 0) 12 0
  let lim := bits (nth d 1) 63 32
  let n := bits (nth d 1) 31 0
  let idx := nth d 2
  let src : Opnd := { space := ssp, lo := (s.x b).toNat, n := (if scatter then n else lim) * e, wr := false }
  let dst : Opnd := { space := dsp, lo := (s.x a).toNat, n := (if scatter then lim else n) * e, wr := true }
  let tab : Opnd := { space := 0, lo := idx, n := 4 * n, wr := false }
  let dsts := if dsp = 4 then [] else [dst]
  let badOp := gatherReserved d || e == 0 || decide (4096 < e) || n == 0 || lim == 0
    || s.badPush dsp ring (n * e) || src.meets dst
  if badOp then .next s.badOperand
  else s.aligned [(idx, 4)] <| s.canonical (tab :: src :: dsts) <| s.inViews (src :: dsts) <|
    s.issue
      { w := w, aft := aft, k := k, kind := 2, dest := .core s.coreId,
        rngs := ⟨0, idx, idx + 4 * n, false, false⟩ :: copyRanges src dst (!scatter), work := work }

/-- CPYG (R333). -/
def execCpyg (w : Fin 4) (rnd : Option Rnd) (aft : After) (dsp ssp ring : Fin 8) (k : Fin 16) (a b c : Fin 32)
    (s : State) : Out :=
  let r := s.rnd rnd
  s.withDesc (badPri aft || badSpaces dsp.val ssp.val ring.val) (s.badPush dsp.val ring 0) (s.x c).toNat
      (firstBytes dsp.val (s.x a).toNat ssp.val (s.x b).toNat) fun d t =>
    t.gather w aft dsp.val ssp.val ring k a b d false
      (.cpyg dsp.val ssp.val ring.val (t.x a).toNat (t.x b).toNat r.rm.code r.sat.code d)

/-- CPYS (R333): DSP = 4 is illegal. -/
def execCpys (w : Fin 4) (rnd : Option Rnd) (aft : After) (dsp ssp : Fin 8) (k : Fin 16) (a b c : Fin 32)
    (s : State) : Out :=
  let r := s.rnd rnd
  s.withDesc (badPri aft || badSpaces dsp.val ssp.val 0 || dsp == 4) false (s.x c).toNat
      (firstBytes dsp.val (s.x a).toNat ssp.val (s.x b).toNat) fun d t =>
    t.gather w aft dsp.val ssp.val 0 k a b d true
      (.cpys dsp.val ssp.val (t.x a).toNat (t.x b).toNat r.rm.code r.sat.code d)

/-! ## Streams (R334, R335) -/

/-- Images that a stream gives in all. -/
def Affine.images (p : Affine) (conv : Nat) : Nat :=
  (p.total * p.e / (convSizes conv).1 * (convSizes conv).2 + 191) / 192

/-- SBIND (R334). -/
def execSbind (w : Fin 4) (rnd : Option Rnd) (aft : After) (vreg ssp : Fin 8) (conv k : Fin 16) (b c : Fin 32)
    (s : State) : Out :=
  let r := s.rnd rnd
  let bound := s.h.t.scr.streams.any (fun x => x.vreg == vreg.val)
  s.withDesc (badPri aft || decide (3 < ssp.val) || decide (8 < conv.val)) (bound || conv == 8) (s.x c).toNat
      (firstBytes 4 0 ssp.val (s.x b).toNat) fun d t =>
    let p := affineOf d
    let si := p.interval (t.x b).toNat p.ss
    let src : Opnd := { space := ssp.val, lo := si.1, n := si.2, wr := false }
    let badOp := affineReserved d || p.e == 0 || decide (4096 < p.e) || p.ds.any (fun v => v != 0)
      || p.e % (convSizes conv.val).1 != 0
    if badOp then .next t.badOperand
    else t.canonical [src] <| t.inViews [src] <|
      t.issue
        { w := w, aft := aft, k := k, kind := 3, dest := .core t.coreId, rngs := [⟨ssp.val, src.lo, src.lo + src.n, false, false⟩],
          work := .sbind vreg.val ssp.val conv.val (t.x b).toNat r.rm.code r.sat.code d,
          bind := some (vreg.val, p.images conv.val) }

/-- SUNBIND (R335). -/
def execSunbind (w : Fin 4) (vreg : Fin 8) (s : State) : Out :=
  let l := s.h.t.scr.streams
  if l.any (fun b => b.vreg == vreg.val) then
    s.held w.val (.next ((s.setStreams (l.filter (fun b => b.vreg != vreg.val))).setV (Fin.ofNat 32 (24 + vreg.val)) 0).retire)
  else .next s.badOperand

/-! ## Remote copy (R336) -/

/-- CPYR (R336): the request goes to the rill core of the issuing core's cluster. -/
def execCpyr (w : Fin 4) (aft : After) (ssp : Fin 8) (k : Fin 16) (a b c : Fin 32) (s : State) : Out :=
  let xc := (s.x c).toNat
  let len := bits xc 31 0
  let dst := (s.x a).toNat
  let src : Opnd := { space := ssp.val, lo := (s.x b).toNat, n := len, wr := false }
  let far : Opnd := { space := 0, lo := dst, n := len, wr := true }
  if badPri aft || decide (3 < ssp.val) then .next s.illegal
  else if 2 ^ 48 ≤ xc ∨ len = 0 ∨ src.meets far then .next s.badOperand
  else s.canonical [far, src] <| s.inViews [src] <|
    s.issue
      { w := w, aft := aft, k := k, kind := 6, dest := .node (physRill s.phys), node := physRill s.phys,
        rngs := [⟨ssp.val, src.lo, src.lo + len, false, false⟩], work := .cpyr ssp.val dst src.lo len (bits xc 47 32) }

end Sys2Proof.Machine
end

