-- ==== Sys2Proof/Machine/ScratchInstr.lean ====
section
/-! DEFINITION. ARM, DISARM, WINALLOC, and the arm sequencer with its re-encoding of weights (R42, R43, R48 to R55,
R268 to R270). -/

namespace Sys2Proof.Machine

/-! ## Weights as integers (Table 2.7, R50, R159) -/

/-- Bits of an element of a weight or activation format. -/
def wBits (fmt : Nat) : Nat :=
  match fmt with
  | 0 => 16
  | 1 => 16
  | 4 => 4
  | 6 => 4
  | 0xA => 4
  | 0xC => 4
  | 7 => 2
  | 0xD => 2
  | _ => 8

/-- The element format of a format: the B48 formats have those of codes 0x2 to 0x7. -/
def wBase (fmt : Nat) : Nat := if 8 ≤ fmt then fmt - 6 else fmt

/-- The floating format of BF16 and FP16 weights. -/
def wFloat (fmt : Nat) : Fmt := if fmt = 1 then fp16 else bf16

/-- The biased exponent of an element of BF16 or FP16, a subnormal or zero counting as 1 (R50). -/
def biasedExp (f : Fmt) (c : Nat) : Nat := max 1 (c / 2 ^ f.mb % 2 ^ f.eb)

/-- The significand with its hidden bit (R50). -/
def significand (f : Fmt) (c : Nat) : Nat := c % 2 ^ f.mb + (if c / 2 ^ f.mb % 2 ^ f.eb = 0 then 0 else 2 ^ f.mb)

/-- arm_column_float (R50): the column exponent and the aligned weights; P is 16 for BF16 and 13 for FP16. -/
def alignColumn (fmt : Nat) (w : List Nat) : Nat × List Int :=
  let f := wFloat fmt
  let p : Int := if fmt = 1 then 13 else 16
  let emax := w.foldl (fun a c => max a (biasedExp f c)) 1
  (emax, w.map (fun c =>
    let mag := (roundScaled (significand f c) ((biasedExp f c : Int) - emax + p) false .rne).1
    if c / 2 ^ (f.eb + f.mb) % 2 = 1 then -(mag : Int) else mag))

/-- A finite value times 2^k, where that is an integer. -/
def intOf (x : FVal) (k : Int) : Int :=
  match x with
  | .fin neg m e => scaledInt neg m e (-k)
  | _ => 0

/-- The integer of an element of codes 0x2 to 0x7 (Table 2.7). -/
def elemInt (fmt c : Nat) : Int :=
  match wBase fmt with
  | 2 => intOf (e4m3.value c) 9
  | 3 => intOf (e5m2.value c) 16
  | 4 => intOf (e2m1.value c) 1
  | 5 => sextNat c 8
  | 6 => sextNat c 4
  | _ => if c % 4 = 1 then 1 else if c % 4 = 3 then -1 else 0

/-- The exponent f of the integers of a format without column exponents or scales (R159). -/
def elemExp (fmt : Nat) : Int :=
  match wBase fmt with
  | 2 => -9
  | 3 => -16
  | 4 => -1
  | _ => 0

/-- Whether an element is invalid for ARM (R53). -/
def badElem (fmt c : Nat) : Bool :=
  match wBase fmt with
  | 0 => bf16.isNaN c || (bf16.value c).isInf
  | 1 => fp16.isNaN c || (fp16.value c).isInf
  | 2 => e4m3.isNaN c
  | 3 => e5m2.isNaN c || (e5m2.value c).isInf
  | 7 => c == 2
  | _ => false

/-- The codes of a row of a macro. -/
def rowCodes (view : List Host.Cell) (fmt off k : Nat) : List Nat :=
  unpackCodes (wBits fmt) (Mem.readN view (off + 512 * k) 512) (mxN fmt)

/-- The rows of a macro. -/
def macroCodes (view : List Host.Cell) (fmt off : Nat) : List (List Nat) := (countFrom 0 48).map (rowCodes view fmt off)

/-- Column `n` of a list of rows. -/
def column (rows : List (List Nat)) (n : Nat) : List Nat := rows.map (fun r => nth r n)

/-- The macro that ARM makes of the bytes at `off` (R49 to R51); `soff` is the offset of its scales. -/
def armMacro (view : List Host.Cell) (fmt off soff region : Nat) : Armed :=
  let rows := macroCodes view fmt off
  let n := mxN fmt
  let cols := if fmt < 2 then (countFrom 0 n).map (fun i => alignColumn fmt (column rows i)) else []
  let q := if fmt < 2 then (countFrom 0 48).map (fun k => cols.map (fun c => c.2.getD k 0))
    else rows.map (fun r => r.map (elemInt fmt))
  let col : List Int := if fmt < 2 then cols.map (fun c => (c.1 : Int))
    else if 8 ≤ fmt then (countFrom 0 n).map (fun i => ((Mem.read view (soff + i)).toNat : Int))
    else []
  { off := off, fmt := fmt, region := region, q := q, col := col, csum := q.map (fun r => r.foldl (· + ·) 0) }

/-- The offset of the first invalid element of a macro: of its lower byte, or of the byte that holds it (R53). -/
def badInMacro (view : List Host.Cell) (fmt off : Nat) : Option Nat :=
  (countFrom 0 48).findSome? (fun k =>
    ((rowCodes view fmt off k).findIdx? (badElem fmt)).map (fun i => off + 512 * k + i * wBits fmt / 8))

/-- The first invalid byte of the range of an ARM: elements in ascending offset, then scales (R53). -/
def firstInvalid (view : List Host.Cell) (fmt off n soff : Nat) : Option Nat :=
  match (countFrom 0 n).findSome? (fun j => badInMacro view fmt (off + j * 0x6000)) with
  | some a => some a
  | none =>
    if 8 ≤ fmt then ((countFrom 0 (n * mxN fmt)).find? (fun i => Mem.read view (soff + i) == 255)).map (fun i => soff + i)
    else none

/-! ## ARM and DISARM (R52 to R54, R268, R269) -/

/-- The virtual address of a W view offset through the W.RAW window if the context maps one, otherwise the view
offset (R53). -/
def State.rawW (s : State) (ctx off : Nat) : Nat :=
  match s.ctx? ctx with
  | some c => match c.regions.find? (fun r => r.kind == 5 && r.win == 0) with
    | some r => r.base + off
    | none => off
  | none => off

/-- A request joins the queue of the core's arm sequencer, and the thread blocks until it has ended (R52). -/
def State.toSequencer (s : State) (arm : Bool) (off n fmt soff : Nat) : Out :=
  let q : SeqReq := { slot := s.h.coreSlot.2, arm := arm, off := off, n := n, fmt := fmt, soff := soff }
  .next ((s.updCore s.coreId (fun c => { c with seq := c.seq ++ [q] })).block .sequencer)

/-- The end of an ARM or DISARM: it completes, or ends in the arm-data trap. -/
def State.finishArm (s : State) : Out :=
  match s.h.reply with
  | some (.trap c a d) => .next (s.takeTrap { cause := c, addr := a, detail := d })
  | _ => .next s.retire

/-- ARM (R52, R53, R268). -/
def execArm (fmt : Fin 16) (a b c : Fin 32) (s : State) : Out :=
  let off := (s.x a).toNat
  let n := (s.x b).toNat
  let soff := (s.x c).toNat
  let scr := s.h.t.scr
  let len := n * 0x6000
  let sn := if 8 ≤ fmt.val then n * mxN fmt.val else 0
  let lands := scr.landings 0 off len ++ scr.landings 0 soff sn
  if s.h.reply.isSome then s.finishArm
  else if s.h.replay ∧ (s.core? s.coreId).any (fun c => c.seq.any (fun q => q.slot == s.h.coreSlot.2)) then
    .next (s.block .sequencer)
  else if 0xE ≤ fmt.val then .next s.illegal
  else if n = 0 ∨ 128 < n then .next s.badOperand
  else if off % 0x6000 ≠ 0 then .next (s.misaligned off)
  else if !scr.inOne 0 off len || scr.onArmed 0 off len then .next (s.scratchTrap off)
  else if 8 ≤ fmt.val ∧ (!scr.inOne 0 soff sn ∨ scr.onArmed 0 soff sn ∨ overlaps soff (soff + sn) off (off + len)) then
    .next (s.scratchTrap soff)
  else match lands.find? (fun w => w.lstate == .growing) with
    | some w => .next (s.block (.landing w.buf w.base off))
    | none => s.toSequencer true off n fmt.val soff

/-- Whether a range is exactly a number of whole armed regions (R54). -/
def Scratch.wholeRegions (c : Scratch) (off n : Nat) : Bool :=
  let ms := c.macros off n
  ms.length == n && c.armed.all (fun a => decide (off ≤ a.off ∧ a.off < off + n * 0x6000) || ms.all (fun m => m.region != a.region))

/-- Whether a matrix operation of a thread that names a macro of a range has not ended (R54). -/
def State.matrixOn (s : State) (id : HartId) (off n : Nat) : Bool :=
  s.work.ops.any (fun o => o.hart == id && !o.st.ended && (match o.work with
    | .mxs _ _ _ _ _ f kb ng _ _ _ => overlaps f (f + kb * ng * 0x6000) off (off + n * 0x6000)
    | _ => false))

/-- The thread's landing region among some macros to which an update of its own is still on its way: DISARM comes after it in program
order, so that a RENEW before it finds the macros armed (Table 2.8, R443). -/
def State.updateOnMacros (s : State) (off n : Nat) : Option Dest :=
  match s.h.task.gang with
  | none => none
  | some g => ((s.h.t.scr.landings 0 off (n * 0x6000)).map (fun w => Dest.member g s.h.task.rank 0 w.base)).find?
      (fun d => s.mustStay s.h d false)

/-- DISARM (R54, R269). -/
def execDisarm (a b : Fin 32) (s : State) : Out :=
  let off := (s.x a).toNat
  let n := (s.x b).toNat
  if s.h.reply.isSome then s.finishArm
  else if s.h.replay ∧ (s.core? s.coreId).any (fun c => c.seq.any (fun q => q.slot == s.h.coreSlot.2)) then
    .next (s.block .sequencer)
  else if n = 0 ∨ 128 < n then .next s.badOperand
  else if off % 0x6000 ≠ 0 then .next (s.misaligned off)
  else if !s.h.t.scr.wholeRegions off n then .next (s.scratchTrap off)
  else if !s.h.t.post.later.isEmpty && !(s.h.t.scr.landings 0 off (n * 0x6000)).isEmpty then .next (s.block .accesses)
  else match s.updateOnMacros off n with
    | some d => .next (s.block (.order d))
    | none =>
      if s.matrixOn s.h.id off n then .next (s.block (.matrixOps off n))
      else s.toSequencer false off n 0 0

/-- Takes the request at the head of a core's sequencer away and answers its thread. -/
def State.seqDone (s : State) (core slot : Nat) (r : Reply) : State :=
  (s.updCore core (fun c => { c with seq := c.seq.drop 1 })).updHart (.thread core slot) (fun h => { h with reply := some r })

/-- The trap that ends an ARM before it changes a macro, if one does (R53). -/
def Scratch.armTrap (c : Scratch) (q : SeqReq) : Option (Nat × Nat) :=
  let sn := if 8 ≤ q.fmt then q.n * mxN q.fmt else 0
  if (c.landings 0 q.off (q.n * 0x6000) ++ c.landings 0 q.soff sn).any (fun w => w.lstate == .conflict) then some (q.off, 1)
  else (firstInvalid c.w q.fmt q.off q.n q.soff).map (fun a => (a, 0))

/-- The sequencer finishes the next macro of its request (R52, R53); `k` names the ARM. -/
def Hart.seqMacro (h : Hart) (q : SeqReq) (k : Nat) : Hart :=
  let c := h.t.scr
  let off := q.off + q.next * 0x6000
  if q.arm then h.setScr { c with armed := c.armed ++ [armMacro c.w q.fmt off (q.soff + q.next * mxN q.fmt) k] }
  else h.setScr { c with armed := c.armed.filter (fun a => a.off != off) }

/-- An uncorrectable error in a stored item: the record of Table 16.4, and the context stops (R55, R395). -/
def State.storageLoss (s : State) (core slot d0 : Nat) : State :=
  match s.hart? (.thread core slot) with
  | none => s
  | some h => s.raiseLoss h.task.ctx (s.pkgOf h) h.task.name 0 0 d0

/-- ARM_SEQUENCER_MACRO (R53): operand 0 is the core state; operand 1 is 1 for an uncorrectable error in the
macro (R55). A core state that drains, streams or is saved keeps its request where it stands (R63, R382). -/
def execArmSequencerMacro (s : State) : Out :=
  let core := s.evArg 0
  match s.core? core with
  | none => .next s
  | some c => match if s.isPlaced core then c.seq else [] with
    | [] => .next s
    | q :: rest => match s.hart? (.thread core q.slot) with
      | none => .next (s.updCore core (fun x => { x with seq := rest }))
      | some h =>
        let id : HartId := .thread core q.slot
        if s.evArg 1 = 1 then .next (s.storageLoss core q.slot 3)
        else
          let trap := if q.arm && !q.scanned then h.t.scr.armTrap q else none
          match trap with
          | some (a, d) => .next (s.seqDone core q.slot (.trap 0x0C (s.rawW h.task.ctx a) d))
          | none =>
            let k := if q.scanned then q.region else c.arms
            let q' := { q with scanned := true, region := k, next := q.next + 1 }
            let s1 := (s.updHart id (fun g => g.seqMacro q k)).updCore core
              (fun x => { x with seq := q' :: rest, arms := if q.scanned then x.arms else x.arms + 1 })
            .next (if q'.next < q.n then s1 else s1.seqDone core q.slot (.value 0 0))

/-- RETENTION_ENTRY (R55): operands are the core state, the thread slot and the macro's view offset, and 1 for an uncorrectable
error found in an armed macro there. -/
def execRetentionEntry (s : State) : Out :=
  let armed := (s.hart? (.thread (s.evArg 0) (s.evArg 1))).any (fun h => h.t.scr.armed.any (fun a => a.off == s.evArg 2))
  if s.evArg 3 = 1 ∧ armed = true then .next (s.storageLoss (s.evArg 0) (s.evArg 1) 3)
  else .next (s.updHart (.thread (s.evArg 0) (s.evArg 1)) (fun h =>
    h.setScr { h.t.scr with armed := updWhere (fun a => a.off == s.evArg 2) (fun a => { a with retained := true }) h.t.scr.armed }))

/-! ## WINALLOC (R42, R43, R56, R62, R270) -/

/-- Whether a core has granules for a window (R43). -/
def State.hasRoom (s : State) (core buf len : Nat) : Bool := decide (s.bufUsed core buf + len ≤ viewSize buf)

/-- Whether creating a window breaks a rule of R43 or R56. -/
def Scratch.badWin (c : Scratch) (buf base len tile : Nat) (land : Bool) : Bool :=
  decide (base % granule buf ≠ 0) || decide (len % granule buf ≠ 0) || decide (viewSize buf < base + len)
    || c.wins.any (fun w => w.buf == buf && overlaps base (base + len) w.base (w.base + w.len)) || decide (8 ≤ c.wins.length)
    || (land && decide (len % (8 * 2 ^ tile) ≠ 0))

/-- Whether a window may not be released (R43). -/
def Scratch.mayNotFree (c : Scratch) (w : Win) : Bool :=
  w.land || c.onArmed w.buf w.base w.len || c.onRing w.buf w.base w.len

/-- The scratchpad after a window has been created: its bytes read as zero. -/
def Scratch.addWin (c : Scratch) (w : Win) : Scratch :=
  let d := c.setView w.buf (Mem.clear (c.view w.buf) w.base (w.base + w.len))
  { d with wins := d.wins ++ [w] }

/-- A window has been created: spill slots have left the granules it claims (R62), and the operations that waited for a landing
region come back (R58). -/
def State.newWin (s : State) (w : Win) : State :=
  let s1 := (s.setScr (s.h.t.scr.addWin w)).respill s.coreId
  match s.h.task.gang with
  | some g => if w.land then s1.wakeLanding g s.h.task.rank w else s1
  | none => s1

/-- Creates a window, once the core has room. -/
def State.winCreate (s : State) (w : Win) : Out :=
  if s.h.t.scr.badWin w.buf w.base w.len w.tsize w.land then .next (s.scratchTrap w.base)
  else if s.hasRoom s.coreId w.buf w.len then .next (s.newWin w).retire
  else .next (s.block (.space w.buf w.len))

/-- WINALLOC without a landing region. -/
def State.winPlain (s : State) (buf : Nat) (a b : Fin 32) : Out :=
  let base := (s.x a).toNat
  let len := (s.x b).toNat
  let c := s.h.t.scr
  if len ≠ 0 then s.winCreate { buf := buf, base := base, len := len }
  else match c.wins.find? (fun w => w.buf == buf && w.base == base) with
    | none => .next (s.scratchTrap base)
    | some w =>
      if c.mayNotFree w then .next (s.scratchTrap base)
      else .next (s.setScr { c with wins := c.wins.filter (fun x => !(x.buf == buf && x.base == base)) }).retire

/-- WINALLOC of a landing region (R56). -/
def State.winLand (s : State) (buf : Nat) (tsize : Fin 16) (a b c : Fin 32) : Out :=
  let base := (s.x a).toNat
  let len := (s.x b).toNat
  let gen := (s.x c).toNat
  let n := 8 * 2 ^ tsize.val
  if tsize.val < 3 ∨ 9 < tsize.val then .next s.illegal
  else if 65535 < gen ∨ len = 0 then .next s.badOperand
  else s.winCreate { buf := buf, base := base, len := len, land := true, tsize := tsize.val, lgen := gen,
                     filled := List.replicate (len / n) false }

/-- WINALLOC.W (R270). -/
def execWinallocW (a b : Fin 32) (s : State) : Out := s.winPlain 0 a b

/-- WINALLOC.A (R270). -/
def execWinallocA (a b : Fin 32) (s : State) : Out := s.winPlain 1 a b

/-- WINALLOC.C (R270). -/
def execWinallocC (a b : Fin 32) (s : State) : Out := s.winPlain 2 a b

/-- WINALLOC.WL (R270). -/
def execWinallocWl (tsize : Fin 16) (a b c : Fin 32) (s : State) : Out := s.winLand 0 tsize a b c

/-- WINALLOC.AL (R270). -/
def execWinallocAl (tsize : Fin 16) (a b c : Fin 32) (s : State) : Out := s.winLand 1 tsize a b c

end Sys2Proof.Machine
end

