-- ==== Sys2Proof/Machine/ReplyEv.lean ====
section
/-! DEFINITION. What a core does with the replies that reach it, page faults and their repair, forwarding, page moves
and replicas, and the arrival of messages at rill cores (R20, R31 to R37, R94, R121 to R126, R199, R205, R265, R352, R384). -/

namespace Sys2Proof.Machine

/-- Delivers message `i` of the network; a message that may not be delivered, or that `k` does not take, stays. A reply of a
context that stops is discarded (R398). -/
def State.deliver (s : State) (i : Nat) (k : Msg → State → Option State) : Out :=
  match s.takeMsg i with
  | none => .next s
  | some (m, t) => .next (if s.discards m then t else (k m t).getD s)

/-! ## Posted operations: ACK and REFUSE (R94, R119, R121) -/

/-- A posted counter after one reply of its class (R119). -/
def Posted.uncount (p : Posted) (cls : Nat) : Posted :=
  match cls with
  | 1 => { p with p := p.p - 1 }
  | 2 => { p with f := p.f - 1 }
  | 3 => { p with b := p.b - 1 }
  | _ => p

/-- The reply of a message has come: the counter and the journal entry count it, and its number for its home is answered
(R113, R119, R121). -/
def Posted.replied (p : Posted) (m : Member) : Posted :=
  let e := p.j.getD m.entry {}
  { p.uncount m.cls with
    j := p.j.setIfInBounds m.entry { e with out := e.out - 1 }
    sent := p.sent.filter (fun x => !(some x.home == m.home && x.seq == m.seq)) }

/-- Frees an entry whose messages are all acknowledged (R121). -/
def Posted.freeDone (p : Posted) (i : Nat) : Posted :=
  let e := p.j.getD i {}
  if e.out = 0 ∧ e.ref = false then { p with j := p.j.setIfInBounds i {} } else p

/-- The journal entry that a REFUSE finds after it: the first is recorded, a later one adds its lanes (R121, R122). -/
def JEntry.refuse (e : JEntry) (m : Member) (lanes fault tcode gop gfound : Nat) : JEntry :=
  if e.ref then { e with lanes := e.lanes ||| lanes }
  else { e with ref := true, fault := fault, tcode := tcode, lanes := lanes, addr := m.va, gop := gop, gfound := gfound }

/-- The completion join of a detached operation has been accepted: nothing of it is left (R204), but a redirect entry whose
acknowledgement is still to come (R205). -/
def State.ackOp (s : State) (o : Op) (unit : Nat) : State :=
  if unit = 2 ^ 32 then (if o.entry then s.setOp { o with hold := 6 } else s.dropOp o)
  else s.setOp { o with fills := o.fills - 1 }

/-- ACK (R94): operand 0 is the message. -/
def execAck (s : State) : Out :=
  s.deliver (s.evArg 0) fun p t => match p.body with
    | .ack m => match m.who with
      | .thread c k => some ((t.updHart (.thread c k) (fun h => h.setPost ((h.t.post.replied m).freeDone m.entry))).flushAt (.thread c k))
      | .op c k g u => some (match t.op? c k g with
        | some o => t.ackOp o u
        | none => t)
      | _ => some t
    | _ => none

/-- The refusal of a completion join turns a done operation into failed, with CLASS 8 (R204); the refusal of a
remote fill is kept for its unit (R336). -/
def State.refuseOp (s : State) (o : Op) (unit : Nat) (m : Member) (fault tcode : Nat) : State :=
  if unit = 2 ^ 32 then s.setOp { o with st := .failed, cls := 8, code := fault, addr := m.va, hold := 5, pkg := physPkg (s.physOf o.core) }
  else
    let o1 := { o with fills := o.fills - 1 }
    s.setOp (if fault = 4 then { o1 with cls := 2, code := tcode, addr := m.va }
      else { o1 with cls := 3, code := fault, addr := m.va })

/-- A REFUSE at a thread: the counter, the entry, and with the first one of the entry the refusal context fault
(R121, R125). -/
def State.refuseAt (s : State) (h : Hart) (m : Member) (lanes fault tcode gop gfound : Nat) : State :=
  let p := h.t.post.replied m
  let e := p.j.getD m.entry {}
  let e' := { e.refuse m lanes fault tcode gop gfound with stamp := if e.ref then e.stamp else s.work.nextOrder }
  let s1 := s.putHart (h.setPost { p with j := p.j.setIfInBounds m.entry e' })
  if e.ref then s1
  else ({ s1 with work := { s1.work with nextOrder := s1.work.nextOrder + 1 } } : State).entryFault h 0x0B e'

/-- REFUSE (R94, R121): operand 0 is the message. -/
def execRefuse (s : State) : Out :=
  s.deliver (s.evArg 0) fun p t => match p.body with
    | .refuse m lanes fault tcode gop gfound => match m.who with
      | .thread c k => some (match t.hart? (.thread c k) with
        | some h => (t.refuseAt h m lanes fault tcode gop gfound).flushAt (.thread c k)
        | none => t)
      | .op c k g u => some (match t.op? c k g with
        | some o => t.refuseOp o u m fault tcode
        | none => t)
      | _ => some t
    | _ => none

/-! ## Reads: WAKE and DATA (R94) -/

/-- Puts the answer of a parked read into its thread's reply slot. -/
def State.answerThread (s : State) (w : Who) (f : Hart → Hart) : State :=
  match w with
  | .thread c k => s.updHart (.thread c k) f
  | _ => s

/-- WAKE (R94, R99): the outcome and the value reach the reply slot, and the thread is ready. -/
def execWake (s : State) : Out :=
  s.deliver (s.evArg 0) fun p t => match p.body with
    | .wake m o v => some (t.answerThread m.who (fun h => { h with reply := some (.value o v) }))
    | _ => none

/-- The reply slot after one DATA: a plain read has its answer, an FRDV one line more (R312, R313). -/
def Hart.takeData (h : Hart) (m : Member) (part value cause detail : Nat) : Hart :=
  if part = 0 then
    { h with reply := some (if cause = 0 then .value 0 value else .trap cause m.va detail) }
  else match h.reply with
    | some (.lines need got) =>
      let l : LineRes := { part := part - 1, value := value, cause := cause, addr := m.va, detail := detail }
      { h with reply := some (.lines need (got ++ [l])) }
    | _ => h

/-- DATA (R94). -/
def execData (s : State) : Out :=
  s.deliver (s.evArg 0) fun p t => match p.body with
    | .data m part _ value cause detail => some (t.answerThread m.who (fun h => h.takeData m part value cause detail))
    | _ => none

/-! ## The posted-refusal trap (R124) -/

/-- POSTED_REFUSAL_TRAP (R124): due at a boundary of the issuing thread with a refusal pending and no handler
active; TEPC holds the address of the group not yet issued. -/
def execPostedRefusalTrap (s : State) : Out :=
  if s.h.ctl.h ∨ s.h.replay then .next s
  else match s.h.t.post.firstRefused with
    | some i => .next (s.refusalTrap i)
    | none => .next s

/-! ## Page faults (R31 to R33, R209) -/

/-- The rill core of a node answers a fault message with a resume. -/
def State.sendResume (s : State) (node ctx va : Nat) (w : Who) (code : Nat) : State :=
  let dest := match w with
    | .thread c _ => Dest.core c
    | .op c _ _ _ => Dest.core c
    | .rill n => Dest.node n
    | _ => Dest.host
  s.send { src := .rill node, ctx := ctx, dest := dest, body := .resume ctx va w code }

/-- The stack that serves the cores of a cluster rill core's node (Table 7.1). -/
def nodeStack (n : Nat) : Nat := n % 1024 / 4

/-- The rill core of a node repairs the page of a fault message, or answers NOREGION (R31); none without a free frame. -/
def State.repairPage (s : State) (n : Nat) (m : Msg) : Option State :=
  match m.body with
  | .pageFault ctx va _ w task => match s.regionOf ctx va with
    | none => some (s.sendResume n ctx va w 3)
    | some r => (s.createPage ctx r va task (n / 1024) (nodeStack n)).map (fun u => u.sendResume n ctx va w 0)
  | _ => none

/-- The fault messages that a node has accepted and not answered. -/
def State.faultsAt (s : State) (n : Nat) : List Msg := s.lat.faults.filter (fun m => m.dest == .node n)

/-- Tries an accepted fault message again. -/
def State.retryFault (s : State) (i : Nat) : Out :=
  match s.lat.faults[i]? with
  | none => .next s
  | some m => match m.dest with
    | .node n => match s.repairPage n m with
      | some t => .next { t with lat := { t.lat with faults := t.lat.faults.eraseIdx i } }
      | none => .next s
    | _ => .next s

/-- PAGE_FAULT_REPAIR (R31): operand 0 is the fault message's place in the network, or 2^32 more than its place among those that
a rill core has accepted. The page is created and installed, or the answer is NOREGION. Without a free frame an accepted
message waits (log 22); a rill core accepts 64, and the next stays in the network. -/
def execPageFaultRepair (s : State) : Out :=
  if 2 ^ 32 ≤ s.evArg 0 then s.retryFault (s.evArg 0 - 2 ^ 32)
  else s.deliver (s.evArg 0) fun p t => match p.body, p.dest with
    | .pageFault _ _ _ _ _, .node n =>
      if 64 ≤ (t.faultsAt n).length then none
      else match t.repairPage n p with
        | some u => some u
        | none => some { t with lat := { t.lat with faults := t.lat.faults ++ [p] } }
    | _, _ => none

/-- A held access after the answer to its fault message: its page is there, or no region covers it (R33). -/
def Later.answered (l : Later) (va code : Nat) : Later :=
  if l.ask = some va then { l with ask := none, told := if code = 0 then l.told else va :: l.told } else l

/-- A thread that waited for a repair is ready again, and replays its access (R33); a held access knows the answer. -/
def Hart.repaired (h : Hart) (va code : Nat) : Hart :=
  let g := h.setPost { h.t.post with later := h.t.post.later.map (fun l => l.answered va code) }
  if g.stat = .waiting (.repair va) then { g with stat := .ready } else g

/-- An operation that waited for a repair goes on, or fails with the code (R209). -/
def State.repairedOp (s : State) (o : Op) (va code : Nat) : State :=
  if o.waitVa ≠ some va then s
  else if code = 0 then s.setOp { o with waitVa := none }
  else s.endOp o .failed 1 code va

/-- RESUME (R33, R209): operand 0 is the message. -/
def execResume (s : State) : Out :=
  s.deliver (s.evArg 0) fun p t => match p.body with
    | .resume _ va w code => some (match w with
      | .thread c k => (t.updHart (.thread c k) (fun h => h.repaired va code)).flushAt (.thread c k)
      | .op c k g _ => match t.op? c k g with
        | some o => t.repairedOp o va code
        | none => t
      | _ => t)
    | _ => none

/-! ## Operations: their replies and redirects (R199, R204, R205) -/

/-- The end state of an operation by its code (Table 8.3). -/
def endOfCode (n : Nat) : Option OpState :=
  match n with
  | 3 => some .done
  | 4 => some .failed
  | 5 => some .cancelled
  | _ => none

/-- OPERATION_REPLY (R199, R205): the record of the operation is that of the reply's two words. -/
def execOperationReply (s : State) : Out :=
  s.deliver (s.evArg 0) fun p t => match p.body with
    | .opReply c k g w0 w1 => some (match t.op? c k g, endOfCode (bits w0 63 61) with
      | some o, some e =>
        if o.replied then t
        else
          let o1 := { o with st := e, cls := bits w0 60 56, code := bits w0 55 48, units := bits w0 31 0, addr := bits w1 56 0,
                             waitVa := none }
          State.opEnded (t.work.ops.length + 1) o1 (t.setOp o1)
      | _, _ => t)
    | _ => none

/-- REDIRECT (R205): an operation that has not ended is taken over by its engine; the engine acknowledges. -/
def execRedirect (s : State) : Out :=
  s.deliver (s.evArg 0) fun p t => match p.body with
    | .redirect c k g =>
      let t1 := match t.op? c k g with
        | some o => if o.st.ended then t else t.setOp { o with hold := 2 }
        | none => t
      let src := match p.dest with
        | .node n => Who.rill n
        | _ => Who.core c
      some (t1.send { src := src, ctx := p.ctx, dest := .core c, body := .redirectAck c k g })
    | _ => none

/-- The redirect entry of an operation is free (R205). -/
def State.freeRedirect (s : State) (o : Op) : State :=
  if o.hold = 6 then s.dropOp o
  else s.setOp { o with entry := false, hold := if o.hold = 2 then 3 else o.hold }

/-- REDIRECT_ACKNOWLEDGEMENT (R205): the redirect entry is free. An operation of which a record is kept is found by it too. -/
def execRedirectAcknowledgement (s : State) : Out :=
  s.deliver (s.evArg 0) fun p t => match p.body with
    | .redirectAck c k g => some (match t.work.ops.find? (fun o => o.is c k g && o.entry) with
      | some o => t.freeRedirect o
      | none => t)
    | _ => none

/-! ## Messages to rill cores and to moved core states (R352, R384) -/

/-- HANDLER_DISPATCH (R352, R354): the message joins the inbox of its rill core, whose level may hold 64, and
starts a handler at an instruction boundary; the host takes what is sent to it. -/
def execHandlerDispatch (s : State) : Out :=
  s.deliver (s.evArg 0) fun p t => match p.body, p.dest with
    | .rill _, .host => some t
    | .rill r, .node n => match t.hart? (.rill n) with
      | none => none
      | some h =>
        if 64 ≤ (h.r.inbox.filter (fun m => h.r.levelOf m == h.r.levelOf r)).length then none
        else
          let g := { h with r := { h.r with inbox := h.r.inbox ++ [r] } }
          some (t.putHart (if g.replay then g else g.rillBoundary))
    | _, _ => none

/-- Whether a thread waits for an answer that has not come whole (R94). -/
def Hart.unanswered (h : Hart) : Bool :=
  h.awaits && (match h.reply with
    | none => true
    | some (.lines need got) => decide (got.length < need)
    | _ => false)

/-- The replies owed to a thread (R214). -/
def Hart.owing (h : Hart) : List Owe :=
  (if h.unanswered then [Owe.waits h.task.num h.since] else [])
    ++ (h.t.post.later.filterMap (·.ask)).map (fun va => Owe.asked h.task.num va)
    ++ h.t.post.sent.map (fun x => Owe.posted h.task.num x.home x.seq)

/-- The replies owed to an operation (R214): one of a rill core, or one whose reply is on its way, until its core has the reply. -/
def Op.owing (o : Op) : List Owe :=
  (if !o.replied && ((decide (4 ≤ o.kind) && decide (o.kind ≤ 6)) || o.st.ended) then [Owe.reply o.order] else [])
    ++ (o.waitVa.map (fun va => Owe.fault o.order va)).toList
    ++ (if o.entry || o.hold == 1 || o.hold == 2 then [Owe.redirect o.order] else [])
    ++ (if o.hold == 3 || decide (0 < o.fills) then [Owe.fills o.order] else [])

/-- The threads of a core state, or the one in a slot of it, that have not exited. -/
def State.harts1 (s : State) (core : Nat) (slot : Option Nat) : List Hart :=
  s.allHarts.filter (fun h => h.isThread && h.coreSlot.1 == core && h.stat != .exited && slot.all (· == h.coreSlot.2))

/-- The replies owed to a core state, or to a thread of it and the operations that it named (R214). -/
def State.owing (s : State) (core : Nat) (slot : Option Nat) : List Owe :=
  (s.harts1 core slot).flatMap Hart.owing
    ++ (s.work.ops.filter (fun o => o.core == core && slot.all (· == o.thread))).flatMap Op.owing

/-- Whether a reply is still owed (R214). -/
def State.stillOwed (s : State) (e : Owe) : Bool := s.allHarts.any (fun h => h.owing.contains e) || s.work.ops.any (fun o => o.owing.contains e)

/-- Whether a reply is owed to a core state (R214), or a message is on its way to it. -/
def State.owed (s : State) (core : Nat) : Bool := s.lat.net.any (fun m => m.dest == .core core) || !(s.owing core none).isEmpty

/-- Whether a forwarding entry of a physical core is in use (R384, R214): a reply that was owed when the state moved has not come,
or the core has a message to pass on. -/
def State.fwdOpen (s : State) (p : Nat) (e : Fwd) : Bool :=
  e.owes.any s.stillOwed || s.lat.net.any (fun m => m.via == some p && m.dest == .core e.core)

/-- Frees the forwarding entries of a physical core that no reply still needs (R384, R214). -/
def State.trimForward (s : State) (phys : Nat) : State :=
  { s with work := { s.work with
      phys := updWhere (fun p => p.n == phys) (fun p => { p with fwd := p.fwd.filter (s.fwdOpen phys) }) s.work.phys } }

/-- MESSAGE_FORWARD (R384): a message that a vacated core or a save record holds is passed on once the core state
runs again. -/
def execMessageForward (s : State) : Out :=
  match s.lat.net[s.evArg 0]? with
  | none => .next s
  | some m => match m.via, m.dest with
    | some v, .core c =>
      if s.isPlaced c || s.isStopping m.ctx then
        .next (({ s with lat := { s.lat with net := s.lat.net.set (s.evArg 0) { m with via := none } } } : State).trimForward v)
      else .next s
    | _, _ => .next s

/-! ## Caches and pages (R30, R37, R83, R265) -/

/-- WRITE_BACK_COMPLETE (R265): operand 0 is the place of the CLEANR or INVALR in the list; a write-back waits for a bank that a
bank unit holds (R106). -/
def execWriteBackComplete (s : State) : Out :=
  match s.lat.writeBacks[s.evArg 0]? with
  | none => .next s
  | some w =>
    if w.lines.any (fun x => x.2.isSome && s.dramWaits (w.hart.pkg s) (64 * x.1)) then .next s
    else
      let t := { s with lat := { s.lat with writeBacks := s.lat.writeBacks.eraseIdx (s.evArg 0) } }
      .next (w.lines.foldl (fun u x => u.lineDone w.inval x) t)

/-- Whether every freeze unit of a LAT frame is frozen (R95). -/
def State.allFrozen (s : State) (f : Frame) : Bool :=
  let us := s.lat.units.filter (fun u => decide (f.pa ≤ u.pa) && decide (u.pa < f.pa + f.size))
  us.all (fun u => u.st == .frozen) && (f.sealed || us.length == f.size / unitBytes f.ctype f.csize)

/-- The frame at a physical address. -/
def State.frameAt (s : State) (pa : Nat) : Option Frame := s.lat.frames.find? (fun f => f.pa == pa)

/-- Copies `n` bytes of memory. -/
def State.copyMem (s : State) (src dst n : Nat) : State :=
  let l := s.mem.filter (fun c => decide (src ≤ c.1) && decide (c.1 < src + n))
  { s with mem := l.foldl (fun m c => Mem.write m (dst + (c.1 - src)) c.2) (Mem.clear s.mem dst (dst + n)) }

/-- REPLICA_CREATE (R37): operands are the page's frame and the stack near the reader; only a CONST page or a LAT
page whose lines are all frozen has replicas. -/
def execReplicaCreate (s : State) : Out :=
  match s.frameAt (s.evArg 0) with
  | none => .next s
  | some f =>
    if f.kind = 2 ∨ (f.kind = 3 ∧ s.allFrozen f) then
      match s.lat.placeBy true (paPkg f.pa) (s.evArg 1 % 16) f.size with
      | none => .next s
      | some pa =>
        let r : Frame := { pa := pa, size := f.size, ctx := f.ctx, va := f.va, kind := 0 }
        let t := (s.takeFrame r).copyMem f.pa pa f.size
        let l := updWhere (fun x => x.pa == f.pa) (fun x => { x with replicas := x.replicas ++ [(s.evArg 1 % 16, pa)] }) t.lat.frames
        .next (({ t with lat := { t.lat with frames := l } } : State).tlbInvalidate f.ctx f.va (f.va + f.size))
    else .next s

/-- A physical address after a page has moved. -/
def movePa (old new n a : Nat) : Nat := if old ≤ a ∧ a < old + n then new + (a - old) else a

/-- A message after a page has moved: its unit and the cells of its members. -/
def Msg.movePage (f : Nat → Nat) (m : Msg) : Msg :=
  let mem := fun (x : Member) => { x with pa := f x.pa }
  match m.dest, m.body with
  | .unit pa, .lat r => { m with dest := .unit (f pa), body := .lat { r with members := r.members.map mem } }
  | _, _ => m

/-- A freeze unit after a page has moved. -/
def LUnit.movePage (f : Nat → Nat) (u : LUnit) : LUnit :=
  { u with pa := f u.pa, parked := u.parked.map (Msg.movePage f), held := u.held.map (Msg.movePage f) }

/-- The rows of a bank call after a page has moved. -/
def OpWork.movePage (f : Nat → Nat) (w : OpWork) : OpWork :=
  match w with
  | .bankcall e nr args l => .bankcall e nr args (l.map (fun r => (r.1, r.2.1, r.2.2.1, r.2.2.2.1, r.2.2.2.2.map f)))
  | w => w

/-- The gates of a task after a page has moved. -/
def Task.movePage (f : Nat → Nat) (t : Task) : Task := { t with cells := t.cells.map (fun c => { c with pa := f c.pa }) }

/-- A message that a core holds back, after a page has moved. -/
def Outgoing.movePage (f : Nat → Nat) (o : Outgoing) : Outgoing :=
  match o.dest with
  | .unit pa => { dest := .unit (f pa), req := { o.req with members := o.req.members.map (fun x => { x with pa := f x.pa }) } }
  | _ => o

/-- An access that a core holds, after a page has moved. -/
def Later.movePage (f : Nat → Nat) (l : Later) : Later :=
  match l.what with
  | .send outs => { l with what := .send (outs.map (Outgoing.movePage f)) }
  | _ => { l with bank := l.bank.map f }

/-- What a thread knows of its messages without a reply, after a page has moved. -/
def Sent.movePage (f : Nat → Nat) (x : Sent) : Sent :=
  match x.dest with
  | .unit pa => { x with dest := .unit (f pa) }
  | _ => x

/-- A hart after a page has moved. -/
def Hart.movePage (f : Nat → Nat) (h : Hart) : Hart :=
  h.setPost { h.t.post with later := h.t.post.later.map (Later.movePage f), sent := h.t.post.sent.map (Sent.movePage f) }

/-- A row that has been run, after a page has moved: the lines that it writes. -/
def RowEnd.movePage (f : Nat → Nat) (r : RowEnd) : RowEnd := { r with wr := r.wr.map (fun x => (f x.1, x.2)) }

/-- An operation after a page has moved. -/
def Op.movePage (f : Nat → Nat) (o : Op) : Op :=
  { o with cell := o.cell.map (fun c => (c.1, f c.2.1, c.2.2)), dstPa := o.dstPa.map f, work := o.work.movePage f
           bankAt := o.bankAt.map f, ahead := o.ahead.map (RowEnd.movePage f) }

/-- A bank unit that runs a unit, after a page has moved. -/
def BankUnit.movePage (f : Nat → Nat) (b : BankUnit) : BankUnit :=
  if b.cur.isSome then { b with ag := b.ag.map f, wr := b.wr.map (fun x => (f x.1, x.2)) } else b

/-- PAGE_MOVE (R30, R420): operands are the frame of a NEAR or PRIV page and the place it moves to; its bytes, units
and messages move with it, and every TLB copy of its leaf goes. -/
def execPageMove (s : State) : Out :=
  let new := s.evArg 1
  match s.frameAt (s.evArg 0) with
  | none => .next s
  | some f => match s.walk f.ctx f.va with
    | .error _ => .next s
    | .ok l =>
      let near := f.kind == 1 || (s.regionOf f.ctx f.va).any (fun r => r.pol == 1)
      if near && f.kind != 0 && new % f.size == 0 && s.lat.isFree new f.size && decide (new % 2 ^ 40 + f.size ≤ 0x9000000000) then
        let g := movePa f.pa new f.size
        let inside := fun (line : Nat) => decide (f.pa ≤ line * 64) && decide (line * 64 < f.pa + f.size)
        let bad := (s.lat.checks.map (·.1)).filter (fun l => inside l && s.badCheck l)
        let t := (s.uncache (fun c => inside c.line)).copyMem f.pa new f.size
        let t1 := { t with
          work := { t.work with
            ops := t.work.ops.map (Op.movePage g)
            tasks := t.work.tasks.map (Task.movePage g) }
          dev := { t.dev with banks := t.dev.banks.map (fun (b : Nat × BankUnit) => (b.1, b.2.movePage g)) }
          mem := Mem.clear t.mem f.pa (f.pa + f.size)
          lat := { t.lat with
            frames := updWhere (fun x => x.pa == f.pa) (fun x => { x with pa := new, chk := s.checkOf (paPkg new) f.key }) t.lat.frames
            checks := t.lat.checks.filter (fun c => !inside c.1)
            lost := (t.lat.lost ++ bad).map (fun l => g (64 * l) / 64)
            units := t.lat.units.map (LUnit.movePage g)
            net := t.lat.net.map (Msg.movePage g)
            cache := t.lat.cache.filter (fun c => !inside c.line) } }
        .next ((t1.mapHarts (Hart.movePage g)).changeLeaf (paPkg new) f.ctx { l with pa := new })
      else .next s

end Sys2Proof.Machine
end

