-- ==== Sys2Proof/Machine/Token.lean ====
section
/-! DEFINITION. The token instructions and FENCE.K (R127, R130, R195 to R207, R345, R346). -/

namespace Sys2Proof.Machine

/-! ## Waiting (R199) -/

/-- The token-failure trap of a failed operation (Table 16.1). -/
def State.tokenFailure (s : State) (o : Op) (k : Nat) : State :=
  s.takeTrap { cause := 0x11, addr := o.addr % 2 ^ 57, detail := k }

/-- WAIT (R199): a token that names nothing releases nothing. -/
def execWait (k : Fin 16) (s : State) : Out :=
  match s.tokenOp (s.k k) with
  | none => .next s.retire
  | some o =>
    if o.replied = false then .next (s.block (.tokens [o.slot] (s.k k).toNat))
    else if o.st = .failed then .next (s.tokenFailure o k.val)
    else .next ((s.release o).setK k 0).retire

/-- The token registers that a mask names. -/
def maskRegs (mask : BitVec 16) : List (Fin 16) := (countFrom 0 16).filterMap (fun i => if mask.getLsbD i then some (Fin.ofNat 16 i) else none)

/-- Releases the operation of a token register and empties the register. -/
def State.releaseReg (s : State) (k : Fin 16) : State :=
  match s.tokenOp (s.k k) with
  | none => s
  | some o => (s.release o).setK k 0

/-- WAITM (R199). -/
def execWaitm (mask : BitVec 16) (s : State) : Out :=
  let rs := maskRegs mask
  let open_ := rs.filterMap (fun r => (s.tokenOp (s.k r)).bind (fun o => if o.replied then none else some (o.slot, (s.k r).toNat)))
  let bad := rs.find? (fun r => (s.tokenOp (s.k r)).any (fun o => o.st == .failed))
  if open_.isEmpty = false then .next (s.block (.tokens (open_.map (·.1)) ((open_.head?.map (·.2)).getD 0)))
  else match bad with
    | some r => match s.tokenOp (s.k r) with
      | some o => .next (s.tokenFailure o r.val)
      | none => .next s.retire
    | none => .next (rs.foldl State.releaseReg s).retire

/-- Writes the two words of KSTAT (R345): a d of 0 discards word 0. -/
def State.putRecord (s : State) (d : Fin 32) (w : Nat × Nat) : State :=
  (s.setX d (BitVec.ofNat 64 w.1)).setX (Fin.ofNat 32 (d.val + 1)) (BitVec.ofNat 64 w.2)

/-- KSTAT (R199, R345). -/
def execKstat (d : Fin 32) (k : Fin 16) (s : State) : Out :=
  if d.val = 31 then .next s.illegal
  else match s.tokenOp (s.k k) with
    | none => .next ((s.putRecord d (3 * 2 ^ 61, 0)).setK k 0).retire
    | some o =>
      if o.replied = false then .next (s.block (.tokens [o.slot] (s.k k).toNat))
      else .next (((s.putRecord d o.record).release o).setK k 0).retire

/-! ## CANCEL, KPRIO, KMOV -/

/-- Where an operation's engine takes its messages (Table 8.1); that of an adopted record is its own core. -/
def Op.inbox (o : Op) : Dest := if 4 ≤ o.kind ∧ o.kind ≤ 6 then .node o.node else .core o.core

/-- CANCEL (R203): sends the cancel and retires at once; the empty token has no effect. -/
def execCancel (k : Fin 16) (s : State) : Out :=
  match s.tokenOp (s.k k) with
  | none => .next s.retire
  | some o =>
    .next (s.send { src := s.me, ctx := s.h.task.ctx, dest := o.inbox, body := .cancel o.core o.slot o.gen }).retire

/-- A token with another priority. -/
def tokSetPrio (v : Word) (p : Nat) : Word :=
  (v &&& ~~~ (BitVec.ofNat 64 (15 * 2 ^ 17))) ||| BitVec.ofNat 64 (p % 16 * 2 ^ 17)

/-- KPRIO (R202): on an ended operation, or on the empty token, only k changes (log 23). -/
def execKprio (k : Fin 16) (b : Fin 32) (s : State) : Out :=
  if 11 < (s.x b).toNat then .next s.badOperand
  else
    let p := min (s.x b).toNat s.h.task.prio
    let s1 := s.setK k (tokSetPrio (s.k k) p)
    match s.tokenOp (s.k k) with
    | none => .next s1.retire
    | some o => if o.st.ended then .next s1.retire else .next (s1.setOp { o with prio := p }).retire

/-- KMOV (R346). -/
def execKmov (d a : Fin 16) (s : State) : Out :=
  if d = a then .next s.retire else .next ((s.setK d (s.k a)).setK a 0).retire

/-! ## DETACH (R204, R205) -/

/-- The redirect entries of a core that are in use. -/
def State.redirectsUsed (s : State) (core : Nat) : Nat :=
  (s.work.ops.filter (fun o => o.core == core && o.entry)).length

/-- Whether an operation is a stream whose register is still bound (R334). -/
def State.stillBound (s : State) (o : Op) : Bool := s.h.t.scr.streams.any (fun b => b.slot == o.slot && b.gen == o.gen)

/-- Moves an operation into a redirect entry: the slot is free. The core makes the completion join itself if the
reply has come (R205). -/
def State.detach (s : State) (o : Op) (cell : Nat × Nat × Nat) : State :=
  let o1 := { o with hold := 1, cell := some cell, entry := true }
  let s1 := (s.setOp o1).bumpGen o.core o.slot
  let s2 := s1.send { src := s.me, ctx := o.ctx, dest := o.inbox, body := .redirect o.core o.slot o.gen }
  let s3 := match o.work.ring? with
    | some r => if s2.h.t.scr.ringsHeld.contains r then s2
      else s2.setScr { s2.h.t.scr with ringsHeld := s2.h.t.scr.ringsHeld ++ [r] }
    | none => s2
  if o.replied then s3.endDetached o1 else s3

/-- DETACH (R204). -/
def execDetach (k : Fin 16) (b c : Fin 32) (s : State) : Out :=
  let va := (s.x b).toNat
  let bound := (s.tokenOp (s.k k)).any (fun o => s.stillBound o)
  if 65535 < (s.x c).toNat ∨ bound then .next s.badOperand
  else s.access va .latUpdate (trapOn va) fun l pa t =>
    if l.kind ≠ 3 ∨ !(l.ctype == 6 || l.ctype == 7) then trapOn va 6 t
    else if va % cellBytes l.ctype 0 ≠ 0 then .next (t.misaligned va)
    else match t.tokenOp (t.k k) with
      | none => .next t.retire
      | some o =>
        if 32 ≤ t.redirectsUsed t.coreId then .next (t.block .redirects)
        else .next ((t.detach o (va, pa, (t.x c).toNat)).setK k 0).retire

/-! ## ADOPT (R206, R207) -/

/-- The tasks that a task's SPAWN made. -/
def State.children (s : State) (task k : Nat) : List Task := s.work.tasks.filter (fun t => t.parent == some (task, k))

/-- Whether every member of a child has exited. -/
def State.childDone (s : State) (task k : Nat) : Bool := (s.children task k).all (fun t => t.st == .exited)

/-- Orphan `j` of a child: the orphans of its members count by rank, then by issue order (R206); `r` is the number
of ranks still to visit. -/
def State.orphanOf (s : State) (l : List Task) : Nat → Nat → Nat → Option Op
  | 0, _, _ => none
  | n + 1, rank, j =>
    match l.find? (fun t => t.rank == rank) with
    | none => none
    | some t =>
      if j < t.orphans then s.work.ops.find? (fun o => o.task == t.num && o.hold == 4 && o.orphan == some j)
      else s.orphanOf l n (rank + 1) (j - t.orphans)

/-- The adopted record in a slot of the issuing thread, under a token of KIND 7. -/
def State.adopt (s : State) (o : Op) (d : Fin 16) : State :=
  let slot := s.freeSlot s.coreId
  let gen := s.slotGen s.coreId slot
  let n := { o with core := s.coreId, slot := slot, gen := gen, thread := s.h.coreSlot.2, task := s.h.task.num, kind := 7,
                    work := .adopted, hold := 0, orphan := none, order := s.work.nextOrder, replied := true }
  let s1 := s.dropOp o
  let s2 := { s1 with work := { s1.work with ops := s1.work.ops ++ [n], nextOrder := s1.work.nextOrder + 1 } }
  s2.setK d (tokenValue gen s.tag slot s.h.coreSlot.2 7 o.prio)

/-- ADOPT (R207). -/
def execAdopt (k : Fin 16) (a : Fin 32) (s : State) : Out :=
  let v := (s.x a).toNat
  let c := bits v 15 0
  let task := s.h.task.num
  if 2 ^ 48 ≤ v ∨ s.h.task.spawns ≤ c then .next s.badOperand
  else if s.childDone task c = false then .next (s.block (.child task c))
  else
    let l := s.children task c
    match s.orphanOf l l.length 0 (bits v 47 16) with
    | none => .next (s.setK k 0).retire
    | some o =>
      if 32 ≤ s.slotsHeld s.coreId s.h.coreSlot.2 then .next (s.takeTrap { cause := 0x10, detail := k.val })
      else .next (s.adopt o k).retire

/-! ## FENCE.K (R130) -/

/-- The die of a rill core's node, counted over the basin. -/
def nodeDie (n : Nat) : Nat :=
  let e := n % 1024
  n / 1024 * 4 + (if e < 0x40 then e / 16 else (e - 0x40) / 4 / 4)

/-- The fence scope of a rill core seen from a physical core (Table 5.2). -/
def nodeScope (phys n : Nat) : Nat :=
  if n = physRill phys then 1 else if nodeDie n = physDie phys then 2 else pkgScope (physPkg phys) (n / 1024)

/-- The rill core that owns a remote copy's destination, if its page exists (R337). -/
def State.receiver (s : State) (o : Op) : Option Nat :=
  match o.work with
  | .cpyr _ dst _ _ _ => match s.walk o.ctx dst with
    | .ok l =>
      if l.kind = 6 then
        (match s.task? o.task with
          | some t => t.gang.bind (fun g => (s.memberAt g ((dst - (s.regionOf o.ctx dst).elim 0 (·.base)) / 0x800000)).map
              (fun p => physRill (s.physOf p.1)))
          | none => none)
      else some (paRill (l.pa + dst % pageBytes l.size))
    | .error _ => none
  | _ => none

/-- The rill core that a message goes to. -/
def Dest.nodeOf (d : Dest) : Nat :=
  match d with
  | .node n => n
  | _ => 0

/-! ## Rows of a bank call (R105, R338) -/

/-- A range of a bank call: its descriptor fields and the physical addresses of its 1 KiB rows. -/
structure BankRange where
  dir : Nat
  va : Nat
  gen : Nat
  len : Nat
  rows : List Nat := []
  deriving DecidableEq, Repr

/-- The descriptor of two words. -/
def bankRange (w0 w1 : Nat) : BankRange :=
  { dir := bits w0 63 63, va := bits w0 56 0, gen := bits w1 47 32, len := bits w1 31 0 }

/-- A range from what an operation holds. -/
def BankRange.unpack (x : Nat × Nat × Nat × Nat × List Nat) : BankRange :=
  { dir := x.1, va := x.2.1, gen := x.2.2.1, len := x.2.2.2.1, rows := x.2.2.2.2 }

/-- The base-die rill core of a quarter stack. -/
def nodeOfQuarter (q : Nat) : Nat := q / 64 * 1024 + 0x40 + q % 64

/-- The rill core that owns a bank unit. -/
def buNode (bu : Nat) : Nat := nodeOfQuarter (bu / 128)

/-- The ranges of a bank call. -/
def OpWork.ranges (w : OpWork) : List BankRange :=
  match w with
  | .bankcall _ _ _ l => l.map BankRange.unpack
  | _ => []

/-- The driving range: the first with DIR = 1, or range 0 (R338). -/
def drivingRange (l : List BankRange) : BankRange := ((l.find? (fun r => r.dir == 1)).or l.head?).getD (bankRange 0 0)

/-- Rows of a bank call. -/
def OpWork.bankRowCount (w : OpWork) : Nat := (drivingRange w.ranges).len / 1024

/-- The bank unit of row `u` of a bank call. -/
def OpWork.rowBu (w : OpWork) (u : Nat) : Nat := buOf (nth (drivingRange w.ranges).rows u)

/-- The rill cores that own rows of a bank call, one for each row. -/
def Op.rowNodes (o : Op) : List Nat := (countFrom 0 o.work.bankRowCount).map (fun u => buNode (o.work.rowBu u))

/-- Whether a message is one of those that split a bank call (R105). -/
def Op.isSplit (o : Op) (m : Msg) : Bool :=
  match m.body with
  | .bankcall c k g => o.is c k g
  | _ => false

/-- Whether FENCE.K of a scope still waits for an operation: its engine has not accepted it, a rill core that owns rows of a bank
call has not taken it, or the receiver of a remote copy has not registered its range. Engines of the issuing core have registered at issue. -/
def State.fenceWaits (s : State) (phys scope : Nat) (o : Op) : Bool :=
  !o.st.ended && match o.kind with
    | 4 => (!o.arrived && (o.node :: o.rowNodes).any (fun n => decide (nodeScope phys n ≤ scope)))
        || s.lat.net.any (fun m => o.isSplit m && decide (nodeScope phys m.dest.nodeOf ≤ scope))
    | 5 => decide (nodeScope phys o.node ≤ scope) && !o.arrived
    | 6 => (decide (nodeScope phys o.node ≤ scope) && !o.arrived)
        || (decide (((s.receiver o).elim 1 (nodeScope phys)) ≤ scope) && o.h0 == 0)
    | _ => false

/-- Whether FENCE.K of a scope holds a hart. -/
def State.fenceKHolds (s : State) (h : Hart) (scope : Nat) : Bool :=
  s.work.ops.any (fun o => o.hart == h.id && decide (o.hold < 4) && s.fenceWaits (s.physOf h.coreSlot.1) scope o)

/-- FENCE.K (R130). -/
def execFenceK (scope : Fin 8) (s : State) : Out :=
  if 5 < scope.val then .next s.illegal
  else if s.fenceKHolds s.h scope.val then .next (s.block (.fenceK scope.val))
  else .next s.retire

end Sys2Proof.Machine
end

