-- ==== Sys2Proof/Machine/Tasks.lean ====
section
/-! DEFINITION. Launch records and their gates, SPAWN, gate wakes, and EXIT (R20, R58, R171 to R177, R183, R206, R266). -/

namespace Sys2Proof.Machine

/-! ## Launch records (Table 7.2) -/

/-- GSIZE of a record. -/
def recGsize (w : List Nat) : Nat := bits (nth w 7) 44 33
/-- GX of a record. -/
def recGx (w : List Nat) : Nat := bits (nth w 7) 48 45
/-- GSHAPE of a record. -/
def recGshape (w : List Nat) : Nat := bits (nth w 7) 51 49
/-- GTAG of a record. -/
def recGtag (w : List Nat) : Nat := bits (nth w 7) 32 17
/-- NG of a record. -/
def recNg (w : List Nat) : Nat := bits (nth w 7) 63 61
/-- PRIO of a record. -/
def recPrio (w : List Nat) : Nat := bits (nth w 0) 63 60
/-- LEVEL of a record. -/
def recLevel (w : List Nat) : Nat := bits (nth w 0) 59 57

/-- The argument word that GARG, HARG or SARG names, if it names one. -/
def recArg (w : List Nat) (hi lo : Nat) : Option Nat :=
  let i := bits (nth w 7) hi lo
  if i = 0 then none else some (nth w i)

/-- The capacity in threads of one unit of a level (Table 7.1). -/
def levelThreads (l : Nat) : Nat :=
  match l with
  | 1 => 8
  | 2 => 32
  | _ => 128

/-- Orders 3 to 6 of R173: whether a record's own fields are refused. -/
def recordBad (w : List Nat) : Bool :=
  let garg := bits (nth w 7) 60 58
  let gsize := recGsize w
  let gx := recGx w
  let sh := recGshape w
  let lvl := recLevel w
  -- order 3
  nth w 0 % 4 != 0 || bits (nth w 0) 63 60 > 11 || decide (4 < lvl) || bits (nth w 7) 16 0 != 0 || decide (4 < recNg w)
    || decide (1 < sh) || garg == 7 || bits (nth w 7) 57 55 == 7 || bits (nth w 7) 54 52 == 7
    || (garg == 0 && recNg w != 0) || (garg != 0 && recNg w == 0)
    -- order 4
    || decide (2048 < gsize) || (gsize == 0 && (sh != 0 || gx != 0 || recGtag w != 0)) || (decide (0 < gsize) && sh == 0 && gx != 0)
    -- order 5
    || (sh == 1 && (gx == 0 || decide (8 < gx) || gsize % gx != 0 || decide (8 < gsize / gx) || lvl != 0))
    -- order 6
    || (sh == 0 && decide (1 ≤ lvl) && decide (lvl ≤ 3) && decide (levelThreads lvl < gsize))

/-! ## Gates (Table 7.3) -/

/-- The gate of an entry's four words. -/
def gateOf (e : List Nat) : Gate :=
  { fr := bits (nth e 0) 63 61 == 1, cell := bits (nth e 0) 56 0, gen := bits (nth e 1) 15 0, trig := nth e 2 }

/-- Order 9 of R173: a reserved field, or GK a refused code. -/
def gateBad (e : List Nat) : Bool :=
  decide (1 < bits (nth e 0) 63 61) || bits (nth e 0) 60 57 != 0 || decide (65535 < nth e 1) || nth e 3 != 0

/-- Order 11 of R173. -/
def Gate.badTrigger (g : Gate) : Bool :=
  if g.fr then g.trig != 0
  else g.ty == 9 || g.ty == 10 || g.ty == 5 || (g.ty == 8 && g.trig != 0)
    || ((g.ty == 6 || g.ty == 11) && decide (2 ^ 32 ≤ g.trig))

/-- Sends gate `i` of a task to its cell's home as a reader (R175). -/
def State.sendGate (s : State) (ctx task i : Nat) (g : Gate) : State :=
  let w : Who := .gate task i
  let m : Member := { who := w, va := g.cell, pa := g.pa }
  let r : LReq := { kind := if g.fr then .thrF else .thr, ty := g.ty, sz := g.sz, gen := g.gen, members := [m],
                    trigs := if g.fr then [] else [if g.ty = 8 then 1 else g.trig] }
  s.send { src := w, ctx := ctx, dest := .unit (unitOf g.ty g.sz g.pa), body := .lat r }

/-- Sends the gates of a task from number `i` on. -/
def State.sendGates (ctx task : Nat) : Nat → List Gate → State → State
  | _, [], s => s
  | i, g :: l, s => State.sendGates ctx task (i + 1) l (s.sendGate ctx task i g)

/-- Changes a task. -/
def State.updTask (s : State) (n : Nat) (f : Task → Task) : State :=
  { s with work := { s.work with tasks := updWhere (fun t => t.num == n) f s.work.tasks } }

/-- Whether a task has an anchor and a LEVEL that confines it (R377). -/
def Task.confines (t : Task) : Bool :=
  decide (1 ≤ recLevel t.words) && decide (recLevel t.words ≤ 3) && ((recArg t.words 57 55).isSome || !t.cells.isEmpty)

/-- A task enters its die's ready queue at the tail of its level (R376). -/
def State.makeReady (s : State) (n : Nat) : State :=
  let s1 := s.updTask n (fun t => { t with st := .ready, readyAt := s.work.nextReady, confined := t.confines })
  { s1 with work := { s1.work with nextReady := s1.work.nextReady + 1 } }

/-- Accepts a record: the device keeps its copy, its gates are sent, and with none it is ready at once (R175, R178). -/
def State.acceptRecord (s : State) (ctx name : Nat) (w : List Nat) (gs : List Gate) (parent : Option (Nat × Nat))
    (die : Nat) : State :=
  let n := s.work.nextTask
  let isGang := recGsize w != 0
  let t : Task := { num := n, ctx := ctx, name := name, words := w, gang := if isGang then some s.work.nextGang else none,
                    gates := gs.map (fun _ => none), parent := parent, die := die, cells := gs, born := s.work.nextOrder }
  let g : Gang := { num := s.work.nextGang, ctx := ctx, members := [] }
  let s1 := { s with work := { s.work with
    tasks := s.work.tasks ++ [t], nextTask := n + 1
    gangs := if isGang then s.work.gangs ++ [g] else s.work.gangs
    nextGang := if isGang then s.work.nextGang + 1 else s.work.nextGang
    nextOrder := s.work.nextOrder + 1 } }
  if gs.isEmpty then s1.makeReady n else State.sendGates ctx n 0 gs s1

/-- The package whose stores hold a task's record (R176, R206): that of the die that keeps it. -/
def Task.pkg (t : Task) : Nat := t.die / 4

/-- Whether a package's store of undispatched records is full for a context (R176): at 2^20 records, the least that the
manual asks for (log 69). -/
def State.storeFull (s : State) (ctx pkg : Nat) : Bool :=
  decide (2 ^ 20 ≤ (s.work.tasks.filter (fun t => t.ctx == ctx && t.pkg == pkg && (t.st == .gated || t.st == .ready))).length)

/-- GATE_WAKE (R175, R376): operand 0 is the message; the last gate readies the task. -/
def execGateWake (s : State) : Out :=
  s.deliver (s.evArg 0) fun p t => match p.body with
    | .gateWake n i o =>
      let t1 := t.updTask n (fun x => { x with gates := x.gates.set i (some o) })
      some (match t1.task? n with
        | some x => if x.st = .gated ∧ x.gates.all (·.isSome) then t1.makeReady n else t1
        | none => t1)
    | _ => none

/-! ## SPAWN (R176, R177, R266) -/

/-- Reads gate entries from an address (order 8): the words of each. -/
def State.gateEntries (k : List (List Nat) → State → Out) : Nat → Nat → List (List Nat) → State → Out
  | 0, _, es, s => k es s
  | n + 1, va, es, s =>
    s.locked false 0 va 32 va <|
      s.access va .load (trapOn va) fun l pa t =>
        if l.kind = 5 then trapOn va 6 t
        else if t.isLost pa 32 then t.lose va (t.lossD0 pa 32)
        else if t.fillWaits t.cluster pa 32 then .next (t.block (.bank pa))
        else State.gateEntries k n (va + 32) (es ++ [Mem.words t.mem pa 4]) (t.noteAccess l va pa 32)

/-- Orders 9 to 11 of R173, gate by gate; `record` is the record's address. -/
def State.checkGates (record : Nat) (k : List Gate → State → Out) : List (List Nat) → List Gate → State → Out
  | [], gs, s => k gs s
  | e :: l, gs, s =>
    let g := gateOf e
    if gateBad e then .next (s.takeTrap { cause := 0x0E, addr := record })
    else s.access g.cell .latRead (trapOn g.cell) fun lf pa t =>
      if lf.kind ≠ 3 then trapOn g.cell 6 t
      else
        let g' := { g with pa := pa, ty := lf.ctype, sz := lf.csize }
        if g'.badTrigger then .next (t.takeTrap { cause := 0x0D, addr := g.cell })
        else State.checkGates record k l (gs ++ [g']) t

/-- The name of the task that the k-th SPAWN of a task makes (R177). -/
def spawnName (name k : Nat) : Nat := (name * 65536 + k + 1) % 2 ^ 64

/-- SPAWN retires: the record is accepted (R176, R177). -/
def State.spawned (s : State) (w : List Nat) (gs : List Gate) : State :=
  let t := s.h.task
  let s1 := s.acceptRecord t.ctx (spawnName t.name t.spawns) w gs (some (t.num, t.spawns)) (physDie s.phys)
  { s1 with h := { s1.h with t := { s1.h.t with task := { t with spawns := t.spawns + 1 } } } }.retire

/-- SPAWN (R266). -/
def execSpawn (a : Fin 32) (s : State) : Out :=
  let va := (s.x a).toNat
  if va % 64 ≠ 0 then .next (s.misaligned va)
  else s.readBlock va fun w t =>
    let gb := (recArg w 60 58).getD 0
    if recordBad w then .next (t.takeTrap { cause := 0x0E, addr := va })
    else if gb % 32 ≠ 0 then .next (t.misaligned gb)
    else State.gateEntries (fun es u => State.checkGates va (fun gs z =>
        if z.storeFull z.h.task.ctx (physPkg z.phys) then .next (z.block (.recordStore va)) else .next (z.spawned w gs)) es [] u)
      (recNg w) gb [] t

/-! ## EXIT (R183) -/

/-- The operations of a hart that it still holds in slots, in their order of issue. -/
def State.heldOps (s : State) (h : Hart) : List Op :=
  sortBy (·.order) (s.work.ops.filter (fun o => o.hart == h.id && o.hold == 0))

/-- Every slot that a thread still holds becomes an orphan record, numbered from `i` (R206). -/
def State.orphanAll : Nat → List Op → State → State
  | _, [], s => s
  | i, o :: l, s => State.orphanAll (i + 1) l ((s.setOp { o with hold := 4, orphan := some i }).bumpGen o.core o.slot)

/-- What an exiting gang member leaves (R58): its landing regions are frozen, whatever state they were in. -/
def Scratch.past (c : Scratch) (rank node : Nat) : PastMember :=
  { rank := rank, node := node, w := c.w, a := c.a,
    wins := (c.wins.filter (·.land)).map (fun w => { w with lstate := .frozen }) }

/-- Judges the operations that waited at an exited member's core (R58). -/
def State.judgeWaiting (s : State) (x : PastMember) (l : List Msg) : State :=
  l.foldl (fun t p => match p.body, p.dest with
    | .lat r, .member g q b o => t.judgePast p r { gang := g, rank := q, buf := b, off := o } x
    | _, _ => t) s

/-- The readers parked at an exited member's regions are answered. -/
def State.answerPast (s : State) (gang : Nat) (x : PastMember) : State :=
  x.wins.foldl (fun t w => t.reevalLand (.rill x.node) (x.node / 1024) gang x.rank { w := w, view := if w.buf = 0 then x.w else x.a } t.lat.landParked []) s

/-- A gang member exits (R58, R183). -/
def State.leaveGang (s : State) (h : Hart) : State :=
  match h.task.gang with
  | none => s
  | some g =>
    let x := h.t.scr.past h.task.rank (physRill s.phys)
    let s1 := { s with work := { s.work with gangs := updWhere (fun y => y.num == g) (fun y => { y with past := y.past ++ [x] }) s.work.gangs } }
    let mine := pickMember (fun d => d.gang == g && d.rank == h.task.rank) s1.lat.waiting
    let s2 := { s1 with lat := { s1.lat with waiting := s1.lat.waiting.filter (fun p => !mine.contains p) } }
    (s2.judgeWaiting x mine).answerPast g x

/-- The thread's own state after its exit: streams are unbound, locks of ended operations are gone; without a
detached operation that still runs, nothing of the scratchpad is left (R137, R183, R334). -/
def Hart.exited (h : Hart) (running : List Op) : Hart :=
  let keep := fun (e : Nat × RangeLock) => e.2.left || running.any (fun o => o.slot == e.2.kslot && o.gen == e.2.kgen)
  let scr : Scratch := if running.isEmpty then {} else { h.t.scr with streams := [] }
  { h.settleBoard.settle with stat := .exited, t := { h.settle.t with rlt := h.t.rlt.filter keep, scr := scr, hist := [] } }

/-- EXIT retires (R183). -/
def State.exit (s : State) : State :=
  let h := s.h
  let held := s.heldOps h
  let running := s.work.ops.filter (fun o => o.hart == h.id && decide (1 ≤ o.hold) && decide (o.hold ≤ 3) && !o.st.ended)
  let s1 := (State.orphanAll 0 held s).updTask h.task.num (fun t => { t with st := .exited, orphans := held.length })
  let s2 := s1.leaveGang h
  ({ s2 with h := s2.h.exited running } : State).settleTask h.task.ctx h.task.num

/-- The package that keeps the orphan records of a task. -/
def State.taskPkg (s : State) (n : Nat) : Nat := ((s.task? n).map (·.pkg)).getD 0

/-- Whether the orphan area of a context on a package has no room for more records (R206): it holds 2^20, the least that the
manual asks for (log 69). -/
def State.orphansFull (s : State) (ctx pkg n : Nat) : Bool :=
  decide (2 ^ 20 < (s.work.ops.filter (fun o => o.ctx == ctx && o.hold == 4 && s.taskPkg o.task == pkg)).length + n)

/-- EXIT in a handler enters every refused entry in the context's fault records (R259). -/
def State.exitRefusals (s : State) : State :=
  (s.h.t.post.j.toList.filter (·.ref)).foldl (fun t e => t.entryFault s.h 4 e) s

/-- EXIT once its replies are here: the child operations, the orphan area, and the exit. -/
def State.exitNow (s : State) : Out :=
  let held := s.heldOps s.h
  if held.any (fun o => !o.replied) then .next (s.block .childOps)
  else if !held.isEmpty && s.orphansFull s.h.task.ctx (s.taskPkg s.h.task.num) held.length then .next (s.block .orphanArea)
  else .next s.exitRefusals.exit

/-- EXIT (R126, R183, R206, R259). A rill core, which has no task, writes its pending results and issues no more (log 35). -/
def execExit (s : State) : Out :=
  if s.h.isThread = false then .next { s with h := { s.h.settleBoard.settle with stat := .exited } }
  else if s.h.t.post.clear 3 = false then .next (s.block (.counters 3))
  else match s.h.t.post.firstRefused with
    | some i =>
      if s.h.ctl.h then s.exitNow
      else .next (s.refusalTrap i)
    | none => s.exitNow

end Sys2Proof.Machine
end

