-- ==== Sys2Proof/Machine/Strip.lean ====
section
/-! DEFINITION. Units of operations as their engines run them: copies, gathers, scatters, ring pushes and streams, line by line
(R61, R146, R194, R200, R209, R329 to R334). -/

namespace Sys2Proof.Machine

/-! ## Units of an operation (Table 13.3) -/

/-- The quotient rounded up. -/
def ceilDiv (a b : Nat) : Nat := (a + b - 1) / b

/-- The hart's scratchpad of an operation's thread. -/
def State.scrOf (s : State) (o : Op) : Scratch := ((s.hart? o.hart).map (fun h => h.t.scr)).getD {}

/-- Ring `r` of an operation's thread. -/
def State.ringOf (s : State) (o : Op) (r : Nat) : Ring := ((s.scrOf o).rings.toList[r]?).getD {}

/-- The units of a copy of `n` elements of `e` bytes: 4,096-byte groups of whole elements, or ring tiles. -/
def elemUnits (tile n e : Nat) : Nat := if tile ≠ 0 then ceilDiv (n * e) tile else ceilDiv n (4096 / e)

/-- TILE of the ring that an operation pushes into, or 0 for one that pushes into none. -/
def State.pushTile (s : State) (o : Op) : Nat :=
  match o.work with
  | .mxs _ _ _ _ _ _ _ _ _ _ _ => 0
  | w => match w.ring? with
    | some r => (s.ringOf o r).tile
    | none => 0

/-- The element size and count of a gather or scatter descriptor. -/
def gatherEN (d : List Nat) : Nat × Nat := (bits (nth d 0) 12 0, bits (nth d 1) 31 0)

/-- The size of the cell or tile at a remote copy's destination is kept in `h0` once it is known. -/
def Op.cellSize (o : Op) : Nat := o.h0

/-- How many units an operation of a core's engines, or a remote copy, has. -/
def State.unitsOf (s : State) (o : Op) : Nat :=
  let tile := s.pushTile o
  match o.work with
  | .mxs _ _ _ _ _ _ _ ng m _ _ => m * ng
  | .mxz _ m _ _ => m
  | .mxe _ _ _ _ _ _ _ _ m _ _ _ _ _ => m
  | .cpy _ _ conv _ _ _ len _ _ =>
    let n := len / (convSizes conv).1 * (convSizes conv).2
    ceilDiv n (if tile = 0 then 4096 else tile)
  | .cpya _ _ _ _ _ _ _ d => elemUnits tile (affineOf d).total (affineOf d).e
  | .cpyg _ _ _ _ _ _ _ d => elemUnits tile (gatherEN d).2 (gatherEN d).1
  | .cpys _ _ _ _ _ _ d => elemUnits 0 (gatherEN d).2 (gatherEN d).1
  | .sbind _ _ conv _ _ _ d => ceilDiv ((affineOf d).images conv) 21
  | .cpyr _ _ _ len _ => if o.cellSize = 0 then 1 else ceilDiv (len / o.cellSize) (4096 / o.cellSize)
  | _ => 0

/-! ## What a unit ends in -/

/-- How a unit fares: it completes; it stalls on a HOST page or a growing landing region; it is held for a while by the bank of a line or
by a lattice operation of its thread on its way; it fails with a class, code and address; or an ABSENT page must be repaired for an
access. -/
inductive UStat where
  | ok
  | stall
  | hold (pa : Option Nat)
  | fail (cls code addr : Nat)
  | repair (va : Nat) (a : Acc)
  deriving DecidableEq, Repr

/-- An uncorrectable loss that a unit meets raises its context fault (R90, R210). -/
def State.lossFault (s : State) (o : Op) (va d0 : Nat) : State :=
  s.raiseLoss o.ctx (physPkg (s.physOf o.core)) (((s.task? o.task).map (·.name)).getD 0) va 0 d0

/-- Writes view bytes of a scratchpad. -/
def Scratch.put (c : Scratch) (buf o n v : Nat) : Scratch := c.setView buf (Mem.writeN (c.view buf) o n v)

/-- Replaces the scratchpad of an operation's thread. -/
def State.setScrOf (s : State) (o : Op) (c : Scratch) : State := s.updHart o.hart (fun h => h.setScr c)

/-! ## One unit under way -/

/-- A unit under way: the state, bytes gathered for a ring tile or for images, how it fares, and how many destination bytes
this run has written. -/
structure Run where
  s : State
  buf : List Host.Cell := []
  st : UStat := .ok
  count : Nat := 0
  deriving DecidableEq, Repr

/-- The unit ends so, unless it has ended already. -/
def Run.stop (r : Run) (u : UStat) : Run := if r.st = .ok then { r with st := u } else r

/-- What a translation fault makes of a unit (R209, R34, R22). -/
def State.unitFault (s : State) (ctx va : Nat) (a : Acc) (c : Nat) : UStat :=
  if c = 1 then
    match s.regionOf ctx va with
    | none => .fail 1 3 va
    | some g => if g.kind = 4 then .stall else .repair va a
  else if c = 6 ∨ c = 7 then .fail 2 c va
  else .fail 1 c va

/-- Whether a bank or a lattice operation holds a unit back for a while. -/
def UStat.isHold (u : UStat) : Bool :=
  match u with
  | .hold _ => true
  | _ => false

/-- The line whose bank holds a unit back (R106). -/
def UStat.bank (u : UStat) : Option Nat :=
  match u with
  | .hold pa => pa
  | _ => none

/-- A line that the unit reads is lost (R90, R210). -/
def Run.lose (r : Run) (o : Op) (va pa n : Nat) : Run :=
  { r with s := r.s.lossFault o va (r.s.lossD0 pa n) }.stop (.fail 4 0 va)

/-- Translates an access of an operation; the leaf and the physical address, or the unit has ended. -/
def Run.trans (r : Run) (o : Op) (va : Nat) (a : Acc) : Run × Option (Leaf × Nat) :=
  let t := r.s.translate (some o.core) (physDie (r.s.physOf o.core)) o.ctx o.task va a
  let r1 := { r with s := t.1 }
  match t.2 with
  | .ok l pa => (r1, some (l, pa))
  | .wait => (r1.stop .stall, none)
  | .lost e => (r1.lose o va e 16, none)
  | .fault c => (r1.stop (t.1.unitFault o.ctx va a c), none)

/-- The cluster whose cache an operation's core reads and writes through. -/
def Run.cluster (r : Run) (o : Op) : Nat := physCluster (r.s.physOf o.core)

/-- Bytes of frozen lines of a LAT page; a line that is not frozen fails the unit with PROT (R330). The thread's earlier
operations to the freeze unit come first (R118). -/
def Run.readLat (r : Run) (o : Op) (l : Leaf) (va pa n : Nat) : Run × Nat :=
  let u := r.s.unitAt (unitOf l.ctype l.csize pa)
  if r.s.postedTo o.core o.thread (.unit u.pa) then (r.stop (.hold none), 0)
  else if r.s.isLost pa n then (r.lose o va pa n, 0)
  else if u.st = .frozen then (r, u.image l.ctype l.csize / 2 ^ (8 * (pa - u.pa)) % 2 ^ (8 * n)) else (r.stop (.fail 2 6 va), 0)

/-- Reads `n` bytes of one line at a virtual address (R330). -/
def Run.readMem (r : Run) (o : Op) (va n : Nat) : Run × Nat :=
  match r.trans o va .engRead with
  | (r1, none) => (r1, 0)
  | (r1, some (l, pa)) =>
    if r1.s.fillWaits (r1.cluster o) pa n then (r1.stop (.hold (some pa)), 0)
    else if l.kind = 3 then r1.readLat o l va pa n
    else if r1.s.isLost pa n then (r1.lose o va pa n, 0)
    else (r1, Mem.readN r1.s.mem pa n)

/-- Whether the thread of an operation has a lattice operation on its way to one of its own landing regions (R118). -/
def State.postedLand (s : State) (o : Op) (w : Win) : Bool :=
  match s.hart? o.hart with
  | some h => match h.task.gang with
    | some g => s.postedTo o.core o.thread (.member g h.task.rank w.buf w.base)
    | none => false
  | none => false

/-- Reads `n` bytes of a view (R59, R118, R200). -/
def Run.readView (r : Run) (o : Op) (buf a n : Nat) : Run × Nat :=
  let c := r.s.scrOf o
  let ls := c.landings buf a n
  if !c.inWindows buf a n then (r.stop (.fail 2 6 a), 0)
  else if ls.any (r.s.postedLand o) then (r.stop (.hold none), 0)
  else if ls.any (fun w => w.lstate == .conflict) then (r.stop (.fail 3 4 a), 0)
  else if ls.any (fun w => w.lstate == .growing) then (r.stop .stall, 0)
  else (r, Mem.readN (c.view buf) a n)

/-- Reads `n` bytes of a space, at most two 64-byte lines, the lower one first. -/
def Run.read (r : Run) (o : Op) (space a n : Nat) : Run × Nat :=
  if r.st ≠ .ok then (r, 0)
  else if space ≠ 0 then r.readView o (space - 1) a n
  else
    let m := 64 - a % 64
    if n ≤ m then r.readMem o a n
    else
      let p := r.readMem o a m
      if p.1.st ≠ .ok then (p.1, 0)
      else
        let q := p.1.readMem o ((a + m) % 2 ^ 64) (n - m)
        (q.1, p.2 + q.2 * 2 ^ (8 * m))

/-- Writes `n` bytes of one line at a virtual address: a PRIV page of the task (R330). -/
def Run.writeMem (r : Run) (o : Op) (va n v : Nat) : Run :=
  match r.trans o va .engWrite with
  | (r1, none) => r1
  | (r1, some (l, pa)) =>
    if l.kind ≠ 1 then r1.stop (.fail 2 6 va)
    else if r1.s.storeWaits (r1.cluster o) pa n then r1.stop (.hold (some pa))
    else { r1 with s := r1.s.putCached (r1.cluster o) pa n v, count := r1.count + n }

/-- Writes `n` bytes of a space, at most two 64-byte lines of memory, the lower one first; space 4 gathers them. -/
def Run.write (r : Run) (o : Op) (space a n v : Nat) : Run :=
  if r.st ≠ .ok then r
  else if space = 0 then
    let m := 64 - a % 64
    if n ≤ m then r.writeMem o a n v
    else
      let p := r.writeMem o a m (v % 2 ^ (8 * m))
      if p.st ≠ .ok then p else p.writeMem o ((a + m) % 2 ^ 64) (n - m) (v / 2 ^ (8 * m))
  else if space = 4 then { r with buf := Mem.writeN r.buf a n v, count := r.count + n }
  else
    let c := r.s.scrOf o
    let buf := space - 1
    if c.inWindows buf a n && c.plain buf a n then { r with s := r.s.setScrOf o (c.put buf a n v), count := r.count + n }
    else r.stop (.fail 2 6 a)

/-- Moves `n` bytes, line by line in ascending order (R194); the fuel is `n`. -/
def Run.moves (r : Run) (o : Op) (ssp dsp : Nat) : Nat → Nat → Nat → Nat → Run
  | 0, _, _, _ => r
  | k + 1, src, dst, n =>
    if n = 0 ∨ r.st ≠ .ok then r
    else
      let m := min n (min (64 - src % 64) (64 - dst % 64))
      let p := r.read o ssp (src % 2 ^ 64) m
      (p.1.write o dsp (dst % 2 ^ 64) m p.2).moves o ssp dsp k (src + m) (dst + m) (n - m)

/-! ## Conversions (R331, R146) -/

/-- The five T2 codes of a T5 byte; an invalid byte gives 0b10 for each (R146). -/
def t5Codes (x : Nat) : List Nat :=
  if 242 < x then List.replicate 5 2
  else (countFrom 0 5).map (fun i => tritCode (((x / 3 ^ i % 3 : Nat) : Int) - 1))

/-- The destination bytes of one source group (R331). -/
def convGroup (conv : Nat) (r : RndMode) (v : Nat) : Nat :=
  match conv with
  | 1 => (bf16.round (fp32.value v) r).1
  | 2 => (fp16.round (fp32.value v) r).1
  | 3 => (e4m3.round (fp32.value v) r).1
  | 4 => (e5m2.round (fp32.value v) r).1
  | 5 => v * 2 ^ 16
  | 6 => (widen fp16 v).1
  | 7 => (widen e4m3 v).1
  | 8 => packCodes 2 ((unpackCodes 8 v 4).flatMap t5Codes)
  | _ => v

/-- Converts the destination bytes `off` to `off + n - 1` of an element at `src` into `dst`, group by group; the fuel
is `n`. -/
def Run.convs (r : Run) (o : Op) (ssp dsp conv : Nat) (rm : RndMode) (src : Nat) : Nat → Nat → Nat → Nat → Run
  | 0, _, _, _ => r
  | k + 1, off, dst, n =>
    if n = 0 ∨ r.st ≠ .ok then r
    else
      let g := convSizes conv
      let skip := off % g.2
      let m := min n (g.2 - skip)
      let p := r.read o ssp ((src + off / g.2 * g.1) % 2 ^ 64) g.1
      let v := convGroup conv rm p.2 / 2 ^ (8 * skip) % 2 ^ (8 * m)
      (p.1.write o dsp (dst % 2 ^ 64) m v).convs o ssp dsp conv rm src k (off + m) (dst + m) (n - m)

/-- Destination bytes `off` to `off + n - 1` of an element. -/
def Run.piece (r : Run) (o : Op) (ssp dsp conv : Nat) (rm : RndMode) (src off dst n : Nat) : Run :=
  if conv = 0 then r.moves o ssp dsp n (src + off) dst n else r.convs o ssp dsp conv rm src n off dst n

/-! ## Elements (R331 to R334) -/

/-- The spaces, conversion and mode of an operation of the copy engine. -/
structure CopyForm where
  dsp : Nat
  ssp : Nat
  conv : Nat
  rm : RndMode
  e : Nat
  total : Nat
  deriving DecidableEq, Repr

/-- The form of an operation: destination bytes of an element, and of the whole. -/
def OpWork.form (w : OpWork) : CopyForm :=
  match w with
  | .cpy dsp ssp conv _ _ _ len rm sat =>
    let n := len / (convSizes conv).1 * (convSizes conv).2
    { dsp := dsp, ssp := ssp, conv := conv, rm := RndMode.ofCodes rm sat, e := n, total := n }
  | .cpya dsp ssp _ _ _ rm sat d =>
    { dsp := dsp, ssp := ssp, conv := 0, rm := RndMode.ofCodes rm sat, e := (affineOf d).e, total := (affineOf d).total * (affineOf d).e }
  | .cpyg dsp ssp _ _ _ rm sat d =>
    { dsp := dsp, ssp := ssp, conv := 0, rm := RndMode.ofCodes rm sat, e := (gatherEN d).1, total := (gatherEN d).2 * (gatherEN d).1 }
  | .cpys dsp ssp _ _ rm sat d =>
    { dsp := dsp, ssp := ssp, conv := 0, rm := RndMode.ofCodes rm sat, e := (gatherEN d).1, total := (gatherEN d).2 * (gatherEN d).1 }
  | .sbind _ ssp conv _ rm sat d =>
    let e := (affineOf d).e / (convSizes conv).1 * (convSizes conv).2
    { dsp := 4, ssp := ssp, conv := conv, rm := RndMode.ofCodes rm sat, e := e, total := (affineOf d).total * e }
  | _ => { dsp := 0, ssp := 0, conv := 0, rm := {}, e := 1, total := 0 }

/-- An index of a table in a PRIV or CONST page; one that is LIM or above fails the unit with CLASS 9 (R333). -/
def Run.index (r : Run) (o : Op) (d : List Nat) (i : Nat) : Run × Nat :=
  match r.trans o (nth d 2 + 4 * i) .engRead with
  | (r1, none) => (r1, 0)
  | (r1, some (l, pa)) =>
    if l.kind ≠ 1 ∧ l.kind ≠ 2 then (r1.stop (.fail 2 6 (nth d 2 + 4 * i)), 0)
    else if r1.s.fillWaits (r1.cluster o) pa 4 then (r1.stop (.hold (some pa)), 0)
    else if r1.s.isLost pa 4 then (r1.lose o (nth d 2 + 4 * i) pa 4, 0)
    else
      let v := Mem.readN r1.s.mem pa 4
      if bits (nth d 1) 63 32 ≤ v then (r1.stop (.fail 9 0 0), 0) else (r1, v)

/-- The addresses of element `i` at the source and at the destination. -/
def Run.elem (r : Run) (o : Op) (i : Nat) : Run × Nat × Nat :=
  match o.work with
  | .cpy _ _ _ _ dst src _ _ _ => (r, src, dst)
  | .cpya _ _ _ dst src _ _ d =>
    let p := affineOf d
    (r, wrapInt (src + p.offset p.ss i) 64, wrapInt (dst + p.offset p.ds i) 64)
  | .cpyg _ _ _ dst src _ _ d =>
    let q := r.index o d i
    (q.1, src + q.2 * (gatherEN d).1, dst + i * (gatherEN d).1)
  | .cpys _ _ dst src _ _ d =>
    let q := r.index o d i
    (q.1, src + i * (gatherEN d).1, dst + q.2 * (gatherEN d).1)
  | .sbind _ _ _ src _ _ d =>
    let p := affineOf d
    (r, wrapInt (src + p.offset p.ss i) 64, 0)
  | _ => (r, 0, 0)

/-- Destination bytes `pos` to `hi - 1` in the packed order of the elements; bytes that are gathered lie from
`lo` on. The fuel is their number. -/
def Run.pieces (r : Run) (o : Op) (f : CopyForm) (lo hi : Nat) : Nat → Nat → Run
  | 0, _ => r
  | k + 1, pos =>
    if hi ≤ pos ∨ r.st ≠ .ok then r
    else
      let off := pos % f.e
      let n := min (f.e - off) (hi - pos)
      let q := r.elem o (pos / f.e)
      (q.1.piece o f.ssp f.dsp f.conv f.rm q.2.1 off (if f.dsp = 4 then pos - lo else q.2.2 + off) n).pieces o f lo hi k (pos + n)

/-- The destination bytes of unit `u` (Table 13.3). -/
def unitSpan (w : OpWork) (f : CopyForm) (tile u : Nat) : Nat × Nat :=
  let step := match w with
    | .sbind _ _ _ _ _ _ _ => 4032
    | .cpy _ _ _ _ _ _ _ _ _ => if tile = 0 then 4096 else tile
    | _ => if tile = 0 then 4096 / f.e * f.e else tile
  (u * step, min ((u + 1) * step) f.total)

/-- Runs unit `o.units` of an operation, from where an earlier run of it met an ABSENT page (R209). -/
def State.runUnit (s : State) (o : Op) : Run :=
  let f := o.work.form
  let p := unitSpan o.work f (s.pushTile o) o.units
  Run.pieces { s := s, buf := o.got } o f p.1 p.2 (p.2 - p.1) (p.1 + o.written)

end Sys2Proof.Machine
end

