-- ==== Sys2Proof/Machine/Block.lean ====
section
/-! DEFINITION. The cells of a remote copy and the blocks of a collective as one member reads and writes them (R24, R336,
R340 to R344, R454, R455). -/

namespace Sys2Proof.Machine

/-! ## Cells of a remote copy (R336) -/

/-- The gang of an operation's task with its member count. -/
def State.opGang (s : State) (o : Op) : Option (Nat × Nat) :=
  match s.task? o.task with
  | some t => t.gang.map (fun g => (g, ((s.gang? g).map (·.members.length)).getD 0))
  | none => none

/-- The place in a member's view that a GANG address names (R24), or a code of Table 1.6. -/
def State.opGangPlace (s : State) (o : Op) (va : Nat) : Except Nat ToMember :=
  let off := va - ((s.regionOf o.ctx va).map (·.base)).getD 0
  match s.opGang o with
  | none => .error 8
  | some (g, n) =>
    if n ≤ off / 0x800000 then .error 8
    else match gangView off with
      | none => .error 6
      | some (buf, p) => .ok { gang := g, rank := off / 0x800000, buf := buf, off := p }

/-- The home of the cell at a virtual address of the destination, with its size code; a page that is no FILL page of the
cell size, nor a landing region, ends the unit. -/
def Run.cellHome (r : Run) (o : Op) (va cs : Nat) : Run × Option (HomeAt × Nat) :=
  let core := r.s.physOf o.core
  match r.trans o va .latUpdate with
  | (r1, none) => (r1, none)
  | (r1, some (l, pa)) =>
    if l.kind = 6 then
      match r1.s.opGangPlace o va with
      | .error c => (r1.stop (if c = 6 then .fail 2 6 va else .fail 1 c va), none)
      | .ok d => (r1, some (r1.s.memberHome core o.core d.gang d.rank d.buf d.off, Nat.log2 (cs / 8)))
    else if l.ctype ≠ 8 ∨ cellBytes 8 l.csize ≠ cs then (r1.stop (.fail 2 6 va), none)
    else (r1, some (latHome core 8 l.csize pa, l.csize))

/-- One cell of a strip: its bytes are read, from where an earlier run met an ABSENT page (R209), and its home found; the message
that fills it. -/
def Run.cell (r : Run) (o : Op) (ssp src va cs gen : Nat) : Run × Option Msg :=
  let q := Run.moves { r with buf := o.got } o ssp 4 cs (src + o.written) o.written (cs - o.written)
  let v := Mem.readN q.buf 0 cs
  if q.st ≠ .ok then (q, none)
  else match q.cellHome o va cs with
    | (r1, none) => (r1, none)
    | (r1, some (h, sz)) =>
      let w : Who := .op o.core o.slot o.gen o.units
      let m : Member := { who := w, loc := h.loc, va := va, pa := h.pa, v := v }
      (r1, some { src := w, ctx := o.ctx, dest := h.dest, body := .lat { kind := .fill, ty := 8, sz := sz, gen := gen, members := [m] } })

/-- Cells of a remote copy that its units up to the one under way hold. -/
def Op.cellsDue (o : Op) : Nat :=
  match o.work with
  | .cpyr _ _ _ len _ => min (4096 / o.cellSize * (o.units + 1)) (len / o.cellSize)
  | _ => 0

/-! ## The descriptor (Table 13.11) and the layout of buffers (R340, R343) -/

/-- A collective's descriptor. -/
structure CollDesc where
  fmt : Nat
  op : Nat
  root : Nat
  count : Nat
  cntv : Nat
  cap : Nat
  rowb : Nat
  rcv : Nat
  deriving DecidableEq, Repr

/-- The fields of a descriptor's words. -/
def collDesc (d : List Nat) : CollDesc :=
  { fmt := bits (nth d 0) 3 0, op := bits (nth d 0) 7 4, root := bits (nth d 0) 18 8, count := bits (nth d 1) 39 0,
    cntv := bits (nth d 2) 56 0, cap := bits (nth d 3) 63 32, rowb := bits (nth d 3) 31 0, rcv := bits (nth d 4) 56 0 }

/-- Whether a reserved bit of a descriptor is set. -/
def collReserved (d : List Nat) : Bool :=
  decide (2 ^ 19 ≤ nth d 0) || decide (2 ^ 40 ≤ nth d 1) || decide (2 ^ 57 ≤ nth d 2) || decide (2 ^ 57 ≤ nth d 4)
    || (d.drop 5).any (· != 0)

/-- The block-scaled format of FMT. -/
def CollDesc.bfmt (d : CollDesc) : Option BFmt :=
  match d.fmt with
  | 3 => some .b48e4m3
  | 4 => some .b48e5m2
  | 5 => some .b48e2m1
  | 6 => some .b48i8
  | 7 => some .b48i4
  | _ => none

/-- Element bytes of a block. -/
def CollDesc.eb (d : CollDesc) : Nat :=
  match d.bfmt with
  | some f => f.nb
  | none => if d.fmt = 1 then 96 else 192

/-- B: blocks of one rank's buffer. -/
def CollDesc.blocks (d : CollDesc) : Nat := ceilDiv d.count (if d.fmt = 8 then 192 else 48)

/-- Element bytes of one rank's buffer. -/
def CollDesc.total (d : CollDesc) : Nat := if d.fmt = 8 then d.count else d.blocks * d.eb

/-- Where the scale array of a one-rank B48 buffer begins. -/
def CollDesc.scaleAt (d : CollDesc) : Nat := roundUp d.total 64

/-- The distance between segments. -/
def CollDesc.seg (d : CollDesc) : Nat := if d.bfmt.isSome then d.scaleAt + roundUp d.blocks 64 else d.total

/-- Bytes of a buffer of one rank. -/
def CollDesc.one (d : CollDesc) : Nat := if d.bfmt.isSome then d.scaleAt + d.blocks else d.total

/-- Bytes of the send and receive buffers by operation (R343): 0 AR, 1 RS, 2 AG, 3 A2A, 4 BC. -/
def CollDesc.buffers (d : CollDesc) (op n : Nat) : Nat × Nat :=
  match op with
  | 1 => (n * d.seg, d.one)
  | 2 => (d.one, n * d.seg)
  | 3 => (d.one, d.cap * d.rowb)
  | _ => (d.one, d.one)

/-! ## Places -/

/-- The places of block `j` of a segment: offset and bytes. -/
def CollDesc.places (d : CollDesc) (seg j : Nat) : List (Nat × Nat) :=
  (seg + j * d.eb, min d.eb (d.total - j * d.eb)) :: (if d.bfmt.isSome then [(seg + d.scaleAt + j, 1)] else [])

/-- The padding of a segment of a COLL.AG receive buffer, which its last block's unit writes. -/
def CollDesc.padding (d : CollDesc) (seg j : Nat) : List (Nat × Nat) :=
  if d.bfmt.isSome ∧ j + 1 = d.blocks then
    [(seg + d.total, d.scaleAt - d.total), (seg + d.scaleAt + d.blocks, d.seg - d.scaleAt - d.blocks)]
  else []

/-- The places that unit `u` writes in the receive buffer: a block, and then padding. -/
def CollDesc.recvPlaces (d : CollDesc) (op u : Nat) : List (Nat × Nat) :=
  if op = 2 then d.places (u / d.blocks * d.seg) (u % d.blocks) ++ d.padding (u / d.blocks * d.seg) (u % d.blocks)
  else d.places 0 u

/-- The places that a member's unit `u` reads in its send buffer: the blocks that it supplies with this unit. -/
def CollDesc.sendPlaces (d : CollDesc) (op n rank u : Nat) : List (Nat × Nat) :=
  match op with
  | 0 => d.places 0 u
  | 1 => (countFrom 0 n).flatMap (fun r => d.places (r * d.seg) u)
  | 2 => if u / d.blocks = rank then d.places 0 (u % d.blocks) else []
  | _ => if rank = d.root then d.places 0 u else []

/-- The ranks whose blocks of unit `u` a member's result needs. -/
def CollDesc.needs (d : CollDesc) (op n u : Nat) : List Nat :=
  match op with
  | 2 => [u / d.blocks]
  | 4 => [d.root]
  | 3 => if u = 0 then countFrom 0 n else []
  | _ => countFrom 0 n

/-- Units of a collective (Table 13.3): for COLL.AG the blocks of the receive buffer. -/
def CollDesc.units (d : CollDesc) (op n : Nat) : Nat :=
  match op with
  | 2 => n * d.blocks
  | 3 => n + 1
  | _ => d.blocks

/-! ## Reads and writes of a member -/

/-- A list of places of a buffer, each as offset and bytes, from byte `w` of them all on: offset, bytes before it, bytes. -/
def placesFrom (w : Nat) : Nat → List (Nat × Nat) → List (Nat × Nat × Nat)
  | _, [] => []
  | pos, p :: l => (p.1 + min p.2 (w - pos), pos + min p.2 (w - pos), p.2 - min p.2 (w - pos)) :: placesFrom w (pos + p.2) l

/-- The bytes of a list of places. -/
def placesLen (l : List (Nat × Nat)) : Nat := l.foldl (fun a p => a + p.2) 0

/-- Gathers the bytes of a list of places of a buffer, from where an earlier run met an ABSENT page (R209). -/
def Run.gathers (r : Run) (o : Op) (space base : Nat) (l : List (Nat × Nat)) : Run :=
  (placesFrom o.written 0 l).foldl (fun q p => q.moves o space 4 p.2.2 (base + p.1) p.2.1 p.2.2) { r with buf := o.got }

/-- The values of a list of places in what has been gathered of them. -/
def placeValues (buf : List Host.Cell) (l : List (Nat × Nat)) : List Nat :=
  (placesFrom 0 0 l).map (fun p => Mem.readN buf p.2.1 p.2.2)

/-- Writes `n` bytes from `a` on, line by line; the fuel is `n`. -/
def Run.puts (r : Run) (o : Op) (space : Nat) : Nat → Nat → Nat → Nat → Run
  | 0, _, _, _ => r
  | k + 1, a, n, v =>
    if n = 0 ∨ r.st ≠ .ok then r
    else
      let m := min n (64 - a % 64)
      (r.write o space (a % 2 ^ 64) m (v % 2 ^ (8 * m))).puts o space k (a + m) (n - m) (v / 2 ^ (8 * m))

/-- The bytes of a list of places as one number, lowest place first; a place without a value gets zeros. -/
def placesNat : List (Nat × Nat) → List Nat → Nat
  | [], _ => 0
  | p :: l, vs => vs.headD 0 % 2 ^ (8 * p.2) + placesNat l (vs.drop 1) * 2 ^ (8 * p.2)

/-- Writes values at a list of places of a buffer, from byte `w` of them on; places without a value get zeros. -/
def Run.putAll (r : Run) (o : Op) (space base w : Nat) (l : List (Nat × Nat)) (vs : List Nat) : Run :=
  let v := placesNat l vs
  (placesFrom w 0 l).foldl (fun q p => q.puts o space p.2.2 (base + p.1) p.2.2 (v / 2 ^ (8 * p.2.1) % 2 ^ (8 * p.2.2))) r

/-- Moves `n` bytes from a place of one operation's thread to a place of another's; the flag of a fault at the far end
is the second component. -/
def Run.carry (r : Run) (o p : Op) (ssp dsp : Nat) : Nat → Nat → Nat → Nat → Run × Bool
  | 0, _, _, _ => (r, false)
  | k + 1, src, dst, n =>
    if n = 0 then (r, false)
    else
      let m := min n (min (64 - src % 64) (64 - dst % 64))
      let q := r.read o ssp (src % 2 ^ 64) m
      if q.1.st ≠ .ok then (q.1, false)
      else
        let w := q.1.write p dsp (dst % 2 ^ 64) m q.2
        if w.st ≠ .ok then (w, true) else w.carry o p ssp dsp k (src + m) (dst + m) (n - m)

/-! ## An instance among those of its gang -/

/-- An instance under way: its operation, rank and gang size, its descriptor, and all instances of the collective. -/
structure Inst where
  o : Op
  op : Nat
  rsp : Nat
  ssp : Nat
  send : Nat
  recv : Nat
  rm : RndMode
  d : CollDesc
  gang : Nat
  index : Nat
  n : Nat
  rank : Nat
  parts : List CollPart
  deriving DecidableEq, Repr

/-- The rank of an operation's task. -/
def State.opRank (s : State) (o : Op) : Nat := ((s.task? o.task).map (·.rank)).getD 0

/-- The instance of an operation that is a collective. -/
def State.inst? (s : State) (o : Op) : Option Inst :=
  match o.work with
  | .coll op rsp ssp send recv rm sat d g i =>
    (s.gang? g).map (fun x =>
      { o := o, op := op, rsp := rsp, ssp := ssp, send := send, recv := recv, rm := RndMode.ofCodes rm sat, d := collDesc d,
        gang := g, index := i, n := x.members.length, rank := s.opRank o, parts := x.colls.filter (fun c => c.index == i) })
  | _ => none

/-- What every instance must agree in (R341). -/
def OpWork.collKey (w : OpWork) : List Nat :=
  match w with
  | .coll op _ _ _ _ rm sat d _ _ =>
    let c := collDesc d
    [op, c.fmt, c.op, c.root, c.count, c.rowb, c.cap] ++ (if op < 2 then [rm, sat] else [])
  | _ => []

/-- The part of a rank. -/
def Inst.part (i : Inst) (rank : Nat) : Option CollPart := i.parts.find? (fun c => c.rank == rank)

/-- The blocks that a rank has supplied with unit `u`. -/
def Inst.blocksOf (i : Inst) (rank u : Nat) : Option (List Nat) := (i.part rank).bind (fun c => c.blocks[u]?)

/-- Whether two instances that have arrived disagree (R341). -/
def Inst.disagree (i : Inst) : Bool := i.parts.any (fun c => c.key != [] && c.key != i.o.work.collKey)

/-- Whether an instance ended before it started (R454). -/
def Inst.unstarted (i : Inst) : Bool := i.parts.any (fun c => c.fin == some 6)

/-- Whether the unit needs a block that an ended instance does not supply (R455), or an instance ended before it started,
which fails every other one at unit 0 (R454). -/
def Inst.lost (i : Inst) (u : Nat) : Bool :=
  i.unstarted || (i.d.needs i.op i.n u).any (fun r => match i.part r with
    | some c => c.fin.isSome && decide (c.blocks.length ≤ u)
    | none => false)

/-- Whether every block that the unit needs is there. -/
def Inst.complete (i : Inst) (u : Nat) : Bool := (i.d.needs i.op i.n u).all (fun r => (i.blocksOf r u).isSome)

/-- Changes the part of a rank. -/
def State.setPart (s : State) (g i rank : Nat) (f : CollPart → CollPart) : State :=
  let g1 := fun (y : Gang) => { y with colls := updWhere (fun c => c.index == i && c.rank == rank) f y.colls }
  { s with work := { s.work with gangs := updWhere (fun y => y.num == g) g1 s.work.gangs } }

/-- Whether an instance has passed unit `u`, or has ended. -/
def State.passed (s : State) (c : CollPart) (u : Nat) : Bool :=
  c.fin.isSome || (match s.op? c.op.core c.op.slot c.op.gen with
    | some o => decide (u < o.units)
    | none => true)

/-- Whether the unit of a COLL.A2A after unit 0 can go on: its destination has exchanged counts, and before the last one every
other sender has delivered to this member (R344). -/
def State.mayDeliver (s : State) (i : Inst) (c : CollPart) : Bool :=
  s.passed c 0 && (i.o.units != i.n || i.parts.all (fun p => p.rank == i.rank || s.passed p (1 + i.rank)))

/-! ## Supplying the blocks of a unit (R455) -/

/-- The places that a member reads to supply unit `u`: space, base and list. -/
def Inst.supply (i : Inst) (u : Nat) : Nat × Nat × List (Nat × Nat) :=
  if i.op = 3 then (0, i.d.cntv, if u = 0 then (countFrom 0 i.n).map (fun x => (4 * x, 4)) else [])
  else (i.ssp, i.send, i.d.sendPlaces i.op i.n i.rank u)

/-- The places that a member writes when unit `u` completes: space, base and list. -/
def Inst.result (i : Inst) (u : Nat) : Nat × Nat × List (Nat × Nat) :=
  if i.op = 3 then (0, i.d.rcv, if u = 0 then [(0, 4 * i.n)] else [])
  else (i.rsp, i.recv, i.d.recvPlaces i.op u)

/-- Tries the reads and the writes of the member's unit: what it supplies, or how the unit ends. A unit whose receive bytes
are refused supplies nothing. -/
def State.trySupply (s : State) (i : Inst) : Run × List Nat :=
  let a := i.supply i.o.units
  let b := i.result i.o.units
  let w := Run.putAll { s := s } i.o b.1 b.2.1 0 b.2.2 []
  let q := Run.gathers { s := s } i.o a.1 a.2.1 a.2.2
  (if q.st = .ok then { q with st := w.st } else q, placeValues q.buf a.2.2)

/-! ## Whether a unit at a rill core can go on (R202, R203) -/

/-- Whether the unit of a collective's instance can go on: it fails, it can supply its blocks, or those it needs are there. -/
def State.blockGoes (s : State) (i : Inst) : Bool :=
  let u := i.o.units
  (u == 0 && (i.disagree || i.unstarted)) || (match i.blocksOf i.rank u with
    | none => (s.trySupply i).1.st != .stall
    | some _ => i.lost u || (i.complete u && (i.op != 3 || u == 0 || (match i.part (u - 1) with
      | some c => s.mayDeliver i c
      | none => false))))

/-- Whether the unit of a remote copy can go on: no fill of it is without a reply, and its next cell can be sent. -/
def State.cellGoes (s : State) (o : Op) : Bool :=
  o.fills == 0 && (o.cls != 0 || decide (o.cellsDue ≤ o.pushed) || (match o.work with
    | .cpyr ssp dst src _ gen =>
      let cs := o.cellSize
      (Run.cell { s := s } o ssp (src + o.pushed * cs) (dst + o.pushed * cs) cs gen).1.st != .stall
    | _ => true))

end Sys2Proof.Machine
end

