-- ==== Sys2Proof/Machine/Units.lean ====
section
/-! DEFINITION. Engines: which operation runs, and the start, retirement and cancellation of units
(R192 to R194, R201 to R203, R209, R324, R404). -/

namespace Sys2Proof.Machine

/-! ## Physical cores (R401) -/

/-- The record of a physical core: at reset the first 64 of a die are free and the last 4 are spares. -/
def State.physAt (s : State) (n : Nat) : Phys :=
  (s.work.phys.find? (fun p => p.n == n)).getD { n := n, st := if n % 68 < Config.activePerDie then .free else .spare }

/-- Replaces the record of a physical core. -/
def State.setPhys (s : State) (p : Phys) : State :=
  { s with work := { s.work with
      phys := if s.work.phys.any (fun q => q.n == p.n) then updWhere (fun q => q.n == p.n) (fun _ => p) s.work.phys
              else s.work.phys ++ [p] } }

/-- The physical cores of a die, by the die's number over the basin. -/
def diePhys (d : Nat) : List Nat := countFrom (d / 4 * 272 + d % 4 * 68) 68

/-- The physical cores of a package. -/
def pkgPhys (p : Nat) : List Nat := countFrom (p * 272) 272

/-! ## Whether an engine may run (R201, R324, R382, R398, R404) -/

/-- Whether a hart is halted. -/
def Hart.isHalted (h : Hart) : Bool :=
  match h.stat with
  | .halted _ _ => true
  | _ => false

/-- Whether the halt group of an operation's context is stopped where it was issued (R404). -/
def State.opHalted (s : State) (o : Op) : Bool := s.groupStopped o.ctx (physPkg (s.physOf o.core))

/-- Whether an operation's engine may go on with it: its context has not begun to stop and its halt group runs, or it has begun a
unit, which runs to its end (R398, R404); and for the core's own engines the core state is on a core, where a drain lets a unit
that has begun run to its end (Table 15.5). -/
def State.mayRun (s : State) (o : Op) : Bool :=
  let inUnit := o.begun && o.st == .running
  ((!s.isStopping o.ctx && !s.opHalted o) || inUnit)
    && (decide (4 ≤ o.kind) || s.isPlaced o.core || (inUnit && s.isDraining o.core))

/-- Whether two operations are served by one engine (R201): a core's matrix engine, its copy engine, or a rill
core's inbox. -/
def Op.sameEngine (a b : Op) : Bool :=
  engineClass a.kind == engineClass b.kind && (if a.kind ≤ 3 then a.core == b.core else a.node == b.node)

/-- Whether an operation has not started and waits for an earlier one (R201, R324): one of its thread on its engine that
is still queued, or a matrix operation of its thread on its ring that has not ended. -/
def State.waitsTurn (s : State) (o : Op) : Bool :=
  o.st == .queued && s.work.ops.any (fun p => p.hart == o.hart && p.task == o.task && decide (p.order < o.order) &&
    ((p.sameEngine o && p.st == .queued) ||
     (o.kind == 1 && p.kind == 1 && o.work.ring?.isSome && p.work.ring? == o.work.ring? && !p.st.ended)))

/-- Whether an operation can be started or resumed. -/
def State.startable (s : State) (o : Op) : Bool :=
  (o.st == .queued || o.st == .suspended) && o.arrived && o.aft.isEmpty && o.waitVa.isNone && !s.waitsTurn o && s.mayRun o

/-- Whether every member's instance of a collective has arrived, or one has ended without starting (R454), and a remote copy has its
ready message (R337). -/
def State.collReady (s : State) (o : Op) : Bool :=
  match o.work with
  | .coll _ _ _ _ _ _ _ _ g i => match s.gang? g with
    | some x => (countFrom 0 x.members.length).all (fun r => x.colls.any (fun c => c.index == i && c.rank == r))
      || x.colls.any (fun c => c.index == i && c.fin.isSome)
    | none => false
  | .cpyr _ _ _ _ _ => o.dstPa.isSome
  | _ => true

/-- Whether an engine may start or resume an operation. -/
def State.canStart (s : State) (o : Op) : Bool := s.startable o && s.collReady o

/-- Whether an earlier operation that pushes into the same ring has not ended (R61). -/
def State.pushBlocked (s : State) (o : Op) (r : Nat) : Bool :=
  s.work.ops.any (fun p => p.hart == o.hart && p.kind == 2 && p.work.ring? == some r && decide (p.order < o.order)
    && p.arrived && p.st != .queued && !p.st.ended)

/-- Tiles in a ring (R61). -/
def Ring.held (r : Ring) : Nat := (r.tail + 2 ^ 32 - r.head) % 2 ^ 32

/-- The images of unit `u` of a stream of `n`. -/
def streamImages (n u : Nat) : Nat := min 21 (n - 21 * u)

/-- The stream that an operation feeds. -/
def State.streamOf (s : State) (o : Op) : Option Stream :=
  (s.scrOf o).streams.find? (fun b => b.slot == o.slot && b.gen == o.gen)

/-- Whether rings, queues, and for a rill core's operations blocks and replies let the next unit run (R61, R202, R334). -/
def State.unitFits (s : State) (o : Op) : Bool :=
  match o.work with
  | .mxs _ _ _ _ r _ _ _ _ _ _ => decide (0 < (s.ringOf o r).held)
  | .sbind _ _ conv _ _ _ d => match s.streamOf o with
    | some b => decide (b.queue.length + streamImages ((affineOf d).images conv) o.units ≤ 32)
    | none => true
  | .coll _ _ _ _ _ _ _ _ _ _ => match s.inst? o with
    | some i => s.blockGoes i
    | none => true
  | .cpyr _ _ _ _ _ => s.cellGoes o
  | w => match w.ring? with
    | some r =>
      let g := s.ringOf o r
      decide (g.held < g.size / g.tile) && !s.pushBlocked o r
    | none => true

/-- Whether the engine of an operation serves one at a time by itself: all but bank calls, whose rows the bank units serve by
priority (R105). -/
def Op.exclusive (o : Op) : Bool := o.kind != 4

/-- Whether operation `p` goes before `o` on their engine (R202). -/
def Op.before (p o : Op) : Bool := decide (o.prio < p.prio) || (p.prio == o.prio && decide (p.order < o.order))

/-- Whether a running operation is let to run its next unit. -/
def State.goesOn (s : State) (o : Op) : Bool := o.st == .running && o.waitVa.isNone && s.mayRun o

/-- Whether an engine serves `o` next (R202): no operation that can go on runs there with as high a priority, and none that can
start comes before it. -/
def State.isNext (s : State) (o : Op) : Bool :=
  let mine := s.work.ops.filter (fun p => p.sameEngine o && !p.same o && s.unitFits p)
  !mine.any (fun p => (s.goesOn p && decide (o.prio ≤ p.prio)) || (s.canStart p && p.before o))

/-- Whether a running operation runs its next unit (R202): its engine lets it, and at a unit boundary no startable operation of
higher priority waits there, nor does one that goes before it run. -/
def State.keepsTurn (s : State) (o : Op) : Bool :=
  s.goesOn o && s.unitFits o &&
    (o.begun || !(o.exclusive && s.work.ops.any (fun p => p.sameEngine o && !p.same o && s.unitFits p &&
      ((s.canStart p && decide (o.prio < p.prio)) || (s.goesOn p && p.before o)))))

/-- The operations after `o` has started: another that ran on its engine and stands at a unit boundary is suspended (R202). -/
def Op.afterStart (o p : Op) : Op :=
  if p.same o then { p with st := .running }
  else if o.exclusive && p.sameEngine o && p.st == .running && !p.begun then { p with st := .suspended }
  else p

/-! ## The end of a unit -/

/-- An operation fails or is cancelled at its engine. -/
def State.stopOp (s : State) (o : Op) (st : OpState) (cls code addr : Nat) : State :=
  (s.endOp o st cls code addr).failStream o addr

/-- An operation whose unit has retired stands at a unit boundary. -/
def Op.nextUnit (o : Op) : Op := { o with units := o.units + 1, begun := false, written := 0, got := [], bankAt := none }

/-- A unit of an operation of `n` units has retired: the last one leaves the operation done (R198, Table 8.5); a cancel that waited
for the unit's end takes effect (R203); a stopped halt group suspends it (R404). -/
def State.retireOf (s : State) (n : Nat) (o : Op) : State :=
  let o1 := o.nextUnit
  if n ≤ o1.units then (s.setOp o1).endOp o1 .done 0 0 0
  else if o1.cut then (s.setOp o1).stopOp o1 .cancelled 0 0 0
  else s.setOp (if s.opHalted o1 then { o1 with st := .suspended } else o1)

/-- A unit of a core's engine or of a remote copy has retired. -/
def State.retireUnit (s : State) (o : Op) : State := s.retireOf (s.unitsOf { o with units := o.units + 1 }) o

/-- Sends the fault message of a unit, for a page of a task, to the supervising rill core; the operation is suspended within the
unit (R209). -/
def State.unitRepair (s : State) (o : Op) (task va : Nat) (a : Acc) : State :=
  let w : Who := .op o.core o.slot o.gen o.units
  (s.setOp { o with st := .suspended, waitVa := some va, begun := true, bankAt := none }).send
    { src := w, ctx := o.ctx, dest := .node (physRill (s.physOf o.core)), body := .pageFault o.ctx va a w task }

/-- A unit that waits for a HOST page or a growing landing region stands at the access where it waits, and one that a bank holds has
begun if it has written or pushed any byte (R209, R382); a cancel does not wait for the stall to end (R203). -/
def State.stallAt (s : State) (o : Op) (u : UStat) : State :=
  let p := { o with begun := u.isHold && decide (0 < o.written), bankAt := u.bank }
  if o.cut && !p.begun then (s.setOp p).stopOp p .cancelled 0 0 0 else s.setOp p

/-- The state after a unit that fares so. -/
def State.unitDone (s : State) (o : Op) (u : UStat) : State :=
  match u with
  | .ok => s.retireUnit o
  | .stall => s.stallAt o .stall
  | .hold pa => s.stallAt o (.hold pa)
  | .fail cls code addr => s.stopOp o .failed cls code addr
  | .repair va a => s.unitRepair o o.task va a

/-- A unit that has supplied its blocks waits for those of its peers: it has not started, so a cancel takes effect (R203). -/
def State.waitUnit (s : State) (o : Op) : State := if o.cut then s.stopOp o .cancelled 0 0 0 else s

/-- Whether the unit of an operation at a rill core cannot go on for want of a page, a region or a peer. -/
def State.stalled (s : State) (o : Op) : Bool := o.fills == 0 && !s.unitFits o

/-- A cancel that waits for the end of a unit does not wait for a stall within it (R203). -/
def State.cutStall (s : State) (o : Op) : State :=
  if o.cut && s.goesOn o && s.stalled o then s.stopOp o .cancelled 0 0 0 else s

/-! ## Events -/

/-- The operation at a place in the list. -/
def State.opAt (s : State) (i : Nat) : Option Op := s.work.ops[i]?

/-- Whether every member's instance of a collective has arrived, cancelled ones included (R454). -/
def State.collArrived (s : State) (o : Op) : Bool :=
  match o.work with
  | .coll _ _ _ _ _ _ _ _ g i => (s.gang? g).any (fun x =>
      (countFrom 0 x.members.length).all (fun r => x.colls.any (fun c => c.index == i && c.rank == r && c.key != [])))
  | _ => false

/-- OPERATION_START (R202): the engine starts or resumes its best operation; a bank call starts with its first row. -/
def execOperationStart (s : State) : Out :=
  match s.opAt (s.evArg 0) with
  | none => .next s
  | some o =>
    if o.kind ≠ 4 && s.canStart o && (!o.exclusive || (s.unitFits o && s.isNext o)) then
      let ops := s.work.ops.map o.afterStart
      let h0 := fun (p : Op) => if p.same o ∧ o.kind = 1 ∧ o.st = .queued then
        { p with h0 := (o.work.ring?.map (fun r => (s.ringOf o r).head)).getD 0 } else p
      .next { s with work := { s.work with ops := ops.map h0 } }
    else .next s

/-- CANCEL finds an operation that has started (R203): DETREL is set; a unit that has begun runs to its end first, while one at a
unit boundary, in a stall or with its page under repair (Table 8.5) ends at once with its retired units. -/
def State.cancelRunning (s : State) (o : Op) : State :=
  let t := s.setDetrel o.ctx
  if o.begun && o.waitVa.isNone && !s.stalled o then t.setOp { o with cut := true } else t.stopOp o .cancelled 0 0 0

/-- CANCEL takes effect (R203): a queued operation is removed; one that has started is cancelled with its retired units
and sets DETREL, and so does a cancel that finds it done or failed. A collective is queued until every member's
instance has arrived (R454). -/
def State.cancelAt (s : State) (o : Op) : State :=
  match o.st with
  | .queued => if s.collArrived o then s.cancelRunning o else (s.collEnds o 6).stopOp { o with aft := [] } .cancelled 0 0 0
  | .running => s.cancelRunning o
  | .suspended => s.cancelRunning o
  | .done => s.setDetrel o.ctx
  | .failed => s.setDetrel o.ctx
  | .cancelled => s

/-- CANCEL_ARRIVAL (R203): it finds its operation also where EXIT or DETACH has taken it from its slot since. -/
def execCancelArrival (s : State) : Out :=
  s.deliver (s.evArg 0) fun p t => match p.body with
    | .cancel c k g => some (match (t.op? c k g).or (t.work.ops.find? (fun o => o.is c k g)) with
      | some o => t.cancelAt o
      | none => t)
    | _ => none

end Sys2Proof.Machine
end

