-- ==== Sys2Proof/Machine/Matrix.lean ====
section
/-! DEFINITION. The matrix engine: MXS, MXZ and MXE units (R159 to R164, R211, R212, R323, R326, R327). -/

namespace Sys2Proof.Machine

/-! ## Activation blocks (R159, R164) -/

/-- The element format of the activations that an armed format is paired with, by weight code 0 to 6 (Table 13.5). -/
def actBase (fmt afmt : Nat) : Nat :=
  match fmt with
  | 0 => 0
  | 1 => 1
  | 4 => 4
  | 6 => 6
  | 0xA => 4
  | 0xC => 6
  | 5 => 5
  | 7 => 5
  | 0xB => 5
  | 0xD => 5
  | _ => if afmt = 1 then 3 else 2

/-- An activation block: its integers, its exponent, and whether it holds a special value. -/
structure ActBlock where
  q : List Int
  f : Int
  special : Bool
  deriving DecidableEq, Repr

/-- The exponent of a column or block of BF16 or FP16 with the largest biased exponent (R159). -/
def alignExp (fmt : Nat) (emax : Int) : Int := emax - (if fmt = 1 then 38 else 150)

/-- The block of 48 element codes, with its scale for a B48 format (R159). -/
def actBlock (fmt afmt : Nat) (codes : List Nat) (sc : Nat) : ActBlock :=
  let b := actBase fmt afmt
  if b < 2 then
    let c := alignColumn b codes
    { q := c.2, f := alignExp b c.1, special := codes.any (badElem b) }
  else
    let bad := (b == 2 || b == 3) && codes.any (badElem b)
    { q := codes.map (elemInt b), f := elemExp b + (if 8 ≤ fmt then (sc : Int) - 127 else 0),
      special := bad || (decide (8 ≤ fmt) && sc == 255) }

/-- Activation block `b` of a tile at A view offset `off` with KB blocks (R322). -/
def tileBlock (a : List Host.Cell) (fmt afmt off kb b : Nat) : ActBlock :=
  let eb := mxEb fmt
  let codes := unpackCodes (wBits (actBase fmt afmt)) (Mem.readN a (off + b * eb) eb) 48
  actBlock fmt afmt codes (if 8 ≤ fmt then (Mem.read a (off + kb * eb + b)).toNat else 0)

/-! ## Block sums (R160 to R163) -/

/-- S(b) of a column: the exact sum of products. -/
def blockSum (qa : List Int) (rows : List (List Int)) (n : Nat) : Int :=
  (List.zipWith (fun x (r : List Int) => x * r.getD n 0) qa rows).foldl (· + ·) 0

/-- X(b) of R211: the sum of a block's column sums. -/
def ActBlock.checkX (a : ActBlock) (m : Armed) : Int := ((countFrom 0 (mxN m.fmt)).map (blockSum a.q m.q)).foldl (· + ·) 0

/-- Y(b) of R211: the sum of the activations times the checksums. -/
def ActBlock.checkY (a : ActBlock) (m : Armed) : Int := (List.zipWith (· * ·) a.q m.csum).foldl (· + ·) 0

/-- The exponent of column `n` of an armed macro (R159). -/
def Armed.colExp (a : Armed) (n : Nat) : Int :=
  if a.fmt < 2 then alignExp a.fmt (a.col.getD n 0)
  else if 8 ≤ a.fmt then elemExp a.fmt + (a.col.getD n 0 - 127) else elemExp a.fmt

/-- RNE with NOSAT, the mode of the matrix engine (R160). -/
def mxRnd : RndMode := { rm := .rne, sat := .nosat }

/-- One block added to an accumulator (R160 to R162, R164). -/
def accumulate (fmt : Nat) (wrap : Bool) (a : ActBlock) (m : Armed) (n acc : Nat) : Nat :=
  let s := blockSum a.q m.q n
  if mxInt fmt then
    let v := sextNat acc 32 + s
    wrapInt (if wrap then v else max (-(2 ^ 31)) (min (2 ^ 31 - 1) v)) 32
  else
    let r := if a.special then fp32.canonNaN else (fp32.round (FVal.ofInt s (a.f + m.colExp n) false) mxRnd).1
    (f32add acc r mxRnd).1

/-- The columns of an N-group after the KB blocks of a span, from their starting values. -/
def spanColumns (fmt : Nat) (wrap : Bool) (blocks : List (ActBlock × Armed)) (start : List Nat) : List Nat :=
  (List.zip (countFrom 0 start.length) start).map (fun p => blocks.foldl (fun acc b => accumulate fmt wrap b.1 b.2 p.1 acc) p.2)

/-- The blocks of N-group `g` with their macros; a macro that is no longer armed leaves its block out. -/
def Scratch.mxBlocks (c : Scratch) (fmt afmt off kb g tile : Nat) : List (ActBlock × Armed) :=
  (countFrom 0 kb).filterMap (fun b =>
    (c.macroAt (off + (g * kb + b) * 0x6000)).map (fun m => (tileBlock c.a fmt afmt tile kb b, m)))

/-- The scratchpad with the tile at the head of a ring popped (R61). -/
def Scratch.pop (c : Scratch) (r : Nat) : Scratch :=
  let g := (c.rings.toList[r]?).getD {}
  { c with rings := c.rings.setIfInBounds r { g with head := (g.head + 1) % 2 ^ 32 } }

/-- Whether X(b) and Y(b) agree in every block of a unit (R211), with an error added to X of its first block. -/
def Scratch.abftMatch (c : Scratch) (w : OpWork) (u err : Nat) : Bool :=
  match w with
  | .mxs fmt afmt _ _ ring off kb ng _ _ _ =>
    let r := (c.rings.toList[ring]?).getD {}
    let l := c.mxBlocks fmt afmt off kb (u % ng) (r.base + r.head % (r.size / r.tile) * r.tile)
    (List.zip (countFrom 0 l.length) l).all (fun p => p.2.1.checkX p.2.2 + (if p.1 = 0 then (err : Int) else 0) == p.2.1.checkY p.2.2)
  | _ => true

/-- Unit `u` of an MXS (R323): row u / NG of N-group u mod NG; the last group of a row pops its tile. -/
def Scratch.mxsUnit (c : Scratch) (fmt afmt : Nat) (wrap z : Bool) (ring off kb ng cb cs u : Nat) : Scratch :=
  let m := u / ng
  let g := u % ng
  let r := (c.rings.toList[ring]?).getD {}
  let tile := r.base + r.head % (r.size / r.tile) * r.tile
  let n := mxN fmt
  let addr := cb + m * cs + 4 * (g * n)
  let start := if z then List.replicate n 0 else unpackCodes 32 (Mem.readN c.c addr (4 * n)) n
  let res := spanColumns fmt wrap (c.mxBlocks fmt afmt off kb g tile) start
  let d := { c with c := Mem.writeN c.c addr (4 * n) (packCodes 32 res) }
  if g + 1 = ng then d.pop ring else d

/-! ## The epilogue (R327) -/

/-- The exact value of an accumulator word times alpha, with RELU. -/
def mxeValue (relu srci : Bool) (alpha acc : Nat) : FVal :=
  let x := if srci then FVal.int (sextNat acc 32) else fp32.value acc
  let t := (x.mul (fp32.value alpha)).1
  if relu && t.neg && !t.isNaN then .fin false 0 0 else t

/-- The bytes of one 48-column block and its scale byte. -/
def mxeBlock (dfmt : Nat) (r : RndMode) (l : List FVal) : Nat × Nat :=
  let pack := fun (f : Fmt) => (packCodes f.width (l.map (fun x => (f.round x r).1)), 0)
  match dfmt with
  | 0 => pack fp32
  | 1 => pack bf16
  | 2 => pack fp16
  | 3 => pack e4m3
  | 4 => pack e5m2
  | 5 =>
    let q := quantBlock .b48e4m3 (l.map (fun x => fp32.value (fp32.round x r).1)) r
    (packCodes 8 q.2.1, q.1)
  | _ => (packCodes 8 (l.map (fun x => wrapInt (x.toIntClamp (-128) 127 r.rm).1 8)), 0)

/-- Row `m` of an MXE (R327). -/
def Scratch.mxeRow (c : Scratch) (relu srci : Bool) (buf dfmt : Nat) (r : RndMode) (cb cs db ds alpha nb sp m : Nat) : Scratch :=
  (countFrom 0 nb).foldl (fun d j =>
    let acc := unpackCodes 32 (Mem.readN c.c (cb + m * cs + 192 * j) 192) 48
    let b := mxeBlock dfmt r (acc.map (mxeValue relu srci alpha))
    let n := 48 * mxeSize dfmt
    let d1 := d.put buf (db + m * ds + n * j) n b.1
    if dfmt = 5 then d1.put buf (sp + m * nb + j) 1 b.2 else d1) c

/-! ## MATRIX_UNIT -/

/-- The first of a list of view ranges of a unit that can no longer be accessed, a written one if it meets an armed macro, a ring
or a landing region (R200, R329): view, first byte, length, and whether it is written. -/
def Scratch.firstRefused (c : Scratch) : List (Nat × Nat × Nat × Bool) → Option Nat
  | [] => none
  | (buf, lo, n, wr) :: l =>
    if c.inWindows buf lo n && (!wr || c.plain buf lo n) then c.firstRefused l else some lo

/-- Whether the ranges of a matrix unit can still be accessed: an epilogue reads its row of C and writes the row and, for B48, its
scales. -/
def Scratch.mxFault (c : Scratch) (w : OpWork) (u : Nat) : Option Nat :=
  match w with
  | .mxe _ _ dbuf dfmt _ _ cb cs _ db ds _ nb sp =>
    let buf := if dbuf = 1 then 2 else 1
    c.firstRefused ([(2, cb + u * cs, 192 * nb, false), (buf, db + u * ds, 48 * nb * mxeSize dfmt, true)]
      ++ if dfmt = 5 then [(buf, sp + u * nb, nb, true)] else [])
  | .mxs fmt _ _ _ _ _ _ ng _ cb cs =>
    let lo := cb + u / ng * cs + 4 * (u % ng * mxN fmt)
    if c.inWindows 2 lo (4 * mxN fmt) then none else some lo
  | .mxz rw _ cb cs => if c.inWindows 2 (cb + u * cs) (64 * rw) then none else some (cb + u * cs)
  | _ => none

/-- The scratchpad after unit `u` of a matrix operation. -/
def Scratch.matrixUnit (c : Scratch) (w : OpWork) (u : Nat) : Scratch :=
  match w with
  | .mxs fmt afmt wrap z ring off kb ng _ cb cs => c.mxsUnit fmt afmt wrap z ring off kb ng cb cs u
  | .mxz rw _ cb cs => { c with c := Mem.clear c.c (cb + u * cs) (cb + u * cs + 64 * rw) }
  | .mxe relu srci dbuf dfmt rm sat cb cs _ db ds alpha nb sp =>
    c.mxeRow relu srci (if dbuf = 1 then 2 else 1) dfmt (RndMode.ofCodes rm sat) cb cs db ds alpha nb sp u
  | _ => c

/-- Exit from retention of the macros that an operation reads (R55). -/
def Scratch.wake (c : Scratch) (w : OpWork) : Scratch :=
  match w with
  | .mxs _ _ _ _ _ off kb ng _ _ _ =>
    let mine := fun (a : Armed) => decide (off ≤ a.off) && decide (a.off < off + kb * ng * 0x6000)
    { c with armed := updWhere mine (fun a => { a with retained := false }) c.armed }
  | _ => c

/-- An ABFT error that the rerun corrects counts in XFER (R212, Table 17.8). -/
def State.countTransient (s : State) (pkg : Nat) : State :=
  let k := s.pkg pkg
  s.setPkg pkg { k with mgmt := { k.mgmt with xfer := (k.mgmt.xfer + 1) % 2 ^ 32 } }

/-- A lasting fault: the core is to be retired, and its state to be moved (R212, R401). -/
def State.markBad (s : State) (phys : Nat) : State :=
  s.setPhys { s.physAt phys with bad := true }

/-- The physical core that a migration moves to: the lowest spare core of the die, or none (R399, R401). -/
def State.spareOf (s : State) (phys : Nat) : Option Nat :=
  (diePhys (physDie phys)).find? (fun n => (s.physAt n).st == .spare)

/-- A unit meets an uncorrectable error in the scratchpad (D0 = 2) or in a macro (D0 = 3): its context fault, and CLASS 4 (R55,
R210). -/
def State.memoryLoss (s : State) (o : Op) (d0 : Nat) : State := (s.lossFault o 0 d0).stopOp o .failed 4 0 0

/-- A matrix unit with the errors that its run and its rerun add to X of block 0 (R211, R212): a mismatch that the rerun does not
have is counted, and one that it has too retires the core and leaves the unit to run again. -/
def State.runMatrix (s : State) (o : Op) (e0 e1 : Nat) : State :=
  let phys := s.physOf o.core
  let c := (s.scrOf o).wake o.work
  match c.mxFault o.work o.units with
  | some a => s.stopOp o .failed 2 6 a
  | none =>
    let good := c.abftMatch o.work o.units e0
    if good || c.abftMatch o.work o.units e1 then
      ((if good then s else s.countTransient (physPkg phys)).setScrOf o (c.matrixUnit o.work o.units)).retireUnit o
    else (s.markBad phys).due .migration [o.core, (s.spareOf phys).getD phys]

/-- MATRIX_UNIT (R323): operand 0 is the operation, 1 and 2 are the errors of the first run and of its rerun, and 3 names an
uncorrectable error that the unit meets: 1 in the scratchpad, 2 in a macro. -/
def execMatrixUnit (s : State) : Out :=
  match s.opAt (s.evArg 0) with
  | none => .next s
  | some o =>
    if o.kind = 1 ∧ s.keepsTurn o then
      if s.evArg 3 = 0 then .next (s.runMatrix o (s.evArg 1) (s.evArg 2))
      else .next (s.memoryLoss o (if s.evArg 3 = 1 then 2 else 3))
    else .next s

end Sys2Proof.Machine
end

