-- ==== Sys2Proof/Machine/CopyEv.lean ====
section
/-! DEFINITION. The copy engine's strips: copies, gathers, scatters, ring pushes, and streams (R61, R146, R194, R200,
R209, R329 to R334). -/

namespace Sys2Proof.Machine

/-! ## Retirement -/

/-- Pushes a gathered tile (R61). -/
def State.pushRing (s : State) (o : Op) (r : Nat) (buf : List Host.Cell) : State :=
  let c := s.scrOf o
  let g := s.ringOf o r
  let at_ := g.base + g.tail % (g.size / g.tile) * g.tile
  let d := c.put 1 at_ g.tile (Mem.readN buf 0 g.tile)
  s.setScrOf o { d with rings := d.rings.setIfInBounds r { g with tail := (g.tail + 1) % 2 ^ 32 } }

/-- The watermark of an operation's destination after a strip (Table 5.6). -/
def State.moveMark (s : State) (o : Op) : State :=
  let f := o.work.form
  let hi := (unitSpan o.work f 0 o.units).2
  let mark := fun (e : Nat × RangeLock) =>
    if e.2.kslot == o.slot && e.2.kgen == o.gen && e.2.watermark then (e.1, { e.2 with wmark := e.2.start + hi }) else e
  s.mapHarts (fun h => if h.isThread && h.coreSlot.1 == o.core then h.setLocks (h.t.rlt.map mark) else h)

/-- Puts gathered images into the queue of a bound stream register; those of an unbound one are discarded (R334, R335). -/
def State.queueImages (s : State) (o : Op) (n : Nat) (buf : List Host.Cell) : State :=
  let im := (countFrom 0 n).map (fun i => BitVec.ofNat 1536 (Mem.readN buf (192 * i) 192))
  s.updHart o.hart (fun h => h.setScr { h.t.scr with
    streams := updWhere (fun b => b.slot == o.slot && b.gen == o.gen) (fun b => { b with queue := b.queue ++ im }) h.t.scr.streams })

/-- The state after a unit's run; a tile and images count once every byte of them is there, and an ABSENT page or a stall leaves the
place at which the unit goes on (R209). -/
def Run.finish (r : Run) (o : Op) : State :=
  let p := { o with written := o.written + r.count, got := r.buf }
  if r.st ≠ .ok then r.s.unitDone p r.st
  else
    let t := match o.work with
      | .sbind _ _ conv _ _ _ d => r.s.queueImages o (streamImages ((affineOf d).images conv) o.units) r.buf
      | w => match w.ring? with
        | some g => r.s.pushRing o g r.buf
        | none => r.s.moveMark o
    t.retireUnit o

/-- A strip of a core's copy engine: `err` is 1 for an uncorrectable error in the scratchpad (R90, R210). -/
def State.strip (s : State) (i err kind : Nat) : Out :=
  match s.opAt i with
  | none => .next s
  | some o =>
    if o.kind = kind ∧ s.keepsTurn o then
      if err = 1 then .next (s.memoryLoss o 2)
      else .next ((s.runUnit o).finish o)
    else .next s

/-- COPY_STRIP (R331 to R333): operands are the operation and the error. -/
def execCopyStrip (s : State) : Out := s.strip (s.evArg 0) (s.evArg 1) 2

/-- STREAM_STRIP (R334). -/
def execStreamStrip (s : State) : Out := s.strip (s.evArg 0) (s.evArg 1) 3

end Sys2Proof.Machine
end

