-- ==== Sys2Proof/Machine/Remote.lean ====
section
/-! DEFINITION. Remote copies: the rendezvous and the strips of fills (R58, R336, R337). -/

namespace Sys2Proof.Machine

/-! ## The destination (R336) -/

/-- The landing region at a place: of the live member or of what an exited one left; the flag says that the member has
exited. -/
def State.landPlace (s : State) (d : ToMember) : Option Win × Bool :=
  match s.past? d.gang d.rank with
  | some x => (landAt x.wins d.buf d.off, true)
  | none => match s.memberAt d.gang d.rank with
    | some (c, k) => ((s.hart? (.thread c k)).bind (fun h => landAt h.t.scr.wins d.buf d.off), false)
    | none => (none, false)

/-- What the receiving rill core makes of a destination: it waits, it refuses with a class and a code, or it gives the
physical address (for a landing region the view offset) and the cell or tile size. -/
inductive DstRes where
  | wait
  | refuse (cls code : Nat)
  | go (pa cs : Nat)
  deriving DecidableEq, Repr

/-- The alignment and length checks of R336. -/
def dstFits (dst len pa cs : Nat) : DstRes := if dst % cs ≠ 0 ∨ len % cs ≠ 0 then .refuse 9 0 else .go pa cs

/-- A GANG destination: it waits for its region, and fills to a member that has exited without one are refused with
write-after-freeze (R58). -/
def State.judgeGangDst (s : State) (o : Op) (dst len : Nat) : DstRes :=
  match s.opGangPlace o dst with
  | .error c => if c = 6 then .refuse 2 6 else .refuse 1 c
  | .ok d => match s.landPlace d with
    | (some w, _) => dstFits dst len d.off w.tile
    | (none, true) => .refuse 3 1
    | (none, false) => .wait

/-- Judges the destination of a remote copy at the receiving rill core: the translation repairs an ABSENT page
itself (R31, R337). -/
def State.judgeDst (s : State) (o : Op) (dst len : Nat) : State × DstRes :=
  let core := s.physOf o.core
  let r := s.translate none (physDie core) o.ctx o.task dst .latUpdate
  match r.2 with
  | .wait => (r.1, .wait)
  | .lost e => (r.1.lossFault o dst (r.1.lossD0 e 16), .refuse 4 0)
  | .fault 1 => match r.1.regionOf o.ctx dst with
    | none => (r.1, .refuse 1 3)
    | some g =>
      if g.kind = 4 then (r.1, .wait)
      else match r.1.createPage o.ctx g dst o.task (physPkg core) (physStack core) with
        | none => (r.1, .wait)
        | some t =>
          match (t.translate none (physDie core) o.ctx o.task dst .latUpdate).2 with
          | .ok l pa => if l.kind = 6 then (t, t.judgeGangDst o dst len)
            else if l.ctype ≠ 8 then (t, .refuse 2 6) else (t, dstFits dst len pa (cellBytes 8 l.csize))
          | .lost e => (t.lossFault o dst (t.lossD0 e 16), .refuse 4 0)
          | .fault c => (t, if c = 6 ∨ c = 7 then .refuse 2 c else .refuse 1 c)
          | .wait => (t, .wait)
  | .fault c => (r.1, if c = 6 ∨ c = 7 then .refuse 2 c else .refuse 1 c)
  | .ok l pa => if l.kind = 6 then (r.1, r.1.judgeGangDst o dst len)
    else if l.ctype ≠ 8 then (r.1, .refuse 2 6) else (r.1, dstFits dst len pa (cellBytes 8 l.csize))

/-- The issuing core's cluster rill core sends the request to the rill core of the destination; before the page exists
it takes the request itself (R337, R31). -/
def State.sendRequest (s : State) (o : Op) : State :=
  s.send { src := .rill o.node, ctx := o.ctx, dest := .node ((s.receiver o).getD o.node), body := .cpyrRequest o.core o.slot o.gen }

/-- The answer of the receiving rill core. -/
def State.sendReady (s : State) (o : Op) (node : Nat) (pa : Option Nat) (cls code : Nat) : State :=
  s.send { src := .rill node, ctx := o.ctx, dest := .core o.core, body := .ready o.core o.slot o.gen pa cls code }

/-- CPYR_REQUEST (R337): operand 0 is the message; one whose destination waits stays. -/
def execCpyrRequest (s : State) : Out :=
  s.deliver (s.evArg 0) fun p t => match p.body with
    | .cpyrRequest c k g => match t.op? c k g with
      | none => some t
      | some o => match o.work with
        | .cpyr _ dst _ len _ =>
          let r := t.judgeDst o dst len
          match r.2 with
          | .wait => none
          | .refuse cls code => some (r.1.sendReady o p.dest.nodeOf none cls code)
          | .go pa cs => some ((r.1.setOp { o with h0 := cs }).sendReady o p.dest.nodeOf (some pa) 0 0)
        | _ => some t
    | _ => none

/-- READY_TO_RECEIVE (R337): the copy may start, or its unit 0 fails. -/
def execReadyToReceive (s : State) : Out :=
  s.deliver (s.evArg 0) fun p t => match p.body with
    | .ready c k g pa cls code => match t.op? c k g with
      | none => some t
      | some o =>
        if o.st.ended then some t
        else if cls ≠ 0 then
          let dst := match o.work with
            | .cpyr _ d _ _ _ => d
            | _ => 0
          some (t.stopOp o .failed cls code dst)
        else some (t.setOp { o with dstPa := pa })
    | _ => none

/-! ## Strips -/

/-- Sends the fill of the next cell; the cells of a unit are filled in ascending order, each after the reply of the one below
it, so that a refused fill leaves those above it as they are (R336). -/
def State.sendCell (s : State) (o : Op) : State :=
  match o.work with
  | .cpyr ssp dst src _ gen =>
    let cs := o.cellSize
    let q := Run.cell { s := s } o ssp (src + o.pushed * cs) (dst + o.pushed * cs) cs gen
    match q.2, q.1.st with
    | some m, _ => (q.1.s.send m).setOp { o with pushed := o.pushed + 1, fills := 1, begun := true, written := 0, got := [], bankAt := none }
    | none, u => q.1.s.unitDone { o with written := o.written + q.1.count, got := q.1.buf } u
  | _ => s

/-- REMOTE_COPY_STRIP (R336): the next fill of a unit is sent; once each has its reply the unit retires, or fails. -/
def execRemoteCopyStrip (s : State) : Out :=
  match s.opAt (s.evArg 0) with
  | none => .next s
  | some o =>
    if o.kind = 6 ∧ o.fills = 0 ∧ s.keepsTurn o then
      if s.evArg 1 = 1 then .next (s.memoryLoss o 2)
      else if o.cls ≠ 0 then .next (s.stopOp o .failed o.cls o.code o.addr)
      else if o.cellsDue ≤ o.pushed then .next (s.retireUnit o)
      else .next (s.sendCell o)
    else .next (s.cutStall o)

end Sys2Proof.Machine
end

