-- ==== Sys2Proof/Machine/Coll.lean ====
section
/-! DEFINITION. Collectives: issue, the blocks, the reduction tree, and the units (R340 to R344, R454, R455). -/

namespace Sys2Proof.Machine

/-- The descriptor checks (R340). -/
def collBad (op n : Nat) (w : List Nat) : Bool :=
  let d := collDesc w
  collReserved w || decide (8 < d.fmt) || (d.fmt == 8 && decide (op < 2)) || decide (2 < d.op)
    || (d.op != 0 && (d.bfmt.isSome || decide (2 ≤ op))) || d.count == 0 || (d.fmt != 8 && d.count % 48 != 0)
    || (if op = 4 then decide (n ≤ d.root) else d.root != 0)
    || (if op = 3 then d.cntv == 0 || d.rcv == 0 || d.rowb == 0
        else d.cntv != 0 || d.cap != 0 || d.rowb != 0 || d.rcv != 0)

/-! ## Issue -/

/-- The members of the issuing thread's gang. -/
def State.gangSize (s : State) : Nat :=
  match s.h.task.gang with
  | some g => ((s.gang? g).map (·.members.length)).getD 0
  | none => 0

/-- The first operand of a collective in W that meets an armed macro, which is no plain W (R340). -/
def Scratch.notPlainW (c : Scratch) (l : List Opnd) : Option Nat := (l.find? (fun o => o.space == 1 && c.onArmed 0 o.lo o.n)).map (·.lo)

/-- The end of order 7 for a collective. -/
def State.plainW (s : State) (l : List Opnd) (k : Out) : Out :=
  match s.h.t.scr.notPlainW l with
  | some a => .next (s.scratchTrap a)
  | none => k

/-- A collective instruction (R340, R319). -/
def State.coll (s : State) (op : Nat) (w : Fin 4) (rnd : Option Rnd) (aft : After) (rsp ssp : Fin 8) (k : Fin 16)
    (a b c : Fin 32) : Out :=
  let va := (s.x c).toNat
  let dst := (s.x a).toNat
  let src := (s.x b).toNat
  let r := s.rnd rnd
  if badPri aft || decide (3 < rsp.val) || decide (3 < ssp.val) then .next s.illegal
  else match s.h.task.gang with
    | none => .next s.badOperand
    | some g =>
      if s.onSealedPath s.h.task.ctx then .next (s.takeTrap { cause := 9, addr := s.word0, detail := 6 })
      else s.canonical ({ space := 0, lo := va, n := 64, wr := false } :: firstBytes rsp.val dst ssp.val src) <|
          s.readDesc va fun words t =>
            let d := collDesc words
            let n := t.gangSize
            let z := d.buffers op n
            let so : Opnd := { space := ssp.val, lo := src, n := z.1, wr := false }
            let ro : Opnd := { space := rsp.val, lo := dst, n := z.2, wr := true }
            let cv : Opnd := { space := 0, lo := d.cntv, n := if op = 3 then 4 * n else 0, wr := false }
            let rv : Opnd := { space := 0, lo := d.rcv, n := if op = 3 then 4 * n else 0, wr := true }
            if collBad op n words then .next t.badOperand
            else t.canonical [ro, so, cv, rv] <| t.inViews [so, ro] <| t.plainW [so, ro] <|
              t.issue
                { w := w, aft := aft, k := k, kind := 5, dest := .node (physRill t.phys), node := physRill t.phys,
                  rngs := [cv, so, ro, rv].map (fun o => ⟨o.space, o.lo, o.lo + o.n, o.wr, false⟩),
                  work := .coll op rsp.val ssp.val src dst r.rm.code r.sat.code words g t.h.task.colls }

/-- COLL.AR (R340, R343). -/
def execCollAr (w : Fin 4) (rnd : Option Rnd) (aft : After) (rsp ssp : Fin 8) (k : Fin 16) (a b c : Fin 32) (s : State) :
    Out := s.coll 0 w rnd aft rsp ssp k a b c

/-- COLL.RS (R340, R343). -/
def execCollRs (w : Fin 4) (rnd : Option Rnd) (aft : After) (rsp ssp : Fin 8) (k : Fin 16) (a b c : Fin 32) (s : State) :
    Out := s.coll 1 w rnd aft rsp ssp k a b c

/-- COLL.AG (R340, R343). -/
def execCollAg (w : Fin 4) (aft : After) (rsp ssp : Fin 8) (k : Fin 16) (a b c : Fin 32) (s : State) : Out :=
  s.coll 2 w none aft rsp ssp k a b c

/-- COLL.A2A (R340, R344). -/
def execCollA2a (w : Fin 4) (aft : After) (rsp ssp : Fin 8) (k : Fin 16) (a b c : Fin 32) (s : State) : Out :=
  s.coll 3 w none aft rsp ssp k a b c

/-- COLL.BC (R340, R343). -/
def execCollBc (w : Fin 4) (aft : After) (rsp ssp : Fin 8) (k : Fin 16) (a b c : Fin 32) (s : State) : Out :=
  s.coll 4 w none aft rsp ssp k a b c

/-! ## The combine operations and the tree (R342) -/

/-- The pieces of a supplied block: its element bytes, and for B48 its scale byte. -/
abbrev Block := List Nat

/-- A block as values to combine: lanes widened to FP32 for the float formats, I32 lanes, or a B48 block itself. -/
def CollDesc.leaf (d : CollDesc) (b : Block) : List Nat :=
  match d.fmt with
  | 0 => unpackCodes 32 (nth b 0) 48
  | 1 => (unpackCodes 16 (nth b 0) 48).map (fun x => x * 2 ^ 16)
  | 2 => unpackCodes 32 (nth b 0) 48
  | _ => b

/-- The larger or the smaller of two I32 lanes. -/
def i32minmax (mx : Bool) (x y : Nat) : Nat :=
  if (sextNat x 32 < sextNat y 32) = mx then y else x

/-- The values of a B48 block. -/
def blockValues (f : BFmt) (b : Block) : List FVal := (unpackCodes f.ebits (nth b 0) 48).map (f.blockValue (nth b 1))

/-- combine(v, w) of Table R342. -/
def CollDesc.combine (d : CollDesc) (r : RndMode) (v w : List Nat) : List Nat :=
  match d.bfmt with
  | some f =>
    let q := quantBlock f (addLanes r.rm (blockValues f v) (blockValues f w)) r
    [packCodes f.ebits q.2.1, q.1]
  | none => List.zipWith (fun x y =>
      match d.fmt, d.op with
      | 2, 0 => (x + y) % 2 ^ 32
      | 2, o => i32minmax (o == 1) x y
      | _, 0 => (f32add x y r).1
      | _, o => (f32minmax (o == 1) x y).1) v w

/-- The result of the tree as a block: the root rounds BF16 sums once, and narrows BF16 maxima and minima exactly. -/
def CollDesc.result (d : CollDesc) (r : RndMode) (v : List Nat) : Block :=
  match d.fmt with
  | 0 => [packCodes 32 v]
  | 1 => [packCodes 16 (v.map (fun x => if d.op = 0 then (bf16.round (fp32.value x) r).1 else x / 2 ^ 16))]
  | 2 => [packCodes 32 v]
  | _ => v

/-- value(p) of R342: the own value, then every child's in ascending order; the fuel bounds the depth. -/
def treeValue (leaf : Nat → List Nat) (comb : List Nat → List Nat → List Nat) (n : Nat) : Nat → Nat → List Nat
  | 0, p => leaf p
  | k + 1, p =>
    (countFrom (4 * p + 1) 4).foldl (fun v c => if c < n then comb v (treeValue leaf comb n k c) else v) (leaf p)

/-- The reduction of the blocks of `n` ranks by the tree rooted at `rho`. -/
def CollDesc.reduce (d : CollDesc) (r : RndMode) (n rho : Nat) (own : Nat → Block) : Block :=
  d.result r (treeValue (fun p => d.leaf (own ((p + rho) % n))) (d.combine r) n n 0)

/-- An arrived instance takes its place among the gang's (R454). -/
def State.collArrive (s : State) (o : Op) : State :=
  match o.work with
  | .coll _ _ _ _ _ _ _ _ g i =>
    let c : CollPart := { index := i, rank := s.opRank o, key := o.work.collKey, op := o }
    { s with work := { s.work with gangs := updWhere (fun y => y.num == g) (fun y => { y with colls := y.colls ++ [c] }) s.work.gangs } }
  | _ => s

/-- A unit of a collective has retired. -/
def State.retireColl (s : State) (i : Inst) : State := s.retireOf (i.d.units i.op i.n) i.o

/-! ## Completing a unit (R342 to R344) -/

/-- Block `b` of a rank's supply. -/
def CollDesc.pick (d : CollDesc) (l : List Nat) (b : Nat) : Block := if d.bfmt.isSome then (l.drop (2 * b)).take 2 else (l.drop b).take 1

/-- The block that unit `u` writes at the member (R343). -/
def Inst.resultBlock (i : Inst) (u : Nat) : Block :=
  let own := fun (b r : Nat) => i.d.pick ((i.blocksOf r u).getD []) b
  match i.op with
  | 0 => i.d.reduce i.rm i.n (u % i.n) (own 0)
  | 1 => i.d.reduce i.rm i.n i.rank (own i.rank)
  | 2 => own 0 (u / i.d.blocks)
  | _ => own 0 i.d.root

/-- The counts c[s][d] of R344. -/
def Inst.countOf (i : Inst) (src dst : Nat) : Nat := nth ((i.blocksOf src 0).getD []) dst

/-- off(s, d) of R344. -/
def Inst.off (i : Inst) (src dst : Nat) : Nat := (countFrom 0 src).foldl (fun a r => a + i.countOf r dst) 0

/-- The lowest destination at which a sender's rows do not fit. -/
def Inst.misfit (i : Inst) (src : Nat) : Option Nat :=
  (countFrom 0 i.n).find? (fun d => decide (i.d.cap < i.off src d + i.countOf src d))

/-- The capacity context fault (Table 16.4). -/
def State.raiseCapacity (s : State) (i : Inst) (d : Nat) : State :=
  s.raise i.o.ctx (faultRec 3 (physPkg (s.physOf i.o.core)) (((s.task? i.o.task).map (·.name)).getD 0) 0 0 0 0
    (i.rank + d * 2 ^ 16) 0 0) false

/-- Writes what unit `u` of a member writes when it completes, from where an earlier run met an ABSENT page (R209), and goes on
from there. -/
def State.putResult (s : State) (i : Inst) (vs : List Nat) (k : State → State) : State :=
  let b := i.result i.o.units
  let w := Run.putAll { s := s } i.o b.1 b.2.1 i.o.written b.2.2 vs
  if w.st = .ok then k w.s else w.s.unitDone { i.o with written := i.o.written + w.count } w.st

/-- Unit 0 of COLL.A2A: the received counts begin at zero, and a sender whose rows do not fit fails. -/
def State.exchange (s : State) (i : Inst) : State :=
  s.putResult i [] fun t => match i.misfit i.rank with
    | some d => (t.raiseCapacity i d).stopOp i.o .failed 5 0 0
    | none => t.retireColl i

/-- The receive buffer of an instance: its space and address, and the address of its received counts. -/
def OpWork.recvOf (w : OpWork) : Nat × Nat × Nat :=
  match w with
  | .coll _ rsp _ _ recv _ _ d _ _ => (rsp, recv, (collDesc d).rcv)
  | _ => (0, 0, 0)

/-- Unit 1 + d of COLL.A2A: the rows go to their places at `d`, and then its count for this sender; rows for a member
that has exited are dropped. -/
def State.deliverRows (s : State) (i : Inst) (d : Nat) (c : CollPart) : State :=
  let before := (countFrom 0 d).foldl (fun a x => a + i.countOf i.rank x) 0
  let z := c.op.work.recvOf
  let len := i.countOf i.rank d * i.d.rowb
  let w := min i.o.written len
  if s.gone c.op.hart then s.retireColl i
  else
    let q := Run.carry { s := s } i.o c.op i.ssp z.1 len (i.send + before * i.d.rowb + w) (z.2.1 + i.off i.rank d * i.d.rowb + w) (len - w)
    let far := if q.1.st = .ok then (q.1.puts c.op 0 4 (z.2.2 + 4 * i.rank) 4 (i.countOf i.rank d), true) else q
    let o := { i.o with written := w + min far.1.count (len - w) }
    match far.1.st, far.2 with
    | .ok, _ => far.1.s.retireColl i
    | .repair va a, true => far.1.s.unitRepair o c.op.task va a
    | st, _ => far.1.s.unitDone o st

/-- The unit of a COLL.A2A after unit 0: it waits until its destination has exchanged counts, and the last one until every
other sender has delivered to this member. -/
def State.deliverUnit (s : State) (i : Inst) : State :=
  let d := i.o.units - 1
  match i.part d with
  | none => s
  | some c => if s.mayDeliver i c then s.deliverRows i d c else s.waitUnit i.o

/-- The unit once its blocks are there: the result is written at this member. -/
def State.completeUnit (s : State) (i : Inst) : State :=
  let u := i.o.units
  if i.op = 3 then (if u = 0 then s.exchange i else s.deliverUnit i)
  else s.putResult i (i.resultBlock u) fun t => t.retireColl i

/-- The rest of a unit: it fails for want of a block, completes, or waits (R454, R455). -/
def State.finishUnit (s : State) (i : Inst) : State :=
  if i.lost i.o.units then s.stopOp i.o .failed 9 0 0
  else if i.complete i.o.units then s.completeUnit i
  else s.waitUnit i.o

/-- One step of an instance: instances that disagree, or of which one has not started, fail at unit 0; its blocks of the unit are supplied once, and the
unit completes when it can. -/
def State.collUnit (s : State) (i : Inst) : State :=
  let u := i.o.units
  if u = 0 ∧ (i.disagree || i.unstarted) then s.stopOp i.o .failed 9 0 0
  else match i.blocksOf i.rank u with
    | some _ => s.finishUnit i
    | none =>
      let q := s.trySupply i
      if q.1.st ≠ .ok then q.1.s.unitDone { i.o with written := i.o.written + q.1.count, got := q.1.buf } q.1.st
      else
        let o := { i.o with begun := false, written := 0, got := [], bankAt := none }
        let t := (q.1.s.setOp o).setPart i.gang i.index i.rank (fun c => { c with blocks := c.blocks ++ [q.2] })
        match t.inst? o with
        | some j => t.finishUnit j
        | none => t

/-- Whether a member's send or receive buffer lies in a view, where a unit can meet an uncorrectable error in the scratchpad. -/
def Inst.onView (i : Inst) : Bool := i.ssp != 0 || i.rsp != 0

/-- COLLECTIVE_BLOCK (R342 to R344): operand 0 is the operation, and operand 1 is 1 for an uncorrectable error in the scratchpad
(R210). -/
def execCollectiveBlock (s : State) : Out :=
  match s.opAt (s.evArg 0) with
  | none => .next s
  | some o => match s.inst? o with
    | none => .next s
    | some i =>
      if s.keepsTurn o then .next (if s.evArg 1 = 1 ∧ i.onView then s.memoryLoss o 2 else s.collUnit i)
      else .next (s.cutStall o)

end Sys2Proof.Machine
end

