-- ==== Sys2Proof/Machine/Bank.lean ====
section
/-! DEFINITION. Bank calls and bank units: issue, the maintenance check, micro-programs, standard entries, phases,
refresh management, channel modes, and the control store (R102 to R111, R338, R339, R363 to R367, R444). -/

namespace Sys2Proof.Machine

/-! ## Range descriptors (Table 13.9) -/

/-- The first `n` descriptors of a block. -/
def bankRanges (l : List Nat) (n : Nat) : List BankRange := (countFrom 0 n).map (fun k => bankRange (nth l (2 * k)) (nth l (2 * k + 1)))

/-- Whether a reserved field of a descriptor is set. -/
def bankReserved (w0 w1 : Nat) : Bool := bits w0 62 57 != 0 || decide (2 ^ 48 ≤ w1)

/-- Whether two of a list of ranges overlap. -/
def rangesOverlap : List BankRange → Bool
  | [] => false
  | r :: l => l.any (fun q => overlaps r.va (r.va + r.len) q.va (q.va + q.len)) || rangesOverlap l

/-- The operand limits that judge the range block (R338, R366). -/
def bankBad (e : BankEntry) (n : Nat) (l : List Nat) : Bool :=
  let rs := bankRanges l n
  (l.drop (2 * n)).any (· != 0) || (countFrom 0 n).any (fun k => bankReserved (nth l (2 * k)) (nth l (2 * k + 1)))
    || rs.any (fun r => r.len == 0 || r.len != (rs.headD (bankRange 0 0)).len) || rangesOverlap rs
    || (countFrom 0 n).any (fun k => e.dirreq.testBit k && (rs.getD k (bankRange 0 0)).dir == 0)

/-- A range as an operation holds it. -/
def BankRange.pack (r : BankRange) : Nat × Nat × Nat × Nat × List Nat := (r.dir, r.va, r.gen, r.len, r.rows)

/-! ## The maintenance check (R339) -/

/-- Where a line stands in program order: 0 without a touch since its last maintenance and fence, 1 touched, 2
maintained and not yet fenced; and the operations that write it and whose tokens the thread has not released. -/
abbrev LineMark := Nat × List (Nat × Nat)

/-- Whether a byte range meets the line at `a`. -/
def onLine (a lo hi : Nat) : Bool := overlaps a (a + 64) lo hi

/-- One step of the thread's program order, for a line of a range with DIR = `dir`. CLEANR and INVALR cover every line that
their range meets (R265). -/
def LineMark.step (dir a : Nat) (m : LineMark) (h : Hist) : LineMark :=
  match h with
  | .load lo hi => if dir = 1 ∧ onLine a lo hi then (1, m.2) else m
  | .store lo hi => if onLine a lo hi then (1, m.2) else m
  | .opIssued k g lo hi => if onLine a lo hi then (m.1, (k, g) :: m.2) else m
  | .opReleased k g => if m.2.contains (k, g) then (1, m.2.filter (· != (k, g))) else m
  | .cleanr lo hi => if dir = 0 ∧ m.1 = 1 ∧ onLine a lo hi then (2, m.2) else m
  | .invalr lo hi => if m.1 = 1 ∧ onLine a lo hi then (2, m.2) else m
  | .fenceM => if m.1 = 2 then (0, m.2) else m

/-- Whether a line fails the check. -/
def lineFails (dir a : Nat) (l : List Hist) : Bool :=
  let m := l.foldl (LineMark.step dir a) (0, [])
  m.1 != 0 || !m.2.isEmpty

/-- The first failing line of a list of ranges, in descriptor order: its address and the descriptor index. -/
def State.unmaintained (s : State) : Nat → List BankRange → Option (Nat × Nat)
  | _, [] => none
  | k, r :: l =>
    match ((countFrom 0 (r.len / 64)).map (fun i => r.va + 64 * i)).find?
        (fun a => s.onPriv a (a + 64) && lineFails r.dir a s.h.t.hist) with
    | some a => some (a, k)
    | none => s.unmaintained (k + 1) l

/-! ## Bank units and their places (R105) -/

/-- A channel's mode register. -/
def State.chan (s : State) (ch : Nat) : Channel := assocGet {} ch s.dev.chans

/-- Replaces a channel's mode register. -/
def State.setChan (s : State) (ch : Nat) (c : Channel) : State :=
  { s with dev := { s.dev with chans := assocSet ch c s.dev.chans } }

/-- The base-die rill core whose inbox takes a bank call: that of its first row (Table 8.1). -/
def OpWork.bankNode (w : OpWork) : Nat := buNode (w.rowBu 0)

/-- The entry table that BANKCALL is judged by: that of the first bank unit of the package (log 81). -/
def State.entryTable (s : State) (pkg : Nat) : Vector BankEntry 16 := (s.bank (pkg * 8192)).entries

/-! ## Issue (R338) -/

/-- The first byte of the page that holds an address. -/
def State.pageBase (s : State) (va : Nat) : Nat :=
  match s.walk s.h.task.ctx va with
  | .ok l => l.va
  | .error _ => va

/-- What a fault of step 6 raises: a page of another kind is named by its first byte. -/
def bankFault (va c : Nat) (s : State) : Out := trapOn (if c = 6 then s.pageBase va else va) c s

/-- Translates `n` rows from `va` on. -/
def State.bankRows (s : State) (dir va : Nat) : Nat → List Nat → (List Nat → State → Out) → Out
  | 0, acc, k => k acc s
  | n + 1, acc, k =>
    s.access va (if dir = 1 then .engWrite else .engRead) (bankFault va) fun l pa t =>
      if dir = 1 ∧ l.kind ≠ 1 then bankFault va 6 t
      else t.bankRows dir (va + 1024) n (acc ++ [pa]) k

/-- Translates the rows of every range in turn (order 6). -/
def State.bankAll (s : State) : List BankRange → List BankRange → (List BankRange → State → Out) → Out
  | [], acc, k => k acc s
  | r :: l, acc, k => s.bankRows r.dir r.va (r.len / 1024) [] fun rows t => t.bankAll l (acc ++ [{ r with rows := rows }]) k

/-- The operands of a bank call as virtual ranges. -/
def BankRange.opnd (r : BankRange) : Opnd := { space := 0, lo := r.va, n := r.len, wr := r.dir == 1 }

/-- BANKCALL (R338, R366): `nr` is NR - 1. -/
def execBankcall (w : Fin 4) (aft : After) (nr : Fin 4) (entry k : Fin 16) (a b : Fin 32) (s : State) : Out :=
  let xa := (s.x a).toNat
  let xb := (s.x b).toNat
  let n := nr.val + 1
  let e := (s.entryTable (physPkg s.phys)).getD entry.val {}
  let blk := fun (va : Nat) => ({ space := 0, lo := va, n := 64, wr := false } : Opnd)
  if badPri aft then .next s.illegal
  else if !e.v || !e.nrmask.testBit nr.val then .next s.badOperand
  else s.aligned [(xa, 64), (xb, 64)] <| s.canonical [blk xa, blk xb] <|
    s.readBlock xa fun args t => t.readBlock xb fun words u =>
      let rs := bankRanges words n
      if bankBad e n words then .next u.badOperand
      else u.aligned (rs.flatMap (fun r => [(r.va, 1024), (r.len, 1024)])) <| u.canonical (rs.map (·.opnd)) <|
        u.bankAll rs [] fun rr v =>
          match v.unmaintained 0 rr with
          | some (va, i) => .next (v.takeTrap { cause := 0x14, addr := va, detail := i })
          | none =>
            let work : OpWork := .bankcall entry.val n args (rr.map (·.pack))
            v.issue
              { w := w, aft := aft, k := k, kind := 4, dest := .node work.bankNode, node := work.bankNode,
                rngs := rr.map (fun r => ⟨0, r.va, r.va + r.len, r.dir == 1, false⟩), work := work }

/-! ## Rows of a call (R105) -/

/-- Whether a physical address lies in a LAT page. -/
def State.onLat (s : State) (pa : Nat) : Bool := (s.frameOf pa).any (fun f => f.kind == 3)

/-- Row `u` of a bank call as a unit of the command queue (R365). -/
def State.rowUnit (s : State) (o : Op) (u : Nat) : BqUnit :=
  let bu := o.work.rowBu u
  let rs := o.work.ranges
  let e := match o.work with
    | .bankcall e _ _ _ => e
    | _ => 0
  let args := match o.work with
    | .bankcall _ _ a _ => a
    | _ => []
  { first := (countFrom 0 u).all (fun v => o.work.rowBu v != bu), entry := e, prio := o.prio, ch := bu / 16 % 8, bank := bu % 16,
    call := 0, row := u, ag := padTo 4 (rs.map (fun r => nth r.rows u)), args := args, lc0 := 16, lc1 := 0,
    gens := rs.map (fun r => if s.onLat (nth r.rows u) then some r.gen else none), op := some (o.core, o.slot, o.gen) }

/-! ## Splitting a call (R105) -/

/-- Sends a bank call to the base-die rill cores that own its rows. -/
def State.sendBankcall (s : State) (o : Op) : State :=
  let nodes := ((countFrom 0 o.work.bankRowCount).map (fun u => buNode (o.work.rowBu u))).dedup
  nodes.foldl (fun t n => t.send { src := .rill o.node, ctx := o.ctx, dest := .node n, body := .bankcall o.core o.slot o.gen }) s

/-- Changes the command queue of a rill core. -/
def State.setBq (s : State) (node : Nat) (l : List BqUnit) : State :=
  s.updHart (.rill node) (fun h => { h with r := { h.r with bq := l } })

/-- The command queue of a rill core. -/
def State.bqOf (s : State) (node : Nat) : List BqUnit := ((s.hart? (.rill node)).map (·.r.bq)).getD []

/-- Takes message `i` of a context out of the network. -/
def State.dropMsg (s : State) (i ctx : Nat) : State :=
  ({ s with lat := { s.lat with net := s.lat.net.eraseIdx i } } : State).gotMsg ctx

/-- Whether a queued unit still counts: one of a bank call that has ended does not. -/
def State.unitLive (s : State) (u : BqUnit) : Bool :=
  match u.op with
  | none => true
  | some (c, k, g) => (s.op? c k g).any (fun o => !o.st.ended)

/-- The rows of a bank call on a rill core's banks that stand neither in its command queue nor at a bank unit, and have neither
been run nor retired. -/
def State.rowsToPlace (s : State) (o : Op) (node : Nat) : List Nat :=
  let q := s.bqOf node
  (countFrom o.units (o.work.bankRowCount - o.units)).filter (fun u => buNode (o.work.rowBu u) == node
    && !q.any (fun x => x.op == some (o.core, o.slot, o.gen) && x.row == u)
    && !(s.bank (o.work.rowBu u)).cur.any (fun x => x.op == some (o.core, o.slot, o.gen) && x.row == u)
    && !o.ahead.any (fun x => x.row == u))

/-- BANKCALL_MESSAGE (R105): the rill core places the call's rows on its banks in its command queue, as many as find room; the
message is done with once all of them are placed. -/
def execBankcallMessage (s : State) : Out :=
  let i := s.evArg 0
  match s.lat.net[i]? with
  | none => .next s
  | some p => match p.body, p.dest with
    | .bankcall c k g, .node node =>
      if !s.deliverable i then .next s
      else match s.op? c k g with
        | none => .next (s.dropMsg i p.ctx)
        | some o =>
          if o.st.ended then .next (s.dropMsg i p.ctx)
          else
            let q := (s.bqOf node).filter s.unitLive
            let rows := s.rowsToPlace o node
            let fit := rows.take (256 - q.length)
            let t := s.setBq node (q ++ fit.map (s.rowUnit o))
            .next (if fit.length = rows.length then t.dropMsg i p.ctx else t)
    | _, _ => .next s

/-! ## The arithmetic of a bank unit (R103) -/

/-- RNE without saturation. -/
def buRnd : RndMode := { rm := .rne, sat := .nosat }

/-- Lanes of a 512-bit line register. -/
def buLanes (w : Nat) (v : BitVec 512) : List Nat := unpackCodes w v.toNat (512 / w)

/-- A line register from its lanes. -/
def ofBuLanes (w : Nat) (l : List Nat) : BitVec 512 := BitVec.ofNat 512 (packCodes w l)

/-- x + y, rounded once to the format (log 53). -/
def buAdd (f : Fmt) (x y : Nat) : Nat := (f.round ((f.value x).add (f.value y) .rne).1 buRnd).1

/-- z + x × a with the scalar `a` in FP32, rounded once to the format (log 53). -/
def buFma (f : Fmt) (z x a : Nat) : Nat := (f.round ((f.value x).fma (fp32.value a) (f.value z) .rne).1 buRnd).1

/-- The ALU operation of a micro-word on the destination and the sources (Table 4.6); none for an illegal code. -/
def buAlu (op arg : Nat) (d a b : BitVec 512) : Option (BitVec 512) :=
  let f1 := fun (w : Nat) (f : Nat → Nat) => some (ofBuLanes w ((buLanes w a).map f))
  let f2 := fun (w : Nat) (f : Nat → Nat → Nat) (y : BitVec 512) => some (ofBuLanes w (List.zipWith f (buLanes w a) (buLanes w y)))
  let wide := fun (l : List Nat) => some (ofBuLanes 32 (l.map (fun x => (fp32.round (bf16.value x) buRnd).1)))
  let narrow := fun (x : Nat) => (bf16.round (fp32.value x) buRnd).1
  match op with
  | 0 => some d
  | 1 => f1 32 id
  | 2 => f2 32 (buAdd fp32) b
  | 3 => f2 32 (fun x y => (f32mul x y buRnd).1) b
  | 4 => f2 32 (fun x z => buFma fp32 z x arg) d
  | 5 => f2 16 (buAdd bf16) b
  | 6 => f2 16 (fun x z => buFma bf16 z x arg) d
  | 7 => wide ((buLanes 16 a).take 16)
  | 8 => wide ((buLanes 16 a).drop 16)
  | 9 => some (ofBuLanes 16 ((buLanes 32 a ++ buLanes 32 b).map narrow))
  | _ => none

/-! ## Lines of DRAM (R104) -/

/-- A unit under way at a bank unit, by the bank unit's number. -/
structure BuRun where
  s : State
  bu : Nat
  b : BankUnit
  u : BqUnit
  st : BuStat := .run
  deriving DecidableEq, Repr

/-- The operation of a unit that is a row of a bank call. -/
def State.unitOp (s : State) (u : BqUnit) : Option Op :=
  match u.op with
  | some (c, k, g) => s.op? c k g
  | none => none

/-- The virtual address of a line that address generator `k` of a unit reaches, or its physical address for a unit that the
firmware has queued. -/
def State.lineVa (s : State) (u : BqUnit) (k pa : Nat) : Nat :=
  match s.unitOp u with
  | none => pa
  | some o =>
    let r := o.work.ranges.getD k (bankRange 0 0)
    r.va + 1024 * u.row + (pa - nth r.rows u.row)

/-- A line as DRAM holds it, whatever a cache holds of it (R104). -/
def State.dramLine (s : State) (pa : Nat) : Nat :=
  match s.lat.dram.find? (fun d => d.1 == pa / 64) with
  | some d => d.2
  | none => Mem.readN s.mem pa 64

/-- Writes a line in DRAM; a copy that a cache holds stays as it is (R104). -/
def State.dramWrite (s : State) (pa v : Nat) : State :=
  let t : State := if s.lat.cache.any (fun c => c.plain && c.line == pa / 64) then
      { s with lat := { s.lat with dram := assocSet (pa / 64) v s.lat.dram } }
    else { s with mem := Mem.writeN s.mem pa 64 v }
  t.wrote pa 64

/-- Reads the 64-byte line at `pa` through address generator `k`: what its own unit has written to it comes first. -/
def BuRun.readLine (r : BuRun) (k pa : Nat) : BuRun × BitVec 512 :=
  let s := r.s
  if s.onLat pa then
    let t := s.cellType pa
    let w := s.unitAt (unitOf t.1 t.2 pa)
    if s.isLost pa 64 then ({ r with st := .lost (s.lineVa r.u k pa) pa }, 0)
    else if w.st = .frozen ∧ r.u.gens.getD k none = some w.gen then
      (r, BitVec.ofNat 512 (w.image t.1 t.2 / 2 ^ (8 * (pa - w.pa))))
    else ({ r with st := .stale (s.lineVa r.u k pa) }, 0)
  else match r.b.wr.find? (fun x => x.1 == pa) with
    | some x => (r, BitVec.ofNat 512 x.2)
    | none => if s.isLost pa 64 then ({ r with st := .lost (s.lineVa r.u k pa) pa }, 0) else (r, BitVec.ofNat 512 (s.dramLine pa))

/-- Writes a 64-byte line, which DRAM has when the unit retires (R194); a bank unit never writes a LAT, CONST or HOST line. -/
def BuRun.writeLine (r : BuRun) (pa : Nat) (v : BitVec 512) : BuRun :=
  if (r.s.frameOf pa).any (fun f => f.kind != 1) then r else { r with b := { r.b with wr := assocSet pa v.toNat r.b.wr } }

/-! ## Micro-programs (Table 4.6) -/

/-- A free line. -/
def freeLine (n : Nat) : BitVec 512 := ofBuLanes 64 ((countFrom n 8).map (fun i => (Config.freeWord i).toNat))

/-- The branch and the end of a micro-word: the loop counters, the program counter and ROWS after it, and whether the unit
has ended. -/
def BankUnit.loop (b : BankUnit) (loop next : Nat) (rowend : Bool) : BankUnit × Bool :=
  let up := (b.mpc + 1) % 256
  let c0 := (b.lc0 + 2 ^ 32 - 1) % 2 ^ 32
  let c1 := (b.lc1 + 2 ^ 32 - 1) % 2 ^ 32
  let b1 := match loop with
    | 1 => { b with lc0 := c0, mpc := if c0 ≠ 0 then next else up }
    | 2 => { b with lc1 := c1, mpc := if c1 ≠ 0 then next else up }
    | _ => { b with mpc := up }
  (if rowend then { b1 with rows := (b1.rows + 1) % 2 ^ 32 } else b1, rowend || loop == 3)

/-- An activation of a row counts at the bank that holds it (R108): by row number. -/
def BankUnit.activate (b : BankUnit) (row : Nat) : BankUnit := { b with acts := bumpCount row b.acts }

/-- A bank unit's ACT of the row of an address, which may lie in another bank (R104). -/
def BuRun.act (r : BuRun) (pa : Nat) : BuRun :=
  if buOf pa = r.bu then { r with b := r.b.activate (pa / 1024) }
  else { r with s := r.s.setBank (buOf pa) ((r.s.bank (buOf pa)).activate (pa / 1024)) }

/-- The DRAM command of a micro-word: the run, and the line that RD has read. -/
def BuRun.dram (r : BuRun) (dcmd k : Nat) (srca : BitVec 512) : BuRun × Option (BitVec 512) :=
  let pa := r.b.ag.toList.getD k 0
  match dcmd with
  | 1 =>
    let q := r.act pa
    ({ q with b := { q.b with since := some (q.b.since.getD 0) } }, none)
  | 2 =>
    let q := r.readLine k pa
    (q.1, some q.2)
  | 3 => (r.writeLine pa srca, none)
  | _ => (r, none)

/-- One micro-word, in one cycle: the ALU reads its sources before RD writes; where both write one register its value is
free, one for each line read and each result (log 14). -/
def BuRun.step (store : List Nat) (r : BuRun) : BuRun :=
  let w := nth store r.b.mpc
  let dcmd := bits w 127 125
  let k := bits w 124 123
  let alu := bits w 121 118
  let dst := bits w 117 115
  let acc := fun (i : Nat) => r.b.acc.toList.getD i 0
  let srca := acc (bits w 114 112)
  let arg := (r.b.arg.toList.getD (bits w 108 106) 0).toNat % 2 ^ 32
  match buAlu alu arg (acc dst) srca (acc (bits w 111 109)) with
  | none => { r with st := .code }
  | some v =>
    if 5 ≤ dcmd then { r with st := .code }
    else
      let q := r.dram dcmd k srca
      if q.1.st ≠ .run then q.1
      else
        let out := match q.2 with
          | some x => if alu ≠ 0 then Config.buBoth x v else x
          | none => v
        let b := q.1.b
        let inc := (b.ag.toList.getD k 0 + 64) % 2 ^ 58
        let ag := if w.testBit 122 then b.ag.setIfInBounds k inc else b.ag
        let e := ({ b with acc := b.acc.setIfInBounds dst out, ag := ag, since := b.since.map (· + 1) } : BankUnit).loop
          (bits w 104 103) (bits w 102 95) (w.testBit 105)
        { q.1 with b := e.1, st := if e.2 then .done else .run }

/-- Whether a unit has run more than 192 cycles from an ACT (R103). -/
def BankUnit.late (b : BankUnit) : Bool := decide (192 < b.since.getD 0)

/-- Runs micro-words until the unit ends or is late, at most so many. -/
def BuRun.micro (store : List Nat) : Nat → BuRun → BuRun
  | 0, r => r
  | n + 1, r => if r.st ≠ .run ∨ r.b.late then r else BuRun.micro store n (r.step store)

/-! ## Standard entries (R367) -/

/-- The ranges that a standard entry reads, and the one it writes. -/
def stdShape (e : Nat) : List Nat × Nat :=
  match e with
  | 0 => ([0], 1)
  | 5 => ([], 0)
  | _ => ([0, 1], 2)

/-- A line of a standard entry's row result (Table 14.10). -/
def stdLine (e arg0 : Nat) (l : List (BitVec 512)) : BitVec 512 :=
  let x := l.getD 0 0
  let y := l.getD 1 0
  let f := fun (w : Nat) (g : Nat → Nat → Nat) => ofBuLanes w (List.zipWith g (buLanes w x) (buLanes w y))
  match e with
  | 0 => x
  | 1 => f 16 (buAdd bf16)
  | 2 => f 32 (buAdd fp32)
  | 3 => f 32 (fun p q => buFma fp32 q p (arg0 % 2 ^ 32))
  | 4 => f 16 (fun p q => buFma bf16 q p (arg0 % 2 ^ 32))
  | _ => ofBuLanes 64 (List.replicate 8 arg0)

/-- Reads line `i` of the rows that the address generators listed name. -/
def BuRun.stdRead (i : Nat) : List Nat → BuRun → List (BitVec 512) → BuRun × List (BitVec 512)
  | [], r, vs => (r, vs)
  | k :: l, r, vs =>
    if r.st ≠ .run then (r, vs)
    else
      let q := r.readLine k (r.b.ag.toList.getD k 0 + 64 * i)
      BuRun.stdRead i l q.1 (vs ++ [q.2])

/-- The lines of a standard entry's row, in ascending order. -/
def BuRun.stdRow (e : Nat) : List Nat → BuRun → BuRun
  | [], r => r
  | i :: l, r =>
    let q := BuRun.stdRead i (stdShape e).1 r []
    if q.1.st ≠ .run then q.1
    else BuRun.stdRow e l (q.1.writeLine (r.b.ag.toList.getD (stdShape e).2 0 + 64 * i) (stdLine e (r.b.arg.toList.getD 0 0).toNat q.2))

/-- What a standard unit leaves beside its row: the manual gives no micro-program but that of entry 3, so the line
registers, counters and address generators are free (log 14). -/
def BuRun.stdEnd (r : BuRun) : BuRun :=
  let n := r.s.free
  let w := fun (i : Nat) => (Config.freeWord (n + i)).toNat
  let b := { r.b with
    acc := Vector.ofFn (fun i => freeLine (n + 8 * i.val))
    ag := Vector.ofFn (fun i => w (64 + i.val) % 2 ^ 52 * 64)
    lc0 := w 68 % 2 ^ 32
    lc1 := w 69 % 2 ^ 32
    mpc := w 70 % 256
    rows := (r.b.rows + 1) % 2 ^ 32 }
  { r with s := { r.s with free := n + 71 }, b := b, st := .done }

/-- A unit of an entry whose row result alone the manual gives. -/
def BuRun.std (e : Nat) (r : BuRun) : BuRun :=
  let rows := ((stdShape e).1 ++ [(stdShape e).2]).map (fun k => r.b.ag.toList.getD k 0)
  let q := BuRun.stdRow e (countFrom 0 16) (rows.foldl BuRun.act r)
  if q.st = .run then q.stdEnd else q

/-! ## Units (R105, R106, R365) -/

/-- Whether the lattice lines of a row that a bank call reads have the issuing thread's earlier operations behind them
(R118). -/
def State.rowSettled (s : State) (o : Op) (u : BqUnit) : Bool :=
  (List.zip u.ag u.gens).all (fun x => x.2.isNone || (countFrom 0 16).all (fun i =>
    let pa := x.1 + 64 * i
    !(s.onLat pa && s.postedTo o.core o.thread (.unit (unitOf (s.cellType pa).1 (s.cellType pa).2 pa)))))

/-- Whether a queued unit may be dispatched: the call of a row runs or can start. A row may run before its turn to retire
(R194). -/
def State.unitReady (s : State) (u : BqUnit) : Bool :=
  match u.op with
  | none => true
  | some _ => (s.unitOp u).any (fun o => ((o.st == .running && s.mayRun o) || s.startable o) && s.rowSettled o u)

/-- The priority of a unit's call now (R202). -/
def State.unitPrio (s : State) (u : BqUnit) : Nat := ((s.unitOp u).map (·.prio)).getD u.prio

/-- The unit that a bank unit serves next: by call priority, then by age; the rows of one call in ascending order (R105). -/
def State.nextUnit (s : State) (bu : Nat) : Option BqUnit :=
  let mine := (s.bqOf (buNode bu)).filter (fun u => u.ch == bu / 16 % 8 && u.bank == bu % 16)
  let l := mine.filter (fun u => s.unitReady u && !mine.any (fun v => v.op.isSome && v.op == u.op && decide (v.row < u.row)))
  l.find? (fun u => l.all (fun v => decide (s.unitPrio v ≤ s.unitPrio u)))

/-- The line registers that the previous unit of a unit's call has left (R365). -/
def BankUnit.kept (b : BankUnit) (u : BqUnit) : Vector (BitVec 512) 8 :=
  ((b.calls.find? (fun c => c.op == u.op && c.call == u.call)).map (·.acc)).getD b.acc

/-- Keeps the line registers for the next unit of the call (R365). -/
def BankUnit.keep (b : BankUnit) (u : BqUnit) : BankUnit :=
  { b with calls := { op := u.op, ctx := b.owner, call := u.call, acc := b.acc } ::
                      b.calls.filter (fun c => !(c.op == u.op && c.call == u.call)) }

/-- A bank unit as it starts a unit of a context's call (R365). -/
def BankUnit.load (b : BankUnit) (e : BankEntry) (ctx : Option Nat) (u : BqUnit) : BankUnit :=
  { b with
    mpc := e.start
    arg := Vector.ofFn (fun i => BitVec.ofNat 64 (nth u.args i.val))
    ag := Vector.ofFn (fun i => nth u.ag i.val)
    lc0 := u.lc0
    lc1 := u.lc1
    rows := u.row
    acc := if u.first then Vector.replicate 8 0 else b.kept u
    cur := some u
    owner := ctx
    phase := .unit
    wr := []
    since := none }

/-- The completion record of a unit (Table 14.8). -/
def buRecord (status : Nat) (u : BqUnit) : Nat :=
  status * 2 ^ 60 + u.bank * 2 ^ 56 + u.ch * 2 ^ 53 + u.call * 2 ^ 32 + u.row

/-- Appends a completion record at the rill core of a bank unit. -/
def State.buReply (s : State) (bu status : Nat) (u : BqUnit) : State :=
  s.updHart (.rill (buNode bu)) (fun h => { h with r := { h.r with brec := h.r.brec ++ [buRecord status u] } })

/-- The last row of a bank call has retired, or one more has. -/
def State.retireRow (s : State) (o : Op) : State := s.retireOf o.work.bankRowCount o

/-- A lost line that a unit of a firmware program meets stops the context whose page holds it (R90). -/
def State.lossAt (s : State) (pa : Nat) : State :=
  match s.frameOf pa with
  | some f => s.raiseLoss f.ctx (paPkg pa) 0 (f.va + (pa - f.pa)) 0 (s.lossD0 pa 64)
  | none => s

/-- The lines that a unit has written are in DRAM. -/
def State.putRow (s : State) (l : List (Nat × Nat)) : State := l.foldl (fun t x => t.dramWrite x.1 x.2) s

/-- The end of a unit that is no row of a bank call: its record (R364). The record has no status for a lost line (log 87). -/
def State.recordUnit (s : State) (bu : Nat) (u : BqUnit) (st : BuStat) (late : Bool) : State :=
  match st with
  | .lost _ pa => (s.lossAt pa).buReply bu (if late then 2 else 0) u
  | .code => s.buReply bu (if late then 2 else 1) u
  | .stale _ => s.buReply bu (if late then 2 else 3) u
  | _ => s.buReply bu (if late then 2 else 0) u

/-- Whether a bank unit runs a row of an operation now. -/
def State.rowRuns (s : State) (o : Op) (u : Nat) : Bool :=
  (s.bank (o.work.rowBu u)).cur.any (fun x => x.op == some (o.core, o.slot, o.gen) && x.row == u)

/-- What the row of a bank call whose turn it is to retire means to the call (R103, R338, R365). -/
def State.endRow (s : State) (o : Op) (r : RowEnd) : State :=
  let t := s.putRow r.wr
  if r.late then t.stopOp o .failed 6 2 0
  else match r.st with
    | .code => t.stopOp o .failed 6 1 0
    | .stale va => t.stopOp o .failed 3 2 va
    | .lost va pa => (t.lossFault o va (t.lossD0 pa 64)).stopOp o .failed 4 0 va
    | _ => t.retireRow o

/-- The rows of a bank call that have been run retire in ascending order, as far as they go, and the call is within a unit if its
next row is under way (R194); the fuel bounds the rows. -/
def State.endRows (core slot gen : Nat) : Nat → State → State
  | 0, s => s
  | n + 1, s => match s.op? core slot gen with
    | none => s
    | some o =>
      if o.st.ended then s
      else match o.ahead.find? (fun r => r.row == o.units) with
        | some r => State.endRows core slot gen n (s.endRow { o with ahead := o.ahead.filter (fun x => x.row != o.units) } r)
        | none => s.setOp { o with begun := s.rowRuns o o.units }

/-- The end of a unit: its record, or what it means to its bank call, nothing to one that has ended (R103, R338, R364, R365). -/
def State.unitEnd (s : State) (bu : Nat) (u : BqUnit) (st : BuStat) (late : Bool) (wr : List (Nat × Nat)) : State :=
  match s.unitOp u with
  | none => (s.putRow wr).recordUnit bu u st late
  | some o =>
    if o.st.ended then s
    else State.endRows o.core o.slot o.gen (o.ahead.length + 2)
      (s.setOp { o with ahead := o.ahead ++ [{ row := u.row, st := st, late := late, wr := wr }] })

/-- The bank unit after a unit has ended: it keeps the call's line registers, and holds its bank while more units are queued for
it. -/
def State.buAfter (s : State) (bu : Nat) (b : BankUnit) (u : BqUnit) : State :=
  let more := (s.bqOf (buNode bu)).any (fun u => u.ch == bu / 16 % 8 && u.bank == bu % 16 && s.unitLive u)
  s.setBank bu { b.keep u with cur := none, wr := [], since := none, phase := if more || decide (0 < b.waiting) || b.rfm then .unit else .idle }

/-- A unit ends at its bank unit. -/
def BuRun.close (r : BuRun) (u : BqUnit) (late : Bool) : State :=
  (((r.s.setBank r.bu r.b).unitEnd r.bu u r.st late r.b.wr).buAfter r.bu r.b u).bankFreed

/-- Runs the unit that a bank unit has loaded. -/
def State.runBu (s : State) (bu : Nat) (b : BankUnit) (u : BqUnit) : State :=
  let r : BuRun := { s := s, bu := bu, b := b, u := u }
  let q := match (b.entries.getD u.entry {}).std with
    | some e => r.std e
    | none => r.micro b.store 512
  if q.st = .run then q.s.setBank bu q.b
  else (({ q with b := { q.b with cur := none } } : BuRun).close u false)

/-- A queued row with the places that its ranges have now (R30). -/
def State.freshUnit (s : State) (u : BqUnit) : BqUnit :=
  match s.unitOp u with
  | some o => { u with ag := (s.rowUnit o u.row).ag }
  | none => u

/-- Whether a bank unit runs a row of a bank call. -/
def State.underWay (s : State) (o : Op) : Bool :=
  s.dev.banks.any (fun b => b.2.cur.any (fun x => x.op == some (o.core, o.slot, o.gen)))

/-- A bank call whose next row stands on a bank unit that takes up a row of another call is suspended, unless a row of it is under
way (R202). -/
def State.passedOver (s : State) (bu : Nat) (u : BqUnit) (o : Op) : Op :=
  if o.kind = 4 ∧ o.st = .running ∧ s.underWay o = false ∧ o.work.rowBu o.units = bu ∧ u.op ≠ some (o.core, o.slot, o.gen) then
    { o with st := .suspended } else o

/-- A bank unit takes up a unit: its call runs, and others that it passes over are suspended. -/
def State.startCall (s : State) (bu : Nat) (u : BqUnit) : State :=
  let t := { s with work := { s.work with ops := s.work.ops.map (s.passedOver bu u) } }
  match t.unitOp u with
  | some o => t.setOp { o with st := .running, begun := o.begun || u.row == o.units }
  | none => t

/-- The context of a unit's call. -/
def State.unitCtx (s : State) (u : BqUnit) : Option Nat := (s.unitOp u).map (·.ctx)

/-- Whether an ordinary access waits for the bank of a bank unit (R106): one that has arrived, a thread's cache fill or the store
that its core holds, an engine's access, a write-back, or an operation for its join unit. -/
def State.accessWaits (s : State) (bu : Nat) : Bool :=
  let here := fun (p pa : Nat) => buOf pa == bu && s.routed p (paPkg pa)
  decide (0 < (s.bank bu).waiting)
    || s.allHarts.any (fun h => (match h.stat with
      | .waiting (.bank pa) => here (s.pkgOf h) pa
      | _ => false) || h.t.post.later.any (fun l => l.bank.any (here (s.pkgOf h))))
    || s.work.ops.any (fun o => s.goesOn o && o.bankAt.any (here (physPkg (s.physOf o.core))))
    || s.lat.writeBacks.any (fun w => w.lines.any (fun x => x.2.isSome && here (w.hart.pkg s) (64 * x.1)))
    || s.lat.net.any (fun m => match m.dest with
      | .unit pa => buOf pa == bu
      | _ => false)

/-- Whether a bank unit may start a unit: its channel is in near-bank mode with no switch held, its bank is not in an ordinary
phase, no refresh management is due, and if it holds the bank since its last row no ordinary access waits for it. -/
def State.buFree (s : State) (bu : Nat) : Bool :=
  let c := s.chan (bu / 16)
  let b := s.bank bu
  c.mode && !c.held && b.phase != .ordinary && !b.suspended && !b.rfm && !(b.phase == .unit && s.accessWaits bu)

/-- BANK_ROW_UNIT (R365, R105): operand 0 is the bank unit. -/
def execBankRowUnit (s : State) : Out :=
  let bu := s.evArg 0
  let b := s.bank bu
  match b.cur with
  | some u => if b.late then .next s else .next (s.runBu bu b u)
  | none =>
    if s.buFree bu then
      match s.nextUnit bu with
      | none => .next s
      | some u =>
        let node := buNode bu
        let t := (s.setBq node (((s.bqOf node).erase u).filter s.unitLive)).startCall bu u
        let e := b.entries.getD u.entry {}
        .next (t.runBu bu (b.load e (s.unitCtx u) (s.freshUnit u)) (s.freshUnit u))
    else .next s

/-- BUSEG (R103): a unit that has run more than 192 cycles from an ACT fails. -/
def execBuseg (s : State) : Out :=
  let bu := s.evArg 0
  let b := s.bank bu
  match b.cur with
  | some u => if b.late then .next (({ s := s, bu := bu, b := { b with cur := none }, u := u } : BuRun).close u true) else .next s
  | none => .next s

/-! ## Phases and refresh management (R106, R108) -/

/-- An uncorrectable error that the stack's ECC reports for a line (R90). -/
def State.eccLoss (s : State) (line : Nat) : State :=
  if s.lat.lost.contains line then s else { s with lat := { s.lat with lost := line :: s.lat.lost } }

/-- A corrected error of a stack is counted, and a row that moves to a spare row leaves one spare fewer (Table 17.8). -/
def State.corrected (s : State) (pkg kind : Nat) : State :=
  if kind = 0 then s
  else
    let k := s.pkg pkg
    s.setPkg pkg { k with mgmt := { k.mgmt with corr := (k.mgmt.corr + 1) % 2 ^ 32
                                                sprow := if kind = 2 then k.mgmt.sprow - 1 else k.mgmt.sprow } }

/-- ORDINARY_ACCESS_ARRIVAL (R90, R106, R108): operand 0 is the bank unit, operand 1 one more than the row that the access
activates, or 0, operand 2 one more than the line that ECC finds uncorrectable, or 0, and operand 3 is 1 for an error that ECC
corrects and 2 for one by which its row moves to a spare row. An access to a bank that its bank unit holds is queued, and the row
that it opens counts when it is served. The manual gives the event no operands (log 82). -/
def execOrdinaryAccessArrival (s0 : State) : Out :=
  let bu := s0.evArg 0
  let s := s0.corrected (bu / 8192) (s0.evArg 3)
  let b := s.bank bu
  let t := if s.evArg 2 = 0 then s else s.eccLoss (s.evArg 2 - 1)
  let row := if s.evArg 1 = 0 then [] else [s.evArg 1 - 1]
  if b.phase = .unit ∨ b.phase = .ordinary ∧ b.suspended = true then
    .next (t.setBank bu { b with waiting := b.waiting + 1, rowsDue := b.rowsDue ++ row })
  else if s.evArg 1 = 0 then .next t
  else .next (t.setBank bu (b.activate (s.evArg 1 - 1)))

/-- Refresh management is issued. -/
def BankUnit.refresh (b : BankUnit) : BankUnit := { b with acts := [], rfm := false }

/-- The accesses queued at a bank are served: the rows that they open count (R108). -/
def BankUnit.serve (b : BankUnit) : BankUnit := { b with acts := b.rowsDue.foldl (fun l r => bumpCount r l) b.acts, rowsDue := [] }

/-- BU_SUSPEND (R106, R108): at ROWEND, with an ordinary access queued or refresh management due, the bank is precharged and
enters an ordinary phase. -/
def execBuSuspend (s : State) : Out :=
  let bu := s.evArg 0
  let b := s.bank bu
  if b.phase = .unit ∧ b.cur = none ∧ (s.accessWaits bu = true ∨ b.rfm = true) then
    .next (s.setBank bu { (if b.rfm then b.refresh else b).serve with phase := .ordinary, suspended := true }).bankFreed
  else .next s

/-- ORDINARY_PHASE_END (R106, Table 4.8): the bank unit resumes, unless its channel is in normal mode. -/
def execOrdinaryPhaseEnd (s : State) : Out :=
  let bu := s.evArg 0
  let b := s.bank bu
  if b.phase = .ordinary then
    .next (s.setBank bu { b.serve with phase := .idle, waiting := 0, suspended := b.suspended && !(s.chan (bu / 16)).mode })
  else .next s

/-- Refresh management for a bank: at the next ROWEND of a bank unit that holds it, otherwise at once, with an ordinary
window after it. -/
def State.startRefresh (s : State) (bu : Nat) : State :=
  let b := s.bank bu
  if b.phase = .unit then s.setBank bu { b with rfm := true }
  else s.setBank bu { b.refresh with phase := .ordinary }

/-- Whether a row of a bank has been activated as often as the threshold says (R108). -/
def BankUnit.worn (b : BankUnit) : Bool := b.acts.any (fun a => decide (Config.rfmThreshold ≤ a.2))

/-- RFM (R108): a count of activations has reached its threshold. -/
def execRfm (s : State) : Out :=
  let bu := s.evArg 0
  if (s.bank bu).worn then .next (s.startRefresh bu) else .next s

/-- STACK_ALERT (R108). -/
def execStackAlert (s : State) : Out := .next (s.startRefresh (s.evArg 0))

/-! ## Channel modes (R109, R110) -/

/-- The bank units of a channel. -/
def busOf (ch : Nat) : List Nat := countFrom (16 * ch) 16

/-- BUSY: a bank unit of the channel holds an open bank or runs. -/
def State.chanBusy (s : State) (ch : Nat) : Bool := (busOf ch).any (fun b => (s.bank b).phase == .unit)

/-- The mode register as software reads it (Table 4.7). -/
def State.chanWord (s : State) (ch : Nat) : Nat :=
  let c := s.chan ch
  c.done.toNat * 8 + c.held.toNat * 4 + (s.chanBusy ch).toNat * 2 + c.mode.toNat

/-- The register with DONE cleared if a write has its bit set. -/
def Channel.clear (c : Channel) (v : Nat) : Channel := if v.testBit 3 then { c with done := false } else c

/-- MODE_SWITCH_NORMAL (R110): operands are the channel and the word written, with MODE = 0. -/
def execModeSwitchNormal (s : State) : Out :=
  let ch := s.evArg 0
  let c := (s.chan ch).clear (s.evArg 1)
  if s.chanBusy ch then .next (s.setChan ch { c with held := true })
  else .next (s.setChan ch { c with mode := false, held := false, done := true })

/-- Bank units that no ordinary window holds resume. -/
def State.resumeBus (s : State) (ch : Nat) : State :=
  (busOf ch).foldl (fun t b => if (t.bank b).suspended && (t.bank b).phase != .ordinary
    then t.setBank b { t.bank b with suspended := false } else t) s

/-- MODE_SWITCH_NEAR_BANK (R110): a held switch is cancelled, without DONE. -/
def execModeSwitchNearBank (s : State) : Out :=
  let ch := s.evArg 0
  let c := (s.chan ch).clear (s.evArg 1)
  .next ((s.setChan ch { c with mode := true, held := false }).resumeBus ch)

/-- A bank unit at its ROWEND gives up its bank with its state kept; refresh management that is due is issued (R108). -/
def BankUnit.drain (b : BankUnit) : BankUnit :=
  if b.phase = .unit then { (if b.rfm then b.refresh else b).serve with phase := .idle, suspended := true, waiting := 0 } else b

/-- MODE_SWITCH_COMPLETE (R110): every bank unit of the channel is at ROWEND. -/
def execModeSwitchComplete (s : State) : Out :=
  let ch := s.evArg 0
  let c := s.chan ch
  if c.held && (busOf ch).all (fun b => (s.bank b).cur.isNone) then
    let t := (busOf ch).foldl (fun t b => if (t.bank b).phase = .unit then t.setBank b (t.bank b).drain else t) s
    .next (t.setChan ch { c with mode := false, held := false, done := true }).bankFreed
  else .next s

/-! ## The control store (R103, R366, R421, R444) -/

/-- Six free values (log 9). -/
def State.freeSix (s : State) : List Nat := (countFrom s.free 6).map (fun i => (Config.freeWord i).toNat)

/-- Extends a measurement register with a digest, with its audit record (R421, Table 17.7). The register's index and its digest
are seven words and DATA has six: the manual gives no layout, and the words are free (log 14). -/
def State.extend (s : State) (p r : Nat) (d : BitVec 384) : State :=
  let k := s.pkg p
  let old := k.meas.toList.getD r 0
  let t := s.setPkg p { k with meas := k.meas.setIfInBounds r (Config.sha384 (leBytes 48 old.toNat ++ leBytes 48 d.toNat)) }
  ({ t with free := t.free + 6 }).auditAppend p 5 0 s.freeSix

/-- A micro-word of the fields that Table 22.1 shows. -/
def microWord (dcmd ags inc alu dst srca rowend loop next : Nat) : Nat :=
  dcmd * 2 ^ 125 + ags * 2 ^ 123 + inc * 2 ^ 122 + alu * 2 ^ 118 + dst * 2 ^ 115 + srca * 2 ^ 112 + rowend * 2 ^ 105
    + loop * 2 ^ 103 + next * 2 ^ 95

/-- The micro-program of standard entry 3 (Table 22.1). -/
def axpyWords : List Nat :=
  [microWord 1 0 0 0 0 0 0 0 0, microWord 1 1 0 0 0 0 0 0 0, microWord 1 2 0 0 0 0 0 0 0,
   microWord 2 0 1 0 0 0 0 0 0, microWord 2 1 1 0 1 0 0 0 0, microWord 0 0 0 4 1 0 0 0 0,
   microWord 3 2 1 0 0 1 0 1 0x33, microWord 4 0 0 0 0 0 1 3 0]

/-- An entry of the standard image: entry 3 has the micro-program that R444 gives; of the others the manual gives the row
result (log 14). -/
def stdEntry (e : Nat) : BankEntry :=
  let t : Nat × Nat := match e with
    | 0 => (2, 2)
    | 5 => (1, 1)
    | _ => (4, 4)
  if 5 < e then {}
  else { v := true, nrmask := t.1, dirreq := t.2, start := if e = 3 then 0x30 else 0, std := if e = 3 then none else some e }

/-- An entry from its word (Table 14.9). -/
def bankEntry (w : Nat) : BankEntry :=
  { v := w.testBit 63, nrmask := bits w 55 52, dirreq := bits w 51 48, start := bits w 7 0 }

/-- Sets the control store and the entry table of bank units. -/
def State.setStore (s : State) (bus : List Nat) (store : List Nat) (entries : Vector BankEntry 16) : State :=
  bus.foldl (fun t bu => t.setBank bu { t.bank bu with store := store, entries := entries }) s

/-- Loads the standard image; its digest is free, since the manual gives not all its words (log 14). -/
def State.loadStandard (s : State) (p : Nat) (bus : List Nat) : State :=
  let d := BitVec.ofNat 384 (packCodes 64 s.freeSix)
  let t := s.setStore bus (List.replicate 0x30 0 ++ axpyWords ++ List.replicate 0xC8 0) (Vector.ofFn (fun i => stdEntry i.val))
  ({ t with free := t.free + 6 }).extend p 2 d

/-- Loads an image of 256 micro-words, given as 512 words of 64 bits, and 16 entries. -/
def State.loadImage (s : State) (p : Nat) (bus words entries : List Nat) : State :=
  let st := (countFrom 0 256).map (fun i => nth words (2 * i) + 2 ^ 64 * nth words (2 * i + 1))
  (s.setStore bus st (Vector.ofFn (fun i => bankEntry (nth entries i.val)))).extend p 2 (Config.sha384 (wordBytes (words ++ entries)))

/-- The bank units of a base-die rill core that a load is for: one by its number there, or all 128. -/
def storeBus (node which : Nat) : List Nat :=
  if 128 ≤ which then countFrom (quarterOf node * 128) 128 else [quarterOf node * 128 + which]

/-- CONTROL_STORE_LOAD (R103, R421): operands are the base-die rill core, the bank unit of its 128 or 128 for all of them, 1 for the
standard image, and otherwise the words of the image and its entries (log 81). -/
def execControlStoreLoad (s : State) : Out :=
  let node := s.evArg 0
  let bus := storeBus node (s.evArg 1)
  if rillKind node ≠ 1 then .next s
  else if s.evArg 2 = 1 then .next (s.loadStandard (node / 1024) bus)
  else .next (s.loadImage (node / 1024) bus (padTo 512 (s.ev.drop 3)) (padTo 16 (s.ev.drop 515)))

end Sys2Proof.Machine
end

