-- ==== Sys2Proof/Machine/Arrival.lean ====
section
/-! DEFINITION. The arrival of an operation's message at its engine (R192, R201, R337, R454). -/

namespace Sys2Proof.Machine

/-- An operation as its message arrives. -/
def State.arrive (s : State) (o : Op) : State :=
  let o1 := { o with arrived := true }
  let t := s.setOp o1
  if o.kind = 4 then t.sendBankcall o1
  else if o.kind = 5 then t.collArrive o1
  else if o.kind = 6 then t.sendRequest o1
  else t

/-- ENGINE_MESSAGE_ARRIVAL (R192, R201): the message of an operation that waits for another stays until that one has ended;
that of one that has ended is dropped. -/
def execEngineMessageArrival (s : State) : Out :=
  s.deliver (s.evArg 0) fun p t => match p.body with
    | .engine c k g => match t.op? c k g with
      | none => some t
      | some o => if o.st.ended then some t else if o.aft.isEmpty then some (t.arrive o) else none
    | _ => none

end Sys2Proof.Machine
end

