-- ==== Sys2Proof/Machine/Wait.lean ====
section
/-! DEFINITION. When a wait of a hart has ended, which messages and operations can go on, and the quiescence detector with its
report (R181, R186 to R188). -/

namespace Sys2Proof.Machine

/-! ## The end of a wait (Table 7.4) -/

/-- The state with a hart as the issuing one, for functions that speak of the issuing hart. -/
def State.asHart (s : State) (h : Hart) : State := { s with h := h }

/-- Whether the operation of a token slot of a core state has ended, or is gone. -/
def State.slotOver (s : State) (core slot : Nat) : Bool :=
  s.work.ops.all (fun o => !(o.core == core && o.slot == slot && o.hold == 0) || o.replied)

/-- Whether the condition that a hart waits for has ended. A repair ends with its resume (R33). -/
def State.waitOver (s : State) (h : Hart) (w : WaitOn) : Bool :=
  let core := h.coreSlot.1
  match w with
  | .counters w => h.t.post.clear w
  | .journal => h.t.post.freeEntry.isSome || (!h.ctl.h && h.t.post.allRefused)
  | .fenceJ scope => h.t.post.quietIn scope
  | .fenceM wide => !s.fenceMWaits h wide
  | .fenceK scope => !s.fenceKHolds h scope
  | .reply _ => h.reply.isSome && (match h.reply with
    | some (.lines need got) => decide (need ≤ got.length)
    | _ => true)
  | .repair _ => false
  | .seal va => match s.regionOf h.task.ctx va with
    | some r => r.kind != 4
    | none => true
  | .landing buf base _ => !h.t.scr.wins.any (fun x => x.land && x.buf == buf && x.base == base && x.lstate == .growing)
  | .watermark slot gen last =>
    s.lockEnded core slot gen
      || h.t.rlt.all (fun e => !(e.2.watermark && e.2.kslot == slot && e.2.kgen == gen) || decide (last ≤ e.2.wmark))
  | .tokens slots _ => slots.all (s.slotOver core)
  | .sequencer => h.reply.isSome
  | .matrixOps off n => !s.matrixOn h.id off n
  | .space buf len => s.hasRoom core buf len
  | .bank pa => !s.dramWaits (s.pkgOf h) pa
  | .accesses => h.t.post.later.isEmpty
  | .order d => !s.mustStay h d false
  | .recordStore _ => !s.storeFull h.task.ctx (s.pkgOf h)
  | .stream v => h.t.scr.streams.all (fun b => b.vreg != v || !b.queue.isEmpty || b.fail.isSome)
  | .childOps => (s.heldOps h).all (·.replied)
  | .orphanArea => !s.orphansFull h.task.ctx (s.taskPkg h.task.num) (s.heldOps h).length
  | .child t k => s.childDone t k
  | .redirects => decide (s.redirectsUsed core < 32)
  | .outbox => !s.outboxFull (s.asHart h).node
  | .bankQueue => decide (h.r.bq.length < 256)
  | .bankRecord => !h.r.brec.isEmpty

/-- Whether a hart is ready (R181). -/
def State.isReady (s : State) (h : Hart) : Bool :=
  match h.stat with
  | .ready => true
  | .waiting w => s.waitOver h w
  | _ => false

/-- Whether the detector counts a wait with the parked threads: those of Table 7.4 that park, an EXIT or an ADOPT that parks,
and those held by a wait field, a fence, a full journal, or behind earlier messages (R113, R186, R206, R207). -/
def WaitOn.counted (w : WaitOn) : Bool :=
  match w with
  | .counters _ | .journal | .fenceJ _ | .fenceM _ | .fenceK _ | .order _ | .accesses => true
  | .reply _ | .seal _ | .landing _ _ _ | .tokens _ _ | .recordStore _ => true
  | .childOps | .orphanArea | .child _ _ => true
  | _ => false

/-- Whether a wait is that of a held thread (R186). -/
def WaitOn.isHeld (w : WaitOn) : Bool :=
  match w with
  | .counters _ | .journal | .fenceJ _ | .fenceM _ | .fenceK _ | .order _ | .accesses => true
  | _ => false

/-- Whether a repair is under way for an access that a hart's core holds, which blocks what waits behind it (R33, R186). -/
def Hart.repairing (h : Hart) : Bool := h.t.post.later.any (fun l => l.ask.isSome)

/-! ## What can go on by itself -/

/-- An event that changes the state, with what it leaves. -/
def State.tryEv (s : State) (f : State → Out) (args : List Nat) : Option State :=
  match f { s with ev := args } with
  | .next t => if t = { s with ev := args } then none else some t
  | _ => none

/-- The event that delivers a message, and its meaning. -/
def Msg.event (m : Msg) : Instr × (State → Out) :=
  if m.via.isSome then (.messageForward, execMessageForward)
  else match m.body with
    | .lat r => match m.dest with
      | .member _ _ _ _ => (.landingApply, execLandingApply)
      | _ => match r.kind with
        | .thr => (.evaluate, execEvaluate)
        | .thrF => (.evaluate, execEvaluate)
        | .frd => (.frozenReadEvaluate, execFrozenReadEvaluate)
        | _ => (.apply, execApply)
    | .ack _ => (.ack, execAck)
    | .refuse _ _ _ _ _ _ => (.refuse, execRefuse)
    | .wake _ _ _ => (.wake, execWake)
    | .data _ _ _ _ _ _ => (.data, execData)
    | .pageFault _ _ _ _ _ => (.pageFaultRepair, execPageFaultRepair)
    | .resume _ _ _ _ => (.resume, execResume)
    | .engine _ _ _ => (.engineMessageArrival, execEngineMessageArrival)
    | .cancel _ _ _ => (.cancelArrival, execCancelArrival)
    | .redirect _ _ _ => (.redirect, execRedirect)
    | .redirectAck _ _ _ => (.redirectAcknowledgement, execRedirectAcknowledgement)
    | .opReply _ _ _ _ _ => (.operationReply, execOperationReply)
    | .cpyrRequest _ _ _ => (.cpyrRequest, execCpyrRequest)
    | .ready _ _ _ _ _ _ => (.readyToReceive, execReadyToReceive)
    | .bankcall _ _ _ => (.bankcallMessage, execBankcallMessage)
    | .gateWake _ _ _ => (.gateWake, execGateWake)
    | .rill _ => (.handlerDispatch, execHandlerDispatch)

/-- The events of an operation by its kind. -/
def Op.events (o : Op) : List (Instr × (State → Out)) :=
  (.operationStart, execOperationStart) :: match o.kind with
    | 1 => [(.matrixUnit, execMatrixUnit)]
    | 2 => [(.copyStrip, execCopyStrip)]
    | 3 => [(.streamStrip, execStreamStrip)]
    | 5 => [(.collectiveBlock, execCollectiveBlock)]
    | 6 => [(.remoteCopyStrip, execRemoteCopyStrip)]
    | _ => []

/-- Whether message `i` can go on. -/
def State.msgGoes (s : State) (i : Nat) : Bool :=
  match s.lat.net[i]? with
  | none => false
  | some m => m.via.isSome || (s.tryEv m.event.2 [i]).isSome

/-- Whether operation `i` can go on. -/
def State.opGoes (s : State) (i : Nat) : Bool :=
  match s.work.ops[i]? with
  | none => false
  | some o => o.events.any (fun e => (s.tryEv e.2 [i, 0]).isSome)

/-- Whether message `i` has left the network though nothing has come of it: an operation's that waits for its AFTER is not sent yet
(R201), and a remote copy's request that has reached its receiver may wait there (R337). -/
def State.isOff (s : State) (i : Nat) (m : Msg) : Bool :=
  s.offNet m false && match m.body with
    | .cpyrRequest _ _ _ => s.deliverable i && !s.msgGoes i
    | _ => true

/-- The messages of a context that are off the network. -/
def State.offCount (s : State) (ctx : Nat) : Nat :=
  ((List.zip s.lat.net (countFrom 0 s.lat.net.length)).filter (fun m => m.1.ctx == ctx && s.isOff m.2 m.1)).length

/-- Whether a message of a context is in flight (R186, R187): more have been sent than received, or a unit holds one (R95), or a
write-back is under way. -/
def State.inFlight (s : State) (ctx : Nat) : Bool :=
  (assocGet 0 ctx s.lat.sent : Nat) != assocGet 0 ctx s.lat.received + s.offCount ctx
    || s.lat.units.any (fun u => u.held.any (fun m => m.ctx == ctx)) || s.lat.writeBacks.any (fun w => w.ctx == ctx)

/-- Whether a core state lies in a save area for want of granules (R387). -/
def State.isSpared (s : State) (core : Nat) : Bool :=
  (s.core? core).any (fun c => c.spared && match c.loc with
    | .saved _ => true
    | _ => false)

/-- Whether a thread of a context runs, for the detector (R186, R383); one that a thread move has saved for want of granules counts
as parked (R387). -/
def State.counts (s : State) (h : Hart) : Bool :=
  match h.stat with
  | .ready => true
  | .waiting (.space _ _) => !s.isSpared h.coreSlot.1
  | .waiting w => !w.counted || s.waitOver h w || (w == .accesses && h.repairing)
  | _ => false

/-- The state as if a core state that is being saved, or lies in a save area, ran again (R383). -/
def State.asPlaced (s : State) (core : Nat) : State := s.updCore core (fun c => { c with loc := .at c.loc.phys })

/-- Whether an operation is active, for the detector (R186): it can go on, now or once its core state runs again, or it is a bank
call whose rows have not ended. -/
def State.opActive (s : State) (i : Nat) : Bool :=
  (s.work.ops[i]?).any (fun o => (if s.isPlaced o.core then s else s.asPlaced o.core).opGoes i || (o.kind == 4 && o.arrived && !o.st.ended))

/-- The threads of a context that have not exited. -/
def State.threadsOf (s : State) (ctx : Nat) : List Hart :=
  s.allHarts.filter (fun h => h.isThread && h.task.ctx == ctx && h.stat != .exited)

/-- Whether a core of a context is halted (R187): one of its threads is, or its halt group is stopped where it has a core state. -/
def State.anyHalted (s : State) (ctx : Nat) : Bool :=
  (s.threadsOf ctx).any (·.isHalted)
    || s.work.cores.any (fun c => c.ctx == ctx && s.groupStopped ctx (physPkg c.loc.phys))

/-- sweep_pair of R187, on counters that do not change between the passes; a fault message that a rill core has accepted and not
answered is a handler of the context. -/
def State.quiescent (s : State) (ctx : Nat) : Bool :=
  !(s.threadsOf ctx).any s.counts
    && !(countFrom 0 s.work.ops.length).any (fun i => (s.work.ops[i]?).any (fun o => o.ctx == ctx) && s.opActive i)
    && !s.lat.faults.any (fun m => m.ctx == ctx)
    && !s.inFlight ctx

/-! ## Host inputs (R184, R188, R374) -/

/-- A launch queue of a package. -/
def State.queue (s : State) (q : Nat) : Queue := assocGet {} (q % 1024) (s.pkg (q / 1024)).queues

/-- Replaces a launch queue. -/
def State.setQueue (s : State) (q : Nat) (v : Queue) : State :=
  let k := s.pkg (q / 1024)
  s.setPkg (q / 1024) { k with queues := assocSet (q % 1024) v k.queues }

/-- Whether a launch queue still counts as open: open, or with entries to consume (R374). -/
def Queue.input (q : Queue) : Bool := q.v && (q.opn || q.head != q.tail)

/-- Whether the host has an input of a context open: a launch queue or a host window (R184, R188). -/
def State.inputsOpen (s : State) (ctx : Nat) : Bool :=
  s.dev.pkgs.any (fun p => p.2.queues.any (fun q => q.2.ctx == ctx && q.2.input)
    || p.2.wins.any (fun w => w.2.ctx == ctx && w.2.v && w.2.opn))

/-- A host input clears QUIET (R188): a write to a queue or a window, also one that closes it, a notify, a host write, SEAL, and the
entry of a queue when the device takes it up (log 94). -/
def State.hostInput (s : State) (ctx : Nat) : State := s.updCtx ctx (fun c => { c with quiet := false })

/-! ## The report (R188, Tables 16.3 and 16.4) -/

/-- The operand of a parked thread and the token of a parked WAIT. -/
def WaitOn.operand (w : WaitOn) (pc : Nat) : Nat × Nat :=
  match w with
  | .reply va => (va, 0)
  | .seal va => (va, 0)
  | .landing _ _ va => (va, 0)
  | .recordStore va => (va, 0)
  | .tokens _ v => (0, v)
  | .counters _ | .journal | .fenceJ _ | .fenceM _ | .fenceK _ | .order _ | .accesses => (pc, 0)
  | _ => (0, 0)

/-- An entry of the report: its order and its record. -/
abbrev DeadEntry := Nat × List Nat

/-- The parked gates of a task. -/
def Task.deadGates (t : Task) : List DeadEntry :=
  if t.st = .gated then
    ((List.zip t.cells t.gates).filter (fun g => g.2.isNone)).map (fun g =>
      (t.born, faultRec 0x0A (t.die / 4) t.name g.1.cell 0 0 0 0 0 g.1.gen))
  else []

/-- The entry of a parked or held thread. -/
def State.deadThread (s : State) (h : Hart) : List DeadEntry :=
  match h.stat with
  | .waiting w =>
    if w.counted then
      let o := w.operand h.pc.toNat
      [(h.since, faultRec 0x0A (s.pkgOf h) h.task.name o.1 0 0 h.pc.toNat 1 o.2 0)]
    else []
  | _ => []

/-- The refused entries of a thread. -/
def State.deadEntries (s : State) (h : Hart) : List DeadEntry :=
  (h.t.post.j.toList.filter (·.ref)).map (fun e =>
    (e.stamp, faultRec 0x0A (s.pkgOf h) h.task.name e.addr e.gop e.gfound e.pc 2 e.pjjs 0))

/-- The entries of the report, oldest first. -/
def State.deadReport (s : State) (ctx : Nat) : List (List Nat) :=
  let l := (s.work.tasks.filter (fun t => t.ctx == ctx)).flatMap Task.deadGates
    ++ (s.threadsOf ctx).flatMap s.deadThread ++ (s.threadsOf ctx).flatMap s.deadEntries
  (sortBy (·.1) l).map (·.2)

/-- The quiescent-deadlock context fault with the entries it lists (R188). -/
def State.raiseDeadlock (s : State) (ctx : Nat) : State :=
  let l := s.deadReport ctx
  let p := ((s.ctx? ctx).map (·.home)).getD 0
  (l.take 256).foldl (fun t r => t.raise ctx r false)
    (s.raise ctx (faultRec 6 p 0 0 0 0 0 l.length (min l.length 256) 0) true)

/-- Whether an entry that the host has notified waits in a queue that the device has not looked at (R371): a handler of the context
that is queued, for the detector (R186). -/
def Queue.fresh (q : Queue) : Bool := q.v && !q.err && q.head != q.tail && q.entry.isNone

/-- Whether a launch entry of a context is still to be taken up, with room in the record store (R373). -/
def State.launchComes (s : State) (ctx : Nat) : Bool :=
  s.dev.pkgs.any (fun p => p.2.queues.any (fun q => q.2.ctx == ctx && q.2.fresh) && !s.storeFull ctx p.1)

/-- Whether a sweep of a context may start: it runs, it has had an input, no launch entry is on its way in, and no core of it is
halted (R187, log 24). -/
def State.maySweep (s : State) (ctx : Nat) : Bool :=
  match s.ctx? ctx with
  | some c => c.opened && !c.stopping && !c.done && !c.released && c.pend.isEmpty && !s.anyHalted ctx && !s.launchComes ctx
  | none => false

end Sys2Proof.Machine
end

