-- ==== Sys2Proof/Machine/Place.lean ====
section
/-! DEFINITION. Placement of tasks and gangs, core grants, and the return of cores (R64, R174 to R182, R375 to R380, R401). -/

namespace Sys2Proof.Machine

/-! ## Anchors and constraints (R377) -/

/-- The hint address of a record. -/
def recHint (w : List Nat) : Option Nat := recArg w 57 55

/-- The physical address of the page of a hint, if it exists. -/
def State.hintPa (s : State) (ctx : Nat) (w : List Nat) : Option Nat :=
  match recHint w with
  | none => none
  | some va => match s.walk ctx va with
    | .ok l => if 1 ≤ l.kind ∧ l.kind ≤ 4 then some (l.pa + va % pageBytes l.size) else none
    | .error _ => none

/-- The physical address that anchors a task: the hint page, otherwise gate 0's cell. -/
def State.anchorPa (s : State) (t : Task) : Option Nat :=
  (s.hintPa t.ctx t.words).or (t.cells.head?.map (·.pa))

/-- The stack group, over the basin, that the stack of a physical address serves. -/
def paGroup (pa : Nat) : Nat := paPkg pa * 16 + paStack pa

/-- The stack group of a task's anchor. -/
def State.anchor (s : State) (t : Task) : Option Nat := (s.anchorPa t).map paGroup

/-- How a physical core ranks for a task: 0 best (R377). -/
def State.nearness (s : State) (t : Task) (p : Nat) : Nat :=
  match s.anchor t with
  | some g => if physGroup p = g then 0 else if physDie p = g / 4 then 1 else 2
  | none => if physDie p = t.die then 1 else 2

/-- Whether a confined task may go to a physical core (R377). -/
def State.confinedTo (s : State) (t : Task) (p : Nat) : Bool :=
  !t.confined || (s.anchor t).all (fun g => physGroup p == g)

/-- The effective priority of a task (R174). -/
def State.taskPrio (s : State) (t : Task) : Nat := min (recPrio t.words) (((s.ctx? t.ctx).map (·.prio)).getD 0)

/-- The place of a task in its ready queue: priority first, then its order of readiness (R376). -/
def State.readyKey (s : State) (t : Task) : Nat × Nat := (11 - min 11 (s.taskPrio t), t.readyAt)

/-- Whether a task stands before another in a ready queue. -/
def State.ahead (s : State) (a b : Task) : Bool :=
  let x := s.readyKey a
  let y := s.readyKey b
  decide (x.1 < y.1) || (x.1 == y.1 && decide (x.2 < y.2))

/-! ## Slots -/

/-- The core state that a physical core serves, when it runs there. -/
def State.coreAt (s : State) (p : Nat) : Option Core := s.work.cores.find? (fun c => c.loc == .at p)

/-- Whether a thread slot of a core state holds a thread. -/
def State.slotUsed (s : State) (core slot : Nat) : Bool :=
  s.allHarts.any (fun h => h.id == .thread core slot && h.stat != .exited)

/-- The thread slots of a core state that hold threads. -/
def State.occupied (s : State) (core : Nat) : Nat :=
  (s.allHarts.filter (fun h => h.isThread && h.coreSlot.1 == core && h.stat != .exited)).length

/-- The shared record of a gang that is not placed. -/
def State.gangRecord (s : State) (g : Nat) : Option Task :=
  s.work.tasks.find? (fun t => t.gang == some g && t.st != .exited)

/-- Whether a reservation keeps a core and slot from a task (R179, R376): one of a gang at a higher priority, or ahead of the
task at its own. A core that the task's context does not hold is kept whole. -/
def State.reserved (s : State) (t : Task) (p slot : Nat) (own : Bool) : Bool :=
  s.work.gangs.any (fun g => !g.placed && some g.num != t.gang
    && g.target.any (fun x => x.1 == p && (x.2 == slot || !own || g.ctx != t.ctx))
    && (s.gangRecord g.num).any (fun r => s.ahead r t))

/-- Whether a context may take a slot of a physical core now: the context holds the core and the slot is free, or the core is
free. -/
def State.slotFree (s : State) (ctx p slot : Nat) : Bool :=
  match (s.physAt p).st with
  | .free => true
  | .held c => (s.coreAt p).any (fun k => k.id == c && k.ctx == ctx) && !s.slotUsed c slot
  | _ => false

/-- Whether a context holds a physical core. -/
def State.holdsPhys (s : State) (ctx p : Nat) : Bool :=
  match (s.physAt p).st with
  | .held _ => (s.coreAt p).any (fun k => k.ctx == ctx)
  | _ => false

/-! ## Placing one task (R377, R378) -/

/-- Whether a task that is not in a gang may go to a slot, with its constraints and reservations. -/
def State.canTake (s : State) (t : Task) (p slot : Nat) : Bool :=
  decide (slot < 8) && physPkg p == t.die / 4 && s.confinedTo t p && s.slotFree t.ctx p slot
    && !s.reserved t p slot (s.holdsPhys t.ctx p) && !(s.physAt p).bad && !(s.physAt p).emptying

/-- The lowest slot of a physical core that a task may take. -/
def State.slotFor (s : State) (t : Task) (p : Nat) : Option Nat := (countFrom 0 8).find? (s.canTake t p)

/-- The element of a list with the least key; the first of equals. -/
def least (f : Nat → Nat) (l : List Nat) : Option Nat :=
  l.foldl (fun b x => match b with
    | none => some x
    | some y => if f x < f y then some x else some y) none

/-- The threads on a physical core. -/
def State.busyAt (s : State) (p : Nat) : Nat := ((s.coreAt p).map (fun c => s.occupied c.id)).getD 0

/-- The physical cores that a task may take, those its context holds first (R378). -/
def State.coresFor (s : State) (t : Task) : List Nat :=
  let l := (pkgPhys (t.die / 4)).filter (fun p => (s.slotFor t p).isSome)
  let held := l.filter (s.holdsPhys t.ctx)
  if held.isEmpty then l else held

/-- The best place of a task: by preference, then the fewest occupied slots (R377). -/
def State.bestPlace (s : State) (t : Task) : Option (Nat × Nat) :=
  (least (fun p => s.nearness t p * 16 + s.busyAt p) (s.coresFor t)).bind (fun p => (s.slotFor t p).map (fun k => (p, k)))

/-- The core tag of a new core state of a context in a package (R196): the lowest that none of its core states has there (log 70). -/
def State.newTag (s : State) (ctx pkg : Nat) : Nat :=
  let used := (s.work.cores.filter (fun c => c.ctx == ctx && physPkg c.loc.phys == pkg)).map (·.tag)
  ((countFrom 0 4096).find? (fun i => !used.contains i)).getD 0

/-- Grants a free physical core to a context (R378). -/
def State.grant (s : State) (ctx p : Nat) : State × Nat :=
  let id := s.work.nextCore
  let c : Core := { id := id, tag := s.newTag ctx (physPkg p), ctx := ctx, loc := .at p }
  let t := s.setPhys { s.physAt p with st := .held id, claim := none }
  ({ t with work := { t.work with cores := t.work.cores ++ [c], nextCore := id + 1 } }, id)

/-- The core state at a physical core for a context, granted if it is free. -/
def State.coreFor (s : State) (ctx p : Nat) : State × Nat :=
  match s.coreAt p with
  | some c => (s, c.id)
  | none => s.grant ctx p

/-- GANG of Table 7.6. -/
def gangWord (w : List Nat) : Nat :=
  if recGsize w = 0 then 0
  else recGtag w % 2 ^ 16 * 2 ^ 48 + recGsize w % 2 ^ 12 * 2 ^ 36 + recGx w % 16 * 2 ^ 32 + recGshape w % 8 * 2 ^ 29

/-- GOUT of Table 7.6. -/
def goutWord (gates : List (Option Nat)) : Nat :=
  packCodes 3 ((countFrom 0 4).map (fun i => (gates.getD i none).getD 7))

/-- BASE of a context's GANG region. -/
def State.gangBase (s : State) (ctx : Nat) : Nat :=
  match s.ctx? ctx with
  | some c => ((c.regions.find? (fun r => r.kind == 6)).map (·.base)).getD 0
  | none => 0

/-- The scalar registers of a thread at its start (Table 7.5). -/
def State.startRegs (s : State) (t : Task) : Vector Word 32 :=
  let w := t.words
  let n := fun (v : Nat) => BitVec.ofNat 64 v
  let x2 := match recArg w 54 52 with
    | some b => n (b + (t.rank + 1) * 0x100000)
    | none => 0
  let x28 := if t.gang.isSome then n (s.gangBase t.ctx) else 0
  let x29 := if t.gang.isSome then n t.rank else 0
  Vector.ofFn (fun i => match i.val with
    | 2 => x2
    | 28 => x28
    | 29 => x29
    | k => if 3 ≤ k ∧ k ≤ 8 then n (nth w (k - 2)) else 0)

/-- The thread of a task at its start (R182). -/
def State.startThread (s : State) (t : Task) (core slot : Nat) : Hart :=
  let c := s.ctx? t.ctx
  let r : TaskRef := { ctx := t.ctx, num := t.num, name := t.name, rank := t.rank, gang := t.gang, prio := s.taskPrio t,
                       gword := gangWord t.words, gout := goutWord t.gates, dbg := (c.map (·.dbg)).getD false }
  let h : Hart := { id := .thread core slot, pc := BitVec.ofNat 64 (bits (nth t.words 0) 56 2 * 4), x := s.startRegs t, t := { task := r } }
  if s.groupStopped t.ctx (physPkg (s.physOf core)) then h.halt else h

/-- The range-lock entries that an exited thread leaves in its slot while its operations run (R133, R137). -/
def State.leftLocks (s : State) (core slot : Nat) : List (Nat × RangeLock) :=
  (((s.hart? (.thread core slot)).map (·.t.rlt)).getD []).map (fun e => (e.1, { e.2 with left := true }))

/-- Drops an exited thread from a slot; one whose detached operations still run keeps its state, but for its range-lock entries,
under a number past the slots of the core (R137). -/
def State.vacate (s : State) (core slot : Nat) : State :=
  let id : HartId := .thread core slot
  if s.work.ops.any (fun o => o.hart == id && decide (1 ≤ o.hold) && decide (o.hold ≤ 3)) then
    let n := 8 + s.work.nextOrder
    let t := s.mapHarts (fun h => if h.id = id then { h.setLocks [] with id := .thread core n } else h)
    { t with work := { t.work with
        nextOrder := t.work.nextOrder + 1
        ops := updWhere (fun o => o.hart == id && decide (1 ≤ o.hold) && decide (o.hold ≤ 3)) (fun o => { o with thread := n }) t.work.ops } }
  else
    let t := if s.h.id = id then s.switchTo (.rill (physRill (s.physOf core))) else s
    { t with harts := t.harts.filter (fun h => h.id != id) }

/-- Puts a task on a slot of a core state, whose spill slots leave the slot's bank (R62). -/
def State.placeAt (s : State) (t : Task) (core slot : Nat) : State :=
  let s1 := s.vacate core slot
  let h := (s1.startThread t core slot).setLocks (s.leftLocks core slot)
  ((s1.putHart h).updTask t.num (fun x => { x with st := .placed core slot })).respill core

/-- Whether a task waits in a ready queue for a place of its own. -/
def State.waitsPlace (s : State) (t : Task) : Bool :=
  t.st == .ready && t.gang.isNone && (match s.ctx? t.ctx with
    | some c => !c.stopping && !c.done
    | none => false)

/-- LEVEL_CONFINEMENT_EXPIRY (R377): 20 µs after it became ready, a task is no longer confined. -/
def execLevelConfinementExpiry (s : State) : Out :=
  .next (s.updTask (s.evArg 0) (fun t => if t.st = .ready then { t with confined := false } else t))

/-! ## Gangs (R178, R179) -/

/-- The cost of a slot for a gang: nothing if it is free for the gang's context, otherwise one. -/
def State.slotCost (s : State) (t : Task) (p slot : Nat) : Nat := if s.slotFree t.ctx p slot then 0 else 1

/-- Whether a physical core is one that a gang can have at all. -/
def State.gangUsable (s : State) (p : Nat) : Bool :=
  let q := s.physAt p
  !q.bad && !q.emptying && (match q.st with
    | .free => true
    | .held _ => true
    | _ => false)

/-- How a slot ranks for a gang: one that is free before one that is not (R179), and of the free ones those of cores that its context
holds before those of cores that it would be granted (R378, log 16). -/
def State.slotRank (s : State) (t : Task) (p slot : Nat) : Nat := s.slotCost t p slot * 4096 + (!s.holdsPhys t.ctx p).toNat

/-- The slots of some physical cores for a gang, the best first. -/
def State.slotList (s : State) (t : Task) (ps : List Nat) : List (Nat × Nat) :=
  let l := (ps.filter s.gangUsable).flatMap (fun p => (countFrom 0 8).map (fun k => (p, k)))
  sortBy (fun x => s.slotRank t x.1 x.2) (l.filter (fun x => !s.reserved t x.1 x.2 (s.holdsPhys t.ctx x.1)))

/-- The packages that a gang of level 0 or 4 may use: those of its context in the pod of its record. -/
def State.podPkgs (s : State) (t : Task) : List Nat :=
  (((s.ctx? t.ctx).map (·.pkgs)).getD []).filter (fun p => p / Config.podSize == t.die / 4 / Config.podSize)

/-- The units of a level that a SET gang may use (R178, Table 7.1). -/
def State.gangUnits (s : State) (t : Task) : List (List Nat) :=
  let ps := pkgPhys (t.die / 4)
  let by_ := fun (f : Nat → Nat) => ((ps.map f).dedup).map (fun u => ps.filter (fun p => f p == u))
  match recLevel t.words with
  | 1 => ps.map (fun p => [p])
  | 2 => by_ physCluster
  | 3 => by_ physGroup
  | _ => [(s.podPkgs t).flatMap pkgPhys]

/-- The first slot of each core of a list of slots: a TORUS takes one slot of a core. -/
def onePerCore : List (Nat × Nat) → List (Nat × Nat)
  | [] => []
  | x :: l => x :: (onePerCore l).filter (fun y => y.1 != x.1)

/-- The choices of a gang: for each unit, or for each die of a TORUS, the slots in order of cost. -/
def State.gangChoices (s : State) (t : Task) : List (List (Nat × Nat)) :=
  let n := recGsize t.words
  let l := if recGshape t.words = 1 then
      (countFrom (t.die / 4 * 4) 4).map (fun d => onePerCore (s.slotList t (diePhys d)))
    else (s.gangUnits t).map (s.slotList t)
  (l.filter (fun x => decide (n ≤ x.length))).map (·.take n)

/-- How a choice ranks: by its slots that are not yet free, then by those of cores to be granted. -/
def State.choiceCost (s : State) (t : Task) (l : List (Nat × Nat)) : Nat :=
  l.foldl (fun a x => a + s.slotRank t x.1 x.2) 0

/-- The choice that needs the fewest slots not yet free (R179), and of those the fewest of free cores (R378). -/
def State.gangChoice (s : State) (t : Task) : Option (List (Nat × Nat)) :=
  let cs := s.gangChoices t
  (least (fun i => s.choiceCost t (cs.getD i [])) (countFrom 0 cs.length)).bind (fun i => cs[i]?)

/-- Puts the members on their slots, from rank `r` on; rank 0 keeps the shared record. -/
def State.placeMembers (t : Task) : Nat → List (Nat × Nat) → List Nat → State → State × List Nat
  | _, [], nums, s => (s, nums)
  | r, x :: l, nums, s =>
    let num := if r = 0 then t.num else s.work.nextTask
    let m : Task := { t with num := num, rank := r }
    let s1 := if r = 0 then s else { s with work := { s.work with tasks := s.work.tasks ++ [m], nextTask := num + 1 } }
    let c := s1.coreFor t.ctx x.1
    State.placeMembers t (r + 1) l (nums ++ [num]) (c.1.placeAt m c.2 x.2)

/-- Places a whole gang at once (R178). -/
def State.placeGang (s : State) (g : Nat) (t : Task) (l : List (Nat × Nat)) : State :=
  let r := State.placeMembers t 0 l [] s
  { r.1 with work := { r.1.work with
      gangs := updWhere (fun x => x.num == g) (fun x => { x with members := r.2, placed := true, target := [] }) r.1.work.gangs } }

/-- The ready record of a gang that is not placed and whose context runs. -/
def State.waitingGang (s : State) (g : Gang) : Option Task :=
  if g.placed then none
  else (s.gangRecord g.num).bind (fun t => if t.st = .ready ∧ (s.ctx? t.ctx).any (fun c => !c.stopping && !c.done) then some t else none)

/-- Whether a gang may have a reservation now: no gang waits at a higher priority, and every one ahead of it has its own
(R179). -/
def State.mayReserve (s : State) (t : Task) : Bool :=
  s.work.gangs.all (fun g => match s.waitingGang g with
    | none => true
    | some u => !s.ahead u t || (s.taskPrio u == s.taskPrio t && !g.target.isEmpty))

/-- Whether every slot of a set is free for a gang. -/
def State.allFree (s : State) (t : Task) (l : List (Nat × Nat)) : Bool := l.all (fun x => s.slotFree t.ctx x.1 x.2)

/-- The slots that a gang takes when it is placed: its target, or the choice now (R179). -/
def State.gangSlots (s : State) (g : Gang) (t : Task) : Option (List (Nat × Nat)) :=
  if g.target.isEmpty then s.gangChoice t else some g.target

/-- Whether a gang of the same ready queue that stands before a task could be placed now on some of the cores listed (R376). -/
def State.gangFirst (s : State) (t : Task) (ps : List Nat) : Bool :=
  s.work.gangs.any (fun g => match s.waitingGang g with
    | some u => u.die == t.die && s.ahead u t &&
      (s.gangSlots g u).any (fun l => s.allFree u l && l.any (fun x => ps.contains x.1))
    | none => false)

/-- Whether a task of the same ready queue that stands before a task could take a slot (R376). -/
def State.taskFirst (s : State) (t : Task) (p slot : Nat) : Bool :=
  s.work.tasks.any (fun u => u.die == t.die && s.waitsPlace u && s.ahead u t && s.canTake u p slot)

/-- Whether an entry of the same ready queue that stands before a task could take a slot (R376). -/
def State.overtaken (s : State) (t : Task) (p slot : Nat) : Bool := s.taskFirst t p slot || s.gangFirst t [p]

/-- PLACEMENT (R377, R378): operands are the task, the physical core and the slot. The core is one of the best for the task,
and no earlier entry of its ready queue could go there. -/
def execPlacement (s : State) : Out :=
  let p := s.evArg 1
  let slot := s.evArg 2
  match s.task? (s.evArg 0) with
  | none => .next s
  | some t =>
    let best := s.bestPlace t
    let key := fun (q : Nat) => s.nearness t q * 16 + s.busyAt q
    if s.waitsPlace t && s.canTake t p slot && (s.coresFor t).contains p && best.any (fun b => key b.1 == key p)
        && !s.overtaken t p slot then
      let c := s.coreFor t.ctx p
      .next (c.1.placeAt t c.2 slot)
    else .next s

/-- GANG_PLACEMENT (R178, R179, R376): operand 0 is the gang. It is placed whole when its slots are free and no earlier entry of
its ready queue could take one of them, or receives its
reservation; the choice among equal sets is the lowest (log 16). -/
def execGangPlacement (s : State) : Out :=
  match s.gang? (s.evArg 0) with
  | none => .next s
  | some g => match s.waitingGang g with
    | none => .next s
    | some t =>
      match s.gangSlots g t with
      | none => .next s
      | some l =>
        if s.allFree t l && !(l.any (fun x => s.taskFirst t x.1 x.2) || s.gangFirst t (l.map (·.1))) then .next (s.placeGang g.num t l)
        else if g.target.isEmpty && s.mayReserve t then
          .next { s with work := { s.work with
            gangs := updWhere (fun x => x.num == g.num) (fun x => { x with target := l }) s.work.gangs } }
        else .next s

/-! ## The return of a core (R64, R378, R401) -/

/-- Whether an operation keeps a core state from its return. -/
def Op.keepsCore (o : Op) (core : Nat) : Bool :=
  o.core == core && (!o.st.ended || o.hold == 1 || o.hold == 2 || o.hold == 3 || o.entry)

/-- Whether a core state may go back to the free pool: no thread, no operation, no reply owed. -/
def State.idleCore (s : State) (core : Nat) : Bool :=
  s.occupied core == 0 && !s.work.ops.any (fun o => o.keepsCore core) && !s.owed core

/-- Counts spare cores of a package up or down. -/
def State.addSpare (s : State) (pkg : Nat) (up : Bool) : State :=
  let k := s.pkg pkg
  s.setPkg pkg { k with mgmt := { k.mgmt with spcore := if up then k.mgmt.spcore + 1 else k.mgmt.spcore - 1 } }

/-- Retires a physical core, with its audit record (R401, R402, Table 17.7). -/
def State.retireCore (s : State) (p : Nat) : State :=
  (s.setPhys { s.physAt p with st := .retired, bad := false, emptying := false, claim := none }).auditAppend (physPkg p) 8 0 [p % 272]

/-- The rill core of the cluster that a core state leaves has served its context (R424). -/
def State.leaveCluster (s : State) (core : Nat) : State :=
  match s.core? core with
  | some c => s.servedBy c.ctx (physRill c.loc.phys)
  | none => s

/-- Removes a core state with its threads and TLB copies. -/
def State.dropCore (z : State) (core : Nat) : State :=
  let s := z.leaveCluster core
  { s with
    harts := s.harts.filter (fun h => !(h.isThread && h.coreSlot.1 == core))
    work := { s.work with cores := s.work.cores.filter (fun c => c.id != core) }
    lat := { s.lat with tlb := s.lat.tlb.filter (fun e => e.core != some core) } }

/-- Makes another hart the issuing one if a thread of a core state is: the rill core of its cluster. -/
def State.leaveCore (s : State) (core : Nat) : State :=
  match s.h.id with
  | .thread c _ => if c = core then s.switchTo (.rill (physRill (s.physOf core))) else s
  | .rill _ => s

/-- CORE_RETURN (R378, R64, R401): operand 0 is the core state; operand 1 is 1 when the self-test after the scrub finds a lasting
fault. A context that stops keeps its cores (R398). -/
def execCoreReturn (s : State) : Out :=
  let core := s.evArg 0
  match s.core? core with
  | none => .next s
  | some c => match c.loc with
    | .at p =>
      if s.idleCore core && !s.isStopping c.ctx then
        let t := (s.leaveCore core).dropCore core
        if s.evArg 1 = 1 ∨ (s.physAt p).bad then .next (t.retireCore p)
        else .next (t.setPhys { t.physAt p with st := if (s.physAt p).emptying then .emptied else .free, emptying := false, claim := none })
      else .next s
    | _ => .next s

end Sys2Proof.Machine
end

