-- ==== Sys2Proof/Machine/Move.lean ====
section
/-! DEFINITION. Moves of core states: pre-emption, drain, stream, restore, thread moves, migration and emptied cores (R213, R214,
R381 to R387, R399 to R402, R457). -/

namespace Sys2Proof.Machine

/-! ## Victims (R381) -/

/-- Work that waits for a core: a task, a gang, or a core state in a save area that is to be restored. -/
structure Need where
  kind : Nat
  id : Nat
  ctx : Nat
  prio : Nat
  pkg : Nat
  task : Option Task
  target : List Nat := []
  deriving DecidableEq, Repr

/-- A core state in a save area, with its package (R383). -/
def Core.savedIn (c : Core) : Option Nat :=
  match c.loc with
  | .saved p => some p
  | _ => none

/-- The work of a kind and a number, if it waits. -/
def State.need (s : State) (kind id : Nat) : Option Need :=
  match kind with
  | 0 => (s.task? id).bind (fun t =>
      if s.waitsPlace t then some { kind := 0, id := id, ctx := t.ctx, prio := s.taskPrio t, pkg := t.die / 4, task := some t } else none)
  | 1 => (s.gang? id).bind (fun g => (s.waitingGang g).bind (fun t =>
      if g.target.isEmpty then none
      else some { kind := 1, id := id, ctx := t.ctx, prio := s.taskPrio t, pkg := t.die / 4, task := some t,
                  target := (g.target.map (·.1)).dedup }))
  | 2 => (s.core? id).bind (fun c => c.savedIn.bind (fun p => (s.ctx? c.ctx).bind (fun x =>
      if x.stopping then none else some { kind := 2, id := id, ctx := c.ctx, prio := x.prio, pkg := p, task := none })))
  | _ => none

/-- Whether a physical core is free for work of a context. -/
def State.grantable (s : State) (p : Nat) : Bool := (s.physAt p).st == .free && !(s.physAt p).bad && !(s.physAt p).emptying

/-- Whether a reservation at a higher priority keeps a physical core from a core state that is to be restored (R179, R383). -/
def State.keptFrom (s : State) (ctx p : Nat) : Bool :=
  s.work.gangs.any (fun g => !g.placed && g.target.any (fun x => x.1 == p)
    && (s.gangRecord g.num).any (fun r => decide (((s.ctx? ctx).map (·.prio)).getD 0 < s.taskPrio r)))

/-- Whether a saved core state of a context may be restored on a physical core. -/
def State.restorable (s : State) (ctx p : Nat) : Bool := s.grantable p && !s.keptFrom ctx p

/-- Whether the work can be placed without a pre-emption, or is having a core saved for it. -/
def State.served (s : State) (n : Need) : Bool :=
  match n.kind with
  | 0 => n.task.any (fun t => (s.bestPlace t).isSome) || (pkgPhys n.pkg).any (fun p => (s.physAt p).claim == some (0, n.id))
  | 1 => false
  | _ => (pkgPhys n.pkg).any (fun p => s.restorable n.ctx p || (s.physAt p).claim == some (2, n.id))

/-- Whether a physical core meets the constraints of the work. -/
def State.meets (s : State) (n : Need) (p : Nat) : Bool :=
  match n.kind with
  | 0 => physPkg p == n.pkg && n.task.any (fun t => s.confinedTo t p && (countFrom 0 8).any (fun k => !s.reserved t p k false))
  | 1 => n.target.contains p
  | _ => physPkg p == n.pkg

/-- The forwarding entries of a physical core that are in use (R384, R214). -/
def State.fwdUsed (s : State) (p : Nat) : Nat := ((s.physAt p).fwd.filter (s.fwdOpen p)).length

/-- The context of a core that may be a victim of the work, with its priority. -/
def State.victimPrio (s : State) (n : Need) (p : Nat) : Option Nat :=
  match s.coreAt p with
  | none => none
  | some c => match s.ctx? c.ctx with
    | none => none
    | some x =>
      if x.prio < n.prio ∧ c.ctx ≠ n.ctx ∧ s.fwdUsed p < 16 ∧ s.meets n p = true then some x.prio else none

/-- How near a victim is to the work's anchor, or to the die of its record. -/
def State.victimNear (s : State) (n : Need) (p : Nat) : Nat := (n.task.map (fun t => s.nearness t p)).getD 0

/-- The packages where the work may have victims. -/
def Need.places (n : Need) : List Nat := if n.kind = 1 then n.target else pkgPhys n.pkg

/-- The victim of the work: the lowest context priority, then the nearest, then the lowest number. -/
def State.victim (s : State) (n : Need) : Option Nat :=
  least (fun p => ((s.victimPrio n p).getD 0) * 4 + s.victimNear n p) (n.places.filter (fun p => (s.victimPrio n p).isSome))

/-- Writes the pending results of every thread of a core state (R234). -/
def State.settleCore (s : State) (core : Nat) : State :=
  s.mapHarts (fun h => if h.isThread && h.coreSlot.1 == core && h.stat != .exited then h.writePending else h)

/-- A save starts: the core issues no more, and the pending results of its threads are written (R382). -/
def State.startDrain (s : State) (core p : Nat) (migrate : Bool) : State :=
  (s.settleCore core).updCore core (fun c => { c with loc := .draining p none migrate })

/-- PREEMPTION (R381): operands are the victim's physical core, and the kind and number of the work. -/
def execPreemption (s : State) : Out :=
  let p := s.evArg 0
  match s.need (s.evArg 1) (s.evArg 2) with
  | none => .next s
  | some n =>
    if !s.served n && s.victim n == some p then
      match s.coreAt p with
      | some c => .next ((s.startDrain c.id p false).setPhys { s.physAt p with claim := some (n.kind, n.id) })
      | none => .next s
    else .next s

/-! ## Drain and stream (R382, R383, R399) -/

/-- The free cores of a list that no reservation covers. -/
def State.freeOf (s : State) (l : List Nat) : Option Nat :=
  l.find? (fun p => s.grantable p && !s.work.gangs.any (fun g => !g.placed && g.target.any (fun x => x.1 == p)))

/-- Where a core state goes from a physical core: for a migration a spare of the die first (R399), then a free core of the die,
then one of another die of the package; otherwise the save area. -/
def State.streamTo (s : State) (p : Nat) (migrate : Bool) : Option Nat :=
  (if migrate then s.spareOf p else none).or
    ((s.freeOf (diePhys (physDie p))).or (s.freeOf ((pkgPhys (physPkg p)).filter (fun q => physDie q != physDie p))))

/-- The operations of a core's own engines are suspended at the drain (R213). -/
def Op.drained (o : Op) (core : Nat) : Op :=
  if o.core = core ∧ o.kind ≤ 3 ∧ o.st = .running then { o with st := .suspended } else o

/-- The streams under way from the cores of a die. -/
def State.streamsOf (s : State) (die : Nat) : Nat :=
  (s.work.cores.filter (fun c => match c.loc with
    | .streaming q _ => physDie q == die
    | _ => false)).length

/-- Whether an engine of a core has begun a unit that can run to its end (Table 15.5). -/
def State.inUnit (s : State) (o : Op) : Bool := decide (o.kind ≤ 3) && o.begun && s.goesOn o

/-- DRAIN_COMPLETE (R382, R383, R385): operand 0 is the core state. The units under way have ended, and a macro under way in the arm
sequencer has completed; a die runs up to eight streams at once. -/
def execDrainComplete (s : State) : Out :=
  let core := s.evArg 0
  match s.core? core with
  | none => .next s
  | some c => match c.loc with
    | .draining p _ mig =>
      if decide (8 ≤ s.streamsOf (physDie p)) || s.work.ops.any (fun o => o.core == core && s.inUnit o) then .next s
      else
      let dst := s.streamTo p mig
      let s1 := s.updCore core (fun x => { x with loc := .streaming p dst })
      let s2 := { s1 with work := { s1.work with ops := s1.work.ops.map (fun o => o.drained core) } }
      match dst with
      | none => .next s2
      | some d =>
        let s3 := if (s.physAt d).st = .spare then s2.addSpare (physPkg d) false else s2
        .next (s3.setPhys { s3.physAt d with st := .held core })
    | _ => .next s

/-- The messages on their way to a core state wait at a vacated core to be passed on (R384). -/
def State.holdMessages (s : State) (core p : Nat) : State :=
  { s with lat := { s.lat with net := updWhere (fun m => m.dest == .core core) (fun m => { m with via := some p }) s.lat.net } }

/-- A vacated core keeps a forwarding entry for a core state, or for a thread that has moved, while a reply that is owed to it now
has not come (R384, R214). -/
def State.addForward (s : State) (p core : Nat) (slot : Option Nat) : State :=
  let q := s.physAt p
  let e : Fwd := { core := core, slot := slot, owes := s.owing core slot }
  s.setPhys { q with fwd := (q.fwd ++ [e]).filter (s.fwdOpen p) }

/-- What becomes of a core when its state has left it (R383, R401, R402, R457). -/
def State.vacated (s : State) (p : Nat) : State :=
  let q := s.physAt p
  if q.bad then s.retireCore p
  else s.setPhys { q with st := if q.emptying then .emptied else .free, emptying := false, claim := none }

/-- STREAM_COMPLETE (R383, R384): operand 0 is the core state, whose round-robin pointers start again at 0 (R379). -/
def execStreamComplete (s : State) : Out :=
  let core := s.evArg 0
  match s.core? core with
  | none => .next s
  | some c => match c.loc with
    | .streaming p dst =>
      let loc := match dst with
        | some d => CoreLoc.at d
        | none => .saved (physPkg p)
      let s1 := (s.leaveCluster core).updCore core (fun x => { x with loc := loc, rr := Vector.replicate 12 0, last := none, lastY := false })
      let s2 := { s1 with lat := { s1.lat with tlb := s1.lat.tlb.filter (fun e => e.core != some core) } }
      .next (((s2.holdMessages core p).addForward p core none).vacated p)
    | _ => .next s

/-- RESTORE (R179, R383): operands are a saved core state and a free core of its package that no reservation at a higher priority
keeps. -/
def execRestore (s : State) : Out :=
  let core := s.evArg 0
  let p := s.evArg 1
  match (s.core? core).bind Core.savedIn with
  | none => .next s
  | some k =>
    if physPkg p == k && (s.core? core).any (fun c => s.restorable c.ctx p && !s.isStopping c.ctx) then
      .next ((s.updCore core (fun c => { c with loc := .at p, rr := Vector.replicate 12 0, last := none, lastY := false, spared := false })).setPhys
        { s.physAt p with st := .held core, claim := none })
    else .next s

/-! ## Thread moves (R387) -/

/-- How a thread move renames threads and operations. -/
structure Ren where
  core : Nat
  slot : Nat
  dst : Nat
  dslot : Nat
  deriving DecidableEq, Repr

/-- Whether an operation is named by a token of the moving thread. -/
def State.movesOp (s : State) (r : Ren) (core slot gen : Nat) : Bool :=
  s.work.ops.any (fun o => o.is core slot gen && o.core == r.core && o.thread == r.slot && decide (o.hold < 4))

/-- A core of an operation's name after the move. -/
def State.renCore (s : State) (r : Ren) (core slot gen : Nat) : Nat := if s.movesOp r core slot gen then r.dst else core

/-- An issuer after the move. -/
def State.renWho (s : State) (r : Ren) (w : Who) : Who :=
  match w with
  | .thread c k => if c = r.core ∧ k = r.slot then .thread r.dst r.dslot else w
  | .op c k g u => .op (s.renCore r c k g) k g u
  | _ => w

/-- A message body after the move. -/
def State.renBody (s : State) (r : Ren) (b : Body) : Body :=
  let mem := fun (m : Member) => { m with who := s.renWho r m.who }
  let core := s.renCore r
  match b with
  | .lat q => .lat { q with members := q.members.map mem }
  | .ack m => .ack (mem m)
  | .refuse m l f t a b => .refuse (mem m) l f t a b
  | .wake m o v => .wake (mem m) o v
  | .data m p l v c d => .data (mem m) p l v c d
  | .pageFault c va a w t => .pageFault c va a (s.renWho r w) t
  | .resume c va w k => .resume c va (s.renWho r w) k
  | .engine c k g => .engine (core c k g) k g
  | .cancel c k g => .cancel (core c k g) k g
  | .redirect c k g => .redirect (core c k g) k g
  | .redirectAck c k g => .redirectAck (core c k g) k g
  | .opReply c k g a b => .opReply (core c k g) k g a b
  | .cpyrRequest c k g => .cpyrRequest (core c k g) k g
  | .ready c k g p x y => .ready (core c k g) k g p x y
  | .bankcall c k g => .bankcall (core c k g) k g
  | .gateWake t g o => .gateWake t g o
  | .rill m => .rill m

/-- Whether a body is for the moving thread or one of its operations. -/
def State.forMoved (s : State) (r : Ren) (b : Body) : Bool :=
  let who := fun (w : Who) => s.renWho r w != w
  match b with
  | .ack m => who m.who
  | .refuse m _ _ _ _ _ => who m.who
  | .wake m _ _ => who m.who
  | .data m _ _ _ _ _ => who m.who
  | .resume _ _ w _ => who w
  | .engine c k g => s.movesOp r c k g
  | .cancel c k g => s.movesOp r c k g
  | .redirect c k g => s.movesOp r c k g
  | .redirectAck c k g => s.movesOp r c k g
  | .opReply c k g _ _ => s.movesOp r c k g
  | .ready c k g _ _ _ => s.movesOp r c k g
  | _ => false

/-- A message after the move. -/
def State.renMsg (s : State) (r : Ren) (m : Msg) : Msg :=
  let d := match m.dest with
    | .core c => if c = r.core ∧ s.forMoved r m.body = true then Dest.core r.dst else m.dest
    | d => d
  { m with src := s.renWho r m.src, dest := d, body := s.renBody r m.body }

/-- An operation after the move. -/
def State.renOp (s : State) (r : Ren) (o : Op) : Op :=
  let n := fun (x : Nat × Nat × Nat) => (s.renCore r x.1 x.2.1 x.2.2, x.2.1, x.2.2)
  { o with core := s.renCore r o.core o.slot o.gen, thread := if o.core = r.core ∧ o.thread = r.slot ∧ o.hold < 4 then r.dslot else o.thread,
           aft := o.aft.map n }

/-- A queued unit of a bank call after the move. -/
def State.renUnit (s : State) (r : Ren) (u : BqUnit) : BqUnit :=
  { u with op := u.op.map (fun x => (s.renCore r x.1 x.2.1 x.2.2, x.2.1, x.2.2)) }

/-- The line registers of a bank call after the move. -/
def State.renCall (s : State) (r : Ren) (c : CallAcc) : CallAcc :=
  { c with op := c.op.map (fun x => (s.renCore r x.1 x.2.1 x.2.2, x.2.1, x.2.2)) }

/-- An access that a core holds, after the move. -/
def State.renLater (s : State) (r : Ren) (l : Later) : Later :=
  match l.what with
  | .send outs => { l with what := .send (outs.map (fun o =>
      { o with req := { o.req with members := o.req.members.map (fun m => { m with who := s.renWho r m.who }) } })) }
  | _ => l

/-- The moving thread after the move: its own range-lock entries go with it. -/
def State.renThread (s : State) (r : Ren) (h : Hart) : Hart :=
  let g := h.setLocks h.ownLocks
  { g.setPost { g.t.post with later := g.t.post.later.map (s.renLater r) } with id := .thread r.dst r.dslot }

/-- A hart after the move. -/
def State.renHart (s : State) (r : Ren) (h : Hart) : Hart :=
  let g := { h with r := { h.r with bq := h.r.bq.map (s.renUnit r) } }
  if h.id = .thread r.core r.slot then s.renThread r g else g

/-- The operations that go with the moving thread. -/
def State.movedOps (s : State) (r : Ren) : List Op :=
  s.work.ops.filter (fun o => o.core == r.core && o.thread == r.slot && decide (o.hold < 4))

/-- The slots of the token table that an operation of the moving thread holds; one that is detached holds none (R205). -/
def State.movedSlots (s : State) (r : Ren) : List (Nat × Nat) :=
  ((s.movedOps r).filter (fun o => o.hold == 0)).map (fun o => (o.slot, o.gen))

/-- The tags that the tokens of the moving thread bear: the origin's, or one that it admits for the slot (R196, R387). -/
def State.movedTags (s : State) (r : Ren) : List (Nat × Nat) :=
  match s.core? r.core with
  | none => []
  | some c => (s.movedSlots r).map (fun x => ((c.tags.find? (fun y => y.1 == x.1)).getD (x.1, c.tag)))

/-- Renames a thread everywhere (R387). The destination admits the origin's tag for the slots that come, and numbers the regions
that it arms past the origin's. -/
def State.rename (s : State) (r : Ren) : State :=
  let msg := s.renMsg r
  let unit := fun (u : LUnit) => { u with parked := u.parked.map msg, held := u.held.map msg }
  let part := fun (c : CollPart) => { c with op := s.renOp r c.op }
  let arms := ((s.core? r.core).map (·.arms)).getD 0
  let gens := fun (c : Core) => if c.id = r.dst then
      { c with gens := (s.movedSlots r).foldl (fun l x => assocSet x.1 x.2 l) c.gens
               tags := c.tags ++ (s.movedTags r).filter (fun x => x.2 != c.tag)
               arms := max c.arms arms }
    else if c.id = r.core then
      { c with gens := (s.movedSlots r).foldl (fun l x => assocSet x.1 ((x.2 + 1) % 65536) l) c.gens }
    else c
  { s with
    h := s.renHart r s.h
    harts := s.harts.map (s.renHart r)
    lat := { s.lat with
      net := s.lat.net.map msg
      units := s.lat.units.map unit
      waiting := s.lat.waiting.map msg
      landParked := s.lat.landParked.map msg
      faults := s.lat.faults.map msg
      writeBacks := s.lat.writeBacks.map (fun w =>
        if w.hart = .thread r.core r.slot then { w with hart := .thread r.dst r.dslot } else w) }
    work := { s.work with
      ops := s.work.ops.map (s.renOp r)
      gangs := s.work.gangs.map (fun g => { g with colls := g.colls.map part })
      tasks := updWhere (fun t => t.st == .placed r.core r.slot) (fun t => { t with st := .placed r.dst r.dslot }) s.work.tasks
      cores := s.work.cores.map gens
      phys := s.work.phys.map (fun p => { p with fwd := p.fwd.map (fun e =>
        if e.core = r.core ∧ e.slot = some r.slot then { e with core := r.dst, slot := some r.dslot } else e) }) }
    dev := { s.dev with banks := s.dev.banks.map (fun b =>
      (b.1, { b.2 with cur := b.2.cur.map (s.renUnit r), calls := b.2.calls.map (s.renCall r) })) } }

/-- Whether a hart is blocked in WINALLOC for lack of granules. -/
def State.wantsSpace (s : State) (h : Hart) : Option (Nat × Nat) :=
  match h.stat with
  | .waiting (.space b n) => if s.waitOver h (.space b n) then none else some (b, n)
  | _ => none

/-- Whether a hart is parked (Table 7.4). -/
def Hart.isParked (h : Hart) : Bool :=
  match h.stat with
  | .waiting w => w.counted && !w.isHeld
  | _ => false

/-- The bytes of a buffer that a hart's windows take. -/
def Hart.bytesIn (h : Hart) (buf : Nat) : Nat := ((h.t.scr.wins.filter (fun w => w.buf == buf)).map (·.len)).sum

/-- Whether the windows of a core's parked threads free enough granules of a buffer for a window of a length. -/
def State.parkedFree (s : State) (core buf len : Nat) : Bool :=
  let parked := s.allHarts.filter (fun h => h.isThread && h.coreSlot.1 == core && h.isParked)
  decide (s.bufUsed core buf + len ≤ viewSize buf + (parked.map (fun h => h.bytesIn buf)).sum)

/-- Whether a thread may be the one that moves: it waits for granules itself, or it is parked, holds windows in a buffer that
another thread of the core waits for, and the core's parked threads free enough of it. -/
def State.mayMove (s : State) (h : Hart) : Bool :=
  (s.wantsSpace h).isSome || (h.isParked && s.allHarts.any (fun g => g.isThread && g.coreSlot.1 == h.coreSlot.1 &&
    (s.wantsSpace g).any (fun w => decide (0 < h.bytesIn w.1) && s.parkedFree h.coreSlot.1 w.1 w.2)))

/-- Whether a core state has room for a moving thread's windows and for the one it waits for. -/
def State.roomFor (s : State) (core : Nat) (h : Hart) : Bool :=
  (countFrom 0 3).all (fun b =>
    let own := h.t.scr.wins.foldl (fun a w => if w.buf = b then a + w.len else a) 0
    let more := ((s.wantsSpace h).map (fun w => if w.1 = b then w.2 else 0)).getD 0
    s.hasRoom core b (own + more))

/-- Whether a core state's token table can take the operations of a moving thread: their slots are free, and no operation there has
the name of one of them. -/
def State.slotsFit (s : State) (r : Ren) : Bool :=
  (s.movedSlots r).all (fun x => s.slotOpen r.dst x.1) && (s.movedOps r).all (fun o => (s.op? r.dst o.slot o.gen).isNone)

/-- Whether the range-lock entries that an exited thread has left in the destination's slot fit beside those of the moving thread. -/
def State.locksFit (s : State) (r : Ren) (h : Hart) : Bool := decide (h.ownLocks.length + (s.leftLocks r.dst r.dslot).length ≤ 4)

/-- Whether a core state can take a moving thread: it runs in the same context, its slot and token slots are free, no reservation
that stands before the thread covers the slot (R179), and it has room. -/
def State.canReceive (s : State) (r : Ren) (h : Hart) : Bool :=
  match s.core? r.dst with
  | none => false
  | some c => s.isPlaced r.dst && c.ctx == h.task.ctx && r.dst != r.core && r.dslot == r.slot && !s.slotUsed r.dst r.dslot
      && (s.task? h.task.num).all (fun t => !s.reserved t (s.physOf r.dst) r.dslot true)
      && s.slotsFit r && s.locksFit r h && s.roomFor r.dst h

/-- Makes a core state in the save area, with a tag of its own (R196), for a thread that no core has room for. -/
def State.saveFor (s : State) (c : Core) : State :=
  let p := physPkg c.loc.phys
  let n : Core := { id := s.work.nextCore, tag := s.newTag c.ctx p, ctx := c.ctx, loc := .saved p, spared := true }
  { s with work := { s.work with cores := s.work.cores ++ [n], nextCore := s.work.nextCore + 1 } }

/-- The spill slots of a thread that has come to a core get places there (R62, R387). -/
def State.moveSpill (s : State) (core slot : Nat) : State :=
  let id : HartId := .thread core slot
  let slots := ((s.hart? id).map (fun h => h.t.scr.spillMap.map (·.1))).getD []
  let t := s.updHart id (fun h => h.setScr { h.t.scr with spillMap := [] })
  (slots.foldl (fun u k => u.updHart id (fun h => h.putSpill k (u.spillPlace core))) t).respill core

/-- Range-lock entries beside those of a list, in the lowest numbers that it leaves free. -/
def besideLocks (own : List (Nat × RangeLock)) (l : List RangeLock) : List (Nat × RangeLock) :=
  l.foldl (fun a e => a ++ [(((countFrom 0 4).find? (fun i => !a.any (fun x => x.1 == i))).getD 0, e)]) own

/-- What exited threads have left in the slots of a move stays there (R137): the entries of the destination's slot beside those of
the moving thread, those of the origin's slot with a thread that has exited. -/
def State.keepLocks (s : State) (r : Ren) (at_ from_ : List (Nat × RangeLock)) : State :=
  let t := s.updHart (.thread r.dst r.dslot) (fun h => h.setLocks (sortLocks (besideLocks h.ownLocks (at_.map (·.2)))))
  let ghost : Hart := { id := .thread r.core r.slot, stat := .exited }
  if from_.isEmpty then t else { t with harts := t.harts ++ [ghost.setLocks from_] }

/-- Moves a thread, with a forwarding entry at its origin. `at_` are the range-lock entries that the destination's slot keeps. -/
def State.moveThread (s : State) (r : Ren) (p : Nat) (at_ : List (Nat × RangeLock)) : State :=
  let from_ := (((s.hart? (.thread r.core r.slot)).map (·.t.rlt)).getD []).filter (·.2.left)
  let drain := fun (o : Op) => if o.core = r.core ∧ o.thread = r.slot ∧ o.kind ≤ 3 ∧ o.st = .running then { o with st := .suspended } else o
  let s1 := ({ s with work := { s.work with ops := s.work.ops.map drain } } : State).updHart (.thread r.core r.slot) Hart.writePending
  (((s1.rename r).keepLocks r at_ from_).moveSpill r.dst r.dslot).addForward p r.dst (some r.dslot)

/-- THREAD_MOVE (R387): operands are the core state, the slot, the destination's core state and its slot. A destination that no
core state has is the save area. The origin has a forwarding entry free (R384). -/
def execThreadMove (s : State) : Out :=
  let r : Ren := { core := s.evArg 0, slot := s.evArg 1, dst := s.evArg 2, dslot := s.evArg 3 }
  match s.core? r.core, s.hart? (.thread r.core r.slot) with
  | some c, some h => match c.loc with
    | .at p =>
      if !s.mayMove h || s.isStopping c.ctx || decide (16 ≤ s.fwdUsed p)
          || s.work.ops.any (fun o => o.core == r.core && o.thread == r.slot && s.inUnit o) then .next s
      else if s.canReceive r h then .next (((s.vacate r.dst r.dslot).moveThread r p (s.leftLocks r.dst r.dslot)).flushCtx h.task.ctx)
      else if (s.core? r.dst).isNone && !s.work.cores.any (fun d => s.canReceive { r with dst := d.id, dslot := r.slot } h) then
        .next ((s.saveFor c).moveThread { r with dst := s.work.nextCore, dslot := r.slot } p [])
      else .next s
    | _ => .next s
  | _, _ => .next s

/-! ## Migration and emptied cores (R399, R401, R402, R457) -/

/-- MIGRATION (R384, R399): operand 0 is the core state; its core has a lasting fault or is to be emptied, and a forwarding entry
is free. -/
def execMigration (s : State) : Out :=
  let core := s.evArg 0
  match s.core? core with
  | none => .next s
  | some c => match c.loc with
    | .at p =>
      if ((s.physAt p).bad || (s.physAt p).emptying) && decide (s.fwdUsed p < 16) then .next (s.startDrain core p true) else .next s
    | _ => .next s

/-- CORE_EMPTY_REQUEST (R457): operand 0 is the physical core; one that holds no state is emptied at once. -/
def execCoreEmptyRequest (s : State) : Out :=
  let p := s.evArg 0
  let q := s.physAt p
  match q.st with
  | .held c => .next ((s.setPhys { q with emptying := true }).due .migration [c])
  | .free => .next (s.setPhys { q with st := .emptied })
  | _ => .next s

/-- CORE_RETURN_TO_SERVICE (R457): operands are the emptied core, and 1 if its test fails. -/
def execCoreReturnToService (s : State) : Out :=
  let p := s.evArg 0
  let q := s.physAt p
  if q.st = .emptied then
    if s.evArg 1 = 1 then .next (s.retireCore p)
    else .next ((s.setPhys { q with st := .spare }).addSpare (physPkg p) true)
  else .next s

end Sys2Proof.Machine
end

