-- ==== Sys2Proof/Machine/CtxEv.lean ====
section
/-! DEFINITION. Context fault records, the status word, stops, completion, and the quiescence sweep (R184, R186 to R188, R395 to
R398, R416). -/

namespace Sys2Proof.Machine

/-! ## The fault log (R396) -/

/-- Records that a fault log holds (R396). -/
def logSize : Nat := 4096

/-- Appends a record to a context's fault log, with its SEQ; one past the log's size is only counted (R396). -/
def Ctx.append (c : Ctx) (r : List Nat) : Ctx :=
  { c with
    nfault := (c.nfault + 1) % 2 ^ 32
    log := if c.log.length < logSize then c.log ++ [r.set 0 (nth r 0 + c.log.length)] else c.log }

/-- Threads of a stopping context issue no more (R398); halted ones stay halted (Table 16.8). -/
def Hart.stopIssue (h : Hart) : Hart :=
  match h.stat with
  | .ready => { h with stat := .stopped }
  | .waiting _ => { h with stat := .stopped }
  | _ => h

/-- A context begins to stop (R398). -/
def State.stopCtx (s : State) (ctx : Nat) : State :=
  (s.updCtx ctx (fun c => { c with stopping := true })).mapHarts
    (fun h => if h.isThread && h.task.ctx == ctx then h.stopIssue else h)

/-- A context fault stops the halt group of its context on the package where it arose, if ONFLT is set (R403). -/
def State.onFault (s : State) (ctx : Nat) (r : List Nat) : State :=
  let p := bits (nth r 0) 55 38
  match s.ctx? ctx with
  | some c =>
    let g : HaltGroup := (s.pkg p).halts.getD c.hgrp {}
    if c.dbg && g.onflt && !g.stop then s.stopGroup p c.hgrp 5 0 else s
  | none => s

/-- CONTEXT_FAULT_RECORD (R396): operand 0 is the context. -/
def execContextFaultRecord (s : State) : Out :=
  let ctx := s.evArg 0
  match s.ctx? ctx with
  | none => .next s
  | some c => match c.pend with
    | [] => .next s
    | (r, stop) :: rest =>
      let s1 := (s.updCtx ctx (fun x => ({ x with pend := rest } : Ctx).append r)).onFault ctx r
      .next (if stop then s1.stopCtx ctx else s1)

/-! ## The status word and the notification (R397, R416) -/

/-- Whether a halt group holds a core of a context stopped (Table 16.5). -/
def State.ctxHeld (s : State) (ctx : Nat) : Bool :=
  s.work.cores.any (fun c => c.ctx == ctx && s.groupStopped ctx (physPkg c.loc.phys))

/-- The status word of a context (Table 16.5). -/
def State.statusWord (s : State) (c : Ctx) : Nat :=
  c.nfault * 2 ^ 32 + (s.ctxHeld c.handle).toNat * 32 + c.stopped.toNat * 16 + c.done.toNat * 8 + c.quiet.toNat * 4
    + c.detrel.toNat * 2 + (c.nfault != 0).toNat

/-- Writes to host memory. -/
def State.hostPut (s : State) (a : Nat) (ws : List Nat) : State :=
  { s with dev := { s.dev with host := Mem.writeWords s.dev.host a ws } }

/-- The notification of R397 (R416). -/
def State.notify (s : State) (ctx : Nat) : State :=
  match s.ctx? ctx with
  | some c => s.hostPut c.compl [ctx, s.statusWord c]
  | none => s

/-! ## Stopped and complete (R184, R398) -/

/-- Whether a core state of a context is between cores: its save is not aborted (R386). -/
def State.moving (s : State) (ctx : Nat) : Bool :=
  s.work.cores.any (fun c => c.ctx == ctx && (match c.loc with
    | .draining _ _ _ => true
    | .streaming _ _ => true
    | _ => false))

/-- CONTEXT_STOPPED (R398): operand 0 is the context; no sweep runs while a core of it is halted (Table 16.8), and a save under way
completes first (R386). -/
def execContextStopped (s : State) : Out :=
  let ctx := s.evArg 0
  match s.ctx? ctx with
  | none => .next s
  | some c =>
    if c.stopping && !c.stopped && !c.done && !s.anyHalted ctx && !s.inFlight ctx && !s.moving ctx then
      .next ((s.updCtx ctx (fun x => { x with stopped := true })).notify ctx)
    else .next s

/-- The number of an orphan within its child: those of lower ranks come first (R206). -/
def State.orphanNo (s : State) (o : Op) : Nat :=
  match s.task? o.task with
  | none => o.orphan.getD 0
  | some t => (s.work.tasks.filter (fun u => u.gang.isSome && u.gang == t.gang && decide (u.rank < t.rank))).foldl
      (fun a u => a + u.orphans) (o.orphan.getD 0)

/-- The records that a context reports at completion: failed and cancelled orphans, and detached records (R184, Table 16.4). -/
def State.orphanRecords (s : State) (ctx : Nat) : List (List Nat) :=
  (s.work.ops.filter (fun o => o.ctx == ctx && ((o.hold == 4 && o.st != .done) || o.hold == 5))).map (fun o =>
    faultRec 9 o.pkg (((s.task? o.task).map (·.name)).getD 0) o.record.2 0 0 0 o.record.1
      (if o.hold = 5 then 2 ^ 64 - 1 else s.orphanNo o) 0)

/-- Whether a context is complete (R184): it has had an input (log 24), every task has exited, every operation has ended, no
message of it is in flight, and its queues and windows are closed. -/
def State.isComplete (s : State) (ctx : Nat) : Bool :=
  match s.ctx? ctx with
  | none => false
  | some c =>
    c.opened && !c.stopping && !c.done && !c.released && c.pend.isEmpty
      && s.work.tasks.all (fun t => t.ctx != ctx || t.st == .exited)
      && s.work.ops.all (fun o => o.ctx != ctx || (o.st.ended && decide (4 ≤ o.hold)))
      && s.lat.net.all (fun m => m.ctx != ctx) && !s.lat.units.any (fun u => u.held.any (fun m => m.ctx == ctx))
      && !s.inputsOpen ctx

/-- CONTEXT_COMPLETE (R184): operand 0 is the context. -/
def execContextComplete (s : State) : Out :=
  let ctx := s.evArg 0
  if s.isComplete ctx then
    let rs := s.orphanRecords ctx
    let t := s.updCtx ctx (fun c => { rs.foldl Ctx.append c with done := true })
    .next ((rs.foldl (fun u r => u.onFault ctx r) t).notify ctx)
  else .next s

/-! ## The sweep (R187, R188) -/

/-- Whether ready work of a context waits for the device: it can be placed, or cores that another context holds may come free
(log 25); or a thread that was saved for want of granules can be restored (R387). -/
def State.placePending (s : State) (ctx : Nat) : Bool :=
  let others := fun (p : Nat) => match (s.physAt p).st with
    | .held c => (s.core? c).any (fun k => k.ctx != ctx)
    | _ => false
  s.work.tasks.any (fun t => t.ctx == ctx && t.st == .ready &&
      (if t.gang.isSome then (s.gangChoice t).any (fun l => s.allFree t l) else (s.bestPlace t).isSome))
    || (s.work.tasks.any (fun t => t.ctx == ctx && t.st == .ready) && s.work.phys.any (fun p => others p.n))
    || s.work.cores.any (fun c => c.ctx == ctx && c.savedIn.any (fun k => (pkgPhys k).any (s.restorable ctx))
      && (s.threadsOf ctx).any (fun h => h.coreSlot.1 == c.id && (s.wantsSpace h).isSome))

/-- QUIESCENCE_SWEEP (R187, R188): operand 0 is the context. With its inputs closed a quiescent context that is not complete can no
longer progress. -/
def execQuiescenceSweep (s : State) : Out :=
  let ctx := s.evArg 0
  if s.maySweep ctx && s.quiescent ctx && !s.placePending ctx && !s.moving ctx then
    if s.inputsOpen ctx then .next (s.updCtx ctx (fun c => { c with quiet := true }))
    else if s.isComplete ctx then .next s
    else .next (s.raiseDeadlock ctx)
  else .next s

end Sys2Proof.Machine
end

