-- ==== Sys2Proof/Machine/Queue.lean ====
section
/-! DEFINITION. Host launch queues: descriptors, notifies, slots, and launch entries (R172, R173, R369 to R375). -/

namespace Sys2Proof.Machine

/-! ## Descriptors (Table 15.1) -/

/-- Whether a handle names a live context: one that has been created and not released. -/
def State.live (s : State) (ctx : Nat) : Bool := (s.ctx? ctx).any (fun c => !c.released)

/-- A context has had a host input opened (log 24). -/
def State.markOpened (s : State) (ctx : Nat) : State := s.updCtx ctx (fun c => { c with opened := true })

/-- A launch queue after a write of word 0 (R369). -/
def Queue.writeBase (q : Queue) (v : Nat) : Queue :=
  if q.v then q else { q with base := bits v 63 12, log2n := bits v 3 0 }

/-- A launch queue after a write of word 1; `live` says whether CTX of the word names a live context (R369, R374). -/
def Queue.writeCtl (q : Queue) (v : Nat) (live : Bool) : Queue :=
  let ctx := if q.v then q.ctx else bits v 43 32
  if v.testBit 0 = false then
    { q with v := false, head := 0, tail := 0, err := false, opn := v.testBit 1, ctx := ctx, bound := none,
             entry := none }
  else { q with v := q.v || (decide (4 ≤ q.log2n) && live), opn := v.testBit 1, ctx := ctx }

/-- The words of a descriptor as they read (Table 15.1). -/
def Queue.words (q : Queue) : List Nat :=
  [q.base % 2 ^ 52 * 4096 + q.log2n % 16, q.ctx % 4096 * 2 ^ 32 + q.opn.toNat * 2 + q.v.toNat,
   q.err.toNat * 2 ^ 32 + q.tail % 65536 * 65536 + q.head % 65536, 0]

/-- Takes a queue out of the list of pending queues of its package. -/
def State.unpend (s : State) (q : Nat) : State :=
  let k := s.pkg (q / 1024)
  s.setPkg (q / 1024) { k with pending := k.pending.filter (· != q % 1024) }

/-- A write of word 1 of a launch queue. -/
def State.writeQueue (s : State) (q v : Nat) : State :=
  let a := s.queue q
  let b := a.writeCtl v (s.live (bits v 43 32))
  let s1 := s.setQueue q b
  let s2 := if b.v then s1 else s1.unpend q
  let s3 := if b.v && b.opn then s2.markOpened b.ctx else s2
  s3.hostInput b.ctx

/-- QUEUE_ENABLE (R369): operands are the queue, over the basin, and word 1 with V = 1; word 0 has been written before. -/
def execQueueEnable (s : State) : Out :=
  if (s.evArg 1).testBit 0 then .next (s.writeQueue (s.evArg 0) (s.evArg 1)) else .next s

/-- QUEUE_DISABLE (R369): operands are the queue and word 1 with V = 0. -/
def execQueueDisable (s : State) : Out :=
  if (s.evArg 1).testBit 0 then .next s else .next (s.writeQueue (s.evArg 0) (s.evArg 1))

/-- QUEUE_CLOSE (R374): operand 0 is the queue; OPEN is written 0 and the rest of word 1 as it is. -/
def execQueueClose (s : State) : Out :=
  let q := s.queue (s.evArg 0)
  .next (s.writeQueue (s.evArg 0) (q.ctx % 4096 * 2 ^ 32 + q.v.toNat))

/-! ## Notifies (R370) -/

/-- A queue after a notify that it takes (R370). One that fails keeps its slot: no case of R373 unbinds it. -/
def Queue.notify (q : Queue) (t : Nat) : Queue :=
  let n := 2 ^ q.log2n
  let d := genDist t q.head
  let e := genDist t q.tail
  if n < d ∨ n < e then { q with err := true } else { q with tail := t }

/-- Whether a queue is one that a slot may serve (R373, R374, log 26). -/
def Queue.waits (q : Queue) : Bool := q.v && !q.err && q.head != q.tail

/-- A queue that waits and is neither bound nor in the list joins the list of its package (R373). -/
def State.join (s : State) (q : Nat) : State :=
  let k := s.pkg (q / 1024)
  let a := s.queue q
  if a.waits && a.bound.isNone && !k.pending.contains (q % 1024) then
    s.setPkg (q / 1024) { k with pending := k.pending ++ [q % 1024] }
  else s

/-- Entries that a bound queue consumes before others that wait may have its slot (R373). -/
def queueShare : Nat := 256

/-- The bound queues of a package that have had their share. -/
def Pkg.sated (k : Pkg) : List Nat := (k.queues.filter (fun x => x.2.bound.any (fun n => decide (queueShare ≤ n)))).map (·.1)

/-- Unbinds the queues that have had their share, if any queue waits; those still pending join the list at its tail (R373). -/
def State.shareSlots (s : State) (p : Nat) : State :=
  if (s.pkg p).pending.isEmpty then s
  else (s.pkg p).sated.foldl (fun t i =>
    (t.setQueue (p * 1024 + i) { t.queue (p * 1024 + i) with bound := none }).join (p * 1024 + i)) s

/-- A queue joins the list, which may cost others their slots (R373). -/
def State.pend (s : State) (q : Nat) : State := (s.join q).shareSlots (q / 1024)

/-- The queue whose notify register lies at an offset of BAR2: one a page, at its start (R370). -/
def notifyQueue (p o : Nat) : Option Nat := if o % 4096 = 0 ∧ o / 4096 < 1024 then some (p * 1024 + o / 4096) else none

/-- What BAR2 reads as: TAIL of a notify register is WO and the rest of its page is reserved, so zero (R13, Table 15.2). -/
def readNotify (_p _o : Nat) : Nat := 0

/-- NOTIFY (R370): operands are the package, the offset in BAR2, and the value written; one that equals TAIL has no effect. -/
def execNotify (s : State) : Out :=
  match notifyQueue (s.evArg 0) (s.evArg 1) with
  | none => .next s
  | some q =>
    let a := s.queue q
    if !a.v || !a.opn || a.err then .next s
    else
      let b := a.notify (s.evArg 2 % 65536)
      if b = a then .next s
      else
        let s1 := (s.setQueue q b).hostInput b.ctx
        .next (if b.err then s1.unpend q else s1.pend q)

/-- Slots of a package (R373). -/
def queueSlots : Nat := 32

/-- QUEUE_BIND (R373): operand 0 is the package. -/
def execQueueBind (s : State) : Out :=
  let p := s.evArg 0
  let k := s.pkg p
  match k.pending with
  | [] => .next s
  | i :: rest =>
    if (k.queues.filter (fun q => q.2.bound.isSome)).length < queueSlots then
      let q := p * 1024 + i
      .next ((s.setPkg p { k with pending := rest }).setQueue q { s.queue q with bound := some 0 })
    else .next s

/-! ## Launch entries (R371, R372, Table 15.4) -/

/-- What the checks of an entry end in: accepted with its gates, a code with TCODE and ADDR, or a wait. -/
inductive Launch where
  | accept (gs : List Gate)
  | code (code tcode addr : Nat)
  | wait
  deriving DecidableEq, Repr

/-- A translation for a launch entry: an ABSENT page is created at once (R31); one that waits for SEAL or for a frame waits. -/
def State.launchAccess (s : State) (die ctx va : Nat) (a : Acc) : State × TRes :=
  let r := s.translate none die ctx 0 va a
  match r.2 with
  | .fault 1 => match s.regionOf ctx va with
    | none => (r.1, .fault 3)
    | some g =>
      if g.kind = 4 then (r.1, .wait)
      else if g.kind = 1 then (r.1, .fault 6)
      else match r.1.createPage ctx g va 0 (die / 4) (die % 4 * 4) with
        | none => (r.1, .wait)
        | some t => t.translate none die ctx 0 va a
  | _ => r

/-- The code of a translation fault of a launch entry: protection for PROT and OWNER. -/
def launchFault (c va : Nat) : Launch := .code (if c = 6 ∨ c = 7 then 4 else 3) c va

/-- A line that the checks of a launch entry read is lost (R90): the context stops, and the entry waits in its queue. -/
def State.launchLoss (s : State) (die ctx va pa n : Nat) : State := s.raiseLoss ctx (die / 4) 0 va 0 (s.lossD0 pa n)

/-- Reads `n` gate entries from an address; they must lie in CONST pages (R172). -/
def State.launchEntries (s : State) (die ctx : Nat) : Nat → Nat → List (List Nat) → State × (Launch ⊕ List (List Nat))
  | 0, _, es => (s, .inr es)
  | n + 1, va, es =>
    let r := s.launchAccess die ctx va .fetch
    match r.2 with
    | .ok _ pa =>
      if r.1.isLost pa 32 then (r.1.launchLoss die ctx va pa 32, .inl .wait)
      else r.1.launchEntries die ctx n (va + 32) (es ++ [Mem.words r.1.mem pa 4])
    | .wait => (r.1, .inl .wait)
    | .lost e => (r.1.launchLoss die ctx va e 16, .inl .wait)
    | .fault c => (r.1, .inl (launchFault c va))

/-- Orders 9 to 11 of R173 for a launch entry. -/
def State.launchGates (s : State) (die ctx : Nat) : List (List Nat) → List Gate → State × Launch
  | [], gs => (s, .accept gs)
  | e :: l, gs =>
    let g := gateOf e
    if gateBad e then (s, .code 5 0 0)
    else
      let r := s.launchAccess die ctx g.cell .latRead
      match r.2 with
      | .wait => (r.1, .wait)
      | .lost e => (r.1.launchLoss die ctx g.cell e 16, .wait)
      | .fault c => (r.1, launchFault c g.cell)
      | .ok lf pa =>
        if lf.kind ≠ 3 then (r.1, launchFault 6 g.cell)
        else
          let g' := { g with pa := pa, ty := lf.ctype, sz := lf.csize }
          if g'.badTrigger then (r.1, .code 6 0 0) else r.1.launchGates die ctx l (gs ++ [g'])

/-- The checks of an entry's words (R372, R173). -/
def State.judgeEntry (s : State) (die ctx : Nat) (w : List Nat) : State × Launch :=
  let gb := (recArg w 60 58).getD 0
  if (w.drop 11).any (· != 0) then (s, .code 7 0 0)
  else if recordBad (w.take 8) then (s, .code 5 0 0)
  else if gb % 32 ≠ 0 then (s, .code 2 0 gb)
  else
    let r := s.launchEntries die ctx (recNg w) gb []
    match r.2 with
    | .inl x => (r.1, x)
    | .inr es => r.1.launchGates die ctx es []

/-- The die that keeps a host launch (R375). -/
def State.launchDie (s : State) (q ctx : Nat) (w : List Nat) (gs : List Gate) : Nat :=
  match s.hintPa ctx w with
  | some pa => paDie pa
  | none => match gs with
    | g :: _ => paDie g.pa
    | [] => q / 1024 * 4 + q % 4

/-- The device writes words 9 and 10 of an entry, advances HEAD, and unbinds the queue when it is done or has had its share
(R372, R373). -/
def State.entryDone (s : State) (q at_ code tcode addr : Nat) : State :=
  let s1 := s.hostPut (at_ + 72) [tcode * 256 + code, addr]
  let a := s1.queue q
  let b : Queue := { a with head := (a.head + 1) % 65536, bound := some (a.bound.getD 0 + 1), entry := none }
  ((s1.setQueue q (if b.head = b.tail then { b with bound := none } else b)).shareSlots (q / 1024)).hostInput a.ctx

/-- Where the next entry of a queue lies (R371). -/
def Queue.entryAt (q : Queue) : Nat := q.base * 4096 + 128 * (q.head % 2 ^ q.log2n)

/-- The state once the words of a queue's next entry have been read: the device reads each entry once (R371). -/
def State.readEntry (s : State) (q : Nat) (w : List Nat) : State := s.setQueue q { s.queue q with entry := some w }

/-- LAUNCH_ENTRY_PROCESS (R371, R372): operand 0 is the queue; operand 1 is 1 when the read ends in a PCI Express completion error.
A queue that is not bound, is empty, or whose context's record store is full consumes nothing (R373). -/
def execLaunchEntryProcess (s : State) : Out :=
  let q := s.evArg 0
  let a := s.queue q
  let w := a.entry.getD (Mem.words s.dev.host a.entryAt 16)
  if !a.waits || a.bound.isNone || s.isStopping a.ctx || s.storeFull a.ctx (q / 1024) then .next s
  else if a.entry.isNone && s.evArg 1 == 1 then .next (s.entryDone q a.entryAt 8 0 0)
  else
    let s1 := s.readEntry q w
    let r := s1.judgeEntry (q / 1024 * 4 + q % 4) a.ctx w
    match r.2 with
    | .wait => .next r.1
    | .code c t v => .next (r.1.entryDone q a.entryAt c t v)
    | .accept gs =>
      let die := r.1.launchDie q a.ctx w gs
      if s.storeFull a.ctx (die / 4) then .next s1
      else .next ((r.1.acceptRecord a.ctx (nth w 8) (w.take 8) gs none die).entryDone q a.entryAt 1 0 0)

end Sys2Proof.Machine
end

