-- ==== Sys2Proof/Machine/Debug.lean ====
section
/-! DEFINITION. Halt groups: breakpoints, stop, run and step, the control block, and debug writes (R403 to R407). -/

namespace Sys2Proof.Machine

/-! ## The control block (Table 16.7) -/

/-- A halt group by its number over the basin: 16 a package. -/
def State.group (s : State) (g : Nat) : HaltGroup := (s.pkg (g / 16)).halts.toList.getD (g % 16) {}

/-- Replaces a halt group. -/
def State.setGroup (s : State) (g : Nat) (v : HaltGroup) : State :=
  let k := s.pkg (g / 16)
  s.setPkg (g / 16) { k with halts := k.halts.setIfInBounds (g % 16) v }

/-- The words of a control block as they read (Table 16.7). -/
def HaltGroup.words (b : HaltGroup) : List Nat :=
  [b.xmask % 2 ^ 16 * 2 ^ 48 + b.sidx % 16 * 256 + b.src % 8 * 32 + b.onflt.toNat * 16 + b.ontrap.toNat * 8 + b.stop.toNat]
    ++ b.bps.toList.map (fun a => a.1.toNat * 2 ^ 63 + bits a.2 56 2 * 4) ++ [0, 0, 0]

/-- The fields of word 0 that a write sets without an action (Table 16.7). -/
def HaltGroup.writeMask (b : HaltGroup) (v : Nat) : HaltGroup :=
  { b with xmask := bits v 63 48, onflt := v.testBit 4, ontrap := v.testBit 3 }

/-- A write of a breakpoint word. -/
def HaltGroup.writeBp (b : HaltGroup) (i v : Nat) : HaltGroup :=
  { b with bps := b.bps.setIfInBounds i (v.testBit 63, bits v 56 2 * 4) }

/-! ## Stops and releases (R403 to R406) -/

/-- The halt group of the issuing thread, over the basin, if it has one. -/
def State.myGroup (s : State) : Option Nat :=
  match s.ctx? s.h.task.ctx with
  | some c => if s.h.isThread && c.dbg then some (s.pkgOf s.h * 16 + c.hgrp % 16) else none
  | none => none

/-- The index of the breakpoint that the issuing thread stands at. -/
def State.atBreakpoint (s : State) : Option Nat :=
  if s.h.replay || s.h.pass then none
  else s.myGroup.bind (fun g =>
    (countFrom 0 4).find? (fun i => (s.group g).bps.toList.getD i (false, 0) == (true, s.h.pc.toNat)))

/-- BREAKPOINT (R403): the issuing thread is about to issue a group at a valid breakpoint of its halt group; the group stops
before that group issues. -/
def execBreakpoint (s : State) : Out :=
  match s.myGroup, s.atBreakpoint with
  | some g, some i => if s.h.isHalted then .next s else .next (s.stopGroup (g / 16) (g % 16) 3 i)
  | _, _ => .next s

/-- HALT_GROUP_STOP (R403, R404): operand 0 is the group, over the basin. -/
def execHaltGroupStop (s : State) : Out :=
  let g := s.evArg 0
  if (s.group g).stop then .next s else .next (s.stopGroup (g / 16) (g % 16) 1 0)

/-- Changes every thread of a halt group. -/
def State.mapGroup (s : State) (g : Nat) (f : Hart → Hart) : State :=
  s.mapHarts (fun h => if s.inGroup (g / 16) (g % 16) h then f h else h)

/-- Whether a context stops, or will once a fault of it is recorded (R398). -/
def State.willStop (s : State) (ctx : Nat) : Bool := (s.ctx? ctx).any (fun c => c.stopping || c.pend.any (·.2))

/-- A thread of a halt group that is released (R406); one whose context stops issues no more (R398). -/
def State.releaseHart (s : State) (h : Hart) : Hart :=
  let g := { h.release with pass := true }
  if s.willStop h.task.ctx then g.stopIssue else g

/-- A halt group is released: its threads return to the states they would hold without the stop (R406). -/
def State.runAll (s : State) (g : Nat) : State :=
  (s.setGroup g { s.group g with stop := false }).mapGroup g s.releaseHart

/-- HALT_GROUP_RUN (R406). -/
def execHaltGroupRun (s : State) : Out :=
  let g := s.evArg 0
  if (s.group g).stop then .next (s.runAll g) else .next s

/-- The place of the first message in the network that is a reply for a halted core of a group, and may be delivered. -/
def State.heldReply (s : State) (g : Nat) : Option Nat :=
  (countFrom 0 s.lat.net.length).find? (fun i => s.deliverable i && (s.lat.net[i]?).any (fun m => m.body.isReply && match m.dest with
    | .core c => physPkg (s.physOf c) == g / 16 && (s.ctx? m.ctx).any (fun x => x.dbg && x.hgrp == g % 16)
    | _ => false))

/-- Takes up the replies that wait for a group (R405); the fuel is the number of messages. -/
def State.takeReplies (g : Nat) : Nat → State → State
  | 0, s => s
  | n + 1, s => match s.heldReply g with
    | none => s
    | some i => match (s.lat.net[i]?).bind (fun m => s.tryEv m.event.2 [i]) with
      | some t => State.takeReplies g n t
      | none => s

/-- The replies held for a stopped group reach its threads, which stay halted (R405, R406, log 95). -/
def State.settleReplies (s : State) (g : Nat) : State :=
  let t := State.takeReplies g s.lat.net.length (s.runAll g)
  let u := (t.setGroup g { t.group g with stop := true }).mapGroup g (fun h => { h.halt with pass := false })
  { u with ev := s.ev }

/-- A halted thread that is ready, or whose wait has ended (R405), is to issue one group. -/
def State.step1 (s : State) (h : Hart) : Hart :=
  match h.stat with
  | .halted none _ => { h with stat := .halted none true, pass := true }
  | .halted (some w) _ => if s.waitOver h w then { h with stat := .halted none true, pass := true } else h
  | _ => h

/-- HALT_GROUP_STEP (R406). -/
def execHaltGroupStep (s : State) : Out :=
  let g := s.evArg 0
  if (s.group g).stop then
    let t := s.settleReplies g
    .next (t.mapGroup g t.step1)
  else .next s

/-- After a step's group, or the trap it took, the thread is halted again (R406). -/
def Hart.stepDone (h : Hart) : Hart :=
  match h.stat with
  | .halted w true => { h with stat := .halted w false }
  | _ => h

/-! ## Debug writes (R407) -/

/-- A thread after a debug write. `kind` is 0 for x, 1 v, 2 m, 3 k, 4 a control register, 5 the pc, 6 a journal word by its
register number, and 7, 8 and 9 eight bytes of the W, A and C views inside its windows (log 28). A debug write obeys the
access codes (R13): the fields of a token are RO (Table 8.2), those of the journal RO but for V, which is W1C
(Table 5.1), and the bytes of an armed macro are not written (R5). -/
def Hart.debugPut (h : Hart) (kind i v : Nat) : Hart :=
  match kind with
  | 0 => h.setX (Fin.ofNat 32 i) (BitVec.ofNat 64 v)
  | 1 => h.setRawReg { file := .v, idx := i } v
  | 2 => if i % 8 = 0 then h else h.setRawReg { file := .m, idx := i } v
  | 3 => h
  | 4 => h.writeCr i (BitVec.ofNat 64 v)
  | 5 => { h with pc := BitVec.ofNat 64 (bits v 56 2 * 4) }
  | 6 => h.writeCr i (BitVec.ofNat 64 v)
  | _ =>
    let b := kind - 7
    if b < 3 && h.t.scr.inWindows b i 8 && !h.t.scr.onArmed b i 8 then h.setScr (h.t.scr.setView b (Mem.writeN (h.t.scr.view b) i 8 v)) else h

/-- DEBUG_REGISTER_WRITE (R407): operands are the core state, the slot, the register as its kind times 2^32 plus its index, and
the value. A write to a thread that is not halted has no effect; one that frees a journal entry lets an access that waits for it
go (R297). -/
def execDebugRegisterWrite (s : State) : Out :=
  let id : HartId := .thread (s.evArg 0) (s.evArg 1)
  match s.hart? id with
  | none => .next s
  | some h =>
    if h.isHalted && h.task.dbg then
      .next (((s.setDetrel h.task.ctx).updHart id (fun g => g.debugPut (s.evArg 2 / 2 ^ 32) (s.evArg 2 % 2 ^ 32) (s.evArg 3))).flushAt id)
    else .next s

end Sys2Proof.Machine
end

