-- ==== Sys2Proof/Machine/HostAcc.lean ====
section
/-! DEFINITION. Host windows and host accesses through them (R139, R412 to R414). -/

namespace Sys2Proof.Machine

/-! ## Window descriptors (Table 17.4) -/

/-- A host window, by its number over the basin: 64 a package. -/
def State.window (s : State) (w : Nat) : HostWin := assocGet {} (w % 64) (s.pkg (w / 64)).wins

/-- Replaces a host window. -/
def State.setWindow (s : State) (w : Nat) (v : HostWin) : State :=
  let k := s.pkg (w / 64)
  s.setPkg (w / 64) { k with wins := assocSet (w % 64) v k.wins }

/-- A window after a write of word 0, 1 or 2; none has an effect while V = 1 (R412). -/
def HostWin.write (a : HostWin) (i v : Nat) : HostWin :=
  if a.v then a
  else match i with
    | 0 => { a with va := bits v 56 12 * 4096 }
    | 1 => { a with len := bits v 35 12 * 4096 }
    | _ => { a with hoff := bits v 39 12 * 4096 }

/-- Whether a window may be made valid: its range lies inside one region of a live context, and its host range meets no other
valid window's (R412). -/
def State.windowOk (s : State) (w : Nat) (a : HostWin) : Bool :=
  s.live a.ctx
    && (s.ctx? a.ctx).any (fun c => c.regions.any (fun r => decide (r.base ≤ a.va) && decide (a.va + a.len ≤ r.base + r.len)))
    && (s.pkg (w / 64)).wins.all (fun x => x.1 == w % 64 || !x.2.v || !overlaps a.hoff (a.hoff + a.len) x.2.hoff (x.2.hoff + x.2.len))

/-- A write of word 3 of a window (R412). -/
def State.writeWindow (s : State) (w v : Nat) : State :=
  let a := s.window w
  let b : HostWin := if a.v then { a with opn := v.testBit 1 }
    else { a with ctx := bits v 43 32, gen := bits v 31 16, opn := v.testBit 1 }
  let c : HostWin := { b with v := v.testBit 0 && (a.v || s.windowOk w b) }
  let s1 := s.setWindow w c
  (if c.v && c.opn then s1.markOpened c.ctx else s1).hostInput c.ctx

/-- The words of a descriptor as they read (Table 17.4). -/
def HostWin.words (a : HostWin) : List Nat :=
  [a.va, a.len, a.hoff, a.ctx % 4096 * 2 ^ 32 + a.gen % 65536 * 65536 + a.opn.toNat * 2 + a.v.toNat]

/-- WINDOW_ENABLE (R412): operands are the window and word 3 with V = 1; the other words have been written before. -/
def execWindowEnable (s : State) : Out :=
  if (s.evArg 1).testBit 0 then .next (s.writeWindow (s.evArg 0) (s.evArg 1)) else .next s

/-- WINDOW_CLOSE (R412): operand 0 is the window; OPEN is written 0 and the rest of word 3 as it is. -/
def execWindowClose (s : State) : Out :=
  let a := s.window (s.evArg 0)
  .next (s.writeWindow (s.evArg 0) (a.ctx % 4096 * 2 ^ 32 + a.gen % 65536 * 65536 + a.v.toNat))

/-! ## Finding the window (R413) -/

/-- An access through a window: the window's number in its package, the window, and the virtual address. -/
structure HostAcc where
  win : Nat
  w : HostWin
  va : Nat
  deriving DecidableEq, Repr

/-- The valid open window that an offset lies in. -/
def State.hostWin (s : State) (p off : Nat) : Option HostAcc :=
  ((s.pkg p).wins.find? (fun x => x.2.v && x.2.opn && decide (x.2.hoff ≤ off) && decide (off < x.2.hoff + x.2.len))).map
    (fun x => { win := x.1, w := x.2, va := x.2.va + (off - x.2.hoff) })

/-- Why an access is refused before its page is judged: cause 1 for no window, or for one that crosses its end. -/
def HostAcc.crosses (a : HostAcc) (off n : Nat) : Bool := decide (a.w.hoff + a.w.len < off + n)

/-! ## Host writes (R139) -/

/-- The contribution of a host write to a cell, from the bytes written over it (R139). -/
def hostValue (ty v : Nat) : Nat :=
  match ty with
  | 6 => bits v 31 0 + bits v 95 64 * 2 ^ 32 + bits v 96 96 * 2 ^ 64
  | 9 => v % 2 ^ 32
  | 10 => v % 2 ^ 64
  | _ => v

/-- The members of a host write to the cells of one page from an address on. -/
def hostMembers (who : Who) (ty n va pa v : Nat) : Nat → List Member
  | 0 => []
  | k + 1 => { who := who, va := va, pa := pa, v := hostValue ty (v % 2 ^ (8 * n)) } ::
      hostMembers who ty n (va + n) (pa + n) (v / 2 ^ (8 * n)) k

/-- Adds a member to the message of its unit, or starts one. -/
def addHostMember (ty sz gen : Nat) (m : Member) : List LReq → List LReq
  | [] => [{ kind := if ty = 8 then .fill else .join, ty := ty, sz := sz, gen := gen, members := [m] }]
  | r :: l =>
    if (r.members.head?.map (fun x => unitOf ty sz x.pa)) = some (unitOf ty sz m.pa) then { r with members := r.members ++ [m] } :: l
    else r :: addHostMember ty sz gen m l

/-- Sends the joins of a host write to a LAT page (R139): one a cell, with the window's generation. -/
def State.hostJoins (s : State) (cxl : Bool) (p ctx gen : Nat) (win : Nat) (l : Leaf) (va pa n v : Nat) : State :=
  let who : Who := .host (p * 64 + win) cxl
  let c := cellBytes l.ctype l.csize
  let ms := hostMembers who l.ctype c va pa v (n / c)
  let rs := ms.foldl (fun acc m => addHostMember l.ctype l.csize gen m acc) []
  rs.foldl (fun t r => t.send { src := who, ctx := ctx, dest := .unit (unitOf l.ctype l.csize ((r.members.head?.map (·.pa)).getD 0)),
                                body := .lat r }) s

/-- A translation for a host access: an ABSENT LAT or HOST page is created by a write (R413, R31). The manual says where a page
goes by its creator, and names none here: it goes where a creator at stack 0 of the port's package would have it (log 65). -/
def State.hostAccess (s : State) (p ctx va : Nat) (a : Acc) : State × TRes :=
  let r := s.translate none (p * 4) ctx 0 va a
  match r.2, s.regionOf ctx va with
  | .fault 1, some g =>
    if a = .hostWrite ∧ (g.kind = 3 ∨ g.kind = 4) then
      match r.1.createPage ctx g va 0 p 0 with
      | none => r
      | some t => t.translate none (p * 4) ctx 0 va a
    else r
  | _, _ => r

/-- Why a host write is refused before it has any effect: cause 7 for a sealed region, 2 for the page's kind, 3 for a partial
cell (R414). -/
def State.hostWriteCause (s : State) (ctx va n : Nat) : Option Nat :=
  match s.regionOf ctx va with
  | none => some 2
  | some g =>
    let c := cellBytes g.ctype g.csize
    if g.sealed then some 7
    else if g.kind = 4 then none
    else if g.kind ≠ 3 ∨ badType g.ctype g.csize then some 2
    else if va % c ≠ 0 ∨ n % c ≠ 0 then some 3
    else none

/-- Performs a host write page by page; the fuel is the number of pages. -/
def State.hostWritePages (s : State) (cxl : Bool) (p ctx gen win : Nat) : Nat → Nat → Nat → Nat → State
  | 0, _, _, _ => s
  | k + 1, va, n, v =>
    if n = 0 then s
    else
      let r := s.hostAccess p ctx va .hostWrite
      match r.2 with
      | .ok l pa =>
        let m := min n (l.va + pageBytes l.size - va)
        let t := if l.kind = 4 then ({ r.1 with mem := Mem.writeN r.1.mem pa m v } : State).wrote pa m
          else r.1.hostJoins cxl p ctx gen win l va pa m (v % 2 ^ (8 * m))
        t.hostWritePages cxl p ctx gen win k (va + m) (n - m) (v / 2 ^ (8 * m))
      | .lost e => r.1.raiseLoss ctx p 0 va 0 (r.1.lossD0 e 16)
      | _ => r.1.refuseWrite cxl p 2 win ctx va 0 0

/-- The banks held by bank units that an access to bytes of a HOST or CONST page waits for (R106); the fuel is the number of
4 KiB pieces. A join waits at its home. -/
def State.hostBanks (s : State) (p ctx : Nat) (a : Acc) : Nat → Nat → Nat → List Nat
  | 0, _, _ => []
  | k + 1, va, n =>
    let m := min n (4096 - va % 4096)
    let here := match (s.translate none (p * 4) ctx 0 va a).2 with
      | .ok l pa => if (l.kind != 3 || a == .hostRead) && !s.dev.banks.isEmpty
          then ((linesOf pa m).filter (fun i => s.bankHeld (64 * i))).map (fun i => buOf (64 * i)) else []
      | _ => []
    here ++ s.hostBanks p ctx a k (va + m) (n - m)

/-- A host access is queued at the banks that it waits for; its bank units yield to it (R106). -/
def State.queueHost (s : State) (l : List Nat) : State :=
  l.dedup.foldl (fun t bu => t.setBank bu { t.bank bu with waiting := max 1 (t.bank bu).waiting }) s

/-- Whether a request is one that the port supports, by its path (0 PCI Express through BAR4, 1 CXL.mem through HDM, any other a
part that the port has not), offset and size: BAR4 has 64 GiB and its requests at most 4 KiB, HDM has 576 GiB (R409, R410). -/
def hostSupported (path off n : Nat) : Bool :=
  match path with
  | 0 => decide (off + n ≤ 64 * 2 ^ 30) && decide (n ≤ 4096)
  | 1 => decide (off + n ≤ 576 * 2 ^ 30)
  | _ => false

/-- HOST_WRITE (R139, R413, R414): operands are the package, the offset, the size in bytes, the bytes as a number, and the path. A
refused write has no effect beside its record and, of PCI Express, its AER entry; only a join carries a generation (R413, log 36).
An unsupported write is dropped, with its AER entry (R409). -/
def execHostWrite (s : State) : Out :=
  let p := s.evArg 0
  let off := s.evArg 1
  let n := s.evArg 2
  let cxl := s.evArg 4 == 1
  if hostSupported (s.evArg 4) off n = false then .next (s.unsupportedWrite p)
  else match s.hostWin p off with
  | none => .next (s.refuseWrite cxl p 1 0 0 0 0 0)
  | some a =>
    if a.crosses off n then .next (s.refuseWrite cxl p 1 a.win a.w.ctx a.va 0 0)
    else match s.hostWriteCause a.w.ctx a.va n with
      | some c => .next (s.refuseWrite cxl p c a.win a.w.ctx a.va 0 0)
      | none =>
        let q := s.hostBanks p a.w.ctx .hostWrite (n / 4096 + 2) a.va n
        if q.isEmpty = false then .next (s.queueHost q)
        else .next ((s.hostWritePages cxl p a.w.ctx a.w.gen a.win (n / 4096 + 2) a.va n (s.evArg 3)).hostInput a.w.ctx)

/-! ## Host reads (R413) -/

/-- Whether a host write of a package has not been applied or refused yet, be its join alone or merged into another message. -/
def State.hostPending (s : State) (p : Nat) : Bool :=
  let mine := fun (m : Msg) => m.sources.any (fun w => match w with
    | .host w _ => w / 64 == p
    | _ => false)
  s.lat.net.any mine || s.lat.units.any (fun u => u.held.any mine)

/-- The bytes of frozen lines of a LAT page from an address on, or nothing if a unit is growing or in conflict. -/
def State.hostFrozen (s : State) (l : Leaf) : Nat → Nat → Nat → Option Nat
  | 0, _, _ => some 0
  | k + 1, pa, n =>
    if n = 0 then some 0
    else
      let b := unitBytes l.ctype l.csize
      let u := s.unitAt (pa / b * b)
      let m := min n (b - pa % b)
      if u.st ≠ .frozen then none
      else (s.hostFrozen l k (pa + m) (n - m)).map (fun r =>
        u.image l.ctype l.csize / 2 ^ (8 * (pa % b)) % 2 ^ (8 * m) + r * 2 ^ (8 * m))

/-- What a host read gets: the bytes as a number, a refusal, or a lost line (R90). -/
inductive HostGot where
  | bytes (v : Nat)
  | refused
  | lost (va d0 : Nat)
  deriving DecidableEq, Repr

/-- A page's bytes followed by those of the next. -/
def HostGot.after (g : HostGot) (m x : Nat) : HostGot :=
  match g with
  | .bytes y => .bytes (x + y * 2 ^ (8 * m))
  | r => r

/-- Reads bytes for the host page by page. A page that does not exist reads as it will be created: CONST, HOST and sealed LAT
pages as zero (R31, R416). -/
def State.hostRead (s : State) (p ctx : Nat) : Nat → Nat → Nat → HostGot
  | 0, _, _ => .bytes 0
  | k + 1, va, n =>
    if n = 0 then .bytes 0
    else
      match (s.hostAccess p ctx va .hostRead).2 with
      | .ok l pa =>
        let m := min n (l.va + pageBytes l.size - va)
        if s.isLost pa m then .lost va (s.lossD0 pa m)
        else match if l.kind = 3 then s.hostFrozen l (m / 64 + 2) pa m else some (Mem.readN s.mem pa m) with
          | some x => (s.hostRead p ctx k (va + m) (n - m)).after m x
          | none => .refused
      | .lost e => .lost va (s.lossD0 e 16)
      | .fault 1 => match s.regionOf ctx va with
        | some g =>
          let size := pageBytes g.psize
          let m := min n (va / size * size + size - va)
          if g.kind = 2 ∨ g.kind = 4 ∨ (g.kind = 3 ∧ g.sealed) then (s.hostRead p ctx k (va + m) (n - m)).after m 0
          else .refused
        | none => .refused
      | _ => .refused

/-- The answer that the host gets. -/
def State.answerHost (s : State) (p : Nat) (l : Option (List Nat)) : State := s.setPkg p { s.pkg p with hread := l }

/-- A read that fails: a CXL.mem read answers all ones, a PCI Express read with Unsupported Request (R414). -/
def State.failRead (s : State) (p n : Nat) (cxl : Bool) : State :=
  s.answerHost p (if cxl then some (List.replicate n 0xFF) else none)

/-- A refused read is logged (R414). -/
def State.refuseRead (s : State) (p n : Nat) (cxl : Bool) (cause win ctx va : Nat) : State :=
  (s.hostRefuse p cause win ctx va 0 0).failRead p n cxl

/-- HOST_READ (R139, R409, R413, R414): operands are the package, the offset, the size and the path. An unsupported read answers
all ones. It waits for every
write that was delivered before it, and for a bank that a bank unit holds (R106). A lost line is a context fault, and the read
fails without a record (R90, log 83). -/
def execHostRead (s : State) : Out :=
  let p := s.evArg 0
  let off := s.evArg 1
  let n := s.evArg 2
  let cxl := s.evArg 3 == 1
  if hostSupported (s.evArg 3) off n = false then .next (s.answerHost p (some (List.replicate n 0xFF)))
  else if s.hostPending p then .next s
  else match s.hostWin p off with
    | none => .next (s.refuseRead p n cxl 1 0 0 0)
    | some a =>
      let ctx := a.w.ctx
      if a.crosses off n then .next (s.refuseRead p n cxl 1 a.win ctx a.va)
      else if (s.hostBanks p ctx .hostRead (n / 4096 + 2) a.va n).isEmpty = false then
        .next (s.queueHost (s.hostBanks p ctx .hostRead (n / 4096 + 2) a.va n))
      else match s.hostRead p ctx (n / 4096 + 2) a.va n with
        | .bytes v => .next (s.answerHost p (some ((leBytes n v).map (·.toNat))))
        | .refused => .next (s.refuseRead p n cxl 2 a.win ctx a.va)
        | .lost va d0 => .next ((s.raiseLoss ctx p 0 va 0 d0).failRead p n cxl)

end Sys2Proof.Machine
end

