-- ==== Sys2Proof/Machine/HostCmd.lean ====
section
/-! DEFINITION. Device registers and the command mailbox: CREATE, RELEASE, SEAL, AUDITREAD (R17, R22, R64, R101, R410, R411, R415,
R416, R419, R424 to R428). -/

namespace Sys2Proof.Machine

/-! ## The mailbox (R415) -/

/-- A word of the mailbox of a package. -/
def State.mb (s : State) (p i : Nat) : Nat := ((s.pkg p).mbox.toList.getD i 0).toNat

/-- Writes a word of the mailbox. -/
def State.setMb (s : State) (p i v : Nat) : State :=
  let k := s.pkg p
  s.setPkg p { k with mbox := k.mbox.setIfInBounds i (BitVec.ofNat 64 v) }

/-- The OP and CTX fields of word 0. -/
def State.mbOp (s : State) (p : Nat) : Nat := bits (s.mb p 0) 7 0
/-- The context that word 0 names. -/
def State.mbCtx (s : State) (p : Nat) : Nat := bits (s.mb p 0) 63 52

/-- Whether a command is under way. -/
def State.mbGo (s : State) (p : Nat) : Bool := (s.mb p 7).testBit 0

/-- A command ends: STATUS is written and GO cleared. -/
def State.mbDone (s : State) (p status : Nat) : State := s.setMb p 7 (status * 256)

/-- The event of a command, for an OP that is assigned (Table 17.5). -/
def commandOf (op : Nat) : Option Instr :=
  match op with
  | 1 => some .create
  | 2 => some .release
  | 3 => some .seal
  | 4 => some .auditread
  | _ => none

/-- A write of a mailbox word (R415): none has an effect while GO = 1; word 7 with GO = 1 starts the command. -/
def State.writeMb (s : State) (p i v : Nat) : State :=
  if s.mbGo p then s
  else if i < 7 then s.setMb p i v
  else if v.testBit 0 = false then s
  else
    let t := s.setMb p 7 (s.mb p 7 / 2 * 2 + 1)
    match commandOf (s.mbOp p) with
    | some c => t.due c [p]
    | none => t.mbDone p 4

/-! ## Device registers (Table 17.3, R428) -/

/-- The management registers after a write of word `i` (Table 17.8). -/
def Mgmt.write (m : Mgmt) (i v : Nat) : Mgmt :=
  match i with
  | 0 => if 1000 ≤ bits v 15 0 ∧ bits v 15 0 ≤ 3000 then { m with plim := bits v 15 0 } else m
  | 2 => { m with xfer := m.xfer &&& (2 ^ 32 - 1 - bits v 63 32), corr := m.corr &&& (2 ^ 32 - 1 - bits v 31 0) }
  | _ => m

/-- The management registers as they read (Table 17.8). -/
def Mgmt.words (m : Mgmt) : List Nat :=
  [m.plim, m.clk * 2 ^ 32 + m.tmax * 2 ^ 16 + m.thr, m.xfer * 2 ^ 32 + m.corr,
   m.spcore * 2 ^ 48 + m.splane * 2 ^ 32 + m.sprow, m.ldown]

/-- A write of word `i` of a halt group's control block (Table 16.7): STOP acts on a group that runs, RUN before STEP on a stopped
one (R406, log 86). -/
def State.writeGroup (s : State) (g i v : Nat) : Out :=
  match i with
  | 0 =>
    let t := s.setGroup g ((s.group g).writeMask v)
    let u := { t with ev := [g] }
    if (u.group g).stop then
      if v.testBit 1 then execHaltGroupRun u else if v.testBit 2 then execHaltGroupStep u else .next u
    else if v.testBit 0 then execHaltGroupStop u
    else .next u
  | _ => .next (if i ≤ 4 then s.setGroup g ((s.group g).writeBp (i - 1) v) else s)

/-- A 64-bit write of the device register at an offset of BAR0 (R410, R411); one that no table lists has no effect. -/
def State.writeReg (s : State) (p o v : Nat) : Out :=
  let w := o / 8
  if o % 8 ≠ 0 then .next s
  else if 0x100000 ≤ o ∧ o < 0x108000 then
    let q := p * 1024 + (o - 0x100000) / 32
    match w % 4 with
    | 0 => .next (s.setQueue q ((s.queue q).writeBase v))
    | 1 => .next (s.writeQueue q v)
    | _ => .next s
  else if 0x300000 ≤ o ∧ o < 0x300400 then s.writeGroup (p * 16 + (o - 0x300000) / 64) (w % 8) v
  else if 0x400000 ≤ o ∧ o < 0x400040 then .next (s.writeMb p (w % 8) v)
  else if 0x500000 ≤ o ∧ o < 0x500028 then
    let k := s.pkg p
    .next (s.setPkg p { k with mgmt := k.mgmt.write ((o - 0x500000) / 8) v })
  else if 0x600000 ≤ o ∧ o < 0x600800 then
    let n := p * 64 + (o - 0x600000) / 32
    if w % 4 = 3 then .next (s.writeWindow n v) else .next (s.setWindow n ((s.window n).write (w % 4) v))
  else .next s

/-- What the device register at an offset of BAR0 reads as (R411): zero where no table lists it. -/
def State.readReg (s : State) (p o : Nat) : Nat :=
  let w := o / 8
  let k := s.pkg p
  if 0x100000 ≤ o ∧ o < 0x108000 then nth (s.queue (p * 1024 + (o - 0x100000) / 32)).words (w % 4)
  else if 0x200000 ≤ o ∧ o < 0x240000 then
    match s.ctx? ((o - 0x200000) / 64) with
    | some c => if w % 8 = 0 ∧ c.home = p then s.statusWord c else 0
    | none => 0
  else if 0x300000 ≤ o ∧ o < 0x300400 then nth (s.group (p * 16 + (o - 0x300000) / 64)).words (w % 8)
  else if 0x400000 ≤ o ∧ o < 0x400040 then s.mb p (w % 8)
  else if 0x410000 ≤ o ∧ o < 0x418000 then nth (k.refusals.getD ((o - 0x410000) / 32) []) (w % 4)
  else if o = 0x418000 then k.nrefused
  else if 0x500000 ≤ o ∧ o < 0x500028 then nth k.mgmt.words ((o - 0x500000) / 8)
  else if 0x600000 ≤ o ∧ o < 0x600800 then nth (s.window (p * 64 + (o - 0x600000) / 32)).words (w % 4)
  else 0

/-- REGISTER_WRITE (R13, R411): operands are the package, the offset in BAR0, and the 64-bit value. -/
def execRegisterWrite (s : State) : Out := s.writeReg (s.evArg 0) (s.evArg 1) (s.evArg 2)

/-! ## CREATE (R17, R415, R419) -/

/-- A region from its four words (Table 1.2), with its V bit. -/
def regionOfWords (w : List Nat) : Region × Bool :=
  let x := nth w 2
  ({ base := bits (nth w 0) 56 12 * 4096, len := bits (nth w 1) 56 12 * 4096, psize := bits x 31 28, kind := bits x 27 25,
     ctype := bits x 24 21, csize := bits x 20 17, pol := bits x 16 16, win := bits x 15 13, key := bits x 12 7,
     gen := bits (nth w 3) 15 0 }, x.testBit 0)

/-- Whether a region breaks a rule of R17 by itself. -/
def Region.bad (r : Region) (key : Nat) : Bool :=
  let n := pageBytes r.psize
  r.kind == 0 || r.kind == 7 || decide (11 < r.psize) || r.base % n != 0 || r.len % n != 0 || r.len == 0
    || (r.kind == 6 && (r.base % 0x800000 != 0 || r.len % 0x800000 != 0))
    || (r.kind == 5 && r.len != winLen r.win)
    || (if r.kind ≤ 4 then r.key != key else r.key != 0)

/-- Whether two regions may not stand together (R17). -/
def Region.clash (a b : Region) : Bool :=
  overlaps a.base (a.base + a.len) b.base (b.base + b.len) || (a.kind == 6 && b.kind == 6)
    || (a.kind == 5 && b.kind == 5 && a.win == b.win)

/-- Whether a list of regions has two that may not stand together. -/
def anyClash : List Region → Bool
  | [] => false
  | r :: l => l.any r.clash || anyClash l

/-- Whether a region table is refused (R17). -/
def tableBad (l : List (Region × Bool)) (key : Nat) : Bool :=
  l.any (fun r => !r.2 || r.1.bad key) || anyClash (l.map (·.1))

/-- The operands of a CREATE as the mailbox and host memory give them. -/
structure CreateOp where
  count : Nat
  prio : Nat
  key : Nat
  dbg : Bool
  hgrp : Nat
  compl : Nat
  table : List (Region × Bool)
  npkgs : Nat
  pkgs : List Nat
  deriving DecidableEq, Repr

/-- Reads the operands of CREATE: at most 1,024 descriptors, and the package numbers, 32 bits each. -/
def State.createOp (s : State) (p : Nat) : CreateOp :=
  let w2 := s.mb p 2
  let n := bits w2 10 0
  let m := bits (s.mb p 5) 17 0
  { count := n, prio := bits w2 19 16, key := bits w2 25 20, dbg := w2.testBit 26, hgrp := bits w2 30 27, compl := s.mb p 3,
    table := (countFrom 0 (min n 1024)).map (fun i => regionOfWords (Mem.words s.dev.host (s.mb p 1 + 32 * i) 4)),
    npkgs := m, pkgs := ((countFrom 0 m).map (fun i => Mem.readN s.dev.host (s.mb p 4 + 4 * i) 4)).dedup }

/-- Whether a package exists: the device's own, or one beside it. -/
def pkgExists (p q : Nat) : Bool := p == q || Config.packagePresent q

/-- Whether the operands of CREATE are refused (Table 17.5, R17, R169). -/
def CreateOp.bad (c : CreateOp) (p : Nat) : Bool :=
  c.count == 0 || decide (1024 < c.count) || c.key == 0 || decide (11 < c.prio) || c.npkgs == 0
    || c.pkgs.any (fun q => decide (2 ^ 18 ≤ q) || !pkgExists p q) || tableBad c.table c.key

/-- Context slots of a die (R169). -/
def ctxSlots : Nat := 16

/-- Whether a package has no context slot left. -/
def State.ctxFull (s : State) (p : Nat) : Bool :=
  decide (ctxSlots ≤ (s.work.ctxs.filter (fun c => c.pkgs.contains p)).length)

/-- Records that the audit log holds unread (R426). -/
def auditSize : Nat := 65536

/-- A handle for a new context (log 29): a free value, moved on past 0 and the handles in use. -/
def State.freshHandle (s : State) : Nat :=
  let ok := fun (h : Nat) => h != 0 && !s.work.ctxs.any (fun c => c.handle == h)
  let h := Config.newHandle s.free % 4096
  if ok h then h else ((countFrom 1 4095).find? ok).getD 0

/-- STATUS of a CREATE (R415, R426): the audit log is asked first (log 30). -/
def State.createStatus (s : State) (p : Nat) (c : CreateOp) : Nat :=
  if auditSize ≤ (s.audit p).recs.length then 6
  else if c.bad p then 4
  else if c.pkgs.any (fun q => !s.keyLoaded q c.key) then 5
  else if c.pkgs.any s.ctxFull || decide (4095 ≤ s.work.ctxs.length) then 7
  else 0

/-- The end-to-end sealed paths of a list of packages: the pairs, each once, whose every route crosses a transit package (R419). -/
def sealedAmong (all : List Nat) : List Nat → List (Nat × Nat)
  | [] => []
  | p :: l => ((l.filter (fun q => p != q && Config.transitPath all p q)).map (fun q => (p, q))) ++ sealedAmong all l

/-- The context of a CREATE. -/
def CreateOp.ctx (c : CreateOp) (p handle : Nat) : Ctx :=
  { handle := handle, prio := c.prio, key := c.key, dbg := c.dbg, hgrp := c.hgrp, pkgs := c.pkgs, compl := c.compl,
    regions := c.table.map (·.1), home := p, sealedPaths := sealedAmong c.pkgs c.pkgs }

/-- CREATE (R415): operand 0 is the package whose mailbox holds the command. -/
def execCreate (s : State) : Out :=
  let p := s.evArg 0
  if !s.mbGo p || s.mbOp p != 1 then .next s
  else
    let c := s.createOp p
    let st := s.createStatus p c
    if st ≠ 0 then .next (s.mbDone p st)
    else
      let h := s.freshHandle
      let t := { s with free := s.free + 1, work := { s.work with ctxs := s.work.ctxs ++ [c.ctx p h] } }
      .next (((t.setMb p 6 h).auditAppend p 1 h []).mbDone p 0)

/-! ## RELEASE and its scrub (R101, R424) -/

/-- Invalidates the launch queues and host windows of a context (Table 17.9, log 30). -/
def State.dropInputs (s : State) (ctx : Nat) : State :=
  let q := fun (a : Queue) => if a.ctx = ctx then ({ log2n := a.log2n, base := a.base } : Queue) else a
  let w := fun (a : HostWin) => if a.ctx = ctx then { a with v := false, opn := false } else a
  let f := fun (k : Pkg) =>
    { k with
      queues := k.queues.map (fun x => (x.1, q x.2))
      pending := k.pending.filter (fun i => (assocGet {} i k.queues : Queue).ctx != ctx)
      wins := k.wins.map (fun x => (x.1, w x.2)) }
  { s with dev := { s.dev with pkgs := s.dev.pkgs.map (fun x => (x.1, f x.2)) } }

/-- RELEASE (R415, R424): a context that runs stops first, also one that is halted (Table 16.8); the scrub ends with
SCRUB_COMPLETE. -/
def execRelease (s : State) : Out :=
  let p := s.evArg 0
  let ctx := s.mbCtx p
  if !s.mbGo p || s.mbOp p != 2 then .next s
  else if !s.live ctx then .next (s.mbDone p 1)
  else
    let t := (s.dropInputs ctx).mapHarts (fun h => if h.isThread && h.task.ctx == ctx then h.release else h)
    let u := t.updCtx ctx (fun c => { c with released := true })
    let v := if (s.ctx? ctx).any (·.done) then u else u.stopCtx ctx
    .next (v.auditAppend p 2 ctx [])

/-- A bank unit without what the calls of a context have left in it (R102, R424); `mine` says which units are its rows. -/
def BankUnit.scrub (b : BankUnit) (ctx : Nat) (mine : BqUnit → Bool) : BankUnit :=
  let c := { b with
    cur := b.cur.filter (fun u => !mine u)
    phase := if b.cur.any mine then .idle else b.phase
    calls := b.calls.filter (fun a => a.ctx != some ctx) }
  if b.owner = some ctx then
    { c with mpc := 0, acc := Vector.replicate 8 0, arg := Vector.replicate 8 0, ag := Vector.replicate 4 0, lc0 := 0, lc1 := 0,
             rows := 0, owner := none }
  else c

/-- A rill core after a context that it served has been scrubbed (R424): the banks of its idle levels are cleared, that of a level
with a handler in progress when the handler ends, and its inbox too unless it serves another context (log 62). -/
def Hart.scrubBanks (h : Hart) (shared : Bool) : Hart :=
  let idle := !(h.r.levels.getD h.r.level {}).active
  { h with
    x := if idle then Vector.replicate 32 0 else h.x
    r := { h.r with
      levels := h.r.levels.map (fun l => if l.active then { l with wipe := true } else { l with x := Vector.replicate 32 0, pc := 0 })
      inbox := if shared then h.r.inbox else [] } }

/-- The nodes of the rill cores that serve or have served a context: those of its cores' clusters, of its operations, and those that
took a message of it. -/
def State.servers (s : State) (ctx : Nat) : List Nat :=
  (s.work.cores.filter (fun c => c.ctx == ctx)).map (fun c => physRill c.loc.phys)
    ++ (s.work.ops.filter (fun o => o.ctx == ctx)).map (·.node) ++ ((s.ctx? ctx).map (·.served)).getD []

/-- Whether a rill core serves a context other than one. -/
def State.servesOther (s : State) (ctx node : Nat) : Bool :=
  s.work.ctxs.any (fun c => c.handle != ctx && (s.servers c.handle).contains node)

/-- Physical cores after a context has been scrubbed: its cores are free, and forwarding entries of its core states are gone. -/
def Phys.scrub (ids : List Nat) (p : Phys) : Phys :=
  let q := { p with fwd := p.fwd.filter (fun e => !ids.contains e.core) }
  match p.st with
  | .held c => if ids.contains c then { q with st := if p.emptying then .emptied else .free, emptying := false, claim := none } else q
  | _ => q

/-- The lattice after a context has been scrubbed: its messages, weir entries, units, frames with what is known of their lines,
tables, TLB and cache copies, and its counts of messages. -/
def Lattice.scrub (l : Lattice) (ctx : Nat) : Lattice :=
  let mine := fun (pa : Nat) => l.frames.any (fun f => f.ctx == ctx && decide (f.pa ≤ pa) && decide (pa < f.pa + f.size))
  let keep := fun (m : Msg) => m.ctx != ctx
  { l with
    units := l.units.filter (fun u => !mine u.pa)
    net := l.net.filter keep
    waiting := l.waiting.filter keep
    landParked := l.landParked.filter keep
    faults := l.faults.filter keep
    frames := l.frames.filter (fun f => f.ctx != ctx)
    roots := l.roots.filter (fun r => r.1 != ctx)
    tlb := l.tlb.filter (fun e => e.ctx != ctx)
    cache := l.cache.filter (fun c => !mine (c.line * 64))
    dram := l.dram.filter (fun d => !mine (d.1 * 64))
    checks := l.checks.filter (fun d => !mine (d.1 * 64))
    lost := l.lost.filter (fun i => !mine (i * 64))
    sent := assocDel ctx l.sent
    received := assocDel ctx l.received
    writeBacks := l.writeBacks.filter (fun w => w.ctx != ctx) }

/-- The scrub of R424; the cores listed fail the self-test that follows it (R401). -/
def State.scrub (s : State) (c : Ctx) (failing : List Nat) : State :=
  let ids := (s.work.cores.filter (fun k => k.ctx == c.handle)).map (·.id)
  let nodes := s.servers c.handle
  let s0 := ids.foldl State.leaveCore s
  let mineH := fun (h : Hart) => h.isThread && ids.contains h.coreSlot.1
  let mineU := fun (u : BqUnit) => (u.op.map (fun x => ids.contains x.1)).getD false
  let hart := fun (h : Hart) =>
    let g := { h with r := { h.r with bq := h.r.bq.filter (fun u => !mineU u) } }
    match nodes.find? (fun n => h.id == .rill n) with
    | some n => g.scrubBanks (s.servesOther c.handle n)
    | none => g
  let keys := fun (x : Nat × Pkg) =>
    if c.pkgs.contains x.1 then (x.1, { x.2 with keys := assocDel c.key x.2.keys, checks := assocDel c.key x.2.checks }) else x
  let w := s0.work
  let lost := (w.phys.filter (fun p => (p.bad || failing.contains p.n) && (match p.st with
    | .held k => ids.contains k
    | _ => false))).map (·.n)
  let t : State := { s0 with
    h := hart s0.h
    harts := (s0.harts.filter (fun h => !mineH h)).map hart
    lat := s0.lat.scrub c.handle
    work := { w with
      ctxs := w.ctxs.filter (fun x => x.handle != c.handle)
      tasks := w.tasks.filter (fun x => x.ctx != c.handle)
      gangs := w.gangs.filter (fun x => x.ctx != c.handle)
      cores := w.cores.filter (fun x => x.ctx != c.handle)
      ops := w.ops.filter (fun o => o.ctx != c.handle)
      phys := w.phys.map (Phys.scrub ids) }
    dev := { s0.dev with
      banks := s0.dev.banks.map (fun b => (b.1, b.2.scrub c.handle mineU))
      pkgs := s0.dev.pkgs.map keys } }
  lost.foldl State.retireCore t

/-- Whether a host join of a context has been neither applied nor refused yet (R429). -/
def State.hostJoining (s : State) (ctx : Nat) : Bool :=
  let mine := fun (m : Msg) => m.ctx == ctx && m.sources.any (fun w => match w with
    | .host _ _ => true
    | _ => false)
  s.lat.net.any mine || s.lat.units.any (fun u => u.held.any mine)

/-- SCRUB_COMPLETE (R424): operand 0 is the context, which has stopped or was complete; then come its physical cores that fail the
self-test after the scrub (R401). A save under way completes first (R386), and so do host joins (R429). The audit log takes the
record, and the mailbox that asked for the release gets STATUS 0. -/
def execScrubComplete (s : State) : Out :=
  let ctx := s.evArg 0
  match s.ctx? ctx with
  | none => .next s
  | some c =>
    if c.released && (c.stopped || c.done) && !s.moving ctx && !s.hostJoining ctx then
      let t := (s.scrub c (s.ev.drop 1)).auditAppend c.home 3 ctx []
      let p := (s.dev.pkgs.find? (fun k => s.mbGo k.1 && s.mbOp k.1 == 2 && s.mbCtx k.1 == ctx)).map (·.1)
      .next (match p with
        | some q => t.mbDone q 0
        | none => t)
    else .next s

/-! ## SEAL (R22, R416) -/

/-- Changes the region of a context with a base. -/
def State.updRegion (s : State) (ctx base : Nat) (f : Region → Region) : State :=
  s.updCtx ctx (fun c => { c with regions := updWhere (fun r => r.base == base) f c.regions })

/-- SEAL (R416): step 1, the region is closed to host writes; the command goes on to SEAL_COMPLETE. -/
def execSeal (s : State) : Out :=
  let p := s.evArg 0
  let ctx := s.mbCtx p
  let base := bits (s.mb p 1) 56 12 * 4096
  let cs := bits (s.mb p 2) 4 1
  let lat := (s.mb p 2).testBit 0
  if !s.mbGo p || s.mbOp p != 3 then .next s
  else match if s.live ctx then s.ctx? ctx else none with
    | none => .next (s.mbDone p 1)
    | some c => match c.regions.find? (fun r => r.base == base) with
      | none => .next (s.mbDone p 2)
      | some r =>
        if r.kind ≠ 4 then .next (s.mbDone p 3)
        else if 9 < cs ∨ (lat = false ∧ cs ≠ 0) then .next (s.mbDone p 4)
        else .next ((s.updRegion ctx base (fun r => { r with sealed := true })).due .sealComplete [p])

/-- A frame of a sealed region: its cells hold the page's bytes at the region's generation, frozen. -/
def Frame.seal (f : Frame) (r : Region) : Frame :=
  { f with kind := r.kind, ctype := r.ctype, csize := r.csize, gen := r.gen, sealed := true }

/-- Steps 2 and 3 of SEAL: the region's kind, the leaves of its pages, and every TLB copy (R416). -/
def State.sealRegion (s : State) (ctx : Nat) (r : Region) : State :=
  let mine := fun (f : Frame) => f.ctx == ctx && f.kind == 4 && decide (r.base ≤ f.va) && decide (f.va < r.base + r.len)
  let t := s.updRegion ctx r.base (fun _ => r)
  let u := (t.lat.frames.filter mine).foldl (fun z f =>
    match z.walk ctx f.va with
    | .ok l => z.changeLeaf (paPkg f.pa) ctx { l with kind := r.kind, ctype := r.ctype, csize := r.csize }
    | .error _ => z) t
  { u with lat := { u.lat with frames := updWhere mine (fun f => f.seal r) u.lat.frames } }

/-- SEAL_COMPLETE (R416): operand 0 is the package whose mailbox holds the command. A page never written is created by its first
access, zero and sealed in the same way. Accesses that waited for SEAL in their cores go on (R28). -/
def execSealComplete (s : State) : Out :=
  let p := s.evArg 0
  let ctx := s.mbCtx p
  let base := bits (s.mb p 1) 56 12 * 4096
  let lat := (s.mb p 2).testBit 0
  if !s.mbGo p || s.mbOp p != 3 then .next s
  else match (s.ctx? ctx).bind (fun c => c.regions.find? (fun r => r.base == base && r.kind == 4 && r.sealed)) with
    | none => .next s
    | some r =>
      let r' : Region := { r with kind := if lat then 3 else 2, ctype := if lat then 8 else 0, csize := if lat then bits (s.mb p 2) 4 1 else 0 }
      .next ((((s.sealRegion ctx r').flushCtx ctx).hostInput ctx).mbDone p 0)

/-! ## AUDITREAD (R426, R427) -/

/-- AUDITREAD (R427): operand 0 is the package. Every record asked for must be held, or STATUS is 4 (log 30). -/
def execAuditread (s : State) : Out :=
  let p := s.evArg 0
  let a := s.audit p
  let first := s.mb p 1
  let n := s.mb p 2
  if !s.mbGo p || s.mbOp p != 4 then .next s
  else
    let out := a.recs.filter (fun r => decide (first ≤ nth r 0) && decide (nth r 0 < first + n))
    if n = 0 ∨ 256 < n ∨ out.length ≠ n then .next (s.mbDone p 4)
    else
      let sig := Config.ecdsaP384 (wordBytes out.flatten ++ leBytes 48 a.prev)
      let t := s.hostPut (s.mb p 3) (out.flatten ++ unpackCodes 64 sig.toNat 12)
      let a' : Audit := { a with recs := a.recs.filter (fun r => decide (first ≤ nth r 0)) }
      let u := { t with dev := { t.dev with audits := assocSet p a' t.dev.audits } }
      .next ((u.auditAppend p 10 0 []).mbDone p 0)

end Sys2Proof.Machine
end

