-- ==== Sys2Proof/Machine/Root.lean ====
section
/-! DEFINITION. The root of trust, device reset, links and throttling (R409, R417 to R423, R428). -/

namespace Sys2Proof.Machine

/-! ## Keys (R423) -/

/-- Whether a key slot serves a context that has not been scrubbed. -/
def State.slotServes (s : State) (p k : Nat) : Bool := s.work.ctxs.any (fun c => c.key == k && c.pkgs.contains p)

/-- The key check for a slot: the lowest number that no other loaded slot of the package has; 0 is slot 0's (R90, log 77). -/
def Pkg.newCheck (a : Pkg) (k : Nat) : Nat :=
  ((countFrom 1 255).find? (fun c => !a.checks.any (fun x => x.1 != k && x.2 == c))).getD 0

/-- KEY_LOAD (R423): operands are the package, the slot, and the 512 bits of the two keys. Outside a secured session there is no
such message. -/
def execKeyLoad (s : State) : Out :=
  let p := s.evArg 0
  let k := s.evArg 1
  let v := s.evArg 2 % 2 ^ 512
  let a := s.pkg p
  if !a.spdm.session || k == 0 || decide (63 < k) || s.slotServes p k || v / 2 ^ 256 == v % 2 ^ 256 then .next s
  else .next ((s.setPkg p { a with keys := assocSet k v a.keys, checks := assocSet k (a.newCheck k) a.checks }).auditAppend p 4 0 [k])

/-! ## SPDM (R422) -/

/-- The measurement registers as SPDM reports them. -/
def Pkg.measBytes (k : Pkg) : List Byte := k.meas.toList.flatMap (fun m => leBytes 48 m.toNat)

/-- The root of trust answers a request: operand 0 is the package, the rest are the bytes of the request (log 11). -/
def State.spdm (s : State) (code : Nat) (f : Spdm → Spdm) : Out :=
  let p := s.evArg 0
  let k := s.pkg p
  let ans := (Config.spdmAnswer code ((s.ev.drop 1).map (fun b => BitVec.ofNat 8 b)) k.measBytes).map (·.toNat)
  .next (s.setPkg p { k with spdm := f { k.spdm with answer := ans, report := [] } })

/-- GET_VERSION (R422). -/
def execGetVersion (s : State) : Out := s.spdm 0x84 (fun x => { x with version := true })

/-- GET_CAPABILITIES (R422). -/
def execGetCapabilities (s : State) : Out := s.spdm 0xE1 (fun x => { x with caps := true })

/-- NEGOTIATE_ALGORITHMS (R422). -/
def execNegotiateAlgorithms (s : State) : Out := s.spdm 0xE3 (fun x => { x with algs := true })

/-- GET_DIGESTS (R422). -/
def execGetDigests (s : State) : Out := s.spdm 0x81 id

/-- GET_CERTIFICATE (R422). -/
def execGetCertificate (s : State) : Out := s.spdm 0x82 id

/-- CHALLENGE (R422): the answer is signed with the device identity key. -/
def execChallenge (s : State) : Out := s.spdm 0x83 id

/-- The measurements that an answer reports, each with its index (R422): index i + 1 is register i. The request's operation, its
fourth byte, asks for all of them (255), for one index, or for their number alone (0, log 11). -/
def Pkg.measured (k : Pkg) (op : Nat) : List (Nat × BitVec 384) :=
  (List.zip (countFrom 1 16) k.meas.toList).filter (fun x => op == 255 || x.1 == op)

/-- GET_MEASUREMENTS (R422). -/
def execGetMeasurements (s : State) : Out :=
  s.spdm 0xE0 (fun x => { x with report := (s.pkg (s.evArg 0)).measured (s.evArg 4) })

/-- KEY_EXCHANGE (R422) starts a secured session. -/
def execKeyExchange (s : State) : Out := s.spdm 0xE4 (fun x => { x with handshake := true })

/-- FINISH (R422) completes the session that KEY_EXCHANGE started. -/
def execFinish (s : State) : Out := s.spdm 0xE5 (fun x => { x with session := x.session || x.handshake, handshake := false })

/-- END_SESSION (R422). -/
def execEndSession (s : State) : Out := s.spdm 0xEC (fun x => { x with session := false, handshake := false })

/-! ## Device reset (R402, R421, R425) -/

/-- The state after a device reset, before images are measured: as State.reset, but for the audit logs, which survive, host
memory, and the cores that were retired (log 31). -/
def State.afterReset (s : State) : State :=
  { State.reset with
    work := { phys := s.work.phys.filter (fun p => p.st == .retired) }
    dev := { audits := s.dev.audits, host := s.dev.host } }

/-- A boot step on package `p`: `kind` below 6 extends that register with an image's digest, and 16 says that a retired core passes
its test; registers 6 to 15 are not extended (R421). -/
def State.bootStep (p : Nat) (s : State) (x : Nat × Nat) : State :=
  if x.1 < 6 then s.extend p x.1 (BitVec.ofNat 384 x.2)
  else if x.1 ≠ 16 then s
  else { s with work := { s.work with phys := s.work.phys.filter (fun q => q.n != x.2) } }

/-- Pairs of a list of numbers. -/
def pairs : List Nat → List (Nat × Nat)
  | a :: b :: l => (a, b) :: pairs l
  | _ => []

/-- DEVICE_RESET (R421, R402): operand 0 is the package that boots; then come pairs, each a measured image or a retired core that
passes its test. -/
def execDeviceReset (s : State) : Out := .next ((pairs (s.ev.drop 1)).foldl (State.bootStep (s.evArg 0)) s.afterReset)

/-- FUNCTION_LEVEL_RESET (R409): operand 0 is the package. The registers that the function's BARs reach take their Reset values:
launch queues, host windows, the mailbox and the power limit (log 32). -/
def execFunctionLevelReset (s : State) : Out :=
  let p := s.evArg 0
  let k := s.pkg p
  .next (s.setPkg p { k with mbox := Vector.replicate 8 0, queues := [], pending := [], wins := [], hread := none
                             mgmt := { k.mgmt with plim := 3000 } })

/-! ## Links (R417 to R420) -/

/-- A link of a package. -/
def State.link (s : State) (p l : Nat) : Link := (s.pkg p).links.toList.getD l {}

/-- Replaces a link. -/
def State.setLink (s : State) (p l : Nat) (v : Link) : State :=
  let k := s.pkg p
  s.setPkg p { k with links := k.links.setIfInBounds l v }

/-- An end of a link after the two roots of trust have agreed on keys with the other end `o`. -/
def Link.bringUp (k : Link) (o : Nat × Nat) : Link :=
  { k with up := true, peer := some o, keyNo := k.keyNo + 1, flits := 0, failed := 0 }

/-- LINK_BRINGUP (R418): operands are the package and the link of each end. The two roots of trust agree on the keys of both
directions in an SPDM session of their own (log 96). A link out of service stays so. -/
def execLinkBringup (s : State) : Out :=
  let a := (s.evArg 0, s.evArg 1)
  let b := (s.evArg 2, s.evArg 3)
  let k := s.link a.1 a.2
  let m := s.link b.1 b.2
  if k.out || m.out || a == b then .next s
  else .next ((s.setLink a.1 a.2 (k.bringUp b)).setLink b.1 b.2 (m.bringUp a))

/-- A flit `d` places after the expected one comes in (R417): a good expected flit is taken, and the errors that its retries
corrected go; a failed one stays expected, and what comes after it before the retry is discarded, at most 63 flits. -/
def Link.receive (k : Link) (lanes : Nat) (bad : Bool) (d : Nat) : Link :=
  let j := { k with hist := (lanes :: k.hist).take 1024 }
  if d ≠ 0 then j
  else if bad then { j with failed := k.failed + 1 }
  else { j with flits := k.flits + 1, failed := 0 }

/-- FLIT_RECEIVE (R417, R418): operands are the package, the link, the lanes that failed CRC as a mask, 1 if the tag failed, and how
many flits after the expected one it is; the replay buffer of 64 flits lets no more than 63 follow one that is not yet taken. A
tag that fails is a CRC failure (R418), of the lanes that the mask names (log 96). After 2^32 flits the key is replaced before the
next flit comes (R418). Errors that a retry corrects count in XFER (R428). -/
def execFlitReceive (s : State) : Out :=
  let p := s.evArg 0
  let l := s.evArg 1
  let k := s.link p l
  let bad := s.evArg 2 != 0 || s.evArg 3 == 1
  if !k.up || k.retraining || decide (2 ^ 32 ≤ k.flits) || decide (64 ≤ s.evArg 4) then .next s
  else
    let n := if bad || s.evArg 4 != 0 then 0 else k.failed
    let t := s.setLink p l (k.receive (s.evArg 2) bad (s.evArg 4))
    let a := t.pkg p
    .next (t.setPkg p { a with mgmt := { a.mgmt with xfer := (a.mgmt.xfer + n) % 2 ^ 32 } })

/-- LINK_KEY_REPLACE (R418): after 2^32 flits under one key. -/
def execLinkKeyReplace (s : State) : Out :=
  let p := s.evArg 0
  let l := s.evArg 1
  let k := s.link p l
  if k.up && decide (2 ^ 32 ≤ k.flits) then .next (s.setLink p l { k with keyNo := k.keyNo + 1, flits := 0 }) else .next s

/-- The lowest lane that failed in 16 of the last 1,024 flits (R420). -/
def Link.badLane (k : Link) : Option Nat :=
  (countFrom 0 9).find? (fun i => decide (16 ≤ (k.hist.filter (fun m => m.testBit i)).length))

/-- LANE_SPARE (R420): operands are the package and the link. The spare takes the lane's place and the link retrains; a link whose
spare is spent goes out of service. -/
def execLaneSpare (s : State) : Out :=
  let p := s.evArg 0
  let l := s.evArg 1
  let k := s.link p l
  match if k.up then k.badLane else none with
  | none => .next s
  | some i =>
    let a := s.pkg p
    if k.spareUsed then
      let t := s.setPkg p { a with mgmt := { a.mgmt with ldown := a.mgmt.ldown ||| 2 ^ l } }
      .next (t.setLink p l { k with up := false, out := true, hist := [] })
    else
      let t := s.setPkg p { a with mgmt := { a.mgmt with splane := a.mgmt.splane - 1 } }
      .next ((t.setLink p l { k with spareUsed := true, retraining := true, hist := [] }).auditAppend p 9 0 [l, i])

/-- LINK_RETRAIN_COMPLETE (R420). -/
def execLinkRetrainComplete (s : State) : Out :=
  let p := s.evArg 0
  let l := s.evArg 1
  let k := s.link p l
  if k.retraining then .next (s.setLink p l { k with retraining := false }) else .next s

/-! ## Throttling (R428) -/

/-- THROTTLING (R428): operands are the package, the causes, and the temperature of the hottest die. With a cause the clock goes
down a step of 0.1 GHz, to 0.6 GHz at the least; without, it comes back a step, to 2.4 GHz at the most. -/
def execThrottling (s : State) : Out :=
  let p := s.evArg 0
  let k := s.pkg p
  let c := s.evArg 1 % 8
  let clk := if c = 0 then min 2400 (k.mgmt.clk + 100) else max 600 (k.mgmt.clk - 100)
  .next (s.setPkg p { k with mgmt := { k.mgmt with clk := clk, thr := c, tmax := s.evArg 2 % 2 ^ 16 } })

end Sys2Proof.Machine
end

