-- ==== Sys2Proof/Machine/Dispatch.lean ====
section
/-! DEFINITION. The dispatch of an instruction to its meaning, one arm a constructor. -/

namespace Sys2Proof.Machine

def exec (i : Instr) (s : State) : Host.Outcome State Fault Refusal :=
  match i with
  | .add d a b => Sys2Proof.Machine.execAdd d a b s
  | .sub d a b => Sys2Proof.Machine.execSub d a b s
  | .and d a b => Sys2Proof.Machine.execAnd d a b s
  | .or d a b => Sys2Proof.Machine.execOr d a b s
  | .xor d a b => Sys2Proof.Machine.execXor d a b s
  | .sll d a b => Sys2Proof.Machine.execSll d a b s
  | .srl d a b => Sys2Proof.Machine.execSrl d a b s
  | .sra d a b => Sys2Proof.Machine.execSra d a b s
  | .slt d a b => Sys2Proof.Machine.execSlt d a b s
  | .sltn d a b => Sys2Proof.Machine.execSltn d a b s
  | .min d a b => Sys2Proof.Machine.execMin d a b s
  | .max d a b => Sys2Proof.Machine.execMax d a b s
  | .minn d a b => Sys2Proof.Machine.execMinn d a b s
  | .maxn d a b => Sys2Proof.Machine.execMaxn d a b s
  | .andn d a b => Sys2Proof.Machine.execAndn d a b s
  | .orn d a b => Sys2Proof.Machine.execOrn d a b s
  | .mul d a b => Sys2Proof.Machine.execMul d a b s
  | .mulh d a b => Sys2Proof.Machine.execMulh d a b s
  | .mulhn d a b => Sys2Proof.Machine.execMulhn d a b s
  | .mulhsn d a b => Sys2Proof.Machine.execMulhsn d a b s
  | .div d a b => Sys2Proof.Machine.execDiv d a b s
  | .divn d a b => Sys2Proof.Machine.execDivn d a b s
  | .rem d a b => Sys2Proof.Machine.execRem d a b s
  | .remn d a b => Sys2Proof.Machine.execRemn d a b s
  | .clz d a => Sys2Proof.Machine.execClz d a s
  | .ctz d a => Sys2Proof.Machine.execCtz d a s
  | .popc d a => Sys2Proof.Machine.execPopc d a s
  | .rev8 d a => Sys2Proof.Machine.execRev8 d a s
  | .addi d a imm => Sys2Proof.Machine.execAddi d a imm s
  | .andi d a imm => Sys2Proof.Machine.execAndi d a imm s
  | .ori d a imm => Sys2Proof.Machine.execOri d a imm s
  | .xori d a imm => Sys2Proof.Machine.execXori d a imm s
  | .slli d a imm => Sys2Proof.Machine.execSlli d a imm s
  | .srli d a imm => Sys2Proof.Machine.execSrli d a imm s
  | .srai d a imm => Sys2Proof.Machine.execSrai d a imm s
  | .slti d a imm => Sys2Proof.Machine.execSlti d a imm s
  | .sltni d a imm => Sys2Proof.Machine.execSltni d a imm s
  | .movi d imm => Sys2Proof.Machine.execMovi d imm s
  | .sext8 d a => Sys2Proof.Machine.execSext8 d a s
  | .sext16 d a => Sys2Proof.Machine.execSext16 d a s
  | .sext32 d a => Sys2Proof.Machine.execSext32 d a s
  | .zext8 d a => Sys2Proof.Machine.execZext8 d a s
  | .zext16 d a => Sys2Proof.Machine.execZext16 d a s
  | .zext32 d a => Sys2Proof.Machine.execZext32 d a s
  | .beq a b off => Sys2Proof.Machine.execBeq a b off s
  | .bne a b off => Sys2Proof.Machine.execBne a b off s
  | .blt a b off => Sys2Proof.Machine.execBlt a b off s
  | .bge a b off => Sys2Proof.Machine.execBge a b off s
  | .bltn a b off => Sys2Proof.Machine.execBltn a b off s
  | .bgen a b off => Sys2Proof.Machine.execBgen a b off s
  | .jmp off => Sys2Proof.Machine.execJmp off s
  | .jal off => Sys2Proof.Machine.execJal off s
  | .jalr d a imm => Sys2Proof.Machine.execJalr d a imm s
  | .loop n a imm => Sys2Proof.Machine.execLoop n a imm s
  | .bmaskNone m off => Sys2Proof.Machine.execBmaskNone m off s
  | .bmaskAny m off => Sys2Proof.Machine.execBmaskAny m off s
  | .bmaskAll m off => Sys2Proof.Machine.execBmaskAll m off s
  | .bflClr n off => Sys2Proof.Machine.execBflClr n off s
  | .bflSet n off => Sys2Proof.Machine.execBflSet n off s
  | .nop => Sys2Proof.Machine.execNop s
  | .exit => Sys2Proof.Machine.execExit s
  | .yield => Sys2Proof.Machine.execYield s
  | .trap code => Sys2Proof.Machine.execTrap code s
  | .eret => Sys2Proof.Machine.execEret s
  | .faddF32 rnd d a b => Sys2Proof.Machine.execFaddF32 rnd d a b s
  | .fsubF32 rnd d a b => Sys2Proof.Machine.execFsubF32 rnd d a b s
  | .fmulF32 rnd d a b => Sys2Proof.Machine.execFmulF32 rnd d a b s
  | .fdivF32 rnd d a b => Sys2Proof.Machine.execFdivF32 rnd d a b s
  | .fminF32 rnd d a b => Sys2Proof.Machine.execFminF32 rnd d a b s
  | .fmaxF32 rnd d a b => Sys2Proof.Machine.execFmaxF32 rnd d a b s
  | .fltF32 rnd d a b => Sys2Proof.Machine.execFltF32 rnd d a b s
  | .feqF32 rnd d a b => Sys2Proof.Machine.execFeqF32 rnd d a b s
  | .cvtF32I64 rnd d a => Sys2Proof.Machine.execCvtF32I64 rnd d a s
  | .cvtI64F32 rnd d a => Sys2Proof.Machine.execCvtI64F32 rnd d a s
  | .ldI8 w d a imm => Sys2Proof.Machine.execLdI8 w d a imm s
  | .ldN8 w d a imm => Sys2Proof.Machine.execLdN8 w d a imm s
  | .ldI16 w d a imm => Sys2Proof.Machine.execLdI16 w d a imm s
  | .ldN16 w d a imm => Sys2Proof.Machine.execLdN16 w d a imm s
  | .ldI32 w d a imm => Sys2Proof.Machine.execLdI32 w d a imm s
  | .ldN32 w d a imm => Sys2Proof.Machine.execLdN32 w d a imm s
  | .ld64 w d a imm => Sys2Proof.Machine.execLd64 w d a imm s
  | .st8 w r a imm => Sys2Proof.Machine.execSt8 w r a imm s
  | .st16 w r a imm => Sys2Proof.Machine.execSt16 w r a imm s
  | .st32 w r a imm => Sys2Proof.Machine.execSt32 w r a imm s
  | .st64 w r a imm => Sys2Proof.Machine.execSt64 w r a imm s
  | .prf w a imm => Sys2Proof.Machine.execPrf w a imm s
  | .vaddF32 rnd d a b => Sys2Proof.Machine.execVaddF32 rnd d a b s
  | .vsubF32 rnd d a b => Sys2Proof.Machine.execVsubF32 rnd d a b s
  | .vmulF32 rnd d a b => Sys2Proof.Machine.execVmulF32 rnd d a b s
  | .vdivF32 rnd d a b => Sys2Proof.Machine.execVdivF32 rnd d a b s
  | .vminF32 rnd d a b => Sys2Proof.Machine.execVminF32 rnd d a b s
  | .vmaxF32 rnd d a b => Sys2Proof.Machine.execVmaxF32 rnd d a b s
  | .vabsF32 rnd d a => Sys2Proof.Machine.execVabsF32 rnd d a s
  | .vnegF32 rnd d a => Sys2Proof.Machine.execVnegF32 rnd d a s
  | .vsqrtF32 rnd d a => Sys2Proof.Machine.execVsqrtF32 rnd d a s
  | .vaddI32 d a b => Sys2Proof.Machine.execVaddI32 d a b s
  | .vsubI32 d a b => Sys2Proof.Machine.execVsubI32 d a b s
  | .vmulI32 d a b => Sys2Proof.Machine.execVmulI32 d a b s
  | .vminI32 d a b => Sys2Proof.Machine.execVminI32 d a b s
  | .vmaxI32 d a b => Sys2Proof.Machine.execVmaxI32 d a b s
  | .vminN32 d a b => Sys2Proof.Machine.execVminN32 d a b s
  | .vmaxN32 d a b => Sys2Proof.Machine.execVmaxN32 d a b s
  | .vand d a b => Sys2Proof.Machine.execVand d a b s
  | .vor d a b => Sys2Proof.Machine.execVor d a b s
  | .vxor d a b => Sys2Proof.Machine.execVxor d a b s
  | .vsllI32 d a b => Sys2Proof.Machine.execVsllI32 d a b s
  | .vsrlI32 d a b => Sys2Proof.Machine.execVsrlI32 d a b s
  | .vsraI32 d a b => Sys2Proof.Machine.execVsraI32 d a b s
  | .vcmpeqF32 d a b => Sys2Proof.Machine.execVcmpeqF32 d a b s
  | .vcmpltF32 d a b => Sys2Proof.Machine.execVcmpltF32 d a b s
  | .vcmpleF32 d a b => Sys2Proof.Machine.execVcmpleF32 d a b s
  | .vcmpeqI32 d a b => Sys2Proof.Machine.execVcmpeqI32 d a b s
  | .vcmpltI32 d a b => Sys2Proof.Machine.execVcmpltI32 d a b s
  | .vcmpltN32 d a b => Sys2Proof.Machine.execVcmpltN32 d a b s
  | .vsel d a b m => Sys2Proof.Machine.execVsel d a b m s
  | .vld w d a imm => Sys2Proof.Machine.execVld w d a imm s
  | .vst w rnd r a imm => Sys2Proof.Machine.execVst w rnd r a imm s
  | .vbcast32 d a => Sys2Proof.Machine.execVbcast32 d a s
  | .vbcast16 d a => Sys2Proof.Machine.execVbcast16 d a s
  | .vbcast8 d a => Sys2Proof.Machine.execVbcast8 d a s
  | .vmovx d a b => Sys2Proof.Machine.execVmovx d a b s
  | .vcvtF32I32 rnd d a => Sys2Proof.Machine.execVcvtF32I32 rnd d a s
  | .vcvtI32F32 rnd d a => Sys2Proof.Machine.execVcvtI32F32 rnd d a s
  | .vcvtBf16F32 rnd d a b => Sys2Proof.Machine.execVcvtBf16F32 rnd d a b s
  | .vcvtF32Bf16 rnd d a => Sys2Proof.Machine.execVcvtF32Bf16 rnd d a s
  | .vcvtF16F32 rnd d a b => Sys2Proof.Machine.execVcvtF16F32 rnd d a b s
  | .vcvtF32F16 rnd d a => Sys2Proof.Machine.execVcvtF32F16 rnd d a s
  | .vcvtE4m3F32 rnd d a => Sys2Proof.Machine.execVcvtE4m3F32 rnd d a s
  | .vcvtE5m2F32 rnd d a => Sys2Proof.Machine.execVcvtE5m2F32 rnd d a s
  | .vcvtF32E4m3 rnd d a => Sys2Proof.Machine.execVcvtF32E4m3 rnd d a s
  | .vcvtF32E5m2 rnd d a => Sys2Proof.Machine.execVcvtF32E5m2 rnd d a s
  | .vperm d a b => Sys2Proof.Machine.execVperm d a b s
  | .vslideup d a b => Sys2Proof.Machine.execVslideup d a b s
  | .vslidedn d a b => Sys2Proof.Machine.execVslidedn d a b s
  | .vzip d a b => Sys2Proof.Machine.execVzip d a b s
  | .vunzip d a b => Sys2Proof.Machine.execVunzip d a b s
  | .vrev d a => Sys2Proof.Machine.execVrev d a s
  | .vredAddF32 rnd d a m => Sys2Proof.Machine.execVredAddF32 rnd d a m s
  | .vredMaxF32 rnd d a m => Sys2Proof.Machine.execVredMaxF32 rnd d a m s
  | .vredMinF32 rnd d a m => Sys2Proof.Machine.execVredMinF32 rnd d a m s
  | .vredAddI32 rnd d a m => Sys2Proof.Machine.execVredAddI32 rnd d a m s
  | .mand d a b => Sys2Proof.Machine.execMand d a b s
  | .mor d a b => Sys2Proof.Machine.execMor d a b s
  | .mxor d a b => Sys2Proof.Machine.execMxor d a b s
  | .mnot d a => Sys2Proof.Machine.execMnot d a s
  | .mpopc d a => Sys2Proof.Machine.execMpopc d a s
  | .mfirst d a => Sys2Proof.Machine.execMfirst d a s
  | .vquantB48e4m3 rnd d a b => Sys2Proof.Machine.execVquantB48e4m3 rnd d a b s
  | .vquantB48e5m2 rnd d a b => Sys2Proof.Machine.execVquantB48e5m2 rnd d a b s
  | .vquantB48e2m1 rnd d a b => Sys2Proof.Machine.execVquantB48e2m1 rnd d a b s
  | .vquantB48i8 rnd d a b => Sys2Proof.Machine.execVquantB48i8 rnd d a b s
  | .vquantB48i4 rnd d a b => Sys2Proof.Machine.execVquantB48i4 rnd d a b s
  | .vquantB48t2 rnd d a b => Sys2Proof.Machine.execVquantB48t2 rnd d a b s
  | .vdeqB48e4m3 d a b => Sys2Proof.Machine.execVdeqB48e4m3 d a b s
  | .vdeqB48e5m2 d a b => Sys2Proof.Machine.execVdeqB48e5m2 d a b s
  | .vdeqB48e2m1 d a b => Sys2Proof.Machine.execVdeqB48e2m1 d a b s
  | .vdeqB48i8 d a b => Sys2Proof.Machine.execVdeqB48i8 d a b s
  | .vdeqB48i4 d a b => Sys2Proof.Machine.execVdeqB48i4 d a b s
  | .vdeqB48t2 d a b => Sys2Proof.Machine.execVdeqB48t2 d a b s
  | .vspill a slot => Sys2Proof.Machine.execVspill a slot s
  | .vfill d slot => Sys2Proof.Machine.execVfill d slot s
  | .rdc d cr => Sys2Proof.Machine.execRdc d cr s
  | .wrc cr a => Sys2Proof.Machine.execWrc cr a s
  | .fenceJ scope => Sys2Proof.Machine.execFenceJ scope s
  | .fenceM scope => Sys2Proof.Machine.execFenceM scope s
  | .fenceK scope => Sys2Proof.Machine.execFenceK scope s
  | .cleanr w a b => Sys2Proof.Machine.execCleanr w a b s
  | .invalr w a b => Sys2Proof.Machine.execInvalr w a b s
  | .spawn a => Sys2Proof.Machine.execSpawn a s
  | .halt => Sys2Proof.Machine.execHalt s
  | .send d a b => Sys2Proof.Machine.execSend d a b s
  | .sendh d a b => Sys2Proof.Machine.execSendh d a b s
  | .recv d => Sys2Proof.Machine.execRecv d s
  | .recvLd d a => Sys2Proof.Machine.execRecvLd d a s
  | .recvSt a b => Sys2Proof.Machine.execRecvSt a b s
  | .reply a b => Sys2Proof.Machine.execReply a b s
  | .mret => Sys2Proof.Machine.execMret s
  | .dtcfg a b => Sys2Proof.Machine.execDtcfg a b s
  | .bqpush a => Sys2Proof.Machine.execBqpush a s
  | .bqwait d => Sys2Proof.Machine.execBqwait d s
  | .rcombAddF32 d a b => Sys2Proof.Machine.execRcombAddF32 d a b s
  | .rcombMaxF32 d a b => Sys2Proof.Machine.execRcombMaxF32 d a b s
  | .rcombMinF32 d a b => Sys2Proof.Machine.execRcombMinF32 d a b s
  | .rcombAddI32 d a b => Sys2Proof.Machine.execRcombAddI32 d a b s
  | .rcombMaxI32 d a b => Sys2Proof.Machine.execRcombMaxI32 d a b s
  | .rcombMinI32 d a b => Sys2Proof.Machine.execRcombMinI32 d a b s
  | .rcombWidBf16 d a => Sys2Proof.Machine.execRcombWidBf16 d a s
  | .rcombNarBf16 d a => Sys2Proof.Machine.execRcombNarBf16 d a s
  | .baddqB48e4m3 rnd d a b => Sys2Proof.Machine.execBaddqB48e4m3 rnd d a b s
  | .baddqB48e5m2 rnd d a b => Sys2Proof.Machine.execBaddqB48e5m2 rnd d a b s
  | .baddqB48e2m1 rnd d a b => Sys2Proof.Machine.execBaddqB48e2m1 rnd d a b s
  | .baddqB48i8 rnd d a b => Sys2Proof.Machine.execBaddqB48i8 rnd d a b s
  | .baddqB48i4 rnd d a b => Sys2Proof.Machine.execBaddqB48i4 rnd d a b s
  | .movl d imm => Sys2Proof.Machine.execMovl d imm s
  | .addl d a imm => Sys2Proof.Machine.execAddl d a imm s
  | .arm fmt a b c => Sys2Proof.Machine.execArm fmt a b c s
  | .disarm a b => Sys2Proof.Machine.execDisarm a b s
  | .winallocW a b => Sys2Proof.Machine.execWinallocW a b s
  | .winallocA a b => Sys2Proof.Machine.execWinallocA a b s
  | .winallocC a b => Sys2Proof.Machine.execWinallocC a b s
  | .winallocWl tsize a b c => Sys2Proof.Machine.execWinallocWl tsize a b c s
  | .winallocAl tsize a b c => Sys2Proof.Machine.execWinallocAl tsize a b c s
  | .join w ty af off a g c => Sys2Proof.Machine.execJoin w ty af off a g c s
  | .joinv w ty m off d a g c => Sys2Proof.Machine.execJoinv w ty m off d a g c s
  | .fill w src sz off a g c => Sys2Proof.Machine.execFill w src sz off a g c s
  | .thr w ty nt sz off d a g c => Sys2Proof.Machine.execThr w ty nt sz off d a g c s
  | .thrF w ty sz off d a g => Sys2Proof.Machine.execThrF w ty sz off d a g s
  | .freeze w ty sz off a g => Sys2Proof.Machine.execFreeze w ty sz off a g s
  | .freezeR w off a g c => Sys2Proof.Machine.execFreezeR w off a g c s
  | .frd w n off d a g => Sys2Proof.Machine.execFrd w n off d a g s
  | .frdv w n off d a g => Sys2Proof.Machine.execFrdv w n off d a g s
  | .renew w ty sz off a g => Sys2Proof.Machine.execRenew w ty sz off a g s
  | .mxsBf16 aft wrap z afmt ring k a b c => Sys2Proof.Machine.execMxsBf16 aft wrap z afmt ring k a b c s
  | .mxsF16 aft wrap z afmt ring k a b c => Sys2Proof.Machine.execMxsF16 aft wrap z afmt ring k a b c s
  | .mxsF8 aft wrap z afmt ring k a b c => Sys2Proof.Machine.execMxsF8 aft wrap z afmt ring k a b c s
  | .mxsE2m1 aft wrap z afmt ring k a b c => Sys2Proof.Machine.execMxsE2m1 aft wrap z afmt ring k a b c s
  | .mxsI8 aft wrap z afmt ring k a b c => Sys2Proof.Machine.execMxsI8 aft wrap z afmt ring k a b c s
  | .mxsI4 aft wrap z afmt ring k a b c => Sys2Proof.Machine.execMxsI4 aft wrap z afmt ring k a b c s
  | .mxsT2 aft wrap z afmt ring k a b c => Sys2Proof.Machine.execMxsT2 aft wrap z afmt ring k a b c s
  | .mxsB48 aft wrap z afmt ring k a b c => Sys2Proof.Machine.execMxsB48 aft wrap z afmt ring k a b c s
  | .mxz aft k b c => Sys2Proof.Machine.execMxz aft k b c s
  | .mxe rnd aft relu srci dbuf dfmt k a b c => Sys2Proof.Machine.execMxe rnd aft relu srci dbuf dfmt k a b c s
  | .ringcfg ring a b => Sys2Proof.Machine.execRingcfg ring a b s
  | .cpy w rnd aft dsp ssp conv ring k a b c => Sys2Proof.Machine.execCpy w rnd aft dsp ssp conv ring k a b c s
  | .cpya w rnd aft dsp ssp ring k a b c => Sys2Proof.Machine.execCpya w rnd aft dsp ssp ring k a b c s
  | .cpyg w rnd aft dsp ssp ring k a b c => Sys2Proof.Machine.execCpyg w rnd aft dsp ssp ring k a b c s
  | .cpys w rnd aft dsp ssp k a b c => Sys2Proof.Machine.execCpys w rnd aft dsp ssp k a b c s
  | .cpyr w aft ssp k a b c => Sys2Proof.Machine.execCpyr w aft ssp k a b c s
  | .sbind w rnd aft vreg ssp conv k b c => Sys2Proof.Machine.execSbind w rnd aft vreg ssp conv k b c s
  | .sunbind w vreg => Sys2Proof.Machine.execSunbind w vreg s
  | .bankcall w aft nr entry k a b => Sys2Proof.Machine.execBankcall w aft nr entry k a b s
  | .collAr w rnd aft rsp ssp k a b c => Sys2Proof.Machine.execCollAr w rnd aft rsp ssp k a b c s
  | .collRs w rnd aft rsp ssp k a b c => Sys2Proof.Machine.execCollRs w rnd aft rsp ssp k a b c s
  | .collAg w aft rsp ssp k a b c => Sys2Proof.Machine.execCollAg w aft rsp ssp k a b c s
  | .collA2a w aft rsp ssp k a b c => Sys2Proof.Machine.execCollA2a w aft rsp ssp k a b c s
  | .collBc w aft rsp ssp k a b c => Sys2Proof.Machine.execCollBc w aft rsp ssp k a b c s
  | .wait k => Sys2Proof.Machine.execWait k s
  | .waitm mask => Sys2Proof.Machine.execWaitm mask s
  | .cancel k => Sys2Proof.Machine.execCancel k s
  | .detach k b c => Sys2Proof.Machine.execDetach k b c s
  | .adopt k a => Sys2Proof.Machine.execAdopt k a s
  | .kprio k b => Sys2Proof.Machine.execKprio k b s
  | .kstat d k => Sys2Proof.Machine.execKstat d k s
  | .kmov d a => Sys2Proof.Machine.execKmov d a s
  | .vfmaF32 rnd d a b c => Sys2Proof.Machine.execVfmaF32 rnd d a b c s
  | .vfnmaF32 rnd d a b c => Sys2Proof.Machine.execVfnmaF32 rnd d a b c s
  | .vfmaI32 d a b c => Sys2Proof.Machine.execVfmaI32 d a b c s
  | .ack => Sys2Proof.Machine.execAck s
  | .refuse => Sys2Proof.Machine.execRefuse s
  | .wake => Sys2Proof.Machine.execWake s
  | .data => Sys2Proof.Machine.execData s
  | .postedRefusalTrap => Sys2Proof.Machine.execPostedRefusalTrap s
  | .pageFaultRepair => Sys2Proof.Machine.execPageFaultRepair s
  | .resume => Sys2Proof.Machine.execResume s
  | .operationReply => Sys2Proof.Machine.execOperationReply s
  | .redirectAcknowledgement => Sys2Proof.Machine.execRedirectAcknowledgement s
  | .eddyMerge => Sys2Proof.Machine.execEddyMerge s
  | .apply => Sys2Proof.Machine.execApply s
  | .invalidationComplete => Sys2Proof.Machine.execInvalidationComplete s
  | .evaluate => Sys2Proof.Machine.execEvaluate s
  | .frozenReadEvaluate => Sys2Proof.Machine.execFrozenReadEvaluate s
  | .landingApply => Sys2Proof.Machine.execLandingApply s
  | .armSequencerMacro => Sys2Proof.Machine.execArmSequencerMacro s
  | .retentionEntry => Sys2Proof.Machine.execRetentionEntry s
  | .engineMessageArrival => Sys2Proof.Machine.execEngineMessageArrival s
  | .operationStart => Sys2Proof.Machine.execOperationStart s
  | .cancelArrival => Sys2Proof.Machine.execCancelArrival s
  | .matrixUnit => Sys2Proof.Machine.execMatrixUnit s
  | .copyStrip => Sys2Proof.Machine.execCopyStrip s
  | .streamStrip => Sys2Proof.Machine.execStreamStrip s
  | .cpyrRequest => Sys2Proof.Machine.execCpyrRequest s
  | .readyToReceive => Sys2Proof.Machine.execReadyToReceive s
  | .remoteCopyStrip => Sys2Proof.Machine.execRemoteCopyStrip s
  | .collectiveBlock => Sys2Proof.Machine.execCollectiveBlock s
  | .bankcallMessage => Sys2Proof.Machine.execBankcallMessage s
  | .bankRowUnit => Sys2Proof.Machine.execBankRowUnit s
  | .buseg => Sys2Proof.Machine.execBuseg s
  | .ordinaryAccessArrival => Sys2Proof.Machine.execOrdinaryAccessArrival s
  | .buSuspend => Sys2Proof.Machine.execBuSuspend s
  | .ordinaryPhaseEnd => Sys2Proof.Machine.execOrdinaryPhaseEnd s
  | .rfm => Sys2Proof.Machine.execRfm s
  | .stackAlert => Sys2Proof.Machine.execStackAlert s
  | .modeSwitchNormal => Sys2Proof.Machine.execModeSwitchNormal s
  | .modeSwitchNearBank => Sys2Proof.Machine.execModeSwitchNearBank s
  | .modeSwitchComplete => Sys2Proof.Machine.execModeSwitchComplete s
  | .controlStoreLoad => Sys2Proof.Machine.execControlStoreLoad s
  | .handlerDispatch => Sys2Proof.Machine.execHandlerDispatch s
  | .messageForward => Sys2Proof.Machine.execMessageForward s
  | .launchEntryProcess => Sys2Proof.Machine.execLaunchEntryProcess s
  | .queueBind => Sys2Proof.Machine.execQueueBind s
  | .gateWake => Sys2Proof.Machine.execGateWake s
  | .placement => Sys2Proof.Machine.execPlacement s
  | .levelConfinementExpiry => Sys2Proof.Machine.execLevelConfinementExpiry s
  | .gangPlacement => Sys2Proof.Machine.execGangPlacement s
  | .coreReturn => Sys2Proof.Machine.execCoreReturn s
  | .preemption => Sys2Proof.Machine.execPreemption s
  | .drainComplete => Sys2Proof.Machine.execDrainComplete s
  | .streamComplete => Sys2Proof.Machine.execStreamComplete s
  | .restore => Sys2Proof.Machine.execRestore s
  | .threadMove => Sys2Proof.Machine.execThreadMove s
  | .migration => Sys2Proof.Machine.execMigration s
  | .coreEmptyRequest => Sys2Proof.Machine.execCoreEmptyRequest s
  | .coreReturnToService => Sys2Proof.Machine.execCoreReturnToService s
  | .pageMove => Sys2Proof.Machine.execPageMove s
  | .quiescenceSweep => Sys2Proof.Machine.execQuiescenceSweep s
  | .contextComplete => Sys2Proof.Machine.execContextComplete s
  | .contextStopped => Sys2Proof.Machine.execContextStopped s
  | .contextFaultRecord => Sys2Proof.Machine.execContextFaultRecord s
  | .breakpoint => Sys2Proof.Machine.execBreakpoint s
  | .haltGroupStop => Sys2Proof.Machine.execHaltGroupStop s
  | .haltGroupRun => Sys2Proof.Machine.execHaltGroupRun s
  | .haltGroupStep => Sys2Proof.Machine.execHaltGroupStep s
  | .debugRegisterWrite => Sys2Proof.Machine.execDebugRegisterWrite s
  | .queueEnable => Sys2Proof.Machine.execQueueEnable s
  | .queueDisable => Sys2Proof.Machine.execQueueDisable s
  | .queueClose => Sys2Proof.Machine.execQueueClose s
  | .notify => Sys2Proof.Machine.execNotify s
  | .windowEnable => Sys2Proof.Machine.execWindowEnable s
  | .windowClose => Sys2Proof.Machine.execWindowClose s
  | .registerWrite => Sys2Proof.Machine.execRegisterWrite s
  | .create => Sys2Proof.Machine.execCreate s
  | .release => Sys2Proof.Machine.execRelease s
  | .scrubComplete => Sys2Proof.Machine.execScrubComplete s
  | .seal => Sys2Proof.Machine.execSeal s
  | .sealComplete => Sys2Proof.Machine.execSealComplete s
  | .auditread => Sys2Proof.Machine.execAuditread s
  | .hostWrite => Sys2Proof.Machine.execHostWrite s
  | .hostRead => Sys2Proof.Machine.execHostRead s
  | .keyLoad => Sys2Proof.Machine.execKeyLoad s
  | .getVersion => Sys2Proof.Machine.execGetVersion s
  | .getCapabilities => Sys2Proof.Machine.execGetCapabilities s
  | .negotiateAlgorithms => Sys2Proof.Machine.execNegotiateAlgorithms s
  | .getDigests => Sys2Proof.Machine.execGetDigests s
  | .getCertificate => Sys2Proof.Machine.execGetCertificate s
  | .challenge => Sys2Proof.Machine.execChallenge s
  | .getMeasurements => Sys2Proof.Machine.execGetMeasurements s
  | .keyExchange => Sys2Proof.Machine.execKeyExchange s
  | .finish => Sys2Proof.Machine.execFinish s
  | .endSession => Sys2Proof.Machine.execEndSession s
  | .deviceReset => Sys2Proof.Machine.execDeviceReset s
  | .linkBringup => Sys2Proof.Machine.execLinkBringup s
  | .flitReceive => Sys2Proof.Machine.execFlitReceive s
  | .linkKeyReplace => Sys2Proof.Machine.execLinkKeyReplace s
  | .laneSpare => Sys2Proof.Machine.execLaneSpare s
  | .linkRetrainComplete => Sys2Proof.Machine.execLinkRetrainComplete s
  | .redirect => Sys2Proof.Machine.execRedirect s
  | .writeBackComplete => Sys2Proof.Machine.execWriteBackComplete s
  | .replicaCreate => Sys2Proof.Machine.execReplicaCreate s
  | .throttling => Sys2Proof.Machine.execThrottling s
  | .functionLevelReset => Sys2Proof.Machine.execFunctionLevelReset s

end Sys2Proof.Machine
end

