-- ==== Sys2Proof/Machine/Gap.lean ====
section
/-! DEFINITION. The registers and latencies of groups, and the checking scoreboard (R231 to R234, Tables 9.5 and 9.11a). -/

namespace Sys2Proof.Machine

/-! ## Registers of a group (R231, R232) -/

/-- What the checking scoreboard knows of a group: the registers it reads, those it writes, and the latency of its
results. Token registers are left out: every token write has L = 1 and is never pending. -/
structure RegUse where
  src : List RegId := []
  dst : List RegId := []
  lat : Nat := 1
  deriving DecidableEq, Repr

/-- A scalar register. -/
def rx (r : Fin 32) : RegId := { file := .x, idx := r.val }

/-- A vector register. -/
def rv (r : Fin 32) : RegId := { file := .v, idx := r.val }

/-- A mask register. -/
def rm (r : Fin 8) : RegId := { file := .m, idx := r.val }

/-- The scalar registers from `c` on that hold the candidates of a THR. -/
def rxs (c : Fin 32) (n : Nat) : List RegId := (countFrom c.val n).map (fun i => { file := .x, idx := i % 32 })

/-- The registers that a THR names by its trigger set: none when NT is 0 (R308). -/
def thrRegs (ty : Fin 16) (nt : Fin 8) (c : Fin 32) : List RegId :=
  if nt.val = 0 then [] else if ty.val = 5 then [rv c] else rxs c nt.val

/-- The registers of each instruction as its entry names them, with the latency of Table 9.5. A group that reads a bound
stream register keeps the class of its own instruction (DESIGN CHOICE, log 66). -/
def regsOf (i : Instr) : RegUse :=
  match i with
  | .add d a b => { src := [rx a, rx b], dst := [rx d] }
  | .sub d a b => { src := [rx a, rx b], dst := [rx d] }
  | .and d a b => { src := [rx a, rx b], dst := [rx d] }
  | .or d a b => { src := [rx a, rx b], dst := [rx d] }
  | .xor d a b => { src := [rx a, rx b], dst := [rx d] }
  | .sll d a b => { src := [rx a, rx b], dst := [rx d] }
  | .srl d a b => { src := [rx a, rx b], dst := [rx d] }
  | .sra d a b => { src := [rx a, rx b], dst := [rx d] }
  | .slt d a b => { src := [rx a, rx b], dst := [rx d] }
  | .sltn d a b => { src := [rx a, rx b], dst := [rx d] }
  | .min d a b => { src := [rx a, rx b], dst := [rx d] }
  | .max d a b => { src := [rx a, rx b], dst := [rx d] }
  | .minn d a b => { src := [rx a, rx b], dst := [rx d] }
  | .maxn d a b => { src := [rx a, rx b], dst := [rx d] }
  | .andn d a b => { src := [rx a, rx b], dst := [rx d] }
  | .orn d a b => { src := [rx a, rx b], dst := [rx d] }
  | .mul d a b => { src := [rx a, rx b], dst := [rx d], lat := 3 }
  | .mulh d a b => { src := [rx a, rx b], dst := [rx d], lat := 3 }
  | .mulhn d a b => { src := [rx a, rx b], dst := [rx d], lat := 3 }
  | .mulhsn d a b => { src := [rx a, rx b], dst := [rx d], lat := 3 }
  | .div d a b => { src := [rx a, rx b], dst := [rx d] }
  | .divn d a b => { src := [rx a, rx b], dst := [rx d] }
  | .rem d a b => { src := [rx a, rx b], dst := [rx d] }
  | .remn d a b => { src := [rx a, rx b], dst := [rx d] }
  | .clz d a => { src := [rx a], dst := [rx d], lat := 3 }
  | .ctz d a => { src := [rx a], dst := [rx d], lat := 3 }
  | .popc d a => { src := [rx a], dst := [rx d], lat := 3 }
  | .rev8 d a => { src := [rx a], dst := [rx d], lat := 3 }
  | .addi d a _ => { src := [rx a], dst := [rx d] }
  | .andi d a _ => { src := [rx a], dst := [rx d] }
  | .ori d a _ => { src := [rx a], dst := [rx d] }
  | .xori d a _ => { src := [rx a], dst := [rx d] }
  | .slli d a _ => { src := [rx a], dst := [rx d] }
  | .srli d a _ => { src := [rx a], dst := [rx d] }
  | .srai d a _ => { src := [rx a], dst := [rx d] }
  | .slti d a _ => { src := [rx a], dst := [rx d] }
  | .sltni d a _ => { src := [rx a], dst := [rx d] }
  | .movi d _ => { dst := [rx d] }
  | .sext8 d a => { src := [rx a], dst := [rx d] }
  | .sext16 d a => { src := [rx a], dst := [rx d] }
  | .sext32 d a => { src := [rx a], dst := [rx d] }
  | .zext8 d a => { src := [rx a], dst := [rx d] }
  | .zext16 d a => { src := [rx a], dst := [rx d] }
  | .zext32 d a => { src := [rx a], dst := [rx d] }
  | .beq a b _ => { src := [rx a, rx b] }
  | .bne a b _ => { src := [rx a, rx b] }
  | .blt a b _ => { src := [rx a, rx b] }
  | .bge a b _ => { src := [rx a, rx b] }
  | .bltn a b _ => { src := [rx a, rx b] }
  | .bgen a b _ => { src := [rx a, rx b] }
  | .jmp _ => {}
  | .jal _ => { dst := [rx 1] }
  | .jalr d a _ => { src := [rx a], dst := [rx d] }
  | .loop _ a _ => { src := [rx a] }
  | .bmaskNone m _ => { src := [rm m] }
  | .bmaskAny m _ => { src := [rm m] }
  | .bmaskAll m _ => { src := [rm m] }
  | .bflClr _ _ => {}
  | .bflSet _ _ => {}
  | .trap _ => {}
  | .faddF32 _ d a b => { src := [rx a, rx b], dst := [rx d], lat := 4 }
  | .fsubF32 _ d a b => { src := [rx a, rx b], dst := [rx d], lat := 4 }
  | .fmulF32 _ d a b => { src := [rx a, rx b], dst := [rx d], lat := 4 }
  | .fdivF32 _ d a b => { src := [rx a, rx b], dst := [rx d] }
  | .fminF32 _ d a b => { src := [rx a, rx b], dst := [rx d], lat := 4 }
  | .fmaxF32 _ d a b => { src := [rx a, rx b], dst := [rx d], lat := 4 }
  | .fltF32 _ d a b => { src := [rx a, rx b], dst := [rx d], lat := 4 }
  | .feqF32 _ d a b => { src := [rx a, rx b], dst := [rx d], lat := 4 }
  | .cvtF32I64 _ d a => { src := [rx a], dst := [rx d], lat := 4 }
  | .cvtI64F32 _ d a => { src := [rx a], dst := [rx d], lat := 4 }
  | .ldI8 _ d a _ => { src := [rx a], dst := [rx d] }
  | .ldN8 _ d a _ => { src := [rx a], dst := [rx d] }
  | .ldI16 _ d a _ => { src := [rx a], dst := [rx d] }
  | .ldN16 _ d a _ => { src := [rx a], dst := [rx d] }
  | .ldI32 _ d a _ => { src := [rx a], dst := [rx d] }
  | .ldN32 _ d a _ => { src := [rx a], dst := [rx d] }
  | .ld64 _ d a _ => { src := [rx a], dst := [rx d] }
  | .st8 _ s a _ => { src := [rx s, rx a] }
  | .st16 _ s a _ => { src := [rx s, rx a] }
  | .st32 _ s a _ => { src := [rx s, rx a] }
  | .st64 _ s a _ => { src := [rx s, rx a] }
  | .prf _ a _ => { src := [rx a] }
  | .vaddF32 _ d a b => { src := [rv a, rv b], dst := [rv d], lat := 4 }
  | .vsubF32 _ d a b => { src := [rv a, rv b], dst := [rv d], lat := 4 }
  | .vmulF32 _ d a b => { src := [rv a, rv b], dst := [rv d], lat := 4 }
  | .vdivF32 _ d a b => { src := [rv a, rv b], dst := [rv d] }
  | .vminF32 _ d a b => { src := [rv a, rv b], dst := [rv d], lat := 4 }
  | .vmaxF32 _ d a b => { src := [rv a, rv b], dst := [rv d], lat := 4 }
  | .vabsF32 _ d a => { src := [rv a], dst := [rv d], lat := 4 }
  | .vnegF32 _ d a => { src := [rv a], dst := [rv d], lat := 4 }
  | .vsqrtF32 _ d a => { src := [rv a], dst := [rv d] }
  | .vaddI32 d a b => { src := [rv a, rv b], dst := [rv d], lat := 2 }
  | .vsubI32 d a b => { src := [rv a, rv b], dst := [rv d], lat := 2 }
  | .vmulI32 d a b => { src := [rv a, rv b], dst := [rv d], lat := 2 }
  | .vminI32 d a b => { src := [rv a, rv b], dst := [rv d], lat := 2 }
  | .vmaxI32 d a b => { src := [rv a, rv b], dst := [rv d], lat := 2 }
  | .vminN32 d a b => { src := [rv a, rv b], dst := [rv d], lat := 2 }
  | .vmaxN32 d a b => { src := [rv a, rv b], dst := [rv d], lat := 2 }
  | .vand d a b => { src := [rv a, rv b], dst := [rv d], lat := 2 }
  | .vor d a b => { src := [rv a, rv b], dst := [rv d], lat := 2 }
  | .vxor d a b => { src := [rv a, rv b], dst := [rv d], lat := 2 }
  | .vsllI32 d a b => { src := [rv a, rv b], dst := [rv d], lat := 2 }
  | .vsrlI32 d a b => { src := [rv a, rv b], dst := [rv d], lat := 2 }
  | .vsraI32 d a b => { src := [rv a, rv b], dst := [rv d], lat := 2 }
  | .vcmpeqF32 d a b => { src := [rv a, rv b], dst := [rm d], lat := 2 }
  | .vcmpltF32 d a b => { src := [rv a, rv b], dst := [rm d], lat := 2 }
  | .vcmpleF32 d a b => { src := [rv a, rv b], dst := [rm d], lat := 2 }
  | .vcmpeqI32 d a b => { src := [rv a, rv b], dst := [rm d], lat := 2 }
  | .vcmpltI32 d a b => { src := [rv a, rv b], dst := [rm d], lat := 2 }
  | .vcmpltN32 d a b => { src := [rv a, rv b], dst := [rm d], lat := 2 }
  | .vsel d a b m => { src := [rv a, rv b, rm m], dst := [rv d], lat := 2 }
  | .vld _ d a _ => { src := [rx a], dst := [rv d] }
  | .vst _ _ s a _ => { src := [rv s, rx a] }
  | .vbcast32 d a => { src := [rx a], dst := [rv d], lat := 2 }
  | .vbcast16 d a => { src := [rx a], dst := [rv d], lat := 2 }
  | .vbcast8 d a => { src := [rx a], dst := [rv d], lat := 2 }
  | .vmovx d a b => { src := [rv a, rx b], dst := [rx d], lat := 2 }
  | .vcvtF32I32 _ d a => { src := [rv a], dst := [rv d], lat := 3 }
  | .vcvtI32F32 _ d a => { src := [rv a], dst := [rv d], lat := 3 }
  | .vcvtBf16F32 _ d a b => { src := [rv a, rv b], dst := [rv d], lat := 3 }
  | .vcvtF32Bf16 _ d a => { src := [rv a], dst := [rv d], lat := 3 }
  | .vcvtF16F32 _ d a b => { src := [rv a, rv b], dst := [rv d], lat := 3 }
  | .vcvtF32F16 _ d a => { src := [rv a], dst := [rv d], lat := 3 }
  | .vcvtE4m3F32 _ d a => { src := [rv a], dst := [rv d], lat := 3 }
  | .vcvtE5m2F32 _ d a => { src := [rv a], dst := [rv d], lat := 3 }
  | .vcvtF32E4m3 _ d a => { src := [rv a], dst := [rv d], lat := 3 }
  | .vcvtF32E5m2 _ d a => { src := [rv a], dst := [rv d], lat := 3 }
  | .vperm d a b => { src := [rv a, rv b], dst := [rv d], lat := 3 }
  | .vslideup d a b => { src := [rv a, rx b], dst := [rv d], lat := 3 }
  | .vslidedn d a b => { src := [rv a, rx b], dst := [rv d], lat := 3 }
  | .vzip d a b => { src := [rv a, rv b], dst := [rv d], lat := 3 }
  | .vunzip d a b => { src := [rv a, rv b], dst := [rv d], lat := 3 }
  | .vrev d a => { src := [rv a], dst := [rv d], lat := 3 }
  | .vredAddF32 _ d a m => { src := [rv a, rm m], dst := [rx d], lat := 6 }
  | .vredMaxF32 _ d a m => { src := [rv a, rm m], dst := [rx d], lat := 6 }
  | .vredMinF32 _ d a m => { src := [rv a, rm m], dst := [rx d], lat := 6 }
  | .vredAddI32 _ d a m => { src := [rv a, rm m], dst := [rx d], lat := 6 }
  | .mand d a b => { src := [rm a, rm b], dst := [rm d], lat := 2 }
  | .mor d a b => { src := [rm a, rm b], dst := [rm d], lat := 2 }
  | .mxor d a b => { src := [rm a, rm b], dst := [rm d], lat := 2 }
  | .mnot d a => { src := [rm a], dst := [rm d], lat := 2 }
  | .mpopc d a => { src := [rm a], dst := [rx d], lat := 2 }
  | .mfirst d a => { src := [rm a], dst := [rx d], lat := 2 }
  | .vquantB48e4m3 _ d a b => { src := [rv a], dst := [rv d, rx b], lat := 8 }
  | .vquantB48e5m2 _ d a b => { src := [rv a], dst := [rv d, rx b], lat := 8 }
  | .vquantB48e2m1 _ d a b => { src := [rv a], dst := [rv d, rx b], lat := 8 }
  | .vquantB48i8 _ d a b => { src := [rv a], dst := [rv d, rx b], lat := 8 }
  | .vquantB48i4 _ d a b => { src := [rv a], dst := [rv d, rx b], lat := 8 }
  | .vquantB48t2 _ d a b => { src := [rv a], dst := [rv d, rx b], lat := 8 }
  | .vdeqB48e4m3 d a b => { src := [rv a, rx b], dst := [rv d], lat := 4 }
  | .vdeqB48e5m2 d a b => { src := [rv a, rx b], dst := [rv d], lat := 4 }
  | .vdeqB48e2m1 d a b => { src := [rv a, rx b], dst := [rv d], lat := 4 }
  | .vdeqB48i8 d a b => { src := [rv a, rx b], dst := [rv d], lat := 4 }
  | .vdeqB48i4 d a b => { src := [rv a, rx b], dst := [rv d], lat := 4 }
  | .vdeqB48t2 d a b => { src := [rv a, rx b], dst := [rv d], lat := 4 }
  | .vspill a _ => { src := [rv a] }
  | .vfill d _ => { dst := [rv d] }
  | .rdc d _ => { dst := [rx d] }
  | .wrc _ a => { src := [rx a] }
  | .fenceJ _ => {}
  | .fenceM _ => {}
  | .fenceK _ => {}
  | .cleanr _ a b => { src := [rx a, rx b] }
  | .invalr _ a b => { src := [rx a, rx b] }
  | .spawn a => { src := [rx a] }
  | .send d a b => { src := [rx d, rx a, rx b] }
  | .sendh d a b => { src := [rx d, rx a, rx b] }
  | .recv d => { dst := [rx d] }
  | .recvLd d a => { src := [rx a], dst := [rx d] }
  | .recvSt a b => { src := [rx a, rx b] }
  | .reply a b => { src := [rx a, rx b] }
  | .dtcfg a b => { src := [rx a, rx b] }
  | .bqpush a => { src := [rx a] }
  | .bqwait d => { dst := [rx d] }
  | .rcombAddF32 d a b => { src := [rx d, rx a, rx b] }
  | .rcombMaxF32 d a b => { src := [rx d, rx a, rx b] }
  | .rcombMinF32 d a b => { src := [rx d, rx a, rx b] }
  | .rcombAddI32 d a b => { src := [rx d, rx a, rx b] }
  | .rcombMaxI32 d a b => { src := [rx d, rx a, rx b] }
  | .rcombMinI32 d a b => { src := [rx d, rx a, rx b] }
  | .rcombWidBf16 d a => { src := [rx d, rx a] }
  | .rcombNarBf16 d a => { src := [rx d, rx a] }
  | .baddqB48e4m3 _ d a b => { src := [rx a, rx b], dst := [rx d] }
  | .baddqB48e5m2 _ d a b => { src := [rx a, rx b], dst := [rx d] }
  | .baddqB48e2m1 _ d a b => { src := [rx a, rx b], dst := [rx d] }
  | .baddqB48i8 _ d a b => { src := [rx a, rx b], dst := [rx d] }
  | .baddqB48i4 _ d a b => { src := [rx a, rx b], dst := [rx d] }
  | .movl d _ => { dst := [rx d] }
  | .addl d a _ => { src := [rx a], dst := [rx d] }
  | .arm _ a b c => { src := [rx a, rx b, rx c] }
  | .disarm a b => { src := [rx a, rx b] }
  | .winallocW a b => { src := [rx a, rx b] }
  | .winallocA a b => { src := [rx a, rx b] }
  | .winallocC a b => { src := [rx a, rx b] }
  | .winallocWl _ a b c => { src := [rx a, rx b, rx c] }
  | .winallocAl _ a b c => { src := [rx a, rx b, rx c] }
  | .join _ ty _ _ a g c => { src := [rx a, rx g, (if ty.val = 5 then rv c else rx c)] }
  | .joinv _ _ m _ d a g c => { src := [rm m, rv d, rx a, rx g, rv c] }
  | .fill _ src _ _ a g c => { src := [rx a, rx g, (if src.val = 1 then rv c else rx c)] }
  | .thr _ ty nt sz _ d a g c =>
    { src := [rx a, rx g] ++ thrRegs ty nt c
      dst := rx d :: (if ty.val = 8 ∧ nt.val = 0 ∧ sz.val = 0 then [rx (Fin.ofNat 32 (d.val + 1))] else []) }
  | .thrF _ _ _ _ d a g => { src := [rx a, rx g], dst := [rx d] }
  | .freeze _ _ _ _ a g => { src := [rx a, rx g] }
  | .freezeR _ _ a g c => { src := [rx a, rx g, rx c] }
  | .frd _ _ _ d a g => { src := [rx a, rx g], dst := [rx d] }
  | .frdv _ _ _ d a g => { src := [rx a, rx g], dst := [rv d] }
  | .renew _ _ _ _ a g => { src := [rx a, rx g] }
  | .mxsBf16 _ _ _ _ _ _ a b c => { src := [rx a, rx b, rx c] }
  | .mxsF16 _ _ _ _ _ _ a b c => { src := [rx a, rx b, rx c] }
  | .mxsF8 _ _ _ _ _ _ a b c => { src := [rx a, rx b, rx c] }
  | .mxsE2m1 _ _ _ _ _ _ a b c => { src := [rx a, rx b, rx c] }
  | .mxsI8 _ _ _ _ _ _ a b c => { src := [rx a, rx b, rx c] }
  | .mxsI4 _ _ _ _ _ _ a b c => { src := [rx a, rx b, rx c] }
  | .mxsT2 _ _ _ _ _ _ a b c => { src := [rx a, rx b, rx c] }
  | .mxsB48 _ _ _ _ _ _ a b c => { src := [rx a, rx b, rx c] }
  | .mxz _ _ b c => { src := [rx b, rx c] }
  | .mxe _ _ _ _ _ _ _ a b c => { src := [rx a, rx b, rx c] }
  | .ringcfg _ a b => { src := [rx a, rx b] }
  | .cpy _ _ _ _ _ _ _ _ a b c => { src := [rx a, rx b, rx c] }
  | .cpya _ _ _ _ _ _ _ a b c => { src := [rx a, rx b, rx c] }
  | .cpyg _ _ _ _ _ _ _ a b c => { src := [rx a, rx b, rx c] }
  | .cpys _ _ _ _ _ _ a b c => { src := [rx a, rx b, rx c] }
  | .cpyr _ _ _ _ a b c => { src := [rx a, rx b, rx c] }
  | .sbind _ _ _ _ _ _ _ b c => { src := [rx b, rx c] }
  | .sunbind _ v => { dst := [rv (Fin.ofNat 32 (24 + v.val))] }
  | .bankcall _ _ _ _ _ a b => { src := [rx a, rx b] }
  | .collAr _ _ _ _ _ _ a b c => { src := [rx a, rx b, rx c] }
  | .collRs _ _ _ _ _ _ a b c => { src := [rx a, rx b, rx c] }
  | .collAg _ _ _ _ _ a b c => { src := [rx a, rx b, rx c] }
  | .collA2a _ _ _ _ _ a b c => { src := [rx a, rx b, rx c] }
  | .collBc _ _ _ _ _ a b c => { src := [rx a, rx b, rx c] }
  | .wait _ => {}
  | .waitm _ => {}
  | .cancel _ => {}
  | .detach _ b c => { src := [rx b, rx c] }
  | .adopt _ a => { src := [rx a] }
  | .kprio _ b => { src := [rx b] }
  | .kstat d _ => { dst := [rx d, rx (Fin.ofNat 32 (d.val + 1))] }
  | .kmov _ _ => {}
  | .vfmaF32 _ d a b c => { src := [rv a, rv b, rv c], dst := [rv d], lat := 5 }
  | .vfnmaF32 _ d a b c => { src := [rv a, rv b, rv c], dst := [rv d], lat := 5 }
  | .vfmaI32 d a b c => { src := [rv a, rv b, rv c], dst := [rv d], lat := 5 }
  | .collectiveBlock => {}
  | .nop => {}
  | .exit => {}
  | .yield => {}
  | .eret => {}
  | .halt => {}
  | .mret => {}
  | .ack => {}
  | .refuse => {}
  | .wake => {}
  | .data => {}
  | .postedRefusalTrap => {}
  | .pageFaultRepair => {}
  | .resume => {}
  | .operationReply => {}
  | .redirectAcknowledgement => {}
  | .eddyMerge => {}
  | .apply => {}
  | .invalidationComplete => {}
  | .evaluate => {}
  | .frozenReadEvaluate => {}
  | .landingApply => {}
  | .armSequencerMacro => {}
  | .retentionEntry => {}
  | .engineMessageArrival => {}
  | .operationStart => {}
  | .cancelArrival => {}
  | .matrixUnit => {}
  | .copyStrip => {}
  | .streamStrip => {}
  | .cpyrRequest => {}
  | .readyToReceive => {}
  | .remoteCopyStrip => {}
  | .bankcallMessage => {}
  | .bankRowUnit => {}
  | .buseg => {}
  | .ordinaryAccessArrival => {}
  | .buSuspend => {}
  | .ordinaryPhaseEnd => {}
  | .rfm => {}
  | .stackAlert => {}
  | .modeSwitchNormal => {}
  | .modeSwitchNearBank => {}
  | .modeSwitchComplete => {}
  | .controlStoreLoad => {}
  | .handlerDispatch => {}
  | .messageForward => {}
  | .launchEntryProcess => {}
  | .queueBind => {}
  | .gateWake => {}
  | .placement => {}
  | .levelConfinementExpiry => {}
  | .gangPlacement => {}
  | .coreReturn => {}
  | .preemption => {}
  | .drainComplete => {}
  | .streamComplete => {}
  | .restore => {}
  | .threadMove => {}
  | .migration => {}
  | .coreEmptyRequest => {}
  | .coreReturnToService => {}
  | .pageMove => {}
  | .quiescenceSweep => {}
  | .contextComplete => {}
  | .contextStopped => {}
  | .contextFaultRecord => {}
  | .breakpoint => {}
  | .haltGroupStop => {}
  | .haltGroupRun => {}
  | .haltGroupStep => {}
  | .debugRegisterWrite => {}
  | .queueEnable => {}
  | .queueDisable => {}
  | .queueClose => {}
  | .notify => {}
  | .windowEnable => {}
  | .windowClose => {}
  | .registerWrite => {}
  | .create => {}
  | .release => {}
  | .scrubComplete => {}
  | .seal => {}
  | .sealComplete => {}
  | .auditread => {}
  | .hostWrite => {}
  | .hostRead => {}
  | .keyLoad => {}
  | .getVersion => {}
  | .getCapabilities => {}
  | .negotiateAlgorithms => {}
  | .getDigests => {}
  | .getCertificate => {}
  | .challenge => {}
  | .getMeasurements => {}
  | .keyExchange => {}
  | .finish => {}
  | .endSession => {}
  | .deviceReset => {}
  | .linkBringup => {}
  | .flitReceive => {}
  | .linkKeyReplace => {}
  | .laneSpare => {}
  | .linkRetrainComplete => {}
  | .redirect => {}
  | .writeBackComplete => {}
  | .replicaCreate => {}
  | .throttling => {}
  | .functionLevelReset => {}

/-- A register whose results are never pending: x0 and m0 are fixed (R224, R272). -/
def RegId.fixed (r : RegId) : Bool := (r.file == .x || r.file == .m) && r.idx == 0

/-! ## Detection (R232) -/

/-- Whether a result of a register is pending. -/
def Hart.isPending (h : Hart) (r : RegId) : Bool := !r.fixed && h.board.any (fun e => e.reg == r)

/-- The registers of a group that a result is pending for, sources first. -/
def Hart.undersized (h : Hart) (u : RegUse) : List RegId := ((u.src ++ u.dst).filter h.isPending).dedup

/-- The code of a register file (Table 16.1). -/
def RegFile.code (f : RegFile) : Nat :=
  match f with
  | .x => 0
  | .v => 1
  | .m => 2
  | .k => 3

/-- The DETAIL of a register: file in [7:5], register in [4:0]. -/
def RegId.detail (r : RegId) : Nat := r.file.code * 32 + r.idx % 32

/-- The register that the cause names when several are pending: the manual does not say which (log 9). -/
def pickReg (l : List RegId) : Nat :=
  match l with
  | [] => 0
  | [r] => r.detail
  | r :: _ => ((l[Config.pendingPick (l.map RegId.detail) % l.length]?).getD r).detail

/-! ## An undersized gap with EN = 0 (R233) -/

/-- The values that a pending register may yield: what it holds, and for each pending result, the oldest first, the value
before it and the result that is yet to come. -/
def yielded (n : Nat) : List Pend → Nat → Nat → Nat
  | [], _, v => v
  | e :: l, k, v =>
    let v1 := if Config.earlierValue (n + k) then e.old else v
    let v2 := match e.later with
      | some r => if Config.laterResult (n + k) then r else v1
      | none => v1
    yielded n l (k + 1) v2

/-- The newest entry of a register keeps what the register holds while it shows another value. -/
def holdNewest (r : RegId) (v : Nat) (l : List Pend) : List Pend :=
  match l.reverse.findIdx? (fun e => e.reg == r) with
  | none => l
  | some i => l.modify (l.length - 1 - i) (fun e => { e with held := some v })

/-- A source register shows a value that its reader may see; a held group sees the same again. -/
def State.showSource (s : State) (r : RegId) : State :=
  let es := s.h.board.filter (fun e => e.reg == r)
  if es.any (·.held.isSome) then s else
  let v := s.h.rawReg r
  let w := yielded s.free es 0 v
  let g := { s.h with board := holdNewest r v s.h.board }
  { s with h := g.setRawReg r w, free := s.free + es.length }

/-- HIT and DETREL are set, and each pending source shows one of its values (R233). -/
def State.allowGap (s : State) (u : RegUse) : State :=
  let c := s.h.ctl
  let s1 := s.setCtl { c with chk := c.chk ||| 2 }
  let s2 := if s1.h.isThread then s1.setDetrel s1.h.task.ctx else s1
  ((u.src.filter s2.h.isPending).dedup).foldl State.showSource s2

/-- The check of a group: the detail of the trap with EN = 1, otherwise the state in which the
group executes. -/
def State.gapCheck (s : State) (u : RegUse) : Except Nat State :=
  match s.h.undersized u with
  | [] => .ok s
  | l => if s.h.ctl.chk.getLsbD 0 then .error (pickReg l) else .ok (s.allowGap u)

/-! ## After the group (R232, R233) -/

/-- What a register ends with that a group writes while a result for it is pending: the newest pending result may still come
after the group's own (R233). `v` is what the register held before the group. -/
def Pend.overwritten (e : Pend) (n v : Nat) : Pend :=
  let r := e.later.getD (e.held.getD v)
  { e with held := none, later := if Config.laterResult n then some r else none }

/-- The entries after a group that writes `dst`; `old` gives what each register held before it. -/
def writeBoard (old : RegId → Nat) (n : Nat) (dst : List RegId) (l : List Pend) : List Pend :=
  dst.foldl (fun b r => match b.reverse.findIdx? (fun e => e.reg == r) with
    | none => b
    | some i => b.modify (b.length - 1 - i) (fun e => e.overwritten n (old r))) l

/-- What a register holds when no reader is shown another value. -/
def Hart.ownReg (h : Hart) (r : RegId) : Nat :=
  ((h.board.reverse.find? (fun e => e.reg == r)).bind (·.held)).getD (h.rawReg r)

/-- A register that showed another value to a reader holds its own again. -/
def Hart.unhold (h : Hart) : Hart :=
  let g := h.board.foldl (fun (g : Hart) e => match e.held with
    | some v => g.setRawReg e.reg v
    | none => g) h
  { g with board := h.board.map (fun e => { e with held := none }) }

/-- The distance grows by `n`: a result that has come is written if it was to overwrite a later one, and leaves the board. -/
def Hart.advance (h : Hart) (n : Nat) : Hart :=
  let l := h.board.map (fun e => { e with left := e.left - n })
  let g := (l.filter (fun e => e.left ≤ 0)).foldl (fun (g : Hart) e => match e.later with
    | some v => g.setRawReg e.reg v
    | none => g) h
  { g with board := l.filter (fun e => 0 < e.left) }

/-- The scoreboard after a group that has completed: `before` is the hart as the group began, `gap` its GAP. -/
def State.scoreGroup (s : State) (before : Hart) (u : RegUse) (gap : Nat) : State :=
  let h := s.h
  let dst := (u.dst.filter (fun r => !r.fixed)).dedup
  let g := ({ h with board := writeBoard before.ownReg s.free dst h.board } : Hart).unhold
  let mine := if u.lat < 2 then [] else dst.map (fun r => { reg := r, left := u.lat, old := before.ownReg r })
  { s with h := ({ g with board := g.board ++ mine } : Hart).advance (1 + gap)
           free := if dst.any before.isPending then s.free + 1 else s.free }

end Sys2Proof.Machine
end

