-- ==== Sys2Proof/Machine/Issue.lean ====
section
/-! DEFINITION. The issue of one group: boundary, fetch, decode checks, execution and its aftermath (R218 to R222, R230,
R233 to R236, R253, R348, R390 to R393, R403, R406, R456); and which thread a core issues from (R181, R379). -/

namespace Sys2Proof.Machine

/-! ## Fetch (R220, R222, R348) -/

/-- Why a word of a group cannot be fetched. -/
inductive FetchStop where
  | misaligned
  | lost (pa : Nat)
  | wait
  | bank (pa : Nat)
  | fault (code : Nat)
  deriving DecidableEq, Repr

/-- The address of word `n` of the group at the program counter. -/
def State.wordAddr (s : State) (n : Nat) : Nat := (s.h.pc + BitVec.ofNat 64 (4 * n)).toNat

/-- The translation of a fetch (R222). -/
def State.fetchTrans (s : State) (va : Nat) : State × TRes :=
  s.translate (some s.coreId) (physDie s.phys) s.h.task.ctx s.h.task.num va .fetch

/-- Word `n` of the group at the program counter: a thread's from its CONST pages, a rill core's from its instruction memory,
past whose end a fetch is refused as a data access is (log 33). A fetch that no cache serves waits for a bank that a bank unit
holds (R106). -/
def State.fetchWord (s : State) (n : Nat) : Except FetchStop Nat :=
  let va := s.wordAddr n
  if va % 4 ≠ 0 then .error .misaligned
  else match s.h.id with
    | .rill _ => if va + 4 ≤ 0x40000 then .ok (Mem.readN s.h.r.imem va 4) else .error (.fault 6)
    | .thread _ _ => match (s.fetchTrans va).2 with
      | .ok _ pa =>
        if s.isLost pa 4 then .error (.lost pa)
        else if s.fillWaits s.cluster pa 4 then .error (.bank pa)
        else .ok (Mem.readN s.mem pa 4)
      | .wait => .error .wait
      | .lost e => .error (.lost e)
      | .fault c => .error (.fault c)

/-- The TLBs after the words of a group have been fetched (R29). -/
def State.fetched (s : State) (n : Nat) : State :=
  if s.h.isThread then (countFrom 0 n).foldl (fun t i => (t.fetchTrans (t.wordAddr i)).1) s else s

/-- What becomes of a group whose word `n` cannot be fetched (R22, R31, R34, R90, R222). -/
def State.fetchStop (s : State) (n : Nat) (e : FetchStop) : Out :=
  let va := s.wordAddr n
  match e with
  | .misaligned => .next (s.misaligned va)
  | .lost pa => s.lose va (s.lossD0 pa 4)
  | .wait => .next (s.block (.seal va))
  | .bank pa => .next (s.block (.bank pa))
  | .fault c =>
    if s.h.isThread then s.access va .fetch (trapOn va) (fun _ _ t => .next t) else trapOn va c s

/-- The trap of a group that cannot be read (R220). -/
def State.groupTrap (s : State) (e : GroupErr FetchStop) : Out :=
  match e with
  | .fetch f n => (s.fetched n).fetchStop n f
  | .splitGroup => .next (s.takeTrap { cause := 3, addr := s.wordAddr 0 })
  | .orphan n => .next (s.takeTrap { cause := 2, addr := s.wordAddr n })
  | .illegal n => .next (s.takeTrap { cause := 1, addr := s.wordAddr n })

/-! ## The checks of Table 9.11 -/

/-- Whether a core kind implements a class (R3, R236). -/
def Hart.implements (h : Hart) (c : Class) : Bool :=
  if h.isThread then c != .message && c != .event
  else c == .scalar || c == .control || c == .system || c == .message

/-- The registers of an instruction that is about to run: a message without payload words does not read its payload register (R232,
R356, R358), as far as its header's register is not pending itself. -/
def State.uses (s : State) (i : Instr) : RegUse :=
  let empty := fun (r : Fin 32) => hdrLen (s.x r).toNat == 0 && !s.h.isPending (rx r)
  match i with
  | .send _ a b => if empty b then { src := [rx a, rx b] } else regsOf i
  | .sendh _ a b => if empty b then { src := [rx a, rx b] } else regsOf i
  | .reply a _ => if empty a then { src := [rx a] } else regsOf i
  | i => regsOf i

/-- The trap of a group that does not decode (Table 9.11, R456); a check of the entry itself comes after the class and the gaps of
its registers. -/
def State.decodeTrap (s : State) (e : DecErr) : State :=
  match e with
  | .unassigned => s.illegal
  | .reserved w1 => s.takeTrap { cause := 1, addr := s.word0 + (if w1 then 4 else 0) }
  | .pfx n => s.takeTrap { cause := 1, addr := s.wordAddr n }
  | .wField => s.illegal
  | .entry i =>
    if s.h.implements i.cls = false then s.takeTrap { cause := 4, addr := s.word0 }
    else match s.gapCheck (s.uses i) with
      | .error d => s.takeTrap { cause := 6, addr := s.word0, detail := d }
      | .ok t => t.illegal

/-- Whether an operation needs a privilege that the hart does not have (order 5): HALT without debugging, ERET and the writes
of the trap registers outside a handler (R261, R262, R267). -/
def State.lacksPrivilege (s : State) (i : Instr) : Bool :=
  match i with
  | .halt => !(s.h.task.dbg && s.h.isThread)
  | .eret => !s.h.ctl.h
  | .wrc cr _ => isHandlerReg cr.val && !s.h.ctl.h
  | _ => false

/-! ## The group that issues -/

/-- The header of a group (R218, R219). -/
def Group.hdr (g : Group) : GroupHdr :=
  { gap := (headerOf g.w0).gap.val, y := (headerOf g.w0).y, words := g.words, iw := if g.w0 % 4 = 2 then 2 else 1 }

/-- The issue of a group on its core's clock (R230, R235). -/
def State.clocked (s : State) : State :=
  match s.h.id with
  | .thread c k =>
    let t := ((s.core? c).map (·.cycle)).getD 0
    let s1 := s.updCore c (fun x => { x with last := some k, lastY := s.grp.y, cycle := t + 1 })
    { s1 with h := { s1.h with earliest := t + 1 + s.grp.gap } }
  | .rill _ => s

/-- A cycle of a thread's core that issues no group: the thread's next one comes no sooner than the next cycle (R379, R390). -/
def State.ticked (s : State) : State :=
  match s.h.id with
  | .thread c _ =>
    let t := ((s.core? c).map (·.cycle)).getD 0
    let s1 := s.updCore c (fun x => { x with cycle := t + 1 })
    { s1 with h := { s1.h with earliest := t + 1 } }
  | .rill _ => s

/-- Whether the group that began with a hart ended in a trap. -/
def Hart.trapped (before h : Hart) : Bool := (!before.ctl.h && h.ctl.h) || before.r.logged != h.r.logged

/-- What follows a group: a held one is replayed; after one that completed the scoreboard counts it; a step ends (R406). -/
def State.afterGroup (s : State) (before : Hart) (i : Instr) (gap : Nat) : State :=
  let t := if s.h.replay || before.trapped s.h || i == .mret then s else s.scoreGroup before (regsOf i) gap
  { t with h := t.h.stepDone }

/-- Runs a decoded instruction of the group: orders 4 to 6 of Table 9.11, then its meaning. -/
def State.runInstr (s : State) (i : Instr) : Out :=
  if s.h.implements i.cls = false then .next (s.takeTrap { cause := 4, addr := s.word0 })
  else if s.lacksPrivilege i then .next s.privilege
  else match s.gapCheck (s.uses i) with
    | .error d => .next (s.takeTrap { cause := 6, addr := s.word0, detail := d })
    | .ok t => match exec i t with
      | .next u => .next (u.afterGroup s.h i s.grp.gap)
      | .fault r => .fault r
      | .refused r => .refused r

/-- Ends a step of a halted thread after a group that did not run (R406). -/
def stepEnd (o : Out) : Out :=
  match o with
  | .next s => .next { s with h := s.h.stepDone }
  | .fault r => .fault r
  | .refused r => .refused r

/-- Fetches, decodes and runs the group at the program counter (R220). One that cannot be fetched has its core's cycle too
(R379). -/
def State.runGroup (s : State) : Out :=
  match readGroup s.fetchWord with
  | .error e => stepEnd (({ s with grp := {} } : State).clocked.groupTrap e)
  | .ok g =>
    let t := ({ s.fetched g.words with grp := Group.hdr g } : State).clocked
    match decode g.pfx g.w0 g.w1 with
    | .error e => stepEnd (.next (t.decodeTrap e))
    | .ok i => stepEnd (t.runInstr i)

/-- A hart whose wait has ended is ready. -/
def Hart.awake (h : Hart) : Hart :=
  match h.stat with
  | .waiting _ => { h with stat := .ready }
  | _ => h

/-- The issuing hart comes to its next group: at a boundary a breakpoint stands before a posted refusal, and that before the
fetch (R124, R392, R403); a rill core starts the handler of a message that stands above its own (R189). -/
def State.issueNext (s : State) : Out :=
  let t := { s with h := s.h.awake }
  if t.h.replay then t.runGroup
  else match t.h.id with
    | .rill _ => ({ t with h := t.h.rillBoundary } : State).runGroup
    | .thread _ _ =>
      if t.atBreakpoint.isSome && !t.h.isHalted then exec .breakpoint t
      else if !t.h.ctl.h && t.h.t.post.firstRefused.isSome then stepEnd (exec .postedRefusalTrap t.ticked)
      else t.runGroup

/-! ## Selection (R181, R379) -/

/-- Whether a hart can issue a group now. -/
def State.canIssue (s : State) (h : Hart) : Bool :=
  match h.id with
  | .thread c _ => s.isPlaced c && !s.isStopping h.task.ctx && (s.isReady h || h.stat == .halted none true)
  | .rill _ => (h.r.levels.getD h.r.level {}).active && s.isReady h

/-- The threads of a core state that can issue. -/
def State.readyOn (s : State) (core : Nat) : List Hart :=
  s.allHarts.filter (fun h => h.isThread && h.coreSlot.1 == core && s.canIssue h)

/-- select (R379) among ready threads at a cycle: the slot, with the round-robin pointers after it. -/
def Core.select (c : Core) (ready : List Hart) : Option (Nat × Core) :=
  let e := ready.filter (fun h => decide (h.earliest ≤ c.cycle))
  let e' := if c.lastY && e.any (fun h => some h.coreSlot.2 != c.last) then e.filter (fun h => some h.coreSlot.2 != c.last) else e
  let p := e'.foldl (fun a h => max a h.task.prio) 0
  let r := c.rr.toList.getD p 0
  ((countFrom 0 8).find? (fun k => e'.any (fun h => h.task.prio == p && h.coreSlot.2 == (r + k) % 8))).map
    (fun k => ((r + k) % 8, { c with rr := c.rr.setIfInBounds p ((r + k + 1) % 8) }))

/-- A core's clock at the first cycle in which one of its ready threads may issue (R230). -/
def Core.wait (c : Core) (ready : List Hart) : Core :=
  match (ready.map (·.earliest)).min? with
  | some t => { c with cycle := max c.cycle t }
  | none => c

/-- Issues on the core of a thread, from the thread that the core selects, or on a rill core. -/
def State.issueAt (s : State) (id : HartId) : Out :=
  match id with
  | .thread c _ => match s.core? c with
    | none => .next s
    | some k =>
      let l := s.readyOn c
      match (k.wait l).select l with
      | none => .next s
      | some (slot, k') => ((s.updCore c (fun _ => k')).switchTo (.thread c slot)).issueNext
  | .rill _ =>
    let t := s.switchTo id
    if t.h.id = id ∧ t.canIssue t.h = true then t.issueNext else .next s

/-- Whether a hart's core has a group to issue. -/
def State.hasWork (s : State) (id : HartId) : Bool :=
  match id with
  | .thread c _ => !(s.readyOn c).isEmpty
  | .rill _ => (s.hart? id).any s.canIssue

/-- The next group of a hart meets an error of the silicon (R395, R401, log 88). Kind 0 is a parity or residue error that does not
recur: the group runs again, with the effect of one execution, and the error is counted. Kind 1 is one that recurs in the same
stage: the group has no effect, and the core is retired by a migration. Kind 2 is a storage error that is corrected and counted.
Kinds 3 to 7 are uncorrectable ones, by D0 of Table 16.4: the group does not complete, and the context stops. Lasting and
uncorrectable errors concern compute cores alone. -/
def State.errorAt (s : State) (id : HartId) (kind : Nat) : Out :=
  match kind, id with
  | 0, _ => (s.countTransient (id.pkg s)).issueAt id
  | 2, _ => (s.corrected (id.pkg s) 1).issueAt id
  | _, .rill _ => .next s
  | 1, .thread c _ =>
    if s.hasWork id then .next ((s.markBad (s.physOf c)).due .migration [c]) else .next s
  | n, .thread c _ => match s.core? c with
    | none => .next s
    | some k => match (k.wait (s.readyOn c)).select (s.readyOn c) with
      | none => .next s
      | some (slot, k') =>
        if 7 < n then .next s else ((s.updCore c (fun _ => k')).switchTo (.thread c slot)).lose 0 (n - 3)

/-! ## Events that the device brings about by itself -/

/-- An event with its operands. -/
abbrev EvArgs := Instr × List Nat

/-- The state after an event, if the event changes it. -/
def State.tryExec (s : State) (e : EvArgs) : Option State :=
  let t := { s with ev := e.2 }
  match exec e.1 t with
  | .next u => if u = t then none else some u
  | _ => none

/-- The places of a list. -/
def places {α : Type} (l : List α) : List Nat := countFrom 0 l.length

/-- Messages, operations, the arm sequencer, write-backs and invalidations. -/
def State.netEvents (s : State) : List EvArgs :=
  (List.zip s.lat.net (places s.lat.net)).map (fun x => (x.1.event.1, [x.2]))
    ++ (List.zip s.work.ops (places s.work.ops)).flatMap (fun x => x.1.events.map (fun e => (e.1, [x.2, 0])))
    ++ (s.work.cores.filter (fun c => !c.seq.isEmpty)).map (fun c => (.armSequencerMacro, [c.id, 0]))
    ++ (places s.lat.writeBacks).map (fun i => (.writeBackComplete, [i]))
    ++ (s.lat.units.filter (fun u => !u.held.isEmpty)).map (fun u => (.invalidationComplete, [u.pa]))

/-- The bank units that have work. -/
def State.busyBanks (s : State) : List Nat :=
  (s.dev.banks.map (·.1) ++ s.allHarts.flatMap (fun h => match h.id with
    | .rill n => h.r.bq.map (fun u => quarterOf n * 128 + u.ch * 16 + u.bank)
    | .thread _ _ => [])).dedup

/-- Bank units and channels. -/
def State.bankEvents (s : State) : List EvArgs :=
  s.busyBanks.flatMap (fun b => [(.buSuspend, [b]), (.buseg, [b]), (.bankRowUnit, [b])])
    ++ s.dev.chans.map (fun c => (.modeSwitchComplete, [c.1]))

/-- Launch queues. -/
def State.queueEvents (s : State) : List EvArgs :=
  s.dev.pkgs.flatMap (fun p => (.queueBind, [p.1]) :: p.2.queues.map (fun q => (.launchEntryProcess, [p.1 * 1024 + q.1, 0])))

/-- Work that waits for a core: its victim, if one must be saved for it. -/
def State.preemptions (s : State) (kind id : Nat) : List EvArgs :=
  match (s.need kind id).bind s.victim with
  | some p => [(.preemption, [p, kind, id])]
  | none => []

/-- Placement, pre-emption and moves. -/
def State.placeEvents (s : State) : List EvArgs :=
  (s.work.tasks.filter s.waitsPlace).flatMap (fun t => match s.bestPlace t with
    | some b => [(.placement, [t.num, b.1, b.2])]
    | none => s.preemptions 0 t.num)
    ++ (s.work.gangs.filter (fun g => !g.placed)).flatMap (fun g => (.gangPlacement, [g.num]) :: s.preemptions 1 g.num)
    ++ s.work.cores.flatMap (fun c => match c.loc with
      | .at p => if (s.physAt p).bad || (s.physAt p).emptying then [(.migration, [c.id])] else []
      | .draining _ _ _ => [(.drainComplete, [c.id])]
      | .streaming _ _ => [(.streamComplete, [c.id])]
      | .saved k => match (pkgPhys k).find? (s.restorable c.ctx) with
        | some p => [(.restore, [c.id, p])]
        | none => s.preemptions 2 c.id)
    ++ (s.allHarts.filter (fun h => h.isThread && s.mayMove h)).flatMap (fun h =>
      (s.work.cores.map (·.id) ++ [s.work.nextCore]).map (fun d => (.threadMove, [h.coreSlot.1, h.coreSlot.2, d, h.coreSlot.2])))

/-- Contexts and links. -/
def State.ctxEvents (s : State) : List EvArgs :=
  s.work.ctxs.flatMap (fun c => [(.contextFaultRecord, [c.handle]), (.contextStopped, [c.handle]), (.scrubComplete, [c.handle]),
      (.contextComplete, [c.handle])])
    ++ s.dev.pkgs.flatMap (fun p => (List.zip p.2.links.toList (countFrom 0 24)).flatMap (fun k =>
      (if k.1.retraining then [(.linkRetrainComplete, [p.1, k.2])] else [])
        ++ (if 2 ^ 32 ≤ k.1.flits then [(.linkKeyReplace, [p.1, k.2])] else [])
        ++ (if k.1.badLane.isSome then [(.laneSpare, [p.1, k.2])] else [])))

/-- Events that come with time: ordinary windows, refresh management, idle cores, confinement, and the sweep. -/
def State.timedEvents (s : State) : List EvArgs :=
  s.dev.banks.flatMap (fun b =>
      [(.ordinaryPhaseEnd, [b.1])] ++ (if !b.2.acts.isEmpty then [(.rfm, [b.1])] else []))
    ++ s.work.ctxs.map (fun c => (.quiescenceSweep, [c.handle]))
    ++ (s.work.tasks.filter (·.confined)).map (fun t => (.levelConfinementExpiry, [t.num]))
    ++ s.work.cores.map (fun c => (.coreReturn, [c.id, 0]))

/-- The first event of a list that changes the state. -/
def State.firstEvent (s : State) (l : List EvArgs) : Option State := l.findSome? s.tryExec

/-- The next event that is due. -/
def State.nextEvent (s : State) : Option State :=
  s.firstEvent (s.ctxEvents ++ s.netEvents ++ s.bankEvents ++ s.queueEvents ++ s.placeEvents)

/-- An event that the agenda names: only device events; those of a boundary belong to a hart that can issue. -/
def State.runEvent (s : State) (i : Instr) (args : List Nat) : Out :=
  if i.cls ≠ .event then .next s
  else if (i = .breakpoint ∨ i = .postedRefusalTrap) ∧ s.canIssue s.h = false then .next s
  else exec i { s with ev := args }

/-- Firmware asks the root of trust for an audit record (R425); Table 17.7 has the types 1 to 10. -/
def State.firmwareRecord (s : State) (p ty ctx : Nat) (data : List Nat) : State :=
  if 1 ≤ ty ∧ ty ≤ 10 then s.auditAppend p ty (ctx % 4096) ((data.take 6).map (· % 2 ^ 64)) else s

/-- The move of a machine whose agenda is empty: the issuing hart's core, then an event, then another core, then time. -/
def State.idleMove (s : State) : Out :=
  if s.hasWork s.h.id then s.issueAt s.h.id
  else match s.nextEvent with
    | some t => .next t
    | none => match s.harts.find? (fun h => s.hasWork h.id) with
      | some h => s.issueAt h.id
      | none => match s.firstEvent s.timedEvents with
        | some t => .next t
        | none => .next s

end Sys2Proof.Machine
end

