-- ==== Sys2Proof/Machine/Step.lean ====
section
/-! DEFINITION. One step of the machine, and the placing of one instruction where the next step fetches it. -/

namespace Sys2Proof.Machine

/-- One step: what the agenda names next, or the machine's own move (log 1). -/
def step (s : State) : Host.Outcome State Fault Refusal :=
  match s.agenda with
  | .event i args :: rest => { s with agenda := rest }.runEvent i args
  | .issueOn id :: rest => { s with agenda := rest }.issueAt id
  | .errorOn id kind :: rest => { s with agenda := rest }.errorAt id kind
  | .auditOn p ty ctx data :: rest => .next ({ s with agenda := rest }.firmwareRecord p ty ctx data)
  | [] => s.idleMove

/-! ## Placing an instruction (log 34) -/

/-- Whether a rill core implements the class of an instruction. -/
def forRill (i : Option Instr) : Bool :=
  match i with
  | some i => ({} : Hart).implements i.cls
  | none => true

/-- Stores the bytes of an instruction at the program counter of a rill core that can issue: the issuing one, or that of
node 0. -/
def State.rillFetch (s : State) (v : Nat) : State :=
  let t := if s.h.isThread then s.switchTo (.rill 0) else s
  let h := t.h
  let pc : Word := if h.pc.toNat % 4 = 0 ∧ h.pc.toNat + 24 ≤ 0x40000 then h.pc else 0
  let l := h.r.levels.getD h.r.level {}
  { t with
    agenda := []
    h := { h with
      pc := pc, stat := .ready, replay := false, board := []
      r := { h.r with
        imem := Mem.writeN h.r.imem pc.toNat 24 v
        inbox := []
        levels := h.r.levels.setIfInBounds h.r.level { l with active := true } } } }

/-- The CONST region that holds a placed instruction. -/
def fetchRegion : Region :=
  { base := 0x100000, len := 0x1000, psize := 0, kind := 2, ctype := 0, csize := 0, pol := 0, win := 0, key := 1, gen := 0,
    sealed := true }

/-- A context with one CONST page that holds the bytes of an instruction, in a package with its key loaded. -/
def State.codeContext (s : State) (ctx v : Nat) : State :=
  let k := s.pkg 0
  let c : Ctx := { handle := ctx, prio := 11, key := 1, dbg := false, hgrp := 0, pkgs := [0], regions := [fetchRegion] }
  let s1 := s.setPkg 0 { k with keys := assocSet 1 0 k.keys }
  let s2 := { s1 with work := { s1.work with ctxs := c :: s1.work.ctxs } }
  let s3 := (s2.createPage ctx fetchRegion fetchRegion.base 0 0 0).getD s2
  match s3.walk ctx fetchRegion.base with
  | .ok l => { s3 with mem := Mem.writeN s3.mem l.pa 24 v }
  | .error _ => s3

/-- A thread of such a context, on a free core, as the issuing hart at the instruction. -/
def State.threadFetch (s : State) (v : Nat) : State :=
  let ctx := s.work.ctxs.foldl (fun a c => max a c.handle) 0 + 1
  let s1 := s.codeContext ctx v
  let t : Task := { num := s1.work.nextTask, ctx := ctx, name := 0, words := fetchRegion.base :: List.replicate 15 0 }
  let s2 := { s1 with work := { s1.work with tasks := s1.work.tasks ++ [t], nextTask := t.num + 1 } }
  let g := s2.grant ctx (((pkgPhys 0).find? s2.grantable).getD 0)
  { (g.1.placeAt t g.2 0).switchTo (.thread g.2 0) with agenda := [] }

/-- The state with an instruction where the next step fetches it: in the instruction memory of a rill core for the classes that
it implements, otherwise in a CONST page of a thread. -/
def State.withFetchWord (s : State) (nbits w : Nat) : State :=
  if forRill (decodeTableWord nbits w) then s.rillFetch (w % 2 ^ nbits) else s.threadFetch (w % 2 ^ nbits)

end Sys2Proof.Machine
end

