-- ==== Sys2Proof/Laws/Decode.lean ====
section
/-! SUPPORT. The encoder's words and what the decoder reads back from them. -/

namespace Sys2Proof

/-! ## Words of a group -/

/-- What the reader sees in an extension word. -/
theorem Pfx.word_read (q : Pfx) (p : Nat) (hp : p < 2) (h : q.payload < 33554432) :
    q.word p % 4 = 1 ∧ pkindOf (bits (q.word p) 6 3) = some q.kind ∧ bits (q.word p) 31 7 = q.payload
      ∧ bits (q.word p) 2 2 = p := by
  obtain ⟨k, v⟩ := q
  have h' : v < 33554432 := h
  have k0 : ∀ c, c < 16 → bits (v * 128 + c * 8 + p * 4 + 1) 6 3 = c := by intro c hc; simp only [bits]; omega
  have k1 : ∀ c, c < 16 → bits (v * 128 + c * 8 + p * 4 + 1) 31 7 = v := by intro c hc; simp only [bits]; omega
  have k2 : ∀ c, c < 16 → bits (v * 128 + c * 8 + p * 4 + 1) 2 2 = p := by intro c hc; simp only [bits]; omega
  refine ⟨by simp only [Pfx.word]; omega, ?_, ?_, ?_⟩ <;> cases k <;> simp only [Pfx.word, PKind.code]
  all_goals first | (rw [k0 _ (by omega)]; rfl) | exact k1 _ (by omega) | exact k2 _ (by omega)

/-- The reader gives back the extension words and the instruction words of a group. -/
theorem readGroup_words (l : List Pfx) (hl : l.length ≤ 4) (hd : (l.map (·.kind)).Nodup)
    (hb : ∀ q ∈ l, q.payload < 33554432) (w0 : Nat) (tl : List Nat) (hp : bits w0 2 2 = if l = [] then 0 else 1)
    (hw : (w0 % 4 = 0 ∧ tl = []) ∨ (w0 % 4 = 2 ∧ ∃ v, tl = [v])) :
    readGroup (wordAt (pfxWords l 0 ++ w0 :: tl)) = .ok { pfx := l, w0 := w0, w1 := tl.headD 0 } := by
  have rd : ∀ q ∈ l, ∀ p, p < 2 → _ := fun q hq p hp => Pfx.word_read q p hp (hb q hq)
  match l, hl with
  | [], _ =>
    rcases hw with ⟨hw, rfl⟩ | ⟨hw, v, rfl⟩ <;> simp [readGroup, readFrom, wordAt, pfxWords, hw, hp]
  | [a], _ =>
    obtain ⟨a1, a2, a3, a4⟩ := rd a (by simp) 0 (by omega)
    rcases hw with ⟨hw, rfl⟩ | ⟨hw, v, rfl⟩ <;>
      simp [readGroup, readFrom, wordAt, pfxWords, hw, hp, a1, a2, a3, a4]
  | [a, b], _ =>
    obtain ⟨a1, a2, a3, a4⟩ := rd a (by simp) 0 (by omega)
    obtain ⟨b1, b2, b3, b4⟩ := rd b (by simp) 1 (by omega)
    simp at hd
    rcases hw with ⟨hw, rfl⟩ | ⟨hw, v, rfl⟩ <;>
      simp [readGroup, readFrom, wordAt, pfxWords, hw, hp, a1, a2, a3, a4, b1, b2, b3, b4, hd]
  | [a, b, c], _ =>
    obtain ⟨a1, a2, a3, a4⟩ := rd a (by simp) 0 (by omega)
    obtain ⟨b1, b2, b3, b4⟩ := rd b (by simp) 1 (by omega)
    obtain ⟨c1, c2, c3, c4⟩ := rd c (by simp) 1 (by omega)
    simp at hd
    rcases hw with ⟨hw, rfl⟩ | ⟨hw, v, rfl⟩ <;>
      simp [readGroup, readFrom, wordAt, pfxWords, hw, hp, a1, a2, a3, a4, b1, b2, b3, b4, c1, c2, c3, c4, hd]
  | [a, b, c, d], _ =>
    obtain ⟨a1, a2, a3, a4⟩ := rd a (by simp) 0 (by omega)
    obtain ⟨b1, b2, b3, b4⟩ := rd b (by simp) 1 (by omega)
    obtain ⟨c1, c2, c3, c4⟩ := rd c (by simp) 1 (by omega)
    obtain ⟨d1, d2, d3, d4⟩ := rd d (by simp) 1 (by omega)
    simp at hd
    rcases hw with ⟨hw, rfl⟩ | ⟨hw, v, rfl⟩ <;>
      simp [readGroup, readFrom, wordAt, pfxWords, hw, hp, a1, a2, a3, a4, b1, b2, b3, b4, c1, c2, c3, c4, d1, d2, d3, d4, hd]
  | _ :: _ :: _ :: _ :: _ :: _, h => simp only [List.length_cons] at h; omega

/-- The length of a group's words. -/
theorem pfxWords_length (l : List Pfx) (p : Nat) : (pfxWords l p).length = l.length := by
  induction l generalizing p with
  | nil => rfl
  | cons q l ih => simp [pfxWords, ih]

/-! ## Extension words of an encoding -/

/-- An encoding whose extension words hold legal payloads. -/
structure Enc.Ok (e : Enc) : Prop where
  page : e.page < 4
  rnd : rndWf e.rnd = true
  imm : ∀ v, e.imm = some v → v < 33554432

theorem rnd_payload_lt (r : Rnd) : r.fmask.toNat * 32 + r.sat.val * 8 + r.rm.val < 2048 := by
  have := r.fmask.isLt
  have := r.sat.isLt
  have := r.rm.isLt
  omega

theorem Enc.pfx_length (e : Enc) : e.pfx.length ≤ 4 := by
  obtain ⟨w0, w1, pg, rnd, imm, wt⟩ := e
  by_cases h : pg = 0 <;> cases rnd <;> cases imm <;> cases wt <;> simp [Enc.pfx, h]

theorem Enc.pfx_nodup (e : Enc) : (e.pfx.map (·.kind)).Nodup := by
  obtain ⟨w0, w1, pg, rnd, imm, wt⟩ := e
  by_cases h : pg = 0 <;> cases rnd <;> cases imm <;> cases wt <;> simp [Enc.pfx, h]

theorem Enc.pfx_payload (e : Enc) (ok : e.Ok) : ∀ q ∈ e.pfx, q.payload < 33554432 := by
  obtain ⟨w0, w1, pg, rnd, imm, wt⟩ := e
  have h1 : pg < 4 := ok.page
  have h3 : ∀ v, imm = some v → v < 33554432 := ok.imm
  intro q hq
  simp only [Enc.pfx, List.mem_append] at hq
  rcases hq with ((hq | hq) | hq) | hq
  · split at hq <;> simp at hq
    subst hq; simp only; omega
  · cases rnd with
    | none => simp at hq
    | some r => simp at hq; subst hq; have := rnd_payload_lt r; simp only; omega
  · cases imm with
    | none => simp at hq
    | some v => simp at hq; subst hq; exact h3 v rfl
  · cases wt with
    | none => simp at hq
    | some v => simp at hq; subst hq; have := v.isLt; simp only; omega

theorem Enc.payload_page (e : Enc) : payloadOf .page e.pfx = if e.page = 0 then none else some e.page := by
  obtain ⟨w0, w1, pg, rnd, imm, wt⟩ := e
  by_cases h : pg = 0 <;> cases rnd <;> cases imm <;> cases wt <;> simp [Enc.pfx, payloadOf, h]

theorem Enc.payload_imm (e : Enc) : payloadOf .imm e.pfx = e.imm := by
  obtain ⟨w0, w1, pg, rnd, imm, wt⟩ := e
  by_cases h : pg = 0 <;> cases rnd <;> cases imm <;> cases wt <;> simp [Enc.pfx, payloadOf, h]

theorem Enc.rndOf_pfx (e : Enc) : rndOf e.pfx = e.rnd := by
  obtain ⟨w0, w1, pg, rnd, imm, wt⟩ := e
  have key : ∀ r : Rnd, (⟨BitVec.ofNat 6 (bits (r.fmask.toNat * 32 + r.sat.val * 8 + r.rm.val) 10 5),
      Fin.ofNat 4 (bits (r.fmask.toNat * 32 + r.sat.val * 8 + r.rm.val) 4 3),
      Fin.ofNat 8 (bits (r.fmask.toNat * 32 + r.sat.val * 8 + r.rm.val) 2 0)⟩ : Rnd) = r := by
    rintro ⟨m, s, r⟩
    have := m.isLt
    have := s.isLt
    have := r.isLt
    simp only [Rnd.mk.injEq, bits]
    refine ⟨BitVec.eq_of_toNat_eq ?_, Fin.ext ?_, Fin.ext ?_⟩
    · simp only [BitVec.toNat_ofNat]; omega
    · simp only [Fin.ofNat]; omega
    · simp only [Fin.ofNat]; omega
  have hrnd : payloadOf .rnd (Enc.pfx ⟨w0, w1, pg, rnd, imm, wt⟩) = rnd.map (fun r => r.fmask.toNat * 32 + r.sat.val * 8 + r.rm.val) := by
    by_cases h : pg = 0 <;> cases rnd <;> cases imm <;> cases wt <;> simp [Enc.pfx, payloadOf, h]
  cases rnd with
  | none => simp only [rndOf, hrnd, Option.map_none]
  | some r => simp only [rndOf, hrnd, Option.map_some]; exact congrArg some (key r)

theorem Enc.waitOf_pfx (e : Enc) : waitOf e.pfx = e.wait := by
  obtain ⟨w0, w1, pg, rnd, imm, wt⟩ := e
  by_cases h : pg = 0 <;> cases rnd <;> cases imm <;> cases wt <;> simp [Enc.pfx, payloadOf, waitOf, h]

/-- A row accepts the extension words of an encoding that uses only those it allows. -/
theorem Enc.badPfx_none (e : Enc) (ok : e.Ok) (r : Row) (h1 : e.page = 0 ∨ r.page = true) (h2 : e.rnd = none ∨ r.rnd = true)
    (h3 : e.imm = none ∨ r.imm = true) (h4 : e.wait = none ∨ r.wait = true) : r.badPfx e.pfx 0 = none := by
  obtain ⟨w0, w1, pg, rnd, imm, wt⟩ := e
  have o1 : pg < 4 := ok.page
  have o2 : rndWf rnd = true := ok.rnd
  have aux : ∀ (l : List Pfx) (n : Nat), (∀ q ∈ l, r.accepts q = true) → r.badPfx l n = none := by
    intro l
    induction l with
    | nil => intro n _; rfl
    | cons q l ih =>
      intro n h
      rw [Row.badPfx, if_pos (h q (by simp))]
      exact ih _ (fun q hq => h q (by simp [hq]))
  apply aux
  intro q hq
  simp only [Enc.pfx, List.mem_append] at hq
  rcases hq with ((hq | hq) | hq) | hq
  · split at hq <;> simp at hq
    next h => subst hq; simp only [Row.accepts]; simp only [h, false_or] at h1; simp [h1, o1]
  · split at hq <;> simp at hq
    next r' =>
      subst hq
      simp only [reduceCtorEq, false_or] at h2
      have hm := rnd_payload_lt r'
      have e8 : (r'.fmask.toNat * 32 + r'.sat.val * 8 + r'.rm.val) % 8 = r'.rm.val := by have := r'.rm.isLt; omega
      simp only [rndWf, Bool.and_eq_true, bne_iff_ne, ne_eq, Fin.ext_iff] at o2
      have o3 : r'.rm.val ≠ 5 := o2.1
      have o4 : r'.rm.val ≠ 6 := o2.2
      simp [Row.accepts, h2, hm, e8, o3, o4]
  · split at hq <;> simp at hq
    subst hq; simp only [reduceCtorEq, false_or] at h3; simp [Row.accepts, h3]
  · split at hq <;> simp at hq
    subst hq; simp only [reduceCtorEq, false_or] at h4; simp [Row.accepts, h4]

/-! ## Fields of the packed words -/

theorem Header.bits_lt (h : Header) (p : Nat) (hp : p < 2) : h.bitsOf p < 128 ∧ h.bitsOf p % 4 = 0
    ∧ bits (h.bitsOf p) 2 2 = p := by
  obtain ⟨g, y⟩ := h
  have := g.isLt
  cases y <;> simp only [Header.bitsOf, bits, Bool.toNat_true, Bool.toNat_false] <;> omega

theorem headerOf_add (h : Header) (p w : Nat) (hp : p < 2) (hw : w % 128 < 4) :
    headerOf (w + h.bitsOf p) = h := by
  obtain ⟨g, y⟩ := h
  have := g.isLt
  have e1 : bits (w + (Header.mk g y).bitsOf p) 6 4 = g.val := by
    cases y <;> simp only [Header.bitsOf, bits, Bool.toNat_true, Bool.toNat_false] <;> omega
  have e2 : bits (w + (Header.mk g y).bitsOf p) 3 3 = y.toNat := by
    cases y <;> simp only [Header.bitsOf, bits, Bool.toNat_true, Bool.toNat_false] <;> omega
  simp only [headerOf, e1, e2]
  cases y <;> simp

theorem fieldsOf_pack32 (h : Header) (p fn b a d op : Nat) (hp : p < 2) (h1 : fn < 16) (h2 : b < 32) (h3 : a < 32)
    (h4 : d < 32) (h5 : op < 64) :
    fieldsOf (pack32 fn b a d op + h.bitsOf p) = { fn := fn, b := b, a := a, d := d, op := op } := by
  have := (h.bits_lt p hp).1
  simp only [fieldsOf, pack32, bits, Fields.mk.injEq]
  refine ⟨?_, ?_, ?_, ?_, ?_⟩ <;> omega

theorem fieldsOf_j19 (h : Header) (p v op : Nat) (hp : p < 2) (h1 : v < 524288) (h5 : op < 64) :
    fieldsOf (j19 v op + h.bitsOf p)
      = { fn := v / 32768, b := v / 1024 % 32, a := v / 32 % 32, d := v % 32, op := op } := by
  have := (h.bits_lt p hp).1
  simp only [fieldsOf, j19, bits, Fields.mk.injEq]
  refine ⟨?_, ?_, ?_, ?_, ?_⟩ <;> omega

theorem fields64Of_pack64 (h : Header) (p w b a d op : Nat) (hp : p < 2) (h1 : w < 4) (h2 : b < 32) (h3 : a < 32)
    (h4 : d < 32) (h5 : op < 256) :
    fields64Of (pack64 w b a d op + h.bitsOf p) = { w := w, b := b, a := a, d := d, op := op } := by
  obtain ⟨hb1, hb2, -⟩ := h.bits_lt p hp
  simp only [fields64Of, pack64, bits, Fields64.mk.injEq]
  refine ⟨?_, ?_, ?_, ?_, ?_⟩ <;> omega

/-! ## Immediates -/

theorem imm34_high (e : Enc) (v : BitVec 34) (f : Fields) (he : e.imm = highS v) (hf : f.imm9 = lowS v) :
    imm34 e.pfx f = v := by
  have hv := v.isLt
  apply BitVec.eq_of_toNat_eq
  simp only [imm34, Enc.payload_imm, he, hf, highS, lowS, fitsS]
  by_cases c : v.toNat < 256 ∨ 17179868928 ≤ v.toNat
  · simp only [c, Bool.or_eq_true, decide_eq_true_eq, if_true, BitVec.toNat_ofNat]
    split <;> omega
  · simp only [c, Bool.or_eq_true, decide_eq_true_eq, if_false, BitVec.toNat_ofNat]
    omega

theorem imm34u_high (e : Enc) (v : BitVec 34) (f : Fields) (he : e.imm = highU v) (hf : f.imm9 = lowU v) :
    imm34u e.pfx f = v := by
  have hv := v.isLt
  apply BitVec.eq_of_toNat_eq
  simp only [imm34u, Enc.payload_imm, he, hf, highU, lowU]
  by_cases c : v.toNat < 512
  · simp only [c, if_true, BitVec.toNat_ofNat]; omega
  · simp only [c, if_false, BitVec.toNat_ofNat]; omega

theorem off44_high (e : Enc) (v : BitVec 44) (he : e.imm = high44 v) (op : Nat) :
    off44 e.pfx { fn := low44 v / 32768, b := low44 v / 1024 % 32, a := low44 v / 32 % 32, d := low44 v % 32, op := op } = v := by
  have hv := v.isLt
  have hl : low44 v = v.toNat % 524288 := rfl
  have hs : ∀ l : Nat, l / 32768 * 32768 + l / 1024 % 32 * 1024 + l / 32 % 32 * 32 + l % 32 = l := by intro l; omega
  apply BitVec.eq_of_toNat_eq
  simp only [off44, Enc.payload_imm, he, hs, high44]
  generalize low44 v = l at hl
  by_cases c : v.toNat < 262144 ∨ 17592185782272 ≤ v.toNat
  · simp only [c, Bool.or_eq_true, decide_eq_true_eq, if_true, BitVec.toNat_ofNat]
    split <;> omega
  · simp only [c, Bool.or_eq_true, decide_eq_true_eq, if_false, BitVec.toNat_ofNat]
    omega

theorem imm52_high (e : Enc) (v : BitVec 52) (he : e.imm = high52 v) (c : Nat) (hc : c < 32) :
    imm52 e.pfx (low27 v * 32 + c) = v := by
  have hv := v.isLt
  have hl : low27 v = v.toNat % 134217728 := rfl
  have hb : bits (low27 v * 32 + c) 31 5 = low27 v := by simp only [bits]; omega
  apply BitVec.eq_of_toNat_eq
  simp only [imm52, Enc.payload_imm, he, hb, high52]
  generalize low27 v = l at hl
  by_cases c : v.toNat < 67108864 ∨ 4503599560261632 ≤ v.toNat
  · simp only [c, Bool.or_eq_true, decide_eq_true_eq, if_true, BitVec.toNat_ofNat]
    split <;> omega
  · simp only [c, Bool.or_eq_true, decide_eq_true_eq, if_false, BitVec.toNat_ofNat]
    omega

theorem lowS_lt (v : BitVec 34) : lowS v / 32 < 16 ∧ lowS v % 32 < 32 := by simp only [lowS]; omega

theorem lowU_lt (v : BitVec 34) : lowU v / 32 < 16 ∧ lowU v % 32 < 32 := by simp only [lowU]; omega

theorem low44_lt (v : BitVec 44) : low44 v < 524288 := by simp only [low44]; omega

theorem highS_lt {v : BitVec 34} {x : Nat} (h : highS v = some x) : x < 33554432 := by
  have hv := v.isLt
  simp only [highS] at h
  split at h <;> simp at h
  omega

theorem highU_lt {v : BitVec 34} {x : Nat} (h : highU v = some x) : x < 33554432 := by
  have hv := v.isLt
  simp only [highU] at h
  split at h <;> simp at h
  omega

theorem high44_lt {v : BitVec 44} {x : Nat} (h : high44 v = some x) : x < 33554432 := by
  have hv := v.isLt
  simp only [high44] at h
  split at h <;> simp at h
  omega

theorem high52_lt {v : BitVec 52} {x : Nat} (h : high52 v = some x) : x < 33554432 := by
  have hv := v.isLt
  simp only [high52] at h
  split at h <;> simp at h
  omega

/-! ## The AFTER tokens -/

/-- The bits of the AFTER fields, each in its place. -/
theorem afterBits_eq (e0 e1 : Option (Fin 16)) (p : Fin 16) : ∃ a b c d : Nat, a < 2 ∧ b < 16 ∧ c < 2 ∧ d < 16 ∧
    afterBits ⟨e0, e1, p⟩ = a * 2147483648 + b * 134217728 + c * 67108864 + d * 4194304 + p.val * 262144 ∧
    (e0 = if a = 1 then some (Fin.ofNat 16 b) else none) ∧ (e1 = if c = 1 then some (Fin.ofNat 16 d) else none) ∧
    (a = 1 ∨ b = 0) ∧ (c = 1 ∨ d = 0) := by
  have part0 : ∃ a b : Nat, a < 2 ∧ b < 16 ∧ (match e0 with | some k => 2147483648 + k.val * 134217728 | none => 0) = a * 2147483648 + b * 134217728
      ∧ (e0 = if a = 1 then some (Fin.ofNat 16 b) else none) ∧ (a = 1 ∨ b = 0) := by
    rcases e0 with _ | x
    · exact ⟨0, 0, by omega, by omega, rfl, rfl, .inr rfl⟩
    · refine ⟨1, x.val, by omega, x.isLt, ?_, by simp, .inl rfl⟩
      show 2147483648 + x.val * 134217728 = _
      rw [Nat.one_mul]
  have part1 : ∃ a b : Nat, a < 2 ∧ b < 16 ∧ (match e1 with | some k => 67108864 + k.val * 4194304 | none => 0) = a * 67108864 + b * 4194304
      ∧ (e1 = if a = 1 then some (Fin.ofNat 16 b) else none) ∧ (a = 1 ∨ b = 0) := by
    rcases e1 with _ | x
    · exact ⟨0, 0, by omega, by omega, rfl, rfl, .inr rfl⟩
    · refine ⟨1, x.val, by omega, x.isLt, ?_, by simp, .inl rfl⟩
      show 67108864 + x.val * 4194304 = _
      rw [Nat.one_mul]
  obtain ⟨a, b, ha, hb, h0, h1, h2⟩ := part0
  obtain ⟨c, d, hc, hd, h3, h4, h5⟩ := part1
  refine ⟨a, b, c, d, ha, hb, hc, hd, ?_, h1, h4, h2, h5⟩
  refine Eq.trans (b := a * 2147483648 + b * 134217728 + (c * 67108864 + d * 4194304) + p.val * 262144) ?_ ?_
  · exact congrArg (· + p.val * 262144) (congrArg₂ (· + ·) h0 h3)
  · rw [← Nat.add_assoc]

/-- Fields of a word 1 given by its parts. -/
theorem after_fields (a b c d p r : Nat) (ha : a < 2) (hb : b < 16) (hc : c < 2) (hd : d < 16) (hp : p < 16) (hr : r < 262144)
    (w : Nat) (hw : w = a * 2147483648 + b * 134217728 + c * 67108864 + d * 4194304 + p * 262144 + r) :
    bits w 31 31 = a ∧ bits w 30 27 = b ∧ bits w 26 26 = c ∧ bits w 25 22 = d ∧ bits w 21 18 = p := by
  simp only [bits]
  refine ⟨?_, ?_, ?_, ?_, ?_⟩ <;> omega

theorem afterBits_high (t : After) : ∃ q, afterBits t = q * 262144 ∧ q < 16384 := by
  obtain ⟨e0, e1, p⟩ := t
  obtain ⟨a, b, c, d, ha, hb, hc, hd, he, -⟩ := afterBits_eq e0 e1 p
  have hp := p.isLt
  generalize p.val = p' at he hp
  refine ⟨a * 8192 + b * 512 + c * 256 + d * 16 + p', ?_, ?_⟩
  · rw [he, Nat.add_mul, Nat.add_mul, Nat.add_mul, Nat.add_mul, Nat.mul_assoc, Nat.mul_assoc, Nat.mul_assoc, Nat.mul_assoc]
  · omega

theorem afterOf_bits (t : After) (r : Nat) (h : r < 262144) : afterOf (afterBits t + r) = t := by
  obtain ⟨e0, e1, p⟩ := t
  obtain ⟨a, b, c, d, ha, hb, hc, hd, he, h0, h1, -⟩ := afterBits_eq e0 e1 p
  obtain ⟨k1, k2, k3, k4, k5⟩ := after_fields a b c d p.val r ha hb hc hd p.isLt h (afterBits ⟨e0, e1, p⟩ + r) (by rw [he])
  simp only [afterOf, k1, k2, k3, k4, k5, After.mk.injEq]
  exact ⟨h0.symm, h1.symm, by simp⟩

theorem afterOk_bits (t : After) (r : Nat) (h : r < 262144) : afterOk (afterBits t + r) = true := by
  obtain ⟨e0, e1, p⟩ := t
  obtain ⟨a, b, c, d, ha, hb, hc, hd, he, -, -, h2, h3⟩ := afterBits_eq e0 e1 p
  obtain ⟨k1, k2, k3, k4, -⟩ := after_fields a b c d p.val r ha hb hc hd p.isLt h (afterBits ⟨e0, e1, p⟩ + r) (by rw [he])
  simp only [afterOk, k1, k2, k3, k4, Bool.and_eq_true, Bool.or_eq_true, beq_iff_eq]
  exact ⟨h2, h3⟩

/-- The low fields of word 1 do not see the AFTER tokens. -/
theorem bits_after (t : After) (r hi lo : Nat) (h1 : lo ≤ hi) (h2 : hi < 18) : bits (afterBits t + r) hi lo = bits r hi lo := by
  obtain ⟨q, hq, -⟩ := afterBits_high t
  have e : 262144 = 2 ^ lo * (2 ^ (hi + 1 - lo) * 2 ^ (17 - hi)) := by
    rw [← Nat.pow_add, ← Nat.pow_add, show lo + (hi + 1 - lo + (17 - hi)) = 18 by omega]
  simp only [bits, hq]
  rw [e, show q * (2 ^ lo * (2 ^ (hi + 1 - lo) * 2 ^ (17 - hi))) + r = r + 2 ^ lo * (2 ^ (hi + 1 - lo) * (2 ^ (17 - hi) * q)) by ring,
    Nat.add_mul_div_left _ _ (Nat.two_pow_pos lo), Nat.add_mul_mod_self_left]

/-! ## Round trips by form -/

/-- The words of an encoding decode to the instruction that its row gives. -/
theorem decodeWords_of_row (i : Instr) (h : Header) (e : Enc) (r : Row) (he : encParts i = some e) (ok : e.Ok)
    (form : (e.w0 % 128 = 0 ∧ e.w1 = none) ∨ (e.w0 % 128 = 2 ∧ e.w1.isSome = true))
    (hr : ∀ p, p < 2 → (if e.w0 % 4 = 2 then dec64 e.pfx (fields64Of (e.w0 + h.bitsOf p)) (e.w1.getD 0)
      else dec32 e.pfx (fieldsOf (e.w0 + h.bitsOf p))) = some r)
    (hj : r.judge e.pfx = .ok i) : decodeWords (encode i h) = some (i, h) := by
  have hp : (if e.pfx = [] then 0 else 1) < 2 := by split <;> omega
  have hb := h.bits_lt (if e.pfx = [] then 0 else 1) hp
  generalize hP : (if e.pfx = [] then 0 else 1) = P at hp hb
  have hw : encode i h = pfxWords e.pfx 0 ++ (e.w0 + h.bitsOf P) :: e.w1.toList := by
    simp only [encode, he, Enc.words, hP]
    cases e.w1 <;> rfl
  have hmod : (e.w0 + h.bitsOf P) % 4 = e.w0 % 4 := by omega
  have hg : readGroup (wordAt (encode i h)) = .ok { pfx := e.pfx, w0 := e.w0 + h.bitsOf P, w1 := e.w1.getD 0 } := by
    have h22 : bits (e.w0 + h.bitsOf P) 2 2 = if e.pfx = [] then 0 else 1 := by
      rw [hP]
      have h3 := hb.2.2
      simp only [bits] at h3 ⊢
      rcases form with f | f <;> omega
    rw [hw]
    rcases form with ⟨f1, f2⟩ | ⟨f1, f2⟩
    · rw [f2]
      exact readGroup_words e.pfx e.pfx_length e.pfx_nodup (e.pfx_payload ok) _ [] h22 (.inl ⟨by omega, rfl⟩)
    · obtain ⟨v, hv⟩ := Option.isSome_iff_exists.1 f2
      rw [hv]
      exact readGroup_words e.pfx e.pfx_length e.pfx_nodup (e.pfx_payload ok) _ [v] h22 (.inr ⟨by omega, v, rfl⟩)
  have hlen : (Group.words { pfx := e.pfx, w0 := e.w0 + h.bitsOf P, w1 := e.w1.getD 0 }) = (encode i h).length := by
    rw [hw]
    simp only [Group.words, hmod, List.length_append, pfxWords_length]
    rcases form with ⟨f1, f2⟩ | ⟨f1, f2⟩
    · rw [f2, if_neg (by omega)]; rfl
    · obtain ⟨v, hv⟩ := Option.isSome_iff_exists.1 f2
      rw [hv, if_pos (by omega)]; rfl
  have hd : decode e.pfx (e.w0 + h.bitsOf P) (e.w1.getD 0) = .ok i := by
    simp only [decode, hmod, hr P hp, hj]
  have hh : headerOf (e.w0 + h.bitsOf P) = h := headerOf_add h P e.w0 hp (by rcases form with f | f <;> omega)
  simp only [decodeWords, hg, hlen, if_true, hd, hh]

end Sys2Proof
end

