-- ==== Sys2Proof/Laws/RoundTrip.lean ====
section
/-! SUPPORT. The round trip of an instruction by the form of its encoding. -/

namespace Sys2Proof

theorem fin_ofNat_val {n : Nat} [NeZero n] (x : Fin n) : Fin.ofNat n x.val = x := Fin.ext (Nat.mod_eq_of_lt x.isLt)

theorem fin_of_eq {n : Nat} [NeZero n] {x : Nat} {v : Fin n} (h : x = v.val) : Fin.ofNat n x = v := h ▸ fin_ofNat_val v

theorem bitvec_of_eq {n x : Nat} {v : BitVec n} (h : x = v.toNat) : BitVec.ofNat n x = v := by
  subst h; exact BitVec.ofNat_toNat n v |>.trans (BitVec.setWidth_eq v)

theorem bool_of_eq {x : Nat} {b : Bool} (h : x = b.toNat) : (x == 1) = b := by subst h; cases b <;> rfl

/-- A row judges its instruction sound when every check passes. -/
theorem Row.judge_ok {r : Row} {p : List Pfx} {i : Instr} (h0 : r.ok0 = true) (h1 : r.ok1 = true) (h2 : r.badPfx p 0 = none)
    (h3 : r.wok = true) (h4 : r.i = .ok i) : r.judge p = .ok i := by
  simp [Row.judge, h0, h1, h2, h3, h4]

theorem dec32_page (e : Enc) (hp : e.page < 3) (f : Fields) :
    dec32 e.pfx f = if e.page = 0 then decPage0 e.pfx f else if e.page = 1 then decPage1 e.pfx f else decPage2 e.pfx f := by
  unfold dec32
  rw [Enc.payload_page]
  obtain ⟨w0, w1, pg, rnd, imm, wt⟩ := e
  have hp : pg < 3 := hp
  match pg, hp with
  | 0, _ => rfl
  | 1, _ => rfl
  | 2, _ => rfl

/-- The round trip of a 32-bit instruction. -/
theorem rt32 {i : Instr} {h : Header} {e : Enc} {r : Row} {fn b a d op : Nat} (he : encParts i = some e)
    (hw : e.w0 = pack32 fn b a d op) (hw1 : e.w1 = none) (b1 : fn < 16) (b2 : b < 32) (b3 : a < 32) (b4 : d < 32) (b5 : op < 64)
    (hpg : e.page < 3) (hrnd : rndWf e.rnd = true) (himm : ∀ v, e.imm = some v → v < 33554432)
    (hr : (if e.page = 0 then decPage0 e.pfx ⟨fn, b, a, d, op⟩ else if e.page = 1 then decPage1 e.pfx ⟨fn, b, a, d, op⟩
      else decPage2 e.pfx ⟨fn, b, a, d, op⟩) = some r)
    (h0 : r.ok0 = true) (h1 : r.ok1 = true) (h3 : r.wok = true) (a1 : e.page = 0 ∨ r.page = true)
    (a2 : e.rnd = none ∨ r.rnd = true) (a3 : e.imm = none ∨ r.imm = true) (a4 : e.wait = none ∨ r.wait = true)
    (hi : r.i = .ok i) : decodeWords (encode i h) = some (i, h) := by
  have ok : e.Ok := ⟨by omega, hrnd, himm⟩
  have m0 : e.w0 % 128 = 0 := by rw [hw]; simp only [pack32]; omega
  refine decodeWords_of_row i h e r he ok (.inl ⟨m0, hw1⟩) (fun p hp => ?_)
    (Row.judge_ok h0 h1 (e.badPfx_none ok r a1 a2 a3 a4) h3 hi)
  rw [if_neg (by omega), dec32_page e hpg, hw, fieldsOf_pack32 h p fn b a d op hp b1 b2 b3 b4 b5]
  exact hr

/-- The round trip of a J-form instruction. -/
theorem rtJ {i : Instr} {h : Header} {e : Enc} {r : Row} {off : BitVec 44} {op : Nat} (he : encParts i = some e)
    (hw : e.w0 = j19 (low44 off) op) (hw1 : e.w1 = none) (b5 : op < 64)
    (hpg : e.page = 0) (hrnd : e.rnd = none) (himm : e.imm = high44 off) (hwt : e.wait = none)
    (hr : decPage0 e.pfx ⟨low44 off / 32768, low44 off / 1024 % 32, low44 off / 32 % 32, low44 off % 32, op⟩ = some r)
    (h0 : r.ok0 = true) (h1 : r.ok1 = true) (h3 : r.wok = true) (a3 : r.imm = true)
    (hi : r.i = .ok i) : decodeWords (encode i h) = some (i, h) := by
  have ok : e.Ok := ⟨by omega, by rw [hrnd]; rfl, fun v hv => high44_lt (himm ▸ hv)⟩
  have m0 : e.w0 % 128 = 0 := by rw [hw]; simp only [j19]; omega
  refine decodeWords_of_row i h e r he ok (.inl ⟨m0, hw1⟩) (fun p hp => ?_)
    (Row.judge_ok h0 h1 (e.badPfx_none ok r (.inl hpg) (.inl hrnd) (.inr a3) (.inl hwt)) h3 hi)
  rw [if_neg (by omega), dec32_page e (by omega), if_pos hpg, hw, fieldsOf_j19 h p _ op hp (low44_lt off) b5]
  exact hr

/-- The round trip of a 64-bit instruction. -/
theorem rt64 {i : Instr} {h : Header} {e : Enc} {r : Row} {w b a d op w1 : Nat} (he : encParts i = some e)
    (hw : e.w0 = pack64 w b a d op) (hw1 : e.w1 = some w1) (b1 : w < 4) (b2 : b < 32) (b3 : a < 32) (b4 : d < 32) (b5 : op < 256)
    (hpg : e.page = 0) (hrnd : rndWf e.rnd = true) (himm : ∀ v, e.imm = some v → v < 33554432) (hwt : e.wait = none)
    (hr : dec64 e.pfx ⟨w, b, a, d, op⟩ w1 = some r)
    (h0 : r.ok0 = true) (h1 : r.ok1 = true) (h3 : r.wok = true)
    (a2 : e.rnd = none ∨ r.rnd = true) (a3 : e.imm = none ∨ r.imm = true)
    (hi : r.i = .ok i) : decodeWords (encode i h) = some (i, h) := by
  have ok : e.Ok := ⟨by omega, hrnd, himm⟩
  have m0 : e.w0 % 128 = 2 := by rw [hw]; simp only [pack64]; omega
  refine decodeWords_of_row i h e r he ok (.inr ⟨m0, by rw [hw1]; rfl⟩) (fun p hp => ?_)
    (Row.judge_ok h0 h1 (e.badPfx_none ok r (.inl hpg) a2 a3 (.inl hwt)) h3 hi)
  rw [if_pos (by omega), hw, hw1, fields64Of_pack64 h p w b a d op hp b1 b2 b3 b4 b5]
  exact hr

theorem dec64_lattice (p : List Pfx) (w b a d op w1 : Nat) (h : op / 16 = 0) :
    dec64 p ⟨w, b, a, d, op⟩ w1 = dec64Lattice p ⟨w, b, a, d, op⟩ w1 := by simp only [dec64, h]

theorem dec64_engine (p : List Pfx) (w b a d op w1 : Nat) (h : op / 16 = 2 ∨ op / 16 = 3) :
    dec64 p ⟨w, b, a, d, op⟩ w1 = dec64Engine p ⟨w, b, a, d, op⟩ w1 := by
  rcases h with h | h <;> simp only [dec64, h]

theorem dec64_coll (p : List Pfx) (w b a d op w1 : Nat) (h : op / 16 = 4) :
    dec64 p ⟨w, b, a, d, op⟩ w1 = dec64Coll p ⟨w, b, a, d, op⟩ w1 := by simp only [dec64, h]

theorem dec64_token (p : List Pfx) (w b a d op w1 : Nat) (h : op / 16 = 5) :
    dec64 p ⟨w, b, a, d, op⟩ w1 = dec64Token p ⟨w, b, a, d, op⟩ w1 := by simp only [dec64, h]

theorem dec64_misc (p : List Pfx) (w b a d op w1 : Nat) (h : (op / 16 = 6 ∨ op / 16 = 7) ∧ op ≠ 122) :
    dec64 p ⟨w, b, a, d, op⟩ w1 = dec64Misc p ⟨w, b, a, d, op⟩ w1 := by
  rcases h with ⟨h | h, h'⟩
  · simp only [dec64, h]
  · simp only [dec64, h, h', if_false]

theorem dec64_winalloc (p : List Pfx) (w b a d w1 : Nat) :
    dec64 p ⟨w, b, a, d, 122⟩ w1 = some (decWinalloc ⟨w, b, a, d, 122⟩ w1) := by
  have h : 122 / 16 = 7 := by decide
  simp only [dec64, h, if_true]

/-- The rows of WINALLOC by its fields. -/
theorem decWinalloc_plain (f : Fields64) (w1 : Nat) (h7 : bits w1 7 7 = 0) (h8 : bits w1 11 8 = 0) (i : Instr) (n : Nat)
    (h5 : bits w1 6 5 = n)
    (hn : (n = 0 ∧ i = .winallocW (Fin.ofNat 32 f.a) (Fin.ofNat 32 f.b)) ∨ (n = 1 ∧ i = .winallocA (Fin.ofNat 32 f.a) (Fin.ofNat 32 f.b))
      ∨ (n = 2 ∧ i = .winallocC (Fin.ofNat 32 f.a) (Fin.ofNat 32 f.b))) :
    decWinalloc f w1 = { i := .ok i, ok0 := f.d == 0, ok1 := bits w1 31 12 == 0 && bits w1 4 0 == 0, wok := f.w == 0, page := false } := by
  rcases hn with ⟨rfl, rfl⟩ | ⟨rfl, rfl⟩ | ⟨rfl, rfl⟩ <;> simp [decWinalloc, h7, h8, h5]

theorem decWinalloc_left (f : Fields64) (w1 : Nat) (h7 : bits w1 7 7 = 1) (i : Instr) (n : Nat) (h5 : bits w1 6 5 = n)
    (hn : (n = 0 ∧ i = .winallocWl (Fin.ofNat 16 (bits w1 11 8)) (Fin.ofNat 32 f.a) (Fin.ofNat 32 f.b) (Fin.ofNat 32 (bits w1 4 0)))
      ∨ (n = 1 ∧ i = .winallocAl (Fin.ofNat 16 (bits w1 11 8)) (Fin.ofNat 32 f.a) (Fin.ofNat 32 f.b) (Fin.ofNat 32 (bits w1 4 0)))) :
    decWinalloc f w1 = { i := .ok i, ok0 := f.d == 0, ok1 := bits w1 31 12 == 0, wok := f.w == 0, page := false } := by
  rcases hn with ⟨rfl, rfl⟩ | ⟨rfl, rfl⟩ <;> simp [decWinalloc, h7, h5]

theorem imm34_low (e : Enc) (v : BitVec 34) (a d op : Nat) (he : e.imm = highS v) :
    imm34 e.pfx ⟨lowS v / 32, lowS v % 32, a, d, op⟩ = v := by
  refine imm34_high e v _ he ?_
  simp only [Fields.imm9]; omega

theorem imm52_low (e : Enc) (v : BitVec 52) (he : e.imm = high52 v) : imm52 e.pfx (low27 v * 32) = v :=
  imm52_high e v he 0 (by omega)

theorem imm34u_low (e : Enc) (v : BitVec 34) (a d op : Nat) (he : e.imm = highU v) :
    imm34u e.pfx ⟨lowU v / 32, lowU v % 32, a, d, op⟩ = v := by
  refine imm34u_high e v _ he ?_
  simp only [Fields.imm9]; omega

end Sys2Proof
end

