-- ==== Sys2Proof/Laws/PerInstr.lean ====
section
/-! SUPPORT. Statements about one instruction at a time: the round trip of its encoding. -/

set_option linter.all false

namespace Sys2Proof.Laws

/-- The words that encode an instruction with an issue header decode to that instruction and that header. -/
def RoundTrip.Statement (i : Instr) : Prop := i.wf = true → ∀ h : Header, decodeWords (encode i h) = some (i, h)

theorem RoundTrip.add (d : Fin 32) (a : Fin 32) (b : Fin 32) : RoundTrip.Statement (.add d a b) := fun hw h => by
  exact rt32 (fn := 0) (b := b.val) (a := a.val) (d := d.val) (op := 1) rfl rfl rfl (by omega) (by omega) (by omega) (by omega) (by omega) (by show 0 < 3; omega) rfl (fun _ h => nomatch h) rfl rfl rfl rfl (.inl rfl) (.inl rfl) (.inl rfl) (.inl rfl) (by simp only [fin_ofNat_val])

theorem RoundTrip.sub (d : Fin 32) (a : Fin 32) (b : Fin 32) : RoundTrip.Statement (.sub d a b) := fun hw h => by
  exact rt32 (fn := 1) (b := b.val) (a := a.val) (d := d.val) (op := 1) rfl rfl rfl (by omega) (by omega) (by omega) (by omega) (by omega) (by show 0 < 3; omega) rfl (fun _ h => nomatch h) rfl rfl rfl rfl (.inl rfl) (.inl rfl) (.inl rfl) (.inl rfl) (by simp only [fin_ofNat_val])

theorem RoundTrip.and (d : Fin 32) (a : Fin 32) (b : Fin 32) : RoundTrip.Statement (.and d a b) := fun hw h => by
  exact rt32 (fn := 2) (b := b.val) (a := a.val) (d := d.val) (op := 1) rfl rfl rfl (by omega) (by omega) (by omega) (by omega) (by omega) (by show 0 < 3; omega) rfl (fun _ h => nomatch h) rfl rfl rfl rfl (.inl rfl) (.inl rfl) (.inl rfl) (.inl rfl) (by simp only [fin_ofNat_val])

theorem RoundTrip.or (d : Fin 32) (a : Fin 32) (b : Fin 32) : RoundTrip.Statement (.or d a b) := fun hw h => by
  exact rt32 (fn := 3) (b := b.val) (a := a.val) (d := d.val) (op := 1) rfl rfl rfl (by omega) (by omega) (by omega) (by omega) (by omega) (by show 0 < 3; omega) rfl (fun _ h => nomatch h) rfl rfl rfl rfl (.inl rfl) (.inl rfl) (.inl rfl) (.inl rfl) (by simp only [fin_ofNat_val])

theorem RoundTrip.xor (d : Fin 32) (a : Fin 32) (b : Fin 32) : RoundTrip.Statement (.xor d a b) := fun hw h => by
  exact rt32 (fn := 4) (b := b.val) (a := a.val) (d := d.val) (op := 1) rfl rfl rfl (by omega) (by omega) (by omega) (by omega) (by omega) (by show 0 < 3; omega) rfl (fun _ h => nomatch h) rfl rfl rfl rfl (.inl rfl) (.inl rfl) (.inl rfl) (.inl rfl) (by simp only [fin_ofNat_val])

theorem RoundTrip.sll (d : Fin 32) (a : Fin 32) (b : Fin 32) : RoundTrip.Statement (.sll d a b) := fun hw h => by
  exact rt32 (fn := 5) (b := b.val) (a := a.val) (d := d.val) (op := 1) rfl rfl rfl (by omega) (by omega) (by omega) (by omega) (by omega) (by show 0 < 3; omega) rfl (fun _ h => nomatch h) rfl rfl rfl rfl (.inl rfl) (.inl rfl) (.inl rfl) (.inl rfl) (by simp only [fin_ofNat_val])

theorem RoundTrip.srl (d : Fin 32) (a : Fin 32) (b : Fin 32) : RoundTrip.Statement (.srl d a b) := fun hw h => by
  exact rt32 (fn := 6) (b := b.val) (a := a.val) (d := d.val) (op := 1) rfl rfl rfl (by omega) (by omega) (by omega) (by omega) (by omega) (by show 0 < 3; omega) rfl (fun _ h => nomatch h) rfl rfl rfl rfl (.inl rfl) (.inl rfl) (.inl rfl) (.inl rfl) (by simp only [fin_ofNat_val])

theorem RoundTrip.sra (d : Fin 32) (a : Fin 32) (b : Fin 32) : RoundTrip.Statement (.sra d a b) := fun hw h => by
  exact rt32 (fn := 7) (b := b.val) (a := a.val) (d := d.val) (op := 1) rfl rfl rfl (by omega) (by omega) (by omega) (by omega) (by omega) (by show 0 < 3; omega) rfl (fun _ h => nomatch h) rfl rfl rfl rfl (.inl rfl) (.inl rfl) (.inl rfl) (.inl rfl) (by simp only [fin_ofNat_val])

theorem RoundTrip.slt (d : Fin 32) (a : Fin 32) (b : Fin 32) : RoundTrip.Statement (.slt d a b) := fun hw h => by
  exact rt32 (fn := 8) (b := b.val) (a := a.val) (d := d.val) (op := 1) rfl rfl rfl (by omega) (by omega) (by omega) (by omega) (by omega) (by show 0 < 3; omega) rfl (fun _ h => nomatch h) rfl rfl rfl rfl (.inl rfl) (.inl rfl) (.inl rfl) (.inl rfl) (by simp only [fin_ofNat_val])

theorem RoundTrip.sltn (d : Fin 32) (a : Fin 32) (b : Fin 32) : RoundTrip.Statement (.sltn d a b) := fun hw h => by
  exact rt32 (fn := 9) (b := b.val) (a := a.val) (d := d.val) (op := 1) rfl rfl rfl (by omega) (by omega) (by omega) (by omega) (by omega) (by show 0 < 3; omega) rfl (fun _ h => nomatch h) rfl rfl rfl rfl (.inl rfl) (.inl rfl) (.inl rfl) (.inl rfl) (by simp only [fin_ofNat_val])

theorem RoundTrip.min (d : Fin 32) (a : Fin 32) (b : Fin 32) : RoundTrip.Statement (.min d a b) := fun hw h => by
  exact rt32 (fn := 10) (b := b.val) (a := a.val) (d := d.val) (op := 1) rfl rfl rfl (by omega) (by omega) (by omega) (by omega) (by omega) (by show 0 < 3; omega) rfl (fun _ h => nomatch h) rfl rfl rfl rfl (.inl rfl) (.inl rfl) (.inl rfl) (.inl rfl) (by simp only [fin_ofNat_val])

theorem RoundTrip.max (d : Fin 32) (a : Fin 32) (b : Fin 32) : RoundTrip.Statement (.max d a b) := fun hw h => by
  exact rt32 (fn := 11) (b := b.val) (a := a.val) (d := d.val) (op := 1) rfl rfl rfl (by omega) (by omega) (by omega) (by omega) (by omega) (by show 0 < 3; omega) rfl (fun _ h => nomatch h) rfl rfl rfl rfl (.inl rfl) (.inl rfl) (.inl rfl) (.inl rfl) (by simp only [fin_ofNat_val])

theorem RoundTrip.minn (d : Fin 32) (a : Fin 32) (b : Fin 32) : RoundTrip.Statement (.minn d a b) := fun hw h => by
  exact rt32 (fn := 12) (b := b.val) (a := a.val) (d := d.val) (op := 1) rfl rfl rfl (by omega) (by omega) (by omega) (by omega) (by omega) (by show 0 < 3; omega) rfl (fun _ h => nomatch h) rfl rfl rfl rfl (.inl rfl) (.inl rfl) (.inl rfl) (.inl rfl) (by simp only [fin_ofNat_val])

theorem RoundTrip.maxn (d : Fin 32) (a : Fin 32) (b : Fin 32) : RoundTrip.Statement (.maxn d a b) := fun hw h => by
  exact rt32 (fn := 13) (b := b.val) (a := a.val) (d := d.val) (op := 1) rfl rfl rfl (by omega) (by omega) (by omega) (by omega) (by omega) (by show 0 < 3; omega) rfl (fun _ h => nomatch h) rfl rfl rfl rfl (.inl rfl) (.inl rfl) (.inl rfl) (.inl rfl) (by simp only [fin_ofNat_val])

theorem RoundTrip.andn (d : Fin 32) (a : Fin 32) (b : Fin 32) : RoundTrip.Statement (.andn d a b) := fun hw h => by
  exact rt32 (fn := 14) (b := b.val) (a := a.val) (d := d.val) (op := 1) rfl rfl rfl (by omega) (by omega) (by omega) (by omega) (by omega) (by show 0 < 3; omega) rfl (fun _ h => nomatch h) rfl rfl rfl rfl (.inl rfl) (.inl rfl) (.inl rfl) (.inl rfl) (by simp only [fin_ofNat_val])

theorem RoundTrip.orn (d : Fin 32) (a : Fin 32) (b : Fin 32) : RoundTrip.Statement (.orn d a b) := fun hw h => by
  exact rt32 (fn := 15) (b := b.val) (a := a.val) (d := d.val) (op := 1) rfl rfl rfl (by omega) (by omega) (by omega) (by omega) (by omega) (by show 0 < 3; omega) rfl (fun _ h => nomatch h) rfl rfl rfl rfl (.inl rfl) (.inl rfl) (.inl rfl) (.inl rfl) (by simp only [fin_ofNat_val])

theorem RoundTrip.mul (d : Fin 32) (a : Fin 32) (b : Fin 32) : RoundTrip.Statement (.mul d a b) := fun hw h => by
  exact rt32 (fn := 0) (b := b.val) (a := a.val) (d := d.val) (op := 2) rfl rfl rfl (by omega) (by omega) (by omega) (by omega) (by omega) (by show 0 < 3; omega) rfl (fun _ h => nomatch h) rfl rfl rfl rfl (.inl rfl) (.inl rfl) (.inl rfl) (.inl rfl) (by simp only [fin_ofNat_val])

theorem RoundTrip.mulh (d : Fin 32) (a : Fin 32) (b : Fin 32) : RoundTrip.Statement (.mulh d a b) := fun hw h => by
  exact rt32 (fn := 1) (b := b.val) (a := a.val) (d := d.val) (op := 2) rfl rfl rfl (by omega) (by omega) (by omega) (by omega) (by omega) (by show 0 < 3; omega) rfl (fun _ h => nomatch h) rfl rfl rfl rfl (.inl rfl) (.inl rfl) (.inl rfl) (.inl rfl) (by simp only [fin_ofNat_val])

theorem RoundTrip.mulhn (d : Fin 32) (a : Fin 32) (b : Fin 32) : RoundTrip.Statement (.mulhn d a b) := fun hw h => by
  exact rt32 (fn := 2) (b := b.val) (a := a.val) (d := d.val) (op := 2) rfl rfl rfl (by omega) (by omega) (by omega) (by omega) (by omega) (by show 0 < 3; omega) rfl (fun _ h => nomatch h) rfl rfl rfl rfl (.inl rfl) (.inl rfl) (.inl rfl) (.inl rfl) (by simp only [fin_ofNat_val])

theorem RoundTrip.mulhsn (d : Fin 32) (a : Fin 32) (b : Fin 32) : RoundTrip.Statement (.mulhsn d a b) := fun hw h => by
  exact rt32 (fn := 3) (b := b.val) (a := a.val) (d := d.val) (op := 2) rfl rfl rfl (by omega) (by omega) (by omega) (by omega) (by omega) (by show 0 < 3; omega) rfl (fun _ h => nomatch h) rfl rfl rfl rfl (.inl rfl) (.inl rfl) (.inl rfl) (.inl rfl) (by simp only [fin_ofNat_val])

theorem RoundTrip.div (d : Fin 32) (a : Fin 32) (b : Fin 32) : RoundTrip.Statement (.div d a b) := fun hw h => by
  exact rt32 (fn := 4) (b := b.val) (a := a.val) (d := d.val) (op := 2) rfl rfl rfl (by omega) (by omega) (by omega) (by omega) (by omega) (by show 0 < 3; omega) rfl (fun _ h => nomatch h) rfl rfl rfl rfl (.inl rfl) (.inl rfl) (.inl rfl) (.inl rfl) (by simp only [fin_ofNat_val])

theorem RoundTrip.divn (d : Fin 32) (a : Fin 32) (b : Fin 32) : RoundTrip.Statement (.divn d a b) := fun hw h => by
  exact rt32 (fn := 5) (b := b.val) (a := a.val) (d := d.val) (op := 2) rfl rfl rfl (by omega) (by omega) (by omega) (by omega) (by omega) (by show 0 < 3; omega) rfl (fun _ h => nomatch h) rfl rfl rfl rfl (.inl rfl) (.inl rfl) (.inl rfl) (.inl rfl) (by simp only [fin_ofNat_val])

theorem RoundTrip.rem (d : Fin 32) (a : Fin 32) (b : Fin 32) : RoundTrip.Statement (.rem d a b) := fun hw h => by
  exact rt32 (fn := 6) (b := b.val) (a := a.val) (d := d.val) (op := 2) rfl rfl rfl (by omega) (by omega) (by omega) (by omega) (by omega) (by show 0 < 3; omega) rfl (fun _ h => nomatch h) rfl rfl rfl rfl (.inl rfl) (.inl rfl) (.inl rfl) (.inl rfl) (by simp only [fin_ofNat_val])

theorem RoundTrip.remn (d : Fin 32) (a : Fin 32) (b : Fin 32) : RoundTrip.Statement (.remn d a b) := fun hw h => by
  exact rt32 (fn := 7) (b := b.val) (a := a.val) (d := d.val) (op := 2) rfl rfl rfl (by omega) (by omega) (by omega) (by omega) (by omega) (by show 0 < 3; omega) rfl (fun _ h => nomatch h) rfl rfl rfl rfl (.inl rfl) (.inl rfl) (.inl rfl) (.inl rfl) (by simp only [fin_ofNat_val])

theorem RoundTrip.clz (d : Fin 32) (a : Fin 32) : RoundTrip.Statement (.clz d a) := fun hw h => by
  exact rt32 (fn := 8) (b := 0) (a := a.val) (d := d.val) (op := 2) rfl rfl rfl (by omega) (by omega) (by omega) (by omega) (by omega) (by show 0 < 3; omega) rfl (fun _ h => nomatch h) rfl rfl rfl rfl (.inl rfl) (.inl rfl) (.inl rfl) (.inl rfl) (by simp only [fin_ofNat_val])

theorem RoundTrip.ctz (d : Fin 32) (a : Fin 32) : RoundTrip.Statement (.ctz d a) := fun hw h => by
  exact rt32 (fn := 9) (b := 0) (a := a.val) (d := d.val) (op := 2) rfl rfl rfl (by omega) (by omega) (by omega) (by omega) (by omega) (by show 0 < 3; omega) rfl (fun _ h => nomatch h) rfl rfl rfl rfl (.inl rfl) (.inl rfl) (.inl rfl) (.inl rfl) (by simp only [fin_ofNat_val])

theorem RoundTrip.popc (d : Fin 32) (a : Fin 32) : RoundTrip.Statement (.popc d a) := fun hw h => by
  exact rt32 (fn := 10) (b := 0) (a := a.val) (d := d.val) (op := 2) rfl rfl rfl (by omega) (by omega) (by omega) (by omega) (by omega) (by show 0 < 3; omega) rfl (fun _ h => nomatch h) rfl rfl rfl rfl (.inl rfl) (.inl rfl) (.inl rfl) (.inl rfl) (by simp only [fin_ofNat_val])

theorem RoundTrip.rev8 (d : Fin 32) (a : Fin 32) : RoundTrip.Statement (.rev8 d a) := fun hw h => by
  exact rt32 (fn := 11) (b := 0) (a := a.val) (d := d.val) (op := 2) rfl rfl rfl (by omega) (by omega) (by omega) (by omega) (by omega) (by show 0 < 3; omega) rfl (fun _ h => nomatch h) rfl rfl rfl rfl (.inl rfl) (.inl rfl) (.inl rfl) (.inl rfl) (by simp only [fin_ofNat_val])

theorem RoundTrip.addi (d : Fin 32) (a : Fin 32) (imm : BitVec 34) : RoundTrip.Statement (.addi d a imm) := fun hw h => by
  have := lowS_lt imm
  exact rt32 (fn := (lowS imm / 32)) (b := (lowS imm % 32)) (a := a.val) (d := d.val) (op := 3) rfl rfl rfl (by omega) (by omega) (by omega) (by omega) (by omega) (by show 0 < 3; omega) rfl (fun _ => highS_lt) rfl rfl rfl rfl (.inl rfl) (.inl rfl) (.inr rfl) (.inl rfl) (by simp only [fin_ofNat_val, imm34_low])

theorem RoundTrip.andi (d : Fin 32) (a : Fin 32) (imm : BitVec 34) : RoundTrip.Statement (.andi d a imm) := fun hw h => by
  have := lowS_lt imm
  exact rt32 (fn := (lowS imm / 32)) (b := (lowS imm % 32)) (a := a.val) (d := d.val) (op := 4) rfl rfl rfl (by omega) (by omega) (by omega) (by omega) (by omega) (by show 0 < 3; omega) rfl (fun _ => highS_lt) rfl rfl rfl rfl (.inl rfl) (.inl rfl) (.inr rfl) (.inl rfl) (by simp only [fin_ofNat_val, imm34_low])

theorem RoundTrip.ori (d : Fin 32) (a : Fin 32) (imm : BitVec 34) : RoundTrip.Statement (.ori d a imm) := fun hw h => by
  have := lowS_lt imm
  exact rt32 (fn := (lowS imm / 32)) (b := (lowS imm % 32)) (a := a.val) (d := d.val) (op := 5) rfl rfl rfl (by omega) (by omega) (by omega) (by omega) (by omega) (by show 0 < 3; omega) rfl (fun _ => highS_lt) rfl rfl rfl rfl (.inl rfl) (.inl rfl) (.inr rfl) (.inl rfl) (by simp only [fin_ofNat_val, imm34_low])

theorem RoundTrip.xori (d : Fin 32) (a : Fin 32) (imm : BitVec 34) : RoundTrip.Statement (.xori d a imm) := fun hw h => by
  have := lowS_lt imm
  exact rt32 (fn := (lowS imm / 32)) (b := (lowS imm % 32)) (a := a.val) (d := d.val) (op := 6) rfl rfl rfl (by omega) (by omega) (by omega) (by omega) (by omega) (by show 0 < 3; omega) rfl (fun _ => highS_lt) rfl rfl rfl rfl (.inl rfl) (.inl rfl) (.inr rfl) (.inl rfl) (by simp only [fin_ofNat_val, imm34_low])

theorem RoundTrip.slli (d : Fin 32) (a : Fin 32) (imm : BitVec 34) : RoundTrip.Statement (.slli d a imm) := fun hw h => by
  have := lowS_lt imm
  exact rt32 (fn := (lowS imm / 32)) (b := (lowS imm % 32)) (a := a.val) (d := d.val) (op := 7) rfl rfl rfl (by omega) (by omega) (by omega) (by omega) (by omega) (by show 0 < 3; omega) rfl (fun _ => highS_lt) rfl rfl rfl rfl (.inl rfl) (.inl rfl) (.inr rfl) (.inl rfl) (by simp only [fin_ofNat_val, imm34_low])

theorem RoundTrip.srli (d : Fin 32) (a : Fin 32) (imm : BitVec 34) : RoundTrip.Statement (.srli d a imm) := fun hw h => by
  have := lowS_lt imm
  exact rt32 (fn := (lowS imm / 32)) (b := (lowS imm % 32)) (a := a.val) (d := d.val) (op := 8) rfl rfl rfl (by omega) (by omega) (by omega) (by omega) (by omega) (by show 0 < 3; omega) rfl (fun _ => highS_lt) rfl rfl rfl rfl (.inl rfl) (.inl rfl) (.inr rfl) (.inl rfl) (by simp only [fin_ofNat_val, imm34_low])

theorem RoundTrip.srai (d : Fin 32) (a : Fin 32) (imm : BitVec 34) : RoundTrip.Statement (.srai d a imm) := fun hw h => by
  have := lowS_lt imm
  exact rt32 (fn := (lowS imm / 32)) (b := (lowS imm % 32)) (a := a.val) (d := d.val) (op := 9) rfl rfl rfl (by omega) (by omega) (by omega) (by omega) (by omega) (by show 0 < 3; omega) rfl (fun _ => highS_lt) rfl rfl rfl rfl (.inl rfl) (.inl rfl) (.inr rfl) (.inl rfl) (by simp only [fin_ofNat_val, imm34_low])

theorem RoundTrip.slti (d : Fin 32) (a : Fin 32) (imm : BitVec 34) : RoundTrip.Statement (.slti d a imm) := fun hw h => by
  have := lowS_lt imm
  exact rt32 (fn := (lowS imm / 32)) (b := (lowS imm % 32)) (a := a.val) (d := d.val) (op := 10) rfl rfl rfl (by omega) (by omega) (by omega) (by omega) (by omega) (by show 0 < 3; omega) rfl (fun _ => highS_lt) rfl rfl rfl rfl (.inl rfl) (.inl rfl) (.inr rfl) (.inl rfl) (by simp only [fin_ofNat_val, imm34_low])

theorem RoundTrip.sltni (d : Fin 32) (a : Fin 32) (imm : BitVec 34) : RoundTrip.Statement (.sltni d a imm) := fun hw h => by
  have := lowS_lt imm
  exact rt32 (fn := (lowS imm / 32)) (b := (lowS imm % 32)) (a := a.val) (d := d.val) (op := 11) rfl rfl rfl (by omega) (by omega) (by omega) (by omega) (by omega) (by show 0 < 3; omega) rfl (fun _ => highS_lt) rfl rfl rfl rfl (.inl rfl) (.inl rfl) (.inr rfl) (.inl rfl) (by simp only [fin_ofNat_val, imm34_low])

theorem RoundTrip.movi (d : Fin 32) (imm : BitVec 34) : RoundTrip.Statement (.movi d imm) := fun hw h => by
  have := lowS_lt imm
  exact rt32 (fn := (lowS imm / 32)) (b := (lowS imm % 32)) (a := 0) (d := d.val) (op := 12) rfl rfl rfl (by omega) (by omega) (by omega) (by omega) (by omega) (by show 0 < 3; omega) rfl (fun _ => highS_lt) rfl rfl rfl rfl (.inl rfl) (.inl rfl) (.inr rfl) (.inl rfl) (by simp only [fin_ofNat_val, imm34_low])

theorem RoundTrip.sext8 (d : Fin 32) (a : Fin 32) : RoundTrip.Statement (.sext8 d a) := fun hw h => by
  exact rt32 (fn := 0) (b := 0) (a := a.val) (d := d.val) (op := 13) rfl rfl rfl (by omega) (by omega) (by omega) (by omega) (by omega) (by show 0 < 3; omega) rfl (fun _ h => nomatch h) rfl rfl rfl rfl (.inl rfl) (.inl rfl) (.inl rfl) (.inl rfl) (by simp only [fin_ofNat_val])

theorem RoundTrip.sext16 (d : Fin 32) (a : Fin 32) : RoundTrip.Statement (.sext16 d a) := fun hw h => by
  exact rt32 (fn := 1) (b := 0) (a := a.val) (d := d.val) (op := 13) rfl rfl rfl (by omega) (by omega) (by omega) (by omega) (by omega) (by show 0 < 3; omega) rfl (fun _ h => nomatch h) rfl rfl rfl rfl (.inl rfl) (.inl rfl) (.inl rfl) (.inl rfl) (by simp only [fin_ofNat_val])

theorem RoundTrip.sext32 (d : Fin 32) (a : Fin 32) : RoundTrip.Statement (.sext32 d a) := fun hw h => by
  exact rt32 (fn := 2) (b := 0) (a := a.val) (d := d.val) (op := 13) rfl rfl rfl (by omega) (by omega) (by omega) (by omega) (by omega) (by show 0 < 3; omega) rfl (fun _ h => nomatch h) rfl rfl rfl rfl (.inl rfl) (.inl rfl) (.inl rfl) (.inl rfl) (by simp only [fin_ofNat_val])

theorem RoundTrip.zext8 (d : Fin 32) (a : Fin 32) : RoundTrip.Statement (.zext8 d a) := fun hw h => by
  exact rt32 (fn := 3) (b := 0) (a := a.val) (d := d.val) (op := 13) rfl rfl rfl (by omega) (by omega) (by omega) (by omega) (by omega) (by show 0 < 3; omega) rfl (fun _ h => nomatch h) rfl rfl rfl rfl (.inl rfl) (.inl rfl) (.inl rfl) (.inl rfl) (by simp only [fin_ofNat_val])

theorem RoundTrip.zext16 (d : Fin 32) (a : Fin 32) : RoundTrip.Statement (.zext16 d a) := fun hw h => by
  exact rt32 (fn := 4) (b := 0) (a := a.val) (d := d.val) (op := 13) rfl rfl rfl (by omega) (by omega) (by omega) (by omega) (by omega) (by show 0 < 3; omega) rfl (fun _ h => nomatch h) rfl rfl rfl rfl (.inl rfl) (.inl rfl) (.inl rfl) (.inl rfl) (by simp only [fin_ofNat_val])

theorem RoundTrip.zext32 (d : Fin 32) (a : Fin 32) : RoundTrip.Statement (.zext32 d a) := fun hw h => by
  exact rt32 (fn := 5) (b := 0) (a := a.val) (d := d.val) (op := 13) rfl rfl rfl (by omega) (by omega) (by omega) (by omega) (by omega) (by show 0 < 3; omega) rfl (fun _ h => nomatch h) rfl rfl rfl rfl (.inl rfl) (.inl rfl) (.inl rfl) (.inl rfl) (by simp only [fin_ofNat_val])

theorem RoundTrip.beq (a : Fin 32) (b : Fin 32) (off : BitVec 34) : RoundTrip.Statement (.beq a b off) := fun hw h => by
  have := lowS_lt off
  exact rt32 (fn := (lowS off / 32)) (b := (lowS off % 32)) (a := b.val) (d := a.val) (op := 16) rfl rfl rfl (by omega) (by omega) (by omega) (by omega) (by omega) (by show 0 < 3; omega) rfl (fun _ => highS_lt) rfl rfl rfl rfl (.inl rfl) (.inl rfl) (.inr rfl) (.inl rfl) (by simp only [fin_ofNat_val, imm34_low])

theorem RoundTrip.bne (a : Fin 32) (b : Fin 32) (off : BitVec 34) : RoundTrip.Statement (.bne a b off) := fun hw h => by
  have := lowS_lt off
  exact rt32 (fn := (lowS off / 32)) (b := (lowS off % 32)) (a := b.val) (d := a.val) (op := 17) rfl rfl rfl (by omega) (by omega) (by omega) (by omega) (by omega) (by show 0 < 3; omega) rfl (fun _ => highS_lt) rfl rfl rfl rfl (.inl rfl) (.inl rfl) (.inr rfl) (.inl rfl) (by simp only [fin_ofNat_val, imm34_low])

theorem RoundTrip.blt (a : Fin 32) (b : Fin 32) (off : BitVec 34) : RoundTrip.Statement (.blt a b off) := fun hw h => by
  have := lowS_lt off
  exact rt32 (fn := (lowS off / 32)) (b := (lowS off % 32)) (a := b.val) (d := a.val) (op := 18) rfl rfl rfl (by omega) (by omega) (by omega) (by omega) (by omega) (by show 0 < 3; omega) rfl (fun _ => highS_lt) rfl rfl rfl rfl (.inl rfl) (.inl rfl) (.inr rfl) (.inl rfl) (by simp only [fin_ofNat_val, imm34_low])

theorem RoundTrip.bge (a : Fin 32) (b : Fin 32) (off : BitVec 34) : RoundTrip.Statement (.bge a b off) := fun hw h => by
  have := lowS_lt off
  exact rt32 (fn := (lowS off / 32)) (b := (lowS off % 32)) (a := b.val) (d := a.val) (op := 19) rfl rfl rfl (by omega) (by omega) (by omega) (by omega) (by omega) (by show 0 < 3; omega) rfl (fun _ => highS_lt) rfl rfl rfl rfl (.inl rfl) (.inl rfl) (.inr rfl) (.inl rfl) (by simp only [fin_ofNat_val, imm34_low])

theorem RoundTrip.bltn (a : Fin 32) (b : Fin 32) (off : BitVec 34) : RoundTrip.Statement (.bltn a b off) := fun hw h => by
  have := lowS_lt off
  exact rt32 (fn := (lowS off / 32)) (b := (lowS off % 32)) (a := b.val) (d := a.val) (op := 20) rfl rfl rfl (by omega) (by omega) (by omega) (by omega) (by omega) (by show 0 < 3; omega) rfl (fun _ => highS_lt) rfl rfl rfl rfl (.inl rfl) (.inl rfl) (.inr rfl) (.inl rfl) (by simp only [fin_ofNat_val, imm34_low])

theorem RoundTrip.bgen (a : Fin 32) (b : Fin 32) (off : BitVec 34) : RoundTrip.Statement (.bgen a b off) := fun hw h => by
  have := lowS_lt off
  exact rt32 (fn := (lowS off / 32)) (b := (lowS off % 32)) (a := b.val) (d := a.val) (op := 21) rfl rfl rfl (by omega) (by omega) (by omega) (by omega) (by omega) (by show 0 < 3; omega) rfl (fun _ => highS_lt) rfl rfl rfl rfl (.inl rfl) (.inl rfl) (.inr rfl) (.inl rfl) (by simp only [fin_ofNat_val, imm34_low])

theorem RoundTrip.jmp (off : BitVec 44) : RoundTrip.Statement (.jmp off) := fun hw h =>
  rtJ rfl rfl rfl (by omega) rfl rfl rfl rfl rfl rfl rfl rfl rfl
    (congrArg (fun x => Except.ok (Instr.jmp x)) (off44_high _ off rfl _))

theorem RoundTrip.jal (off : BitVec 44) : RoundTrip.Statement (.jal off) := fun hw h =>
  rtJ rfl rfl rfl (by omega) rfl rfl rfl rfl rfl rfl rfl rfl rfl
    (congrArg (fun x => Except.ok (Instr.jal x)) (off44_high _ off rfl _))

theorem RoundTrip.jalr (d : Fin 32) (a : Fin 32) (imm : BitVec 34) : RoundTrip.Statement (.jalr d a imm) := fun hw h => by
  have := lowS_lt imm
  exact rt32 (fn := (lowS imm / 32)) (b := (lowS imm % 32)) (a := a.val) (d := d.val) (op := 24) rfl rfl rfl (by omega) (by omega) (by omega) (by omega) (by omega) (by show 0 < 3; omega) rfl (fun _ => highS_lt) rfl rfl rfl rfl (.inl rfl) (.inl rfl) (.inr rfl) (.inl rfl) (by simp only [fin_ofNat_val, imm34_low])

theorem RoundTrip.loop (n : Fin 2) (a : Fin 32) (imm : BitVec 34) : RoundTrip.Statement (.loop n a imm) := fun hw h => by
  have := lowU_lt imm
  exact rt32 (fn := (lowU imm / 32)) (b := (lowU imm % 32)) (a := a.val) (d := n.val) (op := 25) rfl rfl rfl (by omega) (by omega) (by omega) (by omega) (by omega) (by show 0 < 3; omega) rfl (fun _ => highU_lt) rfl (by simp <;> omega) rfl rfl (.inl rfl) (.inl rfl) (.inr rfl) (.inl rfl) (by simp only [fin_ofNat_val, imm34u_low])

theorem RoundTrip.bmaskNone (m : Fin 8) (off : BitVec 34) : RoundTrip.Statement (.bmaskNone m off) := fun hw h => by
  have := lowS_lt off
  exact rt32 (fn := (lowS off / 32)) (b := (lowS off % 32)) (a := 0) (d := m.val) (op := 26) rfl rfl rfl (by omega) (by omega) (by omega) (by omega) (by omega) (by show 0 < 3; omega) rfl (fun _ => highS_lt) rfl (by simp <;> omega) rfl rfl (.inl rfl) (.inl rfl) (.inr rfl) (.inl rfl) (by simp only [fin_ofNat_val, imm34_low])

theorem RoundTrip.bmaskAny (m : Fin 8) (off : BitVec 34) : RoundTrip.Statement (.bmaskAny m off) := fun hw h => by
  have := lowS_lt off
  exact rt32 (fn := (lowS off / 32)) (b := (lowS off % 32)) (a := 1) (d := m.val) (op := 26) rfl rfl rfl (by omega) (by omega) (by omega) (by omega) (by omega) (by show 0 < 3; omega) rfl (fun _ => highS_lt) rfl (by simp <;> omega) rfl rfl (.inl rfl) (.inl rfl) (.inr rfl) (.inl rfl) (by simp only [fin_ofNat_val, imm34_low])

theorem RoundTrip.bmaskAll (m : Fin 8) (off : BitVec 34) : RoundTrip.Statement (.bmaskAll m off) := fun hw h => by
  have := lowS_lt off
  exact rt32 (fn := (lowS off / 32)) (b := (lowS off % 32)) (a := 2) (d := m.val) (op := 26) rfl rfl rfl (by omega) (by omega) (by omega) (by omega) (by omega) (by show 0 < 3; omega) rfl (fun _ => highS_lt) rfl (by simp <;> omega) rfl rfl (.inl rfl) (.inl rfl) (.inr rfl) (.inl rfl) (by simp only [fin_ofNat_val, imm34_low])

theorem RoundTrip.bflClr (n : Fin 16) (off : BitVec 34) : RoundTrip.Statement (.bflClr n off) := fun hw h => by
  have := lowS_lt off
  exact rt32 (fn := (lowS off / 32)) (b := (lowS off % 32)) (a := 0) (d := n.val) (op := 27) rfl rfl rfl (by omega) (by omega) (by omega) (by omega) (by omega) (by show 0 < 3; omega) rfl (fun _ => highS_lt) rfl (by simp <;> omega) rfl rfl (.inl rfl) (.inl rfl) (.inr rfl) (.inl rfl) (by simp only [fin_ofNat_val, imm34_low])

theorem RoundTrip.bflSet (n : Fin 16) (off : BitVec 34) : RoundTrip.Statement (.bflSet n off) := fun hw h => by
  have := lowS_lt off
  exact rt32 (fn := (lowS off / 32)) (b := (lowS off % 32)) (a := 1) (d := n.val) (op := 27) rfl rfl rfl (by omega) (by omega) (by omega) (by omega) (by omega) (by show 0 < 3; omega) rfl (fun _ => highS_lt) rfl (by simp <;> omega) rfl rfl (.inl rfl) (.inl rfl) (.inr rfl) (.inl rfl) (by simp only [fin_ofNat_val, imm34_low])

theorem RoundTrip.nop : RoundTrip.Statement .nop := fun hw h => by
  exact rt32 (fn := 0) (b := 0) (a := 0) (d := 0) (op := 28) rfl rfl rfl (by omega) (by omega) (by omega) (by omega) (by omega) (by show 0 < 3; omega) rfl (fun _ h => nomatch h) rfl rfl rfl rfl (.inl rfl) (.inl rfl) (.inl rfl) (.inl rfl) rfl

theorem RoundTrip.exit : RoundTrip.Statement .exit := fun hw h => by
  exact rt32 (fn := 1) (b := 0) (a := 0) (d := 0) (op := 28) rfl rfl rfl (by omega) (by omega) (by omega) (by omega) (by omega) (by show 0 < 3; omega) rfl (fun _ h => nomatch h) rfl rfl rfl rfl (.inl rfl) (.inl rfl) (.inl rfl) (.inl rfl) rfl

theorem RoundTrip.yield : RoundTrip.Statement .yield := fun hw h => by
  exact rt32 (fn := 2) (b := 0) (a := 0) (d := 0) (op := 28) rfl rfl rfl (by omega) (by omega) (by omega) (by omega) (by omega) (by show 0 < 3; omega) rfl (fun _ h => nomatch h) rfl rfl rfl rfl (.inl rfl) (.inl rfl) (.inl rfl) (.inl rfl) rfl

theorem RoundTrip.trap (code : Fin 32) : RoundTrip.Statement (.trap code) := fun hw h => by
  exact rt32 (fn := 3) (b := code.val) (a := 0) (d := 0) (op := 28) rfl rfl rfl (by omega) (by omega) (by omega) (by omega) (by omega) (by show 0 < 3; omega) rfl (fun _ h => nomatch h) rfl rfl rfl rfl (.inl rfl) (.inl rfl) (.inl rfl) (.inl rfl) (by simp only [fin_ofNat_val])

theorem RoundTrip.eret : RoundTrip.Statement .eret := fun hw h => by
  exact rt32 (fn := 4) (b := 0) (a := 0) (d := 0) (op := 28) rfl rfl rfl (by omega) (by omega) (by omega) (by omega) (by omega) (by show 0 < 3; omega) rfl (fun _ h => nomatch h) rfl rfl rfl rfl (.inl rfl) (.inl rfl) (.inl rfl) (.inl rfl) rfl

theorem RoundTrip.faddF32 (rnd : Option Rnd) (d : Fin 32) (a : Fin 32) (b : Fin 32) : RoundTrip.Statement (.faddF32 rnd d a b) := fun hw h => by
  exact rt32 (fn := 0) (b := b.val) (a := a.val) (d := d.val) (op := 29) rfl rfl rfl (by omega) (by omega) (by omega) (by omega) (by omega) (by show 0 < 3; omega) hw (fun _ h => nomatch h) rfl rfl rfl rfl (.inl rfl) (.inr rfl) (.inl rfl) (.inl rfl) (by simp only [fin_ofNat_val, Enc.rndOf_pfx])

theorem RoundTrip.fsubF32 (rnd : Option Rnd) (d : Fin 32) (a : Fin 32) (b : Fin 32) : RoundTrip.Statement (.fsubF32 rnd d a b) := fun hw h => by
  exact rt32 (fn := 1) (b := b.val) (a := a.val) (d := d.val) (op := 29) rfl rfl rfl (by omega) (by omega) (by omega) (by omega) (by omega) (by show 0 < 3; omega) hw (fun _ h => nomatch h) rfl rfl rfl rfl (.inl rfl) (.inr rfl) (.inl rfl) (.inl rfl) (by simp only [fin_ofNat_val, Enc.rndOf_pfx])

theorem RoundTrip.fmulF32 (rnd : Option Rnd) (d : Fin 32) (a : Fin 32) (b : Fin 32) : RoundTrip.Statement (.fmulF32 rnd d a b) := fun hw h => by
  exact rt32 (fn := 2) (b := b.val) (a := a.val) (d := d.val) (op := 29) rfl rfl rfl (by omega) (by omega) (by omega) (by omega) (by omega) (by show 0 < 3; omega) hw (fun _ h => nomatch h) rfl rfl rfl rfl (.inl rfl) (.inr rfl) (.inl rfl) (.inl rfl) (by simp only [fin_ofNat_val, Enc.rndOf_pfx])

theorem RoundTrip.fdivF32 (rnd : Option Rnd) (d : Fin 32) (a : Fin 32) (b : Fin 32) : RoundTrip.Statement (.fdivF32 rnd d a b) := fun hw h => by
  exact rt32 (fn := 3) (b := b.val) (a := a.val) (d := d.val) (op := 29) rfl rfl rfl (by omega) (by omega) (by omega) (by omega) (by omega) (by show 0 < 3; omega) hw (fun _ h => nomatch h) rfl rfl rfl rfl (.inl rfl) (.inr rfl) (.inl rfl) (.inl rfl) (by simp only [fin_ofNat_val, Enc.rndOf_pfx])

theorem RoundTrip.fminF32 (rnd : Option Rnd) (d : Fin 32) (a : Fin 32) (b : Fin 32) : RoundTrip.Statement (.fminF32 rnd d a b) := fun hw h => by
  exact rt32 (fn := 4) (b := b.val) (a := a.val) (d := d.val) (op := 29) rfl rfl rfl (by omega) (by omega) (by omega) (by omega) (by omega) (by show 0 < 3; omega) hw (fun _ h => nomatch h) rfl rfl rfl rfl (.inl rfl) (.inr rfl) (.inl rfl) (.inl rfl) (by simp only [fin_ofNat_val, Enc.rndOf_pfx])

theorem RoundTrip.fmaxF32 (rnd : Option Rnd) (d : Fin 32) (a : Fin 32) (b : Fin 32) : RoundTrip.Statement (.fmaxF32 rnd d a b) := fun hw h => by
  exact rt32 (fn := 5) (b := b.val) (a := a.val) (d := d.val) (op := 29) rfl rfl rfl (by omega) (by omega) (by omega) (by omega) (by omega) (by show 0 < 3; omega) hw (fun _ h => nomatch h) rfl rfl rfl rfl (.inl rfl) (.inr rfl) (.inl rfl) (.inl rfl) (by simp only [fin_ofNat_val, Enc.rndOf_pfx])

theorem RoundTrip.fltF32 (rnd : Option Rnd) (d : Fin 32) (a : Fin 32) (b : Fin 32) : RoundTrip.Statement (.fltF32 rnd d a b) := fun hw h => by
  exact rt32 (fn := 6) (b := b.val) (a := a.val) (d := d.val) (op := 29) rfl rfl rfl (by omega) (by omega) (by omega) (by omega) (by omega) (by show 0 < 3; omega) hw (fun _ h => nomatch h) rfl rfl rfl rfl (.inl rfl) (.inr rfl) (.inl rfl) (.inl rfl) (by simp only [fin_ofNat_val, Enc.rndOf_pfx])

theorem RoundTrip.feqF32 (rnd : Option Rnd) (d : Fin 32) (a : Fin 32) (b : Fin 32) : RoundTrip.Statement (.feqF32 rnd d a b) := fun hw h => by
  exact rt32 (fn := 7) (b := b.val) (a := a.val) (d := d.val) (op := 29) rfl rfl rfl (by omega) (by omega) (by omega) (by omega) (by omega) (by show 0 < 3; omega) hw (fun _ h => nomatch h) rfl rfl rfl rfl (.inl rfl) (.inr rfl) (.inl rfl) (.inl rfl) (by simp only [fin_ofNat_val, Enc.rndOf_pfx])

theorem RoundTrip.cvtF32I64 (rnd : Option Rnd) (d : Fin 32) (a : Fin 32) : RoundTrip.Statement (.cvtF32I64 rnd d a) := fun hw h => by
  exact rt32 (fn := 8) (b := 0) (a := a.val) (d := d.val) (op := 29) rfl rfl rfl (by omega) (by omega) (by omega) (by omega) (by omega) (by show 0 < 3; omega) hw (fun _ h => nomatch h) rfl rfl rfl rfl (.inl rfl) (.inr rfl) (.inl rfl) (.inl rfl) (by simp only [fin_ofNat_val, Enc.rndOf_pfx])

theorem RoundTrip.cvtI64F32 (rnd : Option Rnd) (d : Fin 32) (a : Fin 32) : RoundTrip.Statement (.cvtI64F32 rnd d a) := fun hw h => by
  exact rt32 (fn := 9) (b := 0) (a := a.val) (d := d.val) (op := 29) rfl rfl rfl (by omega) (by omega) (by omega) (by omega) (by omega) (by show 0 < 3; omega) hw (fun _ h => nomatch h) rfl rfl rfl rfl (.inl rfl) (.inr rfl) (.inl rfl) (.inl rfl) (by simp only [fin_ofNat_val, Enc.rndOf_pfx])

theorem RoundTrip.ldI8 (w : Option (Fin 4)) (d : Fin 32) (a : Fin 32) (imm : BitVec 34) : RoundTrip.Statement (.ldI8 w d a imm) := fun hw h => by
  have := lowS_lt imm
  exact rt32 (fn := (lowS imm / 32)) (b := (lowS imm % 32)) (a := a.val) (d := d.val) (op := 32) rfl rfl rfl (by omega) (by omega) (by omega) (by omega) (by omega) (by show 0 < 3; omega) rfl (fun _ => highS_lt) rfl rfl rfl rfl (.inl rfl) (.inl rfl) (.inr rfl) (.inr rfl) (by simp only [fin_ofNat_val, Enc.waitOf_pfx, imm34_low])

theorem RoundTrip.ldN8 (w : Option (Fin 4)) (d : Fin 32) (a : Fin 32) (imm : BitVec 34) : RoundTrip.Statement (.ldN8 w d a imm) := fun hw h => by
  have := lowS_lt imm
  exact rt32 (fn := (lowS imm / 32)) (b := (lowS imm % 32)) (a := a.val) (d := d.val) (op := 33) rfl rfl rfl (by omega) (by omega) (by omega) (by omega) (by omega) (by show 0 < 3; omega) rfl (fun _ => highS_lt) rfl rfl rfl rfl (.inl rfl) (.inl rfl) (.inr rfl) (.inr rfl) (by simp only [fin_ofNat_val, Enc.waitOf_pfx, imm34_low])

theorem RoundTrip.ldI16 (w : Option (Fin 4)) (d : Fin 32) (a : Fin 32) (imm : BitVec 34) : RoundTrip.Statement (.ldI16 w d a imm) := fun hw h => by
  have := lowS_lt imm
  exact rt32 (fn := (lowS imm / 32)) (b := (lowS imm % 32)) (a := a.val) (d := d.val) (op := 34) rfl rfl rfl (by omega) (by omega) (by omega) (by omega) (by omega) (by show 0 < 3; omega) rfl (fun _ => highS_lt) rfl rfl rfl rfl (.inl rfl) (.inl rfl) (.inr rfl) (.inr rfl) (by simp only [fin_ofNat_val, Enc.waitOf_pfx, imm34_low])

theorem RoundTrip.ldN16 (w : Option (Fin 4)) (d : Fin 32) (a : Fin 32) (imm : BitVec 34) : RoundTrip.Statement (.ldN16 w d a imm) := fun hw h => by
  have := lowS_lt imm
  exact rt32 (fn := (lowS imm / 32)) (b := (lowS imm % 32)) (a := a.val) (d := d.val) (op := 35) rfl rfl rfl (by omega) (by omega) (by omega) (by omega) (by omega) (by show 0 < 3; omega) rfl (fun _ => highS_lt) rfl rfl rfl rfl (.inl rfl) (.inl rfl) (.inr rfl) (.inr rfl) (by simp only [fin_ofNat_val, Enc.waitOf_pfx, imm34_low])

theorem RoundTrip.ldI32 (w : Option (Fin 4)) (d : Fin 32) (a : Fin 32) (imm : BitVec 34) : RoundTrip.Statement (.ldI32 w d a imm) := fun hw h => by
  have := lowS_lt imm
  exact rt32 (fn := (lowS imm / 32)) (b := (lowS imm % 32)) (a := a.val) (d := d.val) (op := 36) rfl rfl rfl (by omega) (by omega) (by omega) (by omega) (by omega) (by show 0 < 3; omega) rfl (fun _ => highS_lt) rfl rfl rfl rfl (.inl rfl) (.inl rfl) (.inr rfl) (.inr rfl) (by simp only [fin_ofNat_val, Enc.waitOf_pfx, imm34_low])

theorem RoundTrip.ldN32 (w : Option (Fin 4)) (d : Fin 32) (a : Fin 32) (imm : BitVec 34) : RoundTrip.Statement (.ldN32 w d a imm) := fun hw h => by
  have := lowS_lt imm
  exact rt32 (fn := (lowS imm / 32)) (b := (lowS imm % 32)) (a := a.val) (d := d.val) (op := 37) rfl rfl rfl (by omega) (by omega) (by omega) (by omega) (by omega) (by show 0 < 3; omega) rfl (fun _ => highS_lt) rfl rfl rfl rfl (.inl rfl) (.inl rfl) (.inr rfl) (.inr rfl) (by simp only [fin_ofNat_val, Enc.waitOf_pfx, imm34_low])

theorem RoundTrip.ld64 (w : Option (Fin 4)) (d : Fin 32) (a : Fin 32) (imm : BitVec 34) : RoundTrip.Statement (.ld64 w d a imm) := fun hw h => by
  have := lowS_lt imm
  exact rt32 (fn := (lowS imm / 32)) (b := (lowS imm % 32)) (a := a.val) (d := d.val) (op := 38) rfl rfl rfl (by omega) (by omega) (by omega) (by omega) (by omega) (by show 0 < 3; omega) rfl (fun _ => highS_lt) rfl rfl rfl rfl (.inl rfl) (.inl rfl) (.inr rfl) (.inr rfl) (by simp only [fin_ofNat_val, Enc.waitOf_pfx, imm34_low])

theorem RoundTrip.st8 (w : Option (Fin 4)) (s : Fin 32) (a : Fin 32) (imm : BitVec 34) : RoundTrip.Statement (.st8 w s a imm) := fun hw h => by
  have := lowS_lt imm
  exact rt32 (fn := (lowS imm / 32)) (b := (lowS imm % 32)) (a := a.val) (d := s.val) (op := 39) rfl rfl rfl (by omega) (by omega) (by omega) (by omega) (by omega) (by show 0 < 3; omega) rfl (fun _ => highS_lt) rfl rfl rfl rfl (.inl rfl) (.inl rfl) (.inr rfl) (.inr rfl) (by simp only [fin_ofNat_val, Enc.waitOf_pfx, imm34_low])

theorem RoundTrip.st16 (w : Option (Fin 4)) (s : Fin 32) (a : Fin 32) (imm : BitVec 34) : RoundTrip.Statement (.st16 w s a imm) := fun hw h => by
  have := lowS_lt imm
  exact rt32 (fn := (lowS imm / 32)) (b := (lowS imm % 32)) (a := a.val) (d := s.val) (op := 40) rfl rfl rfl (by omega) (by omega) (by omega) (by omega) (by omega) (by show 0 < 3; omega) rfl (fun _ => highS_lt) rfl rfl rfl rfl (.inl rfl) (.inl rfl) (.inr rfl) (.inr rfl) (by simp only [fin_ofNat_val, Enc.waitOf_pfx, imm34_low])

theorem RoundTrip.st32 (w : Option (Fin 4)) (s : Fin 32) (a : Fin 32) (imm : BitVec 34) : RoundTrip.Statement (.st32 w s a imm) := fun hw h => by
  have := lowS_lt imm
  exact rt32 (fn := (lowS imm / 32)) (b := (lowS imm % 32)) (a := a.val) (d := s.val) (op := 41) rfl rfl rfl (by omega) (by omega) (by omega) (by omega) (by omega) (by show 0 < 3; omega) rfl (fun _ => highS_lt) rfl rfl rfl rfl (.inl rfl) (.inl rfl) (.inr rfl) (.inr rfl) (by simp only [fin_ofNat_val, Enc.waitOf_pfx, imm34_low])

theorem RoundTrip.st64 (w : Option (Fin 4)) (s : Fin 32) (a : Fin 32) (imm : BitVec 34) : RoundTrip.Statement (.st64 w s a imm) := fun hw h => by
  have := lowS_lt imm
  exact rt32 (fn := (lowS imm / 32)) (b := (lowS imm % 32)) (a := a.val) (d := s.val) (op := 42) rfl rfl rfl (by omega) (by omega) (by omega) (by omega) (by omega) (by show 0 < 3; omega) rfl (fun _ => highS_lt) rfl rfl rfl rfl (.inl rfl) (.inl rfl) (.inr rfl) (.inr rfl) (by simp only [fin_ofNat_val, Enc.waitOf_pfx, imm34_low])

theorem RoundTrip.prf (w : Option (Fin 4)) (a : Fin 32) (imm : BitVec 34) : RoundTrip.Statement (.prf w a imm) := fun hw h => by
  have := lowS_lt imm
  exact rt32 (fn := (lowS imm / 32)) (b := (lowS imm % 32)) (a := a.val) (d := 0) (op := 43) rfl rfl rfl (by omega) (by omega) (by omega) (by omega) (by omega) (by show 0 < 3; omega) rfl (fun _ => highS_lt) rfl rfl rfl rfl (.inl rfl) (.inl rfl) (.inr rfl) (.inr rfl) (by simp only [fin_ofNat_val, Enc.waitOf_pfx, imm34_low])

theorem RoundTrip.vaddF32 (rnd : Option Rnd) (d : Fin 32) (a : Fin 32) (b : Fin 32) : RoundTrip.Statement (.vaddF32 rnd d a b) := fun hw h => by
  exact rt32 (fn := 0) (b := b.val) (a := a.val) (d := d.val) (op := 48) rfl rfl rfl (by omega) (by omega) (by omega) (by omega) (by omega) (by show 0 < 3; omega) hw (fun _ h => nomatch h) rfl rfl rfl rfl (.inl rfl) (.inr rfl) (.inl rfl) (.inl rfl) (by simp only [fin_ofNat_val, Enc.rndOf_pfx])

theorem RoundTrip.vsubF32 (rnd : Option Rnd) (d : Fin 32) (a : Fin 32) (b : Fin 32) : RoundTrip.Statement (.vsubF32 rnd d a b) := fun hw h => by
  exact rt32 (fn := 1) (b := b.val) (a := a.val) (d := d.val) (op := 48) rfl rfl rfl (by omega) (by omega) (by omega) (by omega) (by omega) (by show 0 < 3; omega) hw (fun _ h => nomatch h) rfl rfl rfl rfl (.inl rfl) (.inr rfl) (.inl rfl) (.inl rfl) (by simp only [fin_ofNat_val, Enc.rndOf_pfx])

theorem RoundTrip.vmulF32 (rnd : Option Rnd) (d : Fin 32) (a : Fin 32) (b : Fin 32) : RoundTrip.Statement (.vmulF32 rnd d a b) := fun hw h => by
  exact rt32 (fn := 2) (b := b.val) (a := a.val) (d := d.val) (op := 48) rfl rfl rfl (by omega) (by omega) (by omega) (by omega) (by omega) (by show 0 < 3; omega) hw (fun _ h => nomatch h) rfl rfl rfl rfl (.inl rfl) (.inr rfl) (.inl rfl) (.inl rfl) (by simp only [fin_ofNat_val, Enc.rndOf_pfx])

theorem RoundTrip.vdivF32 (rnd : Option Rnd) (d : Fin 32) (a : Fin 32) (b : Fin 32) : RoundTrip.Statement (.vdivF32 rnd d a b) := fun hw h => by
  exact rt32 (fn := 3) (b := b.val) (a := a.val) (d := d.val) (op := 48) rfl rfl rfl (by omega) (by omega) (by omega) (by omega) (by omega) (by show 0 < 3; omega) hw (fun _ h => nomatch h) rfl rfl rfl rfl (.inl rfl) (.inr rfl) (.inl rfl) (.inl rfl) (by simp only [fin_ofNat_val, Enc.rndOf_pfx])

theorem RoundTrip.vminF32 (rnd : Option Rnd) (d : Fin 32) (a : Fin 32) (b : Fin 32) : RoundTrip.Statement (.vminF32 rnd d a b) := fun hw h => by
  exact rt32 (fn := 4) (b := b.val) (a := a.val) (d := d.val) (op := 48) rfl rfl rfl (by omega) (by omega) (by omega) (by omega) (by omega) (by show 0 < 3; omega) hw (fun _ h => nomatch h) rfl rfl rfl rfl (.inl rfl) (.inr rfl) (.inl rfl) (.inl rfl) (by simp only [fin_ofNat_val, Enc.rndOf_pfx])

theorem RoundTrip.vmaxF32 (rnd : Option Rnd) (d : Fin 32) (a : Fin 32) (b : Fin 32) : RoundTrip.Statement (.vmaxF32 rnd d a b) := fun hw h => by
  exact rt32 (fn := 5) (b := b.val) (a := a.val) (d := d.val) (op := 48) rfl rfl rfl (by omega) (by omega) (by omega) (by omega) (by omega) (by show 0 < 3; omega) hw (fun _ h => nomatch h) rfl rfl rfl rfl (.inl rfl) (.inr rfl) (.inl rfl) (.inl rfl) (by simp only [fin_ofNat_val, Enc.rndOf_pfx])

theorem RoundTrip.vabsF32 (rnd : Option Rnd) (d : Fin 32) (a : Fin 32) : RoundTrip.Statement (.vabsF32 rnd d a) := fun hw h => by
  exact rt32 (fn := 6) (b := 0) (a := a.val) (d := d.val) (op := 48) rfl rfl rfl (by omega) (by omega) (by omega) (by omega) (by omega) (by show 0 < 3; omega) hw (fun _ h => nomatch h) rfl rfl rfl rfl (.inl rfl) (.inr rfl) (.inl rfl) (.inl rfl) (by simp only [fin_ofNat_val, Enc.rndOf_pfx])

theorem RoundTrip.vnegF32 (rnd : Option Rnd) (d : Fin 32) (a : Fin 32) : RoundTrip.Statement (.vnegF32 rnd d a) := fun hw h => by
  exact rt32 (fn := 7) (b := 0) (a := a.val) (d := d.val) (op := 48) rfl rfl rfl (by omega) (by omega) (by omega) (by omega) (by omega) (by show 0 < 3; omega) hw (fun _ h => nomatch h) rfl rfl rfl rfl (.inl rfl) (.inr rfl) (.inl rfl) (.inl rfl) (by simp only [fin_ofNat_val, Enc.rndOf_pfx])

theorem RoundTrip.vsqrtF32 (rnd : Option Rnd) (d : Fin 32) (a : Fin 32) : RoundTrip.Statement (.vsqrtF32 rnd d a) := fun hw h => by
  exact rt32 (fn := 8) (b := 0) (a := a.val) (d := d.val) (op := 48) rfl rfl rfl (by omega) (by omega) (by omega) (by omega) (by omega) (by show 0 < 3; omega) hw (fun _ h => nomatch h) rfl rfl rfl rfl (.inl rfl) (.inr rfl) (.inl rfl) (.inl rfl) (by simp only [fin_ofNat_val, Enc.rndOf_pfx])

theorem RoundTrip.vaddI32 (d : Fin 32) (a : Fin 32) (b : Fin 32) : RoundTrip.Statement (.vaddI32 d a b) := fun hw h => by
  exact rt32 (fn := 0) (b := b.val) (a := a.val) (d := d.val) (op := 49) rfl rfl rfl (by omega) (by omega) (by omega) (by omega) (by omega) (by show 0 < 3; omega) rfl (fun _ h => nomatch h) rfl rfl rfl rfl (.inl rfl) (.inl rfl) (.inl rfl) (.inl rfl) (by simp only [fin_ofNat_val])

theorem RoundTrip.vsubI32 (d : Fin 32) (a : Fin 32) (b : Fin 32) : RoundTrip.Statement (.vsubI32 d a b) := fun hw h => by
  exact rt32 (fn := 1) (b := b.val) (a := a.val) (d := d.val) (op := 49) rfl rfl rfl (by omega) (by omega) (by omega) (by omega) (by omega) (by show 0 < 3; omega) rfl (fun _ h => nomatch h) rfl rfl rfl rfl (.inl rfl) (.inl rfl) (.inl rfl) (.inl rfl) (by simp only [fin_ofNat_val])

theorem RoundTrip.vmulI32 (d : Fin 32) (a : Fin 32) (b : Fin 32) : RoundTrip.Statement (.vmulI32 d a b) := fun hw h => by
  exact rt32 (fn := 2) (b := b.val) (a := a.val) (d := d.val) (op := 49) rfl rfl rfl (by omega) (by omega) (by omega) (by omega) (by omega) (by show 0 < 3; omega) rfl (fun _ h => nomatch h) rfl rfl rfl rfl (.inl rfl) (.inl rfl) (.inl rfl) (.inl rfl) (by simp only [fin_ofNat_val])

theorem RoundTrip.vminI32 (d : Fin 32) (a : Fin 32) (b : Fin 32) : RoundTrip.Statement (.vminI32 d a b) := fun hw h => by
  exact rt32 (fn := 3) (b := b.val) (a := a.val) (d := d.val) (op := 49) rfl rfl rfl (by omega) (by omega) (by omega) (by omega) (by omega) (by show 0 < 3; omega) rfl (fun _ h => nomatch h) rfl rfl rfl rfl (.inl rfl) (.inl rfl) (.inl rfl) (.inl rfl) (by simp only [fin_ofNat_val])

theorem RoundTrip.vmaxI32 (d : Fin 32) (a : Fin 32) (b : Fin 32) : RoundTrip.Statement (.vmaxI32 d a b) := fun hw h => by
  exact rt32 (fn := 4) (b := b.val) (a := a.val) (d := d.val) (op := 49) rfl rfl rfl (by omega) (by omega) (by omega) (by omega) (by omega) (by show 0 < 3; omega) rfl (fun _ h => nomatch h) rfl rfl rfl rfl (.inl rfl) (.inl rfl) (.inl rfl) (.inl rfl) (by simp only [fin_ofNat_val])

theorem RoundTrip.vminN32 (d : Fin 32) (a : Fin 32) (b : Fin 32) : RoundTrip.Statement (.vminN32 d a b) := fun hw h => by
  exact rt32 (fn := 5) (b := b.val) (a := a.val) (d := d.val) (op := 49) rfl rfl rfl (by omega) (by omega) (by omega) (by omega) (by omega) (by show 0 < 3; omega) rfl (fun _ h => nomatch h) rfl rfl rfl rfl (.inl rfl) (.inl rfl) (.inl rfl) (.inl rfl) (by simp only [fin_ofNat_val])

theorem RoundTrip.vmaxN32 (d : Fin 32) (a : Fin 32) (b : Fin 32) : RoundTrip.Statement (.vmaxN32 d a b) := fun hw h => by
  exact rt32 (fn := 6) (b := b.val) (a := a.val) (d := d.val) (op := 49) rfl rfl rfl (by omega) (by omega) (by omega) (by omega) (by omega) (by show 0 < 3; omega) rfl (fun _ h => nomatch h) rfl rfl rfl rfl (.inl rfl) (.inl rfl) (.inl rfl) (.inl rfl) (by simp only [fin_ofNat_val])

theorem RoundTrip.vand (d : Fin 32) (a : Fin 32) (b : Fin 32) : RoundTrip.Statement (.vand d a b) := fun hw h => by
  exact rt32 (fn := 7) (b := b.val) (a := a.val) (d := d.val) (op := 49) rfl rfl rfl (by omega) (by omega) (by omega) (by omega) (by omega) (by show 0 < 3; omega) rfl (fun _ h => nomatch h) rfl rfl rfl rfl (.inl rfl) (.inl rfl) (.inl rfl) (.inl rfl) (by simp only [fin_ofNat_val])

theorem RoundTrip.vor (d : Fin 32) (a : Fin 32) (b : Fin 32) : RoundTrip.Statement (.vor d a b) := fun hw h => by
  exact rt32 (fn := 8) (b := b.val) (a := a.val) (d := d.val) (op := 49) rfl rfl rfl (by omega) (by omega) (by omega) (by omega) (by omega) (by show 0 < 3; omega) rfl (fun _ h => nomatch h) rfl rfl rfl rfl (.inl rfl) (.inl rfl) (.inl rfl) (.inl rfl) (by simp only [fin_ofNat_val])

theorem RoundTrip.vxor (d : Fin 32) (a : Fin 32) (b : Fin 32) : RoundTrip.Statement (.vxor d a b) := fun hw h => by
  exact rt32 (fn := 9) (b := b.val) (a := a.val) (d := d.val) (op := 49) rfl rfl rfl (by omega) (by omega) (by omega) (by omega) (by omega) (by show 0 < 3; omega) rfl (fun _ h => nomatch h) rfl rfl rfl rfl (.inl rfl) (.inl rfl) (.inl rfl) (.inl rfl) (by simp only [fin_ofNat_val])

theorem RoundTrip.vsllI32 (d : Fin 32) (a : Fin 32) (b : Fin 32) : RoundTrip.Statement (.vsllI32 d a b) := fun hw h => by
  exact rt32 (fn := 10) (b := b.val) (a := a.val) (d := d.val) (op := 49) rfl rfl rfl (by omega) (by omega) (by omega) (by omega) (by omega) (by show 0 < 3; omega) rfl (fun _ h => nomatch h) rfl rfl rfl rfl (.inl rfl) (.inl rfl) (.inl rfl) (.inl rfl) (by simp only [fin_ofNat_val])

theorem RoundTrip.vsrlI32 (d : Fin 32) (a : Fin 32) (b : Fin 32) : RoundTrip.Statement (.vsrlI32 d a b) := fun hw h => by
  exact rt32 (fn := 11) (b := b.val) (a := a.val) (d := d.val) (op := 49) rfl rfl rfl (by omega) (by omega) (by omega) (by omega) (by omega) (by show 0 < 3; omega) rfl (fun _ h => nomatch h) rfl rfl rfl rfl (.inl rfl) (.inl rfl) (.inl rfl) (.inl rfl) (by simp only [fin_ofNat_val])

theorem RoundTrip.vsraI32 (d : Fin 32) (a : Fin 32) (b : Fin 32) : RoundTrip.Statement (.vsraI32 d a b) := fun hw h => by
  exact rt32 (fn := 12) (b := b.val) (a := a.val) (d := d.val) (op := 49) rfl rfl rfl (by omega) (by omega) (by omega) (by omega) (by omega) (by show 0 < 3; omega) rfl (fun _ h => nomatch h) rfl rfl rfl rfl (.inl rfl) (.inl rfl) (.inl rfl) (.inl rfl) (by simp only [fin_ofNat_val])

theorem RoundTrip.vcmpeqF32 (d : Fin 8) (a : Fin 32) (b : Fin 32) : RoundTrip.Statement (.vcmpeqF32 d a b) := fun hw h => by
  have w' : (d != 0) = true := hw
  have hd : d.val ≠ 0 := fun e => by
    have : d = 0 := Fin.ext e
    simp [this] at w'
  exact rt32 (fn := 0) (b := b.val) (a := a.val) (d := d.val) (op := 50) rfl rfl rfl (by omega) (by omega) (by omega) (by omega) (by omega) (by show 0 < 3; omega) rfl (fun _ h => nomatch h) rfl (by simp [hd] <;> omega) rfl rfl (.inl rfl) (.inl rfl) (.inl rfl) (.inl rfl) (by simp only [fin_ofNat_val])

theorem RoundTrip.vcmpltF32 (d : Fin 8) (a : Fin 32) (b : Fin 32) : RoundTrip.Statement (.vcmpltF32 d a b) := fun hw h => by
  have w' : (d != 0) = true := hw
  have hd : d.val ≠ 0 := fun e => by
    have : d = 0 := Fin.ext e
    simp [this] at w'
  exact rt32 (fn := 1) (b := b.val) (a := a.val) (d := d.val) (op := 50) rfl rfl rfl (by omega) (by omega) (by omega) (by omega) (by omega) (by show 0 < 3; omega) rfl (fun _ h => nomatch h) rfl (by simp [hd] <;> omega) rfl rfl (.inl rfl) (.inl rfl) (.inl rfl) (.inl rfl) (by simp only [fin_ofNat_val])

theorem RoundTrip.vcmpleF32 (d : Fin 8) (a : Fin 32) (b : Fin 32) : RoundTrip.Statement (.vcmpleF32 d a b) := fun hw h => by
  have w' : (d != 0) = true := hw
  have hd : d.val ≠ 0 := fun e => by
    have : d = 0 := Fin.ext e
    simp [this] at w'
  exact rt32 (fn := 2) (b := b.val) (a := a.val) (d := d.val) (op := 50) rfl rfl rfl (by omega) (by omega) (by omega) (by omega) (by omega) (by show 0 < 3; omega) rfl (fun _ h => nomatch h) rfl (by simp [hd] <;> omega) rfl rfl (.inl rfl) (.inl rfl) (.inl rfl) (.inl rfl) (by simp only [fin_ofNat_val])

theorem RoundTrip.vcmpeqI32 (d : Fin 8) (a : Fin 32) (b : Fin 32) : RoundTrip.Statement (.vcmpeqI32 d a b) := fun hw h => by
  have w' : (d != 0) = true := hw
  have hd : d.val ≠ 0 := fun e => by
    have : d = 0 := Fin.ext e
    simp [this] at w'
  exact rt32 (fn := 3) (b := b.val) (a := a.val) (d := d.val) (op := 50) rfl rfl rfl (by omega) (by omega) (by omega) (by omega) (by omega) (by show 0 < 3; omega) rfl (fun _ h => nomatch h) rfl (by simp [hd] <;> omega) rfl rfl (.inl rfl) (.inl rfl) (.inl rfl) (.inl rfl) (by simp only [fin_ofNat_val])

theorem RoundTrip.vcmpltI32 (d : Fin 8) (a : Fin 32) (b : Fin 32) : RoundTrip.Statement (.vcmpltI32 d a b) := fun hw h => by
  have w' : (d != 0) = true := hw
  have hd : d.val ≠ 0 := fun e => by
    have : d = 0 := Fin.ext e
    simp [this] at w'
  exact rt32 (fn := 4) (b := b.val) (a := a.val) (d := d.val) (op := 50) rfl rfl rfl (by omega) (by omega) (by omega) (by omega) (by omega) (by show 0 < 3; omega) rfl (fun _ h => nomatch h) rfl (by simp [hd] <;> omega) rfl rfl (.inl rfl) (.inl rfl) (.inl rfl) (.inl rfl) (by simp only [fin_ofNat_val])

theorem RoundTrip.vcmpltN32 (d : Fin 8) (a : Fin 32) (b : Fin 32) : RoundTrip.Statement (.vcmpltN32 d a b) := fun hw h => by
  have w' : (d != 0) = true := hw
  have hd : d.val ≠ 0 := fun e => by
    have : d = 0 := Fin.ext e
    simp [this] at w'
  exact rt32 (fn := 5) (b := b.val) (a := a.val) (d := d.val) (op := 50) rfl rfl rfl (by omega) (by omega) (by omega) (by omega) (by omega) (by show 0 < 3; omega) rfl (fun _ h => nomatch h) rfl (by simp [hd] <;> omega) rfl rfl (.inl rfl) (.inl rfl) (.inl rfl) (.inl rfl) (by simp only [fin_ofNat_val])

theorem RoundTrip.vsel (d : Fin 32) (a : Fin 32) (b : Fin 32) (m : Fin 8) : RoundTrip.Statement (.vsel d a b m) := fun hw h => by
  exact rt32 (fn := m.val) (b := b.val) (a := a.val) (d := d.val) (op := 51) rfl rfl rfl (by omega) (by omega) (by omega) (by omega) (by omega) (by show 0 < 3; omega) rfl (fun _ h => nomatch h) rfl (by simp <;> omega) rfl rfl (.inl rfl) (.inl rfl) (.inl rfl) (.inl rfl) (by simp only [fin_ofNat_val])

theorem RoundTrip.vld (w : Option (Fin 4)) (d : Fin 32) (a : Fin 32) (imm : BitVec 34) : RoundTrip.Statement (.vld w d a imm) := fun hw h => by
  have := lowS_lt imm
  exact rt32 (fn := (lowS imm / 32)) (b := (lowS imm % 32)) (a := a.val) (d := d.val) (op := 52) rfl rfl rfl (by omega) (by omega) (by omega) (by omega) (by omega) (by show 0 < 3; omega) rfl (fun _ => highS_lt) rfl rfl rfl rfl (.inl rfl) (.inl rfl) (.inr rfl) (.inr rfl) (by simp only [fin_ofNat_val, Enc.waitOf_pfx, imm34_low])

theorem RoundTrip.vst (w : Option (Fin 4)) (rnd : Option Rnd) (s : Fin 32) (a : Fin 32) (imm : BitVec 34) : RoundTrip.Statement (.vst w rnd s a imm) := fun hw h => by
  have := lowS_lt imm
  exact rt32 (fn := (lowS imm / 32)) (b := (lowS imm % 32)) (a := a.val) (d := s.val) (op := 53) rfl rfl rfl (by omega) (by omega) (by omega) (by omega) (by omega) (by show 0 < 3; omega) hw (fun _ => highS_lt) rfl rfl rfl rfl (.inl rfl) (.inr rfl) (.inr rfl) (.inr rfl) (by simp only [fin_ofNat_val, Enc.rndOf_pfx, Enc.waitOf_pfx, imm34_low])

theorem RoundTrip.vbcast32 (d : Fin 32) (a : Fin 32) : RoundTrip.Statement (.vbcast32 d a) := fun hw h => by
  exact rt32 (fn := 0) (b := 0) (a := a.val) (d := d.val) (op := 54) rfl rfl rfl (by omega) (by omega) (by omega) (by omega) (by omega) (by show 0 < 3; omega) rfl (fun _ h => nomatch h) rfl rfl rfl rfl (.inl rfl) (.inl rfl) (.inl rfl) (.inl rfl) (by simp only [fin_ofNat_val])

theorem RoundTrip.vbcast16 (d : Fin 32) (a : Fin 32) : RoundTrip.Statement (.vbcast16 d a) := fun hw h => by
  exact rt32 (fn := 1) (b := 0) (a := a.val) (d := d.val) (op := 54) rfl rfl rfl (by omega) (by omega) (by omega) (by omega) (by omega) (by show 0 < 3; omega) rfl (fun _ h => nomatch h) rfl rfl rfl rfl (.inl rfl) (.inl rfl) (.inl rfl) (.inl rfl) (by simp only [fin_ofNat_val])

theorem RoundTrip.vbcast8 (d : Fin 32) (a : Fin 32) : RoundTrip.Statement (.vbcast8 d a) := fun hw h => by
  exact rt32 (fn := 2) (b := 0) (a := a.val) (d := d.val) (op := 54) rfl rfl rfl (by omega) (by omega) (by omega) (by omega) (by omega) (by show 0 < 3; omega) rfl (fun _ h => nomatch h) rfl rfl rfl rfl (.inl rfl) (.inl rfl) (.inl rfl) (.inl rfl) (by simp only [fin_ofNat_val])

theorem RoundTrip.vmovx (d : Fin 32) (a : Fin 32) (b : Fin 32) : RoundTrip.Statement (.vmovx d a b) := fun hw h => by
  exact rt32 (fn := 0) (b := b.val) (a := a.val) (d := d.val) (op := 55) rfl rfl rfl (by omega) (by omega) (by omega) (by omega) (by omega) (by show 0 < 3; omega) rfl (fun _ h => nomatch h) rfl rfl rfl rfl (.inl rfl) (.inl rfl) (.inl rfl) (.inl rfl) (by simp only [fin_ofNat_val])

theorem RoundTrip.vcvtF32I32 (rnd : Option Rnd) (d : Fin 32) (a : Fin 32) : RoundTrip.Statement (.vcvtF32I32 rnd d a) := fun hw h => by
  exact rt32 (fn := 0) (b := 0) (a := a.val) (d := d.val) (op := 1) rfl rfl rfl (by omega) (by omega) (by omega) (by omega) (by omega) (by show 1 < 3; omega) hw (fun _ h => nomatch h) rfl rfl rfl rfl (.inr rfl) (.inr rfl) (.inl rfl) (.inl rfl) (by simp only [fin_ofNat_val, Enc.rndOf_pfx])

theorem RoundTrip.vcvtI32F32 (rnd : Option Rnd) (d : Fin 32) (a : Fin 32) : RoundTrip.Statement (.vcvtI32F32 rnd d a) := fun hw h => by
  exact rt32 (fn := 1) (b := 0) (a := a.val) (d := d.val) (op := 1) rfl rfl rfl (by omega) (by omega) (by omega) (by omega) (by omega) (by show 1 < 3; omega) hw (fun _ h => nomatch h) rfl rfl rfl rfl (.inr rfl) (.inr rfl) (.inl rfl) (.inl rfl) (by simp only [fin_ofNat_val, Enc.rndOf_pfx])

theorem RoundTrip.vcvtBf16F32 (rnd : Option Rnd) (d : Fin 32) (a : Fin 32) (b : Fin 32) : RoundTrip.Statement (.vcvtBf16F32 rnd d a b) := fun hw h => by
  exact rt32 (fn := 2) (b := b.val) (a := a.val) (d := d.val) (op := 1) rfl rfl rfl (by omega) (by omega) (by omega) (by omega) (by omega) (by show 1 < 3; omega) hw (fun _ h => nomatch h) rfl rfl rfl rfl (.inr rfl) (.inr rfl) (.inl rfl) (.inl rfl) (by simp only [fin_ofNat_val, Enc.rndOf_pfx])

theorem RoundTrip.vcvtF32Bf16 (rnd : Option Rnd) (d : Fin 32) (a : Fin 32) : RoundTrip.Statement (.vcvtF32Bf16 rnd d a) := fun hw h => by
  exact rt32 (fn := 3) (b := 0) (a := a.val) (d := d.val) (op := 1) rfl rfl rfl (by omega) (by omega) (by omega) (by omega) (by omega) (by show 1 < 3; omega) hw (fun _ h => nomatch h) rfl rfl rfl rfl (.inr rfl) (.inr rfl) (.inl rfl) (.inl rfl) (by simp only [fin_ofNat_val, Enc.rndOf_pfx])

theorem RoundTrip.vcvtF16F32 (rnd : Option Rnd) (d : Fin 32) (a : Fin 32) (b : Fin 32) : RoundTrip.Statement (.vcvtF16F32 rnd d a b) := fun hw h => by
  exact rt32 (fn := 4) (b := b.val) (a := a.val) (d := d.val) (op := 1) rfl rfl rfl (by omega) (by omega) (by omega) (by omega) (by omega) (by show 1 < 3; omega) hw (fun _ h => nomatch h) rfl rfl rfl rfl (.inr rfl) (.inr rfl) (.inl rfl) (.inl rfl) (by simp only [fin_ofNat_val, Enc.rndOf_pfx])

theorem RoundTrip.vcvtF32F16 (rnd : Option Rnd) (d : Fin 32) (a : Fin 32) : RoundTrip.Statement (.vcvtF32F16 rnd d a) := fun hw h => by
  exact rt32 (fn := 5) (b := 0) (a := a.val) (d := d.val) (op := 1) rfl rfl rfl (by omega) (by omega) (by omega) (by omega) (by omega) (by show 1 < 3; omega) hw (fun _ h => nomatch h) rfl rfl rfl rfl (.inr rfl) (.inr rfl) (.inl rfl) (.inl rfl) (by simp only [fin_ofNat_val, Enc.rndOf_pfx])

theorem RoundTrip.vcvtE4m3F32 (rnd : Option Rnd) (d : Fin 32) (a : Fin 32) : RoundTrip.Statement (.vcvtE4m3F32 rnd d a) := fun hw h => by
  exact rt32 (fn := 6) (b := 0) (a := a.val) (d := d.val) (op := 1) rfl rfl rfl (by omega) (by omega) (by omega) (by omega) (by omega) (by show 1 < 3; omega) hw (fun _ h => nomatch h) rfl rfl rfl rfl (.inr rfl) (.inr rfl) (.inl rfl) (.inl rfl) (by simp only [fin_ofNat_val, Enc.rndOf_pfx])

theorem RoundTrip.vcvtE5m2F32 (rnd : Option Rnd) (d : Fin 32) (a : Fin 32) : RoundTrip.Statement (.vcvtE5m2F32 rnd d a) := fun hw h => by
  exact rt32 (fn := 7) (b := 0) (a := a.val) (d := d.val) (op := 1) rfl rfl rfl (by omega) (by omega) (by omega) (by omega) (by omega) (by show 1 < 3; omega) hw (fun _ h => nomatch h) rfl rfl rfl rfl (.inr rfl) (.inr rfl) (.inl rfl) (.inl rfl) (by simp only [fin_ofNat_val, Enc.rndOf_pfx])

theorem RoundTrip.vcvtF32E4m3 (rnd : Option Rnd) (d : Fin 32) (a : Fin 32) : RoundTrip.Statement (.vcvtF32E4m3 rnd d a) := fun hw h => by
  exact rt32 (fn := 8) (b := 0) (a := a.val) (d := d.val) (op := 1) rfl rfl rfl (by omega) (by omega) (by omega) (by omega) (by omega) (by show 1 < 3; omega) hw (fun _ h => nomatch h) rfl rfl rfl rfl (.inr rfl) (.inr rfl) (.inl rfl) (.inl rfl) (by simp only [fin_ofNat_val, Enc.rndOf_pfx])

theorem RoundTrip.vcvtF32E5m2 (rnd : Option Rnd) (d : Fin 32) (a : Fin 32) : RoundTrip.Statement (.vcvtF32E5m2 rnd d a) := fun hw h => by
  exact rt32 (fn := 9) (b := 0) (a := a.val) (d := d.val) (op := 1) rfl rfl rfl (by omega) (by omega) (by omega) (by omega) (by omega) (by show 1 < 3; omega) hw (fun _ h => nomatch h) rfl rfl rfl rfl (.inr rfl) (.inr rfl) (.inl rfl) (.inl rfl) (by simp only [fin_ofNat_val, Enc.rndOf_pfx])

theorem RoundTrip.vperm (d : Fin 32) (a : Fin 32) (b : Fin 32) : RoundTrip.Statement (.vperm d a b) := fun hw h => by
  exact rt32 (fn := 0) (b := b.val) (a := a.val) (d := d.val) (op := 2) rfl rfl rfl (by omega) (by omega) (by omega) (by omega) (by omega) (by show 1 < 3; omega) rfl (fun _ h => nomatch h) rfl rfl rfl rfl (.inr rfl) (.inl rfl) (.inl rfl) (.inl rfl) (by simp only [fin_ofNat_val])

theorem RoundTrip.vslideup (d : Fin 32) (a : Fin 32) (b : Fin 32) : RoundTrip.Statement (.vslideup d a b) := fun hw h => by
  exact rt32 (fn := 1) (b := b.val) (a := a.val) (d := d.val) (op := 2) rfl rfl rfl (by omega) (by omega) (by omega) (by omega) (by omega) (by show 1 < 3; omega) rfl (fun _ h => nomatch h) rfl rfl rfl rfl (.inr rfl) (.inl rfl) (.inl rfl) (.inl rfl) (by simp only [fin_ofNat_val])

theorem RoundTrip.vslidedn (d : Fin 32) (a : Fin 32) (b : Fin 32) : RoundTrip.Statement (.vslidedn d a b) := fun hw h => by
  exact rt32 (fn := 2) (b := b.val) (a := a.val) (d := d.val) (op := 2) rfl rfl rfl (by omega) (by omega) (by omega) (by omega) (by omega) (by show 1 < 3; omega) rfl (fun _ h => nomatch h) rfl rfl rfl rfl (.inr rfl) (.inl rfl) (.inl rfl) (.inl rfl) (by simp only [fin_ofNat_val])

theorem RoundTrip.vzip (d : Fin 32) (a : Fin 32) (b : Fin 32) : RoundTrip.Statement (.vzip d a b) := fun hw h => by
  exact rt32 (fn := 3) (b := b.val) (a := a.val) (d := d.val) (op := 2) rfl rfl rfl (by omega) (by omega) (by omega) (by omega) (by omega) (by show 1 < 3; omega) rfl (fun _ h => nomatch h) rfl rfl rfl rfl (.inr rfl) (.inl rfl) (.inl rfl) (.inl rfl) (by simp only [fin_ofNat_val])

theorem RoundTrip.vunzip (d : Fin 32) (a : Fin 32) (b : Fin 32) : RoundTrip.Statement (.vunzip d a b) := fun hw h => by
  exact rt32 (fn := 4) (b := b.val) (a := a.val) (d := d.val) (op := 2) rfl rfl rfl (by omega) (by omega) (by omega) (by omega) (by omega) (by show 1 < 3; omega) rfl (fun _ h => nomatch h) rfl rfl rfl rfl (.inr rfl) (.inl rfl) (.inl rfl) (.inl rfl) (by simp only [fin_ofNat_val])

theorem RoundTrip.vrev (d : Fin 32) (a : Fin 32) : RoundTrip.Statement (.vrev d a) := fun hw h => by
  exact rt32 (fn := 5) (b := 0) (a := a.val) (d := d.val) (op := 2) rfl rfl rfl (by omega) (by omega) (by omega) (by omega) (by omega) (by show 1 < 3; omega) rfl (fun _ h => nomatch h) rfl rfl rfl rfl (.inr rfl) (.inl rfl) (.inl rfl) (.inl rfl) (by simp only [fin_ofNat_val])

theorem RoundTrip.vredAddF32 (rnd : Option Rnd) (d : Fin 32) (a : Fin 32) (m : Fin 8) : RoundTrip.Statement (.vredAddF32 rnd d a m) := fun hw h => by
  exact rt32 (fn := 0) (b := m.val) (a := a.val) (d := d.val) (op := 3) rfl rfl rfl (by omega) (by omega) (by omega) (by omega) (by omega) (by show 1 < 3; omega) hw (fun _ h => nomatch h) rfl (by simp <;> omega) rfl rfl (.inr rfl) (.inr rfl) (.inl rfl) (.inl rfl) (by simp only [fin_ofNat_val, Enc.rndOf_pfx])

theorem RoundTrip.vredMaxF32 (rnd : Option Rnd) (d : Fin 32) (a : Fin 32) (m : Fin 8) : RoundTrip.Statement (.vredMaxF32 rnd d a m) := fun hw h => by
  exact rt32 (fn := 1) (b := m.val) (a := a.val) (d := d.val) (op := 3) rfl rfl rfl (by omega) (by omega) (by omega) (by omega) (by omega) (by show 1 < 3; omega) hw (fun _ h => nomatch h) rfl (by simp <;> omega) rfl rfl (.inr rfl) (.inr rfl) (.inl rfl) (.inl rfl) (by simp only [fin_ofNat_val, Enc.rndOf_pfx])

theorem RoundTrip.vredMinF32 (rnd : Option Rnd) (d : Fin 32) (a : Fin 32) (m : Fin 8) : RoundTrip.Statement (.vredMinF32 rnd d a m) := fun hw h => by
  exact rt32 (fn := 2) (b := m.val) (a := a.val) (d := d.val) (op := 3) rfl rfl rfl (by omega) (by omega) (by omega) (by omega) (by omega) (by show 1 < 3; omega) hw (fun _ h => nomatch h) rfl (by simp <;> omega) rfl rfl (.inr rfl) (.inr rfl) (.inl rfl) (.inl rfl) (by simp only [fin_ofNat_val, Enc.rndOf_pfx])

theorem RoundTrip.vredAddI32 (rnd : Option Rnd) (d : Fin 32) (a : Fin 32) (m : Fin 8) : RoundTrip.Statement (.vredAddI32 rnd d a m) := fun hw h => by
  exact rt32 (fn := 3) (b := m.val) (a := a.val) (d := d.val) (op := 3) rfl rfl rfl (by omega) (by omega) (by omega) (by omega) (by omega) (by show 1 < 3; omega) hw (fun _ h => nomatch h) rfl (by simp <;> omega) rfl rfl (.inr rfl) (.inr rfl) (.inl rfl) (.inl rfl) (by simp only [fin_ofNat_val, Enc.rndOf_pfx])

theorem RoundTrip.mand (d : Fin 8) (a : Fin 8) (b : Fin 8) : RoundTrip.Statement (.mand d a b) := fun hw h => by
  have w' : (d != 0) = true := hw
  have hd : d.val ≠ 0 := fun e => by
    have : d = 0 := Fin.ext e
    simp [this] at w'
  exact rt32 (fn := 0) (b := b.val) (a := a.val) (d := d.val) (op := 4) rfl rfl rfl (by omega) (by omega) (by omega) (by omega) (by omega) (by show 1 < 3; omega) rfl (fun _ h => nomatch h) rfl (by simp [hd] <;> omega) rfl rfl (.inr rfl) (.inl rfl) (.inl rfl) (.inl rfl) (by simp only [fin_ofNat_val])

theorem RoundTrip.mor (d : Fin 8) (a : Fin 8) (b : Fin 8) : RoundTrip.Statement (.mor d a b) := fun hw h => by
  have w' : (d != 0) = true := hw
  have hd : d.val ≠ 0 := fun e => by
    have : d = 0 := Fin.ext e
    simp [this] at w'
  exact rt32 (fn := 1) (b := b.val) (a := a.val) (d := d.val) (op := 4) rfl rfl rfl (by omega) (by omega) (by omega) (by omega) (by omega) (by show 1 < 3; omega) rfl (fun _ h => nomatch h) rfl (by simp [hd] <;> omega) rfl rfl (.inr rfl) (.inl rfl) (.inl rfl) (.inl rfl) (by simp only [fin_ofNat_val])

theorem RoundTrip.mxor (d : Fin 8) (a : Fin 8) (b : Fin 8) : RoundTrip.Statement (.mxor d a b) := fun hw h => by
  have w' : (d != 0) = true := hw
  have hd : d.val ≠ 0 := fun e => by
    have : d = 0 := Fin.ext e
    simp [this] at w'
  exact rt32 (fn := 2) (b := b.val) (a := a.val) (d := d.val) (op := 4) rfl rfl rfl (by omega) (by omega) (by omega) (by omega) (by omega) (by show 1 < 3; omega) rfl (fun _ h => nomatch h) rfl (by simp [hd] <;> omega) rfl rfl (.inr rfl) (.inl rfl) (.inl rfl) (.inl rfl) (by simp only [fin_ofNat_val])

theorem RoundTrip.mnot (d : Fin 8) (a : Fin 8) : RoundTrip.Statement (.mnot d a) := fun hw h => by
  have w' : (d != 0) = true := hw
  have hd : d.val ≠ 0 := fun e => by
    have : d = 0 := Fin.ext e
    simp [this] at w'
  exact rt32 (fn := 3) (b := 0) (a := a.val) (d := d.val) (op := 4) rfl rfl rfl (by omega) (by omega) (by omega) (by omega) (by omega) (by show 1 < 3; omega) rfl (fun _ h => nomatch h) rfl (by simp [hd] <;> omega) rfl rfl (.inr rfl) (.inl rfl) (.inl rfl) (.inl rfl) (by simp only [fin_ofNat_val])

theorem RoundTrip.mpopc (d : Fin 32) (a : Fin 8) : RoundTrip.Statement (.mpopc d a) := fun hw h => by
  exact rt32 (fn := 4) (b := 0) (a := a.val) (d := d.val) (op := 4) rfl rfl rfl (by omega) (by omega) (by omega) (by omega) (by omega) (by show 1 < 3; omega) rfl (fun _ h => nomatch h) rfl (by simp <;> omega) rfl rfl (.inr rfl) (.inl rfl) (.inl rfl) (.inl rfl) (by simp only [fin_ofNat_val])

theorem RoundTrip.mfirst (d : Fin 32) (a : Fin 8) : RoundTrip.Statement (.mfirst d a) := fun hw h => by
  exact rt32 (fn := 5) (b := 0) (a := a.val) (d := d.val) (op := 4) rfl rfl rfl (by omega) (by omega) (by omega) (by omega) (by omega) (by show 1 < 3; omega) rfl (fun _ h => nomatch h) rfl (by simp <;> omega) rfl rfl (.inr rfl) (.inl rfl) (.inl rfl) (.inl rfl) (by simp only [fin_ofNat_val])

theorem RoundTrip.vquantB48e4m3 (rnd : Option Rnd) (d : Fin 32) (a : Fin 32) (b : Fin 32) : RoundTrip.Statement (.vquantB48e4m3 rnd d a b) := fun hw h => by
  exact rt32 (fn := 0) (b := b.val) (a := a.val) (d := d.val) (op := 5) rfl rfl rfl (by omega) (by omega) (by omega) (by omega) (by omega) (by show 1 < 3; omega) hw (fun _ h => nomatch h) rfl rfl rfl rfl (.inr rfl) (.inr rfl) (.inl rfl) (.inl rfl) (by simp only [fin_ofNat_val, Enc.rndOf_pfx])

theorem RoundTrip.vquantB48e5m2 (rnd : Option Rnd) (d : Fin 32) (a : Fin 32) (b : Fin 32) : RoundTrip.Statement (.vquantB48e5m2 rnd d a b) := fun hw h => by
  exact rt32 (fn := 1) (b := b.val) (a := a.val) (d := d.val) (op := 5) rfl rfl rfl (by omega) (by omega) (by omega) (by omega) (by omega) (by show 1 < 3; omega) hw (fun _ h => nomatch h) rfl rfl rfl rfl (.inr rfl) (.inr rfl) (.inl rfl) (.inl rfl) (by simp only [fin_ofNat_val, Enc.rndOf_pfx])

theorem RoundTrip.vquantB48e2m1 (rnd : Option Rnd) (d : Fin 32) (a : Fin 32) (b : Fin 32) : RoundTrip.Statement (.vquantB48e2m1 rnd d a b) := fun hw h => by
  exact rt32 (fn := 2) (b := b.val) (a := a.val) (d := d.val) (op := 5) rfl rfl rfl (by omega) (by omega) (by omega) (by omega) (by omega) (by show 1 < 3; omega) hw (fun _ h => nomatch h) rfl rfl rfl rfl (.inr rfl) (.inr rfl) (.inl rfl) (.inl rfl) (by simp only [fin_ofNat_val, Enc.rndOf_pfx])

theorem RoundTrip.vquantB48i8 (rnd : Option Rnd) (d : Fin 32) (a : Fin 32) (b : Fin 32) : RoundTrip.Statement (.vquantB48i8 rnd d a b) := fun hw h => by
  exact rt32 (fn := 3) (b := b.val) (a := a.val) (d := d.val) (op := 5) rfl rfl rfl (by omega) (by omega) (by omega) (by omega) (by omega) (by show 1 < 3; omega) hw (fun _ h => nomatch h) rfl rfl rfl rfl (.inr rfl) (.inr rfl) (.inl rfl) (.inl rfl) (by simp only [fin_ofNat_val, Enc.rndOf_pfx])

theorem RoundTrip.vquantB48i4 (rnd : Option Rnd) (d : Fin 32) (a : Fin 32) (b : Fin 32) : RoundTrip.Statement (.vquantB48i4 rnd d a b) := fun hw h => by
  exact rt32 (fn := 4) (b := b.val) (a := a.val) (d := d.val) (op := 5) rfl rfl rfl (by omega) (by omega) (by omega) (by omega) (by omega) (by show 1 < 3; omega) hw (fun _ h => nomatch h) rfl rfl rfl rfl (.inr rfl) (.inr rfl) (.inl rfl) (.inl rfl) (by simp only [fin_ofNat_val, Enc.rndOf_pfx])

theorem RoundTrip.vquantB48t2 (rnd : Option Rnd) (d : Fin 32) (a : Fin 32) (b : Fin 32) : RoundTrip.Statement (.vquantB48t2 rnd d a b) := fun hw h => by
  exact rt32 (fn := 5) (b := b.val) (a := a.val) (d := d.val) (op := 5) rfl rfl rfl (by omega) (by omega) (by omega) (by omega) (by omega) (by show 1 < 3; omega) hw (fun _ h => nomatch h) rfl rfl rfl rfl (.inr rfl) (.inr rfl) (.inl rfl) (.inl rfl) (by simp only [fin_ofNat_val, Enc.rndOf_pfx])

theorem RoundTrip.vdeqB48e4m3 (d : Fin 32) (a : Fin 32) (b : Fin 32) : RoundTrip.Statement (.vdeqB48e4m3 d a b) := fun hw h => by
  exact rt32 (fn := 0) (b := b.val) (a := a.val) (d := d.val) (op := 6) rfl rfl rfl (by omega) (by omega) (by omega) (by omega) (by omega) (by show 1 < 3; omega) rfl (fun _ h => nomatch h) rfl rfl rfl rfl (.inr rfl) (.inl rfl) (.inl rfl) (.inl rfl) (by simp only [fin_ofNat_val])

theorem RoundTrip.vdeqB48e5m2 (d : Fin 32) (a : Fin 32) (b : Fin 32) : RoundTrip.Statement (.vdeqB48e5m2 d a b) := fun hw h => by
  exact rt32 (fn := 1) (b := b.val) (a := a.val) (d := d.val) (op := 6) rfl rfl rfl (by omega) (by omega) (by omega) (by omega) (by omega) (by show 1 < 3; omega) rfl (fun _ h => nomatch h) rfl rfl rfl rfl (.inr rfl) (.inl rfl) (.inl rfl) (.inl rfl) (by simp only [fin_ofNat_val])

theorem RoundTrip.vdeqB48e2m1 (d : Fin 32) (a : Fin 32) (b : Fin 32) : RoundTrip.Statement (.vdeqB48e2m1 d a b) := fun hw h => by
  exact rt32 (fn := 2) (b := b.val) (a := a.val) (d := d.val) (op := 6) rfl rfl rfl (by omega) (by omega) (by omega) (by omega) (by omega) (by show 1 < 3; omega) rfl (fun _ h => nomatch h) rfl rfl rfl rfl (.inr rfl) (.inl rfl) (.inl rfl) (.inl rfl) (by simp only [fin_ofNat_val])

theorem RoundTrip.vdeqB48i8 (d : Fin 32) (a : Fin 32) (b : Fin 32) : RoundTrip.Statement (.vdeqB48i8 d a b) := fun hw h => by
  exact rt32 (fn := 3) (b := b.val) (a := a.val) (d := d.val) (op := 6) rfl rfl rfl (by omega) (by omega) (by omega) (by omega) (by omega) (by show 1 < 3; omega) rfl (fun _ h => nomatch h) rfl rfl rfl rfl (.inr rfl) (.inl rfl) (.inl rfl) (.inl rfl) (by simp only [fin_ofNat_val])

theorem RoundTrip.vdeqB48i4 (d : Fin 32) (a : Fin 32) (b : Fin 32) : RoundTrip.Statement (.vdeqB48i4 d a b) := fun hw h => by
  exact rt32 (fn := 4) (b := b.val) (a := a.val) (d := d.val) (op := 6) rfl rfl rfl (by omega) (by omega) (by omega) (by omega) (by omega) (by show 1 < 3; omega) rfl (fun _ h => nomatch h) rfl rfl rfl rfl (.inr rfl) (.inl rfl) (.inl rfl) (.inl rfl) (by simp only [fin_ofNat_val])

theorem RoundTrip.vdeqB48t2 (d : Fin 32) (a : Fin 32) (b : Fin 32) : RoundTrip.Statement (.vdeqB48t2 d a b) := fun hw h => by
  exact rt32 (fn := 5) (b := b.val) (a := a.val) (d := d.val) (op := 6) rfl rfl rfl (by omega) (by omega) (by omega) (by omega) (by omega) (by show 1 < 3; omega) rfl (fun _ h => nomatch h) rfl rfl rfl rfl (.inr rfl) (.inl rfl) (.inl rfl) (.inl rfl) (by simp only [fin_ofNat_val])

theorem RoundTrip.vspill (a : Fin 32) (slot : Fin 512) : RoundTrip.Statement (.vspill a slot) := fun hw h => by
  exact rt32 (fn := (slot.val / 32)) (b := (slot.val % 32)) (a := a.val) (d := 0) (op := 7) rfl rfl rfl (by omega) (by omega) (by omega) (by omega) (by omega) (by show 1 < 3; omega) rfl (fun _ h => nomatch h) rfl (by simp <;> omega) rfl rfl (.inr rfl) (.inl rfl) (.inl rfl) (.inl rfl) (by rw [fin_of_eq (v := slot) (by simp only [Fields.imm9]; omega)]; simp only [fin_ofNat_val])

theorem RoundTrip.vfill (d : Fin 32) (slot : Fin 512) : RoundTrip.Statement (.vfill d slot) := fun hw h => by
  exact rt32 (fn := (slot.val / 32)) (b := (slot.val % 32)) (a := 0) (d := d.val) (op := 8) rfl rfl rfl (by omega) (by omega) (by omega) (by omega) (by omega) (by show 1 < 3; omega) rfl (fun _ h => nomatch h) rfl (by simp <;> omega) rfl rfl (.inr rfl) (.inl rfl) (.inl rfl) (.inl rfl) (by rw [fin_of_eq (v := slot) (by simp only [Fields.imm9]; omega)]; simp only [fin_ofNat_val])

theorem RoundTrip.rdc (d : Fin 32) (cr : Fin 512) : RoundTrip.Statement (.rdc d cr) := fun hw h => by
  exact rt32 (fn := (cr.val / 32)) (b := (cr.val % 32)) (a := 0) (d := d.val) (op := 1) rfl rfl rfl (by omega) (by omega) (by omega) (by omega) (by omega) (by show 2 < 3; omega) rfl (fun _ h => nomatch h) rfl (by simp <;> omega) rfl rfl (.inr rfl) (.inl rfl) (.inl rfl) (.inl rfl) (by rw [fin_of_eq (v := cr) (by simp only [Fields.imm9]; omega)]; simp only [fin_ofNat_val])

theorem RoundTrip.wrc (cr : Fin 512) (a : Fin 32) : RoundTrip.Statement (.wrc cr a) := fun hw h => by
  exact rt32 (fn := (cr.val / 32)) (b := (cr.val % 32)) (a := a.val) (d := 0) (op := 2) rfl rfl rfl (by omega) (by omega) (by omega) (by omega) (by omega) (by show 2 < 3; omega) rfl (fun _ h => nomatch h) rfl (by simp <;> omega) rfl rfl (.inr rfl) (.inl rfl) (.inl rfl) (.inl rfl) (by rw [fin_of_eq (v := cr) (by simp only [Fields.imm9]; omega)]; simp only [fin_ofNat_val])

theorem RoundTrip.fenceJ (scope : Fin 8) : RoundTrip.Statement (.fenceJ scope) := fun hw h => by
  exact rt32 (fn := 0) (b := scope.val) (a := 0) (d := 0) (op := 3) rfl rfl rfl (by omega) (by omega) (by omega) (by omega) (by omega) (by show 2 < 3; omega) rfl (fun _ h => nomatch h) rfl (by simp <;> omega) rfl rfl (.inr rfl) (.inl rfl) (.inl rfl) (.inl rfl) (by simp only [fin_ofNat_val])

theorem RoundTrip.fenceM (scope : Fin 8) : RoundTrip.Statement (.fenceM scope) := fun hw h => by
  exact rt32 (fn := 1) (b := scope.val) (a := 0) (d := 0) (op := 3) rfl rfl rfl (by omega) (by omega) (by omega) (by omega) (by omega) (by show 2 < 3; omega) rfl (fun _ h => nomatch h) rfl (by simp <;> omega) rfl rfl (.inr rfl) (.inl rfl) (.inl rfl) (.inl rfl) (by simp only [fin_ofNat_val])

theorem RoundTrip.fenceK (scope : Fin 8) : RoundTrip.Statement (.fenceK scope) := fun hw h => by
  exact rt32 (fn := 2) (b := scope.val) (a := 0) (d := 0) (op := 3) rfl rfl rfl (by omega) (by omega) (by omega) (by omega) (by omega) (by show 2 < 3; omega) rfl (fun _ h => nomatch h) rfl (by simp <;> omega) rfl rfl (.inr rfl) (.inl rfl) (.inl rfl) (.inl rfl) (by simp only [fin_ofNat_val])

theorem RoundTrip.cleanr (w : Option (Fin 4)) (a : Fin 32) (b : Fin 32) : RoundTrip.Statement (.cleanr w a b) := fun hw h => by
  exact rt32 (fn := 0) (b := b.val) (a := a.val) (d := 0) (op := 4) rfl rfl rfl (by omega) (by omega) (by omega) (by omega) (by omega) (by show 2 < 3; omega) rfl (fun _ h => nomatch h) rfl rfl rfl rfl (.inr rfl) (.inl rfl) (.inl rfl) (.inr rfl) (by simp only [fin_ofNat_val, Enc.waitOf_pfx])

theorem RoundTrip.invalr (w : Option (Fin 4)) (a : Fin 32) (b : Fin 32) : RoundTrip.Statement (.invalr w a b) := fun hw h => by
  exact rt32 (fn := 1) (b := b.val) (a := a.val) (d := 0) (op := 4) rfl rfl rfl (by omega) (by omega) (by omega) (by omega) (by omega) (by show 2 < 3; omega) rfl (fun _ h => nomatch h) rfl rfl rfl rfl (.inr rfl) (.inl rfl) (.inl rfl) (.inr rfl) (by simp only [fin_ofNat_val, Enc.waitOf_pfx])

theorem RoundTrip.spawn (a : Fin 32) : RoundTrip.Statement (.spawn a) := fun hw h => by
  exact rt32 (fn := 0) (b := 0) (a := a.val) (d := 0) (op := 5) rfl rfl rfl (by omega) (by omega) (by omega) (by omega) (by omega) (by show 2 < 3; omega) rfl (fun _ h => nomatch h) rfl rfl rfl rfl (.inr rfl) (.inl rfl) (.inl rfl) (.inl rfl) (by simp only [fin_ofNat_val])

theorem RoundTrip.halt : RoundTrip.Statement .halt := fun hw h => by
  exact rt32 (fn := 0) (b := 0) (a := 0) (d := 0) (op := 6) rfl rfl rfl (by omega) (by omega) (by omega) (by omega) (by omega) (by show 2 < 3; omega) rfl (fun _ h => nomatch h) rfl rfl rfl rfl (.inr rfl) (.inl rfl) (.inl rfl) (.inl rfl) rfl

theorem RoundTrip.send (d : Fin 32) (a : Fin 32) (b : Fin 32) : RoundTrip.Statement (.send d a b) := fun hw h => by
  exact rt32 (fn := 0) (b := b.val) (a := a.val) (d := d.val) (op := 16) rfl rfl rfl (by omega) (by omega) (by omega) (by omega) (by omega) (by show 2 < 3; omega) rfl (fun _ h => nomatch h) rfl rfl rfl rfl (.inr rfl) (.inl rfl) (.inl rfl) (.inl rfl) (by simp only [fin_ofNat_val])

theorem RoundTrip.sendh (d : Fin 32) (a : Fin 32) (b : Fin 32) : RoundTrip.Statement (.sendh d a b) := fun hw h => by
  exact rt32 (fn := 0) (b := b.val) (a := a.val) (d := d.val) (op := 17) rfl rfl rfl (by omega) (by omega) (by omega) (by omega) (by omega) (by show 2 < 3; omega) rfl (fun _ h => nomatch h) rfl rfl rfl rfl (.inr rfl) (.inl rfl) (.inl rfl) (.inl rfl) (by simp only [fin_ofNat_val])

theorem RoundTrip.recv (d : Fin 32) : RoundTrip.Statement (.recv d) := fun hw h => by
  exact rt32 (fn := 0) (b := 0) (a := 0) (d := d.val) (op := 18) rfl rfl rfl (by omega) (by omega) (by omega) (by omega) (by omega) (by show 2 < 3; omega) rfl (fun _ h => nomatch h) rfl rfl rfl rfl (.inr rfl) (.inl rfl) (.inl rfl) (.inl rfl) (by simp only [fin_ofNat_val])

theorem RoundTrip.recvLd (d : Fin 32) (a : Fin 32) : RoundTrip.Statement (.recvLd d a) := fun hw h => by
  exact rt32 (fn := 1) (b := 0) (a := a.val) (d := d.val) (op := 18) rfl rfl rfl (by omega) (by omega) (by omega) (by omega) (by omega) (by show 2 < 3; omega) rfl (fun _ h => nomatch h) rfl rfl rfl rfl (.inr rfl) (.inl rfl) (.inl rfl) (.inl rfl) (by simp only [fin_ofNat_val])

theorem RoundTrip.recvSt (a : Fin 32) (b : Fin 32) : RoundTrip.Statement (.recvSt a b) := fun hw h => by
  exact rt32 (fn := 2) (b := b.val) (a := a.val) (d := 0) (op := 18) rfl rfl rfl (by omega) (by omega) (by omega) (by omega) (by omega) (by show 2 < 3; omega) rfl (fun _ h => nomatch h) rfl rfl rfl rfl (.inr rfl) (.inl rfl) (.inl rfl) (.inl rfl) (by simp only [fin_ofNat_val])

theorem RoundTrip.reply (a : Fin 32) (b : Fin 32) : RoundTrip.Statement (.reply a b) := fun hw h => by
  exact rt32 (fn := 0) (b := b.val) (a := a.val) (d := 0) (op := 19) rfl rfl rfl (by omega) (by omega) (by omega) (by omega) (by omega) (by show 2 < 3; omega) rfl (fun _ h => nomatch h) rfl rfl rfl rfl (.inr rfl) (.inl rfl) (.inl rfl) (.inl rfl) (by simp only [fin_ofNat_val])

theorem RoundTrip.mret : RoundTrip.Statement .mret := fun hw h => by
  exact rt32 (fn := 0) (b := 0) (a := 0) (d := 0) (op := 20) rfl rfl rfl (by omega) (by omega) (by omega) (by omega) (by omega) (by show 2 < 3; omega) rfl (fun _ h => nomatch h) rfl rfl rfl rfl (.inr rfl) (.inl rfl) (.inl rfl) (.inl rfl) rfl

theorem RoundTrip.dtcfg (a : Fin 32) (b : Fin 32) : RoundTrip.Statement (.dtcfg a b) := fun hw h => by
  exact rt32 (fn := 0) (b := b.val) (a := a.val) (d := 0) (op := 21) rfl rfl rfl (by omega) (by omega) (by omega) (by omega) (by omega) (by show 2 < 3; omega) rfl (fun _ h => nomatch h) rfl rfl rfl rfl (.inr rfl) (.inl rfl) (.inl rfl) (.inl rfl) (by simp only [fin_ofNat_val])

theorem RoundTrip.bqpush (a : Fin 32) : RoundTrip.Statement (.bqpush a) := fun hw h => by
  exact rt32 (fn := 0) (b := 0) (a := a.val) (d := 0) (op := 22) rfl rfl rfl (by omega) (by omega) (by omega) (by omega) (by omega) (by show 2 < 3; omega) rfl (fun _ h => nomatch h) rfl rfl rfl rfl (.inr rfl) (.inl rfl) (.inl rfl) (.inl rfl) (by simp only [fin_ofNat_val])

theorem RoundTrip.bqwait (d : Fin 32) : RoundTrip.Statement (.bqwait d) := fun hw h => by
  exact rt32 (fn := 0) (b := 0) (a := 0) (d := d.val) (op := 23) rfl rfl rfl (by omega) (by omega) (by omega) (by omega) (by omega) (by show 2 < 3; omega) rfl (fun _ h => nomatch h) rfl rfl rfl rfl (.inr rfl) (.inl rfl) (.inl rfl) (.inl rfl) (by simp only [fin_ofNat_val])

theorem RoundTrip.rcombAddF32 (d : Fin 32) (a : Fin 32) (b : Fin 32) : RoundTrip.Statement (.rcombAddF32 d a b) := fun hw h => by
  exact rt32 (fn := 0) (b := b.val) (a := a.val) (d := d.val) (op := 24) rfl rfl rfl (by omega) (by omega) (by omega) (by omega) (by omega) (by show 2 < 3; omega) rfl (fun _ h => nomatch h) rfl rfl rfl rfl (.inr rfl) (.inl rfl) (.inl rfl) (.inl rfl) (by simp only [fin_ofNat_val])

theorem RoundTrip.rcombMaxF32 (d : Fin 32) (a : Fin 32) (b : Fin 32) : RoundTrip.Statement (.rcombMaxF32 d a b) := fun hw h => by
  exact rt32 (fn := 1) (b := b.val) (a := a.val) (d := d.val) (op := 24) rfl rfl rfl (by omega) (by omega) (by omega) (by omega) (by omega) (by show 2 < 3; omega) rfl (fun _ h => nomatch h) rfl rfl rfl rfl (.inr rfl) (.inl rfl) (.inl rfl) (.inl rfl) (by simp only [fin_ofNat_val])

theorem RoundTrip.rcombMinF32 (d : Fin 32) (a : Fin 32) (b : Fin 32) : RoundTrip.Statement (.rcombMinF32 d a b) := fun hw h => by
  exact rt32 (fn := 2) (b := b.val) (a := a.val) (d := d.val) (op := 24) rfl rfl rfl (by omega) (by omega) (by omega) (by omega) (by omega) (by show 2 < 3; omega) rfl (fun _ h => nomatch h) rfl rfl rfl rfl (.inr rfl) (.inl rfl) (.inl rfl) (.inl rfl) (by simp only [fin_ofNat_val])

theorem RoundTrip.rcombAddI32 (d : Fin 32) (a : Fin 32) (b : Fin 32) : RoundTrip.Statement (.rcombAddI32 d a b) := fun hw h => by
  exact rt32 (fn := 3) (b := b.val) (a := a.val) (d := d.val) (op := 24) rfl rfl rfl (by omega) (by omega) (by omega) (by omega) (by omega) (by show 2 < 3; omega) rfl (fun _ h => nomatch h) rfl rfl rfl rfl (.inr rfl) (.inl rfl) (.inl rfl) (.inl rfl) (by simp only [fin_ofNat_val])

theorem RoundTrip.rcombMaxI32 (d : Fin 32) (a : Fin 32) (b : Fin 32) : RoundTrip.Statement (.rcombMaxI32 d a b) := fun hw h => by
  exact rt32 (fn := 4) (b := b.val) (a := a.val) (d := d.val) (op := 24) rfl rfl rfl (by omega) (by omega) (by omega) (by omega) (by omega) (by show 2 < 3; omega) rfl (fun _ h => nomatch h) rfl rfl rfl rfl (.inr rfl) (.inl rfl) (.inl rfl) (.inl rfl) (by simp only [fin_ofNat_val])

theorem RoundTrip.rcombMinI32 (d : Fin 32) (a : Fin 32) (b : Fin 32) : RoundTrip.Statement (.rcombMinI32 d a b) := fun hw h => by
  exact rt32 (fn := 5) (b := b.val) (a := a.val) (d := d.val) (op := 24) rfl rfl rfl (by omega) (by omega) (by omega) (by omega) (by omega) (by show 2 < 3; omega) rfl (fun _ h => nomatch h) rfl rfl rfl rfl (.inr rfl) (.inl rfl) (.inl rfl) (.inl rfl) (by simp only [fin_ofNat_val])

theorem RoundTrip.rcombWidBf16 (d : Fin 32) (a : Fin 32) : RoundTrip.Statement (.rcombWidBf16 d a) := fun hw h => by
  exact rt32 (fn := 6) (b := 0) (a := a.val) (d := d.val) (op := 24) rfl rfl rfl (by omega) (by omega) (by omega) (by omega) (by omega) (by show 2 < 3; omega) rfl (fun _ h => nomatch h) rfl rfl rfl rfl (.inr rfl) (.inl rfl) (.inl rfl) (.inl rfl) (by simp only [fin_ofNat_val, beq_self_eq_true, if_true])

theorem RoundTrip.rcombNarBf16 (d : Fin 32) (a : Fin 32) : RoundTrip.Statement (.rcombNarBf16 d a) := fun hw h => by
  exact rt32 (fn := 7) (b := 0) (a := a.val) (d := d.val) (op := 24) rfl rfl rfl (by omega) (by omega) (by omega) (by omega) (by omega) (by show 2 < 3; omega) rfl (fun _ h => nomatch h) rfl rfl rfl rfl (.inr rfl) (.inl rfl) (.inl rfl) (.inl rfl) (by simp only [fin_ofNat_val, beq_self_eq_true, if_true])

theorem RoundTrip.baddqB48e4m3 (rnd : Option Rnd) (d : Fin 32) (a : Fin 32) (b : Fin 32) : RoundTrip.Statement (.baddqB48e4m3 rnd d a b) := fun hw h => by
  exact rt32 (fn := 0) (b := b.val) (a := a.val) (d := d.val) (op := 25) rfl rfl rfl (by omega) (by omega) (by omega) (by omega) (by omega) (by show 2 < 3; omega) hw (fun _ h => nomatch h) rfl rfl rfl rfl (.inr rfl) (.inr rfl) (.inl rfl) (.inl rfl) (by simp only [fin_ofNat_val, Enc.rndOf_pfx])

theorem RoundTrip.baddqB48e5m2 (rnd : Option Rnd) (d : Fin 32) (a : Fin 32) (b : Fin 32) : RoundTrip.Statement (.baddqB48e5m2 rnd d a b) := fun hw h => by
  exact rt32 (fn := 1) (b := b.val) (a := a.val) (d := d.val) (op := 25) rfl rfl rfl (by omega) (by omega) (by omega) (by omega) (by omega) (by show 2 < 3; omega) hw (fun _ h => nomatch h) rfl rfl rfl rfl (.inr rfl) (.inr rfl) (.inl rfl) (.inl rfl) (by simp only [fin_ofNat_val, Enc.rndOf_pfx])

theorem RoundTrip.baddqB48e2m1 (rnd : Option Rnd) (d : Fin 32) (a : Fin 32) (b : Fin 32) : RoundTrip.Statement (.baddqB48e2m1 rnd d a b) := fun hw h => by
  exact rt32 (fn := 2) (b := b.val) (a := a.val) (d := d.val) (op := 25) rfl rfl rfl (by omega) (by omega) (by omega) (by omega) (by omega) (by show 2 < 3; omega) hw (fun _ h => nomatch h) rfl rfl rfl rfl (.inr rfl) (.inr rfl) (.inl rfl) (.inl rfl) (by simp only [fin_ofNat_val, Enc.rndOf_pfx])

theorem RoundTrip.baddqB48i8 (rnd : Option Rnd) (d : Fin 32) (a : Fin 32) (b : Fin 32) : RoundTrip.Statement (.baddqB48i8 rnd d a b) := fun hw h => by
  exact rt32 (fn := 3) (b := b.val) (a := a.val) (d := d.val) (op := 25) rfl rfl rfl (by omega) (by omega) (by omega) (by omega) (by omega) (by show 2 < 3; omega) hw (fun _ h => nomatch h) rfl rfl rfl rfl (.inr rfl) (.inr rfl) (.inl rfl) (.inl rfl) (by simp only [fin_ofNat_val, Enc.rndOf_pfx])

theorem RoundTrip.baddqB48i4 (rnd : Option Rnd) (d : Fin 32) (a : Fin 32) (b : Fin 32) : RoundTrip.Statement (.baddqB48i4 rnd d a b) := fun hw h => by
  exact rt32 (fn := 4) (b := b.val) (a := a.val) (d := d.val) (op := 25) rfl rfl rfl (by omega) (by omega) (by omega) (by omega) (by omega) (by show 2 < 3; omega) hw (fun _ h => nomatch h) rfl rfl rfl rfl (.inr rfl) (.inr rfl) (.inl rfl) (.inl rfl) (by simp only [fin_ofNat_val, Enc.rndOf_pfx])

theorem RoundTrip.movl (d : Fin 32) (imm : BitVec 52) : RoundTrip.Statement (.movl d imm) := fun hw h => by
  refine rt64 (w := 0) (b := 0) (a := 0) (d := d.val) (op := 112) (w1 := low27 imm * 32) rfl rfl rfl (by omega) (by omega) (by omega) (by omega) (by omega) rfl rfl (fun _ => high52_lt) rfl ((dec64_misc _ _ _ _ _ _ _ (by decide)).trans rfl) ?_ ?_ ?_ (.inl rfl) (.inr rfl) ?_
  · first | rfl | (simp <;> omega)
  · simp [bits] <;> omega
  · rfl
  · refine congrArg Except.ok ?_
    try simp only [Enc.rndOf_pfx, fin_ofNat_val]
    try (congr 1 <;> first | rfl | exact imm52_low _ imm rfl | (apply fin_of_eq; simp only [bits]; omega) | (apply bool_of_eq; simp only [bits]; omega) | (apply bitvec_of_eq; simp only [bits]; omega))

theorem RoundTrip.addl (d : Fin 32) (a : Fin 32) (imm : BitVec 52) : RoundTrip.Statement (.addl d a imm) := fun hw h => by
  refine rt64 (w := 0) (b := 0) (a := a.val) (d := d.val) (op := 113) (w1 := low27 imm * 32) rfl rfl rfl (by omega) (by omega) (by omega) (by omega) (by omega) rfl rfl (fun _ => high52_lt) rfl ((dec64_misc _ _ _ _ _ _ _ (by decide)).trans rfl) ?_ ?_ ?_ (.inl rfl) (.inr rfl) ?_
  · first | rfl | (simp <;> omega)
  · simp [bits] <;> omega
  · rfl
  · refine congrArg Except.ok ?_
    try simp only [Enc.rndOf_pfx, fin_ofNat_val]
    try (congr 1 <;> first | rfl | exact imm52_low _ imm rfl | (apply fin_of_eq; simp only [bits]; omega) | (apply bool_of_eq; simp only [bits]; omega) | (apply bitvec_of_eq; simp only [bits]; omega))

theorem RoundTrip.arm (fmt : Fin 16) (a : Fin 32) (b : Fin 32) (c : Fin 32) : RoundTrip.Statement (.arm fmt a b c) := fun hw h => by
  refine rt64 (w := 0) (b := b.val) (a := a.val) (d := 0) (op := 120) (w1 := fmt.val * 32 + c.val) rfl rfl rfl (by omega) (by omega) (by omega) (by omega) (by omega) rfl rfl (fun _ h => nomatch h) rfl ((dec64_misc _ _ _ _ _ _ _ (by decide)).trans rfl) ?_ ?_ ?_ (.inl rfl) (.inl rfl) ?_
  · first | rfl | (simp <;> omega)
  · have e : bits (fmt.val * 32 + c.val) 8 5 = fmt.val ∧ bits (fmt.val * 32 + c.val) 4 0 = c.val ∧ bits (fmt.val * 32 + c.val) 31 9 = 0 := by
      simp only [bits]; omega
    simp only [Instr.wf, Bool.or_eq_true, beq_iff_eq] at hw
    simp only [e, beq_self_eq_true, Bool.true_and, Bool.or_eq_true, beq_iff_eq]
    exact hw.imp id (fun h => by rw [h]; rfl)
  · rfl
  · refine congrArg Except.ok ?_
    try simp only [Enc.rndOf_pfx, fin_ofNat_val]
    try (congr 1 <;> first | rfl | exact imm52_low _ imm rfl | (apply fin_of_eq; simp only [bits]; omega) | (apply bool_of_eq; simp only [bits]; omega) | (apply bitvec_of_eq; simp only [bits]; omega))

theorem RoundTrip.disarm (a : Fin 32) (b : Fin 32) : RoundTrip.Statement (.disarm a b) := fun hw h => by
  refine rt64 (w := 0) (b := b.val) (a := a.val) (d := 0) (op := 121) (w1 := 0) rfl rfl rfl (by omega) (by omega) (by omega) (by omega) (by omega) rfl rfl (fun _ h => nomatch h) rfl ((dec64_misc _ _ _ _ _ _ _ (by decide)).trans rfl) ?_ ?_ ?_ (.inl rfl) (.inl rfl) ?_
  · first | rfl | (simp <;> omega)
  · simp [bits] <;> omega
  · rfl
  · refine congrArg Except.ok ?_
    try simp only [Enc.rndOf_pfx, fin_ofNat_val]
    try (congr 1 <;> first | rfl | exact imm52_low _ imm rfl | (apply fin_of_eq; simp only [bits]; omega) | (apply bool_of_eq; simp only [bits]; omega) | (apply bitvec_of_eq; simp only [bits]; omega))

theorem RoundTrip.winallocW (a : Fin 32) (b : Fin 32) : RoundTrip.Statement (.winallocW a b) := fun hw h => by
  refine rt64 (w := 0) (b := b.val) (a := a.val) (d := 0) (op := 122) (w1 := 0) rfl rfl rfl (by omega) (by omega) (by omega) (by omega) (by omega) rfl rfl (fun _ h => nomatch h) rfl
    ((dec64_winalloc _ _ _ _ _ _).trans (congrArg some (decWinalloc_plain _ _ (by decide) (by decide) (.winallocW a b) 0 (by decide) ?_))) rfl ?_ rfl (.inl rfl) (.inl rfl) rfl
  · exact .inl ⟨rfl, by rw [fin_ofNat_val, fin_ofNat_val]⟩
  · simp only [bits, Bool.and_eq_true, beq_iff_eq]; omega

theorem RoundTrip.winallocA (a : Fin 32) (b : Fin 32) : RoundTrip.Statement (.winallocA a b) := fun hw h => by
  refine rt64 (w := 0) (b := b.val) (a := a.val) (d := 0) (op := 122) (w1 := 32) rfl rfl rfl (by omega) (by omega) (by omega) (by omega) (by omega) rfl rfl (fun _ h => nomatch h) rfl
    ((dec64_winalloc _ _ _ _ _ _).trans (congrArg some (decWinalloc_plain _ _ (by decide) (by decide) (.winallocA a b) 1 (by decide) ?_))) rfl ?_ rfl (.inl rfl) (.inl rfl) rfl
  · exact .inr (.inl ⟨rfl, by rw [fin_ofNat_val, fin_ofNat_val]⟩)
  · simp only [bits, Bool.and_eq_true, beq_iff_eq]; omega

theorem RoundTrip.winallocC (a : Fin 32) (b : Fin 32) : RoundTrip.Statement (.winallocC a b) := fun hw h => by
  refine rt64 (w := 0) (b := b.val) (a := a.val) (d := 0) (op := 122) (w1 := 64) rfl rfl rfl (by omega) (by omega) (by omega) (by omega) (by omega) rfl rfl (fun _ h => nomatch h) rfl
    ((dec64_winalloc _ _ _ _ _ _).trans (congrArg some (decWinalloc_plain _ _ (by decide) (by decide) (.winallocC a b) 2 (by decide) ?_))) rfl ?_ rfl (.inl rfl) (.inl rfl) rfl
  · exact .inr (.inr ⟨rfl, by rw [fin_ofNat_val, fin_ofNat_val]⟩)
  · simp only [bits, Bool.and_eq_true, beq_iff_eq]; omega

theorem RoundTrip.winallocWl (tsize : Fin 16) (a : Fin 32) (b : Fin 32) (c : Fin 32) : RoundTrip.Statement (.winallocWl tsize a b c) := fun hw h => by
  refine rt64 (w := 0) (b := b.val) (a := a.val) (d := 0) (op := 122) (w1 := tsize.val * 256 + 128 + c.val) rfl rfl rfl (by omega) (by omega) (by omega) (by omega) (by omega) rfl rfl (fun _ h => nomatch h) rfl
    ((dec64_winalloc _ _ _ _ _ _).trans (congrArg some (decWinalloc_left _ _ (by simp only [bits]; omega) (.winallocWl tsize a b c) 0 (by simp only [bits]; omega) ?_))) rfl ?_ rfl (.inl rfl) (.inl rfl) rfl
  · exact .inl ⟨rfl, by rw [fin_of_eq (x := bits _ 11 8) (v := tsize) (by simp only [bits]; omega), fin_of_eq (x := bits _ 4 0) (v := c) (by simp only [bits]; omega), fin_ofNat_val, fin_ofNat_val]⟩
  · simp only [bits, Bool.and_eq_true, beq_iff_eq]; omega

theorem RoundTrip.winallocAl (tsize : Fin 16) (a : Fin 32) (b : Fin 32) (c : Fin 32) : RoundTrip.Statement (.winallocAl tsize a b c) := fun hw h => by
  refine rt64 (w := 0) (b := b.val) (a := a.val) (d := 0) (op := 122) (w1 := tsize.val * 256 + 128 + 32 + c.val) rfl rfl rfl (by omega) (by omega) (by omega) (by omega) (by omega) rfl rfl (fun _ h => nomatch h) rfl
    ((dec64_winalloc _ _ _ _ _ _).trans (congrArg some (decWinalloc_left _ _ (by simp only [bits]; omega) (.winallocAl tsize a b c) 1 (by simp only [bits]; omega) ?_))) rfl ?_ rfl (.inl rfl) (.inl rfl) rfl
  · exact .inr ⟨rfl, by rw [fin_of_eq (x := bits _ 11 8) (v := tsize) (by simp only [bits]; omega), fin_of_eq (x := bits _ 4 0) (v := c) (by simp only [bits]; omega), fin_ofNat_val, fin_ofNat_val]⟩
  · simp only [bits, Bool.and_eq_true, beq_iff_eq]; omega

theorem RoundTrip.join (w : Fin 4) (ty : Fin 16) (af : Bool) (off : BitVec 16) (a : Fin 32) (g : Fin 32) (c : Fin 32) : RoundTrip.Statement (.join w ty af off a g c) := fun hw h => by
  have := af.toNat_le
  have := off.isLt
  refine rt64 (w := w.val) (b := g.val) (a := a.val) (d := 0) (op := 1) (w1 := off.toNat * 65536 + ty.val * 4096 + af.toNat * 2048 + c.val) rfl rfl rfl (by omega) (by omega) (by omega) (by omega) (by omega) rfl rfl (fun _ h => nomatch h) rfl ((dec64_lattice _ _ _ _ _ _ _ (by decide)).trans rfl) ?_ ?_ ?_ (.inl rfl) (.inl rfl) ?_
  · first | rfl | (simp <;> omega)
  · simp [bits] <;> omega
  · rfl
  · refine congrArg Except.ok ?_
    try simp only [Enc.rndOf_pfx, fin_ofNat_val]
    try (congr 1 <;> first | rfl | exact imm52_low _ imm rfl | (apply fin_of_eq; simp only [bits]; omega) | (apply bool_of_eq; simp only [bits]; omega) | (apply bitvec_of_eq; simp only [bits]; omega))

theorem RoundTrip.joinv (w : Fin 4) (ty : Fin 16) (m : Fin 8) (off : BitVec 16) (d : Fin 32) (a : Fin 32) (g : Fin 32) (c : Fin 32) : RoundTrip.Statement (.joinv w ty m off d a g c) := fun hw h => by
  have := off.isLt
  refine rt64 (w := w.val) (b := g.val) (a := a.val) (d := d.val) (op := 2) (w1 := off.toNat * 65536 + ty.val * 4096 + m.val * 512 + c.val) rfl rfl rfl (by omega) (by omega) (by omega) (by omega) (by omega) rfl rfl (fun _ h => nomatch h) rfl ((dec64_lattice _ _ _ _ _ _ _ (by decide)).trans rfl) ?_ ?_ ?_ (.inl rfl) (.inl rfl) ?_
  · first | rfl | (simp <;> omega)
  · simp [bits] <;> omega
  · rfl
  · refine congrArg Except.ok ?_
    try simp only [Enc.rndOf_pfx, fin_ofNat_val]
    try (congr 1 <;> first | rfl | exact imm52_low _ imm rfl | (apply fin_of_eq; simp only [bits]; omega) | (apply bool_of_eq; simp only [bits]; omega) | (apply bitvec_of_eq; simp only [bits]; omega))

theorem RoundTrip.fill (w : Fin 4) (src : Fin 4) (sz : Fin 16) (off : BitVec 16) (a : Fin 32) (g : Fin 32) (c : Fin 32) : RoundTrip.Statement (.fill w src sz off a g c) := fun hw h => by
  have := off.isLt
  refine rt64 (w := w.val) (b := g.val) (a := a.val) (d := 0) (op := 3) (w1 := off.toNat * 65536 + src.val * 1024 + sz.val * 32 + c.val) rfl rfl rfl (by omega) (by omega) (by omega) (by omega) (by omega) rfl rfl (fun _ h => nomatch h) rfl ((dec64_lattice _ _ _ _ _ _ _ (by decide)).trans rfl) ?_ ?_ ?_ (.inl rfl) (.inl rfl) ?_
  · first | rfl | (simp <;> omega)
  · simp [bits] <;> omega
  · rfl
  · refine congrArg Except.ok ?_
    try simp only [Enc.rndOf_pfx, fin_ofNat_val]
    try (congr 1 <;> first | rfl | exact imm52_low _ imm rfl | (apply fin_of_eq; simp only [bits]; omega) | (apply bool_of_eq; simp only [bits]; omega) | (apply bitvec_of_eq; simp only [bits]; omega))

theorem RoundTrip.thr (w : Fin 4) (ty : Fin 16) (nt : Fin 8) (sz : Fin 16) (off : BitVec 16) (d : Fin 32) (a : Fin 32) (g : Fin 32) (c : Fin 32) : RoundTrip.Statement (.thr w ty nt sz off d a g c) := fun hw h => by
  have := off.isLt
  refine rt64 (w := w.val) (b := g.val) (a := a.val) (d := d.val) (op := 4) (w1 := off.toNat * 65536 + ty.val * 4096 + nt.val * 512 + sz.val * 32 + c.val) rfl rfl rfl (by omega) (by omega) (by omega) (by omega) (by omega) rfl rfl (fun _ h => nomatch h) rfl ((dec64_lattice _ _ _ _ _ _ _ (by decide)).trans rfl) ?_ ?_ ?_ (.inl rfl) (.inl rfl) ?_
  · first | rfl | (simp <;> omega)
  · simp only [Instr.wf, Bool.or_eq_true, bne_iff_ne, beq_iff_eq] at hw ⊢
    simp only [bits]
    rcases hw with hw | hw
    · have : nt.val ≠ 0 := fun h => hw (Fin.ext h)
      omega
    · subst hw; exact .inr (by simp; omega)
  · rfl
  · refine congrArg Except.ok ?_
    try simp only [Enc.rndOf_pfx, fin_ofNat_val]
    try (congr 1 <;> first | rfl | exact imm52_low _ imm rfl | (apply fin_of_eq; simp only [bits]; omega) | (apply bool_of_eq; simp only [bits]; omega) | (apply bitvec_of_eq; simp only [bits]; omega))

theorem RoundTrip.thrF (w : Fin 4) (ty : Fin 16) (sz : Fin 16) (off : BitVec 16) (d : Fin 32) (a : Fin 32) (g : Fin 32) : RoundTrip.Statement (.thrF w ty sz off d a g) := fun hw h => by
  have := off.isLt
  refine rt64 (w := w.val) (b := g.val) (a := a.val) (d := d.val) (op := 5) (w1 := off.toNat * 65536 + ty.val * 4096 + sz.val * 32) rfl rfl rfl (by omega) (by omega) (by omega) (by omega) (by omega) rfl rfl (fun _ h => nomatch h) rfl ((dec64_lattice _ _ _ _ _ _ _ (by decide)).trans rfl) ?_ ?_ ?_ (.inl rfl) (.inl rfl) ?_
  · first | rfl | (simp <;> omega)
  · simp [bits] <;> omega
  · rfl
  · refine congrArg Except.ok ?_
    try simp only [Enc.rndOf_pfx, fin_ofNat_val]
    try (congr 1 <;> first | rfl | exact imm52_low _ imm rfl | (apply fin_of_eq; simp only [bits]; omega) | (apply bool_of_eq; simp only [bits]; omega) | (apply bitvec_of_eq; simp only [bits]; omega))

theorem RoundTrip.freeze (w : Fin 4) (ty : Fin 16) (sz : Fin 16) (off : BitVec 16) (a : Fin 32) (g : Fin 32) : RoundTrip.Statement (.freeze w ty sz off a g) := fun hw h => by
  have := off.isLt
  refine rt64 (w := w.val) (b := g.val) (a := a.val) (d := 0) (op := 6) (w1 := off.toNat * 65536 + ty.val * 4096 + sz.val * 32) rfl rfl rfl (by omega) (by omega) (by omega) (by omega) (by omega) rfl rfl (fun _ h => nomatch h) rfl ((dec64_lattice _ _ _ _ _ _ _ (by decide)).trans rfl) ?_ ?_ ?_ (.inl rfl) (.inl rfl) ?_
  · first | rfl | (simp <;> omega)
  · simp [bits] <;> omega
  · rfl
  · refine congrArg Except.ok ?_
    try simp only [Enc.rndOf_pfx, fin_ofNat_val]
    try (congr 1 <;> first | rfl | exact imm52_low _ imm rfl | (apply fin_of_eq; simp only [bits]; omega) | (apply bool_of_eq; simp only [bits]; omega) | (apply bitvec_of_eq; simp only [bits]; omega))

theorem RoundTrip.freezeR (w : Fin 4) (off : BitVec 16) (a : Fin 32) (g : Fin 32) (c : Fin 32) : RoundTrip.Statement (.freezeR w off a g c) := fun hw h => by
  have := off.isLt
  refine rt64 (w := w.val) (b := g.val) (a := a.val) (d := 0) (op := 7) (w1 := off.toNat * 65536 + c.val) rfl rfl rfl (by omega) (by omega) (by omega) (by omega) (by omega) rfl rfl (fun _ h => nomatch h) rfl ((dec64_lattice _ _ _ _ _ _ _ (by decide)).trans rfl) ?_ ?_ ?_ (.inl rfl) (.inl rfl) ?_
  · first | rfl | (simp <;> omega)
  · simp [bits] <;> omega
  · rfl
  · refine congrArg Except.ok ?_
    try simp only [Enc.rndOf_pfx, fin_ofNat_val]
    try (congr 1 <;> first | rfl | exact imm52_low _ imm rfl | (apply fin_of_eq; simp only [bits]; omega) | (apply bool_of_eq; simp only [bits]; omega) | (apply bitvec_of_eq; simp only [bits]; omega))

theorem RoundTrip.frd (w : Fin 4) (n : Fin 4) (off : BitVec 16) (d : Fin 32) (a : Fin 32) (g : Fin 32) : RoundTrip.Statement (.frd w n off d a g) := fun hw h => by
  have := off.isLt
  refine rt64 (w := w.val) (b := g.val) (a := a.val) (d := d.val) (op := 8) (w1 := off.toNat * 65536 + n.val * 32) rfl rfl rfl (by omega) (by omega) (by omega) (by omega) (by omega) rfl rfl (fun _ h => nomatch h) rfl ((dec64_lattice _ _ _ _ _ _ _ (by decide)).trans rfl) ?_ ?_ ?_ (.inl rfl) (.inl rfl) ?_
  · first | rfl | (simp <;> omega)
  · simp [bits] <;> omega
  · rfl
  · refine congrArg Except.ok ?_
    try simp only [Enc.rndOf_pfx, fin_ofNat_val]
    try (congr 1 <;> first | rfl | exact imm52_low _ imm rfl | (apply fin_of_eq; simp only [bits]; omega) | (apply bool_of_eq; simp only [bits]; omega) | (apply bitvec_of_eq; simp only [bits]; omega))

theorem RoundTrip.frdv (w : Fin 4) (n : Fin 4) (off : BitVec 16) (d : Fin 32) (a : Fin 32) (g : Fin 32) : RoundTrip.Statement (.frdv w n off d a g) := fun hw h => by
  have := off.isLt
  refine rt64 (w := w.val) (b := g.val) (a := a.val) (d := d.val) (op := 9) (w1 := off.toNat * 65536 + n.val * 32) rfl rfl rfl (by omega) (by omega) (by omega) (by omega) (by omega) rfl rfl (fun _ h => nomatch h) rfl ((dec64_lattice _ _ _ _ _ _ _ (by decide)).trans rfl) ?_ ?_ ?_ (.inl rfl) (.inl rfl) ?_
  · first | rfl | (simp <;> omega)
  · simp [bits] <;> omega
  · rfl
  · refine congrArg Except.ok ?_
    try simp only [Enc.rndOf_pfx, fin_ofNat_val]
    try (congr 1 <;> first | rfl | exact imm52_low _ imm rfl | (apply fin_of_eq; simp only [bits]; omega) | (apply bool_of_eq; simp only [bits]; omega) | (apply bitvec_of_eq; simp only [bits]; omega))

theorem RoundTrip.renew (w : Fin 4) (ty : Fin 16) (sz : Fin 16) (off : BitVec 16) (a : Fin 32) (g : Fin 32) : RoundTrip.Statement (.renew w ty sz off a g) := fun hw h => by
  have := off.isLt
  refine rt64 (w := w.val) (b := g.val) (a := a.val) (d := 0) (op := 10) (w1 := off.toNat * 65536 + ty.val * 4096 + sz.val * 32) rfl rfl rfl (by omega) (by omega) (by omega) (by omega) (by omega) rfl rfl (fun _ h => nomatch h) rfl ((dec64_lattice _ _ _ _ _ _ _ (by decide)).trans rfl) ?_ ?_ ?_ (.inl rfl) (.inl rfl) ?_
  · first | rfl | (simp <;> omega)
  · simp [bits] <;> omega
  · rfl
  · refine congrArg Except.ok ?_
    try simp only [Enc.rndOf_pfx, fin_ofNat_val]
    try (congr 1 <;> first | rfl | exact imm52_low _ imm rfl | (apply fin_of_eq; simp only [bits]; omega) | (apply bool_of_eq; simp only [bits]; omega) | (apply bitvec_of_eq; simp only [bits]; omega))

theorem RoundTrip.mxsBf16 (aft : After) (wrap : Bool) (z : Bool) (afmt : Bool) (ring : Fin 8) (k : Fin 16) (a : Fin 32) (b : Fin 32) (c : Fin 32) : RoundTrip.Statement (.mxsBf16 aft wrap z afmt ring k a b c) := fun hw h => by
  have := wrap.toNat_le
  have := z.toNat_le
  have := afmt.toNat_le
  obtain ⟨q, hq, -⟩ := afterBits_high aft
  have e1 : afterBits aft + wrap.toNat * 1024 + z.toNat * 512 + afmt.toNat * 256 + ring.val * 32 + c.val = afterBits aft + (wrap.toNat * 1024 + z.toNat * 512 + afmt.toNat * 256 + ring.val * 32 + c.val) := by omega
  refine rt64 (w := 0) (b := b.val) (a := a.val) (d := k.val) (op := 32) (w1 := afterBits aft + wrap.toNat * 1024 + z.toNat * 512 + afmt.toNat * 256 + ring.val * 32 + c.val) rfl rfl rfl (by omega) (by omega) (by omega) (by omega) (by omega) rfl rfl (fun _ h => nomatch h) rfl ((dec64_engine _ _ _ _ _ _ _ (by decide)).trans rfl) ?_ ?_ ?_ (.inl rfl) (.inl rfl) ?_
  · first | rfl | (simp <;> omega)
  · (simp only [e1, afterOk_bits _ _ (show wrap.toNat * 1024 + z.toNat * 512 + afmt.toNat * 256 + ring.val * 32 + c.val < 262144 by omega), Bool.true_and, beq_iff_eq, Bool.and_eq_true, bits]) <;> omega
  · rfl
  · refine congrArg Except.ok ?_
    simp only [e1, afterOf_bits _ _ (show wrap.toNat * 1024 + z.toNat * 512 + afmt.toNat * 256 + ring.val * 32 + c.val < 262144 by omega), Enc.rndOf_pfx, fin_ofNat_val]
    try (congr 1 <;> first | rfl | exact imm52_low _ imm rfl | (apply fin_of_eq; simp only [bits]; omega) | (apply bool_of_eq; simp only [bits]; omega))

theorem RoundTrip.mxsF16 (aft : After) (wrap : Bool) (z : Bool) (afmt : Bool) (ring : Fin 8) (k : Fin 16) (a : Fin 32) (b : Fin 32) (c : Fin 32) : RoundTrip.Statement (.mxsF16 aft wrap z afmt ring k a b c) := fun hw h => by
  have := wrap.toNat_le
  have := z.toNat_le
  have := afmt.toNat_le
  obtain ⟨q, hq, -⟩ := afterBits_high aft
  have e1 : afterBits aft + wrap.toNat * 1024 + z.toNat * 512 + afmt.toNat * 256 + ring.val * 32 + c.val = afterBits aft + (wrap.toNat * 1024 + z.toNat * 512 + afmt.toNat * 256 + ring.val * 32 + c.val) := by omega
  refine rt64 (w := 0) (b := b.val) (a := a.val) (d := k.val) (op := 33) (w1 := afterBits aft + wrap.toNat * 1024 + z.toNat * 512 + afmt.toNat * 256 + ring.val * 32 + c.val) rfl rfl rfl (by omega) (by omega) (by omega) (by omega) (by omega) rfl rfl (fun _ h => nomatch h) rfl ((dec64_engine _ _ _ _ _ _ _ (by decide)).trans rfl) ?_ ?_ ?_ (.inl rfl) (.inl rfl) ?_
  · first | rfl | (simp <;> omega)
  · (simp only [e1, afterOk_bits _ _ (show wrap.toNat * 1024 + z.toNat * 512 + afmt.toNat * 256 + ring.val * 32 + c.val < 262144 by omega), Bool.true_and, beq_iff_eq, Bool.and_eq_true, bits]) <;> omega
  · rfl
  · refine congrArg Except.ok ?_
    simp only [e1, afterOf_bits _ _ (show wrap.toNat * 1024 + z.toNat * 512 + afmt.toNat * 256 + ring.val * 32 + c.val < 262144 by omega), Enc.rndOf_pfx, fin_ofNat_val]
    try (congr 1 <;> first | rfl | exact imm52_low _ imm rfl | (apply fin_of_eq; simp only [bits]; omega) | (apply bool_of_eq; simp only [bits]; omega))

theorem RoundTrip.mxsF8 (aft : After) (wrap : Bool) (z : Bool) (afmt : Bool) (ring : Fin 8) (k : Fin 16) (a : Fin 32) (b : Fin 32) (c : Fin 32) : RoundTrip.Statement (.mxsF8 aft wrap z afmt ring k a b c) := fun hw h => by
  have := wrap.toNat_le
  have := z.toNat_le
  have := afmt.toNat_le
  obtain ⟨q, hq, -⟩ := afterBits_high aft
  have e1 : afterBits aft + wrap.toNat * 1024 + z.toNat * 512 + afmt.toNat * 256 + ring.val * 32 + c.val = afterBits aft + (wrap.toNat * 1024 + z.toNat * 512 + afmt.toNat * 256 + ring.val * 32 + c.val) := by omega
  refine rt64 (w := 0) (b := b.val) (a := a.val) (d := k.val) (op := 34) (w1 := afterBits aft + wrap.toNat * 1024 + z.toNat * 512 + afmt.toNat * 256 + ring.val * 32 + c.val) rfl rfl rfl (by omega) (by omega) (by omega) (by omega) (by omega) rfl rfl (fun _ h => nomatch h) rfl ((dec64_engine _ _ _ _ _ _ _ (by decide)).trans rfl) ?_ ?_ ?_ (.inl rfl) (.inl rfl) ?_
  · first | rfl | (simp <;> omega)
  · (simp only [e1, afterOk_bits _ _ (show wrap.toNat * 1024 + z.toNat * 512 + afmt.toNat * 256 + ring.val * 32 + c.val < 262144 by omega), Bool.true_and, beq_iff_eq, Bool.and_eq_true, bits]) <;> omega
  · rfl
  · refine congrArg Except.ok ?_
    simp only [e1, afterOf_bits _ _ (show wrap.toNat * 1024 + z.toNat * 512 + afmt.toNat * 256 + ring.val * 32 + c.val < 262144 by omega), Enc.rndOf_pfx, fin_ofNat_val]
    try (congr 1 <;> first | rfl | exact imm52_low _ imm rfl | (apply fin_of_eq; simp only [bits]; omega) | (apply bool_of_eq; simp only [bits]; omega))

theorem RoundTrip.mxsE2m1 (aft : After) (wrap : Bool) (z : Bool) (afmt : Bool) (ring : Fin 8) (k : Fin 16) (a : Fin 32) (b : Fin 32) (c : Fin 32) : RoundTrip.Statement (.mxsE2m1 aft wrap z afmt ring k a b c) := fun hw h => by
  have := wrap.toNat_le
  have := z.toNat_le
  have := afmt.toNat_le
  obtain ⟨q, hq, -⟩ := afterBits_high aft
  have e1 : afterBits aft + wrap.toNat * 1024 + z.toNat * 512 + afmt.toNat * 256 + ring.val * 32 + c.val = afterBits aft + (wrap.toNat * 1024 + z.toNat * 512 + afmt.toNat * 256 + ring.val * 32 + c.val) := by omega
  refine rt64 (w := 0) (b := b.val) (a := a.val) (d := k.val) (op := 35) (w1 := afterBits aft + wrap.toNat * 1024 + z.toNat * 512 + afmt.toNat * 256 + ring.val * 32 + c.val) rfl rfl rfl (by omega) (by omega) (by omega) (by omega) (by omega) rfl rfl (fun _ h => nomatch h) rfl ((dec64_engine _ _ _ _ _ _ _ (by decide)).trans rfl) ?_ ?_ ?_ (.inl rfl) (.inl rfl) ?_
  · first | rfl | (simp <;> omega)
  · (simp only [e1, afterOk_bits _ _ (show wrap.toNat * 1024 + z.toNat * 512 + afmt.toNat * 256 + ring.val * 32 + c.val < 262144 by omega), Bool.true_and, beq_iff_eq, Bool.and_eq_true, bits]) <;> omega
  · rfl
  · refine congrArg Except.ok ?_
    simp only [e1, afterOf_bits _ _ (show wrap.toNat * 1024 + z.toNat * 512 + afmt.toNat * 256 + ring.val * 32 + c.val < 262144 by omega), Enc.rndOf_pfx, fin_ofNat_val]
    try (congr 1 <;> first | rfl | exact imm52_low _ imm rfl | (apply fin_of_eq; simp only [bits]; omega) | (apply bool_of_eq; simp only [bits]; omega))

theorem RoundTrip.mxsI8 (aft : After) (wrap : Bool) (z : Bool) (afmt : Bool) (ring : Fin 8) (k : Fin 16) (a : Fin 32) (b : Fin 32) (c : Fin 32) : RoundTrip.Statement (.mxsI8 aft wrap z afmt ring k a b c) := fun hw h => by
  have := wrap.toNat_le
  have := z.toNat_le
  have := afmt.toNat_le
  obtain ⟨q, hq, -⟩ := afterBits_high aft
  have e1 : afterBits aft + wrap.toNat * 1024 + z.toNat * 512 + afmt.toNat * 256 + ring.val * 32 + c.val = afterBits aft + (wrap.toNat * 1024 + z.toNat * 512 + afmt.toNat * 256 + ring.val * 32 + c.val) := by omega
  refine rt64 (w := 0) (b := b.val) (a := a.val) (d := k.val) (op := 36) (w1 := afterBits aft + wrap.toNat * 1024 + z.toNat * 512 + afmt.toNat * 256 + ring.val * 32 + c.val) rfl rfl rfl (by omega) (by omega) (by omega) (by omega) (by omega) rfl rfl (fun _ h => nomatch h) rfl ((dec64_engine _ _ _ _ _ _ _ (by decide)).trans rfl) ?_ ?_ ?_ (.inl rfl) (.inl rfl) ?_
  · first | rfl | (simp <;> omega)
  · (simp only [e1, afterOk_bits _ _ (show wrap.toNat * 1024 + z.toNat * 512 + afmt.toNat * 256 + ring.val * 32 + c.val < 262144 by omega), Bool.true_and, beq_iff_eq, Bool.and_eq_true, bits]) <;> omega
  · rfl
  · refine congrArg Except.ok ?_
    simp only [e1, afterOf_bits _ _ (show wrap.toNat * 1024 + z.toNat * 512 + afmt.toNat * 256 + ring.val * 32 + c.val < 262144 by omega), Enc.rndOf_pfx, fin_ofNat_val]
    try (congr 1 <;> first | rfl | exact imm52_low _ imm rfl | (apply fin_of_eq; simp only [bits]; omega) | (apply bool_of_eq; simp only [bits]; omega))

theorem RoundTrip.mxsI4 (aft : After) (wrap : Bool) (z : Bool) (afmt : Bool) (ring : Fin 8) (k : Fin 16) (a : Fin 32) (b : Fin 32) (c : Fin 32) : RoundTrip.Statement (.mxsI4 aft wrap z afmt ring k a b c) := fun hw h => by
  have := wrap.toNat_le
  have := z.toNat_le
  have := afmt.toNat_le
  obtain ⟨q, hq, -⟩ := afterBits_high aft
  have e1 : afterBits aft + wrap.toNat * 1024 + z.toNat * 512 + afmt.toNat * 256 + ring.val * 32 + c.val = afterBits aft + (wrap.toNat * 1024 + z.toNat * 512 + afmt.toNat * 256 + ring.val * 32 + c.val) := by omega
  refine rt64 (w := 0) (b := b.val) (a := a.val) (d := k.val) (op := 37) (w1 := afterBits aft + wrap.toNat * 1024 + z.toNat * 512 + afmt.toNat * 256 + ring.val * 32 + c.val) rfl rfl rfl (by omega) (by omega) (by omega) (by omega) (by omega) rfl rfl (fun _ h => nomatch h) rfl ((dec64_engine _ _ _ _ _ _ _ (by decide)).trans rfl) ?_ ?_ ?_ (.inl rfl) (.inl rfl) ?_
  · first | rfl | (simp <;> omega)
  · (simp only [e1, afterOk_bits _ _ (show wrap.toNat * 1024 + z.toNat * 512 + afmt.toNat * 256 + ring.val * 32 + c.val < 262144 by omega), Bool.true_and, beq_iff_eq, Bool.and_eq_true, bits]) <;> omega
  · rfl
  · refine congrArg Except.ok ?_
    simp only [e1, afterOf_bits _ _ (show wrap.toNat * 1024 + z.toNat * 512 + afmt.toNat * 256 + ring.val * 32 + c.val < 262144 by omega), Enc.rndOf_pfx, fin_ofNat_val]
    try (congr 1 <;> first | rfl | exact imm52_low _ imm rfl | (apply fin_of_eq; simp only [bits]; omega) | (apply bool_of_eq; simp only [bits]; omega))

theorem RoundTrip.mxsT2 (aft : After) (wrap : Bool) (z : Bool) (afmt : Bool) (ring : Fin 8) (k : Fin 16) (a : Fin 32) (b : Fin 32) (c : Fin 32) : RoundTrip.Statement (.mxsT2 aft wrap z afmt ring k a b c) := fun hw h => by
  have := wrap.toNat_le
  have := z.toNat_le
  have := afmt.toNat_le
  obtain ⟨q, hq, -⟩ := afterBits_high aft
  have e1 : afterBits aft + wrap.toNat * 1024 + z.toNat * 512 + afmt.toNat * 256 + ring.val * 32 + c.val = afterBits aft + (wrap.toNat * 1024 + z.toNat * 512 + afmt.toNat * 256 + ring.val * 32 + c.val) := by omega
  refine rt64 (w := 0) (b := b.val) (a := a.val) (d := k.val) (op := 38) (w1 := afterBits aft + wrap.toNat * 1024 + z.toNat * 512 + afmt.toNat * 256 + ring.val * 32 + c.val) rfl rfl rfl (by omega) (by omega) (by omega) (by omega) (by omega) rfl rfl (fun _ h => nomatch h) rfl ((dec64_engine _ _ _ _ _ _ _ (by decide)).trans rfl) ?_ ?_ ?_ (.inl rfl) (.inl rfl) ?_
  · first | rfl | (simp <;> omega)
  · (simp only [e1, afterOk_bits _ _ (show wrap.toNat * 1024 + z.toNat * 512 + afmt.toNat * 256 + ring.val * 32 + c.val < 262144 by omega), Bool.true_and, beq_iff_eq, Bool.and_eq_true, bits]) <;> omega
  · rfl
  · refine congrArg Except.ok ?_
    simp only [e1, afterOf_bits _ _ (show wrap.toNat * 1024 + z.toNat * 512 + afmt.toNat * 256 + ring.val * 32 + c.val < 262144 by omega), Enc.rndOf_pfx, fin_ofNat_val]
    try (congr 1 <;> first | rfl | exact imm52_low _ imm rfl | (apply fin_of_eq; simp only [bits]; omega) | (apply bool_of_eq; simp only [bits]; omega))

theorem RoundTrip.mxsB48 (aft : After) (wrap : Bool) (z : Bool) (afmt : Bool) (ring : Fin 8) (k : Fin 16) (a : Fin 32) (b : Fin 32) (c : Fin 32) : RoundTrip.Statement (.mxsB48 aft wrap z afmt ring k a b c) := fun hw h => by
  have := wrap.toNat_le
  have := z.toNat_le
  have := afmt.toNat_le
  obtain ⟨q, hq, -⟩ := afterBits_high aft
  have e1 : afterBits aft + wrap.toNat * 1024 + z.toNat * 512 + afmt.toNat * 256 + ring.val * 32 + c.val = afterBits aft + (wrap.toNat * 1024 + z.toNat * 512 + afmt.toNat * 256 + ring.val * 32 + c.val) := by omega
  refine rt64 (w := 0) (b := b.val) (a := a.val) (d := k.val) (op := 39) (w1 := afterBits aft + wrap.toNat * 1024 + z.toNat * 512 + afmt.toNat * 256 + ring.val * 32 + c.val) rfl rfl rfl (by omega) (by omega) (by omega) (by omega) (by omega) rfl rfl (fun _ h => nomatch h) rfl ((dec64_engine _ _ _ _ _ _ _ (by decide)).trans rfl) ?_ ?_ ?_ (.inl rfl) (.inl rfl) ?_
  · first | rfl | (simp <;> omega)
  · (simp only [e1, afterOk_bits _ _ (show wrap.toNat * 1024 + z.toNat * 512 + afmt.toNat * 256 + ring.val * 32 + c.val < 262144 by omega), Bool.true_and, beq_iff_eq, Bool.and_eq_true, bits]) <;> omega
  · rfl
  · refine congrArg Except.ok ?_
    simp only [e1, afterOf_bits _ _ (show wrap.toNat * 1024 + z.toNat * 512 + afmt.toNat * 256 + ring.val * 32 + c.val < 262144 by omega), Enc.rndOf_pfx, fin_ofNat_val]
    try (congr 1 <;> first | rfl | exact imm52_low _ imm rfl | (apply fin_of_eq; simp only [bits]; omega) | (apply bool_of_eq; simp only [bits]; omega))

theorem RoundTrip.mxz (aft : After) (k : Fin 16) (b : Fin 32) (c : Fin 32) : RoundTrip.Statement (.mxz aft k b c) := fun hw h => by
  obtain ⟨q, hq, -⟩ := afterBits_high aft
  refine rt64 (w := 0) (b := b.val) (a := 0) (d := k.val) (op := 40) (w1 := afterBits aft + c.val) rfl rfl rfl (by omega) (by omega) (by omega) (by omega) (by omega) rfl rfl (fun _ h => nomatch h) rfl ((dec64_engine _ _ _ _ _ _ _ (by decide)).trans rfl) ?_ ?_ ?_ (.inl rfl) (.inl rfl) ?_
  · first | rfl | (simp <;> omega)
  · (simp only [afterOk_bits _ _ (show c.val < 262144 by omega), Bool.true_and, beq_iff_eq, Bool.and_eq_true, bits]) <;> omega
  · rfl
  · refine congrArg Except.ok ?_
    simp only [afterOf_bits _ _ (show c.val < 262144 by omega), Enc.rndOf_pfx, fin_ofNat_val]
    try (congr 1 <;> first | rfl | exact imm52_low _ imm rfl | (apply fin_of_eq; simp only [bits]; omega) | (apply bool_of_eq; simp only [bits]; omega))

theorem RoundTrip.mxe (rnd : Option Rnd) (aft : After) (relu : Bool) (srci : Bool) (dbuf : Bool) (dfmt : Fin 8) (k : Fin 16) (a : Fin 32) (b : Fin 32) (c : Fin 32) : RoundTrip.Statement (.mxe rnd aft relu srci dbuf dfmt k a b c) := fun hw h => by
  have := relu.toNat_le
  have := srci.toNat_le
  have := dbuf.toNat_le
  obtain ⟨q, hq, -⟩ := afterBits_high aft
  have e1 : afterBits aft + relu.toNat * 1024 + srci.toNat * 512 + dbuf.toNat * 256 + dfmt.val * 32 + c.val = afterBits aft + (relu.toNat * 1024 + srci.toNat * 512 + dbuf.toNat * 256 + dfmt.val * 32 + c.val) := by omega
  refine rt64 (w := 0) (b := b.val) (a := a.val) (d := k.val) (op := 41) (w1 := afterBits aft + relu.toNat * 1024 + srci.toNat * 512 + dbuf.toNat * 256 + dfmt.val * 32 + c.val) rfl rfl rfl (by omega) (by omega) (by omega) (by omega) (by omega) rfl hw (fun _ h => nomatch h) rfl ((dec64_engine _ _ _ _ _ _ _ (by decide)).trans rfl) ?_ ?_ ?_ (.inr rfl) (.inl rfl) ?_
  · first | rfl | (simp <;> omega)
  · (simp only [e1, afterOk_bits _ _ (show relu.toNat * 1024 + srci.toNat * 512 + dbuf.toNat * 256 + dfmt.val * 32 + c.val < 262144 by omega), Bool.true_and, beq_iff_eq, Bool.and_eq_true, bits]) <;> omega
  · rfl
  · refine congrArg Except.ok ?_
    simp only [e1, afterOf_bits _ _ (show relu.toNat * 1024 + srci.toNat * 512 + dbuf.toNat * 256 + dfmt.val * 32 + c.val < 262144 by omega), Enc.rndOf_pfx, fin_ofNat_val]
    try (congr 1 <;> first | rfl | exact imm52_low _ imm rfl | (apply fin_of_eq; simp only [bits]; omega) | (apply bool_of_eq; simp only [bits]; omega))

theorem RoundTrip.ringcfg (ring : Fin 8) (a : Fin 32) (b : Fin 32) : RoundTrip.Statement (.ringcfg ring a b) := fun hw h => by
  refine rt64 (w := 0) (b := b.val) (a := a.val) (d := 0) (op := 42) (w1 := ring.val * 32) rfl rfl rfl (by omega) (by omega) (by omega) (by omega) (by omega) rfl rfl (fun _ h => nomatch h) rfl ((dec64_engine _ _ _ _ _ _ _ (by decide)).trans rfl) ?_ ?_ ?_ (.inl rfl) (.inl rfl) ?_
  · first | rfl | (simp <;> omega)
  · simp [bits] <;> omega
  · rfl
  · refine congrArg Except.ok ?_
    try simp only [Enc.rndOf_pfx, fin_ofNat_val]
    try (congr 1 <;> first | rfl | exact imm52_low _ imm rfl | (apply fin_of_eq; simp only [bits]; omega) | (apply bool_of_eq; simp only [bits]; omega) | (apply bitvec_of_eq; simp only [bits]; omega))

theorem RoundTrip.cpy (w : Fin 4) (rnd : Option Rnd) (aft : After) (dsp : Fin 8) (ssp : Fin 8) (conv : Fin 16) (ring : Fin 8) (k : Fin 16) (a : Fin 32) (b : Fin 32) (c : Fin 32) : RoundTrip.Statement (.cpy w rnd aft dsp ssp conv ring k a b c) := fun hw h => by
  obtain ⟨q, hq, -⟩ := afterBits_high aft
  have e1 : afterBits aft + dsp.val * 32768 + ssp.val * 4096 + conv.val * 256 + ring.val * 32 + c.val = afterBits aft + (dsp.val * 32768 + ssp.val * 4096 + conv.val * 256 + ring.val * 32 + c.val) := by omega
  refine rt64 (w := w.val) (b := b.val) (a := a.val) (d := k.val) (op := 48) (w1 := afterBits aft + dsp.val * 32768 + ssp.val * 4096 + conv.val * 256 + ring.val * 32 + c.val) rfl rfl rfl (by omega) (by omega) (by omega) (by omega) (by omega) rfl hw (fun _ h => nomatch h) rfl ((dec64_engine _ _ _ _ _ _ _ (by decide)).trans rfl) ?_ ?_ ?_ (.inr rfl) (.inl rfl) ?_
  · first | rfl | (simp <;> omega)
  · (simp only [e1, afterOk_bits _ _ (show dsp.val * 32768 + ssp.val * 4096 + conv.val * 256 + ring.val * 32 + c.val < 262144 by omega), Bool.true_and, beq_iff_eq, Bool.and_eq_true, bits]) <;> omega
  · rfl
  · refine congrArg Except.ok ?_
    simp only [e1, afterOf_bits _ _ (show dsp.val * 32768 + ssp.val * 4096 + conv.val * 256 + ring.val * 32 + c.val < 262144 by omega), Enc.rndOf_pfx, fin_ofNat_val]
    try (congr 1 <;> first | rfl | exact imm52_low _ imm rfl | (apply fin_of_eq; simp only [bits]; omega) | (apply bool_of_eq; simp only [bits]; omega))

theorem RoundTrip.cpya (w : Fin 4) (rnd : Option Rnd) (aft : After) (dsp : Fin 8) (ssp : Fin 8) (ring : Fin 8) (k : Fin 16) (a : Fin 32) (b : Fin 32) (c : Fin 32) : RoundTrip.Statement (.cpya w rnd aft dsp ssp ring k a b c) := fun hw h => by
  obtain ⟨q, hq, -⟩ := afterBits_high aft
  have e1 : afterBits aft + dsp.val * 32768 + ssp.val * 4096 + ring.val * 32 + c.val = afterBits aft + (dsp.val * 32768 + ssp.val * 4096 + ring.val * 32 + c.val) := by omega
  refine rt64 (w := w.val) (b := b.val) (a := a.val) (d := k.val) (op := 49) (w1 := afterBits aft + dsp.val * 32768 + ssp.val * 4096 + ring.val * 32 + c.val) rfl rfl rfl (by omega) (by omega) (by omega) (by omega) (by omega) rfl hw (fun _ h => nomatch h) rfl ((dec64_engine _ _ _ _ _ _ _ (by decide)).trans rfl) ?_ ?_ ?_ (.inr rfl) (.inl rfl) ?_
  · first | rfl | (simp <;> omega)
  · (simp only [e1, afterOk_bits _ _ (show dsp.val * 32768 + ssp.val * 4096 + ring.val * 32 + c.val < 262144 by omega), Bool.true_and, beq_iff_eq, Bool.and_eq_true, bits]) <;> omega
  · rfl
  · refine congrArg Except.ok ?_
    simp only [e1, afterOf_bits _ _ (show dsp.val * 32768 + ssp.val * 4096 + ring.val * 32 + c.val < 262144 by omega), Enc.rndOf_pfx, fin_ofNat_val]
    try (congr 1 <;> first | rfl | exact imm52_low _ imm rfl | (apply fin_of_eq; simp only [bits]; omega) | (apply bool_of_eq; simp only [bits]; omega))

theorem RoundTrip.cpyg (w : Fin 4) (rnd : Option Rnd) (aft : After) (dsp : Fin 8) (ssp : Fin 8) (ring : Fin 8) (k : Fin 16) (a : Fin 32) (b : Fin 32) (c : Fin 32) : RoundTrip.Statement (.cpyg w rnd aft dsp ssp ring k a b c) := fun hw h => by
  obtain ⟨q, hq, -⟩ := afterBits_high aft
  have e1 : afterBits aft + dsp.val * 32768 + ssp.val * 4096 + ring.val * 32 + c.val = afterBits aft + (dsp.val * 32768 + ssp.val * 4096 + ring.val * 32 + c.val) := by omega
  refine rt64 (w := w.val) (b := b.val) (a := a.val) (d := k.val) (op := 50) (w1 := afterBits aft + dsp.val * 32768 + ssp.val * 4096 + ring.val * 32 + c.val) rfl rfl rfl (by omega) (by omega) (by omega) (by omega) (by omega) rfl hw (fun _ h => nomatch h) rfl ((dec64_engine _ _ _ _ _ _ _ (by decide)).trans rfl) ?_ ?_ ?_ (.inr rfl) (.inl rfl) ?_
  · first | rfl | (simp <;> omega)
  · (simp only [e1, afterOk_bits _ _ (show dsp.val * 32768 + ssp.val * 4096 + ring.val * 32 + c.val < 262144 by omega), Bool.true_and, beq_iff_eq, Bool.and_eq_true, bits]) <;> omega
  · rfl
  · refine congrArg Except.ok ?_
    simp only [e1, afterOf_bits _ _ (show dsp.val * 32768 + ssp.val * 4096 + ring.val * 32 + c.val < 262144 by omega), Enc.rndOf_pfx, fin_ofNat_val]
    try (congr 1 <;> first | rfl | exact imm52_low _ imm rfl | (apply fin_of_eq; simp only [bits]; omega) | (apply bool_of_eq; simp only [bits]; omega))

theorem RoundTrip.cpys (w : Fin 4) (rnd : Option Rnd) (aft : After) (dsp : Fin 8) (ssp : Fin 8) (k : Fin 16) (a : Fin 32) (b : Fin 32) (c : Fin 32) : RoundTrip.Statement (.cpys w rnd aft dsp ssp k a b c) := fun hw h => by
  obtain ⟨q, hq, -⟩ := afterBits_high aft
  have e1 : afterBits aft + dsp.val * 32768 + ssp.val * 4096 + c.val = afterBits aft + (dsp.val * 32768 + ssp.val * 4096 + c.val) := by omega
  refine rt64 (w := w.val) (b := b.val) (a := a.val) (d := k.val) (op := 51) (w1 := afterBits aft + dsp.val * 32768 + ssp.val * 4096 + c.val) rfl rfl rfl (by omega) (by omega) (by omega) (by omega) (by omega) rfl hw (fun _ h => nomatch h) rfl ((dec64_engine _ _ _ _ _ _ _ (by decide)).trans rfl) ?_ ?_ ?_ (.inr rfl) (.inl rfl) ?_
  · first | rfl | (simp <;> omega)
  · (simp only [e1, afterOk_bits _ _ (show dsp.val * 32768 + ssp.val * 4096 + c.val < 262144 by omega), Bool.true_and, beq_iff_eq, Bool.and_eq_true, bits]) <;> omega
  · rfl
  · refine congrArg Except.ok ?_
    simp only [e1, afterOf_bits _ _ (show dsp.val * 32768 + ssp.val * 4096 + c.val < 262144 by omega), Enc.rndOf_pfx, fin_ofNat_val]
    try (congr 1 <;> first | rfl | exact imm52_low _ imm rfl | (apply fin_of_eq; simp only [bits]; omega) | (apply bool_of_eq; simp only [bits]; omega))

theorem RoundTrip.cpyr (w : Fin 4) (aft : After) (ssp : Fin 8) (k : Fin 16) (a : Fin 32) (b : Fin 32) (c : Fin 32) : RoundTrip.Statement (.cpyr w aft ssp k a b c) := fun hw h => by
  obtain ⟨q, hq, -⟩ := afterBits_high aft
  have e1 : afterBits aft + ssp.val * 4096 + c.val = afterBits aft + (ssp.val * 4096 + c.val) := by omega
  refine rt64 (w := w.val) (b := b.val) (a := a.val) (d := k.val) (op := 52) (w1 := afterBits aft + ssp.val * 4096 + c.val) rfl rfl rfl (by omega) (by omega) (by omega) (by omega) (by omega) rfl rfl (fun _ h => nomatch h) rfl ((dec64_engine _ _ _ _ _ _ _ (by decide)).trans rfl) ?_ ?_ ?_ (.inl rfl) (.inl rfl) ?_
  · first | rfl | (simp <;> omega)
  · (simp only [e1, afterOk_bits _ _ (show ssp.val * 4096 + c.val < 262144 by omega), Bool.true_and, beq_iff_eq, Bool.and_eq_true, bits]) <;> omega
  · rfl
  · refine congrArg Except.ok ?_
    simp only [e1, afterOf_bits _ _ (show ssp.val * 4096 + c.val < 262144 by omega), Enc.rndOf_pfx, fin_ofNat_val]
    try (congr 1 <;> first | rfl | exact imm52_low _ imm rfl | (apply fin_of_eq; simp only [bits]; omega) | (apply bool_of_eq; simp only [bits]; omega))

theorem RoundTrip.sbind (w : Fin 4) (rnd : Option Rnd) (aft : After) (vreg : Fin 8) (ssp : Fin 8) (conv : Fin 16) (k : Fin 16) (b : Fin 32) (c : Fin 32) : RoundTrip.Statement (.sbind w rnd aft vreg ssp conv k b c) := fun hw h => by
  obtain ⟨q, hq, -⟩ := afterBits_high aft
  have e1 : afterBits aft + vreg.val * 32768 + ssp.val * 4096 + conv.val * 256 + c.val = afterBits aft + (vreg.val * 32768 + ssp.val * 4096 + conv.val * 256 + c.val) := by omega
  refine rt64 (w := w.val) (b := b.val) (a := 0) (d := k.val) (op := 53) (w1 := afterBits aft + vreg.val * 32768 + ssp.val * 4096 + conv.val * 256 + c.val) rfl rfl rfl (by omega) (by omega) (by omega) (by omega) (by omega) rfl hw (fun _ h => nomatch h) rfl ((dec64_engine _ _ _ _ _ _ _ (by decide)).trans rfl) ?_ ?_ ?_ (.inr rfl) (.inl rfl) ?_
  · first | rfl | (simp <;> omega)
  · (simp only [e1, afterOk_bits _ _ (show vreg.val * 32768 + ssp.val * 4096 + conv.val * 256 + c.val < 262144 by omega), Bool.true_and, beq_iff_eq, Bool.and_eq_true, bits]) <;> omega
  · rfl
  · refine congrArg Except.ok ?_
    simp only [e1, afterOf_bits _ _ (show vreg.val * 32768 + ssp.val * 4096 + conv.val * 256 + c.val < 262144 by omega), Enc.rndOf_pfx, fin_ofNat_val]
    try (congr 1 <;> first | rfl | exact imm52_low _ imm rfl | (apply fin_of_eq; simp only [bits]; omega) | (apply bool_of_eq; simp only [bits]; omega))

theorem RoundTrip.sunbind (w : Fin 4) (vreg : Fin 8) : RoundTrip.Statement (.sunbind w vreg) := fun hw h => by
  refine rt64 (w := w.val) (b := 0) (a := 0) (d := 0) (op := 54) (w1 := vreg.val * 32768) rfl rfl rfl (by omega) (by omega) (by omega) (by omega) (by omega) rfl rfl (fun _ h => nomatch h) rfl ((dec64_engine _ _ _ _ _ _ _ (by decide)).trans rfl) ?_ ?_ ?_ (.inl rfl) (.inl rfl) ?_
  · first | rfl | (simp <;> omega)
  · simp [bits] <;> omega
  · rfl
  · refine congrArg Except.ok ?_
    try simp only [Enc.rndOf_pfx, fin_ofNat_val]
    try (congr 1 <;> first | rfl | exact imm52_low _ imm rfl | (apply fin_of_eq; simp only [bits]; omega) | (apply bool_of_eq; simp only [bits]; omega) | (apply bitvec_of_eq; simp only [bits]; omega))

theorem RoundTrip.bankcall (w : Fin 4) (aft : After) (nr : Fin 4) (entry : Fin 16) (k : Fin 16) (a : Fin 32) (b : Fin 32) : RoundTrip.Statement (.bankcall w aft nr entry k a b) := fun hw h => by
  obtain ⟨q, hq, -⟩ := afterBits_high aft
  have e1 : afterBits aft + nr.val * 2048 + entry.val * 32 = afterBits aft + (nr.val * 2048 + entry.val * 32) := by omega
  refine rt64 (w := w.val) (b := b.val) (a := a.val) (d := k.val) (op := 55) (w1 := afterBits aft + nr.val * 2048 + entry.val * 32) rfl rfl rfl (by omega) (by omega) (by omega) (by omega) (by omega) rfl rfl (fun _ h => nomatch h) rfl ((dec64_engine _ _ _ _ _ _ _ (by decide)).trans rfl) ?_ ?_ ?_ (.inl rfl) (.inl rfl) ?_
  · first | rfl | (simp <;> omega)
  · (simp only [e1, afterOk_bits _ _ (show nr.val * 2048 + entry.val * 32 < 262144 by omega), Bool.true_and, beq_iff_eq, Bool.and_eq_true, bits]) <;> omega
  · rfl
  · refine congrArg Except.ok ?_
    simp only [e1, afterOf_bits _ _ (show nr.val * 2048 + entry.val * 32 < 262144 by omega), Enc.rndOf_pfx, fin_ofNat_val]
    try (congr 1 <;> first | rfl | exact imm52_low _ imm rfl | (apply fin_of_eq; simp only [bits]; omega) | (apply bool_of_eq; simp only [bits]; omega))

theorem RoundTrip.collAr (w : Fin 4) (rnd : Option Rnd) (aft : After) (rsp : Fin 8) (ssp : Fin 8) (k : Fin 16) (a : Fin 32) (b : Fin 32) (c : Fin 32) : RoundTrip.Statement (.collAr w rnd aft rsp ssp k a b c) := fun hw h => by
  obtain ⟨q, hq, -⟩ := afterBits_high aft
  have e1 : afterBits aft + rsp.val * 32768 + ssp.val * 4096 + c.val = afterBits aft + (rsp.val * 32768 + ssp.val * 4096 + c.val) := by omega
  refine rt64 (w := w.val) (b := b.val) (a := a.val) (d := k.val) (op := 64) (w1 := afterBits aft + rsp.val * 32768 + ssp.val * 4096 + c.val) rfl rfl rfl (by omega) (by omega) (by omega) (by omega) (by omega) rfl hw (fun _ h => nomatch h) rfl ((dec64_coll _ _ _ _ _ _ _ (by decide)).trans rfl) ?_ ?_ ?_ (.inr rfl) (.inl rfl) ?_
  · first | rfl | (simp <;> omega)
  · (simp only [e1, afterOk_bits _ _ (show rsp.val * 32768 + ssp.val * 4096 + c.val < 262144 by omega), Bool.true_and, beq_iff_eq, Bool.and_eq_true, bits]) <;> omega
  · rfl
  · refine congrArg Except.ok ?_
    simp only [e1, afterOf_bits _ _ (show rsp.val * 32768 + ssp.val * 4096 + c.val < 262144 by omega), Enc.rndOf_pfx, fin_ofNat_val]
    try (congr 1 <;> first | rfl | exact imm52_low _ imm rfl | (apply fin_of_eq; simp only [bits]; omega) | (apply bool_of_eq; simp only [bits]; omega))

theorem RoundTrip.collRs (w : Fin 4) (rnd : Option Rnd) (aft : After) (rsp : Fin 8) (ssp : Fin 8) (k : Fin 16) (a : Fin 32) (b : Fin 32) (c : Fin 32) : RoundTrip.Statement (.collRs w rnd aft rsp ssp k a b c) := fun hw h => by
  obtain ⟨q, hq, -⟩ := afterBits_high aft
  have e1 : afterBits aft + rsp.val * 32768 + ssp.val * 4096 + c.val = afterBits aft + (rsp.val * 32768 + ssp.val * 4096 + c.val) := by omega
  refine rt64 (w := w.val) (b := b.val) (a := a.val) (d := k.val) (op := 65) (w1 := afterBits aft + rsp.val * 32768 + ssp.val * 4096 + c.val) rfl rfl rfl (by omega) (by omega) (by omega) (by omega) (by omega) rfl hw (fun _ h => nomatch h) rfl ((dec64_coll _ _ _ _ _ _ _ (by decide)).trans rfl) ?_ ?_ ?_ (.inr rfl) (.inl rfl) ?_
  · first | rfl | (simp <;> omega)
  · (simp only [e1, afterOk_bits _ _ (show rsp.val * 32768 + ssp.val * 4096 + c.val < 262144 by omega), Bool.true_and, beq_iff_eq, Bool.and_eq_true, bits]) <;> omega
  · rfl
  · refine congrArg Except.ok ?_
    simp only [e1, afterOf_bits _ _ (show rsp.val * 32768 + ssp.val * 4096 + c.val < 262144 by omega), Enc.rndOf_pfx, fin_ofNat_val]
    try (congr 1 <;> first | rfl | exact imm52_low _ imm rfl | (apply fin_of_eq; simp only [bits]; omega) | (apply bool_of_eq; simp only [bits]; omega))

theorem RoundTrip.collAg (w : Fin 4) (aft : After) (rsp : Fin 8) (ssp : Fin 8) (k : Fin 16) (a : Fin 32) (b : Fin 32) (c : Fin 32) : RoundTrip.Statement (.collAg w aft rsp ssp k a b c) := fun hw h => by
  obtain ⟨q, hq, -⟩ := afterBits_high aft
  have e1 : afterBits aft + rsp.val * 32768 + ssp.val * 4096 + c.val = afterBits aft + (rsp.val * 32768 + ssp.val * 4096 + c.val) := by omega
  refine rt64 (w := w.val) (b := b.val) (a := a.val) (d := k.val) (op := 66) (w1 := afterBits aft + rsp.val * 32768 + ssp.val * 4096 + c.val) rfl rfl rfl (by omega) (by omega) (by omega) (by omega) (by omega) rfl rfl (fun _ h => nomatch h) rfl ((dec64_coll _ _ _ _ _ _ _ (by decide)).trans rfl) ?_ ?_ ?_ (.inl rfl) (.inl rfl) ?_
  · first | rfl | (simp <;> omega)
  · (simp only [e1, afterOk_bits _ _ (show rsp.val * 32768 + ssp.val * 4096 + c.val < 262144 by omega), Bool.true_and, beq_iff_eq, Bool.and_eq_true, bits]) <;> omega
  · rfl
  · refine congrArg Except.ok ?_
    simp only [e1, afterOf_bits _ _ (show rsp.val * 32768 + ssp.val * 4096 + c.val < 262144 by omega), Enc.rndOf_pfx, fin_ofNat_val]
    try (congr 1 <;> first | rfl | exact imm52_low _ imm rfl | (apply fin_of_eq; simp only [bits]; omega) | (apply bool_of_eq; simp only [bits]; omega))

theorem RoundTrip.collA2a (w : Fin 4) (aft : After) (rsp : Fin 8) (ssp : Fin 8) (k : Fin 16) (a : Fin 32) (b : Fin 32) (c : Fin 32) : RoundTrip.Statement (.collA2a w aft rsp ssp k a b c) := fun hw h => by
  obtain ⟨q, hq, -⟩ := afterBits_high aft
  have e1 : afterBits aft + rsp.val * 32768 + ssp.val * 4096 + c.val = afterBits aft + (rsp.val * 32768 + ssp.val * 4096 + c.val) := by omega
  refine rt64 (w := w.val) (b := b.val) (a := a.val) (d := k.val) (op := 67) (w1 := afterBits aft + rsp.val * 32768 + ssp.val * 4096 + c.val) rfl rfl rfl (by omega) (by omega) (by omega) (by omega) (by omega) rfl rfl (fun _ h => nomatch h) rfl ((dec64_coll _ _ _ _ _ _ _ (by decide)).trans rfl) ?_ ?_ ?_ (.inl rfl) (.inl rfl) ?_
  · first | rfl | (simp <;> omega)
  · (simp only [e1, afterOk_bits _ _ (show rsp.val * 32768 + ssp.val * 4096 + c.val < 262144 by omega), Bool.true_and, beq_iff_eq, Bool.and_eq_true, bits]) <;> omega
  · rfl
  · refine congrArg Except.ok ?_
    simp only [e1, afterOf_bits _ _ (show rsp.val * 32768 + ssp.val * 4096 + c.val < 262144 by omega), Enc.rndOf_pfx, fin_ofNat_val]
    try (congr 1 <;> first | rfl | exact imm52_low _ imm rfl | (apply fin_of_eq; simp only [bits]; omega) | (apply bool_of_eq; simp only [bits]; omega))

theorem RoundTrip.collBc (w : Fin 4) (aft : After) (rsp : Fin 8) (ssp : Fin 8) (k : Fin 16) (a : Fin 32) (b : Fin 32) (c : Fin 32) : RoundTrip.Statement (.collBc w aft rsp ssp k a b c) := fun hw h => by
  obtain ⟨q, hq, -⟩ := afterBits_high aft
  have e1 : afterBits aft + rsp.val * 32768 + ssp.val * 4096 + c.val = afterBits aft + (rsp.val * 32768 + ssp.val * 4096 + c.val) := by omega
  refine rt64 (w := w.val) (b := b.val) (a := a.val) (d := k.val) (op := 68) (w1 := afterBits aft + rsp.val * 32768 + ssp.val * 4096 + c.val) rfl rfl rfl (by omega) (by omega) (by omega) (by omega) (by omega) rfl rfl (fun _ h => nomatch h) rfl ((dec64_coll _ _ _ _ _ _ _ (by decide)).trans rfl) ?_ ?_ ?_ (.inl rfl) (.inl rfl) ?_
  · first | rfl | (simp <;> omega)
  · (simp only [e1, afterOk_bits _ _ (show rsp.val * 32768 + ssp.val * 4096 + c.val < 262144 by omega), Bool.true_and, beq_iff_eq, Bool.and_eq_true, bits]) <;> omega
  · rfl
  · refine congrArg Except.ok ?_
    simp only [e1, afterOf_bits _ _ (show rsp.val * 32768 + ssp.val * 4096 + c.val < 262144 by omega), Enc.rndOf_pfx, fin_ofNat_val]
    try (congr 1 <;> first | rfl | exact imm52_low _ imm rfl | (apply fin_of_eq; simp only [bits]; omega) | (apply bool_of_eq; simp only [bits]; omega))

theorem RoundTrip.wait (k : Fin 16) : RoundTrip.Statement (.wait k) := fun hw h => by
  refine rt64 (w := 0) (b := 0) (a := k.val) (d := 0) (op := 80) (w1 := 0) rfl rfl rfl (by omega) (by omega) (by omega) (by omega) (by omega) rfl rfl (fun _ h => nomatch h) rfl ((dec64_token _ _ _ _ _ _ _ (by decide)).trans rfl) ?_ ?_ ?_ (.inl rfl) (.inl rfl) ?_
  · first | rfl | (simp <;> omega)
  · simp [bits] <;> omega
  · rfl
  · refine congrArg Except.ok ?_
    try simp only [Enc.rndOf_pfx, fin_ofNat_val]
    try (congr 1 <;> first | rfl | exact imm52_low _ imm rfl | (apply fin_of_eq; simp only [bits]; omega) | (apply bool_of_eq; simp only [bits]; omega) | (apply bitvec_of_eq; simp only [bits]; omega))

theorem RoundTrip.waitm (mask : BitVec 16) : RoundTrip.Statement (.waitm mask) := fun hw h => by
  have := mask.isLt
  refine rt64 (w := 0) (b := 0) (a := 0) (d := 0) (op := 81) (w1 := mask.toNat * 32) rfl rfl rfl (by omega) (by omega) (by omega) (by omega) (by omega) rfl rfl (fun _ h => nomatch h) rfl ((dec64_token _ _ _ _ _ _ _ (by decide)).trans rfl) ?_ ?_ ?_ (.inl rfl) (.inl rfl) ?_
  · first | rfl | (simp <;> omega)
  · simp [bits] <;> omega
  · rfl
  · refine congrArg Except.ok ?_
    try simp only [Enc.rndOf_pfx, fin_ofNat_val]
    try (congr 1 <;> first | rfl | exact imm52_low _ imm rfl | (apply fin_of_eq; simp only [bits]; omega) | (apply bool_of_eq; simp only [bits]; omega) | (apply bitvec_of_eq; simp only [bits]; omega))

theorem RoundTrip.cancel (k : Fin 16) : RoundTrip.Statement (.cancel k) := fun hw h => by
  refine rt64 (w := 0) (b := 0) (a := k.val) (d := 0) (op := 82) (w1 := 0) rfl rfl rfl (by omega) (by omega) (by omega) (by omega) (by omega) rfl rfl (fun _ h => nomatch h) rfl ((dec64_token _ _ _ _ _ _ _ (by decide)).trans rfl) ?_ ?_ ?_ (.inl rfl) (.inl rfl) ?_
  · first | rfl | (simp <;> omega)
  · simp [bits] <;> omega
  · rfl
  · refine congrArg Except.ok ?_
    try simp only [Enc.rndOf_pfx, fin_ofNat_val]
    try (congr 1 <;> first | rfl | exact imm52_low _ imm rfl | (apply fin_of_eq; simp only [bits]; omega) | (apply bool_of_eq; simp only [bits]; omega) | (apply bitvec_of_eq; simp only [bits]; omega))

theorem RoundTrip.detach (k : Fin 16) (b : Fin 32) (c : Fin 32) : RoundTrip.Statement (.detach k b c) := fun hw h => by
  refine rt64 (w := 0) (b := b.val) (a := k.val) (d := 0) (op := 83) (w1 := c.val) rfl rfl rfl (by omega) (by omega) (by omega) (by omega) (by omega) rfl rfl (fun _ h => nomatch h) rfl ((dec64_token _ _ _ _ _ _ _ (by decide)).trans rfl) ?_ ?_ ?_ (.inl rfl) (.inl rfl) ?_
  · first | rfl | (simp <;> omega)
  · simp [bits] <;> omega
  · rfl
  · refine congrArg Except.ok ?_
    try simp only [Enc.rndOf_pfx, fin_ofNat_val]
    try (congr 1 <;> first | rfl | exact imm52_low _ imm rfl | (apply fin_of_eq; simp only [bits]; omega) | (apply bool_of_eq; simp only [bits]; omega) | (apply bitvec_of_eq; simp only [bits]; omega))

theorem RoundTrip.adopt (k : Fin 16) (a : Fin 32) : RoundTrip.Statement (.adopt k a) := fun hw h => by
  refine rt64 (w := 0) (b := 0) (a := a.val) (d := k.val) (op := 84) (w1 := 0) rfl rfl rfl (by omega) (by omega) (by omega) (by omega) (by omega) rfl rfl (fun _ h => nomatch h) rfl ((dec64_token _ _ _ _ _ _ _ (by decide)).trans rfl) ?_ ?_ ?_ (.inl rfl) (.inl rfl) ?_
  · first | rfl | (simp <;> omega)
  · simp [bits] <;> omega
  · rfl
  · refine congrArg Except.ok ?_
    try simp only [Enc.rndOf_pfx, fin_ofNat_val]
    try (congr 1 <;> first | rfl | exact imm52_low _ imm rfl | (apply fin_of_eq; simp only [bits]; omega) | (apply bool_of_eq; simp only [bits]; omega) | (apply bitvec_of_eq; simp only [bits]; omega))

theorem RoundTrip.kprio (k : Fin 16) (b : Fin 32) : RoundTrip.Statement (.kprio k b) := fun hw h => by
  refine rt64 (w := 0) (b := b.val) (a := k.val) (d := 0) (op := 85) (w1 := 0) rfl rfl rfl (by omega) (by omega) (by omega) (by omega) (by omega) rfl rfl (fun _ h => nomatch h) rfl ((dec64_token _ _ _ _ _ _ _ (by decide)).trans rfl) ?_ ?_ ?_ (.inl rfl) (.inl rfl) ?_
  · first | rfl | (simp <;> omega)
  · simp [bits] <;> omega
  · rfl
  · refine congrArg Except.ok ?_
    try simp only [Enc.rndOf_pfx, fin_ofNat_val]
    try (congr 1 <;> first | rfl | exact imm52_low _ imm rfl | (apply fin_of_eq; simp only [bits]; omega) | (apply bool_of_eq; simp only [bits]; omega) | (apply bitvec_of_eq; simp only [bits]; omega))

theorem RoundTrip.kstat (d : Fin 32) (k : Fin 16) : RoundTrip.Statement (.kstat d k) := fun hw h => by
  refine rt64 (w := 0) (b := 0) (a := k.val) (d := d.val) (op := 86) (w1 := 0) rfl rfl rfl (by omega) (by omega) (by omega) (by omega) (by omega) rfl rfl (fun _ h => nomatch h) rfl ((dec64_token _ _ _ _ _ _ _ (by decide)).trans rfl) ?_ ?_ ?_ (.inl rfl) (.inl rfl) ?_
  · first | rfl | (simp <;> omega)
  · simp [bits] <;> omega
  · rfl
  · refine congrArg Except.ok ?_
    try simp only [Enc.rndOf_pfx, fin_ofNat_val]
    try (congr 1 <;> first | rfl | exact imm52_low _ imm rfl | (apply fin_of_eq; simp only [bits]; omega) | (apply bool_of_eq; simp only [bits]; omega) | (apply bitvec_of_eq; simp only [bits]; omega))

theorem RoundTrip.kmov (d : Fin 16) (a : Fin 16) : RoundTrip.Statement (.kmov d a) := fun hw h => by
  refine rt64 (w := 0) (b := 0) (a := a.val) (d := d.val) (op := 87) (w1 := 0) rfl rfl rfl (by omega) (by omega) (by omega) (by omega) (by omega) rfl rfl (fun _ h => nomatch h) rfl ((dec64_token _ _ _ _ _ _ _ (by decide)).trans rfl) ?_ ?_ ?_ (.inl rfl) (.inl rfl) ?_
  · first | rfl | (simp <;> omega)
  · simp [bits] <;> omega
  · rfl
  · refine congrArg Except.ok ?_
    try simp only [Enc.rndOf_pfx, fin_ofNat_val]
    try (congr 1 <;> first | rfl | exact imm52_low _ imm rfl | (apply fin_of_eq; simp only [bits]; omega) | (apply bool_of_eq; simp only [bits]; omega) | (apply bitvec_of_eq; simp only [bits]; omega))

theorem RoundTrip.vfmaF32 (rnd : Option Rnd) (d : Fin 32) (a : Fin 32) (b : Fin 32) (c : Fin 32) : RoundTrip.Statement (.vfmaF32 rnd d a b c) := fun hw h => by
  refine rt64 (w := 0) (b := b.val) (a := a.val) (d := d.val) (op := 96) (w1 := c.val) rfl rfl rfl (by omega) (by omega) (by omega) (by omega) (by omega) rfl hw (fun _ h => nomatch h) rfl ((dec64_misc _ _ _ _ _ _ _ (by decide)).trans rfl) ?_ ?_ ?_ (.inr rfl) (.inl rfl) ?_
  · first | rfl | (simp <;> omega)
  · simp [bits] <;> omega
  · rfl
  · refine congrArg Except.ok ?_
    try simp only [Enc.rndOf_pfx, fin_ofNat_val]
    try (congr 1 <;> first | rfl | exact imm52_low _ imm rfl | (apply fin_of_eq; simp only [bits]; omega) | (apply bool_of_eq; simp only [bits]; omega) | (apply bitvec_of_eq; simp only [bits]; omega))

theorem RoundTrip.vfnmaF32 (rnd : Option Rnd) (d : Fin 32) (a : Fin 32) (b : Fin 32) (c : Fin 32) : RoundTrip.Statement (.vfnmaF32 rnd d a b c) := fun hw h => by
  refine rt64 (w := 0) (b := b.val) (a := a.val) (d := d.val) (op := 97) (w1 := c.val) rfl rfl rfl (by omega) (by omega) (by omega) (by omega) (by omega) rfl hw (fun _ h => nomatch h) rfl ((dec64_misc _ _ _ _ _ _ _ (by decide)).trans rfl) ?_ ?_ ?_ (.inr rfl) (.inl rfl) ?_
  · first | rfl | (simp <;> omega)
  · simp [bits] <;> omega
  · rfl
  · refine congrArg Except.ok ?_
    try simp only [Enc.rndOf_pfx, fin_ofNat_val]
    try (congr 1 <;> first | rfl | exact imm52_low _ imm rfl | (apply fin_of_eq; simp only [bits]; omega) | (apply bool_of_eq; simp only [bits]; omega) | (apply bitvec_of_eq; simp only [bits]; omega))

theorem RoundTrip.vfmaI32 (d : Fin 32) (a : Fin 32) (b : Fin 32) (c : Fin 32) : RoundTrip.Statement (.vfmaI32 d a b c) := fun hw h => by
  refine rt64 (w := 0) (b := b.val) (a := a.val) (d := d.val) (op := 98) (w1 := c.val) rfl rfl rfl (by omega) (by omega) (by omega) (by omega) (by omega) rfl rfl (fun _ h => nomatch h) rfl ((dec64_misc _ _ _ _ _ _ _ (by decide)).trans rfl) ?_ ?_ ?_ (.inl rfl) (.inl rfl) ?_
  · first | rfl | (simp <;> omega)
  · simp [bits] <;> omega
  · rfl
  · refine congrArg Except.ok ?_
    try simp only [Enc.rndOf_pfx, fin_ofNat_val]
    try (congr 1 <;> first | rfl | exact imm52_low _ imm rfl | (apply fin_of_eq; simp only [bits]; omega) | (apply bool_of_eq; simp only [bits]; omega) | (apply bitvec_of_eq; simp only [bits]; omega))

theorem RoundTrip.ack : RoundTrip.Statement .ack := fun hw => absurd hw Bool.false_ne_true

theorem RoundTrip.refuse : RoundTrip.Statement .refuse := fun hw => absurd hw Bool.false_ne_true

theorem RoundTrip.wake : RoundTrip.Statement .wake := fun hw => absurd hw Bool.false_ne_true

theorem RoundTrip.data : RoundTrip.Statement .data := fun hw => absurd hw Bool.false_ne_true

theorem RoundTrip.postedRefusalTrap : RoundTrip.Statement .postedRefusalTrap := fun hw => absurd hw Bool.false_ne_true

theorem RoundTrip.pageFaultRepair : RoundTrip.Statement .pageFaultRepair := fun hw => absurd hw Bool.false_ne_true

theorem RoundTrip.resume : RoundTrip.Statement .resume := fun hw => absurd hw Bool.false_ne_true

theorem RoundTrip.operationReply : RoundTrip.Statement .operationReply := fun hw => absurd hw Bool.false_ne_true

theorem RoundTrip.redirectAcknowledgement : RoundTrip.Statement .redirectAcknowledgement := fun hw => absurd hw Bool.false_ne_true

theorem RoundTrip.eddyMerge : RoundTrip.Statement .eddyMerge := fun hw => absurd hw Bool.false_ne_true

theorem RoundTrip.apply : RoundTrip.Statement .apply := fun hw => absurd hw Bool.false_ne_true

theorem RoundTrip.invalidationComplete : RoundTrip.Statement .invalidationComplete := fun hw => absurd hw Bool.false_ne_true

theorem RoundTrip.evaluate : RoundTrip.Statement .evaluate := fun hw => absurd hw Bool.false_ne_true

theorem RoundTrip.frozenReadEvaluate : RoundTrip.Statement .frozenReadEvaluate := fun hw => absurd hw Bool.false_ne_true

theorem RoundTrip.landingApply : RoundTrip.Statement .landingApply := fun hw => absurd hw Bool.false_ne_true

theorem RoundTrip.armSequencerMacro : RoundTrip.Statement .armSequencerMacro := fun hw => absurd hw Bool.false_ne_true

theorem RoundTrip.retentionEntry : RoundTrip.Statement .retentionEntry := fun hw => absurd hw Bool.false_ne_true

theorem RoundTrip.engineMessageArrival : RoundTrip.Statement .engineMessageArrival := fun hw => absurd hw Bool.false_ne_true

theorem RoundTrip.operationStart : RoundTrip.Statement .operationStart := fun hw => absurd hw Bool.false_ne_true

theorem RoundTrip.cancelArrival : RoundTrip.Statement .cancelArrival := fun hw => absurd hw Bool.false_ne_true

theorem RoundTrip.matrixUnit : RoundTrip.Statement .matrixUnit := fun hw => absurd hw Bool.false_ne_true

theorem RoundTrip.copyStrip : RoundTrip.Statement .copyStrip := fun hw => absurd hw Bool.false_ne_true

theorem RoundTrip.streamStrip : RoundTrip.Statement .streamStrip := fun hw => absurd hw Bool.false_ne_true

theorem RoundTrip.cpyrRequest : RoundTrip.Statement .cpyrRequest := fun hw => absurd hw Bool.false_ne_true

theorem RoundTrip.readyToReceive : RoundTrip.Statement .readyToReceive := fun hw => absurd hw Bool.false_ne_true

theorem RoundTrip.remoteCopyStrip : RoundTrip.Statement .remoteCopyStrip := fun hw => absurd hw Bool.false_ne_true

theorem RoundTrip.collectiveBlock : RoundTrip.Statement .collectiveBlock := fun hw => absurd hw Bool.false_ne_true

theorem RoundTrip.bankcallMessage : RoundTrip.Statement .bankcallMessage := fun hw => absurd hw Bool.false_ne_true

theorem RoundTrip.bankRowUnit : RoundTrip.Statement .bankRowUnit := fun hw => absurd hw Bool.false_ne_true

theorem RoundTrip.buseg : RoundTrip.Statement .buseg := fun hw => absurd hw Bool.false_ne_true

theorem RoundTrip.ordinaryAccessArrival : RoundTrip.Statement .ordinaryAccessArrival := fun hw => absurd hw Bool.false_ne_true

theorem RoundTrip.buSuspend : RoundTrip.Statement .buSuspend := fun hw => absurd hw Bool.false_ne_true

theorem RoundTrip.ordinaryPhaseEnd : RoundTrip.Statement .ordinaryPhaseEnd := fun hw => absurd hw Bool.false_ne_true

theorem RoundTrip.rfm : RoundTrip.Statement .rfm := fun hw => absurd hw Bool.false_ne_true

theorem RoundTrip.stackAlert : RoundTrip.Statement .stackAlert := fun hw => absurd hw Bool.false_ne_true

theorem RoundTrip.modeSwitchNormal : RoundTrip.Statement .modeSwitchNormal := fun hw => absurd hw Bool.false_ne_true

theorem RoundTrip.modeSwitchNearBank : RoundTrip.Statement .modeSwitchNearBank := fun hw => absurd hw Bool.false_ne_true

theorem RoundTrip.modeSwitchComplete : RoundTrip.Statement .modeSwitchComplete := fun hw => absurd hw Bool.false_ne_true

theorem RoundTrip.controlStoreLoad : RoundTrip.Statement .controlStoreLoad := fun hw => absurd hw Bool.false_ne_true

theorem RoundTrip.handlerDispatch : RoundTrip.Statement .handlerDispatch := fun hw => absurd hw Bool.false_ne_true

theorem RoundTrip.messageForward : RoundTrip.Statement .messageForward := fun hw => absurd hw Bool.false_ne_true

theorem RoundTrip.launchEntryProcess : RoundTrip.Statement .launchEntryProcess := fun hw => absurd hw Bool.false_ne_true

theorem RoundTrip.queueBind : RoundTrip.Statement .queueBind := fun hw => absurd hw Bool.false_ne_true

theorem RoundTrip.gateWake : RoundTrip.Statement .gateWake := fun hw => absurd hw Bool.false_ne_true

theorem RoundTrip.placement : RoundTrip.Statement .placement := fun hw => absurd hw Bool.false_ne_true

theorem RoundTrip.levelConfinementExpiry : RoundTrip.Statement .levelConfinementExpiry := fun hw => absurd hw Bool.false_ne_true

theorem RoundTrip.gangPlacement : RoundTrip.Statement .gangPlacement := fun hw => absurd hw Bool.false_ne_true

theorem RoundTrip.coreReturn : RoundTrip.Statement .coreReturn := fun hw => absurd hw Bool.false_ne_true

theorem RoundTrip.preemption : RoundTrip.Statement .preemption := fun hw => absurd hw Bool.false_ne_true

theorem RoundTrip.drainComplete : RoundTrip.Statement .drainComplete := fun hw => absurd hw Bool.false_ne_true

theorem RoundTrip.streamComplete : RoundTrip.Statement .streamComplete := fun hw => absurd hw Bool.false_ne_true

theorem RoundTrip.restore : RoundTrip.Statement .restore := fun hw => absurd hw Bool.false_ne_true

theorem RoundTrip.threadMove : RoundTrip.Statement .threadMove := fun hw => absurd hw Bool.false_ne_true

theorem RoundTrip.migration : RoundTrip.Statement .migration := fun hw => absurd hw Bool.false_ne_true

theorem RoundTrip.coreEmptyRequest : RoundTrip.Statement .coreEmptyRequest := fun hw => absurd hw Bool.false_ne_true

theorem RoundTrip.coreReturnToService : RoundTrip.Statement .coreReturnToService := fun hw => absurd hw Bool.false_ne_true

theorem RoundTrip.pageMove : RoundTrip.Statement .pageMove := fun hw => absurd hw Bool.false_ne_true

theorem RoundTrip.quiescenceSweep : RoundTrip.Statement .quiescenceSweep := fun hw => absurd hw Bool.false_ne_true

theorem RoundTrip.contextComplete : RoundTrip.Statement .contextComplete := fun hw => absurd hw Bool.false_ne_true

theorem RoundTrip.contextStopped : RoundTrip.Statement .contextStopped := fun hw => absurd hw Bool.false_ne_true

theorem RoundTrip.contextFaultRecord : RoundTrip.Statement .contextFaultRecord := fun hw => absurd hw Bool.false_ne_true

theorem RoundTrip.breakpoint : RoundTrip.Statement .breakpoint := fun hw => absurd hw Bool.false_ne_true

theorem RoundTrip.haltGroupStop : RoundTrip.Statement .haltGroupStop := fun hw => absurd hw Bool.false_ne_true

theorem RoundTrip.haltGroupRun : RoundTrip.Statement .haltGroupRun := fun hw => absurd hw Bool.false_ne_true

theorem RoundTrip.haltGroupStep : RoundTrip.Statement .haltGroupStep := fun hw => absurd hw Bool.false_ne_true

theorem RoundTrip.debugRegisterWrite : RoundTrip.Statement .debugRegisterWrite := fun hw => absurd hw Bool.false_ne_true

theorem RoundTrip.queueEnable : RoundTrip.Statement .queueEnable := fun hw => absurd hw Bool.false_ne_true

theorem RoundTrip.queueDisable : RoundTrip.Statement .queueDisable := fun hw => absurd hw Bool.false_ne_true

theorem RoundTrip.queueClose : RoundTrip.Statement .queueClose := fun hw => absurd hw Bool.false_ne_true

theorem RoundTrip.notify : RoundTrip.Statement .notify := fun hw => absurd hw Bool.false_ne_true

theorem RoundTrip.windowEnable : RoundTrip.Statement .windowEnable := fun hw => absurd hw Bool.false_ne_true

theorem RoundTrip.windowClose : RoundTrip.Statement .windowClose := fun hw => absurd hw Bool.false_ne_true

theorem RoundTrip.registerWrite : RoundTrip.Statement .registerWrite := fun hw => absurd hw Bool.false_ne_true

theorem RoundTrip.create : RoundTrip.Statement .create := fun hw => absurd hw Bool.false_ne_true

theorem RoundTrip.release : RoundTrip.Statement .release := fun hw => absurd hw Bool.false_ne_true

theorem RoundTrip.scrubComplete : RoundTrip.Statement .scrubComplete := fun hw => absurd hw Bool.false_ne_true

theorem RoundTrip.seal : RoundTrip.Statement .seal := fun hw => absurd hw Bool.false_ne_true

theorem RoundTrip.sealComplete : RoundTrip.Statement .sealComplete := fun hw => absurd hw Bool.false_ne_true

theorem RoundTrip.auditread : RoundTrip.Statement .auditread := fun hw => absurd hw Bool.false_ne_true

theorem RoundTrip.hostWrite : RoundTrip.Statement .hostWrite := fun hw => absurd hw Bool.false_ne_true

theorem RoundTrip.hostRead : RoundTrip.Statement .hostRead := fun hw => absurd hw Bool.false_ne_true

theorem RoundTrip.keyLoad : RoundTrip.Statement .keyLoad := fun hw => absurd hw Bool.false_ne_true

theorem RoundTrip.getVersion : RoundTrip.Statement .getVersion := fun hw => absurd hw Bool.false_ne_true

theorem RoundTrip.getCapabilities : RoundTrip.Statement .getCapabilities := fun hw => absurd hw Bool.false_ne_true

theorem RoundTrip.negotiateAlgorithms : RoundTrip.Statement .negotiateAlgorithms := fun hw => absurd hw Bool.false_ne_true

theorem RoundTrip.getDigests : RoundTrip.Statement .getDigests := fun hw => absurd hw Bool.false_ne_true

theorem RoundTrip.getCertificate : RoundTrip.Statement .getCertificate := fun hw => absurd hw Bool.false_ne_true

theorem RoundTrip.challenge : RoundTrip.Statement .challenge := fun hw => absurd hw Bool.false_ne_true

theorem RoundTrip.getMeasurements : RoundTrip.Statement .getMeasurements := fun hw => absurd hw Bool.false_ne_true

theorem RoundTrip.keyExchange : RoundTrip.Statement .keyExchange := fun hw => absurd hw Bool.false_ne_true

theorem RoundTrip.finish : RoundTrip.Statement .finish := fun hw => absurd hw Bool.false_ne_true

theorem RoundTrip.endSession : RoundTrip.Statement .endSession := fun hw => absurd hw Bool.false_ne_true

theorem RoundTrip.deviceReset : RoundTrip.Statement .deviceReset := fun hw => absurd hw Bool.false_ne_true

theorem RoundTrip.linkBringup : RoundTrip.Statement .linkBringup := fun hw => absurd hw Bool.false_ne_true

theorem RoundTrip.flitReceive : RoundTrip.Statement .flitReceive := fun hw => absurd hw Bool.false_ne_true

theorem RoundTrip.linkKeyReplace : RoundTrip.Statement .linkKeyReplace := fun hw => absurd hw Bool.false_ne_true

theorem RoundTrip.laneSpare : RoundTrip.Statement .laneSpare := fun hw => absurd hw Bool.false_ne_true

theorem RoundTrip.linkRetrainComplete : RoundTrip.Statement .linkRetrainComplete := fun hw => absurd hw Bool.false_ne_true

theorem RoundTrip.redirect : RoundTrip.Statement .redirect := fun hw => absurd hw Bool.false_ne_true

theorem RoundTrip.writeBackComplete : RoundTrip.Statement .writeBackComplete := fun hw => absurd hw Bool.false_ne_true

theorem RoundTrip.replicaCreate : RoundTrip.Statement .replicaCreate := fun hw => absurd hw Bool.false_ne_true

theorem RoundTrip.throttling : RoundTrip.Statement .throttling := fun hw => absurd hw Bool.false_ne_true

theorem RoundTrip.functionLevelReset : RoundTrip.Statement .functionLevelReset := fun hw => absurd hw Bool.false_ne_true

end Sys2Proof.Laws
end

