-- ==== Sys2Proof/Safety.lean ====
section
/-! DEFINITION. What counts as a well-kept state and a safe step, and the frames of instructions, in the terms that
statements use. -/

namespace Sys2Proof.Machine

/-- Every memory of a hart is in canonical form. -/
def Hart.memWf (h : Hart) : Bool :=
  Mem.wf h.r.imem && Mem.wf h.r.dmem && Mem.wf h.t.scr.w && Mem.wf h.t.scr.a && Mem.wf h.t.scr.c

/-- Every memory of the machine is in canonical form: DRAM, the host's memory, the views and memories of every hart, and the
views that exited gang members leave. -/
structure Canonical (s : State) : Prop where
  mem : Mem.wf s.mem = true
  host : Mem.wf s.dev.host = true
  h : s.h.memWf = true
  harts : ∀ h, h ∈ s.harts → h.memWf = true
  past : ∀ g, g ∈ s.work.gangs → ∀ x, x ∈ g.past → Mem.wf x.w = true ∧ Mem.wf x.a = true

/-- Whether an answer of a step is a next state. -/
def isNext (o : Out) : Bool :=
  match o with
  | .next _ => true
  | .fault _ => false
  | .refused _ => false

/-- A property of the next state, if there is one. -/
def afterNext (p : State → Prop) (o : Out) : Prop := ∀ t, o = .next t → p t

/-- The answer is a next state with a property. -/
def Answers (o : Out) (p : State → Prop) : Prop := ∃ t, o = .next t ∧ p t

/-! ## Frames -/

/-- Every byte of DRAM reads as before. -/
def SameMem (s t : State) : Prop := ∀ a, Mem.read t.mem a = Mem.read s.mem a

/-- What stands outside the issuing hart is as before: DRAM, the lattice, work, the device and the other harts. -/
structure SameWorld (s t : State) : Prop where
  mem : SameMem s t
  lat : t.lat = s.lat
  work : t.work = s.work
  dev : t.dev = s.dev
  harts : t.harts = s.harts
  free : t.free = s.free

/-- What a register-only instruction leaves of the issuing hart beside its registers: its name, its task, its journal and
posted counters, its scratchpad, its range locks, and its rill-core part. -/
structure SameHart (s t : State) : Prop where
  id : t.h.id = s.h.id
  task : t.h.t.task = s.h.t.task
  post : t.h.t.post = s.h.t.post
  scr : t.h.t.scr = s.h.t.scr
  rlt : t.h.t.rlt = s.h.t.rlt
  hist : t.h.t.hist = s.h.t.hist
  rill : t.h.r = s.h.r
  board : t.h.board = s.h.board

/-- The control registers that only WRC, a trap or ERET writes are as before: all but c.fflags and the loop registers
(Table 10.4). -/
structure SameCtl (s t : State) : Prop where
  rmode : t.h.ctl.rmode = s.h.ctl.rmode
  chk : t.h.ctl.chk = s.h.ctl.chk
  sptr : t.h.ctl.sptr = s.h.ctl.sptr
  tvec : t.h.ctl.tvec = s.h.ctl.tvec
  tepc : t.h.ctl.tepc = s.h.ctl.tepc
  tcause : t.h.ctl.tcause = s.h.ctl.tcause
  taddr : t.h.ctl.taddr = s.h.ctl.taddr
  handler : t.h.ctl.h = s.h.ctl.h

/-- The frame of an instruction that touches registers only; the loop registers and the program counter may change (R256). -/
structure RegFrame (s t : State) : Prop where
  world : SameWorld s t
  hart : SameHart s t
  ctl : SameCtl s t

/-- The scalar registers after a write of `v` to `d`: x0 discards it (R224). -/
def XAfter (s t : State) (d : Fin 32) (v : Word) : Prop := ∀ r, t.x r = if r = d ∧ d ≠ 0 then v else s.x r

/-- The vector registers after a write of `v` to `d`. -/
def VAfter (s t : State) (d : Fin 32) (v : VWord) : Prop := ∀ r, t.v r = if r = d then v else s.v r

/-- The mask registers after a write of `v` to `d`: m0 is fixed (R272). -/
def MAfter (s t : State) (d : Fin 8) (v : MWord) : Prop := ∀ r, t.m r = if r = d ∧ d ≠ 0 then v else s.m r

/-- Every scalar register is as before. -/
def SameX (s t : State) : Prop := ∀ r, t.x r = s.x r

/-- Every vector register is as before. -/
def SameV (s t : State) : Prop := ∀ r, t.v r = s.v r

/-- Every mask register is as before. -/
def SameM (s t : State) : Prop := ∀ r, t.m r = s.m r

/-- Every token register is as before. -/
def SameK (s t : State) : Prop := ∀ r, t.k r = s.k r

/-- No pending register shows a value other than its result, and no pending result is to overwrite a later write (R233). -/
def Hart.Plain (h : Hart) : Prop := ∀ e, e ∈ h.board → e.held = none ∧ e.later = none

/-- A result of register `r` is pending at a distance of `n` from its last group (R232). -/
def Hart.Pends (h : Hart) (r : RegId) (n : Int) : Prop := ∃ e, e ∈ h.board ∧ e.reg = r ∧ e.left = n

/-- The flags after an instruction that raises `f` (R152): none is cleared. -/
def FlagsAfter (s t : State) (f : Word) : Prop := t.h.ctl.fflags = s.h.ctl.fflags ||| f

/-- No flag is raised. -/
def SameFlags (s t : State) : Prop := t.h.ctl.fflags = s.h.ctl.fflags

/-- A group that completes without a transfer of control: the pc and the loop registers are those of the end-of-body check of
R256, written out level by level. -/
def EndOfBody (s t : State) : Prop :=
  let c := s.h.ctl
  let e := t.h.ctl
  let npc := s.nextAddr
  let hit1 := c.lend1 ≠ 0 ∧ npc = c.lend1
  let hit0 := c.lend0 ≠ 0 ∧ npc = c.lend0
  (hit1 ∧ c.lcnt1 ≠ 0 → t.h.pc = c.lbeg1 ∧ e.lcnt1 = c.lcnt1 - 1 ∧ e.lend1 = c.lend1 ∧ e.lcnt0 = c.lcnt0 ∧ e.lend0 = c.lend0) ∧
  (¬ (hit1 ∧ c.lcnt1 ≠ 0) →
    e.lcnt1 = c.lcnt1 ∧ (e.lend1 = if hit1 then 0 else c.lend1) ∧
    (hit0 ∧ c.lcnt0 ≠ 0 → t.h.pc = c.lbeg0 ∧ e.lcnt0 = c.lcnt0 - 1 ∧ e.lend0 = c.lend0) ∧
    (hit0 ∧ c.lcnt0 = 0 → t.h.pc = npc ∧ e.lcnt0 = 0 ∧ e.lend0 = 0) ∧
    (¬ hit0 → t.h.pc = npc ∧ e.lcnt0 = c.lcnt0 ∧ e.lend0 = c.lend0)) ∧
  e.lbeg0 = c.lbeg0 ∧ e.lbeg1 = c.lbeg1

/-- A scalar instruction answers a next state that differs in register `d` alone, which holds `v`. -/
def WritesX (o : Out) (s : State) (d : Fin 32) (v : Word) : Prop :=
  Answers o fun t => XAfter s t d v ∧ SameV s t ∧ SameM s t ∧ SameK s t ∧ SameFlags s t ∧ RegFrame s t ∧ EndOfBody s t

/-- A scalar instruction answers a next state that differs in register `d`, which holds `v`, and in the flags `f` it raises. -/
def WritesXF (o : Out) (s : State) (d : Fin 32) (v : Word) (f : Word) : Prop :=
  Answers o fun t => XAfter s t d v ∧ SameV s t ∧ SameM s t ∧ SameK s t ∧ FlagsAfter s t f ∧ RegFrame s t ∧ EndOfBody s t

/-- A vector instruction answers a next state that differs in vector register `d`, which holds `v`, and in the flags `f`. -/
def WritesVF (o : Out) (s : State) (d : Fin 32) (v : VWord) (f : Word) : Prop :=
  Answers o fun t => VAfter s t d v ∧ SameX s t ∧ SameM s t ∧ SameK s t ∧ FlagsAfter s t f ∧ RegFrame s t ∧ EndOfBody s t

/-- A vector instruction answers a next state that differs in vector register `d` alone, whose 32-bit lane `i` holds `f i`. -/
def WritesLanes (o : Out) (s : State) (d : Fin 32) (f : Nat → Nat) : Prop :=
  Answers o fun t => (∀ i, i < 48 → lane 32 (t.v d) i = f i) ∧ (∀ r, r ≠ d → t.v r = s.v r) ∧ SameX s t ∧ SameM s t ∧ SameK s t
    ∧ SameFlags s t ∧ RegFrame s t ∧ EndOfBody s t

/-- A vector instruction answers a next state that differs in mask register `d` alone, whose bit `i` is `f i`; m0 is fixed. -/
def WritesMask (o : Out) (s : State) (d : Fin 8) (f : Nat → Bool) : Prop :=
  Answers o fun t => (d ≠ 0 → ∀ i, i < 48 → (t.m d).getLsbD i = f i) ∧ (∀ r, r ≠ d → t.m r = s.m r) ∧ t.m 0 = s.m 0
    ∧ SameX s t ∧ SameV s t ∧ SameK s t ∧ SameFlags s t ∧ RegFrame s t ∧ EndOfBody s t

/-- The numbers of the control registers that the issuing core's kind has (Table 10.4). -/
def State.hasCr (s : State) (n : Nat) : Prop :=
  n ≤ 2 ∨ (8 ≤ n ∧ n ≤ 0xC) ∨ (0x18 ≤ n ∧ n ≤ 0x1D) ∨
    (if s.h.isThread then n = 3 ∨ (0x10 ≤ n ∧ n ≤ 0x14) ∨ (0x40 ≤ n ∧ n ≤ 0x7F) else 0x100 ≤ n ∧ n ≤ 0x106)

/-- No register of the list is bound to a stream (R334). -/
def Unbound (s : State) (l : List (Fin 32)) : Prop := ∀ r, r ∈ l → s.stream? r = none

/-- The flags of a list of lane results that an instruction with settings `rnd` raises (R152). -/
def laneFlags (rnd : Option Rnd) (l : List (Nat × Flags)) : Word := (unmasked rnd (orFlags l)).zeroExtend 64

/-- The value that a 32-bit lane holds as a two's-complement number. -/
def lane32s (v : VWord) (i : Nat) : Int := (BitVec.ofNat 32 (lane 32 v i)).toInt

/-! ## Memory instructions -/

/-- The cluster cache of the issuing thread has room for the lines of one access, so that the access makes it give up none
(R1, log 7). -/
def State.cacheRoom (s : State) : Prop :=
  (s.lat.cache.filter (fun c => c.cluster == s.cluster)).length + 4 ≤ cacheLines

/-- The same for a read of `n` bytes (R307). -/
def State.fillRoom (s : State) (n : Nat) : Prop :=
  (s.lat.cache.filter (fun c => c.cluster == s.cluster)).length + n / 64 + 2 ≤ cacheLines

/-- DRAM holds the same as caches of the line of an address: no cache holds it otherwise (R104, R129). -/
def State.settled (s : State) (a : Nat) : Prop := ∀ d, d ∈ s.lat.dram → d.1 ≠ a / 64

/-- What a read of memory leaves of memory: every byte, unless the line of the byte is one that caches hold otherwise than DRAM
and the cache is full, so that it may give the line up (R83, R129). -/
structure LoadMem (s t : State) : Prop where
  room : s.cacheRoom → SameMem s t
  apart : ∀ a, s.settled a → Mem.read t.mem a = Mem.read s.mem a
  writeBacks : s.cacheRoom → t.lat.writeBacks = s.lat.writeBacks
  checks : t.lat.checks = s.lat.checks
  lost : t.lat.lost = s.lat.lost

/-- What a memory instruction leaves beside the bytes and registers it writes: only the TLBs, the cluster caches with what DRAM
holds beside them and the maintenance of their lines, the key checks and losses of the lines it stores to, and the thread's
program-order history may have changed (R29, R83, R90, R265). -/
structure MemFrame (s t : State) : Prop where
  lat : t.lat = { s.lat with
    tlb := t.lat.tlb, cache := t.lat.cache, dram := t.lat.dram, writeBacks := t.lat.writeBacks, checks := t.lat.checks
    lost := t.lat.lost }
  work : t.work = s.work
  dev : t.dev = s.dev
  harts : t.harts = s.harts
  free : t.free = s.free
  id : t.h.id = s.h.id
  task : t.h.t.task = s.h.t.task
  post : t.h.t.post = s.h.t.post
  rlt : t.h.t.rlt = s.h.t.rlt
  rill : t.h.r = s.h.r
  board : t.h.board = s.h.board
  ctl : SameCtl s t

/-- The result of translating a virtual address for an access of the issuing thread (R28). -/
def State.reaches (s : State) (va : Nat) (a : Acc) : TRes :=
  (s.translate (some s.coreId) (physDie s.phys) s.h.task.ctx s.h.task.num va a).2

/-- The core lets a posted access of the issuing thread go at once: it holds none before it, and the context does not stop (R33,
R398). -/
def State.letsGo (s : State) : Prop := s.h.t.post.later = [] ∧ s.isStopping s.h.task.ctx = false

/-- No cache fill of a read of `n` bytes at `pa` waits for DRAM (R106, R420). -/
def State.fills (s : State) (pa n : Nat) : Prop := s.fillWaits s.cluster pa n = false

/-- No cache fill and no write-back that a write of `n` bytes at `pa` needs waits for DRAM (R106, R420). -/
def State.stores (s : State) (pa n : Nat) : Prop := s.storeWaits s.cluster pa n = false

/-- Whether the issuing thread may read view bytes now (R41, R59, R61, R135). -/
def State.mayRead (s : State) (buf lo n : Nat) : Prop :=
  s.h.t.scr.inWindows buf lo n = true ∧ s.h.t.scr.onRing buf lo n = false ∧
    (∀ w, w ∈ s.h.t.scr.landings buf lo n → w.lstate ≠ .conflict ∧ w.lstate ≠ .growing) ∧
    lockJudge false (buf + 1) lo n s.locks = .ok

/-- Whether the issuing thread may write view bytes now (R41, R54, R59, R61, R135). -/
def State.mayWrite (s : State) (buf lo n : Nat) : Prop :=
  s.h.t.scr.inWindows buf lo n = true ∧ s.h.t.scr.onRing buf lo n = false ∧ s.h.t.scr.onArmed buf lo n = false ∧
    s.h.t.scr.landings buf lo n = [] ∧ lockJudge true (buf + 1) lo n s.locks = .ok

/-- The `n` bytes that a load of the issuing thread at a virtual address reads are `v`: of memory, or of a view through a raw
window (R296, Table 12.2); the core holds no access before it (R33). -/
def State.loads (s : State) (va n v : Nat) : Prop :=
  lockJudge false 0 va n s.locks = .ok ∧ s.h.t.post.later = [] ∧ ∃ l pa, s.reaches va .load = .ok l pa ∧
    ((l.kind ≠ 5 ∧ s.isLost pa n = false ∧ s.fills pa n ∧ v = Mem.readN s.mem pa n) ∨
     (l.kind = 5 ∧ winRaw l.win = true ∧ s.mayRead (winBuf l.win) (s.scrOffset va) n ∧
       v = Mem.readN (s.h.t.scr.view (winBuf l.win)) (s.scrOffset va) n))

/-- Every byte of a memory outside `n` bytes from `a` is as before. -/
def SameOutside (m m' : List Host.Cell) (a n : Nat) : Prop := ∀ b, (b < a ∨ a + n ≤ b) → Mem.read m' b = Mem.read m b

/-- No line of a range of memory is being written back or removed by CLEANR or INVALR (R265). -/
def State.settledRange (s : State) (pa n : Nat) : Prop :=
  ∀ w, w ∈ s.lat.writeBacks → ∀ x, x ∈ w.lines → x.1 < pa / 64 ∨ (pa + n - 1) / 64 < x.1

/-- `n` bytes of memory from `pa` hold `v` and every other byte is as before. Where a line stored to is being removed by INVALR,
the removal comes first, and the line's other bytes are then those of DRAM. When the cache is full, a line that it gives up may
change as a read may make it change, but neither a line that caches and DRAM hold alike nor one of those stored to. -/
structure StoreMem (s t : State) (pa n v : Nat) : Prop where
  holds : s.cacheRoom → Mem.readN t.mem pa n = v
  room : s.cacheRoom → s.settledRange pa n → SameOutside s.mem t.mem pa n ∧ t.lat.writeBacks = s.lat.writeBacks
  lines : s.cacheRoom → ∀ a, (a / 64 < pa / 64 ∨ (pa + n - 1) / 64 < a / 64) → Mem.read t.mem a = Mem.read s.mem a
  apart : ∀ a, s.settled a → (a / 64 < pa / 64 ∨ (pa + n - 1) / 64 < a / 64) → Mem.read t.mem a = Mem.read s.mem a

/-- The scratchpad is as before but for the bytes of one view. -/
def SameButView (s t : State) (buf : Nat) : Prop := t.h.t.scr = s.h.t.scr.setView buf (t.h.t.scr.view buf)

/-! ## Rill cores -/

/-- What a message instruction of a rill core leaves beside what its entry names: DRAM, the work, the other harts, the
control registers and every register file (R348). -/
structure RillFrame (s t : State) : Prop where
  mem : SameMem s t
  work : t.work = s.work
  dev : t.dev = s.dev
  harts : t.harts = s.harts
  free : t.free = s.free
  id : t.h.id = s.h.id
  ctl : SameCtl s t
  v : SameV s t
  m : SameM s t
  k : SameK s t

/-- An access of `n` bytes at `a` with alignment `al` lies in the data memory (R348). -/
def InData (a n al : Nat) : Prop := a % al = 0 ∧ a + n ≤ 0x40000

/-! ## Lattice instructions -/

/-- Whether a page and its address name a home for a lattice operation (R24, R114). -/
def State.homeOf (s : State) (l : Leaf) (pa va : Nat) : Option HomeAt :=
  if l.kind = 6 then
    match s.gangHome va with
    | .ok h => some h
    | .error _ => none
  else some (latHome s.phys l.ctype l.csize pa)

/-- A posted instruction completes with one message `r` to `d` on journal entry `e` (R113, R119, R121): the message carries the
class and locality of its home and the thread's next sequence number for it; the entry counts one reply with the home's scope, the
counter of the home's class one more, and the core knows one more message without a reply; no register, flag or byte of memory
changes. -/
structure Posts (s t : State) (e : Nat) (d : Dest) (r : LReq) : Prop where
  lat : t.lat = { s.lat with
    net := s.lat.net ++ [{ src := s.me, ctx := s.h.task.ctx, dest := d
                           body := .lat (r.stamp (s.homeNow d r.ty r.sz) d.home (s.h.t.post.seqOf d.home)) }]
    sent := bumpCount s.h.task.ctx s.lat.sent
    tlb := t.lat.tlb, cache := t.lat.cache, dram := t.lat.dram }
  entry : t.h.t.post.j.getD e {} = { v := true, pc := s.h.pc.toNat, out := 1, hscope := (s.homeNow d r.ty r.sz).scope }
  others : ∀ k, k ≠ e → t.h.t.post.j.getD k {} = s.h.t.post.j.getD k {}
  p : t.h.t.post.p = s.h.t.post.p + (if (s.homeNow d r.ty r.sz).cls = 1 then 1 else 0)
  f : t.h.t.post.f = s.h.t.post.f + (if (s.homeNow d r.ty r.sz).cls = 2 then 1 else 0)
  b : t.h.t.post.b = s.h.t.post.b + (if (s.homeNow d r.ty r.sz).cls = 3 then 1 else 0)
  sent : t.h.t.post.sent =
    s.h.t.post.sent ++ [{ dest := d, upd := r.kind.isUpdate, home := d.home, seq := s.h.t.post.seqOf d.home }]
  seqs : ∀ k, t.h.t.post.seqOf k = s.h.t.post.seqOf k + (if k = d.home then 1 else 0)
  later : t.h.t.post.later = []
  mem : SameMem s t
  work : t.work = s.work
  dev : t.dev = s.dev
  harts : t.harts = s.harts
  x : SameX s t
  v : SameV s t
  m : SameM s t
  k : SameK s t
  flags : SameFlags s t
  ctl : SameCtl s t
  scr : t.h.t.scr = s.h.t.scr
  stop : EndOfBody s t

/-- A thread parks on a read: the message has been sent with the thread's next sequence number for its home, and the group is held
until its answer comes (R81, R113). -/
structure Parks (s t : State) (h : HomeAt) (va : Nat) (r : LReq) : Prop where
  lat : t.lat = { s.lat with
    net := s.lat.net ++ [{ src := s.me, ctx := s.h.task.ctx, dest := h.dest, body := .lat (r.numbered s.h.t.post h) }]
    sent := bumpCount s.h.task.ctx s.lat.sent
    tlb := t.lat.tlb }
  stat : s.h.stat = .ready → t.h.stat = .waiting (.reply va)
  pc : t.h.pc = s.h.pc
  post : t.h.t.post = s.h.t.post.bumpSeq h.dest.home
  mem : SameMem s t
  x : SameX s t
  v : SameV s t
  m : SameM s t

/-- The pages of a range of virtual addresses, each translated for a lattice update by a TLB copy: LAT pages, in their order (R28,
R311). -/
def State.latPages (s : State) (hi : Nat) : Nat → List Leaf → Prop
  | lo, [] => hi ≤ lo
  | lo, l :: ls => l.va ≤ lo ∧ lo < hi ∧ lo < l.stop ∧ l.kind = 3 ∧
      s.translate (some s.coreId) (physDie s.phys) s.h.task.ctx s.h.task.num lo .latUpdate =
        (s, .ok l (l.pa + lo % pageBytes l.size)) ∧
      (∀ m, ls.head? = some m → m.va = l.stop) ∧ s.latPages hi l.stop ls

/-- The freeze units of some pages that meet a range, in ascending order of their pages and of themselves, each with its page
(R311). -/
def rangeUnits (hi : Nat) : Nat → List Leaf → List (Leaf × Nat)
  | _, [] => []
  | lo, l :: ls =>
    let b := unitBytes l.ctype l.csize
    let u0 := (l.pa + (lo - l.va)) / b
    let u1 := (l.pa + (min hi l.stop - 1 - l.va)) / b
    ((List.range (u1 + 1 - u0)).map fun k => (l, (u0 + k) * b)) ++ rangeUnits hi l.stop ls

/-- The sequence number of a message of the issuing thread to a destination, after messages to some others (R113). -/
def State.seqAfter (s : State) (before : List Dest) (d : Dest) : Nat :=
  s.h.t.post.seqOf d.home + (before.filter fun x => x.home == d.home).length

/-- One message of a posted instruction of the issuing thread, after those to some destinations (R113, R119). -/
def State.postedMsg (s : State) (before : List Dest) (d : Dest) (r : LReq) : Msg :=
  { src := s.me, ctx := s.h.task.ctx, dest := d, body := .lat (r.stamp (s.homeNow d r.ty r.sz) d.home (s.seqAfter before d)) }

/-! ## Engine instructions -/

/-- Whether an engine instruction with this AFTER field and these ranges passes the last checks before its issue: the PRI code, no
access that the core holds, four range-lock entries in all, no conflict with those of the thread, a token slot, and clear counters
(R33, Table 13.2, orders 1, 9, 10). -/
def State.mayIssue (s : State) (w : Fin 4) (a : After) (rngs : List Rng) : Prop :=
  badPri a = false ∧ s.h.t.post.later = [] ∧ (s.registered rngs).length + s.h.t.rlt.length ≤ 4 ∧
    rangeClash (s.aftNames a) s.h.ownLocks (s.registered rngs) = none ∧ s.slotsHeld s.coreId s.h.coreSlot.2 < 32 ∧
    s.h.t.post.clear w.val = true

/-- Whether the operands of an engine instruction are canonical and lie in the windows of the thread (orders 4 and 7). -/
def State.operandsOk (s : State) (l : List Opnd) : Prop := nonCanon l = none ∧ s.h.t.scr.refused l = none

/-- The descriptor block at a virtual address reads as these words (order 5). -/
def State.readsBlock (s : State) (va : Nat) (words : List Nat) : Prop :=
  va % 64 = 0 ∧ va + 64 ≤ 2 ^ 57 ∧ lockJudge false 0 va 64 s.locks = .ok ∧ ∃ l pa, s.reaches va .load = .ok l pa ∧
    l.kind ≠ 5 ∧ s.isLost pa 64 = false ∧ s.fills pa 64 ∧ words = Mem.words s.mem pa 8

/-- An engine instruction issues one operation (R192): in the lowest free token slot, queued when no AFTER operation has failed,
with its ranges registered; its token is in `k`, its message has been sent to `dest`, no other register changes, and memory is as
the reads of its blocks leave it. -/
structure Issued (s t : State) (a : After) (k : Fin 16) (kind : Nat) (work : OpWork) (rngs : List Rng) (dest : Dest) : Prop where
  op : ∃ o, t.work.ops = s.work.ops ++ [o] ∧ o.core = s.coreId ∧ o.slot = s.freeSlot s.coreId ∧
    o.gen = s.slotGen s.coreId o.slot ∧ o.thread = s.h.coreSlot.2 ∧ o.kind = kind ∧ o.work = work ∧ o.prio = s.initialPrio a ∧
    ((∀ d, d ∈ s.aftOps a → d.replied = true → d.st = .done) → o.st = .queued ∧
      t.lat.net = s.lat.net ++
        [{ src := s.me, ctx := s.h.task.ctx, dest := dest, body := .engine s.coreId o.slot o.gen }]) ∧
    (∀ d, d ∈ s.aftOps a → d.replied = true → d.st ≠ .done → o.st = .failed ∧ o.cls = 7 ∧ t.lat.net = s.lat.net) ∧
    (∀ r, t.k r = if r = k then tokenValue o.gen s.tag o.slot o.thread kind o.prio else s.k r) ∧
    t.h.t.rlt = sortLocks (addLocks o.slot o.gen (s.registered rngs) s.h.t.rlt)
  mem : LoadMem s t
  x : SameX s t
  v : SameV s t
  m : SameM s t
  flags : SameFlags s t
  ctl : SameCtl s t
  stop : EndOfBody s t

/-! ## Tokens and tasks -/

/-- Whether `o` is the operation that its name finds. -/
def State.hasOp (s : State) (o : Op) : Prop := s.op? o.core o.slot o.gen = some o

/-- The operation `o` of the issuing thread is released (R137, R196, R199): it is in no slot, the generation of its slot has
risen, its range locks are gone, and no byte of memory, vector or mask register or flag changes. -/
structure Released (s t : State) (o : Op) : Prop where
  ops : t.work.ops = s.work.ops.filter (fun x => !x.same o)
  gen : ∀ c, s.core? o.core = some c → ∃ d, t.core? o.core = some d ∧
    assocGet 0 o.slot d.gens = (assocGet 0 o.slot c.gens + 1) % 65536
  rlt : t.h.t.rlt = s.h.t.rlt.filter (fun e => !(e.2.kslot == o.slot && e.2.kgen == o.gen))
  mem : SameMem s t
  v : SameV s t
  m : SameM s t
  flags : SameFlags s t
  stop : EndOfBody s t

/-- The token registers after a write of `w` to `k`. -/
def KAfter (s t : State) (k : Fin 16) (w : Word) : Prop := ∀ r, t.k r = if r = k then w else s.k r

/-- Only the pc and the loop registers have changed. -/
def OnlyAdvances (o : Out) (s : State) : Prop :=
  Answers o fun t => SameX s t ∧ SameV s t ∧ SameM s t ∧ SameK s t ∧ SameFlags s t ∧ RegFrame s t ∧ EndOfBody s t

/-! ## Events -/

/-- Operation `o`, of `n` units, has retired its next one (R198): it goes on at the unit boundary, suspended when its halt group is
stopped (R404) and cancelled when a cancel waited for the unit's end (R203), or it is done and its reply is under way. -/
structure Retired (s t : State) (o : Op) (n : Nat) : Prop where
  live : o.units + 1 < n → o.cut = false →
    t.op? o.core o.slot o.gen = some { o.nextUnit with st := if s.opHalted o then .suspended else o.st } ∧ t.lat.net = s.lat.net
  cut : o.units + 1 < n → o.cut = true → o.hold ≤ 1 →
    ∃ d, t.op? o.core o.slot o.gen = some d ∧ d.st = .cancelled ∧ d.units = o.units + 1
  last : n ≤ o.units + 1 → o.hold ≤ 1 → s.isStopping o.ctx = false →
    (∃ d, t.op? o.core o.slot o.gen = some d ∧ d.st = .done ∧ d.units = o.units + 1) ∧ t.lat.net = s.lat.net ++
      [{ src := o.engine, ctx := o.ctx, dest := .core o.core
         body := .opReply o.core o.slot o.gen (3 * 2 ^ 61 + (o.units + 1) % 2 ^ 32) 0 }]

/-- An engine may read every part of `n` bytes of a view (R59, R200). -/
def Scratch.readable (c : Scratch) (buf lo n : Nat) : Prop :=
  ∀ x k, lo ≤ x → x + k ≤ lo + n → c.inWindows buf x k = true ∧ c.landings buf x k = []

/-- An engine may write every part of `n` bytes of a view (R329). -/
def Scratch.writable (c : Scratch) (buf lo n : Nat) : Prop :=
  ∀ x k, lo ≤ x → x + k ≤ lo + n → c.inWindows buf x k = true ∧ c.plain buf x k = true

/-! ## The integers of matrix blocks (R48 to R51, R159) -/

/-- `q` is `m * 2^e` rounded to an integer, ties to even. -/
def IsRne (m : Nat) (e : Int) (q : Nat) : Prop :=
  (∀ k : Nat, e = k → q = m * 2 ^ k) ∧
  ∀ k : Nat, e = -(k : Int) →
    let off := ((q * 2 ^ k : Int) - m).natAbs
    2 * off ≤ 2 ^ k ∧ (2 * off = 2 ^ k → q % 2 = 0)

/-- `q` are the codes of a block of BF16 or FP16, with `eb` exponent and `mb` mantissa bits, aligned with P = `p` to the largest
exponent `emax` (R50). -/
def IsAligned (eb mb p emax : Nat) (codes : List Nat) (q : List Int) : Prop :=
  let field := fun (c : Nat) => c / 2 ^ mb % 2 ^ eb
  let ex := fun (c : Nat) => max 1 (field c)
  1 ≤ emax ∧ (∀ c, c ∈ codes → ex c ≤ emax) ∧ (emax = 1 ∨ ∃ c, c ∈ codes ∧ ex c = emax) ∧ q.length = codes.length ∧
  ∀ i, i < codes.length →
    let c := codes.getD i 0
    let v := q.getD i 0
    (c / 2 ^ (eb + mb) % 2 = 0 → 0 ≤ v) ∧ (c / 2 ^ (eb + mb) % 2 = 1 → v ≤ 0) ∧
    IsRne (c % 2 ^ mb + if field c = 0 then 0 else 2 ^ mb) ((ex c : Int) - emax + p) v.natAbs

/-- The integer that a code of a small floating format stands for when its least subnormal counts as 1. -/
def miniInt (eb mb c : Nat) : Int :=
  let x := c / 2 ^ mb % 2 ^ eb
  let v : Int := (c % 2 ^ mb + if x = 0 then 0 else 2 ^ mb) * 2 ^ (x - 1)
  if c / 2 ^ (eb + mb) % 2 = 1 then -v else v

/-- The bits of an element of the weight codes 0x0 to 0x7 of Table 2.7. -/
def elemBits (base : Nat) : Nat := [16, 16, 8, 8, 4, 8, 4, 2].getD base 0

/-- The integer q of an element of codes 0x2 to 0x7 (Table 2.7). -/
def tableInt (base c : Nat) : Int :=
  match base with
  | 2 => miniInt 4 3 c
  | 3 => miniInt 5 2 c
  | 4 => miniInt 2 1 c
  | 5 => if c < 128 then c else (c : Int) - 256
  | 6 => if c < 8 then c else (c : Int) - 16
  | _ => [0, 1, 0, -1].getD c 0

/-- The exponent f that goes with the integers of codes 0x2 to 0x7 (R159). -/
def tableExp (base : Nat) : Int := [0, 0, -9, -16, -1].getD base 0

/-- Whether a code is a NaN or an infinity of its format (Table 6.1). -/
def isSpecial (base c : Nat) : Prop :=
  (base = 0 ∧ c / 128 % 256 = 255) ∨ (base = 1 ∧ c / 1024 % 32 = 31) ∨ (base = 2 ∧ c % 128 = 127) ∨ (base = 3 ∧ c / 4 % 32 = 31)

/-- The code of element `i` of a number that packs codes of `w` bits. -/
def codeAt (w v i : Nat) : Nat := v / 2 ^ (w * i) % 2 ^ w

/-! ## Messages under way -/

/-- Message `p` is the one that the event under way names, and it may be delivered (R113, R384, R405); it is no reply in a context
that stops (R398). -/
def State.delivers (s : State) (p : Msg) : Prop :=
  s.deliverable (s.evArg 0) = true ∧ s.lat.net[s.evArg 0]? = some p ∧ s.discards p = false

/-! ## A step -/

/-- The state in which a group is decoded: its words have been fetched, its header is in force, and its core's clock has
counted its issue (R220, R230). -/
def State.decodes (s : State) (g : Group) : State := ({ s.fetched g.words with grp := Group.hdr g } : State).clocked

/-- An answer is what the instruction at the program counter gives: when the words there are one group that decodes to `i`, of
a class the core implements, with the privilege and the gap it needs, the answer is exec's, followed by what stands after
every group: the scoreboard counts it, and a step of a halted thread ends (R220, R236, R406). -/
def RunsDecoded (o : Out) (s : State) : Prop :=
  ∀ (g : Group) (i : Instr) (u : State), readGroup s.fetchWord = .ok g → decode g.pfx g.w0 g.w1 = .ok i →
    (s.decodes g).h.implements i.cls = true → (s.decodes g).lacksPrivilege i = false →
    (s.decodes g).gapCheck ((s.decodes g).uses i) = .ok u →
    (∀ v, exec i u = .next v →
      let w := v.afterGroup (s.decodes g).h i (s.decodes g).grp.gap
      o = .next { w with h := w.h.stepDone }) ∧
    (∀ r, exec i u = .fault r → o = .fault r) ∧ (∀ r, exec i u = .refused r → o = .refused r)

/-- The first words at the program counter are extension words of the kinds `l`: all of kinds that Table 9.4 lists, no two of one
kind, and the first alone with P = 0 (R220, R229). -/
def State.HasPrefixes (s : State) (l : List Nat) : Prop :=
  l.Nodup ∧ ∀ j k, l[j]? = some k → k ∈ [1, 3, 6, 10] ∧
    ∃ w, s.fetchWord j = .ok w ∧ w % 4 = 1 ∧ bits w 6 3 = k ∧ (bits w 2 2 = 1 ↔ j ≠ 0)

/-- An answer is the trap of a group that cannot be read, at the word that fails (R220): a first word with P = 1 is a split group; a
word with P = 0 after an extension word is an orphan prefix; a selector 0b11, an unlisted kind and a second word of one kind are
illegal. -/
def RefusesWords (o : Out) (s : State) : Prop :=
  ∀ (l : List Nat) (w : Nat), s.HasPrefixes l → s.fetchWord l.length = .ok w →
    let traps := fun (c : Nat) =>
      let t := (({ s with grp := {} } : State).clocked).takeTrap { cause := c, addr := s.wordAddr l.length }
      o = .next { t with h := t.h.stepDone }
    (l = [] → bits w 2 2 = 1 → traps 3) ∧
    (l ≠ [] → bits w 2 2 = 0 → traps 2) ∧
    ((bits w 2 2 = 1 ↔ l ≠ []) →
      w % 4 = 3 ∨ (w % 4 = 1 ∧ (bits w 6 3 ∉ [1, 3, 6, 10] ∨ bits w 6 3 ∈ l)) → traps 1)

/-- The core kind of a hart lacks the class of an instruction (R3, R236). -/
def State.LacksClass (s : State) (i : Instr) : Prop :=
  (s.h.isThread = true ∧ (i.cls = .message ∨ i.cls = .event)) ∨
  (s.h.isThread = false ∧ i.cls ≠ .scalar ∧ i.cls ≠ .control ∧ i.cls ≠ .system ∧ i.cls ≠ .message)

/-- An answer is the trap of the first check of Table 9.11 that a group fails: orders 1 to 3 are what the decoder refuses, at the
word that R456 names; then come the class, the privilege, the gap, and the entry's own checks. -/
def RefusesGroup (o : Out) (s : State) : Prop :=
  ∀ (g : Group), readGroup s.fetchWord = .ok g →
    let b := s.decodes g
    let w0 := s.wordAddr g.pfx.length
    let traps := fun (c : Nat) (a d : Nat) =>
      let t := b.takeTrap { cause := c, addr := a, detail := d }
      o = .next { t with h := t.h.stepDone }
    (decode g.pfx g.w0 g.w1 = .error .unassigned → traps 1 w0 0) ∧
    (decode g.pfx g.w0 g.w1 = .error (.reserved false) → traps 1 w0 0) ∧
    (decode g.pfx g.w0 g.w1 = .error (.reserved true) → traps 1 (w0 + 4) 0) ∧
    (∀ n, decode g.pfx g.w0 g.w1 = .error (.pfx n) → traps 1 (s.wordAddr n) 0) ∧
    (decode g.pfx g.w0 g.w1 = .error .wField → traps 1 w0 0) ∧
    ∀ i, (decode g.pfx g.w0 g.w1 = .ok i ∨ decode g.pfx g.w0 g.w1 = .error (.entry i)) →
      (b.LacksClass i → traps 4 w0 0) ∧
      (¬ b.LacksClass i →
        (decode g.pfx g.w0 g.w1 = .ok i → b.lacksPrivilege i = true → traps 5 w0 0) ∧
        ((decode g.pfx g.w0 g.w1 = .ok i → b.lacksPrivilege i = false) →
          (b.h.ctl.chk.getLsbD 0 = true → (∃ r, r ∈ (b.uses i).src ++ (b.uses i).dst ∧ b.h.isPending r = true) →
            ∃ r, r ∈ (b.uses i).src ++ (b.uses i).dst ∧ b.h.isPending r = true ∧ traps 6 w0 r.detail) ∧
          (decode g.pfx g.w0 g.w1 = .error (.entry i) →
            (∀ r, r ∈ (b.uses i).src ++ (b.uses i).dst → b.h.isPending r = false) → traps 1 w0 0)))

/-- The class that Tables 9.6 to 9.10 give an opcode: of a 64-bit instruction, or of a 32-bit one on a page. -/
def tableClass (page : Option Nat) (op : Nat) : Option Class :=
  let within := fun (a b : Nat) => decide (a ≤ op) && decide (op ≤ b)
  match page with
  | none =>
    if within 0x01 0x0A then some .lattice else if within 0x20 0x2A then some .matrix else if within 0x30 0x37 then some .copy
    else if within 0x40 0x44 then some .collective else if within 0x50 0x57 then some .token
    else if within 0x60 0x62 then some .vector else if within 0x70 0x71 then some .scalar
    else if within 0x78 0x7A then some .scratch else none
  | some 0 =>
    if within 0x01 0x0D || op == 0x1D then some .scalar else if op == 0x1B then some .message
    else if within 0x10 0x1C then some .control else if within 0x20 0x2B then some .memory
    else if within 0x30 0x37 then some .vector else none
  | some 1 => if within 0x01 0x08 then some .vector else none
  | some 2 =>
    if within 0x01 0x02 || op == 0x06 then some .system else if within 0x03 0x04 then some .memory
    else if op == 0x05 then some .task else if within 0x10 0x19 then some .message else none
  | _ => none

/-- The class of the opcode of a group: its PAGE word chooses the page of a 32-bit instruction, page 0 without one (R236). -/
def opcodeClass (p : List Pfx) (w0 : Nat) : Option Class :=
  if w0 % 4 = 2 then tableClass none (bits w0 14 7)
  else tableClass (some ((((p.find? (fun q => q.kind == .page)).map (·.payload)).getD 0) % 4)) (bits w0 12 7)

/-- A thread comes to its next group: no breakpoint and no refusal of a posted operation stands before it, or the group was
held after its boundary (R124, R403). -/
def State.passesBoundary (s : State) : Prop :=
  s.h.replay = true ∨ ((s.atBreakpoint = none ∨ s.h.isHalted = true) ∧ (s.h.ctl.h = true ∨ s.h.t.post.firstRefused = none))

end Sys2Proof.Machine
end

