-- ==== Sys2Proof/Certificates/Slice0/Obligations.lean ====
section
/-! DEFINITION. The statements for the provers. -/

open Sys2Proof Sys2Proof.Machine

/-- The ALU instructions compute Table 10.3. Each of ADD to ORN answers a next state in which xd holds the table's
function of xa and xb (x0 discards it), the program counter and loop registers follow the end-of-body check, and
nothing else changes. -/
def Obligations.AluWritesTheTable : Prop :=
  ∀ (s : State) (d a b : Fin 32),
    let x := s.x a
    let y := s.x b
    let n := y.toNat % 64
    WritesX (exec (.add d a b) s) s d (BitVec.ofNat 64 (x.toNat + y.toNat)) ∧
    WritesX (exec (.sub d a b) s) s d (BitVec.ofInt 64 ((x.toNat : Int) - y.toNat)) ∧
    WritesX (exec (.and d a b) s) s d (x &&& y) ∧
    WritesX (exec (.or d a b) s) s d (x ||| y) ∧
    WritesX (exec (.xor d a b) s) s d (x ^^^ y) ∧
    WritesX (exec (.sll d a b) s) s d (BitVec.ofNat 64 (x.toNat * 2 ^ n)) ∧
    WritesX (exec (.srl d a b) s) s d (BitVec.ofNat 64 (x.toNat / 2 ^ n)) ∧
    WritesX (exec (.sra d a b) s) s d (BitVec.ofInt 64 (x.toInt / 2 ^ n)) ∧
    WritesX (exec (.slt d a b) s) s d (if x.toInt < y.toInt then 1 else 0) ∧
    WritesX (exec (.sltn d a b) s) s d (if x.toNat < y.toNat then 1 else 0) ∧
    WritesX (exec (.min d a b) s) s d (if x.toInt < y.toInt then x else y) ∧
    WritesX (exec (.max d a b) s) s d (if x.toInt < y.toInt then y else x) ∧
    WritesX (exec (.minn d a b) s) s d (if x.toNat < y.toNat then x else y) ∧
    WritesX (exec (.maxn d a b) s) s d (if x.toNat < y.toNat then y else x) ∧
    WritesX (exec (.andn d a b) s) s d (x &&& ~~~y) ∧
    WritesX (exec (.orn d a b) s) s d (x ||| ~~~y)

/-- The MULB instructions compute their entry. MUL to REMN write the entry's product, quotient or remainder of the exact
integers, with its results for a zero divisor and for the one overflow; CLZ and CTZ write the place of the first one
bit from the top and from the bottom (64 for zero), POPC the number of one bits, REV8 the bytes reversed; no case
traps and nothing else changes. -/
def Obligations.MultiplyDivideAndCountBits : Prop :=
  ∀ (s : State) (d a b : Fin 32),
    let x := s.x a
    let y := s.x b
    let big : Word := 0x8000000000000000
    let ones : Word := 0xFFFFFFFFFFFFFFFF
    WritesX (exec (.mul d a b) s) s d (BitVec.ofNat 64 (x.toNat * y.toNat)) ∧
    WritesX (exec (.mulh d a b) s) s d (BitVec.ofInt 64 (x.toInt * y.toInt / 2 ^ 64)) ∧
    WritesX (exec (.mulhn d a b) s) s d (BitVec.ofNat 64 (x.toNat * y.toNat / 2 ^ 64)) ∧
    WritesX (exec (.mulhsn d a b) s) s d (BitVec.ofInt 64 (x.toInt * y.toNat / 2 ^ 64)) ∧
    WritesX (exec (.div d a b) s) s d
      (if y = 0 then ones else if x = big ∧ y = ones then x else BitVec.ofInt 64 (x.toInt.tdiv y.toInt)) ∧
    WritesX (exec (.rem d a b) s) s d
      (if y = 0 then x else if x = big ∧ y = ones then 0 else BitVec.ofInt 64 (x.toInt - y.toInt * x.toInt.tdiv y.toInt)) ∧
    WritesX (exec (.divn d a b) s) s d (if y = 0 then ones else BitVec.ofNat 64 (x.toNat / y.toNat)) ∧
    WritesX (exec (.remn d a b) s) s d (if y = 0 then x else BitVec.ofNat 64 (x.toNat % y.toNat)) ∧
    (∃ n : Nat, n ≤ 64 ∧ WritesX (exec (.clz d a) s) s d (BitVec.ofNat 64 n) ∧ x.toNat < 2 ^ (64 - n) ∧
      (n < 64 → 2 ^ (63 - n) ≤ x.toNat)) ∧
    (∃ n : Nat, n ≤ 64 ∧ WritesX (exec (.ctz d a) s) s d (BitVec.ofNat 64 n) ∧ x.toNat % 2 ^ n = 0 ∧
      (n < 64 → x.toNat / 2 ^ n % 2 = 1)) ∧
    WritesX (exec (.popc d a) s) s d (BitVec.ofNat 64 ((List.range 64).filter (fun i => x.getLsbD i)).length) ∧
    (∃ r : Word, WritesX (exec (.rev8 d a) s) s d r ∧
      ∀ i, i < 8 → r.toNat / 256 ^ i % 256 = x.toNat / 256 ^ (7 - i) % 256)

/-- Immediate, move and extension instructions compute their entries. ADDI to SLTNI compute the ALU operation with the
sign-extended immediate, SLLI, SRLI and SRAI shift by an immediate from 0 to 63, MOVI, MOVL and ADDL use theirs
sign-extended, and the EXT forms extend the low 8, 16 or 32 bits of xa; nothing else changes. -/
def Obligations.ImmediateFormsCompute : Prop :=
  ∀ (s : State) (d a : Fin 32) (imm : BitVec 34) (big : BitVec 52),
    let x := s.x a
    let i : Word := BitVec.ofInt 64 imm.toInt
    let j : Word := BitVec.ofInt 64 big.toInt
    WritesX (exec (.addi d a imm) s) s d (x + i) ∧
    WritesX (exec (.andi d a imm) s) s d (x &&& i) ∧
    WritesX (exec (.ori d a imm) s) s d (x ||| i) ∧
    WritesX (exec (.xori d a imm) s) s d (x ^^^ i) ∧
    WritesX (exec (.slti d a imm) s) s d (if x.toInt < imm.toInt then 1 else 0) ∧
    WritesX (exec (.sltni d a imm) s) s d (if x.toNat < i.toNat then 1 else 0) ∧
    (imm.toNat < 64 →
      WritesX (exec (.slli d a imm) s) s d (BitVec.ofNat 64 (x.toNat * 2 ^ imm.toNat)) ∧
      WritesX (exec (.srli d a imm) s) s d (BitVec.ofNat 64 (x.toNat / 2 ^ imm.toNat)) ∧
      WritesX (exec (.srai d a imm) s) s d (BitVec.ofInt 64 (x.toInt / 2 ^ imm.toNat))) ∧
    WritesX (exec (.movi d imm) s) s d i ∧
    WritesX (exec (.movl d big) s) s d j ∧
    WritesX (exec (.addl d a big) s) s d (x + j) ∧
    WritesX (exec (.sext8 d a) s) s d (BitVec.ofInt 64 (BitVec.ofNat 8 x.toNat).toInt) ∧
    WritesX (exec (.sext16 d a) s) s d (BitVec.ofInt 64 (BitVec.ofNat 16 x.toNat).toInt) ∧
    WritesX (exec (.sext32 d a) s) s d (BitVec.ofInt 64 (BitVec.ofNat 32 x.toNat).toInt) ∧
    WritesX (exec (.zext8 d a) s) s d (BitVec.ofNat 64 (x.toNat % 2 ^ 8)) ∧
    WritesX (exec (.zext16 d a) s) s d (BitVec.ofNat 64 (x.toNat % 2 ^ 16)) ∧
    WritesX (exec (.zext32 d a) s) s d (BitVec.ofNat 64 (x.toNat % 2 ^ 32))

/-- Scalar float instructions write their rounded results and flags. FADD to FDIV, CVT.F32.I64 and CVT.I64.F32 write the
exact result rounded by the mode and saturation in force, FMIN and FMAX the smaller or larger operand, FLT and FEQ a
truth value; each reads bits [31:0] of its FP32 sources, leaves bits [63:32] of an FP32 result zero, adds the flags
its settings let through, and changes nothing else. With both operands NaN, FMIN and FMAX give the canonical NaN
0x7FC00000; with exactly one, the other operand; FLT gives 0 and raises NV if either operand is NaN; FEQ gives 0 on
a NaN and raises NV only for a signalling one; FEQ gives 1 on +0 and -0, and FMIN of +0 and -0 is -0. -/
def Obligations.ScalarFloatComputes : Prop :=
  (∀ (s : State) (rnd : Option Rnd) (d a b : Fin 32),
    let x := (s.x a).toNat % 2 ^ 32
    let y := (s.x b).toNat % 2 ^ 32
    let m := s.rnd rnd
    let f := fun (i : Instr) (r : Nat × Flags) =>
      WritesXF (exec i s) s d (BitVec.ofNat 64 r.1) ((unmasked rnd r.2).zeroExtend 64)
    let exact := fun (r : FVal × Flags) => ((fp32.round r.1 m).1, r.2 ||| (fp32.round r.1 m).2)
    f (.faddF32 rnd d a b) (exact ((fp32.value x).add (fp32.value y) m.rm)) ∧
    f (.fsubF32 rnd d a b) (exact ((fp32.value x).add (fp32.value y).negate m.rm)) ∧
    f (.fmulF32 rnd d a b) (exact ((fp32.value x).mul (fp32.value y))) ∧
    f (.fdivF32 rnd d a b) (exact ((fp32.value x).div (fp32.value y))) ∧
    f (.fminF32 rnd d a b) (f32minmax false x y) ∧
    f (.fmaxF32 rnd d a b) (f32minmax true x y) ∧
    f (.fltF32 rnd d a b) (boolFlags (f32less false x y)) ∧
    f (.feqF32 rnd d a b) (boolFlags (f32eq x y)) ∧
    f (.cvtF32I64 rnd d a) (fp32.round (.int (s.x a).toInt) m) ∧
    (let q := (fp32.value x).toIntClamp (-(2 ^ 63)) (2 ^ 63 - 1) m.rm
     WritesXF (exec (.cvtI64F32 rnd d a) s) s d (BitVec.ofInt 64 q.1) ((unmasked rnd q.2).zeroExtend 64))) ∧
  (∀ x y : Nat, (fp32.value x).isNaN = true → (fp32.value y).isNaN = true →
    ∀ mx, (f32minmax mx x y).1 = 0x7FC00000) ∧
  (∀ x y : Nat, (fp32.value x).isNaN = true → (fp32.value y).isNaN = false →
    ∀ mx, (f32minmax mx x y).1 = y ∧ (f32minmax mx y x).1 = y) ∧
  (∀ x y : Nat, ((fp32.value x).isNaN = true ∨ (fp32.value y).isNaN = true) →
    f32less false x y = (false, fNV) ∧ (f32eq x y).1 = false ∧
    ((f32eq x y).2 = fNV ↔ (fp32.value x).snan = true ∨ (fp32.value y).snan = true)) ∧
  f32eq 0 0x80000000 = (true, 0) ∧
  f32minmax false 0 0x80000000 = (0x80000000, 0) ∧ f32minmax false 0x80000000 0 = (0x80000000, 0) ∧
  f32minmax true 0 0x80000000 = (0, 0) ∧ f32minmax true 0x80000000 0 = (0, 0)

/-- Conditional branches. When its comparison holds, a branch sets pc to group_addr + 4 * off and makes no end-of-body
check, so the loop registers stay; otherwise the group completes at next_addr under the end-of-body check; BMASK
tests the 48 bits of a mask (m0 is all ones), BFL a flag of the rill core (Table 14.5); no register, flag or byte of
memory changes. -/
def Obligations.BranchesGoWhereTheySay : Prop :=
  ∀ (s : State) (a b : Fin 32) (m : Fin 8) (n : Fin 16) (off : BitVec 34),
    let x := s.x a
    let y := s.x b
    let keep := fun (t : State) => SameX s t ∧ SameV s t ∧ SameM s t ∧ SameK s t ∧ SameFlags s t ∧ RegFrame s t
    let go := fun (i : Instr) (c : Prop) =>
      (c → Answers (exec i s) fun t => t.h.pc = s.h.pc + 4 * BitVec.ofInt 64 off.toInt ∧ keep t ∧ t.h.ctl = s.h.ctl) ∧
      (¬ c → Answers (exec i s) fun t => EndOfBody s t ∧ keep t)
    go (.beq a b off) (x = y) ∧
    go (.bne a b off) (x ≠ y) ∧
    go (.blt a b off) (x.toInt < y.toInt) ∧
    go (.bge a b off) (y.toInt ≤ x.toInt) ∧
    go (.bltn a b off) (x.toNat < y.toNat) ∧
    go (.bgen a b off) (y.toNat ≤ x.toNat) ∧
    go (.bmaskNone m off) (∀ i, i < 48 → (s.m m).getLsbD i = false) ∧
    go (.bmaskAny m off) (∃ i, i < 48 ∧ (s.m m).getLsbD i = true) ∧
    go (.bmaskAll m off) (∀ i, i < 48 → (s.m m).getLsbD i = true) ∧
    go (.bflClr n off) (s.flag n.val = false) ∧
    go (.bflSet n off) (s.flag n.val = true)

/-- JMP, JAL and JALR. JMP and JAL set pc to group_addr + 4 * off, JAL links next_addr in x1; JALR computes its target
from xa before it links next_addr in xd; a target whose two low bits are not zero raises the misalignment trap with
TADDR the target; nothing else changes. -/
def Obligations.JumpsLinkAndGo : Prop :=
  ∀ (s : State) (d a : Fin 32) (off : BitVec 44) (imm : BitVec 34),
    let t0 := s.h.pc + 4 * BitVec.ofInt 64 off.toInt
    let j := s.x a + BitVec.ofInt 64 imm.toInt
    let keep := fun (t : State) => SameV s t ∧ SameM s t ∧ SameK s t ∧ SameFlags s t ∧ RegFrame s t ∧ t.h.ctl = s.h.ctl
    (Answers (exec (.jmp off) s) fun t => t.h.pc = t0 ∧ SameX s t ∧ keep t) ∧
    (Answers (exec (.jal off) s) fun t => t.h.pc = t0 ∧ XAfter s t 1 s.nextAddr ∧ keep t) ∧
    (j.toNat % 4 = 0 → Answers (exec (.jalr d a imm) s) fun t => t.h.pc = j ∧ XAfter s t d s.nextAddr ∧ keep t) ∧
    (j.toNat % 4 ≠ 0 → exec (.jalr d a imm) s = .next (s.takeTrap { cause := 7, addr := j.toNat }))

/-- LOOP sets its level; NOP and YIELD have no effect but the group's completion. LOOP whose extent does not pass its
own group is illegal; a count of zero jumps past the body and leaves the level; otherwise the level holds the count
less one, next_addr and the end address (bits [56:2]), and the group completes. NOP and YIELD leave every register,
flag and byte of memory, and complete under the end-of-body check; YIELD alone marks its core's last group as
yielding. -/
def Obligations.LoopNopAndYield : Prop :=
  (∀ (s : State) (a : Fin 32) (imm : BitVec 34),
    let stop := s.h.pc + 4 * BitVec.ofNat 64 imm.toNat
    let keep := fun (t : State) => SameX s t ∧ SameV s t ∧ SameM s t ∧ SameK s t ∧ SameFlags s t ∧ RegFrame s t
    (∀ n, imm.toNat ≤ s.grp.words → exec (.loop n a imm) s = .next (s.takeTrap { cause := 1, addr := s.word0 })) ∧
    (∀ n, s.grp.words < imm.toNat → s.x a = 0 → Answers (exec (.loop n a imm) s) fun t => t.h.pc = stop ∧ keep t ∧
      t.h.ctl = s.h.ctl) ∧
    (s.grp.words < imm.toNat → s.x a ≠ 0 →
      (Answers (exec (.loop 0 a imm) s) fun t => keep t ∧
        EndOfBody (s.setCtl { s.h.ctl with
          lcnt0 := s.x a - 1, lbeg0 := codeAddr s.nextAddr, lend0 := codeAddr stop }) t) ∧
      (Answers (exec (.loop 1 a imm) s) fun t => keep t ∧
        EndOfBody (s.setCtl { s.h.ctl with
          lcnt1 := s.x a - 1, lbeg1 := codeAddr s.nextAddr, lend1 := codeAddr stop }) t))) ∧
  ∀ s : State,
    (Answers (exec .nop s) fun t => EndOfBody s t ∧ SameX s t ∧ SameV s t ∧ SameM s t ∧ SameK s t ∧ SameFlags s t ∧ RegFrame s t) ∧
    (Answers (exec .yield s) fun t => EndOfBody s t ∧ SameX s t ∧ SameV s t ∧ SameM s t ∧ SameK s t ∧ SameFlags s t ∧
      SameHart s t ∧ SameCtl s t ∧ SameMem s t ∧ t.lat = s.lat ∧ t.dev = s.dev ∧ t.harts = s.harts ∧
      (∀ c k, s.h.id = .thread c k → ∀ q, t.core? c = some q → q.lastY = true) ∧
      (∀ n, s.h.id = .rill n → t.work = s.work))

/-- Entering a trap handler saves the pc and the cause; TRAP and, with c.chk.EN set, an undersized gap do so. A trap
taken while no handler is active and TVEC is not zero saves the group's address (or the given one) in TEPC, the
detail and cause in TCAUSE and the address in TADDR, sets TSTAT.H and goes to TVEC; the loop registers, c.rmode,
c.fflags, c.chk, c.sptr, TVEC, the range locks, the scratchpad and every byte of DRAM keep their values; every
pending result is written, so that the distances start afresh, and no other register changes. TRAP #code enters the
handler with cause 0x15 and the code as its detail in TCAUSE, next_addr in TEPC and 0 in TADDR, and has no other
effect. A result of latency L stays pending until the groups from its own on have taken L cycles, their gaps
counted, by Table 9.5; a group that reads or writes a register with a pending result takes the checking trap with EN
= 1, naming one such register, and has no effect; with EN = 0 it sets HIT and determinism-released, each pending
register that it reads yields the value before the result or the result, and one that it writes ends with its own
result or the pending one. -/
def Obligations.TakingATrapEntersTheHandler : Prop :=
  (∀ (s : State) (i : TrapInfo), s.h.ctl.h = false → s.h.ctl.tvec ≠ 0 →
    let t := s.takeTrap i
    let c := s.h.ctl
    t.h.pc = c.tvec ∧
    t.h.ctl = { c with
      tepc := codeAddr (i.epc.getD s.h.pc), tcause := writeCause (BitVec.ofNat 64 (i.detail * 2 ^ 32 + i.cause))
      taddr := BitVec.ofNat 64 i.addr, h := true } ∧
    t.h.t.rlt = s.h.t.rlt ∧ t.h.t.scr = s.h.t.scr ∧ t.lat = s.lat ∧ SameMem s t ∧ t.h.board = [] ∧
    (s.h.Plain → SameX s t ∧ SameV s t ∧ SameM s t ∧ SameK s t) ∧
    (∀ (r : Fin 32) (n : Int) (old v : Nat), s.h.board = [{ reg := rx r, left := n, old := old, later := some v }] →
      t.h.x = s.h.x.set r.val (BitVec.ofNat 64 v))) ∧
  (∀ (s : State) (code : Fin 32), s.h.ctl.h = false → s.h.ctl.tvec ≠ 0 →
    Answers (exec (.trap code) s) fun t => t.h.pc = s.h.ctl.tvec ∧ t.h.ctl.tepc = codeAddr s.nextAddr ∧
      t.h.ctl.tcause.toNat = code.val * 2 ^ 32 + 0x15 ∧ t.h.ctl.taddr = 0 ∧ t.h.ctl.h = true ∧ t.h.board = [] ∧ SameMem s t ∧
      (s.h.Plain → SameX s t ∧ SameV s t ∧ SameM s t ∧ SameK s t)) ∧
  (∀ (s : State) (before : Hart) (u : RegUse) (gap : Nat) (r : RegId) (n : Int),
    (s.scoreGroup before u gap).h.Pends r n ↔ 0 < n ∧
      ((r ∈ u.dst ∧ r.fixed = false ∧ n = (u.lat : Int) - (1 + gap)) ∨ s.h.Pends r (n + (1 + gap)))) ∧
  (∀ (h : Hart) (r : RegId), h.isPending r = true ↔ r.fixed = false ∧ ∃ n, h.Pends r n) ∧
  ((rx 0).fixed = true ∧ (rm 0).fixed = true ∧ (∀ d : Fin 32, d ≠ 0 → (rx d).fixed = false) ∧ (∀ d : Fin 32, (rv d).fixed = false) ∧
    (∀ d : Fin 8, d ≠ 0 → (rm d).fixed = false) ∧
    ∀ d : Fin 32, (rx d).detail = d.val ∧ (rv d).detail = 32 + d.val ∧ ∀ e : Fin 8, (rm e).detail = 64 + e.val) ∧
  (∀ (d a b c : Fin 32) (m e f : Fin 8) (q : Option Rnd),
    let uses := fun (i : Instr) (lat : Nat) (dst src : List RegId) => (regsOf i).lat = lat ∧ (regsOf i).dst = dst ∧ (regsOf i).src = src
    uses (.add d a b) 1 [rx d] [rx a, rx b] ∧ uses (.jal 0) 1 [rx 1] [] ∧
    (∀ i, i ∈ [Instr.mul d a b, .mulh d a b, .mulhn d a b, .mulhsn d a b] → uses i 3 [rx d] [rx a, rx b]) ∧
    (∀ i, i ∈ [Instr.clz d a, .ctz d a, .popc d a, .rev8 d a] → uses i 3 [rx d] [rx a]) ∧
    (∀ i, i ∈ [Instr.faddF32 q d a b, .fsubF32 q d a b, .fmulF32 q d a b, .fminF32 q d a b, .fmaxF32 q d a b, .fltF32 q d a b,
      .feqF32 q d a b] → uses i 4 [rx d] [rx a, rx b]) ∧
    (∀ i, i ∈ [Instr.cvtF32I64 q d a, .cvtI64F32 q d a] → uses i 4 [rx d] [rx a]) ∧
    (∀ i, i ∈ [Instr.div d a b, .divn d a b, .rem d a b, .remn d a b, .fdivF32 q d a b] → uses i 1 [rx d] [rx a, rx b]) ∧
    (∀ i, i ∈ [Instr.vaddI32 d a b, .vsubI32 d a b, .vmulI32 d a b, .vxor d a b, .vsllI32 d a b] → uses i 2 [rv d] [rv a, rv b]) ∧
    (∀ i, i ∈ [Instr.mand m e f, .mor m e f, .mxor m e f] → uses i 2 [rm m] [rm e, rm f]) ∧
    uses (.vsel d a b m) 2 [rv d] [rv a, rv b, rm m] ∧
    (∀ i, i ∈ [Instr.vperm d a b, .vzip d a b, .vunzip d a b] → uses i 3 [rv d] [rv a, rv b]) ∧
    (∀ i, i ∈ [Instr.vaddF32 q d a b, .vsubF32 q d a b, .vmulF32 q d a b, .vminF32 q d a b, .vmaxF32 q d a b] →
      uses i 4 [rv d] [rv a, rv b]) ∧
    (∀ i, i ∈ [Instr.vfmaF32 q d a b c, .vfnmaF32 q d a b c, .vfmaI32 d a b c] → uses i 5 [rv d] [rv a, rv b, rv c]) ∧
    (∀ i, i ∈ [Instr.vredAddF32 q d a m, .vredMaxF32 q d a m, .vredMinF32 q d a m, .vredAddI32 q d a m] →
      uses i 6 [rx d] [rv a, rm m]) ∧
    uses (.vquantB48i8 q d a b) 8 [rv d, rx b] [rv a] ∧ uses (.vdeqB48i8 d a b) 4 [rv d] [rv a, rx b]) ∧
  (∀ (s : State) (i : Instr), ¬ s.LacksClass i → s.lacksPrivilege i = false → s.h.ctl.chk.getLsbD 0 = true →
    (∃ r, r ∈ (s.uses i).src ++ (s.uses i).dst ∧ s.h.isPending r = true) →
    ∃ r, r ∈ (s.uses i).src ++ (s.uses i).dst ∧ s.h.isPending r = true ∧
      s.runInstr i = .next (s.takeTrap { cause := 6, addr := s.word0, detail := r.detail })) ∧
  (∀ (s : State) (u : RegUse), s.h.ctl.chk.getLsbD 0 = false → s.h.Plain →
    (∀ p, p ∈ u.src → p.idx < 32) → (∃ r, r ∈ u.src ++ u.dst ∧ s.h.isPending r = true) →
    ∃ t, s.gapCheck u = .ok t ∧ t.h.ctl = { s.h.ctl with chk := s.h.ctl.chk ||| 2 } ∧ SameMem s t ∧
      (∀ c, s.h.isThread = true → s.ctx? s.h.task.ctx = some c → ∃ y, t.ctx? s.h.task.ctx = some y ∧ y.detrel = true) ∧
      (∀ r : Fin 32, ¬ (rx r ∈ u.src ∧ s.h.isPending (rx r) = true) → t.h.x[r] = s.h.x[r]) ∧
      ∀ (r : Fin 32) (e : Pend), rx r ∈ u.src → s.h.isPending (rx r) = true → s.h.board.filter (fun p => p.reg == rx r) = [e] →
        t.h.x[r] = s.h.x[r] ∨ t.h.x[r] = BitVec.ofNat 64 e.old) ∧
  (∀ (s : State) (before : Hart) (u : RegUse) (gap : Nat) (r : Fin 32) (e : Pend), u.dst = [rx r] → r ≠ 0 → before.Plain → s.h.Plain →
    s.h.board.filter (fun p => p.reg == rx r) = [e] → e.left ≤ 1 + gap →
    let t := s.scoreGroup before u gap
    (t.h.x[r] = s.h.x[r] ∨ t.h.x[r] = before.x[r]) ∧ (∀ q : Fin 32, q ≠ r → t.h.x[q] = s.h.x[q]) ∧ t.h.t.vec = s.h.t.vec)

/-- ERET returns from the handler, and only from one. In a handler ERET sets pc to TEPC and clears TSTAT.H, writes every
pending result, so that the distances start afresh, and leaves every other control register, memory and the
registers; outside a handler it raises the privilege trap. -/
def Obligations.EretReturns : Prop :=
  (∀ s : State, s.h.ctl.h = true → Answers (exec .eret s) fun t =>
    t.h.pc = s.h.ctl.tepc ∧ t.h.ctl = { s.h.ctl with h := false } ∧ SameWorld s t ∧ t.h.t.rlt = s.h.t.rlt ∧
    t.h.t.scr = s.h.t.scr ∧ t.h.t.post = s.h.t.post ∧ t.h.board = [] ∧
    (s.h.Plain → SameX s t ∧ SameV s t ∧ SameM s t ∧ SameK s t)) ∧
  (∀ s : State, s.h.ctl.h = false → exec .eret s = .next (s.takeTrap { cause := 5, addr := s.word0 }))

/-- An unhandled or nested trap of a thread raises a context fault. A trap of a thread with TVEC = 0, or while its
handler is active, changes none of its control registers and not its pc; the thread issues no more, and a context
fault of kind 7 (unhandled) or 8 (nested) that stops the context is raised last on its context. -/
def Obligations.UnhandledAndNestedTrapsStopTheThread : Prop :=
  ∀ (s : State) (i : TrapInfo) (c k : Nat) (x : Ctx), s.h.id = .thread c k → (s.h.ctl.h = true ∨ s.h.ctl.tvec = 0) →
    s.ctx? s.h.task.ctx = some x →
    let t := s.takeTrap i
    t.h.ctl = s.h.ctl ∧ t.h.pc = s.h.pc ∧ t.h.stat = .stopped ∧ SameX s t ∧ SameMem s t ∧
    ∃ y r, t.ctx? s.h.task.ctx = some y ∧ y.pend.getLast? = some (r, true) ∧
      nth r 0 = (if s.h.ctl.h then 8 else 7) * 2 ^ 56 + s.pkgOf s.h * 2 ^ 38

/-- An unhandled or nested trap of a rill core resets it into RECOVERY. A rill core that takes a trap with TVEC = 0 or
inside its handler goes to instruction address 0 in RECOVERY mode at level 0 with its control registers at their
reset values, and the event is counted for the management interface; its memories, dispatch table and inboxes stay
(the model's choice, log 18). -/
def Obligations.RillCoreRecovers : Prop :=
  ∀ (s : State) (i : TrapInfo) (n : Nat), s.h.id = .rill n → (s.h.ctl.h = true ∨ s.h.ctl.tvec = 0) →
    let t := s.takeTrap i
    t.h.pc = 0 ∧ t.h.ctl = {} ∧ t.h.r.mode = .recovery ∧ t.h.r.level = 0 ∧ t.h.r.logged = s.h.r.logged + 1 ∧
    t.h.r.imem = s.h.r.imem ∧ t.h.r.dmem = s.h.r.dmem ∧ t.h.r.dtab = s.h.r.dtab ∧ t.h.r.inbox = s.h.r.inbox ∧ SameX s t ∧ SameWorld s t

/-- RDC reads the control registers of Table 10.4, and no others. RDC of each number of Table 10.4 that the core kind
has completes (of a journal register once no reply is outstanding): it writes the register's value to xd and changes
nothing else; each number is read as that register, with its fields in their places; any other number raises the
illegal-instruction trap. -/
def Obligations.RdcReadsControlRegisters : Prop :=
  (∀ (s : State) (d : Fin 32) (cr : Fin 512), s.hasCr cr.val →
    (s.h.isThread = true → 0x40 ≤ cr.val → cr.val ≤ 0x7F → s.h.t.post.clear 3 = true) →
    ∃ v, s.h.readCr cr.val = some v ∧ WritesX (exec (.rdc d cr) s) s d v) ∧
  (∀ (s : State) (d : Fin 32) (cr : Fin 512) (v : Word), s.h.readCr cr.val = some v →
    (isJournal s.h cr.val = true → s.h.t.post.clear 3 = true) → WritesX (exec (.rdc d cr) s) s d v) ∧
  (∀ (s : State) (d : Fin 32) (cr : Fin 512), s.h.readCr cr.val = none →
    exec (.rdc d cr) s = .next (s.takeTrap { cause := 1, addr := s.word0 })) ∧
  (∀ h : Hart,
    h.readCr 0x000 = some h.ctl.rmode ∧ h.readCr 0x001 = some h.ctl.fflags ∧ h.readCr 0x002 = some h.ctl.chk ∧
    h.readCr 0x008 = some h.ctl.tvec ∧ h.readCr 0x009 = some h.ctl.tepc ∧ h.readCr 0x00A = some h.ctl.tcause ∧
    h.readCr 0x00B = some h.ctl.taddr ∧
    h.readCr 0x00C = some (BitVec.ofNat 64 (2 * h.t.task.dbg.toNat + h.ctl.h.toNat)) ∧
    h.readCr 0x018 = some h.ctl.lcnt0 ∧ h.readCr 0x019 = some h.ctl.lbeg0 ∧ h.readCr 0x01A = some h.ctl.lend0 ∧
    h.readCr 0x01B = some h.ctl.lcnt1 ∧ h.readCr 0x01C = some h.ctl.lbeg1 ∧ h.readCr 0x01D = some h.ctl.lend1) ∧
  (∀ (h : Hart) (c k : Nat), h.id = .thread c k →
    h.readCr 0x003 = some h.ctl.sptr ∧ h.readCr 0x010 = some (BitVec.ofNat 64 h.t.task.prio) ∧
    h.readCr 0x011 = some (BitVec.ofNat 64 h.t.task.name) ∧ h.readCr 0x012 = some (BitVec.ofNat 64 h.t.task.rank) ∧
    h.readCr 0x013 = some (BitVec.ofNat 64 h.t.task.gword) ∧ h.readCr 0x014 = some (BitVec.ofNat 64 h.t.task.gout) ∧
    ∀ n, n < 512 → ((h.readCr n).isSome = true ↔
      n ≤ 3 ∨ (8 ≤ n ∧ n ≤ 0xC) ∨ (0x10 ≤ n ∧ n ≤ 0x14) ∨ (0x18 ≤ n ∧ n ≤ 0x1D) ∨ (0x40 ≤ n ∧ n < 0x80))) ∧
  (∀ (h : Hart) (p : Nat), h.id = .rill p →
    h.readCr 0x100 = some (BitVec.ofNat 64 h.r.mode.code) ∧ h.readCr 0x101 = some (BitVec.ofNat 64 h.r.level) ∧
    h.readCr 0x105 = some (BitVec.ofNat 64 h.r.undel) ∧
    ∀ n, n < 512 → ((h.readCr n).isSome = true ↔
      n ≤ 2 ∨ (8 ≤ n ∧ n ≤ 0xC) ∨ (0x18 ≤ n ∧ n ≤ 0x1D) ∨ (0x100 ≤ n ∧ n ≤ 0x106)))

/-- WRC writes the stored bits of one control register. WRC of a register the core kind has, outside the privilege rule,
completes: it stores the bits Tables 6.3, 6.4, 9.11a, 10.4 and 10.5 store (an unassigned rounding or saturation code
leaves its field) before the end-of-body check, a read-only one has no effect, and, when the core holds no access of
the thread that a freed journal entry could let go, no other control register, register or byte of memory changes;
TEPC, TCAUSE and TADDR outside a handler raise the privilege trap, and an unlisted number is illegal. A write of
pjjsN with bit 63 one clears entry N when it is refused (one with replies outstanding keeps its scope, pc and count
until they come, the model's reading, log 75), and changes no other entry; any other write of it, and a write of
pjjaN, pjjpN or pjjgN, changes nothing. -/
def Obligations.WrcWritesOneControlRegister : Prop :=
  (∀ (s : State) (cr : Fin 512) (a : Fin 32), s.hasCr cr.val →
    (cr.val = 9 ∨ cr.val = 0xA ∨ cr.val = 0xB → s.h.ctl.h = true) →
    exec (.wrc cr a) s = .next (({ s with h := s.h.writeCr cr.val (s.x a) } : State).flush).retire) ∧
  (∀ (s : State) (cr : Fin 512) (a : Fin 32) (old : Word), s.h.readCr cr.val = some old →
    (isHandlerReg cr.val = true → s.h.ctl.h = true) → s.h.t.post.later = [] →
    Answers (exec (.wrc cr a) s) fun t =>
      EndOfBody { s with h := s.h.writeCr cr.val (s.x a) } t ∧ SameX s t ∧ SameV s t ∧ SameM s t ∧ SameK s t ∧ SameWorld s t ∧
      ∀ n, ¬ (0x18 ≤ n ∧ n ≤ 0x1D) → t.h.readCr n = (s.h.writeCr cr.val (s.x a)).readCr n) ∧
  (∀ (h : Hart) (v : Word), let w := v.toNat
    (h.writeCr 0x001 v).ctl.fflags.toNat = w % 64 ∧ (h.writeCr 0x003 v).ctl.sptr.toNat = w % 2 ^ 21 ∧
    (h.writeCr 0x008 v).ctl.tvec.toNat = w % 2 ^ 57 / 4 * 4 ∧ (h.writeCr 0x009 v).ctl.tepc.toNat = w % 2 ^ 57 / 4 * 4 ∧
    (h.writeCr 0x00A v).ctl.tcause.toNat = bits w 47 32 * 2 ^ 32 + w % 256 ∧ (h.writeCr 0x00B v).ctl.taddr = v ∧
    (h.writeCr 0x018 v).ctl.lcnt0 = v ∧ (h.writeCr 0x019 v).ctl.lbeg0.toNat = w % 2 ^ 57 / 4 * 4 ∧
    (h.writeCr 0x01A v).ctl.lend0.toNat = w % 2 ^ 57 / 4 * 4 ∧ (h.writeCr 0x01B v).ctl.lcnt1 = v ∧
    (h.writeCr 0x01C v).ctl.lbeg1.toNat = w % 2 ^ 57 / 4 * 4 ∧ (h.writeCr 0x01D v).ctl.lend1.toNat = w % 2 ^ 57 / 4 * 4 ∧
    (w % 8 ≤ 4 → bits (h.writeCr 0x000 v).ctl.rmode.toNat 2 0 = w % 8) ∧
    (4 < w % 8 → bits (h.writeCr 0x000 v).ctl.rmode.toNat 2 0 = bits h.ctl.rmode.toNat 2 0) ∧
    (bits w 4 3 < 3 → bits (h.writeCr 0x000 v).ctl.rmode.toNat 4 3 = bits w 4 3) ∧
    (bits w 4 3 = 3 → bits (h.writeCr 0x000 v).ctl.rmode.toNat 4 3 = bits h.ctl.rmode.toNat 4 3)) ∧
  (∀ (h : Hart) (v : Word) (cr n : Nat), cr < 0x100 → ¬ (0x40 ≤ cr ∧ cr < 0x80) → n ≠ cr →
    (h.writeCr cr v).readCr n = h.readCr n) ∧
  (∀ (h : Hart) (v : Word) (c k cr : Nat), h.id = .thread c k → (cr = 0xC ∨ (0x10 ≤ cr ∧ cr ≤ 0x14)) → h.writeCr cr v = h) ∧
  (∀ (s : State) (cr : Fin 512) (a : Fin 32) (old : Word), s.h.readCr cr.val = some old → isHandlerReg cr.val = true →
    s.h.ctl.h = false → exec (.wrc cr a) s = .next (s.takeTrap { cause := 5, addr := s.word0 })) ∧
  (∀ (s : State) (cr : Fin 512) (a : Fin 32), s.h.readCr cr.val = none →
    exec (.wrc cr a) s = .next (s.takeTrap { cause := 1, addr := s.word0 })) ∧
  (∀ (h : Hart) (c k : Nat) (v : Word) (n j : Nat), h.id = .thread c k → n < 16 → j < 16 →
    let e := h.t.post.j.getD n {}
    let g := h.writeCr (0x40 + 4 * n) v
    (v.getLsbD 63 = true → e.ref = true → g.t.post.j.getD n {} =
      if e.out = 0 then {} else { v := true, hscope := e.hscope, pc := e.pc, out := e.out }) ∧
    ((v.getLsbD 63 = false ∨ e.ref = false) → g = h) ∧
    (j ≠ n → g.t.post.j.getD j {} = h.t.post.j.getD j {}) ∧
    (∀ m, 1 ≤ m → m ≤ 3 → h.writeCr (0x40 + 4 * n + m) v = h))

/-- HALT of a debugged thread stops its halt group. HALT of a thread whose context is debugged completes and then stops
the context's halt group: STOP is set with source 2 and the thread is halted; in a thread without debugging it
raises the privilege trap. -/
def Obligations.HaltStopsItsGroup : Prop :=
  (∀ (s : State) (c k : Nat) (x : Ctx), s.h.id = .thread c k → s.h.task.dbg = true → s.h.stat = .ready →
    s.ctx? s.h.task.ctx = some x → x.dbg = true → x.hgrp < 16 →
    Answers (exec .halt s) fun t =>
      ((t.pkg (s.pkgOf s.h)).halts.getD x.hgrp {}).stop = true ∧ ((t.pkg (s.pkgOf s.h)).halts.getD x.hgrp {}).src = 2 ∧
      t.h.stat = .halted none false ∧ EndOfBody s t ∧ SameMem s t ∧ (s.h.Plain → SameX s t ∧ SameV s t ∧ SameM s t ∧ SameK s t ∧ t.h.board = s.h.board)) ∧
  (∀ s : State, s.h.task.dbg = false → exec .halt s = .next (s.takeTrap { cause := 5, addr := s.word0 }))

/-- The integer vector instructions compute lane by lane. On registers not bound to a stream, each form of VIA writes
into every 32-bit lane of vd the table's function of that lane of va and vb, modulo 2^32, and VFMA.I32 the low 32
bits of a * b + c; no flag is raised, and nothing but vd, the pc and the loop registers changes. -/
def Obligations.VectorIntegerLanes : Prop :=
  ∀ (s : State) (d a b c : Fin 32), Unbound s [d, a, b, c] →
    let x := lane 32 (s.v a)
    let y := lane 32 (s.v b)
    let z := lane 32 (s.v c)
    let xs := lane32s (s.v a)
    let ys := lane32s (s.v b)
    let w := fun (n : Int) => (BitVec.ofInt 32 n).toNat
    WritesLanes (exec (.vaddI32 d a b) s) s d (fun i => (x i + y i) % 2 ^ 32) ∧
    WritesLanes (exec (.vsubI32 d a b) s) s d (fun i => w (xs i - ys i)) ∧
    WritesLanes (exec (.vmulI32 d a b) s) s d (fun i => x i * y i % 2 ^ 32) ∧
    WritesLanes (exec (.vminI32 d a b) s) s d (fun i => if xs i < ys i then x i else y i) ∧
    WritesLanes (exec (.vmaxI32 d a b) s) s d (fun i => if xs i < ys i then y i else x i) ∧
    WritesLanes (exec (.vminN32 d a b) s) s d (fun i => if x i < y i then x i else y i) ∧
    WritesLanes (exec (.vmaxN32 d a b) s) s d (fun i => if x i < y i then y i else x i) ∧
    WritesLanes (exec (.vand d a b) s) s d (fun i => x i &&& y i) ∧
    WritesLanes (exec (.vor d a b) s) s d (fun i => x i ||| y i) ∧
    WritesLanes (exec (.vxor d a b) s) s d (fun i => x i ^^^ y i) ∧
    WritesLanes (exec (.vsllI32 d a b) s) s d (fun i => x i * 2 ^ (y i % 32) % 2 ^ 32) ∧
    WritesLanes (exec (.vsrlI32 d a b) s) s d (fun i => x i / 2 ^ (y i % 32)) ∧
    WritesLanes (exec (.vsraI32 d a b) s) s d (fun i => w (xs i / 2 ^ (y i % 32))) ∧
    WritesLanes (exec (.vfmaI32 d a b c) s) s d (fun i => w (xs i * ys i + lane32s (s.v c) i)) ∧
    WritesLanes (exec (.vfmaI32 d a b c) s) s d (fun i => (x i * y i + z i) % 2 ^ 32)

/-- Select, broadcast, lane moves and permutations move bits. On registers not bound to a stream, VSEL takes each lane
by its mask bit, the VBCAST forms fill every lane of their view, VPERM, VSLIDEUP, VSLIDEDN, VZIP, VUNZIP and VREV
move lanes as the table gives (zero for an index out of range), and VMOVX reads the lane xb names (past 47 it is an
illegal operand); no flag is raised and nothing else changes. -/
def Obligations.VectorSelectsAndMoves : Prop :=
  ∀ (s : State) (d a b : Fin 32) (m : Fin 8), Unbound s [d, a, b] →
    let x := lane 32 (s.v a)
    let y := lane 32 (s.v b)
    let n := (s.x b).toNat
    let q := (s.x a).toNat
    WritesLanes (exec (.vsel d a b m) s) s d (fun i => if (s.m m).getLsbD i then x i else y i) ∧
    WritesLanes (exec (.vbcast32 d a) s) s d (fun _ => q % 2 ^ 32) ∧
    WritesLanes (exec (.vbcast16 d a) s) s d (fun _ => q % 2 ^ 16 + 2 ^ 16 * (q % 2 ^ 16)) ∧
    WritesLanes (exec (.vbcast8 d a) s) s d
      (fun _ => q % 2 ^ 8 + 2 ^ 8 * (q % 2 ^ 8) + 2 ^ 16 * (q % 2 ^ 8) + 2 ^ 24 * (q % 2 ^ 8)) ∧
    WritesLanes (exec (.vperm d a b) s) s d (fun i => if y i ≤ 47 then x (y i) else 0) ∧
    WritesLanes (exec (.vslideup d a b) s) s d (fun i => if n ≤ i then x (i - n) else 0) ∧
    WritesLanes (exec (.vslidedn d a b) s) s d (fun i => if i + n ≤ 47 then x (i + n) else 0) ∧
    WritesLanes (exec (.vzip d a b) s) s d (fun i => if i % 2 = 0 then x (i / 2) else y ((i - 1) / 2)) ∧
    WritesLanes (exec (.vunzip d a b) s) s d (fun i => if 2 * i < 48 then x (2 * i) else y (2 * i - 48)) ∧
    WritesLanes (exec (.vrev d a) s) s d (fun i => x (47 - i)) ∧
    (n ≤ 47 → WritesX (exec (.vmovx d a b) s) s d (BitVec.ofNat 64 (x n))) ∧
    (47 < n → exec (.vmovx d a b) s = .next (s.takeTrap { cause := 0x0F, addr := s.word0 }))

/-- The mask instructions and the integer comparisons. MAND, MOR, MXOR and MNOT compute on the 48 bits of masks, MPOPC
counts the set bits, MFIRST gives the index of the lowest (48 if none), and the integer VCMP forms set bit i where
lane i compares; m0 keeps its value, no flag is raised and nothing else changes. -/
def Obligations.MaskInstructionsCompute : Prop :=
  ∀ (s : State) (p q r : Fin 8) (d a b : Fin 32),
    let x := (s.m q).getLsbD
    let y := (s.m r).getLsbD
    WritesMask (exec (.mand p q r) s) s p (fun i => x i && y i) ∧
    WritesMask (exec (.mor p q r) s) s p (fun i => x i || y i) ∧
    WritesMask (exec (.mxor p q r) s) s p (fun i => x i != y i) ∧
    WritesMask (exec (.mnot p q) s) s p (fun i => !x i) ∧
    WritesX (exec (.mpopc d q) s) s d (BitVec.ofNat 64 ((List.range 48).filter x).length) ∧
    (∃ n, n ≤ 48 ∧ WritesX (exec (.mfirst d q) s) s d (BitVec.ofNat 64 n) ∧ (∀ i, i < n → x i = false) ∧
      (n < 48 → x n = true)) ∧
    (Unbound s [a, b] →
      WritesMask (exec (.vcmpeqI32 p a b) s) s p (fun i => decide (lane 32 (s.v a) i = lane 32 (s.v b) i)) ∧
      WritesMask (exec (.vcmpltI32 p a b) s) s p (fun i => decide (lane32s (s.v a) i < lane32s (s.v b) i)) ∧
      WritesMask (exec (.vcmpltN32 p a b) s) s p (fun i => decide (lane 32 (s.v a) i < lane 32 (s.v b) i)))

/-- The floating vector instructions round lane by lane. On registers not bound to a stream, VADD to VSQRT and the fused
forms write into every 32-bit lane of vd the exact result of that lane, rounded once by the mode and saturation in
force, with the flags of all lanes that the settings let through; VMIN and VMAX select, VABS and VNEG change the
sign bit alone and raise no flag; the float VCMP forms set the mask bits and raise their flags; nothing else
changes. -/
def Obligations.VectorFloatComputes : Prop :=
  ∀ (s : State) (rnd : Option Rnd) (d a b c : Fin 32) (p : Fin 8), Unbound s [d, a, b, c] →
    let m := s.rnd rnd
    let x := lane 32 (s.v a)
    let y := lane 32 (s.v b)
    let z := lane 32 (s.v c)
    let u := fun i => fp32.value (x i)
    let v := fun i => fp32.value (y i)
    let exact := fun (r : FVal × Flags) => ((fp32.round r.1 m).1, r.2 ||| (fp32.round r.1 m).2)
    let f := fun (i : Instr) (g : Nat → Nat × Flags) =>
      WritesVF (exec i s) s d (ofLanes 32 ((List.range 48).map (fun j => (g j).1))) (laneFlags rnd ((List.range 48).map g))
    let k := fun (i : Instr) (g : Nat → Bool × Flags) =>
      Answers (exec i s) fun t => (p ≠ 0 → ∀ j, j < 48 → (t.m p).getLsbD j = (g j).1) ∧ (∀ r, r ≠ p → t.m r = s.m r) ∧
        SameX s t ∧ SameV s t ∧ SameK s t ∧ RegFrame s t ∧ EndOfBody s t ∧
        FlagsAfter s t ((orFlags ((List.range 48).map fun j => boolFlags (g j))).zeroExtend 64)
    f (.vaddF32 rnd d a b) (fun i => exact ((u i).add (v i) m.rm)) ∧
    f (.vsubF32 rnd d a b) (fun i => exact ((u i).add (v i).negate m.rm)) ∧
    f (.vmulF32 rnd d a b) (fun i => exact ((u i).mul (v i))) ∧
    f (.vdivF32 rnd d a b) (fun i => exact ((u i).div (v i))) ∧
    f (.vminF32 rnd d a b) (fun i => f32minmax false (x i) (y i)) ∧
    f (.vmaxF32 rnd d a b) (fun i => f32minmax true (x i) (y i)) ∧
    f (.vabsF32 rnd d a) (fun i => (x i % 2 ^ 31, 0)) ∧
    f (.vnegF32 rnd d a) (fun i => ((x i + 2 ^ 31) % 2 ^ 32, 0)) ∧
    f (.vsqrtF32 rnd d a) (fun i => exact (u i).sqrt) ∧
    f (.vfmaF32 rnd d a b c) (fun i => exact ((u i).fma (v i) (fp32.value (z i)) m.rm)) ∧
    f (.vfnmaF32 rnd d a b c) (fun i => exact ((u i).negate.fma (v i) (fp32.value (z i)) m.rm)) ∧
    k (.vcmpeqF32 p a b) (fun i => f32eq (x i) (y i)) ∧
    k (.vcmpltF32 p a b) (fun i => f32less false (x i) (y i)) ∧
    k (.vcmpleF32 p a b) (fun i => f32less true (x i) (y i))

/-- Conversions, quantising and dequantising. On registers not bound to a stream, VCVT writes the lanes of Table 11.3
rounded by the settings in force and zero elsewhere, VQUANT writes the block image to vd and the scale to xb as
quant_block gives, and VDEQ writes each lane of the block, rounded to FP32 to nearest; each adds the flags its
settings let through and changes nothing else. -/
def Obligations.VectorConversionsAndBlocks : Prop :=
  ∀ (s : State) (rnd : Option Rnd) (d a b : Fin 32), Unbound s [d, a, b] →
    let m := s.rnd rnd
    let u := fun i => fp32.value (lane 32 (s.v a) i)
    let v := fun i => fp32.value (lane 32 (s.v b) i)
    let near : RndMode := { rm := .rne, sat := .nosat }
    let f := fun (i : Instr) (n w : Nat) (g : Nat → Nat × Flags) =>
      WritesVF (exec i s) s d (ofLanes w ((List.range n).map (fun j => (g j).1))) (laneFlags rnd ((List.range n).map g))
    let quant := fun (i : Instr) (t : BFmt) => ∀ q, q = quantBlock t ((List.range 48).map u) m →
      Answers (exec i s) fun r => VAfter s r d (ofLanes t.ebits q.2.1) ∧ XAfter s r b (BitVec.ofNat 64 q.1) ∧
        FlagsAfter s r ((unmasked rnd q.2.2).zeroExtend 64) ∧ SameM s r ∧ SameK s r ∧ RegFrame s r ∧ EndOfBody s r
    let deq := fun (i : Instr) (t : BFmt) (g : Nat → Nat × Flags) =>
      (g = fun j => fp32.round (t.blockValue ((s.x b).toNat % 256) (lane t.ebits (s.v a) j)) near) →
      WritesVF (exec i s) s d (ofLanes 32 ((List.range 48).map (fun j => (g j).1))) (laneFlags none ((List.range 48).map g))
    f (.vcvtF32I32 rnd d a) 48 32 (fun i => fp32.round (.int (lane32s (s.v a) i)) m) ∧
    f (.vcvtI32F32 rnd d a) 48 32
      (fun i => let q := (u i).toIntClamp (-(2 ^ 31)) (2 ^ 31 - 1) m.rm; ((BitVec.ofInt 32 q.1).toNat, q.2)) ∧
    f (.vcvtBf16F32 rnd d a b) 96 16 (fun i => bf16.round (if i < 48 then u i else v (i - 48)) m) ∧
    f (.vcvtF16F32 rnd d a b) 96 16 (fun i => fp16.round (if i < 48 then u i else v (i - 48)) m) ∧
    f (.vcvtE4m3F32 rnd d a) 48 8 (fun i => e4m3.round (u i) m) ∧
    f (.vcvtE5m2F32 rnd d a) 48 8 (fun i => e5m2.round (u i) m) ∧
    f (.vcvtF32Bf16 rnd d a) 48 32 (fun i => (lane 16 (s.v a) i * 2 ^ 16, 0)) ∧
    f (.vcvtF32F16 rnd d a) 48 32 (fun i => fp32.round (fp16.value (lane 16 (s.v a) i)) near) ∧
    f (.vcvtF32E4m3 rnd d a) 48 32 (fun i => fp32.round (e4m3.value (lane 8 (s.v a) i)) near) ∧
    f (.vcvtF32E5m2 rnd d a) 48 32 (fun i => fp32.round (e5m2.value (lane 8 (s.v a) i)) near) ∧
    quant (.vquantB48e4m3 rnd d a b) .b48e4m3 ∧ quant (.vquantB48e5m2 rnd d a b) .b48e5m2 ∧
    quant (.vquantB48e2m1 rnd d a b) .b48e2m1 ∧ quant (.vquantB48i8 rnd d a b) .b48i8 ∧
    quant (.vquantB48i4 rnd d a b) .b48i4 ∧ quant (.vquantB48t2 rnd d a b) .b48t2 ∧
    (∀ g, deq (.vdeqB48e4m3 d a b) .b48e4m3 g ∧ deq (.vdeqB48e5m2 d a b) .b48e5m2 g ∧ deq (.vdeqB48e2m1 d a b) .b48e2m1 g ∧
      deq (.vdeqB48i8 d a b) .b48i8 g ∧ deq (.vdeqB48i4 d a b) .b48i4 g ∧ deq (.vdeqB48t2 d a b) .b48t2 g)

/-- VRED reduces the selected lanes pairwise. On a register not bound to a stream, VRED.ADD.I32 writes the exact sum of
the selected lanes as a signed 64-bit number; the float forms write the value of the fixed pairwise tree (48, 24,
12, 6, 3, 2, 1 elements, an absent element giving the other) with the flags of its combines, an empty selection
gives +0, -infinity or +infinity, and a lone selected lane its own bits with no flag; nothing else changes. -/
def Obligations.ReductionsFollowTheTree : Prop :=
  (∀ (s : State) (rnd : Option Rnd) (d a : Fin 32) (m : Fin 8), Unbound s [a] →
    let x := lane 32 (s.v a)
    let on := fun i => (s.m m).getLsbD i
    let sel : List (Option Nat) := (List.range 48).map fun i => if on i then some (x i) else none
    let f := fun (i : Instr) (r : Nat × Flags) =>
      WritesXF (exec i s) s d (BitVec.ofNat 64 r.1) ((unmasked rnd r.2).zeroExtend 64)
    f (.vredAddF32 rnd d a m) (vred (fun p q => f32add p q (s.rnd rnd)) 0 sel) ∧
    f (.vredMaxF32 rnd d a m) (vred (f32minmax true) 0xFF800000 sel) ∧
    f (.vredMinF32 rnd d a m) (vred (f32minmax false) 0x7F800000 sel) ∧
    WritesX (exec (.vredAddI32 rnd d a m) s) s d
      (BitVec.ofInt 64 (((List.range 48).map fun i => if on i then lane32s (s.v a) i else 0).sum))) ∧
  (∀ (f : Nat → Nat → Nat × Flags) (e : Nat) (l : List (Option Nat)), l.length = 48 →
    ((∀ p, p ∈ l → p = none) → vred f e l = (e, 0)) ∧
    (∀ i v, i < 48 → l[i]? = some (some v) → (∀ j, j < 48 → j ≠ i → l[j]? = some none) → vred f e l = (v, 0))) ∧
  (∀ (f : Nat → Nat → Nat × Flags) (p q : Nat) (l : List (Option Nat)),
    (redLevel f (some p :: some q :: l)).1 = some (f p q).1 :: (redLevel f l).1 ∧
    (redLevel f (some p :: none :: l)).1 = some p :: (redLevel f l).1 ∧
    (redLevel f (none :: some q :: l)).1 = some q :: (redLevel f l).1 ∧ (redLevel f [some p]).1 = [some p])

/-- A bound stream register is popped once by the group that reads it. When a source of VXOR is bound to a stream whose
next image has come, the group pops that image once, however many operands name the register, and the operands read
it; a bound destination or a pop past the last image is an illegal operand; an image still to come holds the group;
the VFA, VIA, VPRM and VCVT forms share this operation. -/
def Obligations.BoundRegistersArePopped : Prop :=
  ∀ (s : State) (d a : Fin 32) (b : Stream) (v : VWord) (q : List VWord), s.h.t.popped = false →
    s.stream? a = some b →
    (s.stream? d = none → b.popped < b.total → b.queue = v :: q →
      Answers (exec (.vxor d a a) s) fun t => t.v d = 0 ∧ EndOfBody s t ∧ SameX s t ∧
        (∀ r, r ≠ d → r ≠ a → t.v r = s.v r) ∧ (a ≠ d → t.v a = v) ∧
        ∃ e, t.stream? a = some e ∧ e.queue = q ∧ e.popped = b.popped + 1) ∧
    (s.stream? d = none → b.popped < b.total → b.queue = v :: q → ∀ m,
      Answers (exec (.vsel d a a m) s) fun t => t.v d = v) ∧
    (s.stream? d = none → b.popped < b.total → b.queue = [] → b.fail = none →
      exec (.vxor d a a) s = .next (s.block (.stream b.vreg))) ∧
    (s.stream? d = none → b.total ≤ b.popped →
      exec (.vxor d a a) s = .next (s.takeTrap { cause := 0x0F, addr := s.word0 })) ∧
    (∀ e, s.stream? d = some e → exec (.vxor d a a) s = .next (s.takeTrap { cause := 0x0F, addr := s.word0 }))

/-- Scalar loads. A load whose counters are clear, whose address is aligned and which may read its bytes writes them,
sign- or zero-extended, to xd: the bytes of memory that its page maps, or of the view that a raw window reaches;
nothing else changes but the TLBs, the caches and the history, and a byte of memory only where a full cache gives up
a line that DRAM holds otherwise. A misaligned address raises the misalignment trap; a translation fault other than
NOPAGE raises the trap of its code with TADDR the address. -/
def Obligations.LoadsReadMemory : Prop :=
  ∀ (s : State) (w : Option (Fin 4)) (d a : Fin 32) (imm : BitVec 34),
    let va := (s.x a + BitVec.ofInt 64 imm.toInt).toNat
    let ok := fun (i : Instr) (n : Nat) (ext : Nat → Word) =>
      (va % n ≠ 0 → exec i s = .next (s.takeTrap { cause := 7, addr := va })) ∧
      (∀ v, va % n = 0 → s.h.t.post.clear (waitOfPfx w) = true → s.loads va n v →
        Answers (exec i s) fun t => XAfter s t d (ext v) ∧ SameV s t ∧ SameM s t ∧ SameK s t ∧ SameFlags s t ∧ LoadMem s t ∧
          (∀ l pa, s.reaches va .load = .ok l pa → l.kind = 5 → SameMem s t) ∧ t.h.t.scr = s.h.t.scr ∧ MemFrame s t ∧ EndOfBody s t) ∧
      (∀ c, va % n = 0 → s.h.t.post.clear (waitOfPfx w) = true → s.h.t.post.later = [] →
        lockJudge false 0 va n s.locks = .ok → s.reaches va .load = .fault c → c ≠ 1 → Answers (exec i s) fun t =>
          ∃ u, t = u.takeTrap { cause := if c = 6 ∨ c = 7 then 9 else 8, addr := va, detail := c } ∧ u.h = s.h ∧ SameMem s u)
    let sx := fun (n v : Nat) => BitVec.ofInt 64 (BitVec.ofNat n v).toInt
    ok (.ldI8 w d a imm) 1 (sx 8) ∧ ok (.ldN8 w d a imm) 1 (BitVec.ofNat 64) ∧
    ok (.ldI16 w d a imm) 2 (sx 16) ∧ ok (.ldN16 w d a imm) 2 (BitVec.ofNat 64) ∧
    ok (.ldI32 w d a imm) 4 (sx 32) ∧ ok (.ldN32 w d a imm) 4 (BitVec.ofNat 64) ∧
    ok (.ld64 w d a imm) 8 (BitVec.ofNat 64)

/-- Scalar stores write the low bytes of the register, and no other byte. A store whose counters are clear, whose
address is aligned, which no range lock covers and which its core can let go at once, with no line of it waiting for
DRAM, writes the low 1, 2, 4 or 8 bytes of its register at the physical address that its page maps, or at the view
offset that a raw window reaches; every other byte of memory and of every view reads as before (but for what a full
cache gives up), and no register or flag changes. Behind an access that the core holds and that stays, since the
context stops or since the page of that access is absent and has been asked for, the store is held too, in order,
and the thread goes on. A misaligned address raises the misalignment trap. -/
def Obligations.StoresWriteTheirBytes : Prop :=
  ∀ (s : State) (w : Option (Fin 4)) (r a : Fin 32) (imm : BitVec 34), Canonical s →
    let va := (s.x a + BitVec.ofInt 64 imm.toInt).toNat
    let ok := fun (i : Instr) (n : Nat) =>
      let v := (s.x r).toNat % 2 ^ (8 * n)
      let keep := fun (t : State) => SameX s t ∧ SameV s t ∧ SameM s t ∧ SameK s t ∧ SameFlags s t ∧ MemFrame s t ∧ EndOfBody s t
      (va % n ≠ 0 → exec i s = .next (s.takeTrap { cause := 7, addr := va })) ∧
      (∀ l pa, va % n = 0 → s.h.t.post.clear (waitOfPfx w) = true → lockJudge true 0 va n s.locks = .ok →
        s.reaches va .store = .ok l pa →
        (l.kind ≠ 5 → s.letsGo → s.stores pa n → va + n ≤ l.va + pageBytes l.size →
          Answers (exec i s) fun t => StoreMem s t pa n v ∧ t.h.t.scr = s.h.t.scr ∧ keep t) ∧
        (l.kind = 5 → s.onScr va = true → s.h.t.post.later = [] → winRaw l.win = true → ∀ b o, b = winBuf l.win → o = s.scrOffset va → s.mayWrite b o n →
          Answers (exec i s) fun t => Mem.readN (t.h.t.scr.view b) o n = v ∧
            SameOutside (s.h.t.scr.view b) (t.h.t.scr.view b) o n ∧ SameButView s t b ∧ SameMem s t ∧ keep t)) ∧
      (∀ q rest, va % n = 0 → s.h.t.post.clear (waitOfPfx w) = true → lockJudge true 0 va n s.locks = .ok → s.onScr va = false →
        s.h.t.post.later = q :: rest →
        (s.isStopping s.h.task.ctx = true ∨ (∃ vb nb vv g, q.what = .store vb nb vv ∧ q.bank = none ∧ q.ask = some vb ∧
          s.reaches vb .store = .fault 1 ∧ s.regionOf s.h.task.ctx vb = some g ∧ g.kind ≠ 4)) → Answers (exec i s) fun t =>
          t.h.t.post = { s.h.t.post with later := s.h.t.post.later ++ [{ entry := 0, pc := s.h.pc.toNat, what := .store va n v }] } ∧
          SameX s t ∧ SameV s t ∧ SameM s t ∧ SameK s t ∧ SameFlags s t ∧ SameWorld s t ∧ t.h.t.scr = s.h.t.scr ∧ EndOfBody s t)
    ok (.st8 w r a imm) 1 ∧ ok (.st16 w r a imm) 2 ∧ ok (.st32 w r a imm) 4 ∧ ok (.st64 w r a imm) 8

/-- A store that its page refuses is recorded in the journal. A plain store of 1, 2, 4, 8 or 192 bytes to a page of no
scratchpad region, whose translation fails with PROT, OWNER or another code that is not repaired, completes; with no
earlier access held by the core it takes the lowest free journal entry and records there the class of the refusal,
its code, the pc and the address, and adds a refusal context fault that does not stop the context; no byte of memory
and no register changes; with no free entry the core holds the store until one is free. A FREEZE that finds no free
entry waits, unless every entry is refused and no handler is active: then the posted-refusal trap is taken instead. -/
def Obligations.RefusedStoresArePosted : Prop :=
  (∀ (s : State) (w : Option (Fin 4)) (rnd : Option Rnd) (r a : Fin 32) (imm : BitVec 34) (g : Region) (c : Nat),
    let va := (s.x a + BitVec.ofInt 64 imm.toInt).toNat
    let keep := fun (t : State) => SameX s t ∧ SameV s t ∧ SameM s t ∧ SameK s t ∧ SameMem s t ∧ EndOfBody s t
    let ok := fun (i : Instr) (n al v : Nat) =>
    va % al = 0 → s.h.t.post.clear (waitOfPfx w) = true → lockJudge true 0 va n s.locks = .ok → s.letsGo →
    s.reaches va .store = .fault c → c ≠ 1 → s.regionOf s.h.task.ctx va = some g → g.kind ≠ 5 →
    (∀ k, s.h.t.post.freeEntry = some k → k < s.h.t.post.j.size → Answers (exec i s) fun t => keep t ∧
      (let e := t.h.t.post.j.getD k {}
       e.v = true ∧ e.ref = true ∧ e.fault = 4 ∧ e.tcode = c ∧ e.addr = va ∧ e.pc = s.h.pc.toNat ∧ e.out = 0) ∧
      (∀ m, m ≠ k → t.h.t.post.j.getD m {} = s.h.t.post.j.getD m {}) ∧ t.h.t.post.later = [] ∧
      ∀ x, s.ctx? s.h.task.ctx = some x → ∃ y f, t.ctx? s.h.task.ctx = some y ∧ y.pend = x.pend ++ [(f, false)] ∧
        nth f 0 = 0x0B * 2 ^ 56 + s.pkgOf s.h * 2 ^ 38) ∧
    (s.h.t.post.freeEntry = none → Answers (exec i s) fun t => keep t ∧
      t.h.t.post = { s.h.t.post with later := [{ entry := 0, pc := s.h.pc.toNat, what := .store va n v }] })
    ok (.st8 w r a imm) 1 1 ((s.x r).toNat % 2 ^ 8) ∧ ok (.st16 w r a imm) 2 2 ((s.x r).toNat % 2 ^ 16) ∧
    ok (.st32 w r a imm) 4 4 ((s.x r).toNat % 2 ^ 32) ∧ ok (.st64 w r a imm) 8 8 ((s.x r).toNat % 2 ^ 64) ∧
    (Unbound s [r] → ok (.vst w rnd r a imm) 192 64 (s.v r).toNat)) ∧
  ∀ (s : State) (w : Fin 4) (ty sz : Fin 16) (off : BitVec 16) (a g : Fin 32),
    let va := (s.x a + off.signExtend 64).toNat
    badType ty.val sz.val = false → (s.x g).toNat ≤ 65535 → va % cellBytes ty.val sz.val = 0 → s.h.t.pj = none →
    s.h.t.post.freeEntry = none →
    ((s.h.ctl.h = true ∨ s.h.t.post.allRefused = false) → exec (.freeze w ty sz off a g) s = .next (s.block .journal)) ∧
    (∀ i, s.h.ctl.h = false → s.h.t.post.allRefused = true → s.h.t.post.firstRefused = some i →
      exec (.freeze w ty sz off a g) s =
        .next (s.takeTrap { cause := 0x16, addr := (s.h.t.post.j.getD i {}).addr % 2 ^ 57, detail := i }))

/-- VLD, VST, VSPILL and VFILL. A vector load or store at an aligned address within one page, with its counters clear,
no range lock in the way, no access held by the core and its register not bound to a stream, reads or writes the 192
bytes of memory unchanged, or decodes and encodes them through the window the page maps (Tables 2.4 to 2.6); a VST
to memory changes no byte outside those 192 (but for what a full cache gives up), and one through a window none
outside those the window reaches; a misaligned address raises the misalignment trap. With slots 0 to 63, VSPILL
stores an unbound register in its slot and no other slot, and the spill map has a place for it, VFILL writes a slot
to an unbound register, and nothing else changes; a slot above 63 is an illegal instruction. The memories are taken
in canonical form. -/
def Obligations.VectorLoadsStoresAndSpills : Prop :=
  (∀ (s : State) (w : Option (Fin 4)) (rnd : Option Rnd) (d a : Fin 32) (imm : BitVec 34) (l : Leaf) (pa : Nat),
    Canonical s → Unbound s [d] →
    let va := (s.x a + BitVec.ofInt 64 imm.toInt).toNat
    let o := s.scrOffset va
    let b := winBuf l.win
    let q := winReach l.win o
    let sc := if l.win = 5 then (Mem.read (s.h.t.scr.view 1) (s.h.ctl.sptr.toNat + o / 192)).toNat else 0
    let keep := fun (t : State) => SameX s t ∧ SameM s t ∧ SameK s t ∧ MemFrame s t ∧ EndOfBody s t
    let scale := l.win = 5 → s.mayRead 1 (s.h.ctl.sptr.toNat + o / 192) 1
    (va % 64 ≠ 0 → s.h.t.popped = false →
      exec (.vld w d a imm) s = .next (s.takeTrap { cause := 7, addr := va }) ∧
      exec (.vst w rnd d a imm) s = .next (s.takeTrap { cause := 7, addr := va })) ∧
    (va % 64 = 0 → s.h.t.post.clear (waitOfPfx w) = true → va + 192 ≤ l.va + pageBytes l.size → s.h.t.post.later = [] →
      (lockJudge false 0 va 192 s.locks = .ok → s.reaches va .load = .ok l pa →
        (l.kind ≠ 5 → s.isLost pa 192 = false → s.fills pa 192 → Answers (exec (.vld w d a imm) s) fun t =>
          VAfter s t d (BitVec.ofNat 1536 (Mem.readN s.mem pa 192)) ∧ LoadMem s t ∧ SameFlags s t ∧ t.h.t.scr = s.h.t.scr ∧ keep t) ∧
        (l.kind = 5 → o % winAlign l.win = 0 → s.mayRead b q.1 q.2 → scale →
          ∀ r, r = winDecode l.win (Mem.readN (s.h.t.scr.view b) q.1 q.2) sc → Answers (exec (.vld w d a imm) s) fun t =>
            VAfter s t d r.1 ∧ FlagsAfter s t (r.2.zeroExtend 64) ∧ SameMem s t ∧ t.h.t.scr = s.h.t.scr ∧ keep t)) ∧
      (lockJudge true 0 va 192 s.locks = .ok → s.reaches va .store = .ok l pa →
        (s.onScr va = false → s.letsGo → s.stores pa 192 → Answers (exec (.vst w rnd d a imm) s) fun t =>
          StoreMem s t pa 192 (s.v d).toNat ∧ SameFlags s t ∧ t.h.t.scr = s.h.t.scr ∧
            SameV s t ∧ keep t) ∧
        (l.kind = 5 → s.onScr va = true → o % winAlign l.win = 0 → s.mayWrite b q.1 q.2 → scale →
          ∀ e, e = winEncode l.win sc (s.v d) (s.rnd rnd) → Answers (exec (.vst w rnd d a imm) s) fun t =>
            Mem.readN (t.h.t.scr.view b) q.1 q.2 = e.1 % 2 ^ (8 * q.2) ∧
            SameOutside (s.h.t.scr.view b) (t.h.t.scr.view b) q.1 q.2 ∧ SameButView s t b ∧
            FlagsAfter s t ((unmasked rnd e.2).zeroExtend 64) ∧ SameMem s t ∧ SameV s t ∧ keep t)))) ∧
  (∀ (s : State) (r : Fin 32) (slot : Fin 512),
      (63 < slot.val → exec (.vspill r slot) s = .next (s.takeTrap { cause := 1, addr := s.word0 }) ∧
        exec (.vfill r slot) s = .next (s.takeTrap { cause := 1, addr := s.word0 })) ∧
      (slot.val ≤ 63 → Unbound s [r] →
        (Answers (exec (.vspill r slot) s) fun t =>
          t.h.t.scr = { s.h.t.scr with spill := t.h.t.scr.spill, spillMap := t.h.t.scr.spillMap } ∧
          (∃ p, (slot.val, p) ∈ t.h.t.scr.spillMap) ∧
          (∀ n, assocGet 0 n t.h.t.scr.spill = if n = slot.val then s.v r else assocGet 0 n s.h.t.scr.spill) ∧
          SameX s t ∧ SameV s t ∧ SameM s t ∧ SameK s t ∧ SameFlags s t ∧ SameWorld s t ∧ SameCtl s t ∧ EndOfBody s t) ∧
        WritesVF (exec (.vfill r slot) s) s r (assocGet 0 slot.val s.h.t.scr.spill) 0))

/-- FENCE.J, FENCE.M, CLEANR, INVALR and PRF. FENCE.J completes when every journal entry within its scope has all its
replies and the core holds no lattice operation whose home is not known, and FENCE.M when the core holds no store
and its scope is core or cluster or no write-back of the thread is under way; otherwise each waits; a scope above 5
is illegal. CLEANR and INVALR of a range within one mapped page put the write-back or removal of its cached lines
under way, the dirty ones with what they hold now, leave them clean, and complete, and of no bytes only complete.
PRF completes whatever its address. None changes a register or a flag, and no byte of memory but what a line that a
full cache gives up for a prefetched one changes. -/
def Obligations.FencesAndMaintenanceComplete : Prop :=
  ∀ s : State,
    let keep := fun (t : State) => SameX s t ∧ SameV s t ∧ SameM s t ∧ SameK s t ∧ SameFlags s t ∧
      t.h.t.scr = s.h.t.scr ∧ SameCtl s t ∧ EndOfBody s t
    (∀ k : Fin 8, 5 < k.val → exec (.fenceJ k) s = .next (s.takeTrap { cause := 1, addr := s.word0 }) ∧
      exec (.fenceM k) s = .next (s.takeTrap { cause := 1, addr := s.word0 })) ∧
    (∀ k : Fin 8, k.val ≤ 5 →
      ((∀ e, e ∈ s.h.t.post.j.toList → e.v = true → e.hscope ≤ k.val → e.out = 0) →
        (∀ l, l ∈ s.h.t.post.later → l.unresolved = false) → Answers (exec (.fenceJ k) s) fun t => keep t ∧ SameWorld s t) ∧
      (((∃ e, e ∈ s.h.t.post.j.toList ∧ e.v = true ∧ e.hscope ≤ k.val ∧ e.out ≠ 0) ∨
          ∃ l, l ∈ s.h.t.post.later ∧ l.unresolved = true) →
        exec (.fenceJ k) s = .next (s.block (.fenceJ k.val))) ∧
      ((∀ l, l ∈ s.h.t.post.later → l.isStore = false) →
        ((k.val < 2 ∨ ∀ b, b ∈ s.lat.writeBacks → b.hart ≠ s.h.id) →
          Answers (exec (.fenceM k) s) fun t => keep t ∧ SameWorld s t) ∧
        (2 ≤ k.val → (∃ b, b ∈ s.lat.writeBacks ∧ b.hart = s.h.id) → exec (.fenceM k) s = .next (s.block (.fenceM true)))) ∧
      ((∃ l, l ∈ s.h.t.post.later ∧ l.isStore = true) → exec (.fenceM k) s = .next (s.block (.fenceM (decide (2 ≤ k.val)))))) ∧
    (∀ (w : Option (Fin 4)) (a b : Fin 32) (inv : Bool), s.h.t.post.clear (waitOfPfx w) = true →
      let i : Instr := if inv then .invalr w a b else .cleanr w a b
      let lo := (s.x a).toNat
      let n := (s.x b).toNat
      (n = 0 → Answers (exec i s) fun t => keep t ∧ SameWorld s t) ∧
      (∀ l pa, n ≠ 0 → lo + n ≤ 2 ^ 57 → s.h.t.post.later = [] → s.reaches lo .maint = .ok l pa →
        lo + n ≤ l.va + pageBytes l.size →
        let hit := fun (c : CLine) => s.lineIn s.h.task.ctx lo (lo + n) c.line
        Answers (exec i s) fun t => keep t ∧ SameMem s t ∧
          t.lat.cache = s.lat.cache.map (fun c => if hit c then { c with dirty := false } else c) ∧
          ∃ ls, t.lat.writeBacks = s.lat.writeBacks ++
              [{ hart := s.h.id, ctx := s.h.task.ctx, lo := lo, hi := lo + n, inval := inv, lines := ls }] ∧
            (∀ x, x ∈ ls ↔ (∃ c, c ∈ s.lat.cache ∧ hit c = true ∧ c.line = x.1) ∧
              x.2 = if s.lat.cache.any (fun c => c.line == x.1 && c.dirty) then some (Mem.readN s.mem (64 * x.1) 64) else none))) ∧
    (∀ (w : Option (Fin 4)) (a : Fin 32) (imm : BitVec 34), s.h.t.post.clear (waitOfPfx w) = true →
      Answers (exec (.prf w a imm) s) fun t => keep t ∧ LoadMem s t ∧ MemFrame s t)

/-- SEND, SENDH and REPLY send one message. With room in the outbox and the payload in the data memory, SEND and SENDH
send the message whose header has H, the CHAN, LEN, TYPE and low 20 bits of xb and the core's own node, and REPLY
the same on channel 1 with the TAG of the current message to its source: to a rill core; through a neighbour port
one hop; to the host through the host interface; and to a compute core as an operation reply, a resume or a redirect
acknowledgement by its TYPE, when a core state there awaits one and its context does not stop, and otherwise
nothing. A package that does not exist counts the message as undelivered. A full outbox holds the group; CHAN 3, an
unassigned endpoint, a node above 2^28, a port of another package, a handler address that is no multiple of 4 and a
REPLY to a message with H = 1 or a zero header are illegal operands; no register changes. -/
def Obligations.SendAndReplyBuildTheirMessage : Prop :=
  ∀ (s : State) (d a b : Fin 32) (n : Nat), s.h.id = .rill n →
    let go := fun (i : Instr) (node pa hdr : Nat) =>
      let len := bits hdr 60 56
      let e := node % 1024
      let m : RMsg := { hdr := hdr, payload := Mem.words s.h.r.dmem pa len, src := n, dst := node }
      let here := node / 1024 = n / 1024 ∨ Config.packagePresent (node / 1024) = true
      let core := isPort e = false ∧ here ∧ 0x100 ≤ e ∧ e < 0x210
      let sends := fun (ctx : Nat) (d : Dest) (b : Body) => Answers (exec i s) fun t =>
        t.lat = { s.lat with
          net := s.lat.net ++ [{ src := .rill n, ctx := ctx, dest := d, body := b }], sent := bumpCount ctx s.lat.sent } ∧
        t.h.r = s.h.r ∧ SameX s t ∧ RillFrame s t ∧ EndOfBody s t
      (node < 2 ^ 28 → endpointOk e = true → bits hdr 62 61 ≠ 3 → (hdr.testBit 63 = true → hdr % 4 = 0) →
        (isPort e = true → node < 1024) → (len = 0 ∨ InData pa (8 * len) 8) →
        (s.outboxFull n = false →
          (isPort e = false → ¬ (0x100 ≤ e ∧ e < 0x210) → e ≠ 0x3FF → here → sends 0 (.node node) (.rill m)) ∧
          (isPort e = true → sends 0 (.node (Config.neighbour n (e - 0x3F0)))
            (.rill { m with dst := Config.neighbour n (e - 0x3F0), port := some (e - 0x3F0) })) ∧
          (e = 0x3FF → here → sends 0 .host (.rill m)) ∧
          (isPort e = false → ¬ here → Answers (exec i s) fun t => t.lat = s.lat ∧
            t.h.r = { s.h.r with undel := (s.h.r.undel + 1) % 2 ^ 32 } ∧ SameX s t ∧ RillFrame s t ∧ EndOfBody s t) ∧
          (core → (hdr.testBit 63 = true ∨ s.coreOfNode m = none) →
            Answers (exec i s) fun t => t.lat = s.lat ∧ t.h.r = s.h.r ∧ SameX s t ∧ RillFrame s t ∧ EndOfBody s t) ∧
          (∀ c, core → hdr.testBit 63 = false → s.coreOfNode m = some c → s.isStopping c.ctx = false →
            let slot := bits hdr 19 0
            (∀ o, hdrType hdr = 1 → s.work.ops.find? (fun o => o.core == c.id && (o.slot == slot && !o.replied)) = some o →
              sends c.ctx (.core c.id) (.opReply c.id slot o.gen (nth m.payload 0) (nth m.payload 1))) ∧
            (∀ va, hdrType hdr = 2 → slot < 8 → (s.hart? (.thread c.id slot)).bind Hart.repairOf = some va →
              sends c.ctx (.core c.id) (.resume c.ctx va (.thread c.id slot) 0)) ∧
            (∀ o, hdrType hdr = 3 → s.work.ops.find? (fun o => o.core == c.id && (o.slot == slot && o.entry)) = some o →
              sends c.ctx (.core c.id) (.redirectAck c.id slot o.gen)))) ∧
        (s.outboxFull n = true → exec i s = .next (s.block .outbox))) ∧
      ((2 ^ 28 ≤ node ∨ endpointOk e = false ∨ bits hdr 62 61 = 3 ∨ (hdr.testBit 63 = true ∧ hdr % 4 ≠ 0) ∨
          (isPort e = true ∧ 1024 ≤ node)) →
        exec i s = .next (s.takeTrap { cause := 0x0F, addr := s.word0 }))
    let x := (s.x b).toNat
    let own := n / 1024 % 2 ^ 18 * 2 ^ 30 + n % 1024 * 2 ^ 20
    go (.send d a b) (s.x a).toNat (s.x d).toNat (bits x 62 61 * 2 ^ 61 + bits x 60 48 * 2 ^ 48 + own + bits x 19 0) ∧
    go (.sendh d a b) (s.x a).toNat (s.x d).toNat
      (2 ^ 63 + bits x 62 61 * 2 ^ 61 + bits x 60 48 * 2 ^ 48 + own + bits x 19 0) ∧
    (∀ cur, cur = (s.h.r.levels.getD s.h.r.level {}).hdr →
      (cur ≠ 0 → cur.testBit 63 = false → go (.reply a b) (bits cur 47 30 * 1024 + bits cur 29 20) (s.x b).toNat
        (2 ^ 61 + bits (s.x a).toNat 60 48 * 2 ^ 48 + own + bits cur 19 0)) ∧
      ((cur = 0 ∨ cur.testBit 63 = true) →
        exec (.reply a b) s = .next (s.takeTrap { cause := 0x0F, addr := s.word0 })))

/-- RECV, RECV.LD and RECV.ST. RECV writes the next unread payload word to xd and leaves one word fewer, and with none
left is an illegal operand; RECV.LD and RECV.ST read and write the 8 bytes at an address in the data memory and no
other byte; a misaligned address raises the misalignment trap and one beyond the memory the protection trap with
code PROT. -/
def Obligations.ReceiveFormsReadAndWriteData : Prop :=
  ∀ (s : State) (d a b : Fin 32) (n : Nat), s.h.id = .rill n → Canonical s →
    let l := s.h.r.levels.getD s.h.r.level {}
    let p := (s.x a).toNat
    let stop := fun (i : Instr) =>
      (p % 8 ≠ 0 → exec i s = .next (s.takeTrap { cause := 7, addr := p })) ∧
      (p % 8 = 0 → 0x40000 < p + 8 → exec i s = .next (s.takeTrap { cause := 9, addr := p, detail := 6 }))
    (∀ v rest, s.h.r.level < s.h.r.levels.size → l.left = v :: rest → Answers (exec (.recv d) s) fun t =>
      XAfter s t d (BitVec.ofNat 64 v) ∧ (t.h.r.levels.getD t.h.r.level {}).left = rest ∧
      t.h.r = { s.h.r with levels := t.h.r.levels } ∧ t.lat = s.lat ∧ SameFlags s t ∧ RillFrame s t ∧ EndOfBody s t) ∧
    (l.left = [] → exec (.recv d) s = .next (s.takeTrap { cause := 0x0F, addr := s.word0 })) ∧
    (InData p 8 8 →
      WritesX (exec (.recvLd d a) s) s d (BitVec.ofNat 64 (Mem.readN s.h.r.dmem p 8)) ∧
      Answers (exec (.recvSt a b) s) fun t => Mem.readN t.h.r.dmem p 8 = (s.x b).toNat ∧
        SameOutside s.h.r.dmem t.h.r.dmem p 8 ∧ t.h.r = { s.h.r with dmem := t.h.r.dmem } ∧ t.lat = s.lat ∧ SameX s t ∧
        SameFlags s t ∧ RillFrame s t ∧ EndOfBody s t) ∧
    stop (.recvLd d a) ∧ stop (.recvSt a b)

/-- MRET ends the handler and runs the next. MRET discards the unread words of the level, clears its bank if the scrub
of a context asked for that, applies a pending mode, and then starts the handler of the oldest message of the
highest level that has work above every handler in progress (its header in x3, its payload words 0 to 4 in x4 to x8,
their number in x9), or resumes the highest handler in progress with its registers and pc, or leaves the core
waiting. -/
def Obligations.MretRunsTheNextHandler : Prop :=
  ∀ (s : State) (n : Nat), s.h.id = .rill n → s.h.Plain → s.h.stat ≠ .exited →
    let l := s.h.r.levels.getD s.h.r.level {}
    let x := if l.wipe = true then Vector.replicate 32 0 else s.h.x
    let r1 : Rill := { s.h.r with
      levels := s.h.r.levels.setIfInBounds s.h.r.level { l with x := x, active := false, left := [], board := [], wipe := false }
      mode := match s.h.r.pendMode with
        | some m => RMode4.ofCode m
        | none => s.h.r.mode
      pendMode := none }
    Answers (exec .mret s) fun t =>
      t.h.r.mode = r1.mode ∧ t.h.r.pendMode = none ∧ t.h.ctl = s.h.ctl ∧ t.h.r.dmem = s.h.r.dmem ∧ SameWorld s t ∧
      (∀ k m p, r1.nextLevel = some k → r1.oldest k = some m → r1.select m = some (k, p) →
        t.h.r.level = k ∧ t.h.pc = BitVec.ofNat 64 p ∧ t.x 3 = BitVec.ofNat 64 m.hdr ∧
        (∀ i : Fin 5, t.x ⟨4 + i.val, by omega⟩ = BitVec.ofNat 64 (nth m.payload i.val)) ∧
        t.x 9 = BitVec.ofNat 64 m.payload.length ∧ t.h.r.inbox = s.h.r.inbox.erase m) ∧
      (r1.nextLevel = none →
        (∀ b, r1.busy = some b → b ≠ s.h.r.level → t.h.r.level = b ∧ t.h.pc = (s.h.r.levels.getD b {}).pc ∧
          t.h.x = (s.h.r.levels.getD b {}).x ∧ t.h.r.inbox = s.h.r.inbox) ∧
        (r1.busy = none → t.h.x = x ∧ t.h.r = r1))

/-- DTCFG, BQPUSH and BQWAIT. DTCFG in START or RECOVERY writes one dispatch entry and no other, and outside those
modes, with an index above 255, a nonzero reserved bit or V = 0 for entry 0, is an illegal operand; BQPUSH on a
base-die rill core appends the unit its entry describes, if the entry table of the bank unit it names has the entry,
waits while 256 are queued and refuses reserved bits and an invalid entry; BQWAIT takes the oldest completion record
and waits for one; both are illegal instructions on the other rill-core kinds. -/
def Obligations.DispatchTableAndBankQueue : Prop :=
  ∀ (s : State) (d a b : Fin 32) (n : Nat), s.h.id = .rill n →
    let i := (s.x a).toNat
    let e := (s.x b).toNat
    let p := (s.x a).toNat
    let w := Mem.words s.h.r.dmem p 8
    let mode := s.h.r.mode = .start ∨ s.h.r.mode = .recovery
    let bad := 255 < i ∨ bits e 60 20 ≠ 0 ∨ e % 4 ≠ 0 ∨ (i = 0 ∧ e.testBit 63 = false) ∨ ¬ mode
    let keep := fun (t : State) => t.lat = s.lat ∧ SameFlags s t ∧ RillFrame s t ∧ EndOfBody s t
    (¬ bad → Answers (exec (.dtcfg a b) s) fun t =>
      (∀ k, t.h.r.entry k = if k = i then e else s.h.r.entry k) ∧ t.h.r = { s.h.r with dtab := t.h.r.dtab } ∧ SameX s t ∧ keep t) ∧
    (bad → exec (.dtcfg a b) s = .next (s.takeTrap { cause := 0x0F, addr := s.word0 })) ∧
    (rillKind n ≠ 1 → exec (.bqpush a) s = .next (s.takeTrap { cause := 1, addr := s.word0 }) ∧
      exec (.bqwait d) s = .next (s.takeTrap { cause := 1, addr := s.word0 })) ∧
    (rillKind n = 1 → InData p 64 64 → ∀ u, u = bqUnitOf s.h.r.dmem w →
      let valid := ((s.bank (quarterOf n * 128 + u.ch * 16 + u.bank)).entries.getD u.entry {}).v = true
      (bqReserved w = false → valid → InData (nth w 5) 64 8 →
        (s.h.r.bq.length < 256 → Answers (exec (.bqpush a) s) fun t =>
          t.h.r = { s.h.r with bq := s.h.r.bq ++ [u] } ∧ SameX s t ∧ keep t) ∧
        (256 ≤ s.h.r.bq.length → exec (.bqpush a) s = .next (s.block .bankQueue))) ∧
      ((bqReserved w = true ∨ ¬ valid) → exec (.bqpush a) s = .next (s.takeTrap { cause := 0x0F, addr := s.word0 }))) ∧
    (rillKind n = 1 →
      (∀ v rest, s.h.r.brec = v :: rest → Answers (exec (.bqwait d) s) fun t =>
        XAfter s t d (BitVec.ofNat 64 v) ∧ t.h.r = { s.h.r with brec := rest } ∧ keep t) ∧
      (s.h.r.brec = [] → exec (.bqwait d) s = .next (s.block .bankRecord)))

/-- RCOMB and BADDQ write one block of the data memory. On a cluster rill core, RCOMB with its blocks in the data memory
at multiples of 64 writes to the 192 bytes at xd the lane results of its operation by c.rmode; on other kinds it is
an illegal instruction; BADDQ requantises the exact lane sums of the records at xa and xb over the record at xa,
with its scale in xd; the flags go to c.fflags, and no other byte and no other register changes. -/
def Obligations.RouterAdderCombinesBlocks : Prop :=
  ∀ (s : State) (rnd : Option Rnd) (d a b : Fin 32) (n : Nat), s.h.id = .rill n → Canonical s →
    let p := (s.x a).toNat
    let q := (s.x b).toNat
    let o := (s.x d).toNat
    let m := s.rnd none
    let x := lane 32 (s.block192 p)
    let y := lane 32 (s.block192 q)
    let exact := fun (r : FVal × Flags) => ((fp32.round r.1 m).1, r.2 ||| (fp32.round r.1 m).2)
    let put := fun (i : Instr) (w : Nat) (g : Nat → Nat × Flags) =>
      Answers (exec i s) fun t =>
        Mem.readN t.h.r.dmem o 192 = packCodes w ((List.range 48).map fun j => (g j).1) % 2 ^ 1536 ∧
        SameOutside s.h.r.dmem t.h.r.dmem o 192 ∧ t.h.r = { s.h.r with dmem := t.h.r.dmem } ∧
        FlagsAfter s t (laneFlags none ((List.range 48).map g)) ∧ t.lat = s.lat ∧ SameX s t ∧ RillFrame s t ∧ EndOfBody s t
    let two := fun (i : Instr) (g : Nat → Nat × Flags) =>
      (rillKind n = 0 → InData p 192 64 → InData q 192 64 → InData o 192 64 → put i 32 g) ∧
      (rillKind n ≠ 0 → exec i s = .next (s.takeTrap { cause := 1, addr := s.word0 }))
    two (.rcombAddF32 d a b) (fun j => exact ((fp32.value (x j)).add (fp32.value (y j)) m.rm)) ∧
    two (.rcombMaxF32 d a b) (fun j => f32minmax true (x j) (y j)) ∧
    two (.rcombMinF32 d a b) (fun j => f32minmax false (x j) (y j)) ∧
    two (.rcombAddI32 d a b) (fun j => ((x j + y j) % 2 ^ 32, 0)) ∧
    two (.rcombMaxI32 d a b)
      (fun j => (if lane32s (s.block192 p) j < lane32s (s.block192 q) j then y j else x j, 0)) ∧
    two (.rcombMinI32 d a b)
      (fun j => (if lane32s (s.block192 p) j < lane32s (s.block192 q) j then x j else y j, 0)) ∧
    (rillKind n = 0 → InData p 192 64 → InData o 192 64 →
      put (.rcombWidBf16 d a) 32 (fun j => (lane 16 (s.block192 p) j * 2 ^ 16, 0))) ∧
    (rillKind n = 0 → InData p 192 64 → InData o 192 64 →
      put (.rcombNarBf16 d a) 16 (fun j => bf16.round (fp32.value (x j)) m)) ∧
    (∀ (i : Instr) (f : BFmt), (i, f) ∈ [(Instr.baddqB48e4m3 rnd d a b, BFmt.b48e4m3), (.baddqB48e5m2 rnd d a b, .b48e5m2),
        (.baddqB48e2m1 rnd d a b, .b48e2m1), (.baddqB48i8 rnd d a b, .b48i8), (.baddqB48i4 rnd d a b, .b48i4)] →
      (p % 64 ≠ 0 → exec i s = .next (s.takeTrap { cause := 7, addr := p })) ∧
      (InData p 64 64 → InData q 64 64 →
        ∀ r, r = quantBlock f (List.zipWith (fun u v => (FVal.add u v (s.rnd rnd).rm).1) (s.recordValues f p) (s.recordValues f q))
          (s.rnd rnd) →
        Answers (exec i s) fun t =>
          Mem.readN t.h.r.dmem p 64 = (packCodes f.ebits r.2.1 + r.1 * 2 ^ 384) % 2 ^ 512 ∧
          SameOutside s.h.r.dmem t.h.r.dmem p 64 ∧ t.h.r = { s.h.r with dmem := t.h.r.dmem } ∧
          XAfter s t d (BitVec.ofNat 64 r.1) ∧ FlagsAfter s t ((unmasked rnd r.2.2).zeroExtend 64) ∧ t.lat = s.lat ∧
          RillFrame s t ∧ EndOfBody s t))

/-- JOIN, FILL, FREEZE and RENEW send one message to the home of their cell. With assigned type and size codes, a
generation up to 65535, an aligned address, clear counters, a free journal entry, a page that takes the operation,
and no access and no earlier message of the thread in its core that must go first, each completes with one message
to the cell's home (a freeze unit, or a gang member's landing region) that carries its generation (RENEW the next
one) and its contribution, on the lowest free journal entry; nothing else changes. JOIN of a FILL cell is an illegal
instruction, a generation above 65535 an illegal operand, and a misaligned address a misalignment trap. -/
def Obligations.PostedOperationsSendOneMessage : Prop :=
  ∀ (s : State) (w : Fin 4) (ty sz : Fin 16) (af : Bool) (off : BitVec 16) (a g c : Fin 32) (e : Nat),
    let va := (s.x a + off.signExtend 64).toNat
    let gen := (s.x g).toNat
    s.h.t.pj = none → s.h.t.post.freeEntry = some e → s.h.t.post.clear w.val = true → s.letsGo →
    let posts := fun (i : Instr) (q : LatKind) (kind : LKind) (y z gn v al : Nat) =>
      (va % al ≠ 0 → gen ≤ 65535 → exec i s = .next (s.takeTrap { cause := 7, addr := va })) ∧
      (65535 < gen → exec i s = .next (s.takeTrap { cause := 0x0F, addr := s.word0 })) ∧
      ∀ l pa h, gen ≤ 65535 → va % al = 0 → s.reaches va .latUpdate = .ok l pa → q.refuses l = false →
        s.homeOf l pa va = some h → s.mustStay s.h h.dest kind.isUpdate = false → Answers (exec i s) fun t =>
          Posts s t e h.dest { kind := kind, ty := y, sz := z, gen := gn, members := [
            { who := s.me, entry := e, pc := s.h.pc.toNat, va := va, pa := h.pa, v := v }] }
    let n := 8 * 2 ^ sz.val
    let x := (s.x c).toNat
    (badType ty.val 0 = false → ty.val ≠ 8 → (af = true → ty.val = 6) → (ty.val = 5 → Unbound s [c]) →
      posts (.join w ty af off a g c) { ty := some ty.val, sz := none, gang := false } .join ty.val 0 gen
        (if ty.val = 5 then (s.v c).toNat % 2 ^ 512 else if ty.val = 9 then x % 2 ^ 32
          else if ty.val = 6 then x + af.toNat * 2 ^ 64 else x) (cellBytes ty.val 0)) ∧
    posts (.fill w 0 0 off a g c) { ty := some 8, sz := some 0, gang := true } .fill 8 0 gen x 8 ∧
    (sz.val ≤ 4 → Unbound s [c] →
      posts (.fill w 1 sz off a g c) { ty := some 8, sz := some sz.val, gang := true } .fill 8 sz.val gen
        ((s.v c).toNat % 2 ^ (8 * n)) n) ∧
    (∀ v, sz.val ≤ 9 → x % n = 0 → s.loads x n v → s.fillRoom n →
      (s.translate (some s.coreId) (physDie s.phys) s.h.task.ctx s.h.task.num x .load).1 = s →
      posts (.fill w 2 sz off a g c) { ty := some 8, sz := some sz.val, gang := true } .fill 8 sz.val gen v n) ∧
    (badType ty.val sz.val = false →
      posts (.freeze w ty sz off a g) { ty := some ty.val, sz := none, gang := true } .freeze ty.val sz.val gen 0
        (cellBytes ty.val sz.val) ∧
      posts (.renew w ty sz off a g) { ty := some ty.val, sz := none, gang := true } .renew ty.val sz.val ((gen + 1) % 65536) 0
        (cellBytes ty.val sz.val)) ∧
    exec (.join w 8 af off a g c) s = .next (s.takeTrap { cause := 1, addr := s.word0 })

/-- JOINV and FREEZE.R send one message for each freeze unit. JOINV with no active lane only completes; with its active
lanes in one freeze unit (each translated by a TLB copy), and no access and no earlier message of the thread in its
core that must go first, it sends one message whose members are those lanes in ascending order, each with its
address and the lane value in the cell's layout; with lanes in several units, of one page or of several, one such
message to each, in the order of their first lanes, and the journal entry counts them. FREEZE.R of no bytes only
completes; over LAT pages that TLB copies translate, with no message of the thread outstanding, it sends one FREEZE
of its generation to every freeze unit that meets the range, in ascending order, with the type and size of its page,
and the journal entry counts them. -/
def Obligations.JoinvAndFreezeRangeSendOneMessageEach : Prop :=
  ∀ (s : State) (w : Fin 4) (ty : Fin 16) (m : Fin 8) (off : BitVec 16) (d a g c : Fin 32) (e : Nat),
    let va := (s.x a + off.signExtend 64).toNat
    let gen := (s.x g).toNat
    gen ≤ 65535 → s.h.t.pj = none → s.h.t.post.freeEntry = some e → s.h.t.post.clear w.val = true →
    (joinvType ty.val = true → va % cellBytes ty.val 0 = 0 →
      (s.m m = 0 → Answers (exec (.joinv w ty m off d a g c) s) fun t =>
        EndOfBody s t ∧ SameWorld s t ∧ SameHart s t ∧ SameCtl s t ∧ SameX s t ∧ SameV s t ∧ SameM s t) ∧
      (s.m m ≠ 0 → Unbound s [d, c] → ∀ u : Nat,
        let on := (List.range 48).filter fun j => (s.m m).getLsbD j
        let at_ := fun j => (va + lane 32 (s.v d) j * cellBytes ty.val 0) % 2 ^ 64
        let tr := fun j => s.translate (some s.coreId) (physDie s.phys) s.h.task.ctx s.h.task.num (at_ j) .latUpdate
        ∀ (l : Leaf) (pa : Nat → Nat), l.kind = 3 → l.ctype = ty.val →
        (∀ j, j ∈ on → tr j = (s, .ok l (pa j)) ∧ unitOf ty.val l.csize (pa j) = u) →
        s.letsGo → s.mustStay s.h (.unit u) true = false →
        Answers (exec (.joinv w ty m off d a g c) s) fun t =>
          Posts s t e (.unit u) { kind := .join, ty := ty.val, gen := gen, members := on.map fun j =>
            { who := s.me, entry := e, pc := s.h.pc.toNat, lane := j, va := at_ j, pa := pa j,
              v := laneValue ty.val (lane 32 (s.v c) j) } }) ∧
      (s.m m ≠ 0 → Unbound s [d, c] → s.letsGo →
        let on := (List.range 48).filter fun j => (s.m m).getLsbD j
        let at_ := fun j => (va + lane 32 (s.v d) j * cellBytes ty.val 0) % 2 ^ 64
        let tr := fun j => s.translate (some s.coreId) (physDie s.phys) s.h.task.ctx s.h.task.num (at_ j) .latUpdate
        ∀ (l : Nat → Leaf) (pa : Nat → Nat),
        (∀ j, j ∈ on → tr j = (s, .ok (l j) (pa j)) ∧ (l j).kind = 3 ∧ (l j).ctype = ty.val) →
        let u := fun j => unitOf ty.val (l j).csize (pa j)
        (∀ j, j ∈ on → s.mustStay s.h (.unit (u j)) true = false) →
        let us := (on.map u).eraseDups
        Answers (exec (.joinv w ty m off d a g c) s) fun t =>
          t.lat.net = s.lat.net ++ us.map (fun x => s.postedMsg ((us.takeWhile (· != x)).map Dest.unit) (.unit x)
            { kind := .join, ty := ty.val, gen := gen, members := (on.filter fun j => u j == x).map fun j =>
              { who := s.me, entry := e, pc := s.h.pc.toNat, lane := j, va := at_ j, pa := pa j,
                v := laneValue ty.val (lane 32 (s.v c) j) } }) ∧
          (t.h.t.post.j.getD e {}).out = us.length ∧ t.h.t.post.later = [] ∧
          SameX s t ∧ SameV s t ∧ SameM s t ∧ SameK s t ∧ SameMem s t ∧ EndOfBody s t)) ∧
    (let n := (s.x c).toNat
     (n = 0 → Answers (exec (.freezeR w off a g c) s) fun t =>
        EndOfBody s t ∧ SameWorld s t ∧ SameHart s t ∧ SameCtl s t ∧ SameX s t ∧ SameV s t ∧ SameM s t) ∧
     (2 ^ 32 ≤ n → exec (.freezeR w off a g c) s = .next (s.takeTrap { cause := 0x0F, addr := s.word0 })) ∧
     (∀ ls, 0 < n → n < 2 ^ 32 → va + n ≤ 2 ^ 57 → s.letsGo → s.h.t.post.sent = [] → s.latPages (va + n) va ls →
        let us := rangeUnits (va + n) va ls
        (us.map (·.2)).Nodup → e < s.h.t.post.j.size →
        Answers (exec (.freezeR w off a g c) s) fun t =>
          t.lat.net = s.lat.net ++ us.map (fun x => s.postedMsg ((us.takeWhile (· != x)).map fun y => Dest.unit y.2) (.unit x.2)
            { kind := .freeze, ty := x.1.ctype, sz := x.1.csize, gen := gen, members := [
              { who := s.me, entry := e, pc := s.h.pc.toNat, va := x.1.va + (x.2 - x.1.pa), pa := x.2 }] }) ∧
          (t.h.t.post.j.getD e {}).out = us.length ∧ t.h.t.post.later = [] ∧
          SameX s t ∧ SameV s t ∧ SameM s t ∧ SameK s t ∧ SameMem s t ∧ EndOfBody s t))

/-- THR and THR.F. With assigned codes, permitted triggers, an aligned address, clear counters, a page that takes the
read, and no access and no earlier message of the thread to the unit in its core that must go first, THR and THR.F
send their read with its triggers (THR.F asks for the freeze) and park the thread; when the answer has come, they
write its outcome to xd, and THR of an 8-byte FILL cell with no trigger also its value to the next register (zero
unless the outcome is 0); a trigger set that Table 3.4 does not permit raises trap 0x0D; an answer that is a trap is
taken. -/
def Obligations.ThresholdReadsParkAndComplete : Prop :=
  ∀ (s : State) (w : Fin 4) (ty sz : Fin 16) (nt : Fin 8) (off : BitVec 16) (d a g c : Fin 32),
    let va := (s.x a + off.signExtend 64).toNat
    let gen := (s.x g).toNat
    let two := ty.val = 8 ∧ nt.val = 0 ∧ sz.val = 0
    let keep := fun (t : State) => SameV s t ∧ SameM s t ∧ SameK s t ∧ SameFlags s t ∧ RegFrame s t ∧ EndOfBody s t
    (∀ o v, s.h.reply = some (.value o v) →
      (¬ two → Answers (exec (.thr w ty nt sz off d a g c) s) fun t => XAfter s t d (BitVec.ofNat 64 o) ∧ keep t) ∧
      (two → d.val < 31 → Answers (exec (.thr w ty nt sz off d a g c) s) fun t => keep t ∧
        ∀ r, t.x r = if r = 0 then s.x 0 else if r.val = d.val + 1 then BitVec.ofNat 64 (if o = 0 then v else 0)
          else if r = d then BitVec.ofNat 64 o else s.x r) ∧
      (Answers (exec (.thrF w ty sz off d a g) s) fun t => XAfter s t d (BitVec.ofNat 64 o) ∧ keep t)) ∧
    (∀ k x y, s.h.reply = some (.trap k x y) →
      exec (.thr w ty nt sz off d a g c) s = .next (s.takeTrap { cause := k, addr := x, detail := y }) ∧
      exec (.thrF w ty sz off d a g) s = .next (s.takeTrap { cause := k, addr := x, detail := y })) ∧
    (s.h.reply = none → badType ty.val sz.val = false → gen ≤ 65535 → va % cellBytes ty.val sz.val = 0 →
      (nt.val ≤ 4 → c.val + nt.val ≤ 32 → (nt.val = 0 → c = 0) → (two → d.val < 31) →
        triggersOk ty.val nt.val sz.val (s.x c).toNat (s.candidates c nt.val) = false →
        exec (.thr w ty nt sz off d a g c) s = .next (s.takeTrap { cause := 0x0D, addr := va })) ∧
      (∀ l pa h, va < 2 ^ 57 → s.h.t.post.clear w.val = true → s.reaches va .latRead = .ok l pa →
        LatKind.refuses { ty := some ty.val, sz := some sz.val, gang := true } l = false → s.homeOf l pa va = some h →
        s.h.t.post.later = [] → s.mustStay s.h h.dest false = false →
        let m : Member := { who := s.me, pc := s.h.pc.toNat, va := va, pa := h.pa, loc := h.loc }
        (nt.val ≤ 4 → c.val + nt.val ≤ 32 → (nt.val = 0 → c = 0) → (two → d.val < 31) → (ty.val = 5 → Unbound s [c]) →
          triggersOk ty.val nt.val sz.val (s.x c).toNat (s.candidates c nt.val) = true →
          Answers (exec (.thr w ty nt sz off d a g c) s) fun t => Parks s t h va
            { kind := .thr, ty := ty.val, sz := sz.val, gen := gen, members := [m], cand := ty.val == 8 && nt.val != 0
              trigs := if ty.val = 5 then [(s.v c).toNat % 2 ^ 512] else if ty.val ≠ 8 then [(s.x c).toNat]
                else if nt.val = 0 then [1] else s.candidates c nt.val }) ∧
        Answers (exec (.thrF w ty sz off d a g) s) fun t => Parks s t h va
          { kind := .thrF, ty := ty.val, sz := sz.val, gen := gen, members := [m] }))

/-- FRD and FRDV. A frozen read whose line a copy of its generation holds in the cluster cache writes the bytes of that
copy to xd at once; otherwise, with no access and no earlier message of the thread to the unit in its core that must
go first, it sends its read with its generation and parks; FRDV, of one to three lines, takes the lines that copies
hold from them, sends one read for each other line in ascending order and parks, or with no other line writes them
at once; when the answer has come, FRD writes the value, and FRDV the 64-byte lines it asked for, zero above them; a
trap among the answers is taken, of an FRDV that of its lowest line, and a stale-generation trap carries the
generation read. -/
def Obligations.FrozenReadsParkAndComplete : Prop :=
  ∀ (s : State) (w n : Fin 4) (off : BitVec 16) (d a g : Fin 32),
    let va := (s.x a + off.signExtend 64).toNat
    let gen := (s.x g).toNat
    let len := 2 ^ n.val
    let keep := fun (t : State) => SameV s t ∧ SameM s t ∧ SameK s t ∧ SameFlags s t ∧ SameMem s t ∧ EndOfBody s t
    let bad := fun (k x y : Nat) => s.takeTrap { cause := k, addr := x, detail := y, gexp := if k = 0x13 then gen else 0 }
    (∀ o v, s.h.reply = some (.value o v) →
      Answers (exec (.frd w n off d a g) s) fun t => XAfter s t d (BitVec.ofNat 64 v) ∧ keep t ∧ RegFrame s t) ∧
    (∀ k x y, s.h.reply = some (.trap k x y) → exec (.frd w n off d a g) s = .next (bad k x y) ∧
      exec (.frdv w n off d a g) s = .next (bad k x y)) ∧
    (∀ need got, s.h.reply = some (.lines need got) →
      (got.length < need → Answers (exec (.frdv w n off d a g) s) fun t => t.h.pc = s.h.pc ∧ SameX s t ∧ SameV s t) ∧
      (need ≤ got.length → (∀ r, r ∈ got → r.part < need → r.cause = 0) → WritesVF (exec (.frdv w n off d a g) s) s d
        (BitVec.ofNat 1536 (got.map (fun r => r.value % 2 ^ 512 * 2 ^ (512 * r.part))).sum) 0) ∧
      (need ≤ got.length → ∀ r, r ∈ got → r.part < need → r.cause ≠ 0 → (∀ q, q ∈ got → q.part < r.part → q.cause = 0) →
        (∀ q, q ∈ got → q.part = r.part → q = r) →
        exec (.frdv w n off d a g) s = .next (bad r.cause r.addr r.detail))) ∧
    (∀ l pa h, s.h.reply = none → gen ≤ 65535 → va % len = 0 → va < 2 ^ 57 → s.h.t.post.clear w.val = true →
      s.reaches va .latRead = .ok l pa → l.kind = 3 ∨ l.kind = 6 → s.homeOf l pa va = some h →
      s.h.t.post.later = [] → s.mustStay s.h h.dest false = false →
      (∀ q, l.kind = 3 → s.copyOf h.pa gen = some q → Answers (exec (.frd w n off d a g) s) fun t =>
        XAfter s t d (BitVec.ofNat 64 (q.img / 2 ^ (8 * (h.pa % 64)) % 2 ^ (8 * len))) ∧ keep t ∧ MemFrame s t) ∧
      ((l.kind = 6 ∨ s.copyOf h.pa gen = none) → Answers (exec (.frd w n off d a g) s) fun t => Parks s t h va
        { kind := .frd, gen := gen, len := len,
          members := [{ who := s.me, pc := s.h.pc.toNat, va := va, pa := h.pa, loc := h.loc }] }) ∧
      (n = 0 → va % 64 = 0 → Unbound s [d] → (l.kind = 6 ∨ s.copyOf h.pa gen = none) →
        Answers (exec (.frdv w n off d a g) s) fun t => Parks s t h va
          { kind := .frd, gen := gen, len := 64, part := 1,
            members := [{ who := s.me, pc := s.h.pc.toNat, va := va, pa := h.pa, loc := h.loc }] })) ∧
    (∀ (l : Nat → Leaf) (pa : Nat → Nat) (h : Nat → HomeAt), s.h.reply = none → s.h.stat = .ready → gen ≤ 65535 → va % 64 = 0 →
      va < 2 ^ 57 → n.val ≤ 2 → s.h.t.post.clear w.val = true → Unbound s [d] → s.h.t.post.later = [] →
      (∀ i, i ≤ n.val → s.translate (some s.coreId) (physDie s.phys) s.h.task.ctx s.h.task.num (va + 64 * i) .latRead =
          (s, .ok (l i) (pa i)) ∧ ((l i).kind = 3 ∨ (l i).kind = 6) ∧ s.homeOf (l i) (pa i) (va + 64 * i) = some (h i) ∧
        s.mustStay s.h (h i).dest false = false) →
      let hit := fun i => if (l i).kind = 3 then s.copyOf (h i).pa gen else none
      let all := List.range (n.val + 1)
      let miss := all.filter fun i => hit i == none
      (miss = [] → WritesVF (exec (.frdv w n off d a g) s) s d
        (BitVec.ofNat 1536 (all.map fun i => ((hit i).map (·.img)).getD 0 % 2 ^ 512 * 2 ^ (512 * i)).sum) 0) ∧
      (miss ≠ [] → Answers (exec (.frdv w n off d a g) s) fun t =>
        t.h.stat = .waiting (.reply va) ∧ t.h.pc = s.h.pc ∧
        t.h.reply = some (.lines (n.val + 1) ((all.filter fun i => hit i != none).map fun i =>
          { part := i, value := ((hit i).map (·.img)).getD 0, cause := 0, addr := va + 64 * i, detail := 0 })) ∧
        (let reads := fun (i : Nat) =>
          let m : Member := { who := s.me, pc := s.h.pc.toNat, va := va + 64 * i, pa := (h i).pa, loc := (h i).loc
                              seq := s.seqAfter ((miss.filter (· < i)).map fun k => (h k).dest) (h i).dest
                              home := some (h i).dest.home }
          ({ kind := .frd, gen := gen, len := 64, part := i + 1, members := [m] } : LReq)
         t.lat.net = s.lat.net ++
          miss.map fun i => { src := s.me, ctx := s.h.task.ctx, dest := (h i).dest, body := .lat (reads i) }) ∧
        SameX s t ∧ SameV s t ∧ SameM s t ∧ SameMem s t))

/-- MXS, MXZ and MXE issue one matrix operation; the numbers of its blocks. The numbers that a matrix operation
multiplies and adds are those of the spec's tables: a macro that is armed holds for each of its columns the integers
of its elements, for BF16 and FP16 aligned to the largest exponent of the column, for B48 the scale bytes, and for
each row the sum of its integers; an activation block is reduced in the same way from the tile's bytes and its scale
byte, and special values are marked; a block adds the exact sum of products, clamped or wrapped for I32, or rounded
once to FP32 and added with a second rounding, the canonical NaN for a special block. With operands within the
limits of its entry, every MXS variant, MXZ and MXE issues one operation of kind 1 to its core's engine, with the
token in its token register and the accumulator (and for MXE the source, destination and scale) ranges registered,
when the core holds no access of the thread; no other register and no byte changes. MXZ with no free token slot
raises the token trap with its register as the detail, and a clash with a registered range the range-lock trap. -/
def Obligations.MatrixInstructionsIssue : Prop :=
  (∀ (view : List Host.Cell) (fmt off soff region : Nat), fmt ≤ 13 →
    let a := armMacro view fmt off soff region
    let base := if 8 ≤ fmt then fmt - 6 else fmt
    let w := elemBits base
    let n := 4096 / w
    let code := fun (k j : Nat) => codeAt w (Mem.readN view (off + 512 * k) 512) j
    let q := fun (k j : Nat) => (a.q.getD k []).getD j 0
    let col := fun (j : Nat) => (List.range 48).map (fun k => code k j)
    let qs := fun (j : Nat) => (List.range 48).map (fun k => q k j)
    a.off = off ∧ a.fmt = fmt ∧ a.region = region ∧ a.q.length = 48 ∧
    (fmt < 2 → ∀ j, j < n → ∃ emax : Nat, a.col.getD j 0 = emax ∧
      (fmt = 0 → IsAligned 8 7 16 emax (col j) (qs j)) ∧ (fmt = 1 → IsAligned 5 10 13 emax (col j) (qs j))) ∧
    (2 ≤ fmt → ∀ k j, k < 48 → j < n → ¬ isSpecial base (code k j) → q k j = tableInt base (code k j)) ∧
    (8 ≤ fmt → ∀ j, j < n → a.col.getD j 0 = (Mem.read view (soff + j)).toNat) ∧
    ∀ k, k < 48 → a.csum.getD k 0 = ((List.range n).map (fun j => q k j)).sum) ∧
  (∀ (c : Scratch) (fmt afmt off kb g tile b : Nat), fmt ≤ 13 → afmt ≤ 1 → b < kb →
    (∀ j, j < kb → (c.macroAt (off + (g * kb + j) * 0x6000)).isSome = true) →
    let base := if fmt ∈ [2, 3, 8, 9] then 2 + afmt else if fmt ∈ [5, 7, 0xB, 0xD] then 5 else if 8 ≤ fmt then fmt - 6 else fmt
    let w := elemBits base
    let code := codeAt w (Mem.readN c.a (tile + b * (6 * w)) (6 * w))
    let codes := (List.range 48).map code
    let sc := (Mem.read c.a (tile + kb * (6 * w) + b)).toNat
    let l := c.mxBlocks fmt afmt off kb g tile
    l.length = kb ∧ ∃ a m, l[b]? = some (a, m) ∧ c.macroAt (off + (g * kb + b) * 0x6000) = some m ∧ a.q.length = 48 ∧
      (a.special = true ↔ (∃ i, i < 48 ∧ isSpecial base (code i)) ∨ (8 ≤ fmt ∧ sc = 255)) ∧
      (a.special = false →
        (base = 0 → ∃ emax : Nat, IsAligned 8 7 16 emax codes a.q ∧ a.f = (emax : Int) - 150) ∧
        (base = 1 → ∃ emax : Nat, IsAligned 5 10 13 emax codes a.q ∧ a.f = (emax : Int) - 38) ∧
        (2 ≤ base → (∀ i, i < 48 → a.q.getD i 0 = tableInt base (code i)) ∧
          a.f = tableExp base + if 8 ≤ fmt then (sc : Int) - 127 else 0))) ∧
  (∀ (fmt : Nat) (wrap : Bool) (a : ActBlock) (m : Armed) (j acc : Nat), m.fmt ≤ 13 → a.q.length = 48 → m.q.length = 48 → acc < 2 ^ 32 →
    let sum := ((List.range 48).map (fun k => a.q.getD k 0 * (m.q.getD k []).getD j 0)).sum
    let new := accumulate fmt wrap a m j acc
    let fw := if m.fmt = 0 then m.col.getD j 0 - 150 else if m.fmt = 1 then m.col.getD j 0 - 38
      else if 8 ≤ m.fmt then tableExp (m.fmt - 6) + (m.col.getD j 0 - 127) else tableExp m.fmt
    let near : RndMode := { rm := .rne, sat := .nosat }
    (fmt ∈ [5, 6, 7] → new < 2 ^ 32 ∧ (wrap = true → (new : Int) = (sextNat acc 32 + sum) % 2 ^ 32) ∧
      (wrap = false → sextNat new 32 = max (-(2 ^ 31)) (min (2 ^ 31 - 1) (sextNat acc 32 + sum)))) ∧
    (fmt ∉ [5, 6, 7] → (a.special = true → new = (f32add acc 0x7FC00000 near).1) ∧
      (a.special = false → new = (f32add acc (fp32.round (FVal.ofInt sum (a.f + fw) false) near).1 near).1))) ∧
  ∀ (s : State) (aft : After) (k : Fin 16) (a b c : Fin 32),
    let xa := (s.x a).toNat
    let xb := (s.x b).toNat
    let xc := (s.x c).toNat
    let here := Dest.core s.coreId
    (∀ (wrap z afmt : Bool) (ring : Fin 8) (ix fmt : Nat) (i : Instr),
      (ix, i) ∈ [(0, Instr.mxsBf16 aft wrap z afmt ring k a b c), (1, .mxsF16 aft wrap z afmt ring k a b c),
        (2, .mxsF8 aft wrap z afmt ring k a b c), (3, .mxsE2m1 aft wrap z afmt ring k a b c), (4, .mxsI8 aft wrap z afmt ring k a b c),
        (5, .mxsI4 aft wrap z afmt ring k a b c), (6, .mxsT2 aft wrap z afmt ring k a b c), (7, .mxsB48 aft wrap z afmt ring k a b c)] →
      let off := xa
      let kb := xb % 256
      let ng := xb / 256 % 256
      let m := xb / 65536
      let cb := xc % 2 ^ 20
      let cs := xc / 2 ^ 20
      let span := (m - 1) * cs + ng * mxN fmt * 4
      let r := s.h.t.scr.rings[ring]
      xa < 2 ^ 22 → xb < 2 ^ 32 → xc < 2 ^ 40 → 0 < kb → 0 < ng → kb * ng ≤ 128 → 0 < m → r.v = true → kb * mxBpb fmt ≤ r.tile →
      mxAccepts ix fmt = true → (∀ j, j < kb * ng → ∃ q, s.h.t.scr.macroAt (off + j * 0x6000) = some q ∧ q.fmt = fmt) →
      (wrap = true → 4 ≤ ix ∧ ix ≤ 6) → (afmt = true → ix = 2 ∨ (ix = 7 ∧ fmt < 0xA)) → (1 < m → ng * mxN fmt * 4 ≤ cs) →
      off % 0x6000 = 0 → cb % 64 = 0 → cs % 64 = 0 → s.h.t.scr.inOne 2 cb span = true →
      s.mayIssue 0 aft [⟨3, cb, cb + span, true, false⟩] → Answers (exec i s) fun t =>
        Issued s t aft k 1 (.mxs fmt afmt.toNat wrap z ring.val off kb ng m cb cs) [⟨3, cb, cb + span, true, false⟩] here ∧ SameMem s t) ∧
    (let rw := xb % 65536
     let m := xb / 65536
     let cb := xc % 2 ^ 20
     let cs := xc / 2 ^ 20
     let span := (m - 1) * cs + 64 * rw
     xb < 2 ^ 32 → xc < 2 ^ 40 → 0 < rw → rw ≤ 12288 → 0 < m → (1 < m → 64 * rw ≤ cs) → cb % 64 = 0 → cs % 64 = 0 →
     s.h.t.scr.inOne 2 cb span = true →
      (s.mayIssue 0 aft [⟨3, cb, cb + span, true, false⟩] → Answers (exec (.mxz aft k b c) s) fun t =>
        Issued s t aft k 1 (.mxz rw m cb cs) [⟨3, cb, cb + span, true, false⟩] here ∧ SameMem s t) ∧
      (badPri aft = false → s.h.t.post.later = [] → s.h.t.rlt = [] → 32 ≤ s.slotsHeld s.coreId s.h.coreSlot.2 →
        exec (.mxz aft k b c) s = .next (s.takeTrap { cause := 0x10, addr := 0, detail := k.val })) ∧
      (∀ e, badPri aft = false → s.h.t.post.later = [] → s.h.t.rlt = [e] → e.2.left = false → e.2.space = 3 → e.2.dir = true → e.2.start < cb + span → cb < e.2.stop →
        (e.2.kslot, e.2.kgen) ∉ s.aftNames aft →
        exec (.mxz aft k b c) s = .next (s.takeTrap { cause := 0x0B, addr := cb, detail := s.h.coreSlot.2 * 4 + e.1 }))) ∧
    (∀ (rnd : Option Rnd) (relu srci dbuf : Bool) (dfmt : Fin 8),
      let cb := xa % 2 ^ 20
      let cs := xa / 2 ^ 20 % 2 ^ 20
      let m := xa / 2 ^ 40
      let db := xb % 2 ^ 21
      let ds := xb / 2 ^ 21
      let nb := xc / 2 ^ 32
      let sp := s.h.ctl.sptr.toNat
      let dsp := if dbuf then 3 else 2
      let src : Opnd := { space := 3, lo := cb, n := (m - 1) * cs + 192 * nb, wr := false }
      let dst : Opnd := { space := dsp, lo := db, n := (m - 1) * ds + 48 * nb * mxeSize dfmt.val, wr := true }
      let scl : Opnd := { space := dsp, lo := sp, n := if dfmt = 5 then m * nb else 0, wr := true }
      let rngs : List Rng := [⟨3, cb, cb + src.n, false, false⟩, ⟨dsp, db, db + dst.n, true, false⟩, ⟨dsp, sp, sp + scl.n, true, false⟩]
      xa < 2 ^ 56 → xb < 2 ^ 42 → xc < 2 ^ 44 → 0 < m → 0 < nb → src.meets dst = false → (dfmt = 5 → src.meets scl = false) →
      dfmt ≠ 7 → cb % 64 = 0 → cs % 64 = 0 → db % 64 = 0 → ds % 64 = 0 → s.h.t.scr.refused [src, dst, scl] = none →
      s.mayIssue 0 aft rngs → Answers (exec (.mxe rnd aft relu srci dbuf dfmt k a b c) s) fun t =>
        Issued s t aft k 1 (.mxe relu srci dbuf.toNat dfmt.val (s.rnd rnd).rm.code (s.rnd rnd).sat.code cb cs m db ds (xc % 2 ^ 32) nb sp)
          rngs here ∧ SameMem s t)

/-- CPY, CPYA, CPYG, CPYS, SBIND and CPYR issue one operation. With operands within the limits of its entry and, where
it takes one, a descriptor block it may read, each issues one operation of its kind (2 copy, 3 stream, 6 remote
copy) that holds its operands and descriptor, with its ranges registered and its token in its token register; SBIND
also binds its stream register; no other register changes, and no byte but what a full cache gives up for the
descriptor's line. -/
def Obligations.CopiesAndStreamsIssue : Prop :=
  ∀ (s : State) (w : Fin 4) (rnd : Option Rnd) (aft : After) (dsp ssp ring vreg : Fin 8) (conv k : Fin 16) (a b c : Fin 32),
    let xa := (s.x a).toNat
    let xb := (s.x b).toNat
    let xc := (s.x c).toNat
    let rm := (s.rnd rnd).rm.code
    let sat := (s.rnd rnd).sat.code
    let here := Dest.core s.coreId
    let push := dsp = 4
    (badSpaces dsp.val ssp.val ring.val = false →
      (let g := convSizes conv.val
       let src : Opnd := { space := ssp.val, lo := xb, n := xc, wr := false }
       let dst : Opnd := { space := dsp.val, lo := xa, n := xc / g.1 * g.2, wr := true }
       let l := if push then [src] else [src, dst]
       conv.val ≤ 8 → 0 < xc → xc < 2 ^ 32 → xc % g.1 = 0 → xb % g.1 = 0 → (¬ push → xa % convAlign conv.val = 0) →
       s.badPush dsp.val ring dst.n = false → src.meets dst = false → s.operandsOk l → s.mayIssue w aft (copyRanges src dst true) →
       Answers (exec (.cpy w rnd aft dsp ssp conv ring k a b c) s) fun t =>
        Issued s t aft k 2 (.cpy dsp.val ssp.val conv.val ring.val xa xb xc rm sat) (copyRanges src dst true) here ∧ SameMem s t) ∧
      (∀ d, s.readsBlock xc d → nonCanon (firstBytes dsp.val xa ssp.val xb) = none → s.badPush dsp.val ring 0 = false →
        (let p := affineOf d
         let src : Opnd := { space := ssp.val, lo := (p.interval xb p.ss).1, n := (p.interval xb p.ss).2, wr := false }
         let dst : Opnd := { space := dsp.val, lo := (p.interval xa p.ds).1, n := (p.interval xa p.ds).2, wr := true }
         affineReserved d = false → 0 < p.e → p.e ≤ 4096 → (push → p.ds = [0, 0, 0, 0]) →
         s.badPush dsp.val ring (p.total * p.e) = false → src.meets dst = false → s.operandsOk (if push then [src] else [src, dst]) →
         s.mayIssue w aft (copyRanges src dst false) →
         Answers (exec (.cpya w rnd aft dsp ssp ring k a b c) s) fun t =>
          Issued s t aft k 2 (.cpya dsp.val ssp.val ring.val xa xb rm sat d) (copyRanges src dst false) here) ∧
        (let e := nth d 0
         let lim := nth d 1 / 2 ^ 32 % 2 ^ 32
         let n := nth d 1 % 2 ^ 32
         let idx := nth d 2
         let tab : Opnd := { space := 0, lo := idx, n := 4 * n, wr := false }
         let src := fun (x : Nat) => ({ space := ssp.val, lo := xb, n := x * e, wr := false } : Opnd)
         let dst := fun (x : Nat) => ({ space := dsp.val, lo := xa, n := x * e, wr := true } : Opnd)
         gatherReserved d = false → 0 < e → e ≤ 4096 → 0 < n → 0 < lim → idx % 4 = 0 →
         (s.badPush dsp.val ring (n * e) = false → (src lim).meets (dst n) = false →
          nonCanon (tab :: (if push then [src lim] else [src lim, dst n])) = none →
          s.h.t.scr.refused (if push then [src lim] else [src lim, dst n]) = none →
          s.mayIssue w aft (⟨0, idx, idx + 4 * n, false, false⟩ :: copyRanges (src lim) (dst n) true) →
          Answers (exec (.cpyg w rnd aft dsp ssp ring k a b c) s) fun t =>
           Issued s t aft k 2 (.cpyg dsp.val ssp.val ring.val xa xb rm sat d)
            (⟨0, idx, idx + 4 * n, false, false⟩ :: copyRanges (src lim) (dst n) true) here) ∧
         (¬ push → (src n).meets (dst lim) = false → nonCanon [tab, src n, dst lim] = none →
          s.h.t.scr.refused [src n, dst lim] = none →
          s.mayIssue w aft (⟨0, idx, idx + 4 * n, false, false⟩ :: copyRanges (src n) (dst lim) false) →
          Answers (exec (.cpys w rnd aft dsp ssp k a b c) s) fun t =>
           Issued s t aft k 2 (.cpys dsp.val ssp.val xa xb rm sat d)
            (⟨0, idx, idx + 4 * n, false, false⟩ :: copyRanges (src n) (dst lim) false) here)))) ∧
    (∀ d, ssp.val ≤ 3 → conv.val < 8 → s.readsBlock xc d → nonCanon (firstBytes 4 0 ssp.val xb) = none →
      (∀ q, q ∈ s.h.t.scr.streams → q.vreg ≠ vreg.val) →
      let p := affineOf d
      let src : Opnd := { space := ssp.val, lo := (p.interval xb p.ss).1, n := (p.interval xb p.ss).2, wr := false }
      let rngs : List Rng := [⟨ssp.val, src.lo, src.lo + src.n, false, false⟩]
      affineReserved d = false → 0 < p.e → p.e ≤ 4096 → p.ds = [0, 0, 0, 0] → p.e % (convSizes conv.val).1 = 0 →
      s.operandsOk [src] → s.mayIssue w aft rngs →
      Answers (exec (.sbind w rnd aft vreg ssp conv k b c) s) fun t =>
        Issued s t aft k 3 (.sbind vreg.val ssp.val conv.val xb rm sat d) rngs here ∧
        let slot := s.freeSlot s.coreId
        t.h.t.scr.streams = s.h.t.scr.streams ++
          [{ vreg := vreg.val, slot := slot, gen := s.slotGen s.coreId slot, total := p.images conv.val }]) ∧
    (let len := xc % 2 ^ 32
     let src : Opnd := { space := ssp.val, lo := xb, n := len, wr := false }
     let rngs : List Rng := [⟨ssp.val, xb, xb + len, false, false⟩]
     ssp.val ≤ 3 → xc < 2 ^ 48 → 0 < len → xa + len ≤ 2 ^ 57 →
     src.meets { space := 0, lo := xa, n := len, wr := true } = false → s.operandsOk [src] → s.mayIssue w aft rngs →
     Answers (exec (.cpyr w aft ssp k a b c) s) fun t =>
      Issued s t aft k 6 (.cpyr ssp.val xa xb len (xc / 2 ^ 32)) rngs (.node (physRill s.phys)) ∧ SameMem s t)

/-- BANKCALL and the collectives issue one operation. BANKCALL of an entry that the table of the package's first bank
unit has (the model's choice, log 81), with argument and range blocks it may read, ranges within the limits of its
entry whose rows translate, and no line of a PRIV page in need of maintenance, issues one operation of kind 4 with
the argument words and the rows of every range; each COLL form of a gang member, with a descriptor it may read and
within its limits, issues one of kind 5 and counts it; a BANKCALL goes to the base-die rill core that owns its first
row, a collective to the rill core of the core's cluster. -/
def Obligations.BankCallsAndCollectivesIssue : Prop :=
  ∀ (s : State) (w : Fin 4) (rnd : Option Rnd) (aft : After) (k : Fin 16) (a b c : Fin 32),
    let xa := (s.x a).toNat
    let xb := (s.x b).toNat
    let xc := (s.x c).toNat
    let here := Dest.node (physRill s.phys)
    let tr := fun (va : Nat) (q : Acc) => s.translate (some s.coreId) (physDie s.phys) s.h.task.ctx s.h.task.num va q
    (∀ (nr : Fin 4) (entry : Fin 16) (args words : List Nat) (la lb : Leaf) (pa pb : Nat) (rows : List (List Nat)),
      let n := nr.val + 1
      let e := (s.entryTable (physPkg s.phys)).getD entry.val {}
      let rs := bankRanges words n
      let seen : List Hist := s.h.t.hist ++ (if la.kind = 1 then [.load xa (xa + 64)] else []) ++
        (if lb.kind = 1 then [.load xb (xb + 64)] else [])
      let rngs : List Rng := rs.map fun r => ⟨0, r.va, r.va + r.len, r.dir == 1, false⟩
      s.cacheRoom → e.v = true → e.nrmask.testBit nr.val = true → s.readsBlock xa args → s.readsBlock xb words →
      tr xa .load = (s, .ok la pa) → tr xb .load = (s, .ok lb pb) → bankBad e n words = false →
      (∀ r, r ∈ rs → r.va % 1024 = 0 ∧ r.len % 1024 = 0 ∧ r.va + r.len ≤ 2 ^ 57) → rows.length = n →
      (∀ i j, i < n → j < (rs.getD i (bankRange 0 0)).len / 1024 →
        let r := rs.getD i (bankRange 0 0)
        (rows.getD i []).length = r.len / 1024 ∧ ∃ l, (r.dir = 1 → l.kind = 1) ∧
          tr (r.va + 1024 * j) (if r.dir = 1 then .engWrite else .engRead) = (s, .ok l ((rows.getD i []).getD j 0))) →
      (∀ r i, r ∈ rs → i < r.len / 64 → s.onPriv (r.va + 64 * i) (r.va + 64 * i + 64) = true →
        lineFails r.dir (r.va + 64 * i) seen = false) →
      s.mayIssue w aft rngs → Answers (exec (.bankcall w aft nr entry k a b) s) fun t =>
        let work : OpWork := .bankcall entry.val n args (List.zipWith (fun r q => (r.dir, r.va, r.gen, r.len, q)) rs rows)
        Issued s t aft k 4 work rngs (.node work.bankNode)) ∧
    (∀ (rsp ssp : Fin 8) (op g : Nat) (d : List Nat) (i : Instr),
      (op, i) ∈ [(0, Instr.collAr w rnd aft rsp ssp k a b c), (1, .collRs w rnd aft rsp ssp k a b c)] ∨
        (rnd = none ∧ (op, i) ∈ [(2, Instr.collAg w aft rsp ssp k a b c), (3, .collA2a w aft rsp ssp k a b c),
          (4, .collBc w aft rsp ssp k a b c)]) →
      let q := collDesc d
      let z := q.buffers op s.gangSize
      let m := if op = 3 then 4 * s.gangSize else 0
      let so : Opnd := { space := ssp.val, lo := xb, n := z.1, wr := false }
      let ro : Opnd := { space := rsp.val, lo := xa, n := z.2, wr := true }
      let cv : Opnd := { space := 0, lo := q.cntv, n := m, wr := false }
      let rv : Opnd := { space := 0, lo := q.rcv, n := m, wr := true }
      let rngs : List Rng := [cv, so, ro, rv].map fun o => ⟨o.space, o.lo, o.lo + o.n, o.wr, false⟩
      s.h.task.gang = some g → s.onSealedPath s.h.task.ctx = false → rsp.val ≤ 3 → ssp.val ≤ 3 → s.readsBlock xc d →
      nonCanon (firstBytes rsp.val xa ssp.val xb) = none → collBad op s.gangSize d = false → nonCanon [ro, so, cv, rv] = none →
      s.h.t.scr.refused [so, ro] = none → s.h.t.scr.notPlainW [so, ro] = none → s.mayIssue w aft rngs → Answers (exec i s) fun t =>
        Issued s t aft k 5 (.coll op rsp.val ssp.val xb xa (s.rnd rnd).rm.code (s.rnd rnd).sat.code d g s.h.task.colls) rngs here ∧
        t.h.task.colls = s.h.task.colls + 1)

/-- ARM, DISARM, RINGCFG, WINALLOC and SUNBIND. ARM and DISARM with operands in limits join their core's arm sequencer
and hold the thread, and complete when its answer has come (a trap answer is taken); DISARM of a landing region to
which an update of the thread itself is on its way waits for that first. RINGCFG configures a ring inside one window
clear of the other rings, or clears it with size 0. The WINALLOC forms create a window whose bytes read as zero, of
the W or A buffer also as a landing region of a generation with no tile filled, and release one with length 0.
SUNBIND unbinds its register, which then reads as zero. No other byte and no other register changes. -/
def Obligations.MacrosRingsAndWindows : Prop :=
  ∀ (s : State) (a b c : Fin 32),
    let xa := (s.x a).toNat
    let xb := (s.x b).toNat
    let xc := (s.x c).toNat
    let p := s.h.t.scr
    let keep := fun (t : State) => SameX s t ∧ SameM s t ∧ SameK s t ∧ SameFlags s t ∧ SameMem s t ∧ SameCtl s t ∧ EndOfBody s t
    let stays := fun (t : State) => t.h.stat = .waiting .sequencer ∧ SameX s t ∧ SameV s t ∧ SameM s t ∧ SameK s t ∧ SameFlags s t ∧
      SameMem s t ∧ SameCtl s t ∧ t.h.t.scr = p ∧ t.h.pc = s.h.pc
    (∀ fmt : Fin 16,
      (∀ o v, s.h.reply = some (.value o v) →
        (Answers (exec (.arm fmt a b c) s) fun t => keep t ∧ SameV s t ∧ t.h.t.scr = p) ∧
        (Answers (exec (.disarm a b) s) fun t => keep t ∧ SameV s t ∧ t.h.t.scr = p)) ∧
      (∀ k x d, s.h.reply = some (.trap k x d) →
        exec (.arm fmt a b c) s = .next (s.takeTrap { cause := k, addr := x, detail := d })) ∧
      (∀ q, s.core? s.coreId = some q → s.h.reply = none → s.h.replay = false → s.h.stat = .ready → 0 < xb → xb ≤ 128 →
        xa % 0x6000 = 0 →
        (fmt.val < 8 → c = 0 → p.inOne 0 xa (xb * 0x6000) = true → p.onArmed 0 xa (xb * 0x6000) = false →
          (∀ w, w ∈ p.landings 0 xa (xb * 0x6000) → w.lstate ≠ .growing) → Answers (exec (.arm fmt a b c) s) fun t =>
            stays t ∧ ∃ r, t.core? s.coreId = some r ∧
            r.seq = q.seq ++ [{ slot := s.h.coreSlot.2, arm := true, off := xa, n := xb, fmt := fmt.val, soff := 0 }]) ∧
        (p.wholeRegions xa xb = true → s.h.t.post.later = [] →
          let out := fun (g : Nat) (w : Win) => s.mustStay s.h (.member g s.h.task.rank 0 w.base) false
          let on := p.landings 0 xa (xb * 0x6000)
          ((∀ g w, s.h.task.gang = some g → w ∈ on → out g w = false) → s.matrixOn s.h.id xa xb = false →
            Answers (exec (.disarm a b) s) fun t => stays t ∧ ∃ r, t.core? s.coreId = some r ∧
              r.seq = q.seq ++ [{ slot := s.h.coreSlot.2, arm := false, off := xa, n := xb, fmt := 0, soff := 0 }]) ∧
          (∀ g w, s.h.task.gang = some g → on = [w] → out g w = true →
            exec (.disarm a b) s = .next (s.block (.order (.member g s.h.task.rank 0 w.base))))))) ∧
    (∀ ring : Fin 8,
      let base := xa % 2 ^ 21
      let size := xa / 2 ^ 21
      let clear := ∀ i : Fin 8, i ≠ ring → p.rings[i].v = true →
        overlaps base (base + size) p.rings[i].base (p.rings[i].base + p.rings[i].size) = false
      xa < 2 ^ 42 → (p.rings[ring].v = false ∨ s.ringNamed ring.val = false) →
      (0 < size → 0 < xb → xb < 2 ^ 21 → base % 64 = 0 → xb % 64 = 0 → size % xb = 0 → clear →
        (∃ w, w ∈ p.wins ∧ w.buf = 1 ∧ w.land = false ∧ w.base ≤ base ∧ base + size ≤ w.base + w.len) →
        Answers (exec (.ringcfg ring a b) s) fun t => keep t ∧ SameV s t ∧
          t.h.t.scr = { p with rings := p.rings.set ring { v := true, size := size, base := base, tile := xb } }) ∧
      (xa = 0 → xb = 0 → Answers (exec (.ringcfg ring a b) s) fun t => keep t ∧ SameV s t ∧
        t.h.t.scr = { p with rings := p.rings.set ring {} })) ∧
    let fresh := fun (t : State) (buf : Nat) (w : Win) =>
      t.h.t.scr = { p.setView buf (t.h.t.scr.view buf) with wins := p.wins ++ [w], spillMap := t.h.t.scr.spillMap } ∧
      (∀ o, w.base ≤ o → o < w.base + w.len → Mem.read (t.h.t.scr.view buf) o = 0) ∧
      ∀ o, (o < w.base ∨ w.base + w.len ≤ o) → Mem.read (t.h.t.scr.view buf) o = Mem.read (p.view buf) o
    (∀ (buf : Nat) (i : Instr), (buf, i) ∈ [(0, Instr.winallocW a b), (1, .winallocA a b), (2, .winallocC a b)] →
      (0 < xb → p.badWin buf xa xb 0 false = false → s.hasRoom s.coreId buf xb = true → Answers (exec i s) fun t =>
        keep t ∧ SameV s t ∧ fresh t buf { buf := buf, base := xa, len := xb }) ∧
      (∀ w, xb = 0 → p.wins.find? (fun q => q.buf == buf && q.base == xa) = some w → p.mayNotFree w = false →
        Answers (exec i s) fun t => keep t ∧ SameV s t ∧
          t.h.t.scr = { p with wins := p.wins.filter fun q => !(q.buf == buf && q.base == xa) })) ∧
    (∀ (tz : Fin 16) (buf : Nat) (i : Instr), (buf, i) ∈ [(0, Instr.winallocWl tz a b c), (1, .winallocAl tz a b c)] →
      (tz.val < 3 ∨ 9 < tz.val → exec i s = .next (s.takeTrap { cause := 1, addr := s.word0 })) ∧
      (3 ≤ tz.val → tz.val ≤ 9 → xc ≤ 65535 → 0 < xb → p.badWin buf xa xb tz.val true = false → s.hasRoom s.coreId buf xb = true →
        Answers (exec i s) fun t => keep t ∧ SameV s t ∧
          let none_ := List.replicate (xb / (8 * 2 ^ tz.val)) false
          fresh t buf { buf := buf, base := xa, len := xb, land := true, tsize := tz.val, lgen := xc, filled := none_ })) ∧
    (∀ (w : Fin 4) (v : Fin 8), s.h.t.post.clear w.val = true →
      ((∃ q, q ∈ p.streams ∧ q.vreg = v.val) → Answers (exec (.sunbind w v) s) fun t => keep t ∧
        VAfter s t (Fin.ofNat 32 (24 + v.val)) 0 ∧ t.h.t.scr = { p with streams := p.streams.filter fun q => q.vreg != v.val }) ∧
      ((∀ q, q ∈ p.streams → q.vreg ≠ v.val) → exec (.sunbind w v) s = .next (s.takeTrap { cause := 0x0F, addr := s.word0 })))

/-- WAIT, WAITM and KSTAT. WAIT and KSTAT of a token that names no operation complete (KSTAT writes the record of a done
operation); of one whose end the token table does not know yet, they hold the thread; of one that has ended, WAIT
releases it and empties the token, but raises the token-failure trap with the token register as its detail when it
failed, and KSTAT writes the two words of its record, releases it and empties the token. WAITM whose operations have
all ended without failure releases them. KSTAT to x31 is an illegal instruction. -/
def Obligations.TokensWaitAndRelease : Prop :=
  ∀ (s : State) (k : Fin 16) (d : Fin 32),
    let pair := fun (t : State) (u v : Nat) => ∀ r, t.x r =
      if r.val = d.val + 1 then BitVec.ofNat 64 v else if r = d ∧ d ≠ 0 then BitVec.ofNat 64 u else s.x r
    (d.val = 31 → exec (.kstat d k) s = .next (s.takeTrap { cause := 1, addr := s.word0 })) ∧
    (s.tokenOp (s.k k) = none →
      OnlyAdvances (exec (.wait k) s) s ∧
      (d.val < 31 → Answers (exec (.kstat d k) s) fun t => pair t (3 * 2 ^ 61) 0 ∧ KAfter s t k 0 ∧ SameV s t ∧ SameM s t ∧
        RegFrame s t ∧ EndOfBody s t)) ∧
    (∀ o, s.tokenOp (s.k k) = some o →
      (o.replied = false → exec (.wait k) s = .next (s.block (.tokens [o.slot] (s.k k).toNat)) ∧
        (d.val < 31 → exec (.kstat d k) s = .next (s.block (.tokens [o.slot] (s.k k).toNat)))) ∧
      (o.replied = true →
        (o.st = .failed → exec (.wait k) s = .next (s.takeTrap { cause := 0x11, addr := o.addr % 2 ^ 57, detail := k.val })) ∧
        (o.st ≠ .failed → Answers (exec (.wait k) s) fun t => Released s t o ∧ KAfter s t k 0 ∧ SameX s t) ∧
        (d.val < 31 → Answers (exec (.kstat d k) s) fun t => Released s t o ∧ KAfter s t k 0 ∧
          pair t (o.st.code * 2 ^ 61 + o.cls * 2 ^ 56 + o.code * 2 ^ 48 + o.units % 2 ^ 32) (o.addr % 2 ^ 57)))) ∧
    (∀ mask : BitVec 16,
      (∀ r : Fin 16, mask.getLsbD r.val = true → ∀ o, s.tokenOp (s.k r) = some o → o.replied = true ∧ o.st ≠ .failed) →
      Answers (exec (.waitm mask) s) fun t => SameX s t ∧ SameV s t ∧ SameM s t ∧ SameMem s t ∧ EndOfBody s t ∧
        ∀ r : Fin 16, (mask.getLsbD r.val = false → t.k r = s.k r) ∧ (mask.getLsbD r.val = true → t.tokenOp (t.k r) = none))

/-- CANCEL, KPRIO, KMOV, DETACH, ADOPT and FENCE.K. CANCEL sends the cancel to the engine that has the operation and
completes at once. KPRIO sets the priority of the token and of an operation that has not ended to the smaller of its
operand and the thread's; an operand above 11 is illegal. KMOV moves a token and empties its source. DETACH to an
aligned CNT32 or SATN32 cell, with no access held by the core, frees the slot, keeps the operation with its cell in
a redirect entry, and empties the token. ADOPT of an exited child gives an orphan of it a slot under a token of kind
7, or the empty token when there is none. FENCE.K completes when no operation within its scope is still to be
accepted. -/
def Obligations.TokensAreMovedAndCancelled : Prop :=
  ∀ (s : State) (k : Fin 16) (a b c : Fin 32),
    let keep := fun (t : State) => SameX s t ∧ SameV s t ∧ SameM s t ∧ SameMem s t ∧ SameFlags s t ∧ SameCtl s t ∧ EndOfBody s t
    (s.tokenOp (s.k k) = none → OnlyAdvances (exec (.cancel k) s) s) ∧
    (∀ o, s.tokenOp (s.k k) = some o → Answers (exec (.cancel k) s) fun t => keep t ∧ SameK s t ∧ t.work = s.work ∧
      t.lat.net = s.lat.net ++ [{ src := s.me, ctx := s.h.task.ctx, dest := o.inbox, body := .cancel o.core o.slot o.gen }]) ∧
    (let p := min (s.x b).toNat s.h.task.prio
     (11 < (s.x b).toNat → exec (.kprio k b) s = .next (s.takeTrap { cause := 0x0F, addr := s.word0 })) ∧
     ((s.x b).toNat ≤ 11 → Answers (exec (.kprio k b) s) fun t => keep t ∧ (∀ r, r ≠ k → t.k r = s.k r) ∧
      (∀ i, i < 64 → (t.k k).getLsbD i = if 17 ≤ i ∧ i < 21 then p.testBit (i - 17) else (s.k k).getLsbD i) ∧
      (∀ o, s.tokenOp (s.k k) = some o → s.hasOp o → o.st.ended = false → t.op? o.core o.slot o.gen = some { o with prio := p }) ∧
      (s.tokenOp (s.k k) = none → t.work.ops = s.work.ops))) ∧
    (∀ d : Fin 16, Answers (exec (.kmov d k) s) fun t => keep t ∧ t.work = s.work ∧
      ∀ r, t.k r = if d = k then s.k r else if r = d then s.k k else if r = k then 0 else s.k r) ∧
    (∀ l pa o, s.reaches (s.x b).toNat .latUpdate = .ok l pa → l.kind = 3 → (l.ctype = 6 ∨ l.ctype = 7) →
      (s.x b).toNat % cellBytes l.ctype 0 = 0 → (s.x c).toNat ≤ 65535 → s.tokenOp (s.k k) = some o → s.stillBound o = false →
      s.redirectsUsed s.coreId < 32 → o.replied = false → s.hasOp o → s.h.t.post.later = [] → Answers (exec (.detach k b c) s) fun t =>
        keep t ∧ KAfter s t k 0 ∧
        t.op? o.core o.slot o.gen =
          some { o with hold := 1, cell := some ((s.x b).toNat, pa, (s.x c).toNat), entry := true } ∧
        (∀ q, s.core? o.core = some q → t.slotGen o.core o.slot = (assocGet 0 o.slot q.gens + 1) % 65536) ∧
        t.lat.net = s.lat.net ++ [{ src := s.me, ctx := o.ctx, dest := o.inbox, body := .redirect o.core o.slot o.gen }]) ∧
    (let v := (s.x a).toNat
     let n := v % 65536
     let l := s.children s.h.task.num n
     let orphan := s.orphanOf l l.length 0 (v / 65536)
     v < 2 ^ 48 → n < s.h.task.spawns → (∀ q, q ∈ l → q.st = .exited) →
      (orphan = none → Answers (exec (.adopt k a) s) fun t => keep t ∧ KAfter s t k 0 ∧ t.work = s.work) ∧
      (∀ o, orphan = some o → s.slotsHeld s.coreId s.h.coreSlot.2 < 32 → Answers (exec (.adopt k a) s) fun t =>
        let slot := s.freeSlot s.coreId
        let gen := s.slotGen s.coreId slot
        keep t ∧ KAfter s t k (tokenValue gen s.tag slot s.h.coreSlot.2 7 o.prio) ∧
        ∃ q, t.work.ops.getLast? = some q ∧ q.kind = 7 ∧ q.replied = true ∧ q.slot = slot ∧ q.gen = gen ∧ q.core = s.coreId ∧
          q.record = o.record)) ∧
    (∀ f : Fin 8, (5 < f.val → exec (.fenceK f) s = .next (s.takeTrap { cause := 1, addr := s.word0 })) ∧
      (f.val ≤ 5 → s.fenceKHolds s.h f.val = true → exec (.fenceK f) s = .next (s.block (.fenceK f.val))) ∧
      (f.val ≤ 5 → (∀ o, o ∈ s.work.ops → o.hart = s.h.id → o.st.ended = true) → OnlyAdvances (exec (.fenceK f) s) s))

/-- SPAWN makes a task, EXIT ends the thread. SPAWN of a record it may read, valid and with no gates or with gates whose
entries and cells it may read, makes one task that holds the record's words under the next number and the derived
name: ready when it has no gates, otherwise gated with each gate sent as a reader to its cell's home; the thread
counts one SPAWN more; memory is as the reads leave it. A record that is refused raises the launch-record trap. EXIT
of a thread with no reply outstanding, no refused journal entry and every child operation's end known stops the
thread, and leaves its held operations as orphans of its task, and a gang member the views of its landing regions,
all frozen; otherwise it waits, or raises the unreported-refusal trap; EXIT on a rill core stops it (the model's
choice, log 35). -/
def Obligations.SpawnAndExit : Prop :=
  ∀ s : State,
    (∀ (a : Fin 32) (w : List Nat),
      let va := (s.x a).toNat
      let tr := fun (va : Nat) (q : Acc) => s.translate (some s.coreId) (physDie s.phys) s.h.task.ctx s.h.task.num va q
      let made := fun (t : State) (st : TaskStat) (gates : List (Option Nat)) => ∃ q, t.work.tasks = s.work.tasks ++ [q] ∧
        q.num = s.work.nextTask ∧ q.ctx = s.h.task.ctx ∧ q.words = w ∧ q.name = (s.h.task.name * 65536 + s.h.task.spawns + 1) % 2 ^ 64 ∧
        q.parent = some (s.h.task.num, s.h.task.spawns) ∧ q.st = st ∧ q.gates = gates
      let keep := fun (t : State) => SameX s t ∧ SameV s t ∧ SameM s t ∧ SameK s t ∧ LoadMem s t ∧ EndOfBody s t ∧
        t.h.task.spawns = s.h.task.spawns + 1
      (va % 64 ≠ 0 → exec (.spawn a) s = .next (s.takeTrap { cause := 7, addr := va })) ∧
      (s.readsBlock va w →
        (recordBad w = true → Answers (exec (.spawn a) s) fun t => ∃ u, t = u.takeTrap { cause := 0x0E, addr := va } ∧
          u.h.ctl = s.h.ctl ∧ u.h.pc = s.h.pc ∧ LoadMem s u) ∧
        (recordBad w = false → s.storeFull s.h.task.ctx (physPkg s.phys) = false →
          (recNg w = 0 → (∀ t, t ∈ s.work.tasks → t.num ≠ s.work.nextTask) → Answers (exec (.spawn a) s) fun t =>
            keep t ∧ made t .ready []) ∧
          (∀ (n gb : Nat) (l : Leaf) (pl : Nat) (le lf : Nat → Leaf) (pe pf : Nat → Nat) (g : Nat → Gate),
            s.cacheRoom → tr va .load = (s, .ok l pl) → recNg w = n → 0 < n → recArg w 60 58 = some gb → gb % 32 = 0 →
            (∀ i, i < n → lockJudge false 0 (gb + 32 * i) 32 s.locks = .ok ∧ tr (gb + 32 * i) .load = (s, .ok (le i) (pe i)) ∧
              (le i).kind ≠ 5 ∧ s.isLost (pe i) 32 = false ∧ s.fills (pe i) 32 ∧ gateBad (Mem.words s.mem (pe i) 4) = false ∧
              g i = { gateOf (Mem.words s.mem (pe i) 4) with pa := pf i, ty := (lf i).ctype, sz := (lf i).csize } ∧
              tr (g i).cell .latRead = (s, .ok (lf i) (pf i)) ∧ (lf i).kind = 3 ∧ (g i).badTrigger = false) →
            let reader := fun (i : Nat) =>
              let m : Member := { who := .gate s.work.nextTask i, va := (g i).cell, pa := pf i }
              let trig := if (g i).ty = 8 then 1 else (g i).trig
              ({ kind := if (g i).fr = true then .thrF else .thr, ty := (g i).ty, sz := (g i).sz, gen := (g i).gen, members := [m]
                 trigs := if (g i).fr = true then [] else [trig] } : LReq)
            Answers (exec (.spawn a) s) fun t => keep t ∧ made t .gated (List.replicate n none) ∧
              t.lat.net = s.lat.net ++ (List.range n).map fun i => { src := .gate s.work.nextTask i, ctx := s.h.task.ctx
                                                                     dest := .unit (unitOf (g i).ty (g i).sz (pf i))
                                                                     body := .lat (reader i) })))) ∧
    (s.h.isThread = true →
      (s.h.t.post.clear 3 = false → exec .exit s = .next (s.block (.counters 3))) ∧
      (s.h.t.post.clear 3 = true →
        (∀ i, s.h.t.post.firstRefused = some i → s.h.ctl.h = false → exec .exit s =
          .next (s.takeTrap { cause := 0x16, addr := (s.h.t.post.j.getD i {}).addr % 2 ^ 57, detail := i })) ∧
        (s.h.t.post.firstRefused = none →
          ((∃ o, o ∈ s.heldOps s.h ∧ o.replied = false) → exec .exit s = .next (s.block .childOps)) ∧
          (∀ q, (∀ o, o ∈ s.heldOps s.h → o.replied = true) → (s.heldOps s.h = [] ∨ s.orphansFull s.h.task.ctx (s.taskPkg s.h.task.num) (s.heldOps s.h).length = false) →
            s.task? s.h.task.num = some q → Answers (exec .exit s) fun t => t.h.stat = .exited ∧
              (∃ r, t.task? s.h.task.num = some r ∧ r.st = .exited ∧ r.orphans = (s.heldOps s.h).length) ∧
              ∀ g y, s.h.task.gang = some g → s.gang? g = some y →
                let left := (s.h.t.scr.wins.filter (·.land)).map fun w => { w with lstate := .frozen }
                let x : PastMember := { rank := s.h.task.rank, node := physRill s.phys, w := s.h.t.scr.w, a := s.h.t.scr.a
                                        wins := left }
                t.gang? g = some { y with past := y.past ++ [x] })))) ∧
    (s.h.isThread = false → Answers (exec .exit s) fun t => t.h.stat = .exited ∧ SameWorld s t)

/-- What an update, a FREEZE and a read do at a freeze unit. At a unit, an operation whose generation is behind (a
distance of 32768 or more) is refused as stale and one too far ahead as early, with the unit unchanged; a FREEZE of
the unit's generation freezes a growing unit, each cell then being its frozen image (Table 3.3). A JOIN, FILL or
RENEW one ahead first advances the unit, whatever state it was in: every cell is bottom (Table 3.1) and empty and
the unit grows; RENEW does no more. The JOIN into a growing unit joins one cell by the table of its type and no
other, and freezes a SATN32L unit whose cell has AF and a full COUNT; a FILL fills an empty cell, has no effect on
one filled with the same bytes, and puts the unit in conflict otherwise. Into a frozen unit of its generation each
is refused, and into one in conflict has no effect. A read of the generation gives the first trigger passed (Table
3.4), outcome 4 when frozen or when candidates can pass no more, 5 in conflict, 6 when stale, and otherwise parks. -/
def Obligations.JoinUnitsFollowTheGenerations : Prop :=
  (∀ (u : LUnit) (ty sz idx v gen : Nat),
    let d := (gen + 65536 - u.gen % 65536) % 65536
    let a := fun (k : LKind) => u.apply ty k gen idx v
    let w : LUnit := { u with gen := gen, st := .growing, cells := u.cells.map (fun _ => bottom ty), filled := u.filled.map (fun _ => false) }
    let b := if d = 1 then w else u
    (∀ k, 32768 ≤ d → a k = { u := u, fault := some 2 }) ∧
    (∀ k, 2 ≤ d → d < 32768 → a k = { u := u, fault := some 3 }) ∧
    (d = 1 → a .freeze = { u := u, fault := some 3 }) ∧
    (d = 0 → u.st = .growing → a .freeze = { u := { u with st := .frozen, cells := u.cells.map (freezeCell ty) } }) ∧
    (d = 0 → u.st ≠ .growing → a .freeze = { u := u }) ∧
    (d ≤ 1 → a .renew = { u := b }) ∧
    (d = 0 → u.st = .frozen → a .join = { u := u, fault := some 1 } ∧ a .fill = { u := u, fault := some 1 }) ∧
    (d = 0 → u.st = .conflict → a .join = { u := u } ∧ a .fill = { u := u }) ∧
    (d ≤ 1 → b.st = .growing → ty ≠ 8 → ∀ c, c = joinCell ty (nth b.cells idx) v →
      let on : LUnit := { b with cells := b.cells.set idx c }
      (¬ (ty = 6 ∧ c.testBit 96 = true ∧ c % 2 ^ 32 = c / 2 ^ 64 % 2 ^ 32) → a .join = { u := on }) ∧
      (ty = 6 → c.testBit 96 = true → c % 2 ^ 32 = c / 2 ^ 64 % 2 ^ 32 → a .join = { u := { on with st := .frozen } })) ∧
    (d ≤ 1 → b.st = .growing → ty = 8 →
      (b.filled.getD idx false = false → a .fill = { u := { b with cells := b.cells.set idx v, filled := b.filled.set idx true } }) ∧
      (b.filled.getD idx false = true → nth b.cells idx = v → a .fill = { u := b }) ∧
      (b.filled.getD idx false = true → nth b.cells idx ≠ v → a .fill = { u := { b with st := .conflict }, conflict := true })) ∧
    (∀ r : LReq, r.gen = gen →
      (32768 ≤ d → u.evaluate ty sz r idx = .wake 6 0) ∧ (0 < d → d < 32768 → u.evaluate ty sz r idx = .park) ∧
      (d = 0 → u.st = .conflict → u.evaluate ty sz r idx = .wake 5 0) ∧
      (d = 0 → u.st ≠ .conflict → ∀ i, i < r.trigs.length →
        passed ty (nth u.cells idx) (u.filled.getD idx false) r.cand (nth r.trigs i) = true →
        (∀ j, j < i → passed ty (nth u.cells idx) (u.filled.getD idx false) r.cand (nth r.trigs j) = false) →
        u.evaluate ty sz r idx = .wake i (if ty = 8 ∧ sz = 0 then nth u.cells idx else 0)) ∧
      (d = 0 → u.st ≠ .conflict → (∀ t, t ∈ r.trigs → passed ty (nth u.cells idx) (u.filled.getD idx false) r.cand t = false) →
        (u.st = .frozen → u.evaluate ty sz r idx = .wake 4 0) ∧
        (ty = 8 → r.cand = true → u.filled.getD idx false = true → u.evaluate ty sz r idx = .wake 4 0) ∧
        (u.st = .growing → (r.cand = false ∨ u.filled.getD idx false = false) → u.evaluate ty sz r idx = .park))) ∧
    (∀ off len, (32768 ≤ d → u.readFrozen ty sz gen off len = .trap 0x13) ∧ (0 < d → d < 32768 → u.readFrozen ty sz gen off len = .park) ∧
      (d = 0 → (u.st = .conflict → u.readFrozen ty sz gen off len = .trap 0x12) ∧
        (u.st = .growing → u.readFrozen ty sz gen off len = .park) ∧
        (u.st = .frozen → u.readFrozen ty sz gen off len =
          .data (packCodes (8 * cellBytes ty sz) u.cells / 2 ^ (8 * off) % 2 ^ (8 * len)))))) ∧
  [bottom 1, bottom 2, bottom 3, bottom 4, bottom 5, bottom 6, bottom 7, bottom 8, bottom 9, bottom 10, bottom 11] =
    [0, 0x8000000000000000, 0xFFFFFFFFFFFFFFFF, 0, 0, 0xFFFFFFFF * 2 ^ 64, 0, 0, 0, 0, 0xFFFFFFFF] ∧
  (∀ c v : Nat,
    let cs := (BitVec.ofNat 64 c).toInt
    let vs := (BitVec.ofNat 64 v).toInt
    let ord := fun (k : Nat) => if k < 2 ^ 31 then k + 2 ^ 31 else 2 ^ 32 - 1 - k
    let key := fun (x : Nat) => ord (x % 2 ^ 32)
    joinCell 1 c v = (if c < v then v else c) ∧ joinCell 3 c v = (if v < c then v else c) ∧
    joinCell 2 c v = (if cs < vs then v else c) ∧
    (∀ i, (joinCell 4 c v).testBit i = (c.testBit i || v.testBit i)) ∧ (∀ i, (joinCell 5 c v).testBit i = (c.testBit i || v.testBit i)) ∧
    (let lim := min (c / 2 ^ 64 % 2 ^ 32) (v / 2 ^ 32 % 2 ^ 32)
     let af := if c.testBit 96 = true ∨ v.testBit 64 = true then 1 else 0
     joinCell 6 c v = min (c % 2 ^ 32 + v % 2 ^ 32) lim + lim * 2 ^ 64 + af * 2 ^ 96) ∧
    joinCell 7 c v = min (c + v) (2 ^ 64 - 1) ∧
    joinCell 10 c v = (BitVec.ofNat 128 c + BitVec.ofInt 128 vs).toNat ∧
    (c < 2 ^ 64 → v < 2 ^ 64 → joinCell 11 c v = if key c < key v ∨ (key c = key v ∧ c / 2 ^ 32 < v / 2 ^ 32) then v else c) ∧
    (∀ b, b = sumState v → let r := joinCell 9 c v
      let n := c / 2 ^ 320 % 2 ^ 32 + b / 2 ^ 320 % 2 ^ 32
      r % 2 ^ 320 = (c + b) % 2 ^ 320 ∧ r / 2 ^ 320 % 2 ^ 32 = min n 0xFFFFFFFF ∧ r < 2 ^ 356 ∧
      r.testBit 355 = (c.testBit 355 || b.testBit 355 || decide (0xFFFFFFFF < n)) ∧
      ∀ i, 352 ≤ i → i < 355 → r.testBit i = (c.testBit i || b.testBit i)) ∧
    (v < 2 ^ 32 →
      let e := v / 2 ^ 23 % 2 ^ 8
      let f := v % 2 ^ 23
      let m : Int := ((if e = 0 then f else 2 ^ 23 + f) * 2 ^ (e - 1) : Nat)
      (e < 255 → sumState v = (BitVec.ofInt 320 (if v.testBit 31 then -m else m)).toNat + 2 ^ 320) ∧
      (e = 255 → f ≠ 0 → sumState v = 2 ^ 320 + 2 ^ 352) ∧
      (e = 255 → f = 0 → sumState v = 2 ^ 320 + (if v.testBit 31 then 2 ^ 354 else 2 ^ 353))) ∧
    (∀ ty, ty ≠ 9 → ty ≠ 10 → freezeCell ty c = c) ∧
    (let q := (BitVec.ofNat 128 c).toInt
     freezeCell 10 c = if q < -(2 ^ 63) then 2 ^ 64 + 2 ^ 63 else if 2 ^ 63 ≤ q then 2 ^ 64 + 2 ^ 63 - 1 else (BitVec.ofInt 64 q).toNat) ∧
    (let r := freezeCell 9 c
     let nan := c.testBit 355 = true ∨ c.testBit 352 = true ∨ (c.testBit 353 = true ∧ c.testBit 354 = true)
     let inf := c.testBit 353 = true ∨ c.testBit 354 = true
     r / 2 ^ 32 % 2 ^ 32 = c / 2 ^ 320 % 2 ^ 32 ∧ r / 2 ^ 64 % 2 ^ 4 = c / 2 ^ 352 % 2 ^ 4 ∧
     (nan → r % 2 ^ 32 = 0x7FC00000 ∧ r / 2 ^ 68 = 0) ∧
     (¬ nan → inf → r % 2 ^ 32 = (if c.testBit 353 then 0x7F800000 else 0xFF800000) ∧ r / 2 ^ 68 = 0) ∧
     (¬ nan → ¬ inf → c % 2 ^ 320 = 0 → r % 2 ^ 32 = 0 ∧ r / 2 ^ 68 = 0) ∧
     (¬ nan → ¬ inf → ∀ q, q = fp32.round (FVal.ofInt (BitVec.ofNat 320 c).toInt (-149) false) { rm := .rne, sat := .nosat } →
       r % 2 ^ 32 = q.1 ∧ r.testBit 68 = (q.2 &&& fNX != 0) ∧ r.testBit 69 = (q.2 &&& fOF != 0))) ∧
    ∀ (filled cand : Bool),
      (passed 1 c filled cand v = true ↔ v ≤ c) ∧ (passed 2 c filled cand v = true ↔ vs ≤ cs) ∧ (passed 3 c filled cand v = true ↔ c ≤ v) ∧
      (passed 4 c filled cand v = true ↔ ∀ i, v.testBit i = true → c.testBit i = true) ∧
      (passed 5 c filled cand v = true ↔ ∀ i, v.testBit i = true → c.testBit i = true) ∧
      (passed 6 c filled cand v = true ↔ v ≤ c % 2 ^ 32) ∧ (passed 7 c filled cand v = true ↔ v ≤ c) ∧
      (passed 8 c filled cand v = true ↔ filled = true ∧ (cand = true → c = v)) ∧
      passed 9 c filled cand v = false ∧ passed 10 c filled cand v = false ∧
      (passed 11 c filled cand v = true ↔ key v ≤ key c))

/-- APPLY, EVALUATE, FROZEN_READ_EVALUATE, EDDY_MERGE, INVALIDATION_COMPLETE and LANDING_APPLY. A message that may be
delivered to its freeze unit, whose join unit takes it up (its bank is not held by a bank unit, a reader has room in
the weir) and whose lines are not lost, leaves the network: an update changes the unit as its class gives and its
thread gets an ACK or a REFUSE (none in a stopping context), a read parks in the unit with the next arrival number
of its join unit or its thread gets the answer. An eddy makes one message of two that it may merge. Once the
replicas of a page are invalidated, it has none, and its unit holds no message back. A FILL that reaches a growing
landing region of its member fills one empty tile. An event that is not due changes nothing. -/
def Obligations.HomesTakeUpMessages : Prop :=
  ∀ s : State,
    (s.deliverable (s.evArg 0) = false → exec .apply s = .next s ∧ exec .evaluate s = .next s ∧
      exec .frozenReadEvaluate s = .next s ∧ exec .landingApply s = .next s) ∧
    (∀ (p : Msg) (r : LReq) (m : Member) (pa c k : Nat), s.delivers p → p.body = .lat r → p.dest = .unit pa → r.members = [m] →
      m.who = .thread c k →
      let u := s.unitAt pa
      let ty := (s.cellType pa).1
      let sz := (s.cellType pa).2
      let rest := s.lat.net.eraseIdx (s.evArg 0)
      let reply := fun (b : Body) => if s.isStopping p.ctx then rest
        else rest ++ [{ src := .ju (paHome pa), ctx := p.ctx, dest := .core c, body := b }]
      let parks := fun (t : State) => t.lat.net = rest ∧
        let n := assocGet 0 (paHome pa) s.lat.arrivals
        assocGet 0 (paHome pa) t.lat.arrivals = n + 1 ∧ ∃ l k, l.length = u.parked.length ∧
          t.unitAt pa = { u with parked := l ++ [{ p with body := .lat { r with seq := n, tidx := k, moved := false } }] } ∧
          (weirFits ((s.putUnit u).weir (paHome pa)) r = true → l = u.parked)
      u.held = [] → s.homeTakes r pa = true → s.isLost pa (unitBytes ty sz) = false →
      ((r.kind.isUpdate = true ∨ r.kind = .freeze) → u.parked = [] → (r.advances u = true → s.replicasOf pa = []) →
        Answers (exec .apply s) fun t =>
          let a := u.apply ty r.kind r.gen ((m.pa - pa) / cellBytes ty sz) m.v
          t.unitAt pa = a.u ∧ SameMem s t ∧ (∀ q, q ≠ pa → t.unitAt q = s.unitAt q) ∧
          t.lat.net = reply (match a.fault with
            | none => .ack m
            | some f => .refuse m (2 ^ m.lane) f 0 r.gen u.gen)) ∧
      ((r.kind = .thr ∨ r.kind = .thrF) → Answers (exec .evaluate s) fun t => SameMem s t ∧
        (u.evaluate ty sz r ((m.pa - pa) / cellBytes ty sz) = .park → parks t) ∧
        (∀ o v, u.evaluate ty sz r ((m.pa - pa) / cellBytes ty sz) = .wake o v → t.unitAt pa = u ∧
          t.lat.net = reply (.wake m o v))) ∧
      (r.kind = .frd → Answers (exec .frozenReadEvaluate s) fun t =>
        ((s.lat.cache.filter (fun x => x.cluster == physCluster (s.physOf c))).length < cacheLines → SameMem s t) ∧
        (u.readFrozen ty sz r.gen (m.pa - pa) r.len = .park → parks t) ∧
        (∀ v, u.readFrozen ty sz r.gen (m.pa - pa) r.len = .data v → t.lat.net = reply (.data m r.part r.len v 0 0)) ∧
        (∀ x, u.readFrozen ty sz r.gen (m.pa - pa) r.len = .trap x → t.lat.net = reply (.data m r.part r.len 0 x u.gen)))) ∧
    (∀ (p q : Msg) (a b : LReq), s.canMerge (s.evArg 0) (s.evArg 1) = true → s.lat.net[s.evArg 0]? = some p →
      s.lat.net[s.evArg 1]? = some q → p.body = .lat a → q.body = .lat b → Answers (exec .eddyMerge s) fun t =>
        let c : Msg := { p with body := .lat { a with members := a.members ++ b.members } }
        t.lat.net = (s.lat.net.set (s.evArg 0) c).eraseIdx (s.evArg 1) ∧ SameMem s t) ∧
    ((s.unitAt (s.evArg 0)).held ≠ [] → Answers (exec .invalidationComplete s) fun t =>
      t.replicasOf (s.evArg 0) = [] ∧ (t.unitAt (s.evArg 0)).held = [] ∧
      let u := s.unitAt (s.evArg 0)
      ((∀ c, (s.lat.cache.filter (fun x => x.cluster == c)).length + u.held.length + u.parked.length ≤ cacheLines) → SameMem s t)) ∧
    (∀ (p : Msg) (r : LReq) (m : Member) (g rank b o c k : Nat) (h : Hart) (l : Land), Canonical s → s.delivers p → p.body = .lat r →
      p.dest = .member g rank b o → r.members = [m] → s.past? g rank = none → s.memberAt g rank = some (c, k) →
      s.hart? (.thread c k) = some h → h.landOf b o = some l → r.kind = .fill → r.gen = l.w.lgen → l.w.lgen < 65536 →
      l.w.lstate = .growing → r.sz = l.w.tsize → (o - l.w.base) % l.w.tile = 0 →
      l.w.filled.getD ((o - l.w.base) / l.w.tile) false = false →
      Answers (exec .landingApply s) fun t => SameMem s t ∧ ∃ f, t.hart? (.thread c k) = some f ∧
        Mem.readN (f.t.scr.view b) o l.w.tile = m.v % 2 ^ (8 * l.w.tile) ∧
        SameOutside (h.t.scr.view b) (f.t.scr.view b) o l.w.tile)

/-- Replies to threads, repairs and forwarding. An ACK or a REFUSE that reaches its thread takes one from the counter of
its class and from its journal entry, which an ACK of the last message frees and the first REFUSE fills in, and its
message is outstanding no more (for a thread whose core holds no access that could go after it); WAKE and DATA put
their answer into the reply slot; RESUME readies a thread that waits for that repair; a page fault of an address
without a region is answered NOREGION, otherwise its page is created, and a rill core with 64 unanswered takes no
more; a posted refusal that waits traps a thread outside a handler; a message to a core state that runs again is
passed on. -/
def Obligations.RepliesReachTheirThreads : Prop :=
  ∀ s : State,
    let rest := s.lat.net.eraseIdx (s.evArg 0)
    (∀ (p : Msg) (m : Member) (c k : Nat) (h : Hart), s.delivers p → m.who = .thread c k → s.hart? (.thread c k) = some h →
      let e := h.t.post.j.getD m.entry {}
      let counts := fun (g : Hart) => g.t.post.p = h.t.post.p - (if m.cls = 1 then 1 else 0) ∧
        g.t.post.f = h.t.post.f - (if m.cls = 2 then 1 else 0) ∧ g.t.post.b = h.t.post.b - (if m.cls = 3 then 1 else 0) ∧
        g.t.post.sent = h.t.post.sent.filter (fun x => !(some x.home == m.home && x.seq == m.seq)) ∧
        ∀ i, i ≠ m.entry → g.t.post.j.getD i {} = h.t.post.j.getD i {}
      let at_ := fun (t : State) (f : Hart → Prop) => ∃ g, t.hart? (.thread c k) = some g ∧ f g
      (p.body = .ack m → m.entry < 16 → h.t.post.later = [] → Answers (exec .ack s) fun t => t.lat.net = rest ∧ SameMem s t ∧ at_ t fun g => counts g ∧
        g.t.post.j.getD m.entry {} = if e.out ≤ 1 ∧ e.ref = false then {} else { e with out := e.out - 1 }) ∧
      (∀ lanes f tc go gf, p.body = .refuse m lanes f tc go gf → m.entry < 16 → h.t.post.later = [] → Answers (exec .refuse s) fun t =>
        t.lat.net = rest ∧ SameMem s t ∧ at_ t fun g => counts g ∧
        let n := g.t.post.j.getD m.entry {}
        n.out = e.out - 1 ∧ n.ref = true ∧ (e.ref = true → n.lanes = e.lanes ||| lanes ∧ n.fault = e.fault ∧ n.addr = e.addr) ∧
        (e.ref = false → n.lanes = lanes ∧ n.fault = f ∧ n.tcode = tc ∧ n.addr = m.va ∧ n.gop = go ∧ n.gfound = gf)) ∧
      (∀ o v, p.body = .wake m o v → Answers (exec .wake s) fun t => t.lat.net = rest ∧ SameMem s t ∧
        t.hart? (.thread c k) = some { h with reply := some (.value o v) }) ∧
      (∀ n v, p.body = .data m 0 n v 0 0 → Answers (exec .data s) fun t => t.lat.net = rest ∧ SameMem s t ∧
        t.hart? (.thread c k) = some { h with reply := some (.value 0 v) })) ∧
    (∀ (p : Msg) (x va c k : Nat) (h : Hart), s.delivers p → p.body = .resume x va (.thread c k) 0 → s.hart? (.thread c k) = some h →
      h.stat = .waiting (.repair va) → h.t.post.later = [] → Answers (exec .resume s) fun t => t.lat.net = rest ∧ SameMem s t ∧
        t.hart? (.thread c k) = some { h with stat := .ready }) ∧
    (∀ (p : Msg) (x va task n : Nat) (w : Who) (a : Acc), s.delivers p → s.evArg 0 < 2 ^ 32 → p.body = .pageFault x va a w task →
      p.dest = .node n → (64 ≤ (s.faultsAt n).length → exec .pageFaultRepair s = .next s) ∧
      ((s.faultsAt n).length < 64 → s.isStopping x = false →
      (s.regionOf x va = none → Answers (exec .pageFaultRepair s) fun t => SameMem s t ∧ ∃ q, t.lat.net = rest ++ [q] ∧
        q.body = .resume x va w 3) ∧
      (∀ g l, s.regionOf x va = some g → s.walk x (va / pageBytes g.psize * pageBytes g.psize) = .ok l →
        Answers (exec .pageFaultRepair s) fun t => SameMem s t ∧ ∃ q, t.lat.net = rest ++ [q] ∧ q.body = .resume x va w 0) ∧
      (∀ g u, s.regionOf x va = some g →
        ({ s with lat := { s.lat with net := rest } } : State).createPage x g va task (n / 1024) (nodeStack n) = some u →
        Answers (exec .pageFaultRepair s) fun t => t.mem = u.mem ∧ t.lat.frames = u.lat.frames ∧ t.lat.roots = u.lat.roots))) ∧
    (∀ i, s.h.ctl.h = false → s.h.replay = false → s.h.t.post.firstRefused = some i → exec .postedRefusalTrap s =
      .next (s.takeTrap { cause := 0x16, addr := (s.h.t.post.j.getD i {}).addr % 2 ^ 57, detail := i })) ∧
    (∀ (m : Msg) (v c : Nat), s.lat.net[s.evArg 0]? = some m → m.via = some v → m.dest = .core c → s.isPlaced c = true →
      Answers (exec .messageForward s) fun t => t.lat.net = s.lat.net.set (s.evArg 0) { m with via := none } ∧ SameMem s t)

/-- Operation replies, redirects, handler dispatch, write-backs, replicas and page moves. OPERATION_REPLY gives an
operation the end state and record of its two words; REDIRECT lets the engine take over an operation that has not
ended and acknowledges, and the acknowledgement frees the redirect entry; HANDLER_DISPATCH puts a message into its
rill core's inbox, which starts its handler when it lies above every handler in progress; WRITE_BACK_COMPLETE, once
no line of it waits for DRAM, ends one write-back: after CLEANR what each line held at the instruction is in DRAM,
and INVALR leaves no cached copy of its lines; REPLICA_CREATE copies a CONST page to a free frame; PAGE_MOVE moves
the frame and the freeze units of a PRIV page to a free place with the page's bytes, its translation names that
place and no TLB copy serves the page any more, and no cached line of the old place is left. -/
def Obligations.OperationsHandlersAndPages : Prop :=
  ∀ s : State,
    let rest := s.lat.net.eraseIdx (s.evArg 0)
    (∀ (p : Msg) (c k g w0 w1 : Nat) (o : Op) (e : OpState), s.delivers p → p.body = .opReply c k g w0 w1 → s.op? c k g = some o →
      endOfCode (w0 / 2 ^ 61 % 8) = some e → o.replied = false → o.hold = 0 → (∀ x, x ∈ s.work.ops → x.aft = [] ∧ x.cls ≠ 7) →
      (∀ a b d f h i j l y z, o.work ≠ .coll a b d f h i j l y z) →
      (∀ q, q ∈ s.work.tasks → q.st ≠ .exited) → Answers (exec .operationReply s) fun t => t.lat.net = rest ∧ SameMem s t ∧
        ∃ n, t.op? c k g = some n ∧ n.replied = true ∧ n.st = e ∧ n.cls = bits w0 60 56 ∧ n.code = bits w0 55 48 ∧
          n.units = w0 % 2 ^ 32 ∧ n.addr = w1 % 2 ^ 57) ∧
    (∀ (p : Msg) (c k g : Nat) (o : Op), s.delivers p → s.op? c k g = some o → s.isStopping p.ctx = false →
      p.body = .redirect c k g → Answers (exec .redirect s) fun t => SameMem s t ∧
        t.op? c k g = some (if o.st.ended then o else { o with hold := 2 }) ∧
        let src := match p.dest with
          | .node n => Who.rill n
          | _ => Who.core c
        t.lat.net = rest ++ [{ src := src, ctx := p.ctx, dest := .core c, body := .redirectAck c k g }]) ∧
    (∀ (p : Msg) (c k g : Nat) (o : Op), s.delivers p → p.body = .redirectAck c k g →
      s.work.ops.find? (fun x => x.is c k g && x.entry) = some o →
      Answers (exec .redirectAcknowledgement s) fun t => SameMem s t ∧ t.lat.net = rest ∧
        (o.hold = 6 → t.work.ops = s.work.ops.filter (fun x => !x.same o)) ∧
        (o.hold ≠ 6 → { o with entry := false, hold := if o.hold = 2 then 3 else o.hold } ∈ t.work.ops)) ∧
    (∀ (p : Msg) (r : RMsg) (n : Nat) (h : Hart), s.delivers p → p.body = .rill r → p.dest = .node n → s.hart? (.rill n) = some h →
      h.replay = false → h.stat ≠ .exited → h.r.inbox = [] → Answers (exec .handlerDispatch s) fun t => t.lat.net = rest ∧ SameMem s t ∧
        ∃ g, t.hart? (.rill n) = some g ∧
        (∀ l a, h.r.select r = some (l, a) → l ≤ 3 → h.r.busy = none →
          g.pc = BitVec.ofNat 64 a ∧ g.r.level = l ∧ g.x[3] = BitVec.ofNat 64 r.hdr ∧ g.r.inbox = []) ∧
        (h.r.select r = none → g = { h with r := { h.r with inbox := [r] } })) ∧
    (∀ w x, s.lat.writeBacks[s.evArg 0]? = some w → x ∈ w.lines → x.2 ≠ none → s.dramWaits (w.hart.pkg s) (64 * x.1) = true →
      exec .writeBackComplete s = .next s) ∧
    (∀ w, s.lat.writeBacks[s.evArg 0]? = some w →
      (∀ x, x ∈ w.lines → x.2 ≠ none → s.dramWaits (w.hart.pkg s) (64 * x.1) = false) → Answers (exec .writeBackComplete s) fun t =>
      t.lat.writeBacks = s.lat.writeBacks.eraseIdx (s.evArg 0) ∧
      (∀ a, (∀ x, x ∈ w.lines → x.1 ≠ a / 64) → Mem.read t.mem a = Mem.read s.mem a) ∧
      (w.inval = false → SameMem s t ∧ t.lat.cache = s.lat.cache ∧ ∀ l v, (w.lines.map (·.1)).Nodup → (l, some v) ∈ w.lines →
        (Mem.readN s.mem (64 * l) 64 = v → ∀ d, d ∈ t.lat.dram → d.1 ≠ l) ∧
        (Mem.readN s.mem (64 * l) 64 ≠ v → (l, v) ∈ t.lat.dram)) ∧
      (w.inval = true → ∀ x, x ∈ w.lines → ∀ c, c ∈ t.lat.cache → c.line ≠ x.1)) ∧
    (∀ (f : Frame) (pa : Nat), Mem.wf s.mem = true → s.frameAt (s.evArg 0) = some f → f.kind = 2 →
      s.lat.placeBy true (paPkg f.pa) (s.evArg 1 % 16) f.size = some pa → (pa + f.size ≤ f.pa ∨ f.pa + f.size ≤ pa) →
      Answers (exec .replicaCreate s) fun t =>
        (∀ i, i < f.size → Mem.read t.mem (pa + i) = Mem.read s.mem (f.pa + i)) ∧ SameOutside s.mem t.mem pa f.size) ∧
    (∀ (f : Frame) (l : Leaf), s.frameAt (s.evArg 0) = some f → s.walk f.ctx f.va = .ok l → f.kind = 1 →
      s.evArg 1 % f.size = 0 → s.lat.isFree (s.evArg 1) f.size = true → s.evArg 1 % 2 ^ 40 + f.size ≤ 0x9000000000 →
      Answers (exec .pageMove s) fun t =>
        (∃ g, g ∈ t.lat.frames ∧ g.pa = s.evArg 1 ∧ g.size = f.size ∧ g.va = f.va ∧ g.ctx = f.ctx) ∧
        (∀ u, u ∈ s.lat.units → f.pa ≤ u.pa → u.pa < f.pa + f.size →
          ∃ v, v ∈ t.lat.units ∧ v.pa = s.evArg 1 + (u.pa - f.pa) ∧ v.cells = u.cells ∧ v.st = u.st ∧ v.gen = u.gen) ∧
        (∀ c, c ∈ t.lat.cache → ¬ (f.pa ≤ c.line * 64 ∧ c.line * 64 < f.pa + f.size)) ∧
        (∀ e, e ∈ t.lat.tlb → e.hits f.ctx f.va = false) ∧
        let new := s.evArg 1
        let apart := fun (a : Nat) => overlaps (a / 8192 * 8192) (a / 8192 * 8192 + 8192) f.pa (f.pa + f.size) = false ∧
          overlaps (a / 8192 * 8192) (a / 8192 * 8192 + 8192) new (new + f.size) = false
        (f.size = pageBytes l.size → new < 2 ^ 58 → Mem.wf s.mem = true →
          (∀ e, e ∈ walkPath s.mem f.va 4 (bits (s.root f.ctx f.va) 57 13 * 8192) → apart e) →
          t.walk f.ctx f.va = .ok { l with pa := new } ∧
          ((∀ i, i < f.size → s.settled (f.pa + i)) → ∀ i, i < f.size → Mem.read t.mem (new + i) = Mem.read s.mem (f.pa + i))))

/-- Arrival, start and cancel of operations, the arm sequencer, and the rendezvous of a remote copy. An operation's
message that reaches its engine marks it arrived, and stays in the network while the operation waits for another; an
engine starts the operation that is its next, and one that it ran and that stands at a unit boundary is suspended; a
cancel that arrives ends a queued operation, or one at a unit boundary or in a stall, as cancelled, with its retired
units in its reply, or waits for the end of the unit that has begun, and marks its context where the operation had
started. The arm sequencer finishes one macro a step and answers its thread after the last; an ARM that finds an
invalid block answers with the trap. A macro enters retention. The rill core that owns a remote copy's destination
answers with its place, or refuses one that is not aligned to the cell, and the operation learns it. -/
def Obligations.EnginesTakeUpOperations : Prop :=
  ∀ s : State,
    let rest := s.lat.net.eraseIdx (s.evArg 0)
    let reply := fun (w : Who) (o : Op) (b : Body) => rest ++ [({ src := w, ctx := o.ctx, dest := .core o.core, body := b } : Msg)]
    (∀ (p : Msg) (c k g : Nat) (o : Op), s.delivers p → p.body = .engine c k g → s.op? c k g = some o → o.st.ended = false →
      (o.aft = [] → Answers (exec .engineMessageArrival s) fun t => SameMem s t ∧
        t.op? c k g = some { o with arrived := true } ∧ (o.kind ≤ 3 → t.lat.net = rest)) ∧
      (o.aft ≠ [] → exec .engineMessageArrival s = .next s)) ∧
    (∀ o : Op, s.opAt (s.evArg 0) = some o → s.hasOp o → o.kind ≠ 4 → s.startable o = true → s.collReady o = true →
      s.unitFits o = true → s.isNext o = true → Answers (exec .operationStart s) fun t =>
        SameMem s t ∧ t.lat = s.lat ∧ (∃ n, t.op? o.core o.slot o.gen = some n ∧ n.st = .running) ∧
        (∀ q, q ∈ s.work.ops → q.same o = false → q.sameEngine o = true → q.st = .running → q.begun = false →
          { q with st := .suspended } ∈ t.work.ops)) ∧
    (∀ (p : Msg) (c k g : Nat) (o : Op), s.delivers p → p.body = .cancel c k g → s.op? c k g = some o → o.hold = 0 →
      let stalls := fun (b : Bool) => ∀ t, s.takeMsg (s.evArg 0) = some (p, t) → t.stalled o = b
      (o.st.ended = false → s.isStopping o.ctx = false → (o.begun = false ∨ o.waitVa.isSome = true ∨ stalls true) → Answers (exec .cancelArrival s) fun t => SameMem s t ∧
        (∃ n, t.op? c k g = some n ∧ n.st = .cancelled ∧ n.units = o.units) ∧
        t.lat.net = reply o.engine o (.opReply c k g (5 * 2 ^ 61 + o.units % 2 ^ 32) 0) ∧
        (o.st ≠ .queued → ∀ x, s.ctx? o.ctx = some x → ∃ y, t.ctx? o.ctx = some y ∧ y.detrel = true)) ∧
      (o.st = .running ∨ o.st = .suspended → o.begun = true → o.waitVa = none → stalls false → Answers (exec .cancelArrival s) fun t =>
        SameMem s t ∧ t.op? c k g = some { o with cut := true } ∧ t.lat.net = rest ∧
        ∀ x, s.ctx? o.ctx = some x → ∃ y, t.ctx? o.ctx = some y ∧ y.detrel = true) ∧
      ((o.st = .done ∨ o.st = .failed) → Answers (exec .cancelArrival s) fun t => SameMem s t ∧ t.op? c k g = some o ∧
        t.lat.net = rest ∧ ∀ x, s.ctx? o.ctx = some x → ∃ y, t.ctx? o.ctx = some y ∧ y.detrel = true)) ∧
    (∀ (c : Core) (q : SeqReq) (l : List SeqReq) (h : Hart), s.core? (s.evArg 0) = some c → c.seq = q :: l →
      s.hart? (.thread (s.evArg 0) q.slot) = some h → s.isPlaced (s.evArg 0) = true → s.evArg 1 ≠ 1 →
      let off := q.off + q.next * 0x6000
      let at_ := fun (t : State) (f : Hart → Core → Prop) =>
        ∃ x y, t.hart? (.thread (s.evArg 0) q.slot) = some x ∧ t.core? (s.evArg 0) = some y ∧ f x y
      (q.arm = false ∨ q.scanned = true ∨ h.t.scr.armTrap q = none → Answers (exec .armSequencerMacro s) fun t =>
        SameMem s t ∧ at_ t fun x y =>
          x.t.scr.armed = (if q.arm then h.t.scr.armed ++ [armMacro h.t.scr.w q.fmt off (q.soff + q.next * mxN q.fmt)
            (if q.scanned then q.region else c.arms)] else h.t.scr.armed.filter (fun a => a.off != off)) ∧
          (q.n ≤ q.next + 1 → y.seq = l ∧ x.reply = some (.value 0 0)) ∧
          (q.next + 1 < q.n → x.reply = h.reply ∧ ∃ z, y.seq = z :: l ∧ z.next = q.next + 1)) ∧
      (∀ a d, q.arm = true → q.scanned = false → h.t.scr.armTrap q = some (a, d) → Answers (exec .armSequencerMacro s) fun t =>
        SameMem s t ∧ at_ t fun x y => x.t.scr = h.t.scr ∧ y.seq = l ∧
          x.reply = some (.trap 0x0C (s.rawW h.task.ctx a) d))) ∧
    (∀ h, s.hart? (.thread (s.evArg 0) (s.evArg 1)) = some h → s.evArg 3 ≠ 1 → Answers (exec .retentionEntry s) fun t => SameMem s t ∧
      ∃ x, t.hart? (.thread (s.evArg 0) (s.evArg 1)) = some x ∧ x.t.scr.armed.length = h.t.scr.armed.length ∧
        ∀ (i : Nat) (a : Armed), h.t.scr.armed[i]? = some a →
          x.t.scr.armed[i]? = some (if a.off = s.evArg 2 then { a with retained := true } else a)) ∧
    (∀ (p : Msg) (c k g ssp dst src len gen pa : Nat) (o : Op) (l : Leaf), s.delivers p → p.body = .cpyrRequest c k g →
      s.op? c k g = some o → o.core = c → o.slot = k → o.gen = g → o.work = .cpyr ssp dst src len gen → s.isStopping o.ctx = false →
      (s.translate none (physDie (s.physOf o.core)) o.ctx o.task dst .latUpdate).2 = .ok l pa → l.kind ≠ 6 → l.ctype = 8 →
      let cs := cellBytes 8 l.csize
      Answers (exec .cpyrRequest s) fun t => SameMem s t ∧
        (dst % cs = 0 ∧ len % cs = 0 → t.op? c k g = some { o with h0 := cs } ∧
          t.lat.net = reply (.rill p.dest.nodeOf) o (.ready c k g (some pa) 0 0)) ∧
        (¬ (dst % cs = 0 ∧ len % cs = 0) → t.op? c k g = some o ∧ t.lat.net = reply (.rill p.dest.nodeOf) o (.ready c k g none 9 0))) ∧
    (∀ (p : Msg) (c k g pa : Nat) (o : Op), s.delivers p → p.body = .ready c k g (some pa) 0 0 → s.op? c k g = some o →
      o.st.ended = false → Answers (exec .readyToReceive s) fun t => SameMem s t ∧ t.lat.net = rest ∧
        t.op? c k g = some { o with dstPa := some pa })

/-- Matrix units, copy and stream strips, remote copy strips and collective blocks. A unit that its engine may run does
its part of its operation and retires: a unit of MXS adds its K-blocks to its accumulators in C and its last N-group
pops the tile, one of MXZ clears its row and one of MXE writes its converted row (a mismatch of the checksums that
the rerun does not have is counted, and one that it has too leaves the unit and marks its core); a strip of CPY
between views moves those of its bytes that an earlier run of it has not moved, one with a conversion the bytes of
the converted elements, and one that pushes into a ring its next tile; a strip of CPYA, CPYG or CPYS moves its
elements between the addresses of its pattern or of its indices, a later element over an earlier one; a strip of a
stream queues its images of the packed elements; a remote copy sends the fill of its next cell with the cell's
bytes, and retires the unit whose fills all have replies; a member of a collective supplies its block once, and the
unit waits for those of the others; a collective whose blocks have all come writes its result (for COLL.AG each
rank's blocks in its segment, with the padding of a B48 segment zero); unit 0 of COLL.A2A clears the received
counts, or fails where rows would not fit, and a later one puts its rows at their place in the destination's buffer,
and their count. The reduction tree combines children in ascending order. No byte outside those written changes. The
views are taken in canonical form. -/
def Obligations.UnitsComputeAndRetire : Prop :=
  ∀ (s : State) (o : Op) (h : Hart), Canonical s → s.opAt (s.evArg 0) = some o → s.hasOp o → o.hold = 0 → s.keepsTurn o = true →
    s.hart? o.hart = some h →
    let c := h.t.scr
    let u := o.units
    let own := fun (t : State) (f : Scratch → Prop) => SameMem s t ∧ ∃ x, t.hart? o.hart = some x ∧ f x.t.scr
    let good := fun (k : Nat) => (c.wake o.work).abftMatch o.work u (s.evArg k) = true
    (o.kind = 1 → s.evArg 3 = 0 → good 1 ∨ good 2 →
      let xfer := (s.pkg (physPkg (s.physOf o.core))).mgmt.xfer
      let abft := fun (t : State) => let y := (t.pkg (physPkg (s.physOf o.core))).mgmt.xfer
        (good 1 → y = xfer) ∧ (¬ good 1 → y = (xfer + 1) % 2 ^ 32)
      (∀ fmt afmt wrap z ring off kb ng m cb cs, o.work = .mxs fmt afmt wrap z ring off kb ng m cb cs →
        let n := mxN fmt
        let a := cb + u / ng * cs + 4 * (u % ng * n)
        let r := (c.rings.toList[ring]?).getD {}
        let blocks := (c.wake o.work).mxBlocks fmt afmt off kb (u % ng) (r.base + r.head % (r.size / r.tile) * r.tile)
        c.inWindows 2 a (4 * n) = true → Answers (exec .matrixUnit s) fun t => Retired s t o (m * ng) ∧ abft t ∧ own t fun x =>
          (∀ j, j < n → Mem.readN x.c (a + 4 * j) 4 =
            (blocks.foldl (fun acc b => accumulate fmt wrap b.1 b.2 j acc)
              (if z then 0 else Mem.readN c.c (a + 4 * j) 4)) % 2 ^ 32) ∧
          SameOutside c.c x.c a (4 * n) ∧ x.w = c.w ∧ x.a = c.a ∧
          ∀ k : Nat, x.rings.toList[k]? = (c.rings.toList[k]?).map (fun d =>
            if k = ring ∧ u % ng + 1 = ng then { d with head := (d.head + 1) % 2 ^ 32 } else d)) ∧
      (∀ rw m cb cs, o.work = .mxz rw m cb cs → c.inWindows 2 (cb + u * cs) (64 * rw) = true →
        Answers (exec .matrixUnit s) fun t => Retired s t o m ∧ abft t ∧ own t fun x =>
          (∀ b, cb + u * cs ≤ b → b < cb + u * cs + 64 * rw → Mem.read x.c b = 0) ∧
          SameOutside c.c x.c (cb + u * cs) (64 * rw) ∧ x.w = c.w ∧ x.a = c.a) ∧
      (∀ relu srci dbuf dfmt rm sat cb cs m db ds alpha nb sp, o.work = .mxe relu srci dbuf dfmt rm sat cb cs m db ds alpha nb sp →
        let buf := if dbuf = 1 then 2 else 1
        let e := [4, 2, 2, 1, 1, 1, 1].getD dfmt 1
        let n := 48 * e
        let row := cb + u * cs
        let at_ := db + u * ds
        let sc := sp + u * nb
        let mode := RndMode.ofCodes rm sat
        let value := fun (j i : Nat) =>
          let acc := Mem.readN c.c (row + 192 * j + 4 * i) 4
          let v := ((if srci then FVal.int (sextNat acc 32) else fp32.value acc).mul (fp32.value alpha)).1
          if relu = true ∧ v.neg = true ∧ v.isNaN = false then FVal.fin false 0 0 else v
        dfmt ≤ 6 → c.inWindows 2 row (192 * nb) = true → c.inWindows buf at_ (n * nb) = true → c.plain buf at_ (n * nb) = true →
        (dfmt = 5 → c.inWindows buf sc nb = true ∧ c.plain buf sc nb = true ∧ (sc + nb ≤ at_ ∨ at_ + n * nb ≤ sc)) →
        Answers (exec .matrixUnit s) fun t => Retired s t o m ∧ abft t ∧ own t fun x =>
          (∀ j, j < nb →
            let elem := fun (i : Nat) => Mem.readN (x.view buf) (at_ + n * j + e * i) e
            let q := quantBlock .b48e4m3 ((List.range 48).map (fun i => fp32.value (fp32.round (value j i) mode).1)) mode
            (dfmt < 5 → ∀ i, i < 48 → elem i = (([fp32, bf16, fp16, e4m3, e5m2].getD dfmt fp32).round (value j i) mode).1) ∧
            (dfmt = 5 → (∀ i, i < 48 → elem i = q.2.1.getD i 0 % 256) ∧ Mem.readN (x.view buf) (sc + j) 1 = q.1 % 256) ∧
            (dfmt = 6 → ∀ i, i < 48 → sextNat (elem i) 8 = ((value j i).toIntClamp (-128) 127 mode.rm).1)) ∧
          (∀ b, (b < at_ ∨ at_ + n * nb ≤ b) → (dfmt = 5 → b < sc ∨ sc + nb ≤ b) →
            Mem.read (x.view buf) b = Mem.read (c.view buf) b) ∧
          x = c.setView buf (x.view buf))) ∧
    (o.kind = 1 → s.evArg 3 = 0 → (c.wake o.work).mxFault o.work u = none → ¬ good 1 → ¬ good 2 → Answers (exec .matrixUnit s) fun t => SameMem s t ∧ t.work.ops = s.work.ops ∧
      t.hart? o.hart = some h ∧ (t.physAt (s.physOf o.core)).bad = true) ∧
    (∀ dsp ssp ring dst src len rm sat, o.kind = 2 → o.work = .cpy dsp ssp 0 ring dst src len rm sat → s.evArg 1 ≠ 1 →
      dsp ∈ [1, 2, 3] → ssp ∈ [1, 2, 3] → dsp ≠ ssp → u * 4096 < len → src + len ≤ 2 ^ 64 → dst + len ≤ 2 ^ 64 →
      o.written ≤ min 4096 (len - u * 4096) →
      let k := u * 4096 + o.written
      let n := min 4096 (len - u * 4096) - o.written
      c.readable (ssp - 1) (src + k) n → c.writable (dsp - 1) (dst + k) n →
      Answers (exec .copyStrip s) fun t => Retired s t o (ceilDiv len 4096) ∧ own t fun x =>
        Mem.readN (x.view (dsp - 1)) (dst + k) n = Mem.readN (c.view (ssp - 1)) (src + k) n ∧
        SameOutside (c.view (dsp - 1)) (x.view (dsp - 1)) (dst + k) n ∧
        x = c.setView (dsp - 1) (x.view (dsp - 1))) ∧
    (∀ dsp ssp conv ring dst src len rm sat, o.kind = 2 → o.work = .cpy dsp ssp conv ring dst src len rm sat → s.evArg 1 ≠ 1 →
      dsp ∈ [1, 2, 3] → ssp ∈ [1, 2, 3] → dsp ≠ ssp → 1 ≤ conv → conv ≤ 8 → o.written = 0 →
      let g := convSizes conv
      let total := len / g.1 * g.2
      let lo := u * 4096
      let n := min 4096 (total - lo)
      lo < total → src + len ≤ 2 ^ 64 → dst + total ≤ 2 ^ 64 →
      c.readable (ssp - 1) (src + lo / g.2 * g.1) ((ceilDiv (lo + n) g.2 - lo / g.2) * g.1) → c.writable (dsp - 1) (dst + lo) n →
      Answers (exec .copyStrip s) fun t => Retired s t o (ceilDiv total 4096) ∧ own t fun x =>
        (∀ j, lo ≤ j → j < lo + n → Mem.readN (x.view (dsp - 1)) (dst + j) 1 =
          codeAt 8 (convGroup conv (RndMode.ofCodes rm sat) (Mem.readN (c.view (ssp - 1)) (src + j / g.2 * g.1) g.1)) (j % g.2)) ∧
        SameOutside (c.view (dsp - 1)) (x.view (dsp - 1)) (dst + lo) n ∧
        x = c.setView (dsp - 1) (x.view (dsp - 1))) ∧
    (∀ (r : RndMode) (v : Nat), v < 2 ^ 32 →
      (∀ k, k < 4 → convGroup (k + 1) r v = (([bf16, fp16, e4m3, e5m2].getD k bf16).round (fp32.value v) r).1) ∧
      convGroup 5 r v = v * 65536 ∧ convGroup 6 r v = (widen fp16 v).1 ∧ convGroup 7 r v = (widen e4m3 v).1 ∧
      ∀ i j, i < 4 → j < 5 → codeAt 2 (convGroup 8 r v) (5 * i + j) =
        if 242 < codeAt 8 v i then 2 else [3, 0, 1].getD (codeAt 8 v i / 3 ^ j % 3) 0) ∧
    (∀ (dsp ssp e n : Nat) (sa da : Nat → Nat), o.kind = 2 → s.evArg 1 ≠ 1 → o.written = 0 → dsp ∈ [1, 2, 3] → ssp ∈ [1, 2, 3] →
      dsp ≠ ssp → 0 < e → e ≤ 4096 →
      let per := 4096 / e
      let lo := u * per
      let hi := min ((u + 1) * per) n
      lo < n →
      ((∃ ring dst src rm sat d, o.work = .cpya dsp ssp ring dst src rm sat d ∧ e = (affineOf d).e ∧ n = (affineOf d).total ∧
          (∀ i, (sa i : Int) = ((src : Int) + (affineOf d).offset (affineOf d).ss i) % 2 ^ 64) ∧
          ∀ i, (da i : Int) = ((dst : Int) + (affineOf d).offset (affineOf d).ds i) % 2 ^ 64) ∨
       ∃ ring dst src rm sat d, ∃ ix : Nat → Nat, e = nth d 0 % 2 ^ 13 ∧ n = nth d 1 % 2 ^ 32 ∧
          (∀ i, lo ≤ i → i < hi → ∃ l pa,
            s.translate (some o.core) (physDie (s.physOf o.core)) o.ctx o.task (nth d 2 + 4 * i) .engRead = (s, .ok l pa) ∧
            (l.kind = 1 ∨ l.kind = 2) ∧ s.fillWaits (physCluster (s.physOf o.core)) pa 4 = false ∧ s.isLost pa 4 = false ∧
            ix i = Mem.readN s.mem pa 4 ∧ ix i < nth d 1 / 2 ^ 32 % 2 ^ 32) ∧
          ((o.work = .cpyg dsp ssp ring dst src rm sat d ∧ (∀ i, sa i = src + ix i * e) ∧ ∀ i, da i = dst + i * e) ∨
           (o.work = .cpys dsp ssp dst src rm sat d ∧ (∀ i, sa i = src + i * e) ∧ ∀ i, da i = dst + ix i * e))) →
      (∀ i, lo ≤ i → i < hi → sa i + e ≤ 2 ^ 64 ∧ da i + e ≤ 2 ^ 64 ∧
        c.readable (ssp - 1) (sa i) e ∧ c.writable (dsp - 1) (da i) e) →
      Answers (exec .copyStrip s) fun t => Retired s t o (ceilDiv n per) ∧ own t fun x =>
        (∀ i j, lo ≤ i → i < hi → j < e → (∀ k, i < k → k < hi → da i + j < da k ∨ da k + e ≤ da i + j) →
          Mem.read (x.view (dsp - 1)) (da i + j) = Mem.read (c.view (ssp - 1)) (sa i + j)) ∧
        (∀ b, (∀ i, lo ≤ i → i < hi → b < da i ∨ da i + e ≤ b) → Mem.read (x.view (dsp - 1)) b = Mem.read (c.view (dsp - 1)) b) ∧
        x = c.setView (dsp - 1) (x.view (dsp - 1))) ∧
    (∀ ssp (g : Fin 8) dst src len rm sat, o.kind = 2 → o.work = .cpy 4 ssp 0 g.val dst src len rm sat → s.evArg 1 ≠ 1 →
      o.written = 0 → o.got = [] → ssp ∈ [1, 2, 3] →
      let r := c.rings[g]
      let lo := src + u * r.tile
      let at_ := r.base + r.tail % (r.size / r.tile) * r.tile
      0 < r.tile → (u + 1) * r.tile ≤ len → src + len ≤ 2 ^ 64 → c.readable (ssp - 1) lo r.tile →
      Answers (exec .copyStrip s) fun t => Retired s t o (ceilDiv len r.tile) ∧ own t fun x =>
        Mem.readN x.a at_ r.tile = Mem.readN (c.view (ssp - 1)) lo r.tile ∧ SameOutside c.a x.a at_ r.tile ∧
        x = { c with a := x.a, rings := c.rings.set g { r with tail := (r.tail + 1) % 2 ^ 32 } }) ∧
    (∀ vreg ssp src rm sat d, o.kind = 3 → o.work = .sbind vreg ssp 0 src rm sat d → s.evArg 1 ≠ 1 → ssp ∈ [1, 2, 3] →
      o.written = 0 → o.got = [] →
      let p := affineOf d
      let adr := fun (i : Nat) => wrapInt ((src : Int) + p.offset p.ss i) 64
      let lo := u * 4032
      let n := streamImages (p.images 0) u
      p.e ≠ 0 → lo < p.total * p.e →
      (∀ i, i < p.total → adr i + p.e ≤ 2 ^ 64 ∧ c.readable (ssp - 1) (adr i) p.e) →
      Answers (exec .streamStrip s) fun t => Retired s t o (ceilDiv (p.images 0) 21) ∧ own t fun x =>
        ∀ (i : Nat) (b : Stream), c.streams[i]? = some b → b.slot = o.slot → b.gen = o.gen → ∃ im : List VWord,
          x.streams[i]? = some { b with queue := b.queue ++ im } ∧ im.length = n ∧
          ∀ k j, k < n → j < 192 → lo + 192 * k + j < p.total * p.e →
            (im.getD k 0).toNat / 256 ^ j % 256 = (Mem.read (c.view (ssp - 1))
              (adr ((lo + 192 * k + j) / p.e) + (lo + 192 * k + j) % p.e)).toNat) ∧
    (∀ ssp dst src len gen, o.kind = 6 → o.work = .cpyr ssp dst src len gen → o.fills = 0 → o.cls = 0 → o.h0 ≠ 0 → s.evArg 1 ≠ 1 → o.written = 0 →
      let cs := o.h0
      let k := o.pushed
      (o.cellsDue ≤ k → Answers (exec .remoteCopyStrip s) fun t => SameMem s t ∧
        Retired s t o (ceilDiv (len / cs) (4096 / cs))) ∧
      (∀ l pa, k < o.cellsDue → ssp ∈ [1, 2, 3] → src + (k + 1) * cs ≤ 2 ^ 64 → c.readable (ssp - 1) (src + k * cs) cs →
        (s.translate (some o.core) (physDie (s.physOf o.core)) o.ctx o.task (dst + k * cs) .latUpdate).2 = .ok l pa →
        l.kind ≠ 6 → l.ctype = 8 → cellBytes 8 l.csize = cs →
        let w : Who := .op o.core o.slot o.gen u
        let z := latHome (s.physOf o.core) 8 l.csize pa
        let v := Mem.readN (c.view (ssp - 1)) (src + k * cs) cs
        let m : Member := { who := w, loc := z.loc, va := dst + k * cs, pa := pa, v := v }
        let r : LReq := { kind := .fill, ty := 8, sz := l.csize, gen := gen, members := [m] }
        Answers (exec .remoteCopyStrip s) fun t => SameMem s t ∧
          t.op? o.core o.slot o.gen = some
            { o with pushed := k + 1, fills := 1, begun := true, written := 0, got := [], bankAt := none } ∧
          t.lat.net = s.lat.net ++ [({ src := w, ctx := o.ctx, dest := z.dest, body := .lat r } : Msg)])) ∧
    (∀ i : Inst, s.inst? o = some i → s.evArg 1 ≠ 1 → o.written = 0 → i.disagree = false → i.lost u = false →
      let op := i.op
      let nb := i.d.blocks
      let j := if op = 2 then u % nb else u
      let seg := i.recv + if op = 2 then u / nb * i.d.seg else 0
      let blk := fun (p k : Nat) => nth ((i.blocksOf p u).getD []) k
      let tree := fun (own : Nat → Nat → Block) => if op = 0 then i.d.reduce i.rm i.n (u % i.n) (own 0)
        else if op = 1 then i.d.reduce i.rm i.n i.rank (own i.rank) else if op = 2 then own 0 (u / nb) else own 0 i.d.root
      ((i.blocksOf i.rank u).isSome = true → i.complete u = true → op ∈ [0, 1, 2, 4] → i.rsp ∈ [1, 2, 3] → u < i.d.units op i.n →
        (i.d.bfmt = none → (op < 2 → i.d.fmt ≤ 2) →
          let a := seg + j * i.d.eb
          let n := min i.d.eb (i.d.total - j * i.d.eb)
          a + n ≤ 2 ^ 64 → c.writable (i.rsp - 1) a n → Answers (exec .collectiveBlock s) fun t =>
            Retired s t o (i.d.units op i.n) ∧ own t fun x =>
              Mem.readN (x.view (i.rsp - 1)) a n = nth (tree fun k p => [blk p k]) 0 % 256 ^ n ∧
              SameOutside (c.view (i.rsp - 1)) (x.view (i.rsp - 1)) a n) ∧
        (∀ f, i.d.bfmt = some f → i.rank < i.n → (op = 4 → i.d.root < i.n) → (∀ p, p < i.n → ((i.blocksOf p u).getD []).length = 2 * if op = 1 then i.n else 1) →
          let a := seg + j * f.nb
          let e := seg + i.d.scaleAt + j
          let v := tree fun k p => [blk p (2 * k), blk p (2 * k + 1)]
          let pad := fun (b : Nat) => op = 2 ∧ j + 1 = nb ∧ ((seg + nb * f.nb ≤ b ∧ b < seg + i.d.scaleAt) ∨
            (seg + i.d.scaleAt + nb ≤ b ∧ b < seg + i.d.seg))
          seg + i.d.seg ≤ 2 ^ 64 → c.writable (i.rsp - 1) seg (if op = 2 then i.d.seg else i.d.one) →
          Answers (exec .collectiveBlock s) fun t => Retired s t o (i.d.units op i.n) ∧ own t fun x =>
            let m := x.view (i.rsp - 1)
            Mem.readN m a f.nb = nth v 0 % 256 ^ f.nb ∧ Mem.readN m e 1 = nth v 1 % 256 ∧ (∀ b, pad b → Mem.read m b = 0) ∧
            ∀ b, (b < a ∨ a + f.nb ≤ b) → b ≠ e → ¬ pad b → Mem.read m b = Mem.read (c.view (i.rsp - 1)) b)) ∧
      (∀ q, i.part i.rank = some q → q.blocks.length = u → op ∈ [0, 4] → i.d.bfmt = none → i.rsp ∈ [1, 2, 3] → i.ssp ∈ [1, 2, 3] →
        (op = 4 → i.rank = i.d.root) → o.got = [] → o.cut = false → (∃ p, p ∈ i.d.needs op i.n u ∧ p ≠ i.rank ∧ i.blocksOf p u = none) →
        let a := u * i.d.eb
        let n := min i.d.eb (i.d.total - a)
        i.send + a + n ≤ 2 ^ 64 → i.recv + a + n ≤ 2 ^ 64 → c.readable (i.ssp - 1) (i.send + a) n →
        c.writable (i.rsp - 1) (i.recv + a) n → Answers (exec .collectiveBlock s) fun t => SameMem s t ∧ t.hart? o.hart = some h ∧
          t.op? o.core o.slot o.gen = some { o with begun := false, bankAt := none } ∧
          ∃ x, t.inst? { o with begun := false, bankAt := none } = some x ∧
            ∀ p, x.blocksOf p u = if p = i.rank then some [Mem.readN (c.view (i.ssp - 1)) (i.send + a) n] else i.blocksOf p u) ∧
      (op = 3 → (i.blocksOf i.rank u).isSome = true →
        let count := fun (p q : Nat) => nth ((i.blocksOf p 0).getD []) q
        let off := fun (p q : Nat) => ((List.range p).map fun y => count y q).sum
        let room := fun (core : Nat) => (s.lat.cache.filter fun x => x.cluster == physCluster (s.physOf core)).length + 4 ≤ cacheLines
        let writes := fun (p : Op) (va n pa : Nat) => ∃ l, l.kind = 1 ∧ room p.core ∧ pa % 64 + n ≤ 64 ∧ va % 64 = pa % 64 ∧
          va + n ≤ 2 ^ 57 ∧ s.translate (some p.core) (physDie (s.physOf p.core)) p.ctx p.task va .engWrite = (s, .ok l pa) ∧
          s.storeWaits (physCluster (s.physOf p.core)) pa n = false
        (∀ pa, u = 0 → i.complete 0 = true → 0 < i.n → writes o i.d.rcv (4 * i.n) pa →
          ((∀ q, q < i.n → off i.rank q + count i.rank q ≤ i.d.cap) → Answers (exec .collectiveBlock s) fun t =>
            Retired s t o (i.n + 1) ∧ Mem.readN t.mem pa (4 * i.n) = 0 ∧ (s.settledRange pa (4 * i.n) → SameOutside s.mem t.mem pa (4 * i.n))) ∧
          (∀ q, q < i.n → i.d.cap < off i.rank q + count i.rank q → Answers (exec .collectiveBlock s) fun t =>
            ∃ x, t.op? o.core o.slot o.gen = some x ∧ x.st = .failed ∧ x.cls = 5 ∧ x.units = 0)) ∧
        (∀ (q pa : Nat) (p : CollPart) (g : Hart), u = q + 1 → i.part q = some p → s.mayDeliver i p = true → s.gone p.op.hart = false →
          s.hart? p.op.hart = some g →
          let z := p.op.work.recvOf
          let len := count i.rank q * i.d.rowb
          let a := z.2.1 + off i.rank q * i.d.rowb
          let b := i.send + ((List.range q).map fun y => count i.rank y).sum * i.d.rowb
          z.1 ∈ [1, 2, 3] → i.ssp ∈ [1, 2, 3] → (p.op.hart = o.hart → z.1 ≠ i.ssp) → a + len ≤ 2 ^ 64 → b + len ≤ 2 ^ 64 →
          c.readable (i.ssp - 1) b len → g.t.scr.writable (z.1 - 1) a len → writes p.op (z.2.2 + 4 * i.rank) 4 pa →
          Answers (exec .collectiveBlock s) fun t => Retired s t o (i.n + 1) ∧
            Mem.readN t.mem pa 4 = count i.rank q % 2 ^ 32 ∧ (s.settledRange pa 4 → SameOutside s.mem t.mem pa 4) ∧
            ∃ y, t.hart? p.op.hart = some y ∧
              Mem.readN (y.t.scr.view (z.1 - 1)) a len = Mem.readN (c.view (i.ssp - 1)) b len ∧
              SameOutside (g.t.scr.view (z.1 - 1)) (y.t.scr.view (z.1 - 1)) a len))) ∧
    (∀ (d : CollDesc) (r : RndMode) (b : Nat → Block),
      let v := fun k => d.leaf (b k)
      d.reduce r 2 1 b = d.result r (d.combine r (v 1) (v 0)) ∧
      d.reduce r 6 0 b = d.result r (d.combine r (d.combine r (d.combine r (d.combine r (v 0)
        (d.combine r (v 1) (v 5))) (v 2)) (v 3)) (v 4)))

/-- Rows of bank calls, bank units, phases, refresh management, channel modes and the control store. BANKCALL_MESSAGE
puts the rows of a call on a rill core's banks into its queue of 256, as many as find room, and is done with once
all are there. BANK_ROW_UNIT of a free bank unit runs its next queued unit and takes it alone out of the queue: in
DRAM, standard entry 5 fills the 1,024 bytes of its row with ARG0 and entry 0 copies a row, and no other byte
changes, nor a line that a cache holds; a unit queued by the firmware ends in a completion record of status 0, one
that has run more than 192 cycles from an ACT (BUSEG) in one of status 2, and a row of a bank call retires; a row
whose turn to retire has not come is kept, with the lines that it will write, and retires when those before it have.
An ordinary access to a bank that its unit holds is queued, an activation counts for its row (that of a queued
access when the access is served), and a line that ECC gives up is lost; at ROWEND the unit gives up its bank to a
waiting access or to refresh management, and resumes after the ordinary phase. RFM of a row at its threshold and a
stack alert take a bank that no unit holds at once. A switch to normal mode is held while a bank unit of the channel
runs and completes when every one is at ROWEND; one to near-bank mode cancels it. CONTROL_STORE_LOAD loads micro-
words and entries into one bank unit of a base-die rill core, or into all, and extends measurement register 2. -/
def Obligations.BankUnitsRunRowsAndYield : Prop :=
  ∀ s : State, Canonical s →
    let bu := s.evArg 0
    let b := s.bank bu
    let node := buNode bu
    let record := fun (st : Nat) (u : BqUnit) => st * 2 ^ 60 + u.bank * 2 ^ 56 + u.ch * 2 ^ 53 + u.call * 2 ^ 32 + u.row
    let records := fun (t : State) => (t.hart? (.rill node)).map (·.r.brec)
    let chs := fun (t : State) (ch : Nat) => t.chan ch
    let quiet := ∀ x, x ∈ s.allHarts → x.t.post.later = []
    let served := fun (acts : List (Nat × Nat)) => b.rowsDue.foldl (fun l r => bumpCount r l) acts
    (∀ (p : Msg) (c k g n : Nat) (o : Op), s.delivers p → p.body = .bankcall c k g → p.dest = .node n → s.op? c k g = some o →
      o.st.ended = false →
      let q := (s.bqOf n).filter s.unitLive
      let rows := s.rowsToPlace o n
      Answers (exec .bankcallMessage s) fun t => SameMem s t ∧ t.work = s.work ∧
        t.bqOf n = q ++ (rows.take (256 - q.length)).map (s.rowUnit o) ∧
        (rows.length ≤ 256 - q.length → t.lat.net = s.lat.net.eraseIdx (s.evArg 0)) ∧
        (256 - q.length < rows.length → t.lat = s.lat)) ∧
    (∀ u : BqUnit, b.cur = none → s.buFree bu = true → s.nextUnit bu = some u → quiet →
      let turn := ∀ o, s.unitOp u = some o → u.row = o.units ∧ o.ahead = []
      let f := s.freshUnit u
      let e := (b.entries.getD u.entry {}).std
      let ran := fun (t : State) => t.bqOf node = ((s.bqOf node).erase u).filter s.unitLive ∧ (t.bank bu).cur = none ∧
        (s.unitOp u = none → (s.hart? (.rill node)).map (fun h => h.r.brec ++ [record 0 u]) = records t) ∧
        (∀ o, s.unitOp u = some o → o.hold = 0 → ∃ n, t.op? o.core o.slot o.gen = some n ∧ n.units = o.units + 1 ∧
          (n.st = .done ↔ o.work.bankRowCount ≤ o.units + 1))
      let priv := fun (a : Nat) => a % 64 = 0 ∧ ∀ i, i < 16 → ∀ x, s.frameOf (a + 64 * i) = some x → x.kind = 1
      let cached := fun (a : Nat) => ∃ d, d ∈ s.lat.cache ∧ d.plain = true ∧ d.line = a / 64
      let wrote := fun (t : State) (a : Nat) (v : Nat → Nat) =>
        (∀ i, i < 16 → cached (a + 64 * i) ∨ s.settled (a + 64 * i) → t.dramLine (a + 64 * i) = v i) ∧
        (∀ x, x < a ∨ a + 1024 ≤ x ∨ cached x → Mem.read t.mem x = Mem.read s.mem x)
      let fill := packCodes 64 (List.replicate 8 (nth u.args 0))
      (e = some 5 → priv (nth f.ag 0) → turn → Answers (exec .bankRowUnit s) fun t => ran t ∧ wrote t (nth f.ag 0) fun _ => fill) ∧
      (∀ o, e = some 5 → priv (nth f.ag 0) → s.unitOp u = some o → o.units < u.row → (∀ r, r ∈ o.ahead → r.row ≠ o.units) →
        Answers (exec .bankRowUnit s) fun t => SameMem s t ∧ ∃ n r, t.op? o.core o.slot o.gen = some n ∧ n.units = o.units ∧
          n.st = .running ∧ n.ahead = o.ahead ++ [r] ∧ r.row = u.row ∧ r.late = false ∧ r.st = .done ∧ r.wr.length = 16 ∧
          ∀ i, i < 16 → (nth f.ag 0 + 64 * i, fill) ∈ r.wr) ∧
      (∀ o r, e = some 5 → priv (nth f.ag 0) → s.unitOp u = some o → o.hold = 0 → u.row = o.units → o.ahead = [r] → r.row = u.row + 1 →
        r.late = false → r.st = .done → o.cut = false → o.units + 2 < o.work.bankRowCount →
        Answers (exec .bankRowUnit s) fun t => ∃ n, t.op? o.core o.slot o.gen = some n ∧ n.units = o.units + 2 ∧ n.ahead = []) ∧
      (e = some 0 → turn → priv (nth f.ag 0) → priv (nth f.ag 1) →
        (nth f.ag 0 + 1024 ≤ nth f.ag 1 ∨ nth f.ag 1 + 1024 ≤ nth f.ag 0) →
        (∀ i, i < 16 → s.isLost (nth f.ag 0 + 64 * i) 64 = false) → Answers (exec .bankRowUnit s) fun t => ran t ∧
        wrote t (nth f.ag 1) fun i => s.dramLine (nth f.ag 0 + 64 * i) % 2 ^ 512)) ∧
    (∀ u : BqUnit, b.cur = some u → b.late = true → quiet → (∀ o, s.unitOp u = some o → u.row = o.units ∧ o.ahead = [] ∧ b.wr = []) →
      (s.unitOp u = none → b.wr = []) → Answers (exec .buseg s) fun t => SameMem s t ∧ (t.bank bu).cur = none ∧
      (s.unitOp u = none → (s.hart? (.rill node)).map (fun h => h.r.brec ++ [record 2 u]) = records t) ∧
      (∀ o, s.unitOp u = some o → o.hold = 0 → o.st.ended = false → ∃ n,
        t.op? o.core o.slot o.gen = some n ∧ n.st = .failed ∧ n.cls = 6 ∧ n.code = 2)) ∧
    (let d := if s.evArg 1 = 0 then b else b.activate (s.evArg 1 - 1)
     let queued := b.phase = .unit ∨ b.phase = .ordinary ∧ b.suspended = true
     Answers (exec .ordinaryAccessArrival s) fun t => SameMem s t ∧ (∀ x, x ≠ bu → t.bank x = s.bank x) ∧
       (queued → t.bank bu = { b with
         waiting := b.waiting + 1, rowsDue := b.rowsDue ++ if s.evArg 1 = 0 then [] else [s.evArg 1 - 1] }) ∧ (¬ queued → t.bank bu = d) ∧
       ∀ x, x ∈ t.lat.lost ↔ x ∈ s.lat.lost ∨ x + 1 = s.evArg 2) ∧
    (b.phase = .unit → b.cur = none → (s.accessWaits bu = true ∨ b.rfm = true) → quiet → Answers (exec .buSuspend s) fun t => SameMem s t ∧
      t.bank bu = { b with
        phase := .ordinary, suspended := true, rfm := false, acts := served (if b.rfm then [] else b.acts), rowsDue := [] }) ∧
    (b.phase = .ordinary → Answers (exec .ordinaryPhaseEnd s) fun t => SameMem s t ∧
      t.bank bu = { b with
        phase := .idle, waiting := 0, acts := served b.acts, rowsDue := [], suspended := b.suspended && !(s.chan (bu / 16)).mode }) ∧
    (let alert := fun (t : State) => SameMem s t ∧ (∀ x, x ≠ bu → t.bank x = s.bank x) ∧
        t.bank bu = if b.phase = .unit then { b with rfm := true } else { b with acts := [], rfm := false, phase := .ordinary }
     Answers (exec .stackAlert s) alert ∧ ((∃ a, a ∈ b.acts ∧ Config.rfmThreshold ≤ a.2) → Answers (exec .rfm s) alert) ∧
     ((∀ a, a ∈ b.acts → a.2 < Config.rfmThreshold) → exec .rfm s = .next s)) ∧
    (let c := s.chan (s.evArg 0)
     let held := s.evArg 1 / 8 % 2 = 1
     let busy := ∃ i, i < 16 ∧ (s.bank (16 * s.evArg 0 + i)).phase = .unit
     (busy → Answers (exec .modeSwitchNormal s) fun t => SameMem s t ∧
       chs t (s.evArg 0) = { c with held := true, done := if held then false else c.done }) ∧
     (¬ busy → Answers (exec .modeSwitchNormal s) fun t => SameMem s t ∧
       chs t (s.evArg 0) = { c with mode := false, held := false, done := true }) ∧
     (Answers (exec .modeSwitchNearBank s) fun t => SameMem s t ∧
       chs t (s.evArg 0) = { mode := true, held := false, done := if held then false else c.done }) ∧
     (c.held = true → quiet → (∀ i, i < 16 → (s.bank (16 * s.evArg 0 + i)).cur = none) → Answers (exec .modeSwitchComplete s) fun t =>
       SameMem s t ∧ chs t (s.evArg 0) = { mode := false, held := false, done := true } ∧
       ∀ i, i < 16 → (t.bank (16 * s.evArg 0 + i)).phase ≠ .unit)) ∧
    (rillKind (s.evArg 0) = 1 →
     let p := s.evArg 0 / 1024
     let mine := fun (x : Nat) => if 128 ≤ s.evArg 1 then x / 128 = quarterOf (s.evArg 0) else x = quarterOf (s.evArg 0) * 128 + s.evArg 1
     let extended := fun (t : State) (d : BitVec 384) => SameMem s t ∧ (∀ x, ¬ mine x → t.bank x = s.bank x) ∧
       (t.pkg p).meas.getD 2 0 = Config.sha384 (leBytes 48 ((s.pkg p).meas.getD 2 0).toNat ++ leBytes 48 d.toNat) ∧
       (t.audit p).next = (s.audit p).next + 1
     (s.evArg 2 ≠ 1 → Answers (exec .controlStoreLoad s) fun t =>
       (∀ x, mine x →
         (∀ i, i < 256 → nth (t.bank x).store i = nth s.ev (3 + 2 * i) + 2 ^ 64 * nth s.ev (4 + 2 * i)) ∧
         (∀ i, i < 16 → (t.bank x).entries.getD i {} =
           let w := nth s.ev (515 + i)
           { v := w.testBit 63, nrmask := bits w 55 52, dirreq := bits w 51 48, start := bits w 7 0 })) ∧
       extended t (Config.sha384 (wordBytes (padTo 512 (s.ev.drop 3) ++ padTo 16 (s.ev.drop 515))))) ∧
     (s.evArg 2 = 1 → Answers (exec .controlStoreLoad s) fun t =>
       (∀ x, mine x → ∀ i, i < 16 → ((t.bank x).entries.getD i {}).v = decide (i < 6)) ∧ ∃ d, extended t d))

/-- Gates, launch entries, placement of tasks and gangs, and the moves of core states. GATE_WAKE records a gate's
outcome, and the last one readies its task. A launch entry without gates that is accepted becomes a ready task with
its record, its words 9 and 10 are written and HEAD advances. PLACEMENT starts the thread of a task in its slot with
the registers of Table 7.5, and a gang whose slots are free, and which no earlier entry of its queue could take, is
placed whole; another receives its reservation. A core state without work returns its core. PREEMPTION and MIGRATION
start a save, DRAIN_COMPLETE suspends its engines' operations and chooses its destination, STREAM_COMPLETE leaves
its core free (or retired or emptied), and RESTORE runs it again. THREAD_MOVE takes a thread with its registers,
scratchpad and task to another core state. Cores are emptied and returned to service. No byte of DRAM changes. -/
def Obligations.TasksArePlacedAndCoresMove : Prop :=
  ∀ s : State, Canonical s →
    let a0 := s.evArg 0
    (∀ (p : Msg) (n i o : Nat) (x : Task), s.delivers p → p.body = .gateWake n i o → s.task? n = some x → x.st = .gated →
      i < x.gates.length → Answers (exec .gateWake s) fun t => SameMem s t ∧ t.lat.net = s.lat.net.eraseIdx a0 ∧
        ∃ y, t.task? n = some y ∧ y.gates = x.gates.set i (some o) ∧
          ((∃ j, j < x.gates.length ∧ j ≠ i ∧ x.gates.getD j none = none) → y.st = .gated) ∧
          ((∀ j, j < x.gates.length → j ≠ i → x.gates.getD j none ≠ none) → y.st = .ready ∧ y.readyAt = s.work.nextReady)) ∧
    (let q := s.queue a0
     let at_ := q.base * 4096 + 128 * (q.head % 2 ^ q.log2n)
     let w := q.entry.getD (Mem.words s.dev.host at_ 16)
     let failed := q.entry = none ∧ s.evArg 1 = 1
     q.waits = true → q.bound.isSome = true → s.isStopping q.ctx = false → s.storeFull q.ctx (a0 / 1024) = false →
     let consumed := fun (t : State) (code : Nat) => SameMem s t ∧ (t.queue a0).head = (q.head + 1) % 65536 ∧
       Mem.readN t.dev.host (at_ + 72) 8 = code ∧ Mem.readN t.dev.host (at_ + 80) 8 = 0 ∧
       SameOutside s.dev.host t.dev.host (at_ + 72) 16
     let noTask := fun (t : State) => t.work = { s.work with ctxs := t.work.ctxs } ∧
       ∀ c, s.ctx? q.ctx = some c → t.ctx? q.ctx = some { c with quiet := false }
     (failed → Answers (exec .launchEntryProcess s) fun t => consumed t 8 ∧ noTask t) ∧
     (¬ failed → (∀ i, 11 ≤ i → nth w i = 0) → recordBad (w.take 8) = false → (recArg w 60 58).getD 0 % 32 = 0 → recNg w = 0 →
       s.storeFull q.ctx (s.launchDie a0 q.ctx w [] / 4) = false →
       Answers (exec .launchEntryProcess s) fun t => consumed t 1 ∧ ∃ x, x ∈ t.work.tasks ∧ x.num = s.work.nextTask ∧
         x.st = .ready ∧ x.ctx = q.ctx ∧ x.name = nth w 8 ∧ x.words = w.take 8) ∧
     (¬ failed → (∃ i, 11 ≤ i ∧ nth w i ≠ 0) → Answers (exec .launchEntryProcess s) fun t =>
       consumed t 7 ∧ noTask t)) ∧
    (∀ i rest, (s.pkg a0).pending = i :: rest → i < 1024 → ((s.pkg a0).queues.filter (fun q => q.2.bound.isSome)).length < 32 →
      Answers (exec .queueBind s) fun t => SameMem s t ∧ (t.pkg a0).pending = rest ∧
        t.queue (a0 * 1024 + i) = { s.queue (a0 * 1024 + i) with bound := some 0 }) ∧
    (∀ x, s.task? a0 = some x → s.waitsPlace x = true → s.canTake x (s.evArg 1) (s.evArg 2) = true →
      s.evArg 1 ∈ s.coresFor x → (∃ b, s.bestPlace x = some b ∧
        s.nearness x b.1 * 16 + s.busyAt b.1 = s.nearness x (s.evArg 1) * 16 + s.busyAt (s.evArg 1)) →
      s.overtaken x (s.evArg 1) (s.evArg 2) = false → Answers (exec .placement s) fun t => SameMem s t ∧
        ∃ c k h, t.coreAt (s.evArg 1) = some k ∧ k.id = c ∧ t.task? a0 = some { x with st := .placed c (s.evArg 2) } ∧
          t.hart? (.thread c (s.evArg 2)) = some h ∧ h.pc = BitVec.ofNat 64 (bits (nth x.words 0) 56 2 * 4) ∧
          h.t.task.num = x.num ∧ h.t.task.ctx = x.ctx ∧ h.t.task.name = x.name ∧ h.t.task.rank = x.rank ∧
          h.t.scr = {} ∧ h.t.rlt = s.leftLocks c (s.evArg 2) ∧ h.ownLocks = [] ∧ h.ctl = {} ∧
          ∀ r : Fin 32, h.x[r] = (if 3 ≤ r.val ∧ r.val ≤ 8 then BitVec.ofNat 64 (nth x.words (r.val - 2))
            else if r = 2 then (match recArg x.words 54 52 with
              | some b => BitVec.ofNat 64 (b + (x.rank + 1) * 0x100000)
              | none => 0)
            else if r = 28 ∧ x.gang ≠ none then BitVec.ofNat 64 (s.gangBase x.ctx)
            else if r = 29 ∧ x.gang ≠ none then BitVec.ofNat 64 x.rank
            else 0)) ∧
    (∀ x, s.task? a0 = some x → x.st = .ready → Answers (exec .levelConfinementExpiry s) fun t => SameMem s t ∧
      t.task? a0 = some { x with confined := false }) ∧
    (∀ g x l, s.gang? a0 = some g → s.waitingGang g = some x →
      (if g.target = [] then s.gangChoice x else some g.target) = some l →
      let mine := s.allFree x l = true ∧ (∀ y, y ∈ l → s.taskFirst x y.1 y.2 = false) ∧ s.gangFirst x (l.map (·.1)) = false
      (mine → Answers (exec .gangPlacement s) fun t => SameMem s t ∧ ∃ y, t.gang? a0 = some y ∧
        y.placed = true ∧ y.members.length = l.length ∧ y.target = [] ∧ (l ≠ [] → y.members.head? = some x.num)) ∧
      (¬ mine → g.target = [] → s.mayReserve x = true → Answers (exec .gangPlacement s) fun t => SameMem s t ∧
        t.gang? a0 = some { g with target := l })) ∧
    (∀ c p, s.core? a0 = some c → c.loc = .at p → s.idleCore a0 = true → s.isStopping c.ctx = false →
      Answers (exec .coreReturn s) fun t => SameMem s t ∧ t.core? a0 = none ∧
        (t.physAt p).st = (if s.evArg 1 = 1 ∨ (s.physAt p).bad then .retired
          else if (s.physAt p).emptying then .emptied else .free)) ∧
    (∀ n c, s.need (s.evArg 1) (s.evArg 2) = some n → s.served n = false → s.victim n = some a0 → s.coreAt a0 = some c →
      Answers (exec .preemption s) fun t => SameMem s t ∧ (t.physAt a0).claim = some (n.kind, n.id) ∧
        ∃ d, t.core? c.id = some d ∧ d.loc = .draining a0 none false) ∧
    (∀ c p x mig, s.core? a0 = some c → c.loc = .draining p x mig → s.streamsOf (physDie p) < 8 →
      (∀ o, o ∈ s.work.ops → o.core = a0 → s.inUnit o = false) → Answers (exec .drainComplete s) fun t => SameMem s t ∧
      t.core? a0 = some { c with loc := .streaming p (s.streamTo p mig) } ∧
      (∀ d, s.streamTo p mig = some d → (t.physAt d).st = .held a0) ∧
      ∀ o, o ∈ s.work.ops → o.core = a0 → o.kind ≤ 3 → o.st = .running → { o with st := .suspended } ∈ t.work.ops) ∧
    (∀ c p dst, s.core? a0 = some c → c.loc = .streaming p dst → Answers (exec .streamComplete s) fun t => SameMem s t ∧
      (∃ d, t.core? a0 = some { c with loc := d, rr := Vector.replicate 12 0, last := none, lastY := false } ∧ (∀ n, dst = some n → d = .at n) ∧ (dst = none → d = .saved (physPkg p))) ∧
      (t.physAt p).st = (if (s.physAt p).bad then .retired else if (s.physAt p).emptying then .emptied else .free) ∧
      (∀ e, e ∈ t.lat.tlb → e.core ≠ some a0) ∧
      ∀ m, m ∈ s.lat.net → m.dest = .core a0 → { m with via := some p } ∈ t.lat.net) ∧
    (∀ c k, s.core? a0 = some c → c.loc = .saved k → physPkg (s.evArg 1) = k → s.restorable c.ctx (s.evArg 1) = true →
      s.isStopping c.ctx = false → Answers (exec .restore s) fun t => SameMem s t ∧ (t.physAt (s.evArg 1)).st = .held a0 ∧
        ∃ d, t.core? a0 = some d ∧ d.loc = .at (s.evArg 1) ∧ d.ctx = c.ctx ∧ d.gens = c.gens ∧ d.seq = c.seq) ∧
    (∀ c h p, let r : Ren := { core := a0, slot := s.evArg 1, dst := s.evArg 2, dslot := s.evArg 3 }
      s.core? a0 = some c → c.loc = .at p → s.hart? (.thread a0 (s.evArg 1)) = some h → s.mayMove h = true →
      s.isStopping c.ctx = false → s.canReceive r h = true → s.fwdUsed p < 16 →
      (∀ o, o ∈ s.work.ops → o.core = a0 → o.thread = s.evArg 1 → s.inUnit o = false) → Answers (exec .threadMove s) fun t =>
        ((∀ x, x ∈ s.allHarts → x.t.post.later = []) → SameMem s t) ∧
        ((∀ e, e ∈ h.t.rlt → e.2.left = false) → t.hart? (.thread a0 (s.evArg 1)) = none) ∧
        (∀ x, t.hart? (.thread a0 (s.evArg 1)) = some x → x.stat = .exited ∧ x.t.rlt = h.t.rlt.filter (·.2.left)) ∧
        ∃ g, t.hart? (.thread (s.evArg 2) (s.evArg 3)) = some g ∧
          g.pc = h.pc ∧ g.ctl = h.ctl ∧ g.stat = h.stat ∧ g.t.task = h.t.task ∧ g.t.scr = { h.t.scr with spillMap := g.t.scr.spillMap } ∧
          (h.t.post.later = [] → g.t.post = h.t.post) ∧
          (s.leftLocks (s.evArg 2) (s.evArg 3) = [] → g.t.rlt = sortLocks h.ownLocks) ∧
          (h.Plain → g.x = h.x ∧ g.t.vec = h.t.vec ∧ g.board = h.board)) ∧
    (∀ c p, s.core? a0 = some c → c.loc = .at p → ((s.physAt p).bad = true ∨ (s.physAt p).emptying = true) →
      s.fwdUsed p < 16 → Answers (exec .migration s) fun t => SameMem s t ∧ t.core? a0 = some { c with loc := .draining p none true }) ∧
    ((s.physAt a0).st = .free → Answers (exec .coreEmptyRequest s) fun t => SameMem s t ∧ (t.physAt a0).st = .emptied) ∧
    (∀ c, (s.physAt a0).st = .held c → Answers (exec .coreEmptyRequest s) fun t => SameMem s t ∧
      t.physAt a0 = { s.physAt a0 with emptying := true }) ∧
    ((s.physAt a0).st = .emptied → Answers (exec .coreReturnToService s) fun t => SameMem s t ∧
      (s.evArg 1 = 1 → (t.physAt a0).st = .retired) ∧
      (s.evArg 1 ≠ 1 → (t.physAt a0).st = .spare ∧
        (t.pkg (physPkg a0)).mgmt.spcore = (s.pkg (physPkg a0)).mgmt.spcore + 1))

/-- Fault records, stop, completion and sweep of a context; breakpoints, stop, run, step and debug writes.
CONTEXT_FAULT_RECORD appends the oldest pending record with its SEQ and counts it, and a stopping fault stops every
thread of the context; CONTEXT_STOPPED and CONTEXT_COMPLETE set their bit and write the handle and the status word
where the host asked for them; a sweep of a quiescent context sets QUIET while an input is open and otherwise raises
the quiescent-deadlock fault with its report. A breakpoint and HALT_GROUP_STOP stop the group with their source and
no thread of it stays ready or waiting; HALT_GROUP_RUN releases them and HALT_GROUP_STEP lets each issue one group.
A debug write to a halted thread changes its register or pc but no token, whose fields are read-only, and sets
DETREL; to a thread that runs it does nothing. No byte of DRAM changes. -/
def Obligations.ContextsStopAndHaltGroupsRun : Prop :=
  ∀ s : State, Canonical s →
    let a0 := s.evArg 0
    let notified := fun (t : State) (c y : Ctx) => Mem.readN t.dev.host c.compl 8 = a0 % 2 ^ 64 ∧
      Mem.readN t.dev.host (c.compl + 8) 8 = t.statusWord y % 2 ^ 64 ∧ SameOutside s.dev.host t.dev.host c.compl 16
    (∀ c, s.ctx? a0 = some c →
      (∀ r stop rest, c.pend = (r, stop) :: rest → Answers (exec .contextFaultRecord s) fun t => SameMem s t ∧
        ∃ y, t.ctx? a0 = some y ∧ y.pend = rest ∧ y.nfault = (c.nfault + 1) % 2 ^ 32 ∧
          y.log = (if c.log.length < 4096 then c.log ++ [r.set 0 (nth r 0 + c.log.length)] else c.log) ∧
          (stop = true → y.stopping = true ∧ ∀ h, h ∈ t.h :: t.harts → h.isThread = true → h.task.ctx = a0 →
            h.stat ≠ .ready ∧ ∀ w, h.stat ≠ .waiting w)) ∧
      (c.stopping = true → c.stopped = false → c.done = false → s.anyHalted a0 = false → s.inFlight a0 = false →
        s.moving a0 = false → Answers (exec .contextStopped s) fun t => SameMem s t ∧ t.ctx? a0 = some { c with stopped := true } ∧
          notified t c { c with stopped := true }) ∧
      (s.isComplete a0 = true → Answers (exec .contextComplete s) fun t => SameMem s t ∧
        ∃ y, t.ctx? a0 = some y ∧ y.done = true ∧ (s.orphanRecords a0 = [] → y = { c with done := true }) ∧ notified t c y) ∧
      (s.maySweep a0 = true → s.quiescent a0 = true → s.placePending a0 = false → s.moving a0 = false →
        (s.inputsOpen a0 = true → Answers (exec .quiescenceSweep s) fun t => SameMem s t ∧
          t.ctx? a0 = some { c with quiet := true }) ∧
        (s.inputsOpen a0 = false → s.isComplete a0 = false → Answers (exec .quiescenceSweep s) fun t => SameMem s t ∧
          ∃ y, t.ctx? a0 = some y ∧ (let n := (s.deadReport a0).length
            y.pend.head? = some ([6 * 2 ^ 56 + c.home * 2 ^ 38, 0, 0, 0, 0, n, min n 256, 0], true) ∧
            y.pend.length = 1 + min n 256)))) ∧
    (∀ c g i, s.ctx? s.h.task.ctx = some c → c.hgrp < 16 → s.myGroup = some g → s.atBreakpoint = some i → s.h.stat = .ready →
      Answers (exec .breakpoint s) fun t => SameMem s t ∧ (t.group g).stop = true ∧ (t.group g).src = 3 ∧ (t.group g).sidx = i ∧
        t.h.stat = .halted none false ∧ t.h.pc = s.h.pc) ∧
    (let mem := fun (h : Hart) => s.inGroup (a0 / 16) (a0 % 16) h = true
     ((s.group a0).stop = false → Answers (exec .haltGroupStop s) fun t => SameMem s t ∧
       (t.group a0).stop = true ∧ (t.group a0).src = 1 ∧
       ∀ h, h ∈ t.h :: t.harts → t.inGroup (a0 / 16) (a0 % 16) h = true → h.stat ≠ .ready ∧ ∀ w, h.stat ≠ .waiting w) ∧
     ((s.group a0).stop = true →
       (Answers (exec .haltGroupRun s) fun t => SameMem s t ∧ (t.group a0).stop = false ∧
         ∀ h, h ∈ s.h :: s.harts → mem h → s.willStop h.task.ctx = false →
           (∀ b, h.stat = .halted none b → { h with stat := .ready, pass := true } ∈ t.h :: t.harts) ∧
           (∀ w b, h.stat = .halted (some w) b → { h with stat := .waiting w, pass := true } ∈ t.h :: t.harts)) ∧
       ((∀ m, m ∈ s.lat.net → m.body.isReply = false) → Answers (exec .haltGroupStep s) fun t => SameMem s t ∧
         (t.group a0).stop = true ∧
         ∀ h, h ∈ s.h :: s.harts → mem h → h.Plain → ∀ b, h.stat = .halted none b →
           { h with stat := .halted none true, pass := true } ∈ t.h :: t.harts))) ∧
    (∀ h, s.hart? (.thread a0 (s.evArg 1)) = some h →
      (h.isHalted = false → exec .debugRegisterWrite s = .next s) ∧
      (h.isHalted = true → h.task.dbg = true → h.t.post.later = [] →
        let wrote := fun (f : Hart → Prop) => Answers (exec .debugRegisterWrite s) fun t => SameMem s t ∧
          (∃ g, t.hart? (.thread a0 (s.evArg 1)) = some g ∧ g.stat = h.stat ∧ g.t.task = h.t.task ∧ f g) ∧
          ∀ x, s.ctx? h.task.ctx = some x → ∃ y, t.ctx? h.task.ctx = some y ∧ y.detrel = true
        (∀ r : Fin 32, s.evArg 2 = r.val → wrote fun g => g.pc = h.pc ∧
          ∀ q : Fin 32, g.x[q] = if q = r ∧ r ≠ 0 then BitVec.ofNat 64 (s.evArg 3) else h.x[q]) ∧
        (s.evArg 2 / 2 ^ 32 = 3 → wrote fun g => g = h) ∧
        (s.evArg 2 = 5 * 2 ^ 32 → wrote fun g => g.x = h.x ∧ g.pc = BitVec.ofNat 64 (bits (s.evArg 3) 56 2 * 4))))

/-- Launch queues, host windows, register writes, host writes and host reads. QUEUE_ENABLE makes a queue with a ring of
16 entries or more and a live context valid, QUEUE_DISABLE resets it and QUEUE_CLOSE closes it; NOTIFY, at the page
of its queue in BAR2, sets TAIL, or the error bit when the value lies outside the ring. WINDOW_ENABLE makes a window
that passes the checks valid and WINDOW_CLOSE closes it. A register write sets a free mailbox word or a power limit
in range. A host write to a HOST page writes its bytes and no other, one to a cell of a LAT page sends one join or
fill of the window's generation, and one that is refused (no window, the end of one, a sealed region, a page of
another kind, a partial cell) changes nothing but the refusal ring and, of PCI Express, the error that AER logs; a
host read answers the bytes of a HOST page, waits for the writes before it, and fails with all ones over CXL.mem. A
request of a part that the port has not is dropped, or answered with all ones. -/
def Obligations.HostInputsAndAccesses : Prop :=
  ∀ s : State, Canonical s →
    let a0 := s.evArg 0
    let v := s.evArg 1
    (let q := s.queue a0
     let writes := fun (i : Instr) (r : Queue) => Answers (exec i s) fun t => SameMem s t ∧ t.queue a0 = r
     (v.testBit 0 = true → q.v = false → 4 ≤ q.log2n → s.live (bits v 43 32) = true →
       writes .queueEnable { q with v := true, opn := v.testBit 1, ctx := bits v 43 32 }) ∧
     (v.testBit 0 = true → q.v = false → q.log2n < 4 →
       writes .queueEnable { q with v := false, opn := v.testBit 1, ctx := bits v 43 32 }) ∧
     (v.testBit 0 = false → q.v = true →
       writes .queueDisable { q with v := false, head := 0, tail := 0, err := false, opn := v.testBit 1, bound := none, entry := none }) ∧
     (q.v = true → writes .queueClose { q with opn := false })) ∧
    (∀ i, i < 1024 → v = 4096 * i →
     let x := a0 * 1024 + i
     let q := s.queue x
     (q.v = true → q.opn = true → q.err = false →
       let n := s.evArg 2 % 65536
       let d := (n + 65536 - q.head % 65536) % 65536
       let e := (n + 65536 - q.tail % 65536) % 65536
       (d ≤ 2 ^ q.log2n → e ≤ 2 ^ q.log2n → Answers (exec .notify s) fun t => SameMem s t ∧
         t.queue x = { q with tail := n, bound := (t.queue x).bound } ∧ (q.bound = none → (t.queue x).bound = none) ∧
         ((s.pkg a0).pending = [] → (t.queue x).bound = q.bound)) ∧
       ((2 ^ q.log2n < d ∨ 2 ^ q.log2n < e) → Answers (exec .notify s) fun t => SameMem s t ∧ t.queue x = { q with err := true })) ∧
     ((q.v = false ∨ q.opn = false ∨ q.err = true) → exec .notify s = .next s)) ∧
    ((v % 4096 ≠ 0 ∨ 1024 ≤ v / 4096) → exec .notify s = .next s) ∧
    (let w := s.window a0
     (v.testBit 0 = true → w.v = false →
       let b : HostWin := { w with ctx := bits v 43 32, gen := bits v 31 16, opn := v.testBit 1 }
       Answers (exec .windowEnable s) fun t => SameMem s t ∧ t.window a0 = { b with v := s.windowOk a0 b }) ∧
     (w.v = true → Answers (exec .windowClose s) fun t => SameMem s t ∧ t.window a0 = { w with opn := false })) ∧
    (∀ i, i < 7 → v = 0x400000 + 8 * i → s.mbGo a0 = false → Answers (exec .registerWrite s) fun t => SameMem s t ∧
      t.mb a0 i = s.evArg 2 % 2 ^ 64 ∧ ∀ j, j ≠ i → t.mb a0 j = s.mb a0 j) ∧
    (v = 0x500000 → Answers (exec .registerWrite s) fun t => SameMem s t ∧ (t.pkg a0).mgmt =
      { (s.pkg a0).mgmt with plim := if 1000 ≤ s.evArg 2 % 65536 ∧ s.evArg 2 % 65536 ≤ 3000 then s.evArg 2 % 65536
                                     else (s.pkg a0).mgmt.plim }) ∧
    (let n := s.evArg 2
     let supported := fun (path : Nat) => (path = 0 ∧ v + n ≤ 64 * 2 ^ 30 ∧ n ≤ 4096) ∨ (path = 1 ∧ v + n ≤ 576 * 2 ^ 30)
     let k := s.pkg a0
     let signalled := fun (t : State) => (t.pkg a0).aerUr = true ∧ (t.pkg a0).nonFatal = k.nonFatal + 1
     let record := fun (t : State) (cause win ctx va : Nat) =>
       let at_ := if 1024 ≤ k.refusals.length then k.nrefused % 1024 else k.refusals.length
       SameMem s t ∧ t.lat = s.lat ∧ t.work = s.work ∧ (t.pkg a0).nrefused = (k.nrefused + 1) % 2 ^ 64 ∧
       (t.pkg a0).refusals[at_]? = some [cause * 2 ^ 56 + win * 2 ^ 50 + ctx * 2 ^ 32, va, 0, k.nrefused] ∧
       ∀ i, i ≠ at_ → (t.pkg a0).refusals[i]? = k.refusals[i]?
     let dropped := fun (cause win ctx va : Nat) => Answers (exec .hostWrite s) fun t => record t cause win ctx va ∧
       (s.evArg 4 = 0 → signalled t) ∧ (s.evArg 4 = 1 → (t.pkg a0).aerUr = k.aerUr ∧ (t.pkg a0).nonFatal = k.nonFatal)
     let failed := fun (cause win ctx va : Nat) => Answers (exec .hostRead s) fun t => record t cause win ctx va ∧
       (t.pkg a0).hread = if s.evArg 3 = 1 then some (List.replicate n 255) else none
     (¬ supported (s.evArg 4) → Answers (exec .hostWrite s) fun t => SameMem s t ∧ t.lat = s.lat ∧ t.work = s.work ∧ signalled t ∧
       (t.pkg a0).refusals = k.refusals ∧ (t.pkg a0).nrefused = k.nrefused) ∧
     (¬ supported (s.evArg 3) → Answers (exec .hostRead s) fun t => SameMem s t ∧ t.lat = s.lat ∧ t.work = s.work ∧
       (t.pkg a0).refusals = k.refusals ∧ (t.pkg a0).hread = some (List.replicate n 255)) ∧
     (supported (s.evArg 4) →
       (s.hostWin a0 v = none → dropped 1 0 0 0) ∧
       (∀ a : HostAcc, s.hostWin a0 v = some a → a.win < 64 →
         (a.w.hoff + a.w.len < v + n → dropped 1 a.win a.w.ctx a.va) ∧
         (v + n ≤ a.w.hoff + a.w.len →
           (∀ g, s.regionOf a.w.ctx a.va = some g →
             (g.sealed = true → dropped 7 a.win a.w.ctx a.va) ∧
             (g.sealed = false → g.kind ≠ 3 → g.kind ≠ 4 → dropped 2 a.win a.w.ctx a.va) ∧
             (g.sealed = false → g.kind = 3 → badType g.ctype g.csize = false →
               (a.va % cellBytes g.ctype g.csize ≠ 0 ∨ n % cellBytes g.ctype g.csize ≠ 0) → dropped 3 a.win a.w.ctx a.va)) ∧
           (∀ (l : Leaf) (pa : Nat), s.hostWriteCause a.w.ctx a.va n = none →
             s.hostBanks a0 a.w.ctx .hostWrite (n / 4096 + 2) a.va n = [] →
             (s.translate none (a0 * 4) a.w.ctx 0 a.va .hostWrite).2 = .ok l pa → a.va + n ≤ l.va + pageBytes l.size →
             (l.kind = 4 → Answers (exec .hostWrite s) fun t =>
               Mem.readN t.mem pa n = s.evArg 3 % 256 ^ n ∧ SameOutside s.mem t.mem pa n) ∧
             (l.kind = 3 → n = cellBytes l.ctype l.csize → n ≠ 0 →
               let who : Who := .host (a0 * 64 + a.win) (s.evArg 4 == 1)
               let x := hostValue l.ctype (s.evArg 3 % 2 ^ (8 * n))
               let m : Member := { who := who, va := a.va, pa := pa, v := x }
               let r : LReq := { kind := if l.ctype = 8 then .fill else .join, ty := l.ctype, sz := l.csize, gen := a.w.gen, members := [m] }
               let p : Msg := { src := who, ctx := a.w.ctx, dest := .unit (unitOf l.ctype l.csize pa), body := .lat r }
               Answers (exec .hostWrite s) fun t => SameMem s t ∧ t.lat.net = s.lat.net ++ [p]))))) ∧
     (supported (s.evArg 3) → s.hostPending a0 = true → exec .hostRead s = .next s) ∧
     (supported (s.evArg 3) → s.hostPending a0 = false →
       (s.hostWin a0 v = none → failed 1 0 0 0) ∧
       (∀ a : HostAcc, s.hostWin a0 v = some a → a.win < 64 →
         (a.w.hoff + a.w.len < v + n → failed 1 a.win a.w.ctx a.va) ∧
         (∀ (l : Leaf) (pa : Nat), v + n ≤ a.w.hoff + a.w.len →
           (s.translate none (a0 * 4) a.w.ctx 0 a.va .hostRead).2 = .ok l pa → l.kind ≠ 3 →
           s.hostBanks a0 a.w.ctx .hostRead (n / 4096 + 2) a.va n = [] → s.isLost pa n = false →
           a.va + n ≤ l.va + pageBytes l.size → Answers (exec .hostRead s) fun t => SameMem s t ∧
             ∃ b, (t.pkg a0).hread = some b ∧ b.length = n ∧ ∀ i, i < n → nth b i = (Mem.read s.mem (pa + i)).toNat))))

/-- CREATE, RELEASE and its scrub, SEAL and its completion, AUDITREAD. CREATE with good operands makes one context with
a nonzero handle of its own (if one is left), answers it in word 6 with STATUS 0 and logs it; a refused one makes
none and answers its STATUS. RELEASE closes the context's queues and stops it if it runs, and its scrub leaves
nothing of the context: no task, core state, operation, frame, message or thread, and not its key; it waits for host
joins, and retires the cores that fail their self-test. SEAL closes a HOST region and SEAL_COMPLETE makes it CONST,
or LAT of FILL cells, with its pages. AUDITREAD writes the records asked for to host memory and drops the earlier
ones. A handle or base that names nothing is answered with its STATUS. -/
def Obligations.MailboxCommandsComplete : Prop :=
  ∀ s : State, Canonical s →
    let p := s.evArg 0
    let ctx := s.mbCtx p
    let done := fun (t : State) (st : Nat) => t.mb p 7 = st * 256 % 2 ^ 64
    let logged := fun (t : State) (q n : Nat) => (t.audit q).next = (s.audit q).next + n
    (s.mbGo p = false → exec .create s = .next s ∧ exec .release s = .next s ∧ exec .seal s = .next s ∧
      exec .auditread s = .next s) ∧
    (s.mbGo p = true →
      (s.mbOp p = 1 →
        let c := s.createOp p
        (s.createStatus p c = 0 → Answers (exec .create s) fun t => SameMem s t ∧ done t 0 ∧ logged t p 1 ∧
          ∃ x, t.work.ctxs = s.work.ctxs ++ [x] ∧ t.mb p 6 = x.handle % 2 ^ 64 ∧ x.prio = c.prio ∧ x.key = c.key ∧ x.dbg = c.dbg ∧
            x.hgrp = c.hgrp ∧ x.pkgs = c.pkgs ∧ x.compl = c.compl ∧ x.regions = c.table.map (·.1) ∧ x.stopping = false ∧
            ((∃ h, 1 ≤ h ∧ h < 4096 ∧ ∀ y, y ∈ s.work.ctxs → y.handle ≠ h) →
              x.handle ≠ 0 ∧ x.handle < 4096 ∧ ∀ y, y ∈ s.work.ctxs → y.handle ≠ x.handle)) ∧
        (s.createStatus p c ≠ 0 → Answers (exec .create s) fun t => SameMem s t ∧ t.work = s.work ∧
          done t (s.createStatus p c))) ∧
      (s.mbOp p = 2 →
        (s.live ctx = false → Answers (exec .release s) fun t => SameMem s t ∧ t.work = s.work ∧ done t 1) ∧
        (s.live ctx = true → Answers (exec .release s) fun t => SameMem s t ∧ logged t p 1 ∧
          (∀ x, s.ctx? ctx = some x → ∃ y, t.ctx? ctx = some y ∧ y.released = true ∧ (x.done = false → y.stopping = true)) ∧
          ∀ q, (s.queue q).ctx = ctx → (t.queue q).v = false)) ∧
      (s.mbOp p = 3 →
        let base := bits (s.mb p 1) 56 12 * 4096
        let cs := bits (s.mb p 2) 4 1
        let lat := (s.mb p 2).testBit 0
        (s.live ctx = false → Answers (exec .seal s) fun t => SameMem s t ∧ t.work = s.work ∧ done t 1) ∧
        (∀ c, s.live ctx = true → s.ctx? ctx = some c →
          (c.regions.find? (fun r => r.base == base) = none → Answers (exec .seal s) fun t => t.work = s.work ∧ done t 2) ∧
          (∀ r, c.regions.find? (fun r => r.base == base) = some r →
            (r.kind ≠ 4 → Answers (exec .seal s) fun t => t.work = s.work ∧ done t 3) ∧
            (r.kind = 4 → cs ≤ 9 → (lat = true ∨ cs = 0) → Answers (exec .seal s) fun t => SameMem s t ∧
              t.agenda = s.agenda ++ [.event .sealComplete [p]] ∧
              ∃ y, t.ctx? ctx = some y ∧ { r with sealed := true } ∈ y.regions))) ∧
        (∀ c r, s.ctx? ctx = some c → c.regions.find? (fun r => r.base == base && r.kind == 4 && r.sealed) = some r →
          Answers (exec .sealComplete s) fun t => done t 0 ∧
            (let kd := if lat then 3 else 2
            let ty := if lat then 8 else 0
            let sz := if lat then cs else 0
            (∃ y, t.ctx? ctx = some y ∧ { r with kind := kd, ctype := ty, csize := sz } ∈ y.regions) ∧
            ∀ f, f ∈ s.lat.frames → f.ctx = ctx → f.kind = 4 → r.base ≤ f.va → f.va < r.base + r.len →
              { f with kind := kd, ctype := ty, csize := sz, gen := r.gen, sealed := true } ∈ t.lat.frames))) ∧
      (s.mbOp p = 4 →
        let a := s.audit p
        let first := s.mb p 1
        let n := s.mb p 2
        let out := a.recs.filter (fun r => decide (first ≤ nth r 0) && decide (nth r 0 < first + n))
        (n = 0 ∨ 256 < n ∨ out.length ≠ n → Answers (exec .auditread s) fun t => SameMem s t ∧ done t 4 ∧ t.audit p = a) ∧
        (n ≠ 0 → n ≤ 256 → out.length = n → Answers (exec .auditread s) fun t => SameMem s t ∧ done t 0 ∧ logged t p 1 ∧
          Mem.words t.dev.host (s.mb p 3) out.flatten.length = out.flatten.map (· % 2 ^ 64) ∧
          ∀ r, r ∈ (t.audit p).recs → nth r 0 = a.next ∨ (r ∈ a.recs ∧ first ≤ nth r 0)))) ∧
    (∀ c, s.ctx? p = some c → c.released = true → (c.stopped = true ∨ c.done = true) → s.moving p = false →
      s.hostJoining p = false →
      Answers (exec .scrubComplete s) fun t =>
      t.ctx? p = none ∧ (∀ x, x ∈ t.work.tasks → x.ctx ≠ p) ∧ (∀ x, x ∈ t.work.cores → x.ctx ≠ p) ∧
      (∀ x, x ∈ t.work.ops → x.ctx ≠ p) ∧ (∀ x, x ∈ t.lat.frames → x.ctx ≠ p) ∧ (∀ x, x ∈ t.lat.net → x.ctx ≠ p) ∧
      (∀ x, x ∈ t.lat.tlb → x.ctx ≠ p) ∧ (∀ x, x ∈ t.lat.roots → x.1 ≠ p) ∧
      (∀ h, h ∈ t.harts → h.isThread = true → ∀ k, k ∈ s.work.cores → k.ctx = p → h.coreSlot.1 ≠ k.id) ∧
      (c.key ≠ 0 → ∀ q, q ∈ c.pkgs → t.keyLoaded q c.key = false) ∧
      ∀ n k, n ∈ s.ev.drop 1 → k ∈ s.work.cores → k.ctx = p → (s.physAt n).st = .held k.id → (t.physAt n).st = .retired) ∧
    (∀ c, s.ctx? p = some c → s.hostJoining p = true → exec .scrubComplete s = .next s)

/-- KEY_LOAD, the SPDM requests, device and function reset, links and throttling. KEY_LOAD in a secured session loads a
slot from 1 to 63 that serves no context with two different keys, and otherwise does nothing. Each SPDM request is
answered, and the requests that build or end a session set and clear its state. DEVICE_RESET leaves the reset state
but for the audit logs, host memory and retired cores, and extends the measurement registers of the images it is
given; a function-level reset clears the registers its BARs reach and keeps the keys. A link in service comes up
with its peer under new keys, counts good flits, keeps one that fails expected until its retry (counting the errors
so corrected), takes none past 2^32 before it replaces its key, takes its spare for a lane that failed in 16 of the
last 1,024 flits and then retrains, and goes out of service when the spare is spent. Throttling moves the clock one
step within 0.6 to 2.4 GHz. -/
def Obligations.RootOfTrustLinksAndReset : Prop :=
  ∀ s : State,
    let p := s.evArg 0
    let l := s.evArg 1
    let k := s.pkg p
    (let v := s.evArg 2 % 2 ^ 512
     let good := k.spdm.session = true ∧ l ≠ 0 ∧ l ≤ 63 ∧ s.slotServes p l = false ∧ v / 2 ^ 256 ≠ v % 2 ^ 256
     (good → Answers (exec .keyLoad s) fun t => SameMem s t ∧ t.work = s.work ∧ t.keyLoaded p l = true ∧
       assocGet 0 l (t.pkg p).keys = v ∧ ∀ j, j ≠ l → assocGet 0 j (t.pkg p).keys = assocGet 0 j k.keys ∧
         t.checkOf p j = s.checkOf p j) ∧
     (¬ good → exec .keyLoad s = .next s)) ∧
    (let answers := fun (i : Instr) (code : Nat) (f : Spdm → Spdm) => Answers (exec i s) fun t =>
        SameMem s t ∧ t.work = s.work ∧ (i ≠ .getMeasurements → (t.pkg p).spdm.report = []) ∧
        (i = .getMeasurements → ∀ n m, (n, m) ∈ (t.pkg p).spdm.report ↔
          1 ≤ n ∧ n ≤ 16 ∧ (s.evArg 4 = 255 ∨ s.evArg 4 = n) ∧ m = k.meas.getD (n - 1) 0) ∧
        (t.pkg p).spdm = { f k.spdm with
          report := (t.pkg p).spdm.report
          answer := (Config.spdmAnswer code ((s.ev.drop 1).map (fun b => BitVec.ofNat 8 b)) k.measBytes).map (·.toNat) }
     answers .getVersion 0x84 (fun x => { x with version := true }) ∧
     answers .getCapabilities 0xE1 (fun x => { x with caps := true }) ∧
     answers .negotiateAlgorithms 0xE3 (fun x => { x with algs := true }) ∧
     answers .getDigests 0x81 id ∧ answers .getCertificate 0x82 id ∧ answers .challenge 0x83 id ∧
     answers .getMeasurements 0xE0 id ∧ answers .keyExchange 0xE4 (fun x => { x with handshake := true }) ∧
     answers .finish 0xE5 (fun x => { x with session := x.session || x.handshake, handshake := false }) ∧
     answers .endSession 0xEC (fun x => { x with session := false, handshake := false })) ∧
    (let clean := fun (t : State) => t.mem = [] ∧ t.h = {} ∧ t.harts = [] ∧ t.lat = {} ∧ t.work.ctxs = [] ∧ t.work.tasks = [] ∧
       t.work.cores = [] ∧ t.work.ops = [] ∧ t.dev.host = s.dev.host ∧ t.dev.banks = [] ∧ t.dev.chans = []
     (s.ev.length ≤ 1 → Answers (exec .deviceReset s) fun t => clean t ∧ t.dev.audits = s.dev.audits ∧ t.dev.pkgs = [] ∧
       ∀ q, q ∈ t.work.phys ↔ q ∈ s.work.phys ∧ q.st = .retired) ∧
     (∀ i d, s.ev = [p, i, d] → i < 6 → Answers (exec .deviceReset s) fun t => clean t ∧
       (t.audit p).next = (s.audit p).next + 1 ∧ ∀ j, j < 16 → (t.pkg p).meas.getD j 0 =
         if j = i then Config.sha384 (leBytes 48 0 ++ leBytes 48 (BitVec.ofNat 384 d).toNat) else 0)) ∧
    (Answers (exec .functionLevelReset s) fun t => SameMem s t ∧ t.work = s.work ∧ (∀ i, t.mb p i = 0) ∧ (t.pkg p).queues = [] ∧
      (t.pkg p).wins = [] ∧ (t.pkg p).mgmt.plim = 3000 ∧ (t.pkg p).keys = k.keys ∧ (t.pkg p).meas = k.meas ∧
      (t.pkg p).halts = k.halts ∧ (t.pkg p).aerUr = k.aerUr ∧ (t.pkg p).links = k.links) ∧
    (l < 24 →
      let a := s.link p l
      let made := fun (i : Instr) (b : Link) => Answers (exec i s) fun t => SameMem s t ∧ t.work = s.work ∧ t.link p l = b ∧
        ∀ j, j ≠ l → t.link p j = s.link p j
      (let q := s.evArg 2
       let j := s.evArg 3
       let b := s.link q j
       (j < 24 → a.out = false → b.out = false → (p ≠ q ∨ l ≠ j) → Answers (exec .linkBringup s) fun t => SameMem s t ∧ t.work = s.work ∧
         t.link p l = { a with up := true, peer := some (q, j), keyNo := a.keyNo + 1, flits := 0, failed := 0 } ∧
         t.link q j = { b with up := true, peer := some (p, l), keyNo := b.keyNo + 1, flits := 0, failed := 0 } ∧
         ∀ x y, (x ≠ p ∨ y ≠ l) → (x ≠ q ∨ y ≠ j) → t.link x y = s.link x y) ∧
       ((a.out = true ∨ b.out = true ∨ (p = q ∧ l = j)) → exec .linkBringup s = .next s)) ∧
      (let takes := a.up = true ∧ a.retraining = false ∧ a.flits < 2 ^ 32 ∧ s.evArg 4 < 64
       let bad := s.evArg 2 ≠ 0 ∨ s.evArg 3 = 1
       let h := (s.evArg 2 :: a.hist).take 1024
       let xfer := fun (n : Nat) => Answers (exec .flitReceive s) fun t => (t.pkg p).mgmt = { k.mgmt with xfer := n }
       (takes → s.evArg 4 ≠ 0 → k.mgmt.xfer < 2 ^ 32 → made .flitReceive { a with hist := h } ∧ xfer k.mgmt.xfer) ∧
       (takes → s.evArg 4 = 0 → bad → k.mgmt.xfer < 2 ^ 32 →
         made .flitReceive { a with hist := h, failed := a.failed + 1 } ∧ xfer k.mgmt.xfer) ∧
       (takes → s.evArg 4 = 0 → ¬ bad →
         made .flitReceive { a with hist := h, flits := a.flits + 1, failed := 0 } ∧ xfer ((k.mgmt.xfer + a.failed) % 2 ^ 32)) ∧
       (¬ takes → exec .flitReceive s = .next s)) ∧
      (a.up = true → 2 ^ 32 ≤ a.flits → made .linkKeyReplace { a with keyNo := a.keyNo + 1, flits := 0 }) ∧
      (∀ i, a.up = true → i < 9 → 16 ≤ (a.hist.filter (fun m => m.testBit i)).length →
        (∀ j, j < i → (a.hist.filter (fun m => m.testBit j)).length < 16) →
        (a.spareUsed = false → made .laneSpare { a with spareUsed := true, retraining := true, hist := [] } ∧
          Answers (exec .laneSpare s) fun t => (t.pkg p).mgmt.splane = k.mgmt.splane - 1 ∧
            (t.audit p).next = (s.audit p).next + 1) ∧
        (a.spareUsed = true → made .laneSpare { a with up := false, out := true, hist := [] } ∧
          Answers (exec .laneSpare s) fun t => (t.pkg p).mgmt.ldown.testBit l = true)) ∧
      (a.retraining = true → made .linkRetrainComplete { a with retraining := false })) ∧
    (Answers (exec .throttling s) fun t => SameMem s t ∧ t.work = s.work ∧ (t.pkg p).mgmt = { k.mgmt with
      thr := s.evArg 1 % 8, tmax := s.evArg 2 % 2 ^ 16
      clk := if s.evArg 1 % 8 = 0 then min 2400 (k.mgmt.clk + 100) else max 600 (k.mgmt.clk - 100) })

/-- A step runs the instruction whose words stand at the program counter, or takes the trap of the first check they
fail. With nothing due before it, a step of a rill core whose handler runs starts a message handler above it, if one
waits, and then runs the instruction that the words at its program counter decode to; a step of a core with a ready
thread runs the instruction at the program counter of the thread that the core selects, when that thread passes its
boundary. The same holds of an issue that the agenda names (the agenda is the model's own, log 1), and a group that
meets an error which does not recur runs with the effect of one execution, and the error is counted (log 88). Where
the words make no group, or the group fails a check of Table 9.11, the step takes the trap of R220 or of the first
order that fails, at the word that fails: reserved fields, prefixes and a w that is not honoured are illegal
instructions, a class the core kind lacks is the unavailable-class trap, then come privilege, the gap and the
entry's own checks. A request of firmware for an audit record that the agenda names appends it (R425). -/
def Obligations.StepRunsTheDecodedInstruction : Prop :=
  (∀ (s : State) (n : Nat), s.agenda = [] → s.h.id = .rill n → s.canIssue s.h = true →
    (s.h.replay = true → RunsDecoded (step s) { s with h := s.h.awake }) ∧
    (s.h.replay = false → RunsDecoded (step s) { s with h := s.h.awake.rillBoundary })) ∧
  (∀ (s : State) (n : Nat), s.agenda = [] → s.h.id = .rill n → s.canIssue s.h = true →
    let a : State := { s with h := if s.h.replay = true then s.h.awake else s.h.awake.rillBoundary }
    RefusesWords (step s) a ∧ RefusesGroup (step s) a) ∧
  (∀ (s : State) (c j slot : Nat) (k k' : Core), s.h.id = .thread c j → s.agenda = [] → s.core? c = some k →
    (k.wait (s.readyOn c)).select (s.readyOn c) = some (slot, k') →
    let r := (s.updCore c (fun _ => k')).switchTo (.thread c slot)
    let a : State := { r with h := r.h.awake }
    a.passesBoundary → RunsDecoded (step s) a ∧ RefusesWords (step s) a ∧ RefusesGroup (step s) a) ∧
  (∀ (s : State) (id : HartId) (rest : List Due), s.agenda = .issueOn id :: rest →
    step s = ({ s with agenda := rest } : State).issueAt id) ∧
  (∀ (s : State) (id : HartId) (rest : List Due), s.agenda = .errorOn id 0 :: rest →
    step s = (({ s with agenda := rest } : State).countTransient (id.pkg { s with agenda := rest })).issueAt id) ∧
  (∀ (s : State) (p ty ctx : Nat) (data : List Nat) (rest : List Due), s.agenda = .auditOn p ty ctx data :: rest →
    step s = .next (({ s with agenda := rest } : State).firmwareRecord p ty ctx data)) ∧
  (∀ (s : State) (c slot : Nat) (k k' : Core) (j : Nat), s.core? c = some k →
    (k.wait (s.readyOn c)).select (s.readyOn c) = some (slot, k') →
    let r := (s.updCore c (fun _ => k')).switchTo (.thread c slot)
    let a : State := { r with h := r.h.awake }
    a.passesBoundary → RunsDecoded (s.issueAt (.thread c j)) a)

/-- Words read by hand decode to the instructions the spec reads in them. The groups of the image that the spec reads by
hand (Table 18.1), and six more words written out from the encoding tables, decode to the instructions and issue
headers they stand for; a WAIT prefix that stands before a group start is no group, and neither is a 64-bit word
with no second word. Eight words that break one order of Table 9.11 each are refused for it: an unassigned major, an
unassigned fn and page 3 at order 1, a reserved field of word 0 and of word 1 at order 2 (also beside a prefix that
is not accepted), a PAGE word before a 64-bit instruction and an IMM word before ADD at order 3, a wait field on MXZ
at order 3. -/
def Obligations.SpecWordsDecode : Prop :=
  decodeWords [0x10000009, 0x00014604] = some (.movi 10 0x40000000, ⟨0, false⟩) ∧
  decodeWords [0x02816600] = some (.movi 11 5, ⟨0, false⟩) ∧
  decodeWords [0x00000499, 0x07358EB4] = some (.faddF32 (some ⟨0, 1, 1⟩) 12 13 14, ⟨3, false⟩) ∧
  decodeWords [0x16A00082, 0x0000900C] = some (.join 0 9 false 0 10 11 12, ⟨0, false⟩) ∧
  decodeWords [0x0181E800] = some (.beq 15 0 3, ⟨0, false⟩) ∧
  decodeWords [0x00C20180] = some (.addi 16 16 1, ⟨0, false⟩) ∧
  decodeWords [0x000001D1, 0x000A3300] = none ∧
  decodeWords [0x16A00302, 0x00009000] = some (.freeze 0 9 0 0 10 11, ⟨0, false⟩) ∧
  decodeWords [0x16A90402, 0x00000040] = some (.frd 0 2 0 18 10 11, ⟨0, false⟩) ∧
  decodeWords [0x00000131, 0x00826084] = some (.rdc 19 1, ⟨0, false⟩) ∧
  decodeWords [0x02B24880] = some (.bne 18 12 5, ⟨0, false⟩) ∧
  decodeWords [0x00001009, 0x00AA3886, 0x00000000] = some (.addl 20 10 0x100000000, ⟨0, false⟩) ∧
  decodeWords [0x00AA3886] = none ∧
  decodeWords [0x10000E00] = some (.exit, ⟨0, false⟩) ∧
  decodeWords [0x33800E00] = some (.trap 7, ⟨0, false⟩) ∧
  decodeWords [0x1188B990] = some (.vsel 5 2 3 1, ⟨1, false⟩) ∧
  decodeWords [0x000000B1, 0x00000C1D, 0x0014A184] = some (.vredAddF32 (some ⟨0, 3, 0⟩) 5 5 0, ⟨0, false⟩) ∧
  decodeWords [0x00000131, 0x0290CC04] = some (.rcombAddF32 6 4 5, ⟨0, false⟩) ∧
  decodeWords [0x00000131, 0x00340984] = some (.reply 13 0, ⟨0, false⟩) ∧
  decodeWords [0x00000131, 0x00000A04] = some (.mret, ⟨0, false⟩) ∧
  decode [] 0x00000000 0 = .error .unassigned ∧ decode [] 0xC0000100 0 = .error .unassigned ∧
  decode [⟨.page, 3⟩] 0x00040600 0 = .error .unassigned ∧
  decode [⟨.wait, 0⟩] 0x00040600 0 = .error (.reserved false) ∧ decode [] 0x00002B82 0xFFFFFFFF = .error (.reserved true) ∧
  decode [⟨.page, 0⟩] 0x16A00302 0x00009000 = .error (.pfx 0) ∧ decode [⟨.imm, 0⟩] 0x00000080 0 = .error (.pfx 0) ∧
  decode [] 0x40001402 0 = .error .wField

/-- What reset leaves. After reset every rill core runs a handler at instruction address 0 and level 0 with a header of
zero in START mode, and every control register that Tables 10.4 and 14.4 give a reset value reads it there; every
channel is in normal mode (Table 4.7); no context, task, gang, core state or operation is there, no message is under
way, and no window, queue or halt group is set. Scalar registers and memory read zero by the model's choice (logs 2,
3 and 4). -/
def Obligations.ResetState : Prop :=
  (∀ n : Nat, n < 2 ^ 28 → ∃ h, State.reset.hart? (.rill n) = some h ∧ h.pc = 0 ∧ h.stat = .ready ∧ h.r.mode = .start ∧
    h.r.level = 0 ∧ (∀ l : Fin 4, h.r.levels[l].active = decide (l = 0)) ∧ (∀ l : Fin 4, h.r.levels[l].hdr = 0) ∧
    h.r.inbox = [] ∧ (∀ r : Fin 32, h.x[r] = 0) ∧
    (∀ c, c ∈ [0, 1, 2, 8, 9, 10, 11, 12, 24, 25, 26, 27, 28, 29, 0x101, 0x102, 0x103, 0x105] → h.readCr c = some 0) ∧
    h.readCr 0x100 = some 1 ∧ h.readCr 0x104 = some (BitVec.ofNat 64 n)) ∧
  (∀ c, (State.reset.chan c).mode = false ∧ (State.reset.chan c).held = false ∧ (State.reset.chan c).done = false) ∧
  State.reset.work.ctxs = [] ∧ State.reset.work.tasks = [] ∧ State.reset.work.gangs = [] ∧ State.reset.work.cores = [] ∧
  State.reset.work.ops = [] ∧ State.reset.lat.net = [] ∧ State.reset.lat.units = [] ∧
  (∀ p, (State.reset.pkg p).queues = [] ∧ (State.reset.pkg p).wins = []) ∧
  (∀ a, Mem.read State.reset.mem a = 0)

/-- The memories of the reset state are in canonical form. At reset every memory of the machine is a list of address and
byte pairs in canonical form (the form is the model's own). -/
def Obligations.ResetIsCanonical : Prop :=
  Canonical State.reset

/-- Decoding undoes encoding, for every well-formed instruction and header, and gives each opcode its class. For every
well-formed instruction with every operand its encoding admits and every issue header, the words that encode it
decode to that instruction and that header, so no bit of an encoding is dropped. Whatever the words of a group, what
they decode to has the class that Tables 9.6 to 9.10 give their opcode, and an opcode that the tables leave
unassigned is refused at order 1. -/
def Obligations.EncodingsRoundTrip : Prop :=
  (∀ i : Instr, Sys2Proof.Laws.RoundTrip.Statement i) ∧
  ∀ (p : List Pfx) (w0 w1 : Nat),
    (∀ i, decode p w0 w1 = .ok i → opcodeClass p w0 = some i.cls) ∧
    (opcodeClass p w0 = none → decode p w0 w1 = .error .unassigned)

/-- Every step keeps every memory in canonical form. From any state whose memories (DRAM, host memory, the views of
every thread, the memories of every rill core, and the views that exited gang members leave) are in canonical form,
a step that answers a next state leaves them in canonical form: addresses strictly rising and no listed byte equal
to what an unlisted address reads as. The form is the model's own. -/
def Obligations.MemoryStaysCanonical : Prop :=
  ∀ s t : State, Canonical s → step s = .next t → Canonical t
end

