-- ==== Sys2Proof/Laws/Mem.lean ====
section
/-! SUPPORT. Byte memories: what a read gives after each operation, and that every operation keeps the canonical form. -/

namespace Sys2Proof.Machine

/-! ## Canonical form -/

theorem Mem.wfFrom_le {lo lo' : Nat} (h : lo' ≤ lo) {m : List Host.Cell} (w : Mem.wfFrom lo m = true) :
    Mem.wfFrom lo' m = true := by
  cases m with
  | nil => rfl
  | cons c m =>
    obtain ⟨k, b⟩ := c
    simp only [Mem.wfFrom, Bool.and_eq_true, decide_eq_true_eq] at w ⊢
    exact ⟨⟨by omega, w.1.2⟩, w.2⟩

theorem Mem.write_wfFrom {lo a : Nat} {m : List Host.Cell} (v : Byte) (w : Mem.wfFrom lo m = true) (h : lo ≤ a) :
    Mem.wfFrom lo (Mem.write m a v) = true := by
  induction m generalizing lo with
  | nil =>
    unfold Mem.write
    split
    · rfl
    · next hv => simpa [Mem.wfFrom, h] using hv
  | cons c m ih =>
    obtain ⟨k, b⟩ := c
    have w' := w
    simp only [Mem.wfFrom, Bool.and_eq_true, decide_eq_true_eq, bne_iff_ne, ne_eq] at w'
    obtain ⟨⟨hk, hb⟩, hm⟩ := w'
    unfold Mem.write
    split
    · by_cases hv : v = 0
      · simpa [hv] using w
      · simp only [hv, if_false, Mem.wfFrom, Bool.and_eq_true, decide_eq_true_eq, bne_iff_ne, ne_eq, not_false_eq_true,
          and_true]
        exact ⟨h, ⟨by omega, hb⟩, hm⟩
    · split
      · by_cases hv : v = 0
        · simp only [hv, if_true]
          exact Mem.wfFrom_le (by omega) hm
        · simp only [hv, if_false, Mem.wfFrom, Bool.and_eq_true, decide_eq_true_eq, bne_iff_ne, ne_eq, not_false_eq_true,
            and_true]
          exact ⟨hk, hm⟩
      · simp only [Mem.wfFrom, Bool.and_eq_true, decide_eq_true_eq, bne_iff_ne, ne_eq]
        exact ⟨⟨hk, hb⟩, ih hm (by omega)⟩

/-- Writing a byte keeps the canonical form. -/
theorem Mem.write_wf {m : List Host.Cell} (w : Mem.wf m = true) (a : Nat) (v : Byte) : Mem.wf (Mem.write m a v) = true :=
  Mem.write_wfFrom v w (Nat.zero_le a)

/-- Writing bytes keeps the canonical form. -/
theorem Mem.writeN_wf {m : List Host.Cell} (w : Mem.wf m = true) (a n v : Nat) : Mem.wf (Mem.writeN m a n v) = true := by
  induction n generalizing m a v with
  | zero => exact w
  | succ n ih => exact ih (Mem.write_wf w _ _) _ _

/-- Writing words keeps the canonical form. -/
theorem Mem.writeWords_wf {m : List Host.Cell} (w : Mem.wf m = true) (a : Nat) (l : List Nat) :
    Mem.wf (Mem.writeWords m a l) = true := by
  induction l generalizing m a with
  | nil => exact w
  | cons v l ih => exact ih (Mem.writeN_wf w _ _ _) _

theorem Mem.filter_wfFrom (p : Host.Cell → Bool) {lo : Nat} {m : List Host.Cell} (w : Mem.wfFrom lo m = true) :
    Mem.wfFrom lo (m.filter p) = true := by
  induction m generalizing lo with
  | nil => rfl
  | cons c m ih =>
    obtain ⟨k, b⟩ := c
    simp only [Mem.wfFrom, Bool.and_eq_true, decide_eq_true_eq] at w
    rw [List.filter_cons]
    split
    · simp only [Mem.wfFrom, Bool.and_eq_true, decide_eq_true_eq]
      exact ⟨w.1, ih w.2⟩
    · exact Mem.wfFrom_le (by omega) (ih w.2)

/-- Clearing a range keeps the canonical form. -/
theorem Mem.clear_wf {m : List Host.Cell} (w : Mem.wf m = true) (lo hi : Nat) : Mem.wf (Mem.clear m lo hi) = true :=
  Mem.filter_wfFrom _ w

/-! ## Reads -/

/-- A canonical memory lists nothing below its bound. -/
theorem Mem.read_below {lo a : Nat} {m : List Host.Cell} (w : Mem.wfFrom lo m = true) (h : a < lo) : Mem.read m a = 0 := by
  induction m generalizing lo with
  | nil => rfl
  | cons c m ih =>
    obtain ⟨k, b⟩ := c
    simp only [Mem.wfFrom, Bool.and_eq_true, decide_eq_true_eq] at w
    simp only [Mem.read, if_neg (show ¬ k = a by omega)]
    exact ih w.2 (by omega)

theorem Mem.read_write_from {lo : Nat} {m : List Host.Cell} (w : Mem.wfFrom lo m = true) (a : Nat) (v : Byte) (b : Nat) :
    Mem.read (Mem.write m a v) b = if a = b then v else Mem.read m b := by
  induction m generalizing lo with
  | nil =>
    unfold Mem.write
    split
    · next hv => subst hv; simp [Mem.read]
    · simp [Mem.read]
  | cons c m ih =>
    obtain ⟨k, x⟩ := c
    simp only [Mem.wfFrom, Bool.and_eq_true, decide_eq_true_eq] at w
    have hm := w.2
    have lowm : ∀ c, c ≤ k → Mem.read m c = 0 := fun c hc => Mem.read_below hm (by omega)
    unfold Mem.write
    split
    · by_cases hv : v = 0
      · simp only [hv, if_true]
        split
        · next he => subst he; simp only [Mem.read, if_neg (show ¬ k = a by omega)]; exact lowm a (by omega)
        · rfl
      · simp only [hv, if_false]
        rw [Mem.read]
    · split
      · next he =>
        subst he
        by_cases hv : v = 0
        · simp only [hv, if_true]
          split
          · next hb => subst hb; exact lowm _ (Nat.le_refl _)
          · next hb => rw [Mem.read, if_neg hb]
        · simp only [hv, if_false, Mem.read]
          split <;> rfl
      · simp only [Mem.read]
        rw [ih hm]
        by_cases hkb : k = b
        · subst hkb
          rw [if_pos rfl, if_pos rfl, if_neg (by assumption)]
        · rw [if_neg hkb, if_neg hkb]

/-- A read after a write of one byte. -/
theorem Mem.read_write {m : List Host.Cell} (w : Mem.wf m = true) (a : Nat) (v : Byte) (b : Nat) :
    Mem.read (Mem.write m a v) b = if a = b then v else Mem.read m b :=
  Mem.read_write_from w a v b

/-- Bytes outside a write read as before. -/
theorem Mem.read_writeN_out {m : List Host.Cell} (w : Mem.wf m = true) (a n v : Nat) {b : Nat} (h : b < a ∨ a + n ≤ b) :
    Mem.read (Mem.writeN m a n v) b = Mem.read m b := by
  induction n generalizing m a v with
  | zero => rfl
  | succ n ih =>
    rw [Mem.writeN, ih (Mem.write_wf w _ _) _ _ (by omega), Mem.read_write w, if_neg (by omega)]

/-- Bytes inside a write read as the written number's bytes. -/
theorem Mem.read_writeN_in {m : List Host.Cell} (w : Mem.wf m = true) (a n v i : Nat) (h : i < n) :
    Mem.read (Mem.writeN m a n v) (a + i) = BitVec.ofNat 8 (v / 256 ^ i) := by
  induction n generalizing m a v i with
  | zero => omega
  | succ n ih =>
    rw [Mem.writeN]
    cases i with
    | zero => rw [Nat.add_zero, Mem.read_writeN_out (Mem.write_wf w _ _) _ _ _ (by omega), Mem.read_write w]; simp
    | succ i =>
      have e : a + (i + 1) = a + 1 + i := by omega
      rw [e, ih (Mem.write_wf w _ _) _ _ _ (by omega), Nat.div_div_eq_div_mul, Nat.pow_succ, Nat.mul_comm]

theorem Mem.readN_congr {m m' : List Host.Cell} (a n : Nat) (h : ∀ i, i < n → Mem.read m (a + i) = Mem.read m' (a + i)) :
    Mem.readN m a n = Mem.readN m' a n := by
  induction n generalizing a with
  | zero => rfl
  | succ n ih =>
    have h0 := h 0 (by omega)
    rw [Nat.add_zero] at h0
    rw [Mem.readN, Mem.readN, h0, ih]
    intro i hi
    have := h (i + 1) (by omega)
    rwa [show a + (i + 1) = a + 1 + i by omega] at this

/-- A read of what has just been written. -/
theorem Mem.readN_writeN {m : List Host.Cell} (w : Mem.wf m = true) (a n v : Nat) :
    Mem.readN (Mem.writeN m a n v) a n = v % 256 ^ n := by
  induction n generalizing m a v with
  | zero => simp [Mem.readN, Nat.mod_one]
  | succ n ih =>
    have h0 : Mem.read (Mem.writeN m a (n + 1) v) a = BitVec.ofNat 8 v := by
      simpa using Mem.read_writeN_in w a (n + 1) v 0 (by omega)
    rw [Mem.readN, h0, Mem.writeN, ih (Mem.write_wf w _ _), BitVec.toNat_ofNat, Nat.pow_succ' (m := 256) (n := n), Nat.mod_mul]

/-- A read apart from a write gives what it gave before. -/
theorem Mem.readN_writeN_out {m : List Host.Cell} (w : Mem.wf m = true) (a n v b k : Nat) (h : b + k ≤ a ∨ a + n ≤ b) :
    Mem.readN (Mem.writeN m a n v) b k = Mem.readN m b k :=
  Mem.readN_congr _ _ (fun i hi => Mem.read_writeN_out w _ _ _ (by omega))

theorem Mem.readN_lt (m : List Host.Cell) (a n : Nat) : Mem.readN m a n < 256 ^ n := by
  induction n generalizing a with
  | zero => simp [Mem.readN]
  | succ n ih =>
    have h1 := ih (a + 1)
    have h2 := (Mem.read m a).isLt
    rw [Mem.readN, Nat.pow_succ]
    omega

end Sys2Proof.Machine
end

