-- ==== Sys2Proof/Laws/State.lean ====
section
/-! SUPPORT. What each update of the state leaves in each field, and what the registers read after each write. -/

namespace Sys2Proof.Machine

/-! ## Fields that an update leaves -/

@[simp] theorem State.setX_harts (s : State) (r : Fin 32) (v : Word) : (s.setX r v).harts = s.harts := rfl
@[simp] theorem State.setX_grp (s : State) (r : Fin 32) (v : Word) : (s.setX r v).grp = s.grp := rfl
@[simp] theorem State.setX_agenda (s : State) (r : Fin 32) (v : Word) : (s.setX r v).agenda = s.agenda := rfl
@[simp] theorem State.setX_ev (s : State) (r : Fin 32) (v : Word) : (s.setX r v).ev = s.ev := rfl
@[simp] theorem State.setX_free (s : State) (r : Fin 32) (v : Word) : (s.setX r v).free = s.free := rfl
@[simp] theorem State.setX_mem (s : State) (r : Fin 32) (v : Word) : (s.setX r v).mem = s.mem := rfl
@[simp] theorem State.setX_lat (s : State) (r : Fin 32) (v : Word) : (s.setX r v).lat = s.lat := rfl
@[simp] theorem State.setX_work (s : State) (r : Fin 32) (v : Word) : (s.setX r v).work = s.work := rfl
@[simp] theorem State.setX_dev (s : State) (r : Fin 32) (v : Word) : (s.setX r v).dev = s.dev := rfl

@[simp] theorem State.setV_harts (s : State) (r : Fin 32) (v : VWord) : (s.setV r v).harts = s.harts := rfl
@[simp] theorem State.setV_grp (s : State) (r : Fin 32) (v : VWord) : (s.setV r v).grp = s.grp := rfl
@[simp] theorem State.setV_agenda (s : State) (r : Fin 32) (v : VWord) : (s.setV r v).agenda = s.agenda := rfl
@[simp] theorem State.setV_ev (s : State) (r : Fin 32) (v : VWord) : (s.setV r v).ev = s.ev := rfl
@[simp] theorem State.setV_free (s : State) (r : Fin 32) (v : VWord) : (s.setV r v).free = s.free := rfl
@[simp] theorem State.setV_mem (s : State) (r : Fin 32) (v : VWord) : (s.setV r v).mem = s.mem := rfl
@[simp] theorem State.setV_lat (s : State) (r : Fin 32) (v : VWord) : (s.setV r v).lat = s.lat := rfl
@[simp] theorem State.setV_work (s : State) (r : Fin 32) (v : VWord) : (s.setV r v).work = s.work := rfl
@[simp] theorem State.setV_dev (s : State) (r : Fin 32) (v : VWord) : (s.setV r v).dev = s.dev := rfl

@[simp] theorem State.setK_harts (s : State) (r : Fin 16) (v : Word) : (s.setK r v).harts = s.harts := rfl
@[simp] theorem State.setK_grp (s : State) (r : Fin 16) (v : Word) : (s.setK r v).grp = s.grp := rfl
@[simp] theorem State.setK_agenda (s : State) (r : Fin 16) (v : Word) : (s.setK r v).agenda = s.agenda := rfl
@[simp] theorem State.setK_ev (s : State) (r : Fin 16) (v : Word) : (s.setK r v).ev = s.ev := rfl
@[simp] theorem State.setK_free (s : State) (r : Fin 16) (v : Word) : (s.setK r v).free = s.free := rfl
@[simp] theorem State.setK_mem (s : State) (r : Fin 16) (v : Word) : (s.setK r v).mem = s.mem := rfl
@[simp] theorem State.setK_lat (s : State) (r : Fin 16) (v : Word) : (s.setK r v).lat = s.lat := rfl
@[simp] theorem State.setK_work (s : State) (r : Fin 16) (v : Word) : (s.setK r v).work = s.work := rfl
@[simp] theorem State.setK_dev (s : State) (r : Fin 16) (v : Word) : (s.setK r v).dev = s.dev := rfl

@[simp] theorem State.setCtl_harts (s : State) (c : Ctl) : (s.setCtl c).harts = s.harts := rfl
@[simp] theorem State.setCtl_grp (s : State) (c : Ctl) : (s.setCtl c).grp = s.grp := rfl
@[simp] theorem State.setCtl_agenda (s : State) (c : Ctl) : (s.setCtl c).agenda = s.agenda := rfl
@[simp] theorem State.setCtl_ev (s : State) (c : Ctl) : (s.setCtl c).ev = s.ev := rfl
@[simp] theorem State.setCtl_free (s : State) (c : Ctl) : (s.setCtl c).free = s.free := rfl
@[simp] theorem State.setCtl_mem (s : State) (c : Ctl) : (s.setCtl c).mem = s.mem := rfl
@[simp] theorem State.setCtl_lat (s : State) (c : Ctl) : (s.setCtl c).lat = s.lat := rfl
@[simp] theorem State.setCtl_work (s : State) (c : Ctl) : (s.setCtl c).work = s.work := rfl
@[simp] theorem State.setCtl_dev (s : State) (c : Ctl) : (s.setCtl c).dev = s.dev := rfl

@[simp] theorem State.setPc_harts (s : State) (pc : Word) : (s.setPc pc).harts = s.harts := rfl
@[simp] theorem State.setPc_grp (s : State) (pc : Word) : (s.setPc pc).grp = s.grp := rfl
@[simp] theorem State.setPc_agenda (s : State) (pc : Word) : (s.setPc pc).agenda = s.agenda := rfl
@[simp] theorem State.setPc_ev (s : State) (pc : Word) : (s.setPc pc).ev = s.ev := rfl
@[simp] theorem State.setPc_free (s : State) (pc : Word) : (s.setPc pc).free = s.free := rfl
@[simp] theorem State.setPc_mem (s : State) (pc : Word) : (s.setPc pc).mem = s.mem := rfl
@[simp] theorem State.setPc_lat (s : State) (pc : Word) : (s.setPc pc).lat = s.lat := rfl
@[simp] theorem State.setPc_work (s : State) (pc : Word) : (s.setPc pc).work = s.work := rfl
@[simp] theorem State.setPc_dev (s : State) (pc : Word) : (s.setPc pc).dev = s.dev := rfl

@[simp] theorem State.mapHarts_grp (s : State) (f : Hart → Hart) : (s.mapHarts f).grp = s.grp := rfl
@[simp] theorem State.mapHarts_agenda (s : State) (f : Hart → Hart) : (s.mapHarts f).agenda = s.agenda := rfl
@[simp] theorem State.mapHarts_ev (s : State) (f : Hart → Hart) : (s.mapHarts f).ev = s.ev := rfl
@[simp] theorem State.mapHarts_free (s : State) (f : Hart → Hart) : (s.mapHarts f).free = s.free := rfl
@[simp] theorem State.mapHarts_mem (s : State) (f : Hart → Hart) : (s.mapHarts f).mem = s.mem := rfl
@[simp] theorem State.mapHarts_lat (s : State) (f : Hart → Hart) : (s.mapHarts f).lat = s.lat := rfl
@[simp] theorem State.mapHarts_work (s : State) (f : Hart → Hart) : (s.mapHarts f).work = s.work := rfl
@[simp] theorem State.mapHarts_dev (s : State) (f : Hart → Hart) : (s.mapHarts f).dev = s.dev := rfl

@[simp] theorem State.updCore_h (s : State) (id : Nat) (f : Core → Core) : (s.updCore id f).h = s.h := rfl
@[simp] theorem State.updCore_harts (s : State) (id : Nat) (f : Core → Core) : (s.updCore id f).harts = s.harts := rfl
@[simp] theorem State.updCore_grp (s : State) (id : Nat) (f : Core → Core) : (s.updCore id f).grp = s.grp := rfl
@[simp] theorem State.updCore_agenda (s : State) (id : Nat) (f : Core → Core) : (s.updCore id f).agenda = s.agenda := rfl
@[simp] theorem State.updCore_ev (s : State) (id : Nat) (f : Core → Core) : (s.updCore id f).ev = s.ev := rfl
@[simp] theorem State.updCore_free (s : State) (id : Nat) (f : Core → Core) : (s.updCore id f).free = s.free := rfl
@[simp] theorem State.updCore_mem (s : State) (id : Nat) (f : Core → Core) : (s.updCore id f).mem = s.mem := rfl
@[simp] theorem State.updCore_lat (s : State) (id : Nat) (f : Core → Core) : (s.updCore id f).lat = s.lat := rfl
@[simp] theorem State.updCore_dev (s : State) (id : Nat) (f : Core → Core) : (s.updCore id f).dev = s.dev := rfl

@[simp] theorem State.setPkg_h (s : State) (p : Nat) (v : Pkg) : (s.setPkg p v).h = s.h := rfl
@[simp] theorem State.setPkg_harts (s : State) (p : Nat) (v : Pkg) : (s.setPkg p v).harts = s.harts := rfl
@[simp] theorem State.setPkg_grp (s : State) (p : Nat) (v : Pkg) : (s.setPkg p v).grp = s.grp := rfl
@[simp] theorem State.setPkg_agenda (s : State) (p : Nat) (v : Pkg) : (s.setPkg p v).agenda = s.agenda := rfl
@[simp] theorem State.setPkg_ev (s : State) (p : Nat) (v : Pkg) : (s.setPkg p v).ev = s.ev := rfl
@[simp] theorem State.setPkg_free (s : State) (p : Nat) (v : Pkg) : (s.setPkg p v).free = s.free := rfl
@[simp] theorem State.setPkg_mem (s : State) (p : Nat) (v : Pkg) : (s.setPkg p v).mem = s.mem := rfl
@[simp] theorem State.setPkg_lat (s : State) (p : Nat) (v : Pkg) : (s.setPkg p v).lat = s.lat := rfl
@[simp] theorem State.setPkg_work (s : State) (p : Nat) (v : Pkg) : (s.setPkg p v).work = s.work := rfl

@[simp] theorem State.updCtx_h (s : State) (c : Nat) (f : Ctx → Ctx) : (s.updCtx c f).h = s.h := rfl
@[simp] theorem State.updCtx_harts (s : State) (c : Nat) (f : Ctx → Ctx) : (s.updCtx c f).harts = s.harts := rfl
@[simp] theorem State.updCtx_grp (s : State) (c : Nat) (f : Ctx → Ctx) : (s.updCtx c f).grp = s.grp := rfl
@[simp] theorem State.updCtx_agenda (s : State) (c : Nat) (f : Ctx → Ctx) : (s.updCtx c f).agenda = s.agenda := rfl
@[simp] theorem State.updCtx_ev (s : State) (c : Nat) (f : Ctx → Ctx) : (s.updCtx c f).ev = s.ev := rfl
@[simp] theorem State.updCtx_free (s : State) (c : Nat) (f : Ctx → Ctx) : (s.updCtx c f).free = s.free := rfl
@[simp] theorem State.updCtx_mem (s : State) (c : Nat) (f : Ctx → Ctx) : (s.updCtx c f).mem = s.mem := rfl
@[simp] theorem State.updCtx_lat (s : State) (c : Nat) (f : Ctx → Ctx) : (s.updCtx c f).lat = s.lat := rfl
@[simp] theorem State.updCtx_dev (s : State) (c : Nat) (f : Ctx → Ctx) : (s.updCtx c f).dev = s.dev := rfl

@[simp] theorem State.due_h (s : State) (i : Instr) (args : List Nat) : (s.due i args).h = s.h := rfl
@[simp] theorem State.due_harts (s : State) (i : Instr) (args : List Nat) : (s.due i args).harts = s.harts := rfl
@[simp] theorem State.due_grp (s : State) (i : Instr) (args : List Nat) : (s.due i args).grp = s.grp := rfl
@[simp] theorem State.due_ev (s : State) (i : Instr) (args : List Nat) : (s.due i args).ev = s.ev := rfl
@[simp] theorem State.due_free (s : State) (i : Instr) (args : List Nat) : (s.due i args).free = s.free := rfl
@[simp] theorem State.due_mem (s : State) (i : Instr) (args : List Nat) : (s.due i args).mem = s.mem := rfl
@[simp] theorem State.due_lat (s : State) (i : Instr) (args : List Nat) : (s.due i args).lat = s.lat := rfl
@[simp] theorem State.due_work (s : State) (i : Instr) (args : List Nat) : (s.due i args).work = s.work := rfl
@[simp] theorem State.due_dev (s : State) (i : Instr) (args : List Nat) : (s.due i args).dev = s.dev := rfl

@[simp] theorem State.retire_harts (s : State) : (s.retire).harts = s.harts := rfl
@[simp] theorem State.retire_grp (s : State) : (s.retire).grp = s.grp := rfl
@[simp] theorem State.retire_agenda (s : State) : (s.retire).agenda = s.agenda := rfl
@[simp] theorem State.retire_ev (s : State) : (s.retire).ev = s.ev := rfl
@[simp] theorem State.retire_free (s : State) : (s.retire).free = s.free := rfl
@[simp] theorem State.retire_mem (s : State) : (s.retire).mem = s.mem := rfl
@[simp] theorem State.retire_lat (s : State) : (s.retire).lat = s.lat := rfl
@[simp] theorem State.retire_work (s : State) : (s.retire).work = s.work := rfl
@[simp] theorem State.retire_dev (s : State) : (s.retire).dev = s.dev := rfl

@[simp] theorem State.jumpTo_harts (s : State) (t : Word) : (s.jumpTo t).harts = s.harts := rfl
@[simp] theorem State.jumpTo_grp (s : State) (t : Word) : (s.jumpTo t).grp = s.grp := rfl
@[simp] theorem State.jumpTo_agenda (s : State) (t : Word) : (s.jumpTo t).agenda = s.agenda := rfl
@[simp] theorem State.jumpTo_ev (s : State) (t : Word) : (s.jumpTo t).ev = s.ev := rfl
@[simp] theorem State.jumpTo_free (s : State) (t : Word) : (s.jumpTo t).free = s.free := rfl
@[simp] theorem State.jumpTo_mem (s : State) (t : Word) : (s.jumpTo t).mem = s.mem := rfl
@[simp] theorem State.jumpTo_lat (s : State) (t : Word) : (s.jumpTo t).lat = s.lat := rfl
@[simp] theorem State.jumpTo_work (s : State) (t : Word) : (s.jumpTo t).work = s.work := rfl
@[simp] theorem State.jumpTo_dev (s : State) (t : Word) : (s.jumpTo t).dev = s.dev := rfl

@[simp] theorem State.block_harts (s : State) (w : WaitOn) : (s.block w).harts = s.harts := rfl
@[simp] theorem State.block_grp (s : State) (w : WaitOn) : (s.block w).grp = s.grp := rfl
@[simp] theorem State.block_agenda (s : State) (w : WaitOn) : (s.block w).agenda = s.agenda := rfl
@[simp] theorem State.block_ev (s : State) (w : WaitOn) : (s.block w).ev = s.ev := rfl
@[simp] theorem State.block_free (s : State) (w : WaitOn) : (s.block w).free = s.free := rfl
@[simp] theorem State.block_mem (s : State) (w : WaitOn) : (s.block w).mem = s.mem := rfl
@[simp] theorem State.block_lat (s : State) (w : WaitOn) : (s.block w).lat = s.lat := rfl
@[simp] theorem State.block_dev (s : State) (w : WaitOn) : (s.block w).dev = s.dev := rfl

@[simp] theorem State.suspendOps_h (s : State) (p g : Nat) : (s.suspendOps p g).h = s.h := rfl
@[simp] theorem State.suspendOps_harts (s : State) (p g : Nat) : (s.suspendOps p g).harts = s.harts := rfl
@[simp] theorem State.suspendOps_grp (s : State) (p g : Nat) : (s.suspendOps p g).grp = s.grp := rfl
@[simp] theorem State.suspendOps_agenda (s : State) (p g : Nat) : (s.suspendOps p g).agenda = s.agenda := rfl
@[simp] theorem State.suspendOps_ev (s : State) (p g : Nat) : (s.suspendOps p g).ev = s.ev := rfl
@[simp] theorem State.suspendOps_free (s : State) (p g : Nat) : (s.suspendOps p g).free = s.free := rfl
@[simp] theorem State.suspendOps_mem (s : State) (p g : Nat) : (s.suspendOps p g).mem = s.mem := rfl
@[simp] theorem State.suspendOps_lat (s : State) (p g : Nat) : (s.suspendOps p g).lat = s.lat := rfl
@[simp] theorem State.suspendOps_dev (s : State) (p g : Nat) : (s.suspendOps p g).dev = s.dev := rfl

@[simp] theorem State.setOp_h (s : State) (o : Op) : (s.setOp o).h = s.h := rfl
@[simp] theorem State.setOp_harts (s : State) (o : Op) : (s.setOp o).harts = s.harts := rfl
@[simp] theorem State.setOp_grp (s : State) (o : Op) : (s.setOp o).grp = s.grp := rfl
@[simp] theorem State.setOp_agenda (s : State) (o : Op) : (s.setOp o).agenda = s.agenda := rfl
@[simp] theorem State.setOp_ev (s : State) (o : Op) : (s.setOp o).ev = s.ev := rfl
@[simp] theorem State.setOp_free (s : State) (o : Op) : (s.setOp o).free = s.free := rfl
@[simp] theorem State.setOp_mem (s : State) (o : Op) : (s.setOp o).mem = s.mem := rfl
@[simp] theorem State.setOp_lat (s : State) (o : Op) : (s.setOp o).lat = s.lat := rfl
@[simp] theorem State.setOp_dev (s : State) (o : Op) : (s.setOp o).dev = s.dev := rfl

@[simp] theorem State.setRill_harts (s : State) (r : Rill) : (s.setRill r).harts = s.harts := rfl
@[simp] theorem State.setRill_grp (s : State) (r : Rill) : (s.setRill r).grp = s.grp := rfl
@[simp] theorem State.setRill_agenda (s : State) (r : Rill) : (s.setRill r).agenda = s.agenda := rfl
@[simp] theorem State.setRill_ev (s : State) (r : Rill) : (s.setRill r).ev = s.ev := rfl
@[simp] theorem State.setRill_free (s : State) (r : Rill) : (s.setRill r).free = s.free := rfl
@[simp] theorem State.setRill_mem (s : State) (r : Rill) : (s.setRill r).mem = s.mem := rfl
@[simp] theorem State.setRill_lat (s : State) (r : Rill) : (s.setRill r).lat = s.lat := rfl
@[simp] theorem State.setRill_work (s : State) (r : Rill) : (s.setRill r).work = s.work := rfl
@[simp] theorem State.setRill_dev (s : State) (r : Rill) : (s.setRill r).dev = s.dev := rfl

@[simp] theorem State.send_h (s : State) (m : Msg) : (s.send m).h = s.h := rfl
@[simp] theorem State.send_harts (s : State) (m : Msg) : (s.send m).harts = s.harts := rfl
@[simp] theorem State.send_grp (s : State) (m : Msg) : (s.send m).grp = s.grp := rfl
@[simp] theorem State.send_agenda (s : State) (m : Msg) : (s.send m).agenda = s.agenda := rfl
@[simp] theorem State.send_ev (s : State) (m : Msg) : (s.send m).ev = s.ev := rfl
@[simp] theorem State.send_free (s : State) (m : Msg) : (s.send m).free = s.free := rfl
@[simp] theorem State.send_mem (s : State) (m : Msg) : (s.send m).mem = s.mem := rfl
@[simp] theorem State.send_work (s : State) (m : Msg) : (s.send m).work = s.work := rfl
@[simp] theorem State.send_dev (s : State) (m : Msg) : (s.send m).dev = s.dev := rfl

@[simp] theorem State.setScr_harts (s : State) (c : Scratch) : (s.setScr c).harts = s.harts := rfl
@[simp] theorem State.setScr_grp (s : State) (c : Scratch) : (s.setScr c).grp = s.grp := rfl
@[simp] theorem State.setScr_agenda (s : State) (c : Scratch) : (s.setScr c).agenda = s.agenda := rfl
@[simp] theorem State.setScr_ev (s : State) (c : Scratch) : (s.setScr c).ev = s.ev := rfl
@[simp] theorem State.setScr_free (s : State) (c : Scratch) : (s.setScr c).free = s.free := rfl
@[simp] theorem State.setScr_mem (s : State) (c : Scratch) : (s.setScr c).mem = s.mem := rfl
@[simp] theorem State.setScr_lat (s : State) (c : Scratch) : (s.setScr c).lat = s.lat := rfl
@[simp] theorem State.setScr_work (s : State) (c : Scratch) : (s.setScr c).work = s.work := rfl
@[simp] theorem State.setScr_dev (s : State) (c : Scratch) : (s.setScr c).dev = s.dev := rfl

@[simp] theorem State.takeFrame_h (s : State) (f : Frame) : (s.takeFrame f).h = s.h := rfl
@[simp] theorem State.takeFrame_harts (s : State) (f : Frame) : (s.takeFrame f).harts = s.harts := rfl
@[simp] theorem State.takeFrame_grp (s : State) (f : Frame) : (s.takeFrame f).grp = s.grp := rfl
@[simp] theorem State.takeFrame_agenda (s : State) (f : Frame) : (s.takeFrame f).agenda = s.agenda := rfl
@[simp] theorem State.takeFrame_ev (s : State) (f : Frame) : (s.takeFrame f).ev = s.ev := rfl
@[simp] theorem State.takeFrame_free (s : State) (f : Frame) : (s.takeFrame f).free = s.free := rfl
@[simp] theorem State.takeFrame_work (s : State) (f : Frame) : (s.takeFrame f).work = s.work := rfl
@[simp] theorem State.takeFrame_dev (s : State) (f : Frame) : (s.takeFrame f).dev = s.dev := rfl

@[simp] theorem State.tlbInvalidate_h (s : State) (ctx lo hi : Nat) : (s.tlbInvalidate ctx lo hi).h = s.h := rfl
@[simp] theorem State.tlbInvalidate_harts (s : State) (ctx lo hi : Nat) : (s.tlbInvalidate ctx lo hi).harts = s.harts := rfl
@[simp] theorem State.tlbInvalidate_grp (s : State) (ctx lo hi : Nat) : (s.tlbInvalidate ctx lo hi).grp = s.grp := rfl
@[simp] theorem State.tlbInvalidate_agenda (s : State) (ctx lo hi : Nat) : (s.tlbInvalidate ctx lo hi).agenda = s.agenda := rfl
@[simp] theorem State.tlbInvalidate_ev (s : State) (ctx lo hi : Nat) : (s.tlbInvalidate ctx lo hi).ev = s.ev := rfl
@[simp] theorem State.tlbInvalidate_free (s : State) (ctx lo hi : Nat) : (s.tlbInvalidate ctx lo hi).free = s.free := rfl
@[simp] theorem State.tlbInvalidate_mem (s : State) (ctx lo hi : Nat) : (s.tlbInvalidate ctx lo hi).mem = s.mem := rfl
@[simp] theorem State.tlbInvalidate_work (s : State) (ctx lo hi : Nat) : (s.tlbInvalidate ctx lo hi).work = s.work := rfl
@[simp] theorem State.tlbInvalidate_dev (s : State) (ctx lo hi : Nat) : (s.tlbInvalidate ctx lo hi).dev = s.dev := rfl

@[simp] theorem State.setBank_h (s : State) (bu : Nat) (b : BankUnit) : (s.setBank bu b).h = s.h := rfl
@[simp] theorem State.setBank_harts (s : State) (bu : Nat) (b : BankUnit) : (s.setBank bu b).harts = s.harts := rfl
@[simp] theorem State.setBank_grp (s : State) (bu : Nat) (b : BankUnit) : (s.setBank bu b).grp = s.grp := rfl
@[simp] theorem State.setBank_agenda (s : State) (bu : Nat) (b : BankUnit) : (s.setBank bu b).agenda = s.agenda := rfl
@[simp] theorem State.setBank_ev (s : State) (bu : Nat) (b : BankUnit) : (s.setBank bu b).ev = s.ev := rfl
@[simp] theorem State.setBank_free (s : State) (bu : Nat) (b : BankUnit) : (s.setBank bu b).free = s.free := rfl
@[simp] theorem State.setBank_mem (s : State) (bu : Nat) (b : BankUnit) : (s.setBank bu b).mem = s.mem := rfl
@[simp] theorem State.setBank_lat (s : State) (bu : Nat) (b : BankUnit) : (s.setBank bu b).lat = s.lat := rfl
@[simp] theorem State.setBank_work (s : State) (bu : Nat) (b : BankUnit) : (s.setBank bu b).work = s.work := rfl

@[simp] theorem State.keepDram_h (s : State) (pa n : Nat) : (s.keepDram pa n).h = s.h := rfl
@[simp] theorem State.keepDram_harts (s : State) (pa n : Nat) : (s.keepDram pa n).harts = s.harts := rfl
@[simp] theorem State.keepDram_grp (s : State) (pa n : Nat) : (s.keepDram pa n).grp = s.grp := rfl
@[simp] theorem State.keepDram_agenda (s : State) (pa n : Nat) : (s.keepDram pa n).agenda = s.agenda := rfl
@[simp] theorem State.keepDram_ev (s : State) (pa n : Nat) : (s.keepDram pa n).ev = s.ev := rfl
@[simp] theorem State.keepDram_free (s : State) (pa n : Nat) : (s.keepDram pa n).free = s.free := rfl
@[simp] theorem State.keepDram_mem (s : State) (pa n : Nat) : (s.keepDram pa n).mem = s.mem := rfl
@[simp] theorem State.keepDram_work (s : State) (pa n : Nat) : (s.keepDram pa n).work = s.work := rfl
@[simp] theorem State.keepDram_dev (s : State) (pa n : Nat) : (s.keepDram pa n).dev = s.dev := rfl

@[simp] theorem State.note_harts (s : State) (e : Hist) : (s.note e).harts = s.harts := rfl
@[simp] theorem State.note_grp (s : State) (e : Hist) : (s.note e).grp = s.grp := rfl
@[simp] theorem State.note_agenda (s : State) (e : Hist) : (s.note e).agenda = s.agenda := rfl
@[simp] theorem State.note_ev (s : State) (e : Hist) : (s.note e).ev = s.ev := rfl
@[simp] theorem State.note_free (s : State) (e : Hist) : (s.note e).free = s.free := rfl
@[simp] theorem State.note_mem (s : State) (e : Hist) : (s.note e).mem = s.mem := rfl
@[simp] theorem State.note_lat (s : State) (e : Hist) : (s.note e).lat = s.lat := rfl
@[simp] theorem State.note_work (s : State) (e : Hist) : (s.note e).work = s.work := rfl
@[simp] theorem State.note_dev (s : State) (e : Hist) : (s.note e).dev = s.dev := rfl

@[simp] theorem State.gotMsg_h (s : State) (ctx : Nat) : (s.gotMsg ctx).h = s.h := rfl
@[simp] theorem State.gotMsg_harts (s : State) (ctx : Nat) : (s.gotMsg ctx).harts = s.harts := rfl
@[simp] theorem State.gotMsg_grp (s : State) (ctx : Nat) : (s.gotMsg ctx).grp = s.grp := rfl
@[simp] theorem State.gotMsg_agenda (s : State) (ctx : Nat) : (s.gotMsg ctx).agenda = s.agenda := rfl
@[simp] theorem State.gotMsg_ev (s : State) (ctx : Nat) : (s.gotMsg ctx).ev = s.ev := rfl
@[simp] theorem State.gotMsg_free (s : State) (ctx : Nat) : (s.gotMsg ctx).free = s.free := rfl
@[simp] theorem State.gotMsg_mem (s : State) (ctx : Nat) : (s.gotMsg ctx).mem = s.mem := rfl
@[simp] theorem State.gotMsg_work (s : State) (ctx : Nat) : (s.gotMsg ctx).work = s.work := rfl
@[simp] theorem State.gotMsg_dev (s : State) (ctx : Nat) : (s.gotMsg ctx).dev = s.dev := rfl

@[simp] theorem State.setPhys_h (s : State) (p : Phys) : (s.setPhys p).h = s.h := rfl
@[simp] theorem State.setPhys_harts (s : State) (p : Phys) : (s.setPhys p).harts = s.harts := rfl
@[simp] theorem State.setPhys_grp (s : State) (p : Phys) : (s.setPhys p).grp = s.grp := rfl
@[simp] theorem State.setPhys_agenda (s : State) (p : Phys) : (s.setPhys p).agenda = s.agenda := rfl
@[simp] theorem State.setPhys_ev (s : State) (p : Phys) : (s.setPhys p).ev = s.ev := rfl
@[simp] theorem State.setPhys_free (s : State) (p : Phys) : (s.setPhys p).free = s.free := rfl
@[simp] theorem State.setPhys_mem (s : State) (p : Phys) : (s.setPhys p).mem = s.mem := rfl
@[simp] theorem State.setPhys_lat (s : State) (p : Phys) : (s.setPhys p).lat = s.lat := rfl
@[simp] theorem State.setPhys_dev (s : State) (p : Phys) : (s.setPhys p).dev = s.dev := rfl

@[simp] theorem State.updTask_h (s : State) (n : Nat) (f : Task → Task) : (s.updTask n f).h = s.h := rfl
@[simp] theorem State.updTask_harts (s : State) (n : Nat) (f : Task → Task) : (s.updTask n f).harts = s.harts := rfl
@[simp] theorem State.updTask_grp (s : State) (n : Nat) (f : Task → Task) : (s.updTask n f).grp = s.grp := rfl
@[simp] theorem State.updTask_agenda (s : State) (n : Nat) (f : Task → Task) : (s.updTask n f).agenda = s.agenda := rfl
@[simp] theorem State.updTask_ev (s : State) (n : Nat) (f : Task → Task) : (s.updTask n f).ev = s.ev := rfl
@[simp] theorem State.updTask_free (s : State) (n : Nat) (f : Task → Task) : (s.updTask n f).free = s.free := rfl
@[simp] theorem State.updTask_mem (s : State) (n : Nat) (f : Task → Task) : (s.updTask n f).mem = s.mem := rfl
@[simp] theorem State.updTask_lat (s : State) (n : Nat) (f : Task → Task) : (s.updTask n f).lat = s.lat := rfl
@[simp] theorem State.updTask_dev (s : State) (n : Nat) (f : Task → Task) : (s.updTask n f).dev = s.dev := rfl

@[simp] theorem State.asHart_harts (s : State) (h : Hart) : (s.asHart h).harts = s.harts := rfl
@[simp] theorem State.asHart_grp (s : State) (h : Hart) : (s.asHart h).grp = s.grp := rfl
@[simp] theorem State.asHart_agenda (s : State) (h : Hart) : (s.asHart h).agenda = s.agenda := rfl
@[simp] theorem State.asHart_ev (s : State) (h : Hart) : (s.asHart h).ev = s.ev := rfl
@[simp] theorem State.asHart_free (s : State) (h : Hart) : (s.asHart h).free = s.free := rfl
@[simp] theorem State.asHart_mem (s : State) (h : Hart) : (s.asHart h).mem = s.mem := rfl
@[simp] theorem State.asHart_lat (s : State) (h : Hart) : (s.asHart h).lat = s.lat := rfl
@[simp] theorem State.asHart_work (s : State) (h : Hart) : (s.asHart h).work = s.work := rfl
@[simp] theorem State.asHart_dev (s : State) (h : Hart) : (s.asHart h).dev = s.dev := rfl

@[simp] theorem State.setChan_h (s : State) (ch : Nat) (c : Channel) : (s.setChan ch c).h = s.h := rfl
@[simp] theorem State.setChan_harts (s : State) (ch : Nat) (c : Channel) : (s.setChan ch c).harts = s.harts := rfl
@[simp] theorem State.setChan_grp (s : State) (ch : Nat) (c : Channel) : (s.setChan ch c).grp = s.grp := rfl
@[simp] theorem State.setChan_agenda (s : State) (ch : Nat) (c : Channel) : (s.setChan ch c).agenda = s.agenda := rfl
@[simp] theorem State.setChan_ev (s : State) (ch : Nat) (c : Channel) : (s.setChan ch c).ev = s.ev := rfl
@[simp] theorem State.setChan_free (s : State) (ch : Nat) (c : Channel) : (s.setChan ch c).free = s.free := rfl
@[simp] theorem State.setChan_mem (s : State) (ch : Nat) (c : Channel) : (s.setChan ch c).mem = s.mem := rfl
@[simp] theorem State.setChan_lat (s : State) (ch : Nat) (c : Channel) : (s.setChan ch c).lat = s.lat := rfl
@[simp] theorem State.setChan_work (s : State) (ch : Nat) (c : Channel) : (s.setChan ch c).work = s.work := rfl

@[simp] theorem State.setStreams_harts (s : State) (l : List Stream) : (s.setStreams l).harts = s.harts := rfl
@[simp] theorem State.setStreams_grp (s : State) (l : List Stream) : (s.setStreams l).grp = s.grp := rfl
@[simp] theorem State.setStreams_agenda (s : State) (l : List Stream) : (s.setStreams l).agenda = s.agenda := rfl
@[simp] theorem State.setStreams_ev (s : State) (l : List Stream) : (s.setStreams l).ev = s.ev := rfl
@[simp] theorem State.setStreams_free (s : State) (l : List Stream) : (s.setStreams l).free = s.free := rfl
@[simp] theorem State.setStreams_mem (s : State) (l : List Stream) : (s.setStreams l).mem = s.mem := rfl
@[simp] theorem State.setStreams_lat (s : State) (l : List Stream) : (s.setStreams l).lat = s.lat := rfl
@[simp] theorem State.setStreams_work (s : State) (l : List Stream) : (s.setStreams l).work = s.work := rfl
@[simp] theorem State.setStreams_dev (s : State) (l : List Stream) : (s.setStreams l).dev = s.dev := rfl

@[simp] theorem State.markPopped_harts (s : State) (b : Bool) : (s.markPopped b).harts = s.harts := rfl
@[simp] theorem State.markPopped_grp (s : State) (b : Bool) : (s.markPopped b).grp = s.grp := rfl
@[simp] theorem State.markPopped_agenda (s : State) (b : Bool) : (s.markPopped b).agenda = s.agenda := rfl
@[simp] theorem State.markPopped_ev (s : State) (b : Bool) : (s.markPopped b).ev = s.ev := rfl
@[simp] theorem State.markPopped_free (s : State) (b : Bool) : (s.markPopped b).free = s.free := rfl
@[simp] theorem State.markPopped_mem (s : State) (b : Bool) : (s.markPopped b).mem = s.mem := rfl
@[simp] theorem State.markPopped_lat (s : State) (b : Bool) : (s.markPopped b).lat = s.lat := rfl
@[simp] theorem State.markPopped_work (s : State) (b : Bool) : (s.markPopped b).work = s.work := rfl
@[simp] theorem State.markPopped_dev (s : State) (b : Bool) : (s.markPopped b).dev = s.dev := rfl

@[simp] theorem State.hostPut_h (s : State) (a : Nat) (ws : List Nat) : (s.hostPut a ws).h = s.h := rfl
@[simp] theorem State.hostPut_harts (s : State) (a : Nat) (ws : List Nat) : (s.hostPut a ws).harts = s.harts := rfl
@[simp] theorem State.hostPut_grp (s : State) (a : Nat) (ws : List Nat) : (s.hostPut a ws).grp = s.grp := rfl
@[simp] theorem State.hostPut_agenda (s : State) (a : Nat) (ws : List Nat) : (s.hostPut a ws).agenda = s.agenda := rfl
@[simp] theorem State.hostPut_ev (s : State) (a : Nat) (ws : List Nat) : (s.hostPut a ws).ev = s.ev := rfl
@[simp] theorem State.hostPut_free (s : State) (a : Nat) (ws : List Nat) : (s.hostPut a ws).free = s.free := rfl
@[simp] theorem State.hostPut_mem (s : State) (a : Nat) (ws : List Nat) : (s.hostPut a ws).mem = s.mem := rfl
@[simp] theorem State.hostPut_lat (s : State) (a : Nat) (ws : List Nat) : (s.hostPut a ws).lat = s.lat := rfl
@[simp] theorem State.hostPut_work (s : State) (a : Nat) (ws : List Nat) : (s.hostPut a ws).work = s.work := rfl

@[simp] theorem State.dropMsg_h (s : State) (i ctx : Nat) : (s.dropMsg i ctx).h = s.h := rfl
@[simp] theorem State.dropMsg_harts (s : State) (i ctx : Nat) : (s.dropMsg i ctx).harts = s.harts := rfl
@[simp] theorem State.dropMsg_grp (s : State) (i ctx : Nat) : (s.dropMsg i ctx).grp = s.grp := rfl
@[simp] theorem State.dropMsg_agenda (s : State) (i ctx : Nat) : (s.dropMsg i ctx).agenda = s.agenda := rfl
@[simp] theorem State.dropMsg_ev (s : State) (i ctx : Nat) : (s.dropMsg i ctx).ev = s.ev := rfl
@[simp] theorem State.dropMsg_free (s : State) (i ctx : Nat) : (s.dropMsg i ctx).free = s.free := rfl
@[simp] theorem State.dropMsg_mem (s : State) (i ctx : Nat) : (s.dropMsg i ctx).mem = s.mem := rfl
@[simp] theorem State.dropMsg_work (s : State) (i ctx : Nat) : (s.dropMsg i ctx).work = s.work := rfl
@[simp] theorem State.dropMsg_dev (s : State) (i ctx : Nat) : (s.dropMsg i ctx).dev = s.dev := rfl

@[simp] theorem State.setM_harts (s : State) (r : Fin 8) (v : MWord) : (s.setM r v).harts = s.harts := by
  unfold State.setM; split <;> rfl
@[simp] theorem State.setM_grp (s : State) (r : Fin 8) (v : MWord) : (s.setM r v).grp = s.grp := by
  unfold State.setM; split <;> rfl
@[simp] theorem State.setM_agenda (s : State) (r : Fin 8) (v : MWord) : (s.setM r v).agenda = s.agenda := by
  unfold State.setM; split <;> rfl
@[simp] theorem State.setM_free (s : State) (r : Fin 8) (v : MWord) : (s.setM r v).free = s.free := by
  unfold State.setM; split <;> rfl
@[simp] theorem State.setM_mem (s : State) (r : Fin 8) (v : MWord) : (s.setM r v).mem = s.mem := by
  unfold State.setM; split <;> rfl
@[simp] theorem State.setM_lat (s : State) (r : Fin 8) (v : MWord) : (s.setM r v).lat = s.lat := by
  unfold State.setM; split <;> rfl
@[simp] theorem State.setM_work (s : State) (r : Fin 8) (v : MWord) : (s.setM r v).work = s.work := by
  unfold State.setM; split <;> rfl
@[simp] theorem State.setM_dev (s : State) (r : Fin 8) (v : MWord) : (s.setM r v).dev = s.dev := by
  unfold State.setM; split <;> rfl

@[simp] theorem State.servedBy_h (s : State) (ctx node : Nat) : (s.servedBy ctx node).h = s.h := rfl
@[simp] theorem State.servedBy_harts (s : State) (ctx node : Nat) : (s.servedBy ctx node).harts = s.harts := rfl
@[simp] theorem State.servedBy_grp (s : State) (ctx node : Nat) : (s.servedBy ctx node).grp = s.grp := rfl
@[simp] theorem State.servedBy_agenda (s : State) (ctx node : Nat) : (s.servedBy ctx node).agenda = s.agenda := rfl
@[simp] theorem State.servedBy_ev (s : State) (ctx node : Nat) : (s.servedBy ctx node).ev = s.ev := rfl
@[simp] theorem State.servedBy_free (s : State) (ctx node : Nat) : (s.servedBy ctx node).free = s.free := rfl
@[simp] theorem State.servedBy_mem (s : State) (ctx node : Nat) : (s.servedBy ctx node).mem = s.mem := rfl
@[simp] theorem State.servedBy_lat (s : State) (ctx node : Nat) : (s.servedBy ctx node).lat = s.lat := rfl
@[simp] theorem State.servedBy_dev (s : State) (ctx node : Nat) : (s.servedBy ctx node).dev = s.dev := rfl

@[simp] theorem State.auditAppend_h (s : State) (p ty ctx : Nat) (d : List Nat) : (s.auditAppend p ty ctx d).h = s.h := rfl
@[simp] theorem State.auditAppend_harts (s : State) (p ty ctx : Nat) (d : List Nat) : (s.auditAppend p ty ctx d).harts = s.harts := rfl
@[simp] theorem State.auditAppend_grp (s : State) (p ty ctx : Nat) (d : List Nat) : (s.auditAppend p ty ctx d).grp = s.grp := rfl
@[simp] theorem State.auditAppend_agenda (s : State) (p ty ctx : Nat) (d : List Nat) : (s.auditAppend p ty ctx d).agenda = s.agenda := rfl
@[simp] theorem State.auditAppend_ev (s : State) (p ty ctx : Nat) (d : List Nat) : (s.auditAppend p ty ctx d).ev = s.ev := rfl
@[simp] theorem State.auditAppend_free (s : State) (p ty ctx : Nat) (d : List Nat) : (s.auditAppend p ty ctx d).free = s.free := rfl
@[simp] theorem State.auditAppend_mem (s : State) (p ty ctx : Nat) (d : List Nat) : (s.auditAppend p ty ctx d).mem = s.mem := rfl
@[simp] theorem State.auditAppend_lat (s : State) (p ty ctx : Nat) (d : List Nat) : (s.auditAppend p ty ctx d).lat = s.lat := rfl
@[simp] theorem State.auditAppend_work (s : State) (p ty ctx : Nat) (d : List Nat) : (s.auditAppend p ty ctx d).work = s.work := rfl

@[simp] theorem State.hostRefuse_h (s : State) (p c w x va g f : Nat) : (s.hostRefuse p c w x va g f).h = s.h := rfl
@[simp] theorem State.hostRefuse_harts (s : State) (p c w x va g f : Nat) : (s.hostRefuse p c w x va g f).harts = s.harts := rfl
@[simp] theorem State.hostRefuse_grp (s : State) (p c w x va g f : Nat) : (s.hostRefuse p c w x va g f).grp = s.grp := rfl
@[simp] theorem State.hostRefuse_agenda (s : State) (p c w x va g f : Nat) : (s.hostRefuse p c w x va g f).agenda = s.agenda := rfl
@[simp] theorem State.hostRefuse_ev (s : State) (p c w x va g f : Nat) : (s.hostRefuse p c w x va g f).ev = s.ev := rfl
@[simp] theorem State.hostRefuse_free (s : State) (p c w x va g f : Nat) : (s.hostRefuse p c w x va g f).free = s.free := rfl
@[simp] theorem State.hostRefuse_mem (s : State) (p c w x va g f : Nat) : (s.hostRefuse p c w x va g f).mem = s.mem := rfl
@[simp] theorem State.hostRefuse_lat (s : State) (p c w x va g f : Nat) : (s.hostRefuse p c w x va g f).lat = s.lat := rfl
@[simp] theorem State.hostRefuse_work (s : State) (p c w x va g f : Nat) : (s.hostRefuse p c w x va g f).work = s.work := rfl

@[simp] theorem State.unsupportedWrite_h (s : State) (p : Nat) : (s.unsupportedWrite p).h = s.h := rfl
@[simp] theorem State.unsupportedWrite_harts (s : State) (p : Nat) : (s.unsupportedWrite p).harts = s.harts := rfl
@[simp] theorem State.unsupportedWrite_grp (s : State) (p : Nat) : (s.unsupportedWrite p).grp = s.grp := rfl
@[simp] theorem State.unsupportedWrite_agenda (s : State) (p : Nat) : (s.unsupportedWrite p).agenda = s.agenda := rfl
@[simp] theorem State.unsupportedWrite_ev (s : State) (p : Nat) : (s.unsupportedWrite p).ev = s.ev := rfl
@[simp] theorem State.unsupportedWrite_free (s : State) (p : Nat) : (s.unsupportedWrite p).free = s.free := rfl
@[simp] theorem State.unsupportedWrite_mem (s : State) (p : Nat) : (s.unsupportedWrite p).mem = s.mem := rfl
@[simp] theorem State.unsupportedWrite_lat (s : State) (p : Nat) : (s.unsupportedWrite p).lat = s.lat := rfl
@[simp] theorem State.unsupportedWrite_work (s : State) (p : Nat) : (s.unsupportedWrite p).work = s.work := rfl

@[simp] theorem State.refuseWrite_h (s : State) (cxl : Bool) (p c w x va g f : Nat) : (s.refuseWrite cxl p c w x va g f).h = s.h := by
  cases cxl <;> rfl
@[simp] theorem State.refuseWrite_harts (s : State) (cxl : Bool) (p c w x va g f : Nat) : (s.refuseWrite cxl p c w x va g f).harts = s.harts := by
  cases cxl <;> rfl
@[simp] theorem State.refuseWrite_grp (s : State) (cxl : Bool) (p c w x va g f : Nat) : (s.refuseWrite cxl p c w x va g f).grp = s.grp := by
  cases cxl <;> rfl
@[simp] theorem State.refuseWrite_agenda (s : State) (cxl : Bool) (p c w x va g f : Nat) : (s.refuseWrite cxl p c w x va g f).agenda = s.agenda := by
  cases cxl <;> rfl
@[simp] theorem State.refuseWrite_ev (s : State) (cxl : Bool) (p c w x va g f : Nat) : (s.refuseWrite cxl p c w x va g f).ev = s.ev := by
  cases cxl <;> rfl
@[simp] theorem State.refuseWrite_free (s : State) (cxl : Bool) (p c w x va g f : Nat) : (s.refuseWrite cxl p c w x va g f).free = s.free := by
  cases cxl <;> rfl
@[simp] theorem State.refuseWrite_mem (s : State) (cxl : Bool) (p c w x va g f : Nat) : (s.refuseWrite cxl p c w x va g f).mem = s.mem := by
  cases cxl <;> rfl
@[simp] theorem State.refuseWrite_lat (s : State) (cxl : Bool) (p c w x va g f : Nat) : (s.refuseWrite cxl p c w x va g f).lat = s.lat := by
  cases cxl <;> rfl
@[simp] theorem State.refuseWrite_work (s : State) (cxl : Bool) (p c w x va g f : Nat) : (s.refuseWrite cxl p c w x va g f).work = s.work := by
  cases cxl <;> rfl

@[simp] theorem State.updWeir_h (s : State) (ch n : Nat) (f : LReq → LReq) : (s.updWeir ch n f).h = s.h := rfl
@[simp] theorem State.updWeir_harts (s : State) (ch n : Nat) (f : LReq → LReq) : (s.updWeir ch n f).harts = s.harts := rfl
@[simp] theorem State.updWeir_grp (s : State) (ch n : Nat) (f : LReq → LReq) : (s.updWeir ch n f).grp = s.grp := rfl
@[simp] theorem State.updWeir_agenda (s : State) (ch n : Nat) (f : LReq → LReq) : (s.updWeir ch n f).agenda = s.agenda := rfl
@[simp] theorem State.updWeir_ev (s : State) (ch n : Nat) (f : LReq → LReq) : (s.updWeir ch n f).ev = s.ev := rfl
@[simp] theorem State.updWeir_free (s : State) (ch n : Nat) (f : LReq → LReq) : (s.updWeir ch n f).free = s.free := rfl
@[simp] theorem State.updWeir_mem (s : State) (ch n : Nat) (f : LReq → LReq) : (s.updWeir ch n f).mem = s.mem := rfl
@[simp] theorem State.updWeir_work (s : State) (ch n : Nat) (f : LReq → LReq) : (s.updWeir ch n f).work = s.work := rfl
@[simp] theorem State.updWeir_dev (s : State) (ch n : Nat) (f : LReq → LReq) : (s.updWeir ch n f).dev = s.dev := rfl

@[simp] theorem State.setLink_h (s : State) (p l : Nat) (v : Link) : (s.setLink p l v).h = s.h := rfl
@[simp] theorem State.setLink_harts (s : State) (p l : Nat) (v : Link) : (s.setLink p l v).harts = s.harts := rfl
@[simp] theorem State.setLink_grp (s : State) (p l : Nat) (v : Link) : (s.setLink p l v).grp = s.grp := rfl
@[simp] theorem State.setLink_agenda (s : State) (p l : Nat) (v : Link) : (s.setLink p l v).agenda = s.agenda := rfl
@[simp] theorem State.setLink_ev (s : State) (p l : Nat) (v : Link) : (s.setLink p l v).ev = s.ev := rfl
@[simp] theorem State.setLink_free (s : State) (p l : Nat) (v : Link) : (s.setLink p l v).free = s.free := rfl
@[simp] theorem State.setLink_mem (s : State) (p l : Nat) (v : Link) : (s.setLink p l v).mem = s.mem := rfl
@[simp] theorem State.setLink_lat (s : State) (p l : Nat) (v : Link) : (s.setLink p l v).lat = s.lat := rfl
@[simp] theorem State.setLink_work (s : State) (p l : Nat) (v : Link) : (s.setLink p l v).work = s.work := rfl

@[simp] theorem State.setGroup_h (s : State) (g : Nat) (v : HaltGroup) : (s.setGroup g v).h = s.h := rfl
@[simp] theorem State.setGroup_harts (s : State) (g : Nat) (v : HaltGroup) : (s.setGroup g v).harts = s.harts := rfl
@[simp] theorem State.setGroup_grp (s : State) (g : Nat) (v : HaltGroup) : (s.setGroup g v).grp = s.grp := rfl
@[simp] theorem State.setGroup_agenda (s : State) (g : Nat) (v : HaltGroup) : (s.setGroup g v).agenda = s.agenda := rfl
@[simp] theorem State.setGroup_ev (s : State) (g : Nat) (v : HaltGroup) : (s.setGroup g v).ev = s.ev := rfl
@[simp] theorem State.setGroup_free (s : State) (g : Nat) (v : HaltGroup) : (s.setGroup g v).free = s.free := rfl
@[simp] theorem State.setGroup_mem (s : State) (g : Nat) (v : HaltGroup) : (s.setGroup g v).mem = s.mem := rfl
@[simp] theorem State.setGroup_lat (s : State) (g : Nat) (v : HaltGroup) : (s.setGroup g v).lat = s.lat := rfl
@[simp] theorem State.setGroup_work (s : State) (g : Nat) (v : HaltGroup) : (s.setGroup g v).work = s.work := rfl

@[simp] theorem State.answerHost_h (s : State) (p : Nat) (l : Option (List Nat)) : (s.answerHost p l).h = s.h := rfl
@[simp] theorem State.answerHost_harts (s : State) (p : Nat) (l : Option (List Nat)) : (s.answerHost p l).harts = s.harts := rfl
@[simp] theorem State.answerHost_grp (s : State) (p : Nat) (l : Option (List Nat)) : (s.answerHost p l).grp = s.grp := rfl
@[simp] theorem State.answerHost_agenda (s : State) (p : Nat) (l : Option (List Nat)) : (s.answerHost p l).agenda = s.agenda := rfl
@[simp] theorem State.answerHost_ev (s : State) (p : Nat) (l : Option (List Nat)) : (s.answerHost p l).ev = s.ev := rfl
@[simp] theorem State.answerHost_free (s : State) (p : Nat) (l : Option (List Nat)) : (s.answerHost p l).free = s.free := rfl
@[simp] theorem State.answerHost_mem (s : State) (p : Nat) (l : Option (List Nat)) : (s.answerHost p l).mem = s.mem := rfl
@[simp] theorem State.answerHost_lat (s : State) (p : Nat) (l : Option (List Nat)) : (s.answerHost p l).lat = s.lat := rfl
@[simp] theorem State.answerHost_work (s : State) (p : Nat) (l : Option (List Nat)) : (s.answerHost p l).work = s.work := rfl

/-! ## Registers after a write -/

/-- x0 reads as zero (R224). -/
@[simp] theorem Hart.getX_zero (h : Hart) : h.getX 0 = 0 := rfl

/-- A scalar register after a write: x0 discards it (R224). -/
theorem Hart.getX_setX (h : Hart) (r q : Fin 32) (v : Word) :
    (h.setX r v).getX q = if q = r ∧ r ≠ 0 then v else h.getX q := by
  by_cases hr : r = 0
  · simp [Hart.setX, hr]
  · by_cases hq : q = 0
    · subst hq
      simp [Hart.getX, Ne.symm hr]
    · simp only [Hart.getX, Hart.setX, hr, hq, if_false]
      by_cases e : q = r
      · subst e; simp [hr]
      · have : ¬ r.val = q.val := fun h => e (Fin.ext h.symm)
        simp [e, this]

/-- A scalar register of the issuing hart after a write. -/
theorem State.x_setX (s : State) (r q : Fin 32) (v : Word) : (s.setX r v).x q = if q = r ∧ r ≠ 0 then v else s.x q :=
  Hart.getX_setX s.h r q v

/-- A vector register after a write. -/
theorem State.v_setV (s : State) (r q : Fin 32) (v : VWord) : (s.setV r v).v q = if q = r then v else s.v q := by
  by_cases e : q = r
  · subst e; simp [State.v, State.setV, Hart.setVec]
  · have : ¬ r.val = q.val := fun h => e (Fin.ext h.symm)
    simp [State.v, State.setV, Hart.setVec, e, this]

/-- m0 reads as all ones (R272). -/
@[simp] theorem State.m_zero (s : State) : s.m 0 = BitVec.allOnes 48 := rfl

/-- A mask register after a write: m0 is fixed (R272). -/
theorem State.m_setM (s : State) (r q : Fin 8) (v : MWord) : (s.setM r v).m q = if q = r ∧ r ≠ 0 then v else s.m q := by
  by_cases hr : r = 0
  · simp [State.setM, hr]
  · by_cases hq : q = 0
    · subst hq
      simp [State.m, Ne.symm hr]
    · by_cases e : q = r
      · subst e; simp [State.m, State.setM, Hart.setVec, hr]
      · have : ¬ r.val = q.val := fun h => e (Fin.ext h.symm)
        simp [State.m, State.setM, Hart.setVec, hr, hq, e, this]

/-- A token register after a write. -/
theorem State.k_setK (s : State) (r q : Fin 16) (v : Word) : (s.setK r v).k q = if q = r then v else s.k q := by
  by_cases e : q = r
  · subst e; simp [State.k, State.setK, Hart.setVec]
  · have : ¬ r.val = q.val := fun h => e (Fin.ext h.symm)
    simp [State.k, State.setK, Hart.setVec, e, this]

/-! ## Completion of a group -/

theorem Hart.endCheck0_x (h : Hart) (p : Word) : (h.endCheck0 p).x = h.x := by
  unfold Hart.endCheck0; dsimp only; split <;> (try split) <;> rfl
theorem Hart.endCheck0_t (h : Hart) (p : Word) : (h.endCheck0 p).t = h.t := by
  unfold Hart.endCheck0; dsimp only; split <;> (try split) <;> rfl
theorem Hart.endCheck0_id (h : Hart) (p : Word) : (h.endCheck0 p).id = h.id := by
  unfold Hart.endCheck0; dsimp only; split <;> (try split) <;> rfl
theorem Hart.endCheck0_r (h : Hart) (p : Word) : (h.endCheck0 p).r = h.r := by
  unfold Hart.endCheck0; dsimp only; split <;> (try split) <;> rfl
theorem Hart.endCheck_x (h : Hart) (p : Word) : (h.endCheck p).x = h.x := by
  unfold Hart.endCheck; dsimp only; split
  · split
    · rfl
    · exact Hart.endCheck0_x _ _
  · exact Hart.endCheck0_x _ _
theorem Hart.endCheck_t (h : Hart) (p : Word) : (h.endCheck p).t = h.t := by
  unfold Hart.endCheck; dsimp only; split
  · split
    · rfl
    · exact Hart.endCheck0_t _ _
  · exact Hart.endCheck0_t _ _
theorem Hart.endCheck_id (h : Hart) (p : Word) : (h.endCheck p).id = h.id := by
  unfold Hart.endCheck; dsimp only; split
  · split
    · rfl
    · exact Hart.endCheck0_id _ _
  · exact Hart.endCheck0_id _ _
theorem Hart.endCheck_r (h : Hart) (p : Word) : (h.endCheck p).r = h.r := by
  unfold Hart.endCheck; dsimp only; split
  · split
    · rfl
    · exact Hart.endCheck0_r _ _
  · exact Hart.endCheck0_r _ _

/-- A group that completes leaves the scalar registers as its instruction left them. -/
@[simp] theorem State.retire_x (s : State) (r : Fin 32) : s.retire.x r = s.x r := by
  simp only [State.x, State.retire, Hart.getX, Hart.settle, Hart.endCheck_x]

/-- A group that completes leaves the vector, mask and token registers as its instruction left them. -/
@[simp] theorem State.retire_vec (s : State) : s.retire.h.t.vec = s.h.t.vec := by
  simp only [State.retire, Hart.settle, Hart.endCheck_t]

@[simp] theorem State.retire_v (s : State) (r : Fin 32) : s.retire.v r = s.v r := by simp only [State.v, State.retire_vec]
@[simp] theorem State.retire_m (s : State) (r : Fin 8) : s.retire.m r = s.m r := by simp only [State.m, State.retire_vec]
@[simp] theorem State.retire_k (s : State) (r : Fin 16) : s.retire.k r = s.k r := by simp only [State.k, State.retire_vec]

/-- Where no loop is active, a completing group goes on at the next group (R253, R256). -/
theorem State.retire_pc (s : State) (h0 : s.h.ctl.lend0 = 0) (h1 : s.h.ctl.lend1 = 0) : s.retire.h.pc = s.nextAddr := by
  simp [State.retire, Hart.settle, Hart.endCheck, Hart.endCheck0, h0, h1]

@[simp] theorem State.jumpTo_pc (s : State) (t : Word) : (s.jumpTo t).h.pc = t := rfl
@[simp] theorem State.jumpTo_x (s : State) (t : Word) (r : Fin 32) : (s.jumpTo t).x r = s.x r := rfl
@[simp] theorem State.jumpTo_vec (s : State) (t : Word) : (s.jumpTo t).h.t.vec = s.h.t.vec := rfl

end Sys2Proof.Machine
end

