-- ==== Sys2Proof/Laws/Ops.lean ====
section
/-! SUPPORT. What each shared way to complete a group can do, said once. -/

namespace Sys2Proof.Machine

/-! ## The end-of-body check -/

theorem Hart.endCheck0_sameCtl (h : Hart) (p : Word) :
    (h.endCheck0 p).ctl.rmode = h.ctl.rmode ∧ (h.endCheck0 p).ctl.chk = h.ctl.chk ∧ (h.endCheck0 p).ctl.sptr = h.ctl.sptr ∧
    (h.endCheck0 p).ctl.tvec = h.ctl.tvec ∧ (h.endCheck0 p).ctl.tepc = h.ctl.tepc ∧ (h.endCheck0 p).ctl.tcause = h.ctl.tcause ∧
    (h.endCheck0 p).ctl.taddr = h.ctl.taddr ∧ (h.endCheck0 p).ctl.h = h.ctl.h ∧ (h.endCheck0 p).ctl.fflags = h.ctl.fflags ∧
    (h.endCheck0 p).board = h.board := by
  unfold Hart.endCheck0; dsimp only
  split
  · split <;> simp
  · simp

theorem Hart.endCheck_sameCtl (h : Hart) (p : Word) :
    (h.endCheck p).ctl.rmode = h.ctl.rmode ∧ (h.endCheck p).ctl.chk = h.ctl.chk ∧ (h.endCheck p).ctl.sptr = h.ctl.sptr ∧
    (h.endCheck p).ctl.tvec = h.ctl.tvec ∧ (h.endCheck p).ctl.tepc = h.ctl.tepc ∧ (h.endCheck p).ctl.tcause = h.ctl.tcause ∧
    (h.endCheck p).ctl.taddr = h.ctl.taddr ∧ (h.endCheck p).ctl.h = h.ctl.h ∧ (h.endCheck p).ctl.fflags = h.ctl.fflags ∧
    (h.endCheck p).board = h.board := by
  unfold Hart.endCheck; dsimp only
  split
  · split
    · simp
    · exact Hart.endCheck0_sameCtl _ _
  · exact Hart.endCheck0_sameCtl _ _

/-- A group that completes changes its hart's pc and loop registers, and nothing else that statements name. -/
theorem State.retire_frame (s : State) : RegFrame s s.retire := by
  have c := Hart.endCheck_sameCtl s.h s.nextAddr
  constructor
  · constructor <;> first | exact fun _ => rfl | rfl
  all_goals constructor
  · exact Hart.endCheck_id _ _
  all_goals simp only [State.retire, Hart.settle, Hart.endCheck_t, Hart.endCheck_r, c]

theorem State.retire_fflags (s : State) : s.retire.h.ctl.fflags = s.h.ctl.fflags :=
  (Hart.endCheck_sameCtl s.h s.nextAddr).2.2.2.2.2.2.2.2.1

/-- A group that completes makes the end-of-body check (R256). -/
theorem State.retire_endOfBody (s : State) : EndOfBody s s.retire := by
  simp only [EndOfBody, State.retire, Hart.settle, Hart.endCheck, Hart.endCheck0]
  rcases Classical.propComplete (s.h.ctl.lend1 ≠ 0 ∧ s.nextAddr = s.h.ctl.lend1) with h1 | h1 <;>
    rcases Classical.propComplete (s.h.ctl.lcnt1 = 0) with c1 | c1 <;>
    rcases Classical.propComplete (s.h.ctl.lend0 ≠ 0 ∧ s.nextAddr = s.h.ctl.lend0) with h0 | h0 <;>
    rcases Classical.propComplete (s.h.ctl.lcnt0 = 0) with c0 | c0 <;>
    simp only [ne_eq] at h1 c1 h0 c0 <;>
    simp only [h1, c1, h0, c0, ne_eq, if_true, if_false, not_true, not_false_eq_true, and_true, and_false, true_and,
      false_and, false_implies, true_implies, and_self]

theorem EndOfBody.congr {s s' t : State} (hc : s'.h.ctl.lcnt0 = s.h.ctl.lcnt0 ∧ s'.h.ctl.lbeg0 = s.h.ctl.lbeg0 ∧
    s'.h.ctl.lend0 = s.h.ctl.lend0 ∧ s'.h.ctl.lcnt1 = s.h.ctl.lcnt1 ∧ s'.h.ctl.lbeg1 = s.h.ctl.lbeg1 ∧ s'.h.ctl.lend1 = s.h.ctl.lend1)
    (hn : s'.nextAddr = s.nextAddr) (h : EndOfBody s' t) : EndOfBody s t := by
  simpa only [EndOfBody, hc, hn] using h

/-! ## Register results -/

theorem State.setX_setCtl_free (s : State) (d : Fin 32) (v : Word) :
    (s.setX d v).h.ctl = s.h.ctl ∧ (s.setX d v).h.t = s.h.t ∧ (s.setX d v).h.id = s.h.id ∧ (s.setX d v).h.r = s.h.r ∧
    (s.setX d v).h.board = s.h.board ∧ (s.setX d v).h.pc = s.h.pc ∧ (s.setX d v).grp = s.grp := by
  by_cases h : d = 0 <;> simp [State.setX, Hart.setX, h]

/-- A scalar result: the register, and the group completes. -/
theorem State.result_writes (s : State) (d : Fin 32) (v : Word) : WritesX (s.result d v) s d v := by
  obtain ⟨hc, ht, hi, hr, hb, hp, hg⟩ := State.setX_setCtl_free s d v
  have f := State.retire_frame (s.setX d v)
  have e := State.retire_endOfBody (s.setX d v)
  refine ⟨_, rfl, fun r => ?_, fun r => ?_, fun r => ?_, fun r => ?_, ?_, ⟨⟨f.world.mem, f.world.lat, f.world.work, f.world.dev,
    f.world.harts, f.world.free⟩, ⟨f.hart.id.trans hi, ?_, ?_, ?_, ?_, ?_, f.hart.rill.trans hr, f.hart.board.trans hb⟩, ?_⟩, ?_⟩
  · rw [State.retire_x, State.x_setX]
  · rw [State.retire_v]; simp only [State.v, ht]
  · rw [State.retire_m]; simp only [State.m, ht]
  · rw [State.retire_k]; simp only [State.k, ht]
  · rw [SameFlags, State.retire_fflags, hc]
  · rw [f.hart.task, ht]
  · rw [f.hart.post, ht]
  · rw [f.hart.scr, ht]
  · rw [f.hart.rlt, ht]
  · rw [f.hart.hist, ht]
  · have c := f.ctl
    exact ⟨c.rmode.trans (by rw [hc]), c.chk.trans (by rw [hc]), c.sptr.trans (by rw [hc]), c.tvec.trans (by rw [hc]),
      c.tepc.trans (by rw [hc]), c.tcause.trans (by rw [hc]), c.taddr.trans (by rw [hc]), c.handler.trans (by rw [hc])⟩
  · refine e.congr (by simp only [hc, and_self]) ?_
    simp only [State.nextAddr, hp, hg]

end Sys2Proof.Machine
end

