-- ==== Sys2Proof/Tests/Slice0.lean ====
section
/-! SUPPORT. The model's own tests: encodings written out from the spec's tables, terms that the well-formedness check refuses,
results from the spec's worked examples, and for each statement a state that meets its hypotheses. -/

set_option linter.all false
set_option Elab.async false

namespace Sys2Proof.Tests

open Sys2Proof Sys2Proof.Machine

/-! ## Encodings: words put together from the fields of Tables 9.1 to 9.10 -/

/-- ADD x5, x6, x7: fn 0, b 7, a 6, d 5, op6 0x01 (Table 9.6). -/
theorem test_decode_add : decodeWords [7 * 2 ^ 23 + 6 * 2 ^ 18 + 5 * 2 ^ 13 + 0x01 * 2 ^ 7] = some (.add 5 6 7, ⟨0, false⟩) := by decide +kernel

/-- The words of Table 18.1 and six more, one of each form. -/
theorem test_decode_spec_words : Obligations.SpecWordsDecode := by
  unfold Obligations.SpecWordsDecode
  and_intros <;> decide +kernel

/-- An R-form word (Table 9.1). -/
def formR (fn b a d op : Nat) : Nat := fn * 2 ^ 28 + b * 2 ^ 23 + a * 2 ^ 18 + d * 2 ^ 13 + op * 2 ^ 7

/-- An I-form word (Table 9.1). -/
def formI (imm a d op : Nat) : Nat := imm * 2 ^ 23 + a * 2 ^ 18 + d * 2 ^ 13 + op * 2 ^ 7

/-- A B-form word (Table 9.1). -/
def formB (off b a op : Nat) : Nat := off * 2 ^ 23 + b * 2 ^ 18 + a * 2 ^ 13 + op * 2 ^ 7

/-- Word 0 of a 64-bit instruction (Table 9.2). -/
def form64 (w b a d op8 : Nat) : Nat := w * 2 ^ 30 + b * 2 ^ 25 + a * 2 ^ 20 + d * 2 ^ 15 + op8 * 2 ^ 7 + 2

/-- A prefix word (Table 9.3). -/
def formP (payload kind : Nat) : Nat := payload * 2 ^ 7 + kind * 2 ^ 3 + 1

/-- A PAGE prefix (Table 9.4). -/
def page (n : Nat) : Nat := formP n 0x6

/-- The continuation bit of a later word of a group (R219). -/
def cont : Nat := 4

theorem test_decode_mulb : decodeWords [formR 5 3 2 1 0x02] = some (.divn 1 2 3, ⟨0, false⟩) := by decide +kernel

theorem test_decode_ext : decodeWords [formR 4 0 2 1 0x0D] = some (.zext16 1 2, ⟨0, false⟩) := by decide +kernel

/-- imm9 is sign-extended: 0x1FF is -1 (R225). -/
theorem test_decode_addi_negative : decodeWords [formI 0x1FF 2 1 0x03] = some (.addi 1 2 (BitVec.ofInt 34 (-1)), ⟨0, false⟩) := by
  decide +kernel

/-- BMASK.ANY m3 with a prefixed offset of 2^9 + 5: cond 1 in b, the mask in a. -/
theorem test_decode_bmask : decodeWords [formP 1 0x1, cont + formB 5 1 3 0x1A] = some (.bmaskAny 3 517, ⟨0, false⟩) := by
  decide +kernel

/-- A load with an IMM and a WAIT prefix, in either order (R229). -/
theorem test_decode_ld : decodeWords [formP 2 0x1, cont + formP 3 0xA, cont + formI 8 2 1 0x22] = some (.ldI16 (some 3) 1 2 1032, ⟨0, false⟩) ∧
    decodeWords [formP 3 0xA, cont + formP 2 0x1, cont + formI 8 2 1 0x22] = some (.ldI16 (some 3) 1 2 1032, ⟨0, false⟩) := by
  decide +kernel

/-- VST with RND: FMASK 0x21, SAT 1, RM 2. -/
theorem test_decode_vst : decodeWords [formP (0x21 * 2 ^ 5 + 1 * 2 ^ 3 + 2) 0x3, cont + formI 0 2 30 0x35] =
    some (.vst none (some ⟨0x21, 1, 2⟩) 30 2 0, ⟨0, false⟩) := by decide +kernel

theorem test_decode_vcmp : decodeWords [formR 5 3 2 1 0x32] = some (.vcmpltN32 1 2 3, ⟨0, false⟩) := by decide +kernel

theorem test_decode_page1 : decodeWords [page 1, cont + formR 4 3 2 1 0x02] = some (.vunzip 1 2 3, ⟨0, false⟩) ∧
    decodeWords [page 1, cont + formR 4 0 7 1 0x04] = some (.mpopc 1 7, ⟨0, false⟩) ∧
    decodeWords [page 1, cont + formI 63 0 31 0x08] = some (.vfill 31 63, ⟨0, false⟩) := by decide +kernel

theorem test_decode_page2 : decodeWords [page 2, cont + formI 0x103 4 0 0x02] = some (.wrc 0x103 4, ⟨0, false⟩) ∧
    decodeWords [page 2, cont + formR 1 5 0 0 0x03] = some (.fenceM 5, ⟨0, false⟩) ∧
    decodeWords [page 2, cont + formR 0 0 0 0 0x06] = some (.halt, ⟨0, false⟩) ∧
    decodeWords [page 2, cont + formR 0 0 9 0 0x05] = some (.spawn 9, ⟨0, false⟩) := by decide +kernel

/-- THR of MAXI64 (type 2) with w 1, NT 0 and OFF16 -8 (Table 12.3). -/
theorem test_decode_thr : decodeWords [form64 1 11 10 12 0x04, 0xFFF8 * 2 ^ 16 + 2 * 2 ^ 12] =
    some (.thr 1 2 0 0 0xFFF8 12 10 11 0, ⟨0, false⟩) := by decide +kernel

/-- MXS.T2 with Z and WRAP, ring 7, AFTER k2 and priority 3 (Tables 13.1 and 13.4). -/
theorem test_decode_mxs : decodeWords [form64 0 3 2 9 0x26, 2 ^ 31 + 2 * 2 ^ 27 + 3 * 2 ^ 18 + 2 ^ 10 + 2 ^ 9 + 7 * 2 ^ 5 + 4] =
    some (.mxsT2 ⟨some 2, none, 3⟩ true true false 7 9 2 3 4, ⟨0, false⟩) := by decide +kernel

/-- CPY to a ring: DSP 4, SSP 0, CONV 3, RING 2, no AFTER, priority 0xF (Table 13.6). -/
theorem test_decode_cpy : decodeWords [form64 2 3 2 9 0x30, 15 * 2 ^ 18 + 4 * 2 ^ 15 + 3 * 2 ^ 8 + 2 * 2 ^ 5 + 4] =
    some (.cpy 2 none ⟨none, none, 15⟩ 4 0 3 2 9 2 3 4, ⟨0, false⟩) := by decide +kernel

theorem test_decode_token : decodeWords [form64 0 0 9 0 0x50, 0] = some (.wait 9, ⟨0, false⟩) ∧
    decodeWords [form64 0 0 0 0 0x51, 0xFFFF * 2 ^ 5] = some (.waitm 0xFFFF, ⟨0, false⟩) := by decide +kernel

theorem test_decode_vfma : decodeWords [form64 0 3 2 1 0x62, 4] = some (.vfmaI32 1 2 3 4, ⟨0, false⟩) := by decide +kernel

/-- Unassigned slots, a reserved field, a mask destination of m0, a second prefix of a kind, a prefix that is not accepted, RM 5,
page 3 and a wait field that is not honoured do not decode (Table 9.11). -/
theorem test_decode_rejects : decodeWords [formR 0 0 0 0 0x00] = none ∧ decodeWords [formR 12 3 2 1 0x02] = none ∧
    decodeWords [formR 4 1 2 1 0x0D] = none ∧ decodeWords [formR 5 3 2 0 0x32] = none ∧
    decodeWords [formP 1 0x1, cont + formP 1 0x1, cont + formI 0 2 1 0x03] = none ∧
    decodeWords [formP 1 0x1, cont + formR 0 3 2 1 0x01] = none ∧ decodeWords [formP 5 0x3, cont + formR 0 3 2 1 0x1D] = none ∧
    decodeWords [page 3, cont + formR 0 3 2 1 0x01] = none ∧ decodeWords [form64 1 3 2 1 0x62, 4] = none := by decide +kernel

/-- A table word is read as the hardware stores it: the first word lowest. -/
theorem test_decode_table : decodeTableWord 96 (0x00000131 + 2 ^ 32 * 0x00826084) = some (.rdc 19 1) := by decide +kernel

/-- The words of an instruction with both kinds of word come back from the encoder. -/
theorem test_encode : encode (.faddF32 (some ⟨0, 1, 1⟩) 12 13 14) ⟨3, false⟩ = [0x00000499, 0x07358EB4] ∧
    encode (.addl 20 10 0x100000000) ⟨0, false⟩ = [0x00001009, 0x00AA3886, 0] := by decide +kernel

/-! ## Terms that the well-formedness check refuses -/

/-- RM codes 5 and 6 are not assigned (R147, R228). -/
theorem test_wf_rnd : (Instr.faddF32 (some ⟨0, 0, 5⟩) 1 2 3).wf = false ∧ (Instr.vst none (some ⟨0, 0, 6⟩) 1 2 0).wf = false ∧
    (Instr.faddF32 (some ⟨0, 0, 7⟩) 1 2 3).wf = true := by decide

/-- A mask destination is not m0 (R224). -/
theorem test_wf_mask : (Instr.vcmpeqI32 0 1 2).wf = false ∧ (Instr.mnot 0 1).wf = false ∧ (Instr.mnot 1 0).wf = true := by decide

/-- A device event has no encoding. -/
theorem test_wf_event : Instr.ack.wf = false ∧ Instr.deviceReset.wf = false ∧ Instr.breakpoint.wf = false := by decide

/-! ## A state to test on: one thread of a context with a page of each kind, and a rill core -/

/-- A mapped 4 KiB page. -/
def leaf (va kind ctype csize win : Nat) : Leaf :=
  { va := va, size := 0, kind := kind, pa := va, key := 1, ret := false, owner := 7, ctype := ctype, csize := csize, win := win }

/-- The region of a leaf. -/
def region (l : Leaf) : Region :=
  { base := l.va, len := 0x1000, psize := 0, kind := l.kind, ctype := l.ctype, csize := l.csize, pol := 0, win := l.win, key := 1, gen := 5 }

def priv := leaf 0x100000 1 0 0 0
def cnst := leaf 0x200000 2 0 0 0
def cnt := leaf 0x300000 3 7 0 0
def fill8 := leaf 0x400000 3 8 0 0
def hostPage := leaf 0x500000 4 0 0 0
def scrA := leaf 0x600000 5 0 0 1
def gangPage := leaf 0x700000 6 0 0 0
def sum := leaf 0x800000 3 9 0 0
def scrB := leaf 0x900000 5 0 0 5

/-- The pages of the test context. -/
def pages : List Leaf := [priv, cnst, cnt, fill8, hostPage, scrA, gangPage, sum, scrB]

def ctx1 : Ctx := { handle := 1, prio := 11, key := 1, dbg := true, hgrp := 2, pkgs := [0], regions := pages.map region }

def task7 : Task := { num := 7, ctx := 1, name := 0x50, words := List.replicate 8 0, st := .placed 1 0 }

/-- The thread in slot 0 of core state 1, with room in every view. -/
def thread0 : Hart :=
  { id := .thread 1 0
    pc := 0x200000
    t := {
      task := { ctx := 1, num := 7, name := 0x50, prio := 11, dbg := true }
      vec := { m := (Vector.replicate 8 0).set 0 (BitVec.allOnes 48) }
      scr := { wins := [{ buf := 0, base := 0, len := 0x100000 }, { buf := 1, base := 0, len := 0x80000 }, { buf := 2, base := 0, len := 0x40000 }] } } }

/-- The machine with that thread issuing. -/
def m0 : State :=
  { h := thread0
    lat := { tlb := pages.map (fun l => { core := some 1, die := 0, ctx := 1, leaf := l }) }
    work := { ctxs := [ctx1], tasks := [task7], cores := [{ id := 1, tag := 1, ctx := 1, loc := .at 0 }], phys := [{ n := 0, st := .held 1 }],
              nextTask := 8, nextCore := 2 }
    dev := { pkgs := [(0, { keys := [(1, 9)] })] } }

/-- Scalar registers set. -/
def xs (s : State) (l : List (Fin 32 × Word)) : State := l.foldl (fun t r => t.setX r.1 r.2) s

/-- The hart of a state changed. -/
def withH (s : State) (f : Hart → Hart) : State := { s with h := f s.h }

/-- The scratchpad of the thread changed. -/
def withScr (s : State) (f : Scratch → Scratch) : State := withH s fun h => { h with t := { h.t with scr := f h.t.scr } }

/-- A rill core of a node issuing, with its control registers as they are when a handler may trap. -/
def r0 (n : Nat) : State := { h := { id := .rill n } }

/-- Operands of an event, and messages in the network. -/
def ev (s : State) (l : List Nat) (net : List Msg := []) : State := { s with ev := l, lat := { s.lat with net := net } }

/-- The rest of the state as it is when memory lists nothing. -/
theorem canonical_of (s : State) (h : (Mem.wf s.mem && Mem.wf s.dev.host && s.h.memWf && s.harts.all (·.memWf) &&
    s.work.gangs.all (fun g => g.past.all fun x => Mem.wf x.w && Mem.wf x.a)) = true) : Canonical s := by
  simp only [Bool.and_eq_true, List.all_eq_true] at h
  obtain ⟨⟨⟨⟨h0, h1⟩, h2⟩, h3⟩, h4⟩ := h
  exact ⟨h0, h1, h2, h3, h4⟩

theorem test_canonical : Canonical m0 := canonical_of m0 (by decide +kernel)

/-! ## Results from the spec -/

/-- The sum of Table 10.3 wraps (R246), and x0 discards a result (R224). -/
theorem test_add : Answers (exec (.add 4 1 2) (xs m0 [(1, -1), (2, 3)])) fun t => t.x 4 = 2 ∧ t.h.pc = 0x200004 :=
  ⟨_, rfl, by decide +kernel⟩

/-! ## Witnesses: states and operands that meet the hypotheses of each statement -/

theorem witness_ImmediateFormsCompute : (63 : BitVec 34).toNat < 64 := by decide

theorem witness_ScalarFloatComputes : (fp32.value 0x7FC00000).isNaN = true ∧ (fp32.value 0x7F800001).isNaN = true ∧
    (fp32.value 0x7F800001).snan = true ∧ (fp32.value 0x3F800000).isNaN = false := by decide +kernel

/-- Each comparison holds in one state and fails in another. -/
theorem witness_BranchesGoWhereTheySay :
    (let s := xs m0 [(1, 5), (2, 5), (3, -1)]
     (s.x 1 = s.x 2 ∧ ¬ s.x 1 = s.x 3) ∧ (s.x 1 ≠ s.x 3 ∧ ¬ s.x 1 ≠ s.x 2) ∧
     ((s.x 3).toInt < (s.x 1).toInt ∧ ¬ (s.x 1).toInt < (s.x 2).toInt) ∧ ((s.x 2).toInt ≤ (s.x 1).toInt ∧ ¬ (s.x 1).toInt ≤ (s.x 3).toInt) ∧
     ((s.x 1).toNat < (s.x 3).toNat ∧ ¬ (s.x 3).toNat < (s.x 1).toNat) ∧ ((s.x 2).toNat ≤ (s.x 1).toNat ∧ ¬ (s.x 3).toNat ≤ (s.x 1).toNat) ∧
     ((∀ i, i < 48 → (s.m 1).getLsbD i = false) ∧ ¬ (∀ i, i < 48 → (s.m 0).getLsbD i = false)) ∧
     ((∀ i, i < 48 → (s.m 0).getLsbD i = true) ∧ ¬ (∀ i, i < 48 → (s.m 1).getLsbD i = true)) ∧ s.flag 0 = false) ∧
    State.flag { (r0 0) with h := { (r0 0).h with r := { (r0 0).h.r with inbox := [{ hdr := 2 ^ 63, payload := [], src := 1, dst := 0 }] } } } 0 = true := by
  decide +kernel

theorem witness_JumpsLinkAndGo : ((xs m0 [(1, 0x1000)]).x 1 + BitVec.ofInt 64 (-4)).toNat % 4 = 0 ∧
    ((xs m0 [(1, 0x1000)]).x 1 + BitVec.ofInt 64 (-2)).toNat % 4 ≠ 0 := by decide +kernel

/-- An extent of the group itself, and of one word more with a count of 0 and of 1. -/
theorem witness_LoopNopAndYield : (1 : BitVec 34).toNat ≤ m0.grp.words ∧ m0.grp.words < (2 : BitVec 34).toNat ∧ m0.x 1 = 0 ∧
    (xs m0 [(1, 1)]).x 1 ≠ 0 ∧ (∃ c k, m0.h.id = .thread c k) ∧ (m0.core? 1).isSome = true ∧ ∃ n, (r0 3).h.id = .rill n :=
  ⟨by decide, by decide, by decide +kernel, by decide +kernel, ⟨_, _, rfl⟩, by decide +kernel, _, rfl⟩

/-- A thread with a handler at 0x200100. -/
def handled : State := withH m0 fun h => { h with ctl := { h.ctl with tvec := 0x200100, tepc := 0x200000 } }

theorem witness_TakingATrapEntersTheHandler : handled.h.ctl.h = false ∧ handled.h.ctl.tvec ≠ 0 ∧ handled.h.board = [] := by decide +kernel

/-- The thread inside its handler. -/
def inHandler : State := withH handled fun h => { h with ctl := { h.ctl with h := true } }

theorem witness_EretReturns : inHandler.h.ctl.h = true ∧ inHandler.h.board = [] ∧ m0.h.ctl.h = false := by decide +kernel

theorem witness_UnhandledAndNestedTrapsStopTheThread :
    m0.h.id = .thread 1 0 ∧ m0.h.ctl.tvec = 0 ∧ m0.ctx? m0.h.task.ctx = some ctx1 ∧ inHandler.h.id = .thread 1 0 ∧
    inHandler.h.ctl.h = true ∧ inHandler.ctx? inHandler.h.task.ctx = some ctx1 := by decide +kernel

theorem witness_RillCoreRecovers : (r0 5).h.id = .rill 5 ∧ (r0 5).h.ctl.tvec = 0 := by decide +kernel

theorem witness_RdcReadsControlRegisters : m0.h.readCr 0x07F = some 0 ∧ isJournal m0.h 0x07F = true ∧ m0.h.t.post.clear 3 = true ∧
    m0.h.readCr 0x080 = none ∧ (∃ c k, m0.h.id = .thread c k) ∧ ∃ p, (r0 0).h.id = .rill p := by
  repeat' first | exact ⟨_, _, rfl⟩ | exact ⟨_, rfl⟩ | apply And.intro | decide +kernel

/-- The control registers at the ends of each range of Table 10.4, of a thread and of a rill core. -/
theorem witness_CoresHaveTheirControlRegisters :
    (∀ n, n ∈ [0, 2, 3, 8, 0xC, 0x10, 0x14, 0x18, 0x1D, 0x40, 0x7F] → m0.hasCr n) ∧ ¬ m0.hasCr 0x100 ∧
    (∀ n, n ∈ [0, 2, 8, 0xC, 0x18, 0x1D, 0x100, 0x106] → (r0 0).hasCr n) ∧ ¬ (r0 0).hasCr 3 ∧ ¬ (r0 0).hasCr 0x40 ∧
    m0.h.isThread = true ∧ m0.h.t.post.clear 3 = true ∧ (r0 0).h.isThread = false := by
  have h : m0.h.isThread = true := rfl
  have g : (r0 0).h.isThread = false := rfl
  simp only [State.hasCr, h, g, if_true, Bool.false_eq_true, if_false]
  decide +kernel

/-- A thread whose journal entry 15 holds a refused operation. -/
def refused15 : State := withH m0 fun h => { h with t := { h.t with post := { h.t.post with j := h.t.post.j.set 15 { v := true, ref := true, fault := 4, addr := 0x100008 } } } }

theorem witness_WrcWritesOneControlRegister :
    m0.h.t.post.later = [] ∧ m0.h.readCr 0x008 = some 0 ∧ isHandlerReg 0x008 = false ∧ inHandler.h.readCr 0x009 = some 0x200000 ∧ isHandlerReg 0x009 = true ∧
    inHandler.h.ctl.h = true ∧ m0.h.readCr 0x009 = some 0 ∧ m0.h.ctl.h = false ∧ m0.h.readCr 0x080 = none ∧
    (4 : Word).toNat % 8 ≤ 4 ∧ 4 < (5 : Word).toNat % 8 ∧ bits (16 : Word).toNat 4 3 < 3 ∧ bits (24 : Word).toNat 4 3 = 3 ∧
    refused15.h.id = .thread 1 0 ∧ (2 ^ 63 : Word).getLsbD 63 = true ∧ (refused15.h.t.post.j.getD 15 {}).ref = true ∧
    (m0.h.t.post.j.getD 15 {}).ref = false ∧ (0 : Word).getLsbD 63 = false := by decide +kernel

theorem witness_HaltStopsItsGroup : m0.h.id = .thread 1 0 ∧ m0.h.task.dbg = true ∧ m0.h.stat = .ready ∧
    m0.ctx? m0.h.task.ctx = some ctx1 ∧ ctx1.dbg = true ∧ ctx1.hgrp < 16 ∧ m0.h.board = [] ∧ (r0 0).h.task.dbg = false := by decide +kernel

/-- No register of the thread is bound, so the vector statements cover every operand. -/
theorem unbound_m0 (l : List (Fin 32)) : Unbound m0 l := fun r _ => by
  unfold State.stream?; split <;> rfl

theorem witness_VectorIntegerLanes : Unbound m0 [31, 24, 0, 31] := unbound_m0 _

theorem witness_VectorSelectsAndMoves : Unbound m0 [31, 24, 0] ∧ ((xs m0 [(1, 47)]).x 1).toNat ≤ 47 ∧ 47 < ((xs m0 [(1, 48)]).x 1).toNat :=
  ⟨unbound_m0 _, by decide +kernel, by decide +kernel⟩

theorem witness_MaskInstructionsCompute : Unbound m0 [24, 31] := unbound_m0 _

theorem witness_VectorFloatComputes : Unbound m0 [31, 24, 0, 31] := unbound_m0 _

theorem witness_VectorConversionsAndBlocks : Unbound m0 [31, 24, 0] := unbound_m0 _

/-- No lane selected, and lane 47 alone. -/
theorem witness_ReductionsFollowTheTree : Unbound m0 [31] ∧ (List.replicate 48 (none : Option Nat)).length = 48 ∧
    (∀ p, p ∈ List.replicate 48 (none : Option Nat) → p = none) ∧
    (let l := List.replicate 47 (none : Option Nat) ++ [some 9]
     l.length = 48 ∧ l[47]? = some (some 9) ∧ ∀ j, j < 48 → j ≠ 47 → l[j]? = some none) :=
  ⟨unbound_m0 _, by decide +kernel, fun _ h => List.eq_of_mem_replicate h, by decide +kernel⟩

/-- v31 bound to a stream of two images. -/
def bound31 (q : List VWord) (popped : Nat) : State :=
  withScr m0 fun c => { c with streams := [{ vreg := 7, slot := 0, gen := 0, queue := q, popped := popped, total := 2 }] }

theorem witness_BoundRegistersArePopped :
    (let s := bound31 [5] 1
     s.h.t.popped = false ∧ s.stream? 31 = some { vreg := 7, slot := 0, gen := 0, queue := [5], popped := 1, total := 2 } ∧ s.stream? 24 = none) ∧
    (let s := bound31 [] 1
     s.h.t.popped = false ∧ s.stream? 31 = some { vreg := 7, slot := 0, gen := 0, queue := [], popped := 1, total := 2 } ∧ s.stream? 24 = none) ∧
    (let s := bound31 [] 2
     s.h.t.popped = false ∧ s.stream? 31 = some { vreg := 7, slot := 0, gen := 0, queue := [], popped := 2, total := 2 } ∧ s.stream? 24 = none) := by
  decide +kernel

/-! ### Memory -/

/-- A write held by the core. -/
def heldStore : Later := { entry := 0, pc := 0x200000, what := .store 0x100008 8 7 }

theorem witness_LoadsReadMemory :
    (let s := xs m0 [(1, 0x100FF8), (2, 0x101000)]
     s.h.t.post.clear (waitOfPfx (some 3)) = true ∧ ((s.x 1 + BitVec.ofInt 64 1).toNat) % 8 ≠ 0 ∧ s.loads 0x100FF8 8 0 ∧ s.loads 0x600FF8 8 0 ∧
     s.h.t.post.later = [] ∧ lockJudge false 0 0x300000 8 s.locks = .ok ∧ s.reaches 0x300000 .load = .fault 6 ∧ s.reaches (2 ^ 57) .load = .fault 0) := by
  refine ⟨by decide +kernel, by decide +kernel,
    ⟨by decide +kernel, by decide +kernel, priv, 0x100FF8, by decide +kernel, .inl ⟨by decide +kernel, by decide +kernel, by unfold State.fills; decide +kernel, by decide +kernel⟩⟩,
    ⟨by decide +kernel, by decide +kernel, scrA, 0x600FF8, by decide +kernel, .inr ⟨by decide +kernel, by decide +kernel, ?_, by decide +kernel⟩⟩,
    by decide +kernel, by decide +kernel, by decide +kernel, by decide +kernel⟩
  unfold State.mayRead; decide +kernel

theorem mayWrite_of (s : State) (b o n : Nat) (h : (s.h.t.scr.inWindows b o n && !s.h.t.scr.onRing b o n && !s.h.t.scr.onArmed b o n &&
    decide (s.h.t.scr.landings b o n = []) && decide (lockJudge true (b + 1) o n s.locks = .ok)) = true) : s.mayWrite b o n := by
  simp only [Bool.and_eq_true, Bool.not_eq_true', decide_eq_true_eq] at h
  exact ⟨h.1.1.1.1, h.1.1.1.2, h.1.1.2, h.1.2, h.2⟩

theorem witness_StoresWriteTheirBytes : Canonical m0 ∧ m0.h.t.post.clear (waitOfPfx none) = true ∧ 0x100FF9 % 2 ≠ 0 ∧
    lockJudge true 0 0x100FF8 8 m0.locks = .ok ∧ m0.reaches 0x100FF8 .store = .ok priv 0x100FF8 ∧ priv.kind ≠ 5 ∧
    m0.letsGo ∧ 0x100FF8 + 8 ≤ priv.va + pageBytes priv.size ∧ m0.cacheRoom ∧ m0.settled 0x100FF8 ∧
    lockJudge true 0 0x600FF8 8 m0.locks = .ok ∧ m0.reaches 0x600FF8 .store = .ok scrA 0x600FF8 ∧ scrA.kind = 5 ∧ winRaw scrA.win = true ∧
    m0.onScr 0x600FF8 = true ∧ m0.mayWrite (winBuf scrA.win) (m0.scrOffset 0x600FF8) 8 ∧
    (let s : State := { withH m0 fun h => { h with t := { h.t with post := { h.t.post with later := [heldStore] } } } with
       work := { m0.work with ctxs := [{ ctx1 with stopping := true }] } }
     s.onScr 0x100FF8 = false ∧ s.isStopping s.h.task.ctx = true ∧ s.h.t.post.later = heldStore :: []) := by
  repeat' first | exact test_canonical | exact fun _ h => by cases h | exact mayWrite_of _ _ _ _ (by decide +kernel) | (unfold State.cacheRoom; decide +kernel) | apply And.intro | decide +kernel

/-- A CONST page refuses a store with PROT; the journal has an entry free, none, and refused ones alone. -/
theorem witness_RefusedStoresArePosted :
    (let s := xs m0 [(1, 0x200FF8)]
     s.h.t.post.clear 0 = true ∧ s.h.t.post.later = [] ∧ s.isStopping s.h.task.ctx = false ∧ lockJudge true 0 0x200FF8 8 s.locks = .ok ∧ s.reaches 0x200FF8 .store = .fault 6 ∧
     s.regionOf s.h.task.ctx 0x200FF8 = some (region cnst) ∧ (region cnst).kind ≠ 5 ∧ s.h.t.post.freeEntry = some 0 ∧
     0 < s.h.t.post.j.size ∧ s.ctx? s.h.task.ctx = some ctx1) ∧
    (let s := withH m0 fun h => { h with t := { h.t with post := { h.t.post with j := Vector.replicate 16 { v := true, out := 1 } } } }
     s.h.t.post.freeEntry = none ∧ s.h.t.post.allRefused = false) ∧
    (let s := withH m0 fun h => { h with t := { h.t with post := { h.t.post with j := Vector.replicate 16 { v := true, ref := true } } } }
     s.h.t.post.freeEntry = none ∧ s.h.ctl.h = false ∧ s.h.t.post.allRefused = true ∧ s.h.t.post.firstRefused = some 0) := by
  decide +kernel

theorem witness_VectorLoadsStoresAndSpills :
    (Canonical m0 ∧ Unbound m0 [5] ∧ 0x100001 % 64 ≠ 0 ∧ m0.h.t.popped = false ∧ 0x100F40 + 192 ≤ priv.va + pageBytes priv.size ∧
      lockJudge false 0 0x100F40 192 m0.locks = .ok ∧ m0.reaches 0x100F40 .load = .ok priv 0x100F40 ∧ m0.isLost 0x100F40 192 = false ∧
      m0.fills 0x100F40 192 ∧ m0.onScr 0x100F40 = false ∧ m0.letsGo ∧
      lockJudge true 0 0x100F40 192 m0.locks = .ok ∧ m0.reaches 0x100F40 .store = .ok priv 0x100F40) ∧
    (m0.onScr 0x9000C0 = true ∧ m0.reaches 0x9000C0 .load = .ok scrB 0x9000C0 ∧ m0.reaches 0x9000C0 .store = .ok scrB 0x9000C0 ∧ scrB.kind = 5 ∧ m0.scrOffset 0x9000C0 % winAlign scrB.win = 0 ∧
      m0.mayRead (winBuf scrB.win) (winReach scrB.win (m0.scrOffset 0x9000C0)).1 (winReach scrB.win (m0.scrOffset 0x9000C0)).2 ∧
      m0.mayRead 1 (m0.h.ctl.sptr.toNat + m0.scrOffset 0x9000C0 / 192) 1 ∧
      m0.mayWrite (winBuf scrB.win) (winReach scrB.win (m0.scrOffset 0x9000C0)).1 (winReach scrB.win (m0.scrOffset 0x9000C0)).2) ∧
    63 < (64 : Fin 512).val ∧ (63 : Fin 512).val ≤ 63 := by
  repeat' first | exact test_canonical | exact unbound_m0 _ | exact mayWrite_of _ _ _ _ (by decide +kernel) | (unfold State.fills; decide +kernel) | apply And.intro | decide +kernel

theorem witness_FencesAndMaintenanceComplete :
    5 < (6 : Fin 8).val ∧ (5 : Fin 8).val ≤ 5 ∧ (∀ e, e ∈ m0.h.t.post.j.toList → e.v = true → e.hscope ≤ 5 → e.out = 0) ∧
    (let s := withH m0 fun h => { h with t := { h.t with post := { h.t.post with j := h.t.post.j.set 3 { v := true, out := 1, hscope := 5 } } } }
     ∃ e, e ∈ s.h.t.post.j.toList ∧ e.v = true ∧ e.hscope ≤ 5 ∧ e.out ≠ 0) ∧
    (∀ l, l ∈ m0.h.t.post.later → l.unresolved = false) ∧ (∀ l, l ∈ m0.h.t.post.later → l.isStore = false) ∧
    (let s := withH m0 fun h => { h with t := { h.t with post := { h.t.post with later := [heldStore, { entry := 0, pc := 0, what := .range 0 0x300000 0x300040 }] } } }
     (∃ l, l ∈ s.h.t.post.later ∧ l.isStore = true) ∧ ∃ l, l ∈ s.h.t.post.later ∧ l.unresolved = true) ∧
    (∀ b, b ∈ m0.lat.writeBacks → b.hart ≠ m0.h.id) ∧
    (let s : State := { m0 with lat := { m0.lat with writeBacks := [{ hart := .thread 1 0, ctx := 1, lo := 0x100000, hi := 0x100040, inval := false }] } }
     ∃ b, b ∈ s.lat.writeBacks ∧ b.hart = s.h.id) ∧
    m0.h.t.post.clear (waitOfPfx (some 3)) = true ∧ (m0.x 2).toNat = 0 ∧
    (let s := xs m0 [(1, 0x100000), (2, 0x1000)]
     (s.x 2).toNat ≠ 0 ∧ (s.x 1).toNat + (s.x 2).toNat ≤ 2 ^ 57 ∧ s.reaches (s.x 1).toNat .maint = .ok priv 0x100000 ∧
     (s.x 1).toNat + (s.x 2).toNat ≤ priv.va + pageBytes priv.size) := by
  and_intros <;> first | decide +kernel | exact ⟨{ v := true, out := 1, hscope := 5 }, by decide +kernel, by decide +kernel, by decide +kernel, by decide +kernel⟩ | exact ⟨_, List.mem_cons_self .., rfl⟩

/-! ### Rill cores -/

/-- A rill core of node `n` with scalar registers and the bytes of its data memory. -/
def rill (n : Nat) (l : List (Fin 32 × Word)) (dmem : List Host.Cell := []) : State :=
  withH (xs (r0 n) l) fun h => { h with r := { h.r with dmem := dmem } }

/-- The core with the header of its current message. -/
def withHdr (s : State) (hdr : Nat) (left : List Nat := []) : State :=
  withH s fun h => { h with r := { h.r with levels := h.r.levels.set 0 { active := true, hdr := hdr, left := left } } }

theorem canonical_rill (n : Nat) : Canonical (r0 n) :=
  ⟨by rfl, by rfl, by show Hart.memWf _ = true; rfl, fun _ h => by simp [r0] at h, fun _ h => by simp [r0] at h⟩

/-- A send from core 0 to endpoint 0x97 of its package, with 31 payload words at the end of data memory; a full outbox; and the
operands that are refused. -/
theorem witness_SendAndReplyBuildTheirMessage :
    (let s := rill 0 [(1, 0x97), (2, 31 * 2 ^ 56), (3, 0x40000 - 248)]
     s.h.id = .rill 0 ∧ (s.x 1).toNat < 2 ^ 28 ∧ endpointOk ((s.x 1).toNat % 1024) = true ∧ bits (s.x 2).toNat 62 61 ≠ 3 ∧
     isPort ((s.x 1).toNat % 1024) = false ∧ ¬ (0x100 ≤ (s.x 1).toNat % 1024 ∧ (s.x 1).toNat % 1024 < 0x210) ∧ (s.x 1).toNat % 1024 ≠ 0x3FF ∧
     (s.x 1).toNat / 1024 = 0 / 1024 ∧ InData (s.x 3).toNat 248 8 ∧ s.outboxFull 0 = false) ∧
    ({ rill 0 [] with lat := { net := List.replicate 16 { src := .rill 0, ctx := 0, dest := .node 1, body := .rill { hdr := 0, payload := [], src := 0, dst := 1 } } } } : State).outboxFull 0 = true ∧
    2 ^ 28 ≤ ((rill 0 [(1, 2 ^ 28)]).x 1).toNat ∧ endpointOk 0x98 = false ∧ bits (3 * 2 ^ 61) 62 61 = 3 ∧
    (let cur := 5 * 2 ^ 20 + 3
     (((withHdr (r0 0) cur).h.r.levels.getD (withHdr (r0 0) cur).h.r.level {}).hdr = cur ∧ cur ≠ 0 ∧ cur.testBit 63 = false)) ∧
    ((r0 0).h.r.levels.getD (r0 0).h.r.level {}).hdr = 0 := by
  unfold InData; decide +kernel

theorem witness_ReceiveFormsReadAndWriteData :
    (let s := withHdr (rill 0 [(1, 0x3FFF8), (2, 0x40000), (3, 4)]) 1 [7, 8]
     s.h.id = .rill 0 ∧ s.h.r.level < s.h.r.levels.size ∧ (s.h.r.levels.getD s.h.r.level {}).left = 7 :: [8] ∧ InData (s.x 1).toNat 8 8 ∧
     ((s.x 2).toNat % 8 = 0 ∧ 0x40000 < (s.x 2).toNat + 8) ∧ (s.x 3).toNat % 8 ≠ 0) ∧
    ((r0 0).h.r.levels.getD (r0 0).h.r.level {}).left = [] ∧ Canonical (r0 0) :=
  ⟨by unfold InData; decide +kernel, by decide +kernel, canonical_rill 0⟩

/-- A SERVICE core whose level 0 ends while a message for level 2 waits and a handler of level 1 stands; one without a message;
and one with neither. -/
theorem witness_MretRunsTheNextHandler :
    let lv : Vector RLevel 4 := ((Vector.replicate 4 {}).set 1 { active := true, pc := 0x40 }).set 2 {}
    let msg : RMsg := { hdr := 2 ^ 20, payload := [1, 2], src := 1, dst := 0 }
    let idle : Rill := { mode := .service, level := 1, levels := Vector.replicate 4 {}, dtab := [(0, 2 ^ 63 + 2 * 2 ^ 61 + 0x80)] }
    (r0 0).h.board = [] ∧ (r0 0).h.stat ≠ .exited ∧
    ({ idle with inbox := [msg] }.nextLevel = some 2 ∧ { idle with inbox := [msg] }.oldest 2 = some msg ∧
      { idle with inbox := [msg] }.select msg = some (2, 0x80)) ∧
    ({ idle with levels := lv, level := 0 }.nextLevel = none ∧ { idle with levels := lv, level := 0 }.busy = some 1 ∧ 1 ≠ 0) ∧
    (idle.nextLevel = none ∧ idle.busy = none) := by
  decide +kernel

/-- The test package with bank entry 5 valid, and a bank unit's queue entry in data memory. -/
theorem witness_DispatchTableAndBankQueue :
    (let s := rill 0x40 [(1, 255), (2, 2 ^ 63 + 0x80)]
     s.h.id = .rill 0x40 ∧ ¬ (255 < (s.x 1).toNat ∨ bits (s.x 2).toNat 60 20 ≠ 0 ∨ (s.x 2).toNat % 4 ≠ 0 ∨
       ((s.x 1).toNat = 0 ∧ (s.x 2).toNat.testBit 63 = false) ∨ ¬ (s.h.r.mode = .start ∨ s.h.r.mode = .recovery))) ∧
    255 < ((rill 0 [(1, 256)]).x 1).toNat ∧ rillKind 0x3F ≠ 1 ∧ rillKind 0x40 = 1 ∧ rillKind 0x7F = 1 ∧ rillKind 0x80 ≠ 1 ∧
    (let u0 : BankUnit := {}
     let s : State := { rill 0x40 [(1, 0x3FFC0)] [(0x3FFC7, 0x28)] with dev := { banks := [(0, { u0 with entries := u0.entries.set 5 { v := true } })] } }
     let w := Mem.words s.h.r.dmem (s.x 1).toNat 8
     InData (s.x 1).toNat 64 64 ∧ (bqUnitOf s.h.r.dmem w).entry = 5 ∧ ((s.bank (quarterOf 0x40 * 128 + (bqUnitOf s.h.r.dmem w).ch * 16 + (bqUnitOf s.h.r.dmem w).bank)).entries.getD (bqUnitOf s.h.r.dmem w).entry {}).v = true ∧
     bqReserved w = false ∧ InData (nth w 5) 64 8 ∧ s.h.r.bq.length < 256 ∧ s.h.r.brec = []) ∧
    (let w := [0, 1, 0, 0, 0, 0, 0, 0]; bqReserved w = true) ∧
    256 ≤ (withH (r0 0x40) fun h => { h with r := { h.r with bq := List.replicate 256 ⟨false, 0, 0, 0, 0, 0, 0, [], [], 0, 0, [], none⟩ } }).h.r.bq.length ∧
    (withH (r0 0x40) fun h => { h with r := { h.r with brec := [3, 4] } }).h.r.brec = 3 :: [4] := by
  unfold InData; decide +kernel

theorem witness_RouterAdderCombinesBlocks :
    (let s := rill 0x3F [(1, 0x3FF40), (2, 0), (3, 0x3FFC0)]
     s.h.id = .rill 0x3F ∧ rillKind 0x3F = 0 ∧ rillKind 0x40 ≠ 0 ∧ InData (s.x 1).toNat 192 64 ∧ InData (s.x 2).toNat 192 64 ∧
     InData (s.x 3).toNat 64 64 ∧ ((rill 0 [(1, 32)]).x 1).toNat % 64 ≠ 0) ∧ Canonical (r0 0x3F) :=
  ⟨by unfold InData; decide +kernel, canonical_rill _⟩

/-! ### Lattice instructions -/

/-- A SUMF32 cell, an 8-byte FILL cell, a landing page and a FILL cell of 8 bytes from memory take the operation; the last
generation, and one past it; an address that is not aligned. -/
theorem witness_PostedOperationsSendOneMessage :
    (m0.h.t.pj = none ∧ m0.h.t.post.freeEntry = some 0 ∧ m0.h.t.post.clear 3 = true ∧ m0.letsGo ∧
      m0.mustStay m0.h (latHome m0.phys 9 sum.csize 0x800FC0).dest true = false ∧ m0.fillRoom 4096 ∧ 0x800002 % cellBytes 9 0 ≠ 0 ∧
      (65535 : Word).toNat ≤ 65535 ∧ 65535 < (65536 : Word).toNat) ∧
    (badType 9 0 = false ∧ m0.reaches 0x800FC0 .latUpdate = .ok sum 0x800FC0 ∧ 0x800FC0 % cellBytes 9 0 = 0 ∧
      LatKind.refuses { ty := some 9, sz := none, gang := false } sum = false ∧ (m0.homeOf sum 0x800FC0 0x800FC0).isSome = true) ∧
    (m0.reaches 0x400FF8 .latUpdate = .ok fill8 0x400FF8 ∧ LatKind.refuses { ty := some 8, sz := some 0, gang := true } fill8 = false ∧
      (m0.homeOf fill8 0x400FF8 0x400FF8).isSome = true ∧ Unbound m0 [31]) ∧
    (m0.reaches 0x700000 .latUpdate = .ok gangPage 0x700000 ∧ LatKind.refuses { ty := some 8, sz := some 0, gang := true } gangPage = false) ∧
    (m0.loads 0x100FF8 8 0 ∧ 0x100FF8 % (8 * 2 ^ 0) = 0 ∧
      (m0.translate (some m0.coreId) (physDie m0.phys) m0.h.task.ctx m0.h.task.num 0x100FF8 .load).1 = m0) ∧ badType 8 9 = false := by
  refine ⟨by unfold State.letsGo State.fillRoom; decide +kernel, by decide +kernel, ⟨by decide +kernel, by decide +kernel, by decide +kernel, unbound_m0 _⟩, by decide +kernel,
    ⟨⟨by decide +kernel, by decide +kernel, priv, 0x100FF8, by decide +kernel, .inl ⟨by decide +kernel, by decide +kernel, by unfold State.fills; decide +kernel, by decide +kernel⟩⟩, by decide +kernel, by decide +kernel⟩, by decide +kernel⟩

/-- JOINV of lanes 0 and 47 into one unit, of no lane, and FREEZE.R of a whole page, of no bytes and of too many. -/
theorem witness_JoinvAndFreezeRangeSendOneMessageEach :
    (let s := m0.setM 1 (BitVec.ofNat 48 (2 ^ 47 + 1))
     s.h.t.pj = none ∧ s.h.t.post.freeEntry = some 0 ∧ s.h.t.post.later = [] ∧ s.isStopping s.h.task.ctx = false ∧
     s.mustStay s.h (.unit 0x800000) true = false ∧ s.h.t.post.sent = [] ∧ joinvType 9 = true ∧ 0x800000 % cellBytes 9 0 = 0 ∧ s.m 1 ≠ 0 ∧ s.m 2 = 0 ∧
     ((List.range 48).filter fun j => (s.m 1).getLsbD j) = [0, 47] ∧ sum.kind = 3 ∧ sum.ctype = 9 ∧
     ∀ j, j ∈ [0, 47] → s.translate (some s.coreId) (physDie s.phys) s.h.task.ctx s.h.task.num
       ((0x800000 + lane 32 (s.v 3) j * cellBytes 9 0) % 2 ^ 64) .latUpdate = (s, .ok sum 0x800000) ∧
       unitOf 9 sum.csize 0x800000 = 0x800000 ∧
       latHome s.phys 9 sum.csize 0x800000 = { latHome s.phys 9 sum.csize 0x800000 with pa := 0x800000 }) ∧
    (m0.x 1).toNat = 0 ∧ 2 ^ 32 ≤ (2 ^ 32 : Word).toNat ∧
    (0 < 0x1000 ∧ 0x1000 < 2 ^ 32 ∧ 0x300000 + 0x1000 ≤ 2 ^ 57 ∧ m0.reaches 0x300000 .latUpdate = .ok cnt 0x300000 ∧ cnt.kind = 3 ∧
      cnt.va ≤ 0x300000 ∧ 0x300000 + 0x1000 ≤ cnt.va + pageBytes cnt.size) := by
  decide +kernel

/-- A state with an answer in the reply slot. -/
def answered (r : Reply) : State := withH m0 fun h => { h with reply := some r }

theorem witness_ThresholdReadsParkAndComplete :
    (answered (.value 4 9)).h.reply = some (.value 4 9) ∧ (answered (.trap 0x0D 8 0)).h.reply = some (.trap 0x0D 8 0) ∧ m0.h.reply = none ∧
    badType 1 0 = false ∧ 0x300000 % cellBytes 7 0 = 0 ∧ (0 : Fin 8).val ≤ 4 ∧ (28 : Fin 32).val + 4 ≤ 32 ∧ (30 : Fin 32).val < 31 ∧
    m0.h.t.post.later = [] ∧ m0.mustStay m0.h (latHome m0.phys 8 fill8.csize 0x400008).dest false = false ∧ triggersOk 8 4 9 0 (m0.candidates 28 4) = false ∧
    (0x400008 < 2 ^ 57 ∧ m0.h.t.post.clear 3 = true ∧ m0.reaches 0x400008 .latRead = .ok fill8 0x400008 ∧
      LatKind.refuses { ty := some 8, sz := some 0, gang := true } fill8 = false ∧ (m0.homeOf fill8 0x400008 0x400008).isSome = true ∧
      triggersOk 8 0 0 0 (m0.candidates 0 0) = true) := by
  decide +kernel

theorem witness_FrozenReadsParkAndComplete :
    (answered (.value 0 9)).h.reply = some (.value 0 9) ∧ (answered (.trap 0x13 8 0)).h.reply = some (.trap 0x13 8 0) ∧
    (let one : LineRes := { part := 0, value := 1, cause := 0, addr := 0, detail := 0 }
     (answered (.lines 2 [one])).h.reply = some (.lines 2 [one]) ∧ [one].length < 2 ∧ 1 ≤ [one].length ∧
     ∀ r, r ∈ [one] → r.part < 1 → r.cause = 0) ∧
    (m0.h.reply = none ∧ m0.h.t.post.later = [] ∧ m0.mustStay m0.h (latHome m0.phys 7 cnt.csize 0x300FC0).dest false = false ∧ 0x300FC0 % 64 = 0 ∧ 0x300FC0 < 2 ^ 57 ∧ m0.reaches 0x300FC0 .latRead = .ok cnt 0x300FC0 ∧ cnt.kind = 3 ∧
      (m0.homeOf cnt 0x300FC0 0x300FC0).isSome = true ∧ m0.copyOf 0x300FC0 5 = none) ∧
    (let s : State := { m0 with lat := { m0.lat with cache := [{ cluster := 0, line := 0x300FC0 / 64, dirty := false, gen := some 5, img := 7 }] } }
     (s.copyOf 0x300FC0 5).isSome = true) ∧ Unbound m0 [31] := by
  repeat' first | exact unbound_m0 _ | apply And.intro | decide +kernel

/-! ### Engine, token and task instructions -/

/-- No AFTER token, and the task's own priority. -/
def noAft : After := ⟨none, none, 15⟩

/-- A macro armed for I8 at the start of W, and ring 7 of 64-byte tiles. -/
def armed1 : Armed := { off := 0, fmt := 5, region := 0, q := [], col := [], csum := [] }
def engine : State := withScr m0 fun c => { c with armed := [armed1], rings := c.rings.set 7 { v := true, size := 0x400, base := 0x70000, tile := 64 } }

theorem mayIssue_of (s : State) (w : Fin 4) (a : After) (r : List Rng) (h : (!badPri a && decide (s.h.t.post.later = []) && decide ((s.registered r).length + s.h.t.rlt.length ≤ 4) &&
    decide (rangeClash (s.aftNames a) s.h.ownLocks (s.registered r) = none) && decide (s.slotsHeld s.coreId s.h.coreSlot.2 < 32) &&
    s.h.t.post.clear w.val) = true) : s.mayIssue w a r := by
  simp only [Bool.and_eq_true, Bool.not_eq_true', decide_eq_true_eq] at h
  exact ⟨h.1.1.1.1.1, h.1.1.1.1.2, h.1.1.1.2, h.1.1.2, h.1.2, h.2⟩

/-- An operation of the test thread. -/
def op (slot kind : Nat) (work : OpWork) (st : OpState := .queued) : Op :=
  { core := 1, slot := slot, gen := 0, thread := 0, task := 7, ctx := 1, kind := kind, prio := 11, work := work, st := st }

/-- The state with operations. -/
def withOps (s : State) (l : List Op) : State := { s with work := { s.work with ops := l } }

/-- The thread with a range-lock entry over all of C that operation 5 writes. -/
def locked : State := withH m0 fun h => { h with t := { h.t with rlt := [(0, ⟨false, true, 3, 5, 0, 0, 0x40000, 0, false⟩)] } }

theorem witness_MatrixInstructionsIssue :
    (engine.h.t.scr.rings[(7 : Fin 8)].v = true ∧ 1 * mxBpb 5 ≤ engine.h.t.scr.rings[(7 : Fin 8)].tile ∧ mxAccepts 4 5 = true ∧
      (∀ j, j < 1 * 1 → engine.h.t.scr.macroAt (0 + j * 0x6000) = some armed1 ∧ armed1.fmt = 5) ∧
      engine.h.t.scr.inOne 2 0 ((1 - 1) * 0 + 1 * mxN 5 * 4) = true ∧
      engine.mayIssue 0 noAft [⟨3, 0, 0 + ((1 - 1) * 0 + 1 * mxN 5 * 4), true, false⟩]) ∧
    (m0.h.t.scr.inOne 2 0x3FFC0 64 = true ∧ m0.mayIssue 0 noAft [⟨3, 0x3FFC0, 0x3FFC0 + 64, true, false⟩] ∧ m0.h.t.rlt = [] ∧
      m0.h.t.post.later = [] ∧ badPri noAft = false ∧ 32 ≤ (withOps m0 ((List.range 32).map fun i => op i 1 (.mxz 1 1 0 0))).slotsHeld m0.coreId m0.h.coreSlot.2) ∧
    (locked.h.t.post.later = [] ∧ locked.h.t.rlt = [(0, ⟨false, true, 3, 5, 0, 0, 0x40000, 0, false⟩)] ∧ (5, 0) ∉ locked.aftNames noAft ∧ 0 < 0x3FFC0 + 64 ∧ 0x3FFC0 < 0x40000) ∧
    (let src : Opnd := { space := 3, lo := 0, n := 192, wr := false }
     let dst : Opnd := { space := 2, lo := 0, n := 48 * mxeSize 0, wr := true }
     src.meets dst = false ∧ m0.h.t.scr.refused [src, dst, { space := 2, lo := 0, n := 0, wr := true }] = none ∧
     m0.mayIssue 0 noAft [⟨3, 0, 0 + src.n, false, false⟩, ⟨2, 0, 0 + dst.n, true, false⟩, ⟨2, 0, 0 + 0, true, false⟩]) := by
  repeat' first | exact mayIssue_of _ _ _ _ (by decide +kernel) | apply And.intro | decide +kernel

/-- Descriptors in the PRIV page: one element of 64 bytes at 0x100000, and a gather of one of 16 rows at 0x100040; a collective of 48
FP32 elements at 0x100080; a range of 1,024 bytes for a bank call at 0x1000C0. -/
def blocks : State :=
  { m0 with
    mem := [(0x100000, 64), (0x100040, 64), (0x100048, 1), (0x10004C, 16), (0x100051, 1), (0x100052, 0x10), (0x100088, 48), (0x1000C2, 0x30),
            (0x1000C9, 4)]
    h := { m0.h with t := { m0.h.t with task := { m0.h.t.task with gang := some 3 } } }
    work := { m0.work with gangs := [{ num := 3, ctx := 1, members := [7, 8], placed := true }] }
    dev := { m0.dev with banks := [(0, { m0.bank 0 with entries := (m0.bank 0).entries.set 15 { v := true, nrmask := 1 } })] } }

theorem fills_of (s : State) (h0 : (s.linksOut.isEmpty && s.dev.banks.all (fun b => b.2.phase != .unit)) = true) (pa n : Nat) :
    s.fills pa n := by
  obtain ⟨hl, h⟩ := Bool.and_eq_true_iff.1 h0
  have g : ∀ a, s.bankHeld a = false := fun a => by
    simp only [State.bankHeld, Bool.and_eq_false_iff]
    refine .inr (beq_eq_false_iff_ne.2 ?_)
    simp only [State.bank]
    generalize s.dev.banks = l at h ⊢
    induction l with
    | nil => simp [assocGet]
    | cons p l ih =>
      simp only [List.all_cons, Bool.and_eq_true] at h
      simp only [assocGet]
      split
      · exact bne_iff_ne.1 h.1
      · exact ih h.2
  simp [State.fills, State.fillWaits, State.dramWaits, State.routed, hl, g]

theorem readsBlock_of (s : State) (va : Nat) (l : Leaf) (pa : Nat) (w : List Nat) (hb : (s.linksOut.isEmpty && s.dev.banks.all (fun b => b.2.phase != .unit)) = true) (h : va % 64 = 0 ∧ va + 64 ≤ 2 ^ 57 ∧ lockJudge false 0 va 64 s.locks = .ok ∧
    s.reaches va .load = .ok l pa ∧ l.kind ≠ 5 ∧ s.isLost pa 64 = false ∧ w = Mem.words s.mem pa 8) : s.readsBlock va w :=
  ⟨h.1, h.2.1, h.2.2.1, l, pa, h.2.2.2.1, h.2.2.2.2.1, h.2.2.2.2.2.1, fills_of s hb _ _, h.2.2.2.2.2.2⟩

/-- A ring push by CPY to ring 7, a copy between views, CPYA, CPYG and CPYS between views, a stream of W and a remote copy of W. -/
theorem witness_CopiesAndStreamsIssue :
    (badSpaces 4 1 7 = false ∧ engine.badPush 4 7 64 = false ∧ engine.operandsOk [{ space := 1, lo := 0x6000, n := 64, wr := false }] ∧
      engine.mayIssue 3 noAft (copyRanges { space := 1, lo := 0x6000, n := 64, wr := false } { space := 4, lo := 0, n := 64, wr := true } true)) ∧
    (badSpaces 3 1 0 = false ∧ m0.operandsOk [{ space := 1, lo := 0x6000, n := 64, wr := false }, { space := 3, lo := 0x3FFC0, n := 64, wr := true }] ∧
      m0.mayIssue 3 noAft (copyRanges { space := 1, lo := 0x6000, n := 64, wr := false } { space := 3, lo := 0x3FFC0, n := 64, wr := true } true)) ∧
    (let d := [64, 0, 0, 0, 0, 0, 0, 0]
     let p := affineOf d
     blocks.readsBlock 0x100000 d ∧ nonCanon (firstBytes 3 0 1 0) = none ∧ affineReserved d = false ∧ 0 < p.e ∧ p.e ≤ 4096 ∧
     p.interval 0 p.ss = (0, 64) ∧ p.interval 0 p.ds = (0, 64) ∧ p.ds = [0, 0, 0, 0] ∧ p.e % (convSizes 7).1 = 0 ∧
     blocks.operandsOk [{ space := 1, lo := 0, n := 64, wr := false }, { space := 3, lo := 0, n := 64, wr := true }] ∧
     blocks.mayIssue 0 noAft (copyRanges { space := 1, lo := 0, n := 64, wr := false } { space := 3, lo := 0, n := 64, wr := true } false) ∧
     (∀ q, q ∈ blocks.h.t.scr.streams → q.vreg ≠ 7) ∧ blocks.operandsOk [{ space := 1, lo := 0, n := 64, wr := false }] ∧
     blocks.mayIssue 0 noAft [⟨1, 0, 0 + 64, false, false⟩]) ∧
    (let d := [64, 1 + 16 * 2 ^ 32, 0x100100, 0, 0, 0, 0, 0]
     let tab : Opnd := { space := 0, lo := 0x100100, n := 4, wr := false }
     let src := fun (x : Nat) => ({ space := 1, lo := 0, n := x * 64, wr := false } : Opnd)
     let dst := fun (x : Nat) => ({ space := 3, lo := 0, n := x * 64, wr := true } : Opnd)
     blocks.readsBlock 0x100040 d ∧ gatherReserved d = false ∧ nth d 2 % 4 = 0 ∧ (src 16).meets (dst 1) = false ∧
     nonCanon [tab, src 16, dst 1] = none ∧ blocks.h.t.scr.refused [src 16, dst 1] = none ∧
     blocks.mayIssue 0 noAft (⟨0, 0x100100, 0x100100 + 4, false, false⟩ :: copyRanges (src 16) (dst 1) true) ∧
     nonCanon [tab, src 1, dst 16] = none ∧ blocks.h.t.scr.refused [src 1, dst 16] = none ∧
     blocks.mayIssue 0 noAft (⟨0, 0x100100, 0x100100 + 4, false, false⟩ :: copyRanges (src 1) (dst 16) false)) ∧
    (m0.operandsOk [{ space := 1, lo := 0, n := 64, wr := false }] ∧ 0x400000 + 64 ≤ 2 ^ 57 ∧ m0.mayIssue 0 noAft [⟨1, 0, 0 + 64, false, false⟩]) := by
  repeat' first | exact mayIssue_of _ _ _ _ (by decide +kernel) | exact readsBlock_of _ _ priv 0x100000 _ (by decide +kernel) (by decide +kernel) | exact readsBlock_of _ _ priv 0x100040 _ (by decide +kernel) (by decide +kernel) | (unfold State.operandsOk; decide +kernel) | apply And.intro | decide +kernel

theorem witness_BankCallsAndCollectivesIssue :
    (let e := (blocks.entryTable (physPkg blocks.phys)).getD 15 {}
     let words := [0x300000, 1024, 0, 0, 0, 0, 0, 0]
     let args := [0, 0, 0, 0, 0, 0, 0, 0]
     let rs := bankRanges words 1
     blocks.cacheRoom ∧ e.v = true ∧ e.nrmask.testBit 0 = true ∧ blocks.readsBlock 0x100100 args ∧ blocks.readsBlock 0x1000C0 words ∧
     blocks.translate (some blocks.coreId) (physDie blocks.phys) 1 7 0x100100 .load = (blocks, .ok priv 0x100100) ∧
     blocks.translate (some blocks.coreId) (physDie blocks.phys) 1 7 0x1000C0 .load = (blocks, .ok priv 0x1000C0) ∧
     bankBad e 1 words = false ∧ (∀ r, r ∈ rs → r.va % 1024 = 0 ∧ r.len % 1024 = 0 ∧ r.va + r.len ≤ 2 ^ 57) ∧
     blocks.translate (some blocks.coreId) (physDie blocks.phys) 1 7 0x300000 .engRead = (blocks, .ok cnt 0x300000) ∧
     (∀ i, i < 16 → blocks.onPriv (0x300000 + 64 * i) (0x300000 + 64 * i + 64) = false) ∧
     blocks.mayIssue 0 noAft (rs.map fun r => ⟨0, r.va, r.va + r.len, r.dir == 1, false⟩)) ∧
    (let d := [0, 48, 0, 0, 0, 0, 0, 0]
     let z := (collDesc d).buffers 0 blocks.gangSize
     let so : Opnd := { space := 1, lo := 0, n := z.1, wr := false }
     let ro : Opnd := { space := 2, lo := 0, n := z.2, wr := true }
     let cv : Opnd := { space := 0, lo := 0, n := 0, wr := false }
     blocks.h.task.gang = some 3 ∧ blocks.onSealedPath 1 = false ∧ blocks.readsBlock 0x100080 d ∧ nonCanon (firstBytes 2 0 1 0) = none ∧
     collBad 0 blocks.gangSize d = false ∧ nonCanon [ro, so, cv, cv] = none ∧ blocks.h.t.scr.refused [so, ro] = none ∧ blocks.h.t.scr.notPlainW [so, ro] = none ∧
     blocks.mayIssue 0 noAft ([cv, so, ro, { cv with wr := true }].map fun o => ⟨o.space, o.lo, o.lo + o.n, o.wr, false⟩)) := by
  repeat' first | exact mayIssue_of _ _ _ _ (by decide +kernel) | exact readsBlock_of _ _ priv 0x100100 _ (by decide +kernel) (by decide +kernel) | exact readsBlock_of _ _ priv 0x1000C0 _ (by decide +kernel) (by decide +kernel) | exact readsBlock_of _ _ priv 0x100080 _ (by decide +kernel) (by decide +kernel) | (unfold State.cacheRoom; decide +kernel) | apply And.intro | decide +kernel

/-- A landing region of W beside a plain window, and a stream register. -/
theorem witness_MacrosRingsAndWindows :
    (answered (.value 0 0)).h.reply = some (.value 0 0) ∧ (answered (.trap 0x0C 0 0)).h.reply = some (.trap 0x0C 0 0) ∧
    ((m0.core? m0.coreId).isSome = true ∧ m0.h.reply = none ∧ m0.h.replay = false ∧ m0.h.stat = .ready ∧ m0.h.t.scr.inOne 0 0x6000 (41 * 0x6000) = true ∧
      m0.h.t.scr.onArmed 0 0x6000 (41 * 0x6000) = false ∧ (∀ w, w ∈ m0.h.t.scr.landings 0 0x6000 (41 * 0x6000) → w.lstate ≠ .growing) ∧ m0.x 3 = 0) ∧
    (engine.h.t.scr.wholeRegions 0 1 = true ∧ engine.matrixOn engine.h.id 0 1 = false) ∧
    (m0.h.t.scr.rings[(7 : Fin 8)].v = false ∧ (∀ i : Fin 8, i ≠ 7 → m0.h.t.scr.rings[i].v = true →
        overlaps 0x7FFC0 (0x7FFC0 + 64) m0.h.t.scr.rings[i].base (m0.h.t.scr.rings[i].base + m0.h.t.scr.rings[i].size) = false) ∧
      (∃ w, w ∈ m0.h.t.scr.wins ∧ w.buf = 1 ∧ w.land = false ∧ w.base ≤ 0x7FFC0 ∧ 0x7FFC0 + 64 ≤ w.base + w.len)) ∧
    (engine.ringNamed 7 = false ∧ m0.x 1 = 0) ∧
    (m0.h.t.scr.badWin 2 0x40000 (granule 2) 0 false = false ∧ m0.hasRoom m0.coreId 2 (granule 2) = true) ∧
    (m0.h.t.scr.wins.find? (fun q => q.buf == 2 && q.base == 0) = some { buf := 2, base := 0, len := 0x40000 } ∧
      m0.h.t.scr.mayNotFree { buf := 2, base := 0, len := 0x40000 } = false) ∧
    ((2 : Fin 16).val < 3 ∧ 3 ≤ (3 : Fin 16).val ∧ (9 : Fin 16).val ≤ 9 ∧ 9 < (10 : Fin 16).val ∧
      m0.h.t.scr.badWin 1 0x80000 (granule 1) 3 true = false ∧ m0.hasRoom m0.coreId 1 (granule 1) = true) ∧
    (m0.h.t.post.clear 3 = true ∧ (∃ q, q ∈ (bound31 [] 0).h.t.scr.streams ∧ q.vreg = 7) ∧ ∀ q, q ∈ m0.h.t.scr.streams → q.vreg ≠ 7) := by
  repeat' first | exact ⟨_, List.mem_cons_self .., rfl⟩ | decide +kernel | exact ⟨{ buf := 1, base := 0, len := 0x80000 }, by decide +kernel⟩ | apply And.intro

/-- The thread with the token of operation 5 in k15. -/
def token (o : Op) : State := (withOps m0 [o]).setK 15 (tokenValue 0 1 o.slot 0 o.kind 11)

def ended (st : OpState) : Op := { op 5 2 (.cpy 2 1 0 0 0 0 64 0 0) st with replied := true, addr := 0x100000 }

theorem witness_TokensWaitAndRelease :
    m0.tokenOp (m0.k 15) = none ∧ (31 : Fin 32).val = 31 ∧ (30 : Fin 32).val < 31 ∧
    ((token (op 5 2 (.cpy 2 1 0 0 0 0 64 0 0))).tokenOp ((token (op 5 2 (.cpy 2 1 0 0 0 0 64 0 0))).k 15) = some (op 5 2 (.cpy 2 1 0 0 0 0 64 0 0)) ∧
      (op 5 2 (.cpy 2 1 0 0 0 0 64 0 0)).replied = false) ∧
    ((token (ended .failed)).tokenOp ((token (ended .failed)).k 15) = some (ended .failed) ∧ (ended .failed).replied = true) ∧
    ((token (ended .done)).tokenOp ((token (ended .done)).k 15) = some (ended .done) ∧ (ended .done).st ≠ .failed) ∧
    (∀ r : Fin 16, (0x8000 : BitVec 16).getLsbD r.val = true → (token (ended .done)).tokenOp ((token (ended .done)).k r) = some (ended .done)) := by
  decide +kernel

/-- A child of the thread's task that has exited and left one orphan. -/
def child : Task := { num := 9, ctx := 1, name := 0x500001, words := [], st := .exited, parent := some (7, 0), orphans := 1 }

def parent : State :=
  let s := withH m0 fun h => { h with t := { h.t with task := { h.t.task with spawns := 1 } } }
  { s with work := { s.work with tasks := [task7, child], ops := [{ ended .done with task := 9, hold := 4, orphan := some 0 }] } }

theorem witness_TokensAreMovedAndCancelled :
    m0.tokenOp (m0.k 15) = none ∧ ((token (op 5 2 (.cpy 2 1 0 0 0 0 64 0 0))).tokenOp ((token (op 5 2 (.cpy 2 1 0 0 0 0 64 0 0))).k 15)).isSome = true ∧
    11 < ((xs m0 [(1, 12)]).x 1).toNat ∧ ((xs m0 [(1, 11)]).x 1).toNat ≤ 11 ∧ (op 5 2 (.cpy 2 1 0 0 0 0 64 0 0)).st.ended = false ∧
    (let s := token (op 5 2 (.cpy 2 1 0 0 0 0 64 0 0))
     s.reaches 0x300FF8 .latUpdate = .ok cnt 0x300FF8 ∧ cnt.kind = 3 ∧ cnt.ctype = 7 ∧ 0x300FF8 % cellBytes 7 0 = 0 ∧
     s.stillBound (op 5 2 (.cpy 2 1 0 0 0 0 64 0 0)) = false ∧ s.hasOp (op 5 2 (.cpy 2 1 0 0 0 0 64 0 0)) ∧ s.h.t.post.later = [] ∧ s.redirectsUsed s.coreId < 32) ∧
    (0 < parent.h.task.spawns ∧ (∀ q, q ∈ parent.children parent.h.task.num 0 → q.st = .exited) ∧
      (parent.orphanOf (parent.children 7 0) 1 0 0).isSome = true ∧ parent.orphanOf (parent.children 7 0) 1 0 1 = none ∧
      parent.slotsHeld parent.coreId parent.h.coreSlot.2 < 32) ∧
    5 < (6 : Fin 8).val ∧ (withOps m0 [op 5 4 (.bankcall 0 1 [] [])]).fenceKHolds m0.h 5 = true ∧
    (∀ o, o ∈ (withOps m0 [ended .done]).work.ops → o.hart = m0.h.id → o.st.ended = true) := by
  unfold State.hasOp; decide +kernel

/-- A launch record with one gate (GARG 1, NG 1) and one without, and the gate's entry, in the PRIV page. -/
def gatedRec : List Nat := [0x200000, 0x100040, 0, 0, 0, 0, 0, 2 ^ 61 + 2 ^ 58]

theorem witness_SpawnAndExit :
    0x100001 % 64 ≠ 0 ∧ m0.readsBlock 0x100FC0 (List.replicate 8 0) ∧ recordBad (1 :: List.replicate 7 0) = true ∧
    recordBad [0x200000, 0, 0, 0, 0, 0, 0, 0] = false ∧ recNg [0x200000, 0, 0, 0, 0, 0, 0, 0] = 0 ∧ m0.storeFull m0.h.task.ctx (physPkg m0.phys) = false ∧ m0.cacheRoom ∧
    (∀ t, t ∈ m0.work.tasks → t.num ≠ m0.work.nextTask) ∧
    (recordBad gatedRec = false ∧ recNg gatedRec = 1 ∧ recArg gatedRec 60 58 = some 0x100040 ∧ 0x100040 % 32 = 0 ∧
      lockJudge false 0 0x100040 32 m0.locks = .ok ∧
      m0.translate (some m0.coreId) (physDie m0.phys) 1 7 0x100040 .load = (m0, .ok priv 0x100040) ∧ priv.kind ≠ 5 ∧ m0.isLost 0x100040 32 = false ∧ m0.fills 0x100040 32 ∧
      gateBad [0x300008, 5, 1, 0] = false ∧
      m0.translate (some m0.coreId) (physDie m0.phys) 1 7 (gateOf [0x300008, 5, 1, 0]).cell .latRead = (m0, .ok cnt 0x300008) ∧ cnt.kind = 3 ∧
      ({ gateOf [0x300008, 5, 1, 0] with pa := 0x300008, ty := 7, sz := 0 } : Gate).badTrigger = false) ∧
    m0.h.isThread = true ∧ (withH m0 fun h => { h with t := { h.t with post := { h.t.post with b := 1 } } }).h.t.post.clear 3 = false ∧
    m0.h.t.post.clear 3 = true ∧ (refused15.h.t.post.firstRefused = some 15 ∧ refused15.h.ctl.h = false) ∧ m0.h.t.post.firstRefused = none ∧
    (let s := withOps m0 [op 5 2 (.cpy 2 1 0 0 0 0 64 0 0)]; s.heldOps s.h = [op 5 2 (.cpy 2 1 0 0 0 0 64 0 0)]) ∧
    (let s := withOps m0 [ended .done]
     (∀ o, o ∈ s.heldOps s.h → o.replied = true) ∧ s.orphansFull s.h.task.ctx (s.taskPkg s.h.task.num) (s.heldOps s.h).length = false ∧ s.task? s.h.task.num = some task7 ∧
     s.h.task.gang = none) ∧ (r0 0).h.isThread = false := by
  refine ⟨by decide +kernel, readsBlock_of _ _ priv 0x100FC0 _ (by decide +kernel) (by decide +kernel), ?_⟩
  unfold State.cacheRoom State.fills; decide +kernel

/-! ### Homes, replies and operations -/

/-- A freeze unit of MAXI64 cells. -/
def lunit (st : UState) (gen : Nat := 5) (parked : List Msg := []) (held : List Msg := []) : LUnit :=
  { pa := 0x300000, gen := gen, st := st, cells := List.replicate 8 0, filled := List.replicate 8 false, parked := parked, held := held }

/-- Distances 0, 1, 2, 32767, 32768 and 65535, each state of a unit, a filled cell, and reads whose first or no trigger passes. -/
theorem witness_JoinUnitsFollowTheGenerations :
    (let d := fun (gen : Nat) => (gen + 65536 - 5 % 65536) % 65536
     d 5 = 0 ∧ d 6 = 1 ∧ d 7 = 2 ∧ d 32772 = 32767 ∧ d 32773 = 32768 ∧ d 4 = 65535) ∧
    (lunit .growing).st = .growing ∧ (lunit .frozen).st ≠ .growing ∧ (lunit .conflict).st = .conflict ∧ 7 < (lunit .growing).cells.length ∧
    (lunit .growing).filled.getD 7 false = false ∧ ({ lunit .growing with filled := List.replicate 8 true } : LUnit).filled.getD 7 false = true ∧
    nth (lunit .growing).cells 7 = 0 ∧ nth (lunit .growing).cells 7 ≠ 1 ∧
    (let r : LReq := { kind := .thr, gen := 5, members := [], trigs := [1, 0] }
     r.gen = 5 ∧ 1 < r.trigs.length ∧ passed 1 0 false r.cand (nth r.trigs 1) = true ∧ ∀ j, j < 1 → passed 1 0 false r.cand (nth r.trigs j) = false) ∧
    (let r : LReq := { kind := .thr, gen := 5, members := [], trigs := [1] }
     (∀ t, t ∈ r.trigs → passed 1 0 false r.cand t = false) ∧ r.cand = false) := by
  decide +kernel

/-- The test machine with a frame for each page that has one. -/
def mf : State :=
  { m0 with lat := { m0.lat with frames := [priv, cnst, cnt, fill8, hostPage, sum].map fun l => (
      { pa := l.pa, size := 0x1000, ctx := 1, va := l.va, kind := l.kind, ctype := l.ctype, csize := l.csize, gen := 5, key := 1 } : Frame) } }

/-- A member of the test thread, and a message that carries it. -/
def mem (v : Nat) : Member := { who := .thread 1 0, va := 0x300038, pa := 0x300038, v := v }
def latMsg (k : LKind) (v : Nat := 1) : Msg := { src := .thread 1 0, ctx := 1, dest := .unit 0x300000, body := .lat { kind := k, ty := 7, gen := 5, members := [mem v], len := 8 } }
def toThread (b : Body) : Msg := { src := .rill 0, ctx := 1, dest := .core 1, body := b }

/-- A gang of the test task, with a landing region of 64-byte tiles in its A view. -/
def landing : State :=
  let s := withScr m0 fun c => { c with wins := c.wins ++ [{ buf := 1, base := 0x80000, len := 0x1000, land := true, tsize := 3, lgen := 5, filled := List.replicate 64 false }] }
  { s with work := { s.work with gangs := [{ num := 3, ctx := 1, members := [7], placed := true }] } }

def landMsg : Msg := { src := .thread 1 0, ctx := 1, dest := .member 3 0 1 0x80FC0, body := .lat { kind := .fill, ty := 8, sz := 3, gen := 5, members := [mem 9] } }

theorem witness_HomesTakeUpMessages :
    (ev mf [0]).deliverable 0 = false ∧
    ((ev mf [0] [latMsg .join]).delivers (latMsg .join) ∧ (ev mf [0] [latMsg .thr]).delivers (latMsg .thr) ∧ (ev mf [0] [latMsg .frd]).delivers (latMsg .frd)) ∧
    ((mem 1).who = .thread 1 0 ∧ (mf.unitAt 0x300000).held = [] ∧ (mf.unitAt 0x300000).parked = [] ∧ mf.isLost 0x300000 64 = false ∧
      (∀ k, k ∈ [LKind.join, .freeze, .thr, .thrF, .frd] → mf.homeTakes { kind := k, ty := 7, gen := 5, members := [mem 1], len := 8 } 0x300000 = true) ∧
      (mf.lat.cache.filter (fun x => x.cluster == physCluster (mf.physOf 1))).length < cacheLines ∧ LKind.join.isUpdate = true ∧
      mf.replicasOf 0x300000 = []) ∧
    ((ev mf [0, 1] [latMsg .join, { latMsg .join 2 with src := .thread 2 0 }]).canMerge 0 1 = true ∧
      (({ ev mf [0x300000] with lat := { mf.lat with units := [lunit .growing 5 [] [latMsg .join]] } } : State).unitAt 0x300000).held ≠ []) ∧
    (Canonical (ev landing [0] [landMsg]) ∧ (ev landing [0] [landMsg]).delivers landMsg ∧ landing.past? 3 0 = none ∧ landing.memberAt 3 0 = some (1, 0) ∧
      landing.hart? (.thread 1 0) = some landing.h ∧ (landing.h.landOf 1 0x80FC0).isSome = true ∧
      ∀ l, landing.h.landOf 1 0x80FC0 = some l → l.w.lgen = 5 ∧ l.w.lstate = .growing ∧ l.w.tsize = 3 ∧ (0x80FC0 - l.w.base) % l.w.tile = 0 ∧
        l.w.filled.getD ((0x80FC0 - l.w.base) / l.w.tile) false = false) := by
  refine ⟨by decide +kernel, by unfold State.delivers; decide +kernel, by decide +kernel, by decide +kernel,
    canonical_of _ (by decide +kernel),
    by unfold State.delivers; decide +kernel, by decide +kernel, by decide +kernel, by decide +kernel, by decide +kernel, ?_⟩
  intro l h
  have e : landing.h.landOf 1 0x80FC0 = some ⟨{ buf := 1, base := 0x80000, len := 0x1000, land := true, tsize := 3, lgen := 5, filled := List.replicate 64 false }, []⟩ := by
    decide +kernel
  rw [e] at h
  cases h
  decide +kernel

/-- The context with its PRIV page in the translation tables. -/
def tabled : State := (m0.createPage 1 (region priv) 0x100000 7 0 0).getD m0

/-- A page-fault message to cluster rill core 0. -/
def pfMsg (va : Nat) : Msg := { src := .thread 1 0, ctx := 1, dest := .node 0, body := .pageFault 1 va .load (.thread 1 0) 7 }

theorem witness_RepliesReachTheirThreads :
    (let d := fun (b : Body) => (ev m0 [0] [toThread b]).deliverable 0 = true ∧ (ev m0 [0] [toThread b]).lat.net[0]? = some (toThread b)
     d (.ack (mem 1)) ∧ d (.refuse (mem 1) 1 1 0 5 6) ∧ d (.wake (mem 1) 4 0) ∧ d (.data (mem 1) 0 8 7 0 0) ∧ (mem 1).entry < 16 ∧ m0.h.t.post.later = [] ∧
     m0.hart? (.thread 1 0) = some m0.h) ∧
    (let s := withH m0 fun h => { h with stat := .waiting (.repair 0x100000) }
     (ev s [0] [toThread (.resume 1 0x100000 (.thread 1 0) 0)]).deliverable 0 = true ∧ s.hart? (.thread 1 0) = some s.h ∧
     s.h.stat = .waiting (.repair 0x100000) ∧ s.h.t.post.later = []) ∧
    ((ev m0 [0] [pfMsg 0xF00000]).evArg 0 < 2 ^ 32 ∧ (m0.faultsAt 0).length < 64 ∧
      64 ≤ (({ m0 with lat := { m0.lat with faults := List.replicate 64 (pfMsg 0x100000) } } : State).faultsAt 0).length) ∧
    (let d := fun (s : State) (va : Nat) => (ev s [0] [pfMsg va]).deliverable 0 = true
     d m0 0xF00000 ∧ m0.regionOf 1 0xF00000 = none ∧ d tabled 0x100FFF ∧ tabled.regionOf 1 0x100FFF = some (region priv) ∧
     (tabled.walk 1 0x100000).toOption.isSome = true ∧ d m0 0x100FFF ∧ m0.regionOf 1 0x100FFF = some (region priv) ∧
     (m0.createPage 1 (region priv) 0x100FFF 7 0 (nodeStack 0)).isSome = true) ∧
    (refused15.h.ctl.h = false ∧ refused15.h.replay = false ∧ refused15.h.t.post.firstRefused = some 15) ∧
    (let m : Msg := { toThread (.ack (mem 1)) with via := some 3 }
     (ev m0 [0] [m]).lat.net[0]? = some m ∧ m.via = some 3 ∧ m.dest = .core 1 ∧ m0.isPlaced 1 = true) := by
  decide +kernel

/-- A rill core of cluster 0 in SERVICE mode with no handler in progress. -/
def serving : State :=
  { m0 with harts := [{ id := .rill 0, r := { mode := .service, levels := Vector.replicate 4 {}, dtab := [(0, 2 ^ 63 + 3 * 2 ^ 61 + 0x80)] } }] }

def rmsg : RMsg := { hdr := 2 ^ 20, payload := [], src := 1, dst := 0 }

theorem witness_CopiesAreNoCollectives : ∀ a b d f h i j l y z, (op 5 2 (.cpy 2 1 0 0 0 0 64 0 0) .running).work ≠ .coll a b d f h i j l y z :=
  fun _ _ _ _ _ _ _ _ _ _ h => by cases h

theorem witness_OperationsHandlersAndPages :
    (let o := op 5 2 (.cpy 2 1 0 0 0 0 64 0 0) .running
     let s := withOps m0 [o]
     let d := fun (b : Body) => (ev s [0] [toThread b]).deliverable 0 = true
     d (.opReply 1 5 0 (3 * 2 ^ 61 + 1) 0) ∧ s.op? 1 5 0 = some o ∧ endOfCode ((3 * 2 ^ 61 + 1) / 2 ^ 61 % 8) = some .done ∧ o.replied = false ∧ o.hold = 0 ∧
     (∀ x, x ∈ s.work.ops → x.aft = [] ∧ x.cls ≠ 7) ∧ (∀ q, q ∈ s.work.tasks → q.st ≠ .exited) ∧ d (.redirect 1 5 0) ∧ d (.redirectAck 1 5 0) ∧
     (let q := { o with hold := 6, entry := true, st := .done }
      (withOps m0 [q]).work.ops.find? (fun x => x.is 1 5 0 && x.entry) = some q ∧ q.hold = 6) ∧
     (let q := { o with hold := 2, entry := true }
      (withOps m0 [q]).work.ops.find? (fun x => x.is 1 5 0 && x.entry) = some q ∧ q.hold ≠ 6)) ∧
    (let m : Msg := { src := .rill 1, ctx := 0, dest := .node 0, body := .rill rmsg }
     let h : Hart := { id := .rill 0, r := { mode := .service, levels := Vector.replicate 4 {}, dtab := [(0, 2 ^ 63 + 3 * 2 ^ 61 + 0x80)] } }
     (ev serving [0] [m]).deliverable 0 = true ∧ serving.hart? (.rill 0) = some h ∧ h.replay = false ∧ h.stat ≠ .exited ∧ h.r.inbox = [] ∧
     h.r.select rmsg = some (3, 0x80) ∧ h.r.busy = none ∧ ({ h.r with mode := .start } : Rill).select rmsg = none) ∧
    (({ ev m0 [0] with lat := { m0.lat with writeBacks := [{ hart := .thread 1 0, ctx := 1, lo := 0x100000, hi := 0x100040, inval := false }] } } : State).lat.writeBacks[0]?).isSome = true ∧
    (Mem.wf mf.mem = true ∧ ((mf.frameAt 0x200000).map (·.kind)) = some 2 ∧ mf.lat.placeBy true 0 15 0x1000 = some (linearBase + 15 * (18 * 2 ^ 30)) ∧
      0x200000 + 0x1000 ≤ linearBase + 15 * (18 * 2 ^ 30)) ∧
    (((tabled.frameAt 0).map (fun f => (f.kind, f.va, f.size))) = some (1, 0x100000, 0x1000) ∧ (tabled.walk 1 0x100000).toOption.isSome = true ∧
      0x8FFFFFF000 % 0x1000 = 0 ∧ tabled.lat.isFree 0x8FFFFFF000 0x1000 = true ∧ 0x8FFFFFF000 % 2 ^ 40 + 0x1000 ≤ 0x9000000000) := by
  decide +kernel

/-- The remote copy of operation 5, and a TLB copy at die 0 that no core owns. -/
def remote : State :=
  let s := withOps m0 [{ op 5 6 (.cpyr 1 0x400000 0 8 5) .running with order := 1 }]
  { s with lat := { s.lat with tlb := { core := none, die := 0, ctx := 1, leaf := fill8 } :: s.lat.tlb } }

theorem witness_EnginesTakeUpOperations :
    (let o := op 5 2 (.cpy 2 1 0 0 0 0 64 0 0)
     let d := fun (s : State) (b : Body) => (ev s [0] [toThread b]).deliverable 0 = true
     d (withOps m0 [o]) (.engine 1 5 0) ∧ (withOps m0 [o]).op? 1 5 0 = some o ∧ o.st.ended = false ∧ o.aft = [] ∧
     (let p := { o with aft := [(1, 6, 0)] }; d (withOps m0 [p]) (.engine 1 5 0) ∧ p.aft ≠ []) ∧
     (let p := { o with arrived := true }
      let s := withOps m0 [p]
      s.opAt 0 = some p ∧ s.op? p.core p.slot p.gen = some p ∧ p.kind ≠ 4 ∧ s.startable p = true ∧ s.collReady p = true ∧ s.unitFits p = true ∧ s.isNext p = true) ∧
     d (withOps m0 [o]) (.cancel 1 5 0) ∧ o.hold = 0 ∧ o.begun = false ∧
     (let p := { o with st := .running, begun := true }
      d (withOps m0 [p]) (.cancel 1 5 0) ∧ (withOps m0 [p]).op? 1 5 0 = some p ∧ p.waitVa = none ∧ p.hold = 0 ∧ p.st = .running) ∧
     (let p := { o with st := .suspended, begun := true, waitVa := some 0x100000 }
      (withOps m0 [p]).op? 1 5 0 = some p ∧ p.waitVa.isSome = true ∧ p.st.ended = false) ∧
     (let a := { o with st := .running, arrived := true, prio := 10, order := 1 }
      let b := { o with slot := 6, arrived := true, order := 2 }
      let s := withOps m0 [a, b]
      s.opAt 1 = some b ∧ s.op? 1 6 0 = some b ∧ s.startable b = true ∧ s.collReady b = true ∧ s.unitFits b = true ∧ s.isNext b = true ∧
      a.same b = false ∧ a.sameEngine b = true ∧ a.begun = false) ∧ d (withOps m0 [ended .done]) (.cancel 1 5 0) ∧ (ended .done).st = .done) ∧
    (let q : SeqReq := { slot := 0, arm := true, off := 0, n := 2, fmt := 7, soff := 0 }
     let s : State := { m0 with work := { m0.work with cores := [{ id := 1, tag := 1, ctx := 1, loc := .at 0, seq := [q] }] } }
     (s.core? 1).isSome = true ∧ s.hart? (.thread 1 0) = some s.h ∧ s.isPlaced 1 = true ∧ (ev s [1, 0]).evArg 1 ≠ 1 ∧ (ev s [1, 0, 0, 0]).evArg 3 ≠ 1 ∧ q.arm = true ∧ ({ q with scanned := true } : SeqReq).scanned = true ∧
     (withScr m0 fun c => { c with wins := [{ buf := 0, base := 0, len := 0xC000, land := true, tsize := 3, lstate := .conflict }] }).h.t.scr.armTrap q = some (0, 1)) ∧
    (let s := remote
     (ev s [0] [{ src := .rill 0, ctx := 1, dest := .node 0, body := .cpyrRequest 1 5 0 }]).deliverable 0 = true ∧ (s.op? 1 5 0).isSome = true ∧
     (s.translate none (physDie (s.physOf 1)) 1 7 0x400000 .latUpdate).2 = .ok fill8 0x400000 ∧ fill8.kind ≠ 6 ∧ fill8.ctype = 8 ∧
     0x400000 % cellBytes 8 0 = 0 ∧ 8 % cellBytes 8 0 = 0 ∧ ¬ (0x400004 % cellBytes 8 0 = 0) ∧
     (ev s [0] [toThread (.ready 1 5 0 (some 0x400000) 0 0)]).deliverable 0 = true) := by
  decide +kernel

/-! ### Units, banks, placement -/

/-- The one operation of a state that its engine runs. -/
def running (s : State) (o : Op) : State := ev (withOps s [o]) [0]

theorem readable_of (c : Scratch) (b lo n : Nat) (h : ∀ x, x < n + 1 → ∀ k, k < n + 1 → x + k ≤ n → c.inWindows b (lo + x) k = true ∧ c.landings b (lo + x) k = []) :
    c.readable b lo n := fun x k h1 h2 => by
  have := h (x - lo) (by omega) k (by omega) (by omega)
  rwa [show lo + (x - lo) = x by omega] at this

theorem writable_of (c : Scratch) (b lo n : Nat) (h : ∀ x, x < n + 1 → ∀ k, k < n + 1 → x + k ≤ n → c.inWindows b (lo + x) k = true ∧ c.plain b (lo + x) k = true) :
    c.writable b lo n := fun x k h1 h2 => by
  have := h (x - lo) (by omega) k (by omega) (by omega)
  rwa [show lo + (x - lo) = x by omega] at this

def mxsOp : Op := op 5 1 (.mxs 5 0 false true 7 0 1 1 1 0 0) .running
def mxzOp : Op := op 5 1 (.mxz 1 1 0x3FFC0 0) .running
def mxeOp : Op := op 5 1 (.mxe false false 0 0 0 0 0 0 1 0 0 0x3F800000 1 0) .running
def cpyOp : Op := op 5 2 (.cpy 3 1 0 0 0x3FFFF 0xFFFFF 1 0 0) .running
def sbindOp : Op := op 5 3 (.sbind 7 1 0 0xFFFFF 0 0 [1, 0, 0, 0, 0, 0, 0, 0]) .running
def cpyrOp (pushed : Nat) : Op := { op 5 6 (.cpyr 1 0x400000 0 8 5) .running with h0 := 8, pushed := pushed }
def collOp : Op := op 5 5 (.coll 4 2 1 0 0 0 0 [8, 1, 0, 0, 0, 0, 0, 0] 3 0) .running

/-- The engine with a tile in its ring, and a gang of one whose broadcast has its block. -/
def tiled : State := withScr engine fun c => { c with rings := c.rings.set 7 { v := true, size := 0x400, base := 0x70000, tile := 64, tail := 1 } }

def ganged : State :=
  let s := withH m0 fun h => { h with t := { h.t with task := { h.t.task with gang := some 3 } } }
  { s with work := { s.work with
      tasks := [{ task7 with gang := some 3 }]
      gangs := [{ num := 3, ctx := 1, members := [7], placed := true, colls := [{ index := 0, rank := 0, key := collOp.work.collKey, op := collOp, blocks := [[5]] }] }] } }

theorem witness_UnitsComputeAndRetire :
    (Canonical (running tiled mxsOp) ∧ (running tiled mxsOp).opAt ((running tiled mxsOp).evArg 0) = some mxsOp ∧ (running tiled mxsOp).hasOp mxsOp ∧ mxsOp.hold = 0 ∧
      (running tiled mxsOp).keepsTurn mxsOp = true ∧ (running tiled mxsOp).hart? mxsOp.hart = some tiled.h ∧ mxsOp.kind = 1 ∧ (running tiled mxsOp).evArg 3 = 0 ∧
      (tiled.h.t.scr.wake mxsOp.work).abftMatch mxsOp.work 0 ((running tiled mxsOp).evArg 1) = true ∧
      (let s := ev (withOps tiled [mxsOp]) [0, 1, 0]
       (tiled.h.t.scr.wake mxsOp.work).abftMatch mxsOp.work 0 (s.evArg 1) = false ∧ (tiled.h.t.scr.wake mxsOp.work).abftMatch mxsOp.work 0 (s.evArg 2) = true) ∧
      (let s := ev (withOps tiled [mxsOp]) [0, 1, 1]
       s.keepsTurn mxsOp = true ∧ s.evArg 3 = 0 ∧ (tiled.h.t.scr.wake mxsOp.work).mxFault mxsOp.work 0 = none ∧
       (tiled.h.t.scr.wake mxsOp.work).abftMatch mxsOp.work 0 (s.evArg 1) = false ∧ (tiled.h.t.scr.wake mxsOp.work).abftMatch mxsOp.work 0 (s.evArg 2) = false) ∧
      tiled.h.t.scr.inWindows 2 (0 + 0 / 1 * 0 + 4 * (0 % 1 * mxN 5)) (4 * mxN 5) = true) ∧
    ((running m0 mxzOp).keepsTurn mxzOp = true ∧ m0.h.t.scr.inWindows 2 (0x3FFC0 + 0 * 0) (64 * 1) = true ∧ (running m0 mxeOp).keepsTurn mxeOp = true ∧
      m0.h.t.scr.inWindows 2 (0 + 0 * 0) (192 * 1) = true ∧ m0.h.t.scr.inWindows 1 (0 + 0 * 0) (48 * 1 * mxeSize 0) = true ∧ m0.h.t.scr.plain 1 (0 + 0 * 0) (48 * 1 * mxeSize 0) = true) ∧
    ((running m0 cpyOp).keepsTurn cpyOp = true ∧ (running m0 cpyOp).evArg 1 ≠ 1 ∧ 0 * 4096 < 1 ∧ cpyOp.written ≤ min 4096 (1 - 0 * 4096) ∧ m0.h.t.scr.readable 0 0xFFFFF 1 ∧ m0.h.t.scr.writable 2 0x3FFFF 1) ∧
    ((running m0 sbindOp).keepsTurn sbindOp = true ∧ sbindOp.written = 0 ∧ sbindOp.got = [] ∧ m0.h.t.scr.readable 0 0xFFFFF 1 ∧ (affineOf [1, 0, 0, 0, 0, 0, 0, 0]).e = 1 ∧ (affineOf [1, 0, 0, 0, 0, 0, 0, 0]).total = 1 ∧
      wrapInt (((0xFFFFF : Nat) : Int) + (affineOf [1, 0, 0, 0, 0, 0, 0, 0]).offset (affineOf [1, 0, 0, 0, 0, 0, 0, 0]).ss 0) 64 = 0xFFFFF) ∧
    ((running m0 (cpyrOp 1)).keepsTurn (cpyrOp 1) = true ∧ (cpyrOp 1).cellsDue = 1 ∧ (cpyrOp 0).fills = 0 ∧ (cpyrOp 0).cls = 0 ∧ (cpyrOp 0).h0 ≠ 0 ∧ 0 < (cpyrOp 0).cellsDue ∧ m0.h.t.scr.readable 0 0 8 ∧
      ((running m0 (cpyrOp 0)).translate (some 1) (physDie 0) 1 7 0x400000 .latUpdate).2 = .ok fill8 0x400000 ∧ cellBytes 8 fill8.csize = 8) ∧
    ((running ganged collOp).keepsTurn collOp = true ∧ ganged.h.t.scr.writable 1 0 1 ∧
      ((running ganged collOp).inst? collOp).map (fun i => ([i.op, i.rsp, i.recv, min i.d.eb (i.d.total - 0 * i.d.eb)],
        [i.d.bfmt.isNone, i.disagree, (i.blocksOf i.rank 0).isSome, i.lost 0, i.complete 0])) = some ([4, 2, 0, 1], [true, false, true, false, true])) := by
  repeat' first | exact canonical_of _ (by decide +kernel) | exact readable_of _ _ _ _ (by decide +kernel) | exact writable_of _ _ _ _ (by decide +kernel) | (unfold State.hasOp; decide +kernel) | apply And.intro | decide +kernel

/-- A bank unit 0 of basin 0 with a queue of its rill core, its channel in near-bank mode. -/
def unit (entry : Nat) (o : Option (Nat × Nat × Nat) := none) : BqUnit :=
  { first := true, entry := entry, prio := 0, ch := 0, bank := 0, call := 9, row := 0, ag := [0x100800, 0x100C00, 0, 0], args := [1], lc0 := 16, lc1 := 0, op := o }

def banked (q : List BqUnit) (b : BankUnit := {}) : State :=
  { ev mf [0] with
    harts := [{ id := .rill 0x40, r := { bq := q } }]
    dev := { mf.dev with
      banks := [(0, { b with entries := (b.entries.set 0 { v := true, nrmask := 1, std := some 0 }).set 5 { v := true, nrmask := 1, std := some 5 } })]
      chans := [(0, { mode := true, held := false })] } }

/-- A bank call of one row, and one whose row has retired. -/
def callOp (units : Nat := 0) : Op := { op 5 4 (.bankcall 5 0 [1] [(1, 0x100C00, 0, 1024, [0x100C00])]) .running with units := units, node := 0x42 }
def callMsg : Msg := { src := .rill 0x40, ctx := 1, dest := .node 0x42, body := .bankcall 1 5 0 }

/-- A row at the threshold of refresh management, and a bank unit with no activation. -/
theorem witness_RowsReachTheirThreshold :
    (∃ a, a ∈ ((banked [] { acts := [(0x400, Config.rfmThreshold)] }).bank 0).acts ∧ Config.rfmThreshold ≤ a.2) ∧
    (∀ a, a ∈ ((banked []).bank 0).acts → a.2 < Config.rfmThreshold) :=
  ⟨⟨_, List.mem_cons_self .., Nat.le_refl _⟩, fun _ h => by cases h⟩

theorem witness_BankUnitsRunRowsAndYield :
    (Canonical (banked [unit 5]) ∧ (ev (withOps m0 [callOp]) [0] [callMsg]).delivers callMsg ∧ (ev (withOps m0 [callOp 1]) [0] [callMsg]).delivers callMsg ∧
      (withOps m0 [callOp]).op? 1 5 0 = some callOp ∧ (callOp).st.ended = false ∧ (m0.bqOf 0x42).length = 0) ∧
    ((banked [unit 5]).nextUnit 0 = some (unit 5) ∧ (banked [unit 0]).nextUnit 0 = some (unit 0) ∧ (banked [unit 5]).buFree 0 = true ∧ (banked [unit 0]).buFree 0 = true ∧
      ((banked [unit 5]).bank 0).cur = none ∧ (banked [unit 5]).unitOp (unit 5) = none ∧
      ((((banked [unit 5]).bank 0).entries.getD 0 {}).std = some 0 ∧ (((banked [unit 5]).bank 0).entries.getD 5 {}).std = some 5)) ∧
    (nth ((banked [unit 0]).freshUnit (unit 0)).ag 0 = 0x100800 ∧ nth ((banked [unit 0]).freshUnit (unit 0)).ag 1 = 0x100C00 ∧
      (∀ i, i < 32 → ((banked [unit 0]).frameOf (0x100800 + 64 * i)).map (·.kind) = some 1) ∧ (∀ a, (banked [unit 0]).settled a) ∧
      ∀ i, i < 16 → (banked [unit 0]).isLost (0x100800 + 64 * i) 64 = false) ∧
    ((({ cur := some (unit 5), since := some 193 } : BankUnit).late = true) ∧ ((banked [] { phase := .unit }).bank ((banked []).evArg 0)).phase = .unit ∧
      ((banked [] { phase := .unit, rfm := true }).bank 0).rfm = true ∧ ((banked [] { phase := .unit, waiting := 1 }).bank 0).cur = none ∧
      (banked [] { phase := .unit, waiting := 1 }).accessWaits 0 = true ∧
      ((banked [] { phase := .ordinary, suspended := true }).bank 0).suspended = true ∧
      ((banked [] { phase := .ordinary }).bank 0).phase = .ordinary ∧ ((banked []).chan 0).held = false ∧
      (({ banked [] with dev := { (banked []).dev with chans := [(0, { mode := true, held := true })] } } : State).chan 0).held = true ∧
      (∃ i, i < 16 ∧ ((banked [] { phase := .unit }).bank (16 * 0 + i)).phase = .unit) ∧
      (¬ ∃ i, i < 16 ∧ ((banked []).bank (16 * 0 + i)).phase = .unit) ∧
      (∀ i, i < 16 → ((banked []).bank (16 * 0 + i)).cur = none) ∧ rillKind ((ev m0 [0x40, 0, 2]).evArg 0) = 1 ∧ (ev m0 [0x40, 0, 2]).evArg 2 ≠ 1 ∧
      (ev m0 [0x40, 128, 1]).evArg 2 = 1) := by
  have quiet : ∀ i, i < 16 → ((banked []).bank (16 * 0 + i)).phase ≠ .unit := by decide +kernel
  repeat' first | exact canonical_of _ (by decide +kernel) | exact fun ⟨i, h, g⟩ => quiet i h g | exact fun _ _ h => by cases h |
    exact ⟨0, by decide +kernel⟩ | (unfold State.delivers; decide +kernel) | apply And.intro | decide +kernel

/-! ### Tasks, cores, contexts, debug -/

/-- The test machine at rest: no thread, core state 1 without work, and one task that waits for a place. -/
def waiting7 : Task := { task7 with st := .ready, confined := true, cells := [{ fr := false, cell := 0, gen := 0, trig := 0 }] }
def others (st : PhysStat) : List Phys := (countFrom 1 271).map fun n => { n := n, st := st }
def atRest : State := { m0 with h := {}, work := { m0.work with tasks := [waiting7], cores := [], phys := (others .retired).take 16 } }
def idle1 : State := { m0 with h := {}, work := { m0.work with tasks := [] } }

/-- A task with gates, and a queue with one entry. -/
def gated (n : Nat) : State := { atRest with work := { atRest.work with tasks := [{ task7 with gates := List.replicate n none, st := .gated }] } }
def wakeMsg : Msg := { src := .rill 0, ctx := 1, dest := .host, body := .gateWake 7 0 0 }
def withQueue (s : State) (q : Queue) (pend : List Nat := []) : State := { s with dev := { s.dev with pkgs := [(0, { s.pkg 0 with queues := [(0, q)], pending := pend })] } }
def queue4 : Queue := { base := 2, log2n := 4, ctx := 1, opn := true, v := true, tail := 16, head := 15, bound := some 0 }

/-- A gang of two that waits, with or without its reservation. -/
def gangTask : Task := { task7 with gang := some 3, st := .ready, words := [11 * 2 ^ 60 + 2 ^ 57, 0, 0, 0, 0, 0, 0, 2 * 2 ^ 33] }
def waitingGang (target : List (Nat × Nat)) (phys : List Phys) (cores : List Core := []) (ctxs : List Ctx := [ctx1]) : State :=
  { atRest with work := { atRest.work with ctxs := ctxs, tasks := [gangTask], gangs := [{ num := 3, ctx := 1, members := [7], target := target }], phys := phys, cores := cores } }

/-- A core state of the context elsewhere. -/
def coreAt2 (loc : CoreLoc) (phys : List Phys) : State :=
  { atRest with work := { atRest.work with tasks := [], cores := [{ id := 1, tag := 1, ctx := 1, loc := loc }], phys := phys } }

/-- A thread that waits for granules of W, with another that holds all of it, and a core state with room. -/
def mover : Hart := { thread0 with stat := .waiting (.space 0 0x300000), t := { thread0.t with scr := {} } }
def crowded : State :=
  { m0 with
    h := mover
    harts := [{ thread0 with id := .thread 1 1 }]
    work := { m0.work with
      cores := [{ id := 1, tag := 1, ctx := 1, loc := .at 0 }, { id := 2, tag := 2, ctx := 1, loc := .at 1 }]
      phys := [{ n := 0, st := .held 1 }, { n := 1, st := .held 2 }] } }

theorem witness_TasksArePlacedAndCoresMove :
    ((ev (gated 1) [0] [wakeMsg]).delivers wakeMsg ∧ (ev (gated 2) [0] [wakeMsg]).delivers wakeMsg) ∧
    (((gated 2).task? 7).map (·.gates) = some [none, none] ∧ ((gated 1).task? 7).map (·.st) = some .gated) ∧
    (Canonical (withQueue atRest queue4) ∧ ((withQueue atRest queue4).queue 0).waits = true ∧ queue4.bound.isSome = true ∧ atRest.isStopping 1 = false ∧
      atRest.storeFull 1 0 = false ∧ queue4.entry = none ∧ (ev (withQueue atRest queue4) [0, 1]).evArg 1 = 1 ∧ (ev (withQueue atRest queue4) [0, 0]).evArg 1 ≠ 1 ∧
      (withQueue atRest { queue4 with entry := some (List.replicate 16 0) }).storeFull 1 ((withQueue atRest queue4).launchDie 0 1 (Mem.words [] 0x2780 16) [] / 4) = false ∧
      (recArg ((Mem.words [] 0x2780 16).take 8) 60 58).getD 0 % 32 = 0 ∧ recordBad ((Mem.words [] 0x2780 16).take 8) = false ∧ recNg (Mem.words [] 0x2780 16) = 0 ∧
      (∀ i, 11 ≤ i → i < 16 → nth (Mem.words [] 0x2780 16) i = 0) ∧ nth (Mem.words [(0x27F8, 1)] 0x2780 16) 15 ≠ 0 ∧
      2 * 4096 + 128 * (15 % 2 ^ 4) = 0x2780) ∧
    (((withQueue atRest { queue4 with bound := none } [0]).pkg 0).pending = [0] ∧ ((withQueue atRest { queue4 with bound := none } [0]).pkg 0).queues.length < 32) ∧
    (atRest.task? 7 = some waiting7 ∧ atRest.waitsPlace waiting7 = true ∧ atRest.canTake waiting7 0 7 = true ∧ 0 ∈ atRest.coresFor waiting7 ∧
      atRest.bestPlace waiting7 = some (0, 0) ∧ atRest.overtaken waiting7 0 7 = false) ∧
    (let s := waitingGang [(0, 6), (0, 7)] []
     s.waitingGang { num := 3, ctx := 1, members := [7], target := [(0, 6), (0, 7)] } = some gangTask ∧ s.allFree gangTask [(0, 6), (0, 7)] = true ∧ s.task? 7 = some gangTask ∧
     (∀ y, y ∈ [((0 : Nat), (6 : Nat)), (0, 7)] → s.taskFirst gangTask y.1 y.2 = false) ∧ s.gangFirst gangTask [0, 0] = false) ∧
    (let s := waitingGang [] ({ n := 0, st := .held 2 } :: others .retired) [{ id := 2, tag := 1, ctx := 2, loc := .at 0 }]
     s.gangChoice gangTask = some [(0, 0), (0, 1)] ∧ s.allFree gangTask [(0, 0), (0, 1)] = false ∧ s.mayReserve gangTask = true) := by
  repeat' first | exact canonical_of _ (by decide +kernel) | apply And.intro | decide +kernel

theorem witness_TasksArePlacedAndCoresMove_cores :
    (idle1.core? 1 = some { id := 1, tag := 1, ctx := 1, loc := .at 0 } ∧ idle1.idleCore 1 = true ∧ idle1.isStopping 1 = false) ∧
    (let s := waitingGang [(0, 0)] [{ n := 0, st := .held 1 }] [{ id := 1, tag := 1, ctx := 2, loc := .at 0 }] [ctx1, { ctx1 with handle := 2, prio := 10 }]
     ∃ n, s.need 1 3 = some n ∧ s.served n = false ∧ s.victim n = some 0 ∧ (s.coreAt 0).isSome = true) ∧
    (((coreAt2 (.draining 0 none false) [{ n := 0, st := .held 1 }]).core? 1).isSome = true ∧
      (coreAt2 (.draining 0 none false) [{ n := 0, st := .held 1 }]).streamTo 0 false = some 1 ∧
      ((coreAt2 (.streaming 0 none) [{ n := 0, st := .held 1 }]).core? 1).map (·.loc) = some (.streaming 0 none) ∧
      ((coreAt2 (.saved 0) []).core? 1).map (·.loc) = some (.saved 0) ∧ (coreAt2 (.saved 0) []).restorable 1 63 = true ∧ (coreAt2 (.saved 0) []).isStopping 1 = false ∧
      (coreAt2 (.draining 0 none false) [{ n := 0, st := .held 1 }]).streamsOf (physDie 0) < 8 ∧
      (coreAt2 (.draining 0 none false) [{ n := 0, st := .held 1 }]).work.ops.all (fun o => !(coreAt2 (.draining 0 none false) [{ n := 0, st := .held 1 }]).inUnit o) = true ∧
      physPkg 63 = 0) ∧
    (crowded.core? 1 = some { id := 1, tag := 1, ctx := 1, loc := .at 0 } ∧ crowded.hart? (.thread 1 0) = some mover ∧ crowded.mayMove mover = true ∧
      crowded.canReceive { core := 1, slot := 0, dst := 2, dslot := 0 } mover = true ∧ mover.board = [] ∧ crowded.fwdUsed 0 < 16 ∧
      mover.t.post.later = [] ∧ crowded.work.ops.all (fun o => !crowded.inUnit o) = true) ∧
    (((coreAt2 (.at 0) [{ n := 0, st := .held 1, bad := true }]).physAt 0).bad = true ∧ (atRest.physAt 0).st = .free ∧ (m0.physAt 0).st = .held 1 ∧
      (({ m0 with work := { m0.work with phys := [{ n := 0, st := .emptied }] } } : State).physAt 0).st = .emptied) := by
  refine ⟨by decide +kernel, ?_, by decide +kernel, by decide +kernel, by decide +kernel⟩
  exact ⟨{ kind := 1, id := 3, ctx := 1, prio := 11, pkg := 0, task := some gangTask, target := [0] }, by decide +kernel, by decide +kernel, by decide +kernel, by decide +kernel⟩

/-- The test context with a fault record that stops it, an input open, or breakpoints; its thread at rest, parked or halted. -/
def withCtx (s : State) (f : Ctx → Ctx) : State := { s with work := { s.work with ctxs := s.work.ctxs.map f } }
def ended7 : State := withCtx { idle1 with work := { idle1.work with tasks := [{ task7 with st := .exited }] } } fun c => { c with opened := true }
def parked : State := withCtx (withH m0 fun h => { h with stat := .waiting (.fenceJ 0) }) fun c => { c with opened := true }
def deadPark : State := withCtx (withH m0 fun h => { h with stat := .waiting (.seal 0x500000) }) fun c => { c with opened := true }
def grouped (g : HaltGroup) (s : State) : State := { s with dev := { s.dev with pkgs := [(0, { s.pkg 0 with halts := Vector.replicate 16 g })] } }
def bp : HaltGroup := { bps := (Vector.replicate 4 (false, 0)).set 3 (true, 0x200000) }
def halted : State := grouped { stop := true } (withH m0 fun h => { h with stat := .halted none false })

theorem witness_ContextsStopAndHaltGroupsRun :
    (((withCtx m0 fun c => { c with pend := [([0], true)] }).ctx? 1).map (·.pend) = some [([0], true)]) ∧
    ((let s := withCtx idle1 fun c => { c with stopping := true }
      (s.ctx? 1).map (fun c => [c.stopping, c.stopped, c.done]) = some [true, false, false] ∧ s.anyHalted 1 = false ∧ s.inFlight 1 = false) ∧
     ended7.isComplete 1 = true ∧ ended7.orphanRecords 1 = []) ∧
    (deadPark.maySweep 1 = true ∧ deadPark.quiescent 1 = true ∧ deadPark.placePending 1 = false ∧ deadPark.moving 1 = false ∧
      deadPark.inputsOpen 1 = false ∧ deadPark.isComplete 1 = false ∧ (withQueue deadPark { queue4 with head := 16 }).inputsOpen 1 = true ∧
      (withQueue deadPark { queue4 with head := 16 }).quiescent 1 = true) ∧
    ((m0.ctx? 1).map (·.hgrp) = some 2 ∧ (grouped bp m0).myGroup = some 2 ∧ (grouped bp m0).atBreakpoint = some 3 ∧ (grouped bp m0).h.stat = .ready) ∧
    ((m0.group 2).stop = false ∧ (halted.group 2).stop = true ∧ halted.inGroup 0 2 halted.h = true ∧ (ev halted [2]).evArg 0 = 2 ∧ 2 / 16 = 0) ∧
    (halted.hart? (.thread 1 0) = some halted.h ∧ halted.h.isHalted = true ∧ halted.h.task.dbg = true ∧ halted.h.t.post.later = [] ∧ (ev halted [1, 0, 3 * 2 ^ 32, 1]).evArg 2 / 2 ^ 32 = 3 ∧ m0.h.isHalted = false ∧
      (ev halted [1, 0, 31, 9]).evArg 2 = 31 ∧ (ev halted [1, 0, 5 * 2 ^ 32, 0x200008]).evArg 2 = 5 * 2 ^ 32) := by
  decide +kernel

/-! ### Host, mailbox, root of trust, steps -/

/-- The test machine with pages in the die's copies, and a host window over one of them. -/
def hosted (l : Leaf) : State :=
  { ev m0 [0, 0xFF8, 8, 9] with
    lat := { m0.lat with tlb := [{ core := none, die := 0, ctx := 1, leaf := l }] }
    dev := { m0.dev with pkgs := [(0, { m0.pkg 0 with wins := [(63, { va := l.va, len := 0x1000, hoff := 0, ctx := 1, gen := 5, opn := true, v := true })] })] } }

def winOf (l : Leaf) : HostAcc := { win := 63, w := { va := l.va, len := 0x1000, hoff := 0, ctx := 1, gen := 5, opn := true, v := true }, va := l.va + 0xFF8 }

theorem witness_HostInputsAndAccesses :
    (let q : Queue := { queue4 with v := false }
     ((2 ^ 32 + 1 : Nat).testBit 0 = true ∧ q.v = false ∧ 4 ≤ q.log2n ∧ m0.live (bits (2 ^ 32 + 1) 43 32) = true ∧ ({ q with log2n := 3 } : Queue).log2n < 4 ∧
       (2 ^ 32 : Nat).testBit 0 = false ∧ (withQueue m0 queue4).queue 0 = queue4 ∧ queue4.v = true ∧ queue4.opn = true ∧ queue4.err = false)) ∧
    ((31 % 65536 + 65536 - 15 % 65536) % 65536 = 2 ^ 4 ∧ (31 % 65536 + 65536 - 16 % 65536) % 65536 ≤ 2 ^ 4 ∧
      2 ^ 4 < (32 % 65536 + 65536 - 15 % 65536) % 65536 ∧ ({ queue4 with err := true } : Queue).err = true ∧ (ev m0 [0, 4096 * 1023, 31]).evArg 1 = 4096 * 1023 ∧ 4100 % 4096 ≠ 0 ∧
      1024 ≤ 4096 * 1024 / 4096 ∧ (ev m0 [0, 0x500000, 999]).evArg 1 = 0x500000) ∧
    ((m0.window 63).v = false ∧ ((hosted hostPage).window 63).v = true ∧ m0.mbGo 0 = false ∧ (0x400030 : Nat) = 0x400000 + 8 * 6 ∧ m0.hostWin 0 0xFF8 = none) ∧
    (Canonical (hosted hostPage) ∧ (hosted hostPage).hostWin 0 0xFF8 = some (winOf hostPage) ∧ 0xFF8 + 8 ≤ (winOf hostPage).w.hoff + (winOf hostPage).w.len ∧
      (hosted hostPage).hostWriteCause 1 0x500FF8 8 = none ∧ ((hosted hostPage).translate none (0 * 4) 1 0 0x500FF8 .hostWrite).2 = .ok hostPage 0x500FF8 ∧
      0x500FF8 + 8 ≤ hostPage.va + pageBytes hostPage.size ∧ (hosted hostPage).hostPending 0 = false ∧
      (hosted hostPage).hostBanks 0 1 .hostWrite (8 / 4096 + 2) 0x500FF8 8 = [] ∧ (hosted hostPage).hostBanks 0 1 .hostRead (8 / 4096 + 2) 0x500FF8 8 = [] ∧
      (hosted hostPage).isLost 0x500FF8 8 = false ∧
      ((hosted hostPage).translate none (0 * 4) 1 0 0x500FF8 .hostRead).2 = .ok hostPage 0x500FF8 ∧ hostPage.kind = 4) ∧
    ((hosted cnt).hostBanks 0 1 .hostWrite (8 / 4096 + 2) 0x300FF8 8 = [] ∧ (hosted cnt).hostWin 0 0xFF8 = some (winOf cnt) ∧ (hosted cnt).hostWriteCause 1 0x300FF8 8 = none ∧
      ((hosted cnt).translate none (0 * 4) 1 0 0x300FF8 .hostWrite).2 = .ok cnt 0x300FF8 ∧ cnt.kind = 3 ∧ 8 = cellBytes cnt.ctype cnt.csize) := by
  repeat' first | exact canonical_of _ (by decide +kernel) | apply And.intro | decide +kernel

/-- A mailbox with a command, and a table of one PRIV region in host memory. -/
def mailed (w : List Nat) : State :=
  { ev m0 [0] with dev := { m0.dev with
      host := [(0x10002, 0x10), (0x10009, 0x10), (0x10010, 0x81), (0x10013, 2), (0x10018, 5)]
      pkgs := [(0, { m0.pkg 0 with mbox := Vector.ofFn fun i => BitVec.ofNat 64 (nth w i.val) })]
      audits := [(0, { recs := [0 :: List.replicate 15 1], next := 1 })] } }

def createWords (prio : Nat) : List Nat := [1, 0x10000, 1 + prio * 2 ^ 16 + 2 ^ 20, 0x30000, 0x20000, 1, 0, 1]

theorem witness_MailboxCommandsComplete :
    (Canonical (mailed []) ∧ (mailed []).mbGo 0 = false ∧ (mailed (createWords 11)).mbGo 0 = true ∧ (mailed (createWords 11)).mbOp 0 = 1 ∧
      (mailed (createWords 11)).createStatus 0 ((mailed (createWords 11)).createOp 0) = 0 ∧
      (mailed (createWords 12)).createStatus 0 ((mailed (createWords 12)).createOp 0) = 4 ∧
      (∀ y, y ∈ m0.work.ctxs → y.handle ≠ 4095)) ∧
    ((mailed [2 + 2 ^ 52, 0, 0, 0, 0, 0, 0, 1]).mbOp 0 = 2 ∧ (mailed []).live ((mailed [2 + 2 ^ 52, 0, 0, 0, 0, 0, 0, 1]).mbCtx 0) = true ∧
      (mailed []).live ((mailed [2 + 4095 * 2 ^ 52]).mbCtx 0) = false) ∧
    (let s := mailed [3 + 2 ^ 52, 0x500000, 1 + 9 * 2, 0, 0, 0, 0, 1]
     s.mbGo 0 = true ∧ s.mbOp 0 = 3 ∧ s.live (s.mbCtx 0) = true ∧ s.ctx? (s.mbCtx 0) = some ctx1 ∧ bits (s.mb 0 1) 56 12 * 4096 = 0x500000 ∧
       ctx1.regions.find? (fun r => r.base == 0x500000) = some (region hostPage) ∧ (region hostPage).kind = 4 ∧ bits (s.mb 0 2) 4 1 = 9 ∧
       (s.mb 0 2).testBit 0 = true ∧ ctx1.regions.find? (fun r => r.base == 0x501000) = none ∧
       ctx1.regions.find? (fun r => r.base == 0x200000) = some (region cnst) ∧ (region cnst).kind ≠ 4 ∧
       ({ ctx1 with regions := [{ region hostPage with sealed := true }] } : Ctx).regions.find? (fun r => r.base == 0x500000 && r.kind == 4 && r.sealed) =
         some { region hostPage with sealed := true }) ∧
    (let s := mailed [4, 0, 1, 0x40000, 0, 0, 0, 1]
     s.mbOp 0 = 4 ∧ ((s.audit 0).recs.filter fun r => decide (0 ≤ nth r 0) && decide (nth r 0 < 0 + 1)).length = 1 ∧
       ((s.audit 0).recs.filter fun r => decide (0 ≤ nth r 0) && decide (nth r 0 < 0 + 256)).length ≠ 256) ∧
    (((withCtx m0 fun c => { c with released := true, stopped := true }).ctx? 1).map (fun c => [c.released, c.stopped]) = some [true, true] ∧
      (withCtx m0 fun c => { c with released := true, stopped := true }).moving 1 = false ∧ ctx1.key ≠ 0) := by
  repeat' first | exact canonical_of _ (by decide +kernel) | apply And.intro | decide +kernel

/-- The machine with one link of package 0 as given. -/
def linked (a : Link) : State := { ev m0 [0, 23, 0, 0] with dev := { m0.dev with pkgs := [(0, { m0.pkg 0 with links := Vector.replicate 24 a })] } }

theorem witness_RootOfTrustLinksAndReset :
    (let s := { ev m0 [0, 63, 5 * 2 ^ 256 + 6] with dev := { m0.dev with pkgs := [(0, { m0.pkg 0 with spdm := { session := true } })] } }
     (s.pkg 0).spdm.session = true ∧ (63 : Nat) ≠ 0 ∧ s.slotServes 0 63 = false ∧ (5 * 2 ^ 256 + 6) / 2 ^ 256 ≠ (5 * 2 ^ 256 + 6) % 2 ^ 256 ∧
       (m0.pkg 0).spdm.session = false) ∧
    ((ev m0 [0]).ev.length ≤ 1 ∧ (ev m0 [0, 15, 9]).ev = [(ev m0 [0, 15, 9]).evArg 0, 15, 9]) ∧
    (((linked {}).link 0 23).out = false ∧ ((linked { out := true }).link 0 23).out = true ∧ ((linked { up := true }).link 0 23).up = true ∧
      ((linked { up := true }).link 0 23).retraining = false ∧ 2 ^ 32 ≤ ((linked { up := true, flits := 2 ^ 32 }).link 0 23).flits) ∧
    (let a : Link := { up := true, hist := List.replicate 16 (2 ^ 8) }
     16 ≤ (((linked a).link 0 23).hist.filter fun m => m.testBit 8).length ∧ (∀ j, j < 8 → (a.hist.filter fun m => m.testBit j).length < 16) ∧
       ((linked a).link 0 23).spareUsed = false ∧ ((linked { a with spareUsed := true }).link 0 23).spareUsed = true ∧
       ((linked { a with retraining := true }).link 0 23).retraining = true) := by
  decide +kernel

/-- ADDI x16, x16, 1 at the program counter of the test thread, and of a rill core. -/
def coded : State := { m0 with mem := [(0x200000, 0x80), (0x200001, 0x01), (0x200002, 0xC2)] }
def rillCoded : State := withH (r0 5) fun h => { h with r := { h.r with imem := [(0, 0x80), (1, 0x01), (2, 0xC2)] } }
def addiGroup : Group := { pfx := [], w0 := 0x00C20180, w1 := 0 }

theorem ok_of {α β : Type} {e : Except α β} (h : e.isOk = true) : ∃ u, e = .ok u := by
  cases e with
  | error => cases h
  | ok u => exact ⟨u, rfl⟩

theorem witness_StepRunsTheDecodedInstruction :
    (rillCoded.agenda = [] ∧ rillCoded.h.id = .rill 5 ∧ rillCoded.canIssue rillCoded.h = true ∧ rillCoded.h.replay = false ∧
      (withH rillCoded fun h => { h with replay := true }).h.replay = true) ∧
    (let a : State := { rillCoded with h := rillCoded.h.awake.rillBoundary }
     readGroup a.fetchWord = .ok addiGroup ∧ decode addiGroup.pfx addiGroup.w0 addiGroup.w1 = .ok (.addi 16 16 1) ∧
       (a.decodes addiGroup).h.implements (Instr.addi 16 16 1).cls = true ∧ (a.decodes addiGroup).lacksPrivilege (.addi 16 16 1) = false ∧
       ∃ u, (a.decodes addiGroup).gapCheck ((a.decodes addiGroup).uses (.addi 16 16 1)) = .ok u) ∧
    (let s : State := { rillCoded with agenda := [.errorOn (.rill 5) 0, .issueOn (.rill 5)] }
     s.agenda = .errorOn (.rill 5) 0 :: [.issueOn (.rill 5)]) ∧
    (coded.h.id = .thread 1 0 ∧ coded.agenda = [] ∧ ∃ k k', coded.core? 1 = some k ∧ (k.wait (coded.readyOn 1)).select (coded.readyOn 1) = some (0, k') ∧
      (let r := (coded.updCore 1 (fun _ => k')).switchTo (.thread 1 0)
       let a : State := { r with h := r.h.awake }
       a.passesBoundary ∧ readGroup a.fetchWord = .ok addiGroup ∧ (a.decodes addiGroup).h.implements (Instr.addi 16 16 1).cls = true ∧
         (a.decodes addiGroup).lacksPrivilege (.addi 16 16 1) = false ∧ ∃ u, (a.decodes addiGroup).gapCheck ((a.decodes addiGroup).uses (.addi 16 16 1)) = .ok u)) := by
  refine ⟨by decide +kernel, ⟨by decide +kernel, by decide +kernel, by decide +kernel, by decide +kernel, ok_of (by decide +kernel)⟩, rfl, by decide +kernel,
    by decide +kernel, { id := 1, tag := 1, ctx := 1, loc := .at 0 }, { id := 1, tag := 1, ctx := 1, loc := .at 0, rr := (Vector.replicate 12 0).set 11 1 },
    by decide +kernel, by decide +kernel, Or.inr ⟨Or.inl (by decide +kernel), Or.inr (by decide +kernel)⟩, by decide +kernel, by decide +kernel,
    by decide +kernel, ok_of (by decide +kernel)⟩

/-- The largest operands of the longest immediates. -/
theorem witness_EncodingsRoundTrip : ∃ i : Instr, i = .movi 31 (BitVec.allOnes 34) ∧ i.wf = true := ⟨_, rfl, by decide +kernel⟩

theorem witness_MemoryStaysCanonical : Canonical coded ∧ Canonical State.reset ∧ (∃ t, step coded = .next t) ∧ ∃ t, step State.reset = .next t := by
  refine ⟨canonical_of _ (by decide +kernel),
    canonical_of _ (by decide +kernel), ?_, ?_⟩
  · exact ⟨_, rfl⟩
  · exact ⟨_, rfl⟩

theorem witness_ResetState : (0 : Nat) < 2 ^ 28 ∧ 2 ^ 28 - 1 < 2 ^ 28 := by decide


/-! ## Witnesses for the wider clauses -/

/-- A pending result of x5 that leaves at the next group, and one of v3. -/
def pend5 : Pend := { reg := rx 5, left := 1, old := 4 }
def pends (s : State) (l : List Pend) : State := withH s fun h => { h with board := l }
def chk1 (s : State) : State := withH s fun h => { h with ctl := { h.ctl with chk := 1 } }

theorem witness_ScoreboardAndGaps :
    ((pends handled [pend5]).h.ctl.h = false ∧ (pends handled [pend5]).h.ctl.tvec ≠ 0 ∧ (pends handled [pend5]).h.Plain ∧
      (pends handled [{ pend5 with later := some 9 }]).h.board = [{ reg := rx 5, left := 1, old := 4, later := some 9 }]) ∧
    ((pends inHandler [pend5]).h.ctl.h = true ∧ (pends inHandler [pend5]).h.Plain) ∧
    (let s := chk1 (pends m0 [pend5])
     s.h.ctl.chk.getLsbD 0 = true ∧ s.lacksPrivilege (.add 1 5 6) = false ∧ rx 5 ∈ (s.uses (.add 1 5 6)).src ++ (s.uses (.add 1 5 6)).dst ∧
     rx 5 ∈ (s.uses (.add 5 1 6)).src ++ (s.uses (.add 5 1 6)).dst ∧ s.h.isPending (rx 5) = true) ∧
    (let s := pends m0 [pend5]
     s.h.ctl.chk.getLsbD 0 = false ∧ s.h.Plain ∧ (∀ p, p ∈ (regsOf (.add 1 5 6)).src → p.idx < 32) ∧
     rx 5 ∈ (regsOf (.add 1 5 6)).src ∧ s.h.isPending (rx 5) = true ∧ s.h.board.filter (fun p => p.reg == rx 5) = [pend5] ∧
     (regsOf (.add 5 1 6)).dst = [rx 5] ∧ (5 : Fin 32) ≠ 0 ∧ m0.h.Plain ∧ pend5.left ≤ 1 + 0 ∧ s.h.isThread = true ∧
     s.ctx? s.h.task.ctx = some ctx1) := by
  unfold Hart.Plain; decide +kernel

theorem witness_ClassesAreChecked :
    ¬ (chk1 (pends m0 [pend5])).LacksClass (.add 1 5 6) ∧ m0.LacksClass (.recv 1) ∧ (r0 0).LacksClass (.vperm 1 2 3) ∧ ¬ (r0 0).LacksClass (.recv 1) := by
  unfold State.LacksClass; decide +kernel

/-- A store behind one whose page is absent and asked for; stores of each width that a CONST page refuses. -/
def absent : Later := { entry := 0, pc := 0x200000, what := .store 0x400FF8 8 7, ask := some 0x400FF8 }

theorem witness_HeldAndRefusedStores :
    (let s : State := { withH m0 fun h => { h with t := { h.t with post := { h.t.post with later := [absent] } } } with
       lat := { m0.lat with tlb := [] } }
     s.h.t.post.later = absent :: [] ∧ absent.bank = none ∧ absent.ask = some 0x400FF8 ∧ s.reaches 0x400FF8 .store = .fault 1 ∧
     s.regionOf s.h.task.ctx 0x400FF8 = some (region fill8) ∧ (region fill8).kind ≠ 4 ∧ s.onScr 0x100FF8 = false ∧
     lockJudge true 0 0x100FF8 8 s.locks = .ok ∧ s.isStopping s.h.task.ctx = false) ∧
    (let s := xs m0 [(1, 0x200FC0)]
     s.letsGo ∧ Unbound s [31] ∧ 0x200FC0 % 64 = 0 ∧ lockJudge true 0 0x200FC0 192 s.locks = .ok ∧ lockJudge true 0 0x200FC0 1 s.locks = .ok ∧
     s.reaches 0x200FC0 .store = .fault 6) ∧ m0.stores 0x100FF8 8 := by
  refine ⟨by decide +kernel, ⟨by unfold State.letsGo; decide +kernel, ?_, by decide +kernel, by decide +kernel, by decide +kernel, by decide +kernel⟩,
    by unfold State.stores; decide +kernel⟩
  intro r _; exact unbound_m0 [r] r (by simp)

/-- Sends to a port, to the host interface, to a node of no package, to compute core 0, and the operands that are refused. -/
theorem witness_SendsToEveryKindOfEndpoint :
    (isPort 0x3F0 = true ∧ 0x3F0 < 1024 ∧ endpointOk 0x3F0 = true ∧ 0x3F0 / 1024 = 0 / 1024 ∧ endpointOk 0x3FF = true ∧ isPort 0x3FF = false) ∧
    (endpointOk 0x100 = true ∧ isPort 0x100 = false ∧ 0x100 % 1024 < 0x210 ∧ (2 ^ 63 : Nat).testBit 63 = true ∧ (2 ^ 63 + 1) % 4 ≠ 0 ∧
      isPort (1024 + 0x3F0) = false ∧ isPort ((1024 + 0x3F0) % 1024) = true) ∧
    (let m : RMsg := { hdr := 2 ^ 48 + 5, payload := [1, 2], src := 0, dst := 0x100 }
     let c : Core := { id := 1, tag := 1, ctx := 1, loc := .at 0 }
     let o := op 5 2 (.cpy 2 1 0 0 0 0 64 0 0) .running
     (withOps m0 [o]).coreOfNode m = some c ∧ m0.coreOfNode m = none ∧ hdrType m.hdr = 1 ∧ bits m.hdr 19 0 = 5 ∧
     (withOps m0 [o]).work.ops.find? (fun o => o.core == 1 && (o.slot == 5 && !o.replied)) = some o ∧ (withOps m0 [o]).isStopping 1 = false) ∧
    (let s := withH m0 fun h => { h with stat := .waiting (.repair 0x100000) }
     (s.hart? (.thread 1 0)).bind Hart.repairOf = some 0x100000 ∧ hdrType (2 * 2 ^ 48) = 2) ∧
    (let o : Op := { op 5 2 (.cpy 2 1 0 0 0 0 64 0 0) .running with entry := true }
     (withOps m0 [o]).work.ops.find? (fun o => o.core == 1 && (o.slot == 5 && o.entry)) = some o ∧ hdrType (3 * 2 ^ 48) = 3) := by
  decide +kernel

/-- JOINV of lanes 0 and 1 in two units, and FREEZE.R over the ends of two pages. -/
theorem witness_JoinvAndFreezeRangeOverSeveralUnits :
    (let s := (m0.setM 1 3).setV 3 (BitVec.ofNat 1536 (2 ^ 32))
     s.letsGo ∧ s.m 1 ≠ 0 ∧ ((List.range 48).filter fun j => (s.m 1).getLsbD j) = [0, 1] ∧
     (∀ j, j ∈ [0, 1] → s.translate (some s.coreId) (physDie s.phys) s.h.task.ctx s.h.task.num
       ((0x800000 + lane 32 (s.v 3) j * cellBytes 9 0) % 2 ^ 64) .latUpdate = (s, .ok sum (0x800000 + 64 * j)) ∧
       s.mustStay s.h (.unit (unitOf 9 sum.csize (0x800000 + 64 * j))) true = false) ∧
     unitOf 9 0 0x800000 ≠ unitOf 9 0 0x800040) ∧
    (let pgs : List Leaf := [cnt, { fill8 with va := 0x301000 }]
     let s : State := { m0 with lat := { m0.lat with tlb := pgs.map fun l => { core := some 1, die := 0, ctx := 1, leaf := l } } }
     s.letsGo ∧ s.h.t.post.sent = [] ∧ s.latPages (0x300FC0 + 128) 0x300FC0 pgs ∧ (rangeUnits (0x300FC0 + 128) 0x300FC0 pgs).map (·.2) = [0x300FC0, 0x400000] ∧
     0 < s.h.t.post.j.size) := by
  unfold State.letsGo State.latPages; simp only [State.latPages]; decide +kernel

/-- Lines of an FRDV whose second is refused, and a read of two lines of which one has a copy. -/
theorem witness_FrozenReadsOfSeveralLines :
    (let a : LineRes := { part := 0, value := 1, cause := 0, addr := 0x300F40, detail := 0 }
     let b : LineRes := { part := 1, value := 0, cause := 0x12, addr := 0x300F80, detail := 0 }
     (answered (.lines 2 [b, a])).h.reply = some (.lines 2 [b, a]) ∧ 2 ≤ [b, a].length ∧ b ∈ [b, a] ∧ b.part < 2 ∧ b.cause ≠ 0 ∧
     (∀ q, q ∈ [b, a] → q.part < b.part → q.cause = 0) ∧ ∀ q, q ∈ [b, a] → q.part = b.part → q = b) ∧
    (let s : State := { m0 with lat := { m0.lat with cache := [{ cluster := 0, line := 0x300F40 / 64, dirty := false, gen := some 5, img := 7 }] } }
     (s.copyOf 0x300F40 5).isSome = true ∧ s.copyOf 0x300F80 5 = none ∧ s.h.reply = none ∧ s.h.stat = .ready ∧ s.h.t.post.later = [] ∧
     (∀ i, i ≤ 1 → s.translate (some s.coreId) (physDie s.phys) s.h.task.ctx s.h.task.num (0x300F40 + 64 * i) .latRead = (s, .ok cnt (0x300F40 + 64 * i)) ∧
       (s.homeOf cnt (0x300F40 + 64 * i) (0x300F40 + 64 * i)).isSome = true ∧
       s.mustStay s.h (.unit (unitOf 7 cnt.csize (0x300F40 + 64 * i))) false = false)) ∧ Unbound m0 [31] :=
  ⟨by decide +kernel, by decide +kernel, unbound_m0 _⟩

/-- A gang member with a landing region of W at 0 and an update on its way to it, and one with none. -/
def gangLand (sent : List Sent) : State :=
  let w : Win := { buf := 0, base := 0, len := 0x6000, land := true, tsize := 3, lgen := 5, filled := List.replicate 384 false }
  let s := withScr engine fun c => { c with wins := [w] ++ c.wins.drop 1 }
  withH s fun h => { h with t := { h.t with task := { h.t.task with gang := some 3 }, post := { h.t.post with sent := sent } } }

theorem witness_DisarmOfLandingRegions :
    (let s := gangLand []
     (∀ w, w ∈ s.h.t.scr.landings 0 0 0x6000 → s.mustStay s.h (.member 3 s.h.task.rank 0 w.base) false = false) ∧ s.h.t.post.later = []) ∧
    (let s := gangLand [{ dest := .member 3 0 0 0, upd := true, home := .member 3 0, seq := 0 }]
     (∃ w, s.h.t.scr.landings 0 0 0x6000 = [w] ∧ s.mustStay s.h (.member 3 s.h.task.rank 0 w.base) false = true) ∧ s.h.task.gang = some 3 ∧
       s.h.t.scr.wholeRegions 0 1 = true) := by
  refine ⟨by decide +kernel, ⟨_, rfl, by decide +kernel⟩, by decide +kernel, by decide +kernel⟩

/-- A record with two gates in the PRIV page, and a gang member that exits. -/
theorem witness_SpawnOfTwoGatesAndExitOfMembers :
    (let s : State := { m0 with mem := [(0x100040, 0x08), (0x100042, 0x30), (0x100048, 5), (0x100050, 1), (0x100060, 0x10), (0x100062, 0x30), (0x100068, 5), (0x100070, 2)] }
     let w := [0x200000, 0x100040, 0, 0, 0, 0, 0, 2 * 2 ^ 61 + 2 ^ 58]
     let e := fun (i : Nat) => Mem.words s.mem (0x100040 + 32 * i) 4
     let g := fun (i : Nat) => ({ gateOf (e i) with pa := 0x300008 + 8 * i, ty := 7, sz := 0 } : Gate)
     s.cacheRoom ∧ recNg w = 2 ∧ recArg w 60 58 = some 0x100040 ∧
     ∀ i, i < 2 → lockJudge false 0 (0x100040 + 32 * i) 32 s.locks = .ok ∧
       s.translate (some s.coreId) (physDie s.phys) 1 7 (0x100040 + 32 * i) .load = (s, .ok priv (0x100040 + 32 * i)) ∧ priv.kind ≠ 5 ∧
       s.isLost (0x100040 + 32 * i) 32 = false ∧ s.fills (0x100040 + 32 * i) 32 ∧ gateBad (e i) = false ∧ (g i).cell = 0x300008 + 8 * i ∧
       s.translate (some s.coreId) (physDie s.phys) 1 7 (g i).cell .latRead = (s, .ok cnt (0x300008 + 8 * i)) ∧ (g i).badTrigger = false) ∧
    (let s := withH { m0 with work := { m0.work with gangs := [{ num := 3, ctx := 1, members := [7], placed := true }] } } fun h =>
       { h with t := { h.t with task := { h.t.task with gang := some 3 } } }
     s.h.task.gang = some 3 ∧ (s.gang? 3).isSome = true ∧ s.heldOps s.h = [] ∧ s.task? s.h.task.num = some task7) := by
  unfold State.cacheRoom State.fills; decide +kernel

/-- An update one ahead of a unit in each state; a SATN32L cell with its freeze bit and a full count; a filled cell of the same and of
other bytes; a full CAND reader. -/
theorem witness_JoinUnitsAdvanceAndFill :
    ((6 + 65536 - (lunit .frozen).gen % 65536) % 65536 = 1 ∧ (6 + 65536 - (lunit .conflict).gen % 65536) % 65536 = 1 ∧
      (5 + 65536 - (lunit .frozen).gen % 65536) % 65536 = 0 ∧ (lunit .frozen).st = .frozen) ∧
    (let u : LUnit := { lunit .growing with cells := List.replicate 8 (2 ^ 96 + 3 * 2 ^ 64 + 2) }
     let c := joinCell 6 (nth u.cells 7) (3 * 2 ^ 32 + 1)
     c.testBit 96 = true ∧ c % 2 ^ 32 = c / 2 ^ 64 % 2 ^ 32 ∧
     ¬ ((joinCell 6 (nth u.cells 7) (3 * 2 ^ 32)) % 2 ^ 32 = (joinCell 6 (nth u.cells 7) (3 * 2 ^ 32)) / 2 ^ 64 % 2 ^ 32)) ∧
    (let u : LUnit := { lunit .growing with filled := List.replicate 8 true, cells := List.replicate 8 9 }
     u.filled.getD 7 false = true ∧ nth u.cells 7 = 9 ∧ nth u.cells 7 ≠ 8 ∧ passed 8 9 true true 8 = false) ∧
    (let r : LReq := { kind := .thr, gen := 5, members := [], trigs := [8], cand := true }
     r.cand = true ∧ ∀ t, t ∈ r.trigs → passed 8 9 true r.cand t = false) ∧ (0x3F800000 : Nat) < 2 ^ 32 ∧
    0x7F800001 / 2 ^ 23 % 2 ^ 8 = 255 ∧ 0x7F800001 % 2 ^ 23 ≠ 0 ∧ 0xFF800000 / 2 ^ 23 % 2 ^ 8 = 255 ∧ 0xFF800000 % 2 ^ 23 = 0 := by
  decide +kernel

/-- A write-back of one line of the PRIV page: its bank is held, or not. -/
def cleaningLine (inval : Bool) : WriteBack := { hart := .thread 1 0, ctx := 1, lo := 0x100000, hi := 0x100040, inval := inval, lines := [(0x100000 / 64, some 7)] }
def withWb (s : State) (w : WriteBack) : State := { ev s [0] with lat := { s.lat with writeBacks := [w] } }

theorem witness_RepairsWriteBacksAndMoves :
    ((pfMsg 0xF00000).dest = .node 0 ∧ (m0.faultsAt 0).length < 64 ∧ m0.isStopping 1 = false ∧ (ev m0 [0] [pfMsg 0xF00000]).delivers (pfMsg 0xF00000) ∧
      64 ≤ (({ m0 with lat := { m0.lat with faults := List.replicate 64 (pfMsg 0x100000) } } : State).faultsAt 0).length) ∧
    (∀ x, x ∈ (cleaningLine false).lines → x.2 ≠ none ∧ (withWb m0 (cleaningLine false)).dramWaits ((cleaningLine false).hart.pkg m0) (64 * x.1) = false) ∧
    (let s : State := { m0 with dev := { m0.dev with banks := [(buOf 0x100000, { m0.bank 0 with phase := .unit })] } }
     (withWb s (cleaningLine false)).dramWaits ((cleaningLine false).hart.pkg s) 0x100000 = true) ∧
    ((cleaningLine false).lines.map (·.1)).Nodup ∧ (0x100000 / 64, some 7) ∈ (cleaningLine false).lines ∧ Mem.readN m0.mem 0x100000 64 ≠ 7 ∧
    Mem.readN m0.mem (64 * (0x100000 / 64)) 64 = 0 ∧
    ((tabled.frameAt 0).map (·.size) = some (pageBytes 0) ∧ 0x8FFFFFF000 < 2 ^ 58 ∧ Mem.wf tabled.mem = true ∧ (∀ d, d ∈ tabled.lat.dram → d.1 ≠ 0) ∧
      ∀ e, e ∈ walkPath tabled.mem 0x100000 4 (bits (tabled.root 1 0x100000) 57 13 * 8192) →
        overlaps (e / 8192 * 8192) (e / 8192 * 8192 + 8192) 0 0x1000 = false ∧ overlaps (e / 8192 * 8192) (e / 8192 * 8192 + 8192) 0x8FFFFFF000 0x8FFFFFF1000 = false) := by
  unfold State.delivers
  and_intros <;> first | decide +kernel | simp [State.dramWaits, State.bankHeld, State.bank, withWb, ev, assocGet]

/-- A cancel of a copy whose unit has begun, and of one that waits for a bank; a redirect. -/
theorem witness_CancelsMeetUnits :
    (let p := { op 5 2 (.cpy 2 1 0 0 0 0 64 0 0) .running with begun := true, written := 1 }
     let m := toThread (.cancel 1 5 0)
     let s := ev (withOps m0 [p]) [0] [m]
     s.delivers m ∧ s.op? 1 5 0 = some p ∧ p.waitVa = none ∧ (s.takeMsg 0).isSome = true ∧ (∀ t, s.takeMsg 0 = some (m, t) → t.stalled p = false) ∧ s.isStopping 1 = false) ∧
    (let p := { op 5 2 (.cpy 2 1 0 0 0 0 64 0 0) .queued with aft := [] }
     let m := toThread (.redirect 1 5 0)
     let s := ev (withOps m0 [p]) [0] [m]
     s.delivers m ∧ s.op? 1 5 0 = some p ∧ s.isStopping 1 = false) := by
  refine ⟨⟨by unfold State.delivers; decide +kernel, by decide +kernel, rfl, by decide +kernel, fun t h => ?_, by decide +kernel⟩, by unfold State.delivers; decide +kernel⟩
  have e : ((ev (withOps m0 [{ op 5 2 (.cpy 2 1 0 0 0 0 64 0 0) .running with begun := true, written := 1 }]) [0] [toThread (.cancel 1 5 0)]).takeMsg 0).map
      (fun x => x.2.stalled { op 5 2 (.cpy 2 1 0 0 0 0 64 0 0) .running with begun := true, written := 1 }) = some false := by decide +kernel
  simpa [h] using e

/-! Strips, blocks and rows. -/

def mxeB48 : Op := op 5 1 (.mxe false false 0 5 0 0 0 0 1 0 0 0x3F800000 1 0x1000) .running
def convOp : Op := op 5 2 (.cpy 3 1 8 0 0 4 1 0 0) .running
def cpyaOp : Op := op 5 2 (.cpya 3 1 0 0 0 0 0 [1 + 2 ^ 16, 1, 0, 0, 0, 0, 0, 0]) .running
def cpygOp : Op := op 5 2 (.cpyg 3 1 0 0 0 0 0 [64, 16 * 2 ^ 32 + 1, 0x100000, 0, 0, 0, 0, 0]) .running
def pushOp : Op := op 5 2 (.cpy 4 1 0 7 0 64 64 0 0) .running
def collB48 : Op := { op 5 5 (.coll 2 2 1 0 0 0 0 [0, 0, 0, 0, 0, 0, 0, 0] 3 0) .running with work := collOp.work }

theorem witness_StripsOfEveryKind :
    ((running m0 mxeB48).keepsTurn mxeB48 = true ∧ m0.h.t.scr.inWindows 1 (0x1000 + 0 * 1) 1 = true ∧ m0.h.t.scr.plain 1 (0x1000 + 0 * 1) 1 = true ∧
      0 + 48 * 1 ≤ 0x1000 + 0 * 1 ∧ m0.h.t.scr.inWindows 1 0 48 = true) ∧
    ((running m0 convOp).keepsTurn convOp = true ∧ convOp.written = 0 ∧ 1 ≤ 8 ∧ convSizes 8 = (4, 5) ∧ 0 * 4096 < 4 / 4 * 5 ∧ m0.h.t.scr.readable 0 0 4 ∧ m0.h.t.scr.writable 2 0 5) ∧
    ((running m0 cpyaOp).keepsTurn cpyaOp = true ∧ (affineOf [1 + 2 ^ 16, 1, 0, 0, 0, 0, 0, 0]).e = 1 ∧ 0 < (affineOf [1 + 2 ^ 16, 1, 0, 0, 0, 0, 0, 0]).total) ∧
    ((running m0 cpygOp).keepsTurn cpygOp = true ∧ 64 % 2 ^ 13 = 64 ∧ (16 * 2 ^ 32 + 1) % 2 ^ 32 = 1 ∧
      (running m0 cpygOp).translate (some 1) (physDie ((running m0 cpygOp).physOf 1)) 1 7 (0x100000 + 4 * 0) .engRead = (running m0 cpygOp, .ok priv 0x100000) ∧
      (running m0 cpygOp).isLost 0x100000 4 = false ∧ Mem.readN (running m0 cpygOp).mem 0x100000 4 < (16 * 2 ^ 32 + 1) / 2 ^ 32 % 2 ^ 32) ∧
    (0 < tiled.h.t.scr.rings[(7 : Fin 8)].tile ∧ (0 + 1) * tiled.h.t.scr.rings[(7 : Fin 8)].tile ≤ 64 ∧ tiled.h.t.scr.readable 0 0 0) := by
  repeat' first | exact readable_of _ _ _ _ (by decide +kernel) | exact writable_of _ _ _ _ (by decide +kernel) | apply And.intro | decide +kernel

/-- A gang of two whose first member has supplied its block of a broadcast, or not yet; one of which nothing is missing for COLL.A2A. -/
def ganged2 (w : OpWork) (mine : List (List Nat)) (yours : List (List Nat)) : State :=
  let o := op 5 5 w .running
  let s := withH m0 fun h => { h with t := { h.t with task := { h.t.task with gang := some 3 } } }
  { s with work := { s.work with
      tasks := [{ task7 with gang := some 3 }]
      gangs := [{ num := 3, ctx := 1, members := [7, 8], placed := true, colls := [
        { index := 0, rank := 0, key := w.collKey, op := o, blocks := mine },
        { index := 0, rank := 1, key := w.collKey, op := { o with core := 2, task := 8 }, blocks := yours }] }] } }

def instBits (s : State) (w : OpWork) (u : Nat) : Option (List Nat × List Bool) :=
  ((running s (op 5 5 w .running)).inst? (op 5 5 w .running)).map fun i =>
    ([i.op, i.n, i.rank, i.rsp, i.ssp, i.d.cap, i.d.units i.op i.n], [i.d.bfmt.isNone, i.disagree, (i.blocksOf i.rank u).isSome, i.lost u, i.complete u])

def agB48 : OpWork := .coll 2 2 1 0 0 0 0 [3, 1, 0, 0, 0, 0, 0, 0] 3 0
def arF32 : OpWork := .coll 0 2 1 0 0 0 0 [0, 48, 0, 0, 0, 0, 0, 0] 3 0
def a2a (rows : Nat) : OpWork := .coll 3 2 1 0 0 0 0 [8, 1, 0, rows * 2 ^ 32 + 1, 0x100000, 0, 0, 0] 3 0

theorem witness_CollectivesOfTwo :
    instBits (ganged2 collOp.work [[5]] [[5]]) collOp.work 0 = some ([4, 2, 0, 2, 1, 0, 1], [true, false, true, false, true]) ∧
    instBits (ganged2 agB48 [[5, 7]] [[6, 8]]) agB48 0 = some ([2, 2, 0, 2, 1, 0, 2], [false, false, true, false, true]) ∧
    ((running (ganged2 arF32 [] []) (op 5 5 arF32 .running)).inst? (op 5 5 arF32 .running)).map (fun i =>
      ((i.part i.rank).map (·.blocks.length), i.op, i.d.bfmt.isNone, i.disagree, i.lost 0, (i.d.needs i.op i.n 0).any fun p => p != i.rank && (i.blocksOf p 0).isNone)) =
      some (some 0, 0, true, false, false, true) ∧
    ((running (ganged2 (a2a 1) [[0, 1]] [[1, 0]]) (op 5 5 (a2a 1) .running)).inst? (op 5 5 (a2a 1) .running)).map (fun i =>
      ([i.op, i.n, i.d.cap, i.d.rcv], [(i.blocksOf i.rank 0).isSome, i.complete 0, i.disagree, i.lost 0],
        (List.range 2).map fun q => ((List.range 0).map fun y => nth ((i.blocksOf y 0).getD []) q).sum + nth ((i.blocksOf 0 0).getD []) q)) =
      some ([3, 2, 1, 0x100000], [true, true, false, false], [0, 1]) ∧
    (((running (ganged2 (a2a 0) [[0, 1]] [[1, 0]]) (op 5 5 (a2a 0) .running)).inst? (op 5 5 (a2a 0) .running)).map (fun i => (i.d.cap, nth ((i.blocksOf 0 0).getD []) 1)) =
      some (0, 1)) ∧
    (let o := { op 5 5 (a2a 1) .running with units := 1 }
     let s := running (withH (ganged2 (a2a 1) [[1, 0], [], []] [[0, 1], [], []]) fun h => h) o
     (s.inst? o).map (fun i => ((i.blocksOf i.rank 1).isSome, (i.part 0).map (fun p => s.gone p.op.hart))) = some (true, some false)) := by
  and_intros <;> decide +kernel

/-- A bank call of three rows whose second row has run before the first. -/
def call3 (ahead : List RowEnd) : Op :=
  { op 5 4 (.bankcall 5 0 [1] [(1, 0x100C00, 0, 3072, [0x100C00, 0x101000, 0x101400])]) .running with node := 0x42, ahead := ahead }

theorem witness_RowsOfCallsKeepTheirOrder :
    (let u : BqUnit := { unit 5 (some (1, 5, 0)) with row := 1 }
     let s : State := { banked [u] with work := (withOps m0 [call3 []]).work }
     (s.bank 0).cur = none ∧ s.buFree 0 = true ∧ s.unitOp u = some (call3 []) ∧ (call3 []).units < u.row ∧ (∀ r, r ∈ (call3 []).ahead → r.row ≠ (call3 []).units) ∧
     s.nextUnit 0 = some u) ∧
    (∃ r : RowEnd, r.row = 1 ∧ r.late = false ∧ r.st = .done ∧ (call3 [r]).ahead = [r] ∧ (call3 [r]).cut = false ∧ (call3 [r]).hold = 0 ∧
      (call3 [r]).units + 2 < (call3 [r]).work.bankRowCount) ∧
    (∀ x, x ∈ (banked [unit 5]).allHarts → x.t.post.later = []) ∧
    ((({ wr := [] } : BankUnit).wr = []) ∧ (banked [unit 5]).unitOp (unit 5) = none) := by
  refine ⟨by decide +kernel, ?_, by decide +kernel, rfl, by decide +kernel⟩
  exact ⟨⟨1, .done, false, []⟩, by decide, by decide, by decide, by decide, by decide, by decide, by decide +kernel⟩

/-! Contexts, hosts, links and steps. -/

theorem witness_MovesRunsAndSteps :
    (crowded.leftLocks 2 0 = [] ∧ (∀ e, e ∈ mover.t.rlt → e.2.left = false) ∧ mover.Plain ∧ (∀ x, x ∈ crowded.allHarts → x.t.post.later = [])) ∧
    (halted.willStop halted.h.task.ctx = false ∧ (∀ m, m ∈ halted.lat.net → m.body.isReply = false) ∧ halted.h.Plain ∧ halted.h.stat = .halted none false) ∧
    ((withH halted fun h => { h with stat := .halted (some (.fenceJ 0)) false }).h.stat = .halted (some (.fenceJ 0)) false) := by
  unfold Hart.Plain; decide +kernel

/-- Host accesses of a part that the port has not, without a window, past its end, to a sealed region, to a CONST page and to part of a
cell. -/
def hostedWith (l : Leaf) (args : List Nat) : State := { hosted l with ev := args }

theorem witness_HostAccessesAreRefused :
    (let s := hostedWith hostPage [0, 0, 8, 9, 2]; s.evArg 4 = 2) ∧ (¬ (2 ^ 36 + 8 ≤ 64 * 2 ^ 30)) ∧ (hosted hostPage).hostWin 0 0x1000 = none ∧
    ((hosted hostPage).hostWin 0 0xFF8 = some (winOf hostPage) ∧ (winOf hostPage).win < 64 ∧ (winOf hostPage).w.hoff + (winOf hostPage).w.len < 0xFF8 + 16 ∧
      0xFF8 + 8 ≤ (winOf hostPage).w.hoff + (winOf hostPage).w.len) ∧
    ((hosted cnst).regionOf (winOf cnst).w.ctx (winOf cnst).va = some (region cnst) ∧ (region cnst).sealed = false ∧ (region cnst).kind ≠ 3 ∧ (region cnst).kind ≠ 4) ∧
    ((hosted cnt).regionOf (winOf cnt).w.ctx (winOf cnt).va = some (region cnt) ∧ (region cnt).sealed = false ∧ (region cnt).kind = 3 ∧
      badType (region cnt).ctype (region cnt).csize = false ∧ 4 % cellBytes (region cnt).ctype (region cnt).csize ≠ 0) ∧
    (let s : State := { hosted hostPage with work := { m0.work with ctxs := [{ ctx1 with regions := [{ region hostPage with sealed := true }] }] } }
     s.hostWin 0 0xFF8 = some (winOf hostPage) ∧ s.regionOf 1 (winOf hostPage).va = some { region hostPage with sealed := true }) ∧
    (hosted hostPage).hostPending 0 = false ∧
    (let m : Msg := { latMsg .join with src := .host 0 false }
     ({ hosted hostPage with lat := { (hosted hostPage).lat with net := [{ m with body := .lat { kind := .join, ty := 7, gen := 5, members := [{ mem 1 with who := .host 0 false }] } }] } } : State).hostPending 0 = true) := by
  decide +kernel

/-- A context to be scrubbed while a host join of it is under way. -/
theorem witness_ScrubsLinksAndReports :
    (m0.hostJoining 1 = false ∧
      ({ m0 with lat := { m0.lat with net := [{ latMsg .join with src := .host 0 false, body := .lat { kind := .join, ty := 7, gen := 5, members := [{ mem 1 with who := .host 0 false }] } }] } } : State).hostJoining 1 = true ∧
      (m0.physAt 0).st = .held 1 ∧ 0 ∈ (ev m0 [1, 0]).ev.drop 1) ∧
    ((ev m0 [0, 0, 0, 0, 255]).evArg 4 = 255 ∧ (ev m0 [0, 0, 0, 0, 16]).evArg 4 = 16) ∧
    ((ev m0 [0, 23, 1, 0]).evArg 3 < 24 ∧ ((ev m0 [0, 23, 1, 0]).link 0 23).out = false ∧ ((ev m0 [0, 23, 1, 0]).link 1 0).out = false ∧ ((0 : Nat) ≠ 1 ∨ (23 : Nat) ≠ 0) ∧
      ((linked { out := true }).link 0 23).out = true) ∧
    (let up : Link := { up := true, flits := 2 ^ 32 - 1 }
     ((linked up).link 0 23).up = true ∧ ((linked up).link 0 23).retraining = false ∧ ((linked up).link 0 23).flits < 2 ^ 32 ∧ ((linked up).pkg 0).mgmt.xfer < 2 ^ 32 ∧
     (ev (linked up) [0, 23, 0, 1, 63]).evArg 4 < 64 ∧ (ev (linked up) [0, 23, 0, 1, 63]).evArg 4 ≠ 0 ∧ (ev (linked up) [0, 23, 0, 1, 0]).evArg 3 = 1 ∧
     ¬ (((linked { up := true, flits := 2 ^ 32 }).link 0 23).flits < 2 ^ 32)) := by
  decide +kernel

/-- A rill core with two words in its instruction memory, and its state before a group. -/
def rillWords (w0 w1 : Nat) : State := withH (r0 5) fun h => { h with r := { h.r with imem := Mem.writeN [] 0 8 (w0 + 2 ^ 32 * w1) } }

/-- No extension word, and a PAGE word at the start of the group. -/
theorem noPrefixes (s : State) : s.HasPrefixes [] := ⟨List.nodup_nil, fun _ _ h => by simp at h⟩
theorem onePrefix (s : State) (w : Nat) (h : s.fetchWord 0 = .ok w) (g : w % 4 = 1 ∧ bits w 6 3 = 6 ∧ bits w 2 2 = 0) : s.HasPrefixes [6] := by
  refine ⟨by decide, fun j k e => ?_⟩
  match j with
  | 0 => simp at e; subst e; exact ⟨by decide, w, h, g.1, g.2.1, by simp [g.2.2]⟩
  | _ + 1 => simp at e

theorem witness_StepRefusesGroups :
    ((rillWords 0x84 0).HasPrefixes [] ∧ (rillWords 0x84 0).fetchWord 0 = .ok 0x84 ∧ bits 0x84 2 2 = 1) ∧
    ((rillWords 0x131 0x80).HasPrefixes [6] ∧ (rillWords 0x131 0x80).fetchWord 1 = .ok 0x80 ∧ bits 0x80 2 2 = 0) ∧
    ((rillWords 0x131 0x135).HasPrefixes [6] ∧ (rillWords 0x131 0x135).fetchWord 1 = .ok 0x135 ∧ bits 0x135 2 2 = 1 ∧ 0x135 % 4 = 1 ∧ bits 0x135 6 3 ∈ [6]) ∧
    ((rillWords 3 0).fetchWord 0 = .ok 3 ∧ bits 3 2 2 = 0 ∧ 3 % 4 = 3 ∧ (rillWords 1 0).fetchWord 0 = .ok 1 ∧ bits 1 6 3 ∉ [1, 3, 6, 10]) ∧
    (let s := rillWords 0 0; readGroup s.fetchWord = .ok ⟨[], 0, 0⟩ ∧ decode [] 0 0 = .error .unassigned) ∧
    (let s := rillWords 0x40600 0; readGroup s.fetchWord = .ok ⟨[], 0x40600, 0⟩ ∧ decode [] 0x40600 0 = .error (.reserved false)) ∧
    (let s := rillWords 0x2B82 0xFFFFFFFF; readGroup s.fetchWord = .ok ⟨[], 0x2B82, 0xFFFFFFFF⟩) ∧
    (let s := rillWords 0x9 0x84; readGroup s.fetchWord = .ok ⟨[⟨.imm, 0⟩], 0x84, 0⟩ ∧ decode [⟨.imm, 0⟩] 0x84 0 = .error (.pfx 0)) ∧
    (let s := rillWords 0x40001402 0; readGroup s.fetchWord = .ok ⟨[], 0x40001402, 0⟩ ∧ decode [] 0x40001402 0 = .error .wField) ∧
    (let s := rillWords 0x1100 0
     readGroup s.fetchWord = .ok ⟨[], 0x1100, 0⟩ ∧ decode [] 0x1100 0 = .ok (.ldI16 none 0 0 0) ∧ s.h.isThread = false ∧
       (Instr.ldI16 none 0 0 0).cls = .memory) ∧
    (let s := rillWords 0x40000E00 0
     let g : Group := ⟨[], 0x40000E00, 0⟩
     readGroup s.fetchWord = .ok g ∧ decode [] 0x40000E00 0 = .ok .eret ∧ Instr.eret.cls = .control ∧ (s.decodes g).lacksPrivilege .eret = true) ∧
    (let s := chk1 (pends (rillWords 0x00C20180 0) [{ pend5 with reg := rx 16 }])
     let b := s.decodes addiGroup
     readGroup s.fetchWord = .ok ⟨[], 0x00C20180, 0⟩ ∧ b.lacksPrivilege (.addi 16 16 1) = false ∧ b.h.ctl.chk.getLsbD 0 = true ∧
       rx 16 ∈ (b.uses (.addi 16 16 1)).src ++ (b.uses (.addi 16 16 1)).dst ∧ b.h.isPending (rx 16) = true) ∧
    (let s := rillWords 0xC0D00 0
     let g : Group := ⟨[], 0xC0D00, 0⟩
     readGroup s.fetchWord = .ok g ∧ decode [] 0xC0D00 0 = .error (.entry (.bmaskNone 0 0)) ∧ (Instr.bmaskNone 0 0).cls = .control ∧
       ∀ r, r ∈ ((s.decodes g).uses (.bmaskNone 0 0)).src ++ ((s.decodes g).uses (.bmaskNone 0 0)).dst → (s.decodes g).h.isPending r = false) := by
  repeat' first | exact noPrefixes _ | exact onePrefix _ 0x131 (by decide +kernel) (by decide) | apply And.intro | decide +kernel

theorem witness_OpcodesHaveTheirClass : decode [] 0x16A00302 0x00009000 = .ok (.freeze 0 9 0 0 10 11) ∧ opcodeClass [] 0x16A00302 = some .lattice ∧ opcodeClass [] 0 = none := by
  decide +kernel

/-- Numbers of blocks: a macro at offset 0 of one block, integers of 48 columns, and codes that are special or not. -/
theorem witness_MatrixNumbers :
    (∀ j, j < 1 → (engine.h.t.scr.macroAt (0 + (0 * 1 + j) * 0x6000)).isSome = true) ∧
    (let a : ActBlock := ⟨List.replicate 48 1, 0, false⟩
     let m : Armed := { off := 0, fmt := 0, region := 0, q := List.replicate 48 [1], col := [150], csum := [] }
     m.fmt ≤ 13 ∧ a.q.length = 48 ∧ m.q.length = 48 ∧ a.special = false ∧ (0 : Nat) ∉ [5, 6, 7] ∧ (6 : Nat) ∈ [5, 6, 7]) ∧
    isSpecial 0 0x7F80 ∧ ¬ isSpecial 2 0x7E ∧ ¬ isSpecial 5 0xFF := by
  unfold isSpecial; decide +kernel
end Sys2Proof.Tests
end

section
/-! PROOFS. Values of lattice cells (Tables 3.1 to 3.4), and what operations and reads do at a freeze unit (R78, R80, R83): O43. -/

namespace Sys2Proof.LatticeCells

open Sys2Proof Sys2Proof.Machine

/-! ## Fields and two's complement -/

/-- A field of one bit is that bit. -/
theorem bits_one_bit (v k : Nat) : bits v k k = (v.testBit k).toNat := by
  rw [bits, Nat.toNat_testBit, Nat.add_sub_cancel_left, Nat.pow_one]

theorem bits_low (v hi : Nat) : bits v hi 0 = v % 2 ^ (hi + 1) := by
  rw [bits, Nat.pow_zero, Nat.div_one, Nat.sub_zero]

/-- `sext` of Table 0.3 is the signed value of the low bits. -/
theorem sextNat_eq_toInt (v n : Nat) : sextNat v n = (BitVec.ofNat n v).toInt := by
  rw [sextNat, BitVec.toInt_eq_toNat_cond, BitVec.toNat_ofNat]
  cases n with
  | zero => simp [Nat.mod_one]
  | succ n =>
    have hp : 2 ^ (n + 1) = 2 * 2 ^ n := by ring
    simp only [Nat.add_sub_cancel, Nat.succ_ne_zero, ne_eq, not_false_eq_true, true_and]
    by_cases h : 2 ^ n ≤ v % 2 ^ (n + 1)
    · rw [if_pos h, if_neg (by omega), Nat.cast_pow, Nat.cast_ofNat]
    · rw [if_neg h, if_pos (by omega)]

theorem wrapInt_eq_ofInt (v : Int) (n : Nat) : wrapInt v n = (BitVec.ofInt n v).toNat := by
  rw [wrapInt, BitVec.toNat_ofInt, Nat.cast_pow, Nat.cast_ofNat]

/-! ## Joins (Table 3.1) -/

theorem joinCell_max (c v : Nat) : joinCell 1 c v = if c < v then v else c := by
  show max c v = _
  split <;> omega

theorem joinCell_min (c v : Nat) : joinCell 3 c v = if v < c then v else c := by
  show min c v = _
  split <;> omega

theorem joinCell_maxSigned (c v : Nat) :
    joinCell 2 c v = if (BitVec.ofNat 64 c).toInt < (BitVec.ofNat 64 v).toInt then v else c := by
  show (if sextNat c 64 < sextNat v 64 then v else c) = _
  rw [sextNat_eq_toInt, sextNat_eq_toInt]

/-- SATN32L: the sum up to the smaller limit, and AF when either side has it (R69). -/
theorem joinCell_saturating (c v : Nat) :
    joinCell 6 c v =
      min (c % 2 ^ 32 + v % 2 ^ 32) (min (c / 2 ^ 64 % 2 ^ 32) (v / 2 ^ 32 % 2 ^ 32))
        + min (c / 2 ^ 64 % 2 ^ 32) (v / 2 ^ 32 % 2 ^ 32) * 2 ^ 64
        + (if c.testBit 96 = true ∨ v.testBit 64 = true then 1 else 0) * 2 ^ 96 := by
  have hmax : max (c.testBit 96).toNat (v.testBit 64).toNat
      = if c.testBit 96 = true ∨ v.testBit 64 = true then 1 else 0 := by
    cases c.testBit 96 <;> cases v.testBit 64 <;> rfl
  show joinSat c v = _
  rw [joinSat, bits_one_bit, bits_one_bit, hmax, bits_low, bits_low]
  rfl

theorem joinCell_sumInt (c v : Nat) :
    joinCell 10 c v = (BitVec.ofNat 128 c + BitVec.ofInt 128 (BitVec.ofNat 64 v).toInt).toNat := by
  rw [BitVec.toNat_add, BitVec.toNat_ofNat, ← wrapInt_eq_ofInt, ← sextNat_eq_toInt, Nat.mod_add_mod]
  rfl

/-- ord of an ARGMAX key without bit operations (R68). -/
theorem ordKey_eq (k : Nat) (hk : k < 2 ^ 32) : ordKey k = if k < 2 ^ 31 then k + 2 ^ 31 else 2 ^ 32 - 1 - k := by
  have hbit : k.testBit 31 = decide (2 ^ 31 ≤ k) := by
    by_cases h : 2 ^ 31 ≤ k
    · rw [decide_eq_true h, Nat.testBit_eq_decide_div_mod_eq]
      exact decide_eq_true (by omega)
    · rw [decide_eq_false h, Nat.testBit_lt_two_pow (by omega)]
  have hnot (a : Nat) (ha : a < 2 ^ 32) : a ^^^ 0xFFFFFFFF = 2 ^ 32 - 1 - a := by
    have := BitVec.toNat_not (x := BitVec.ofNat 32 a)
    rw [← BitVec.xor_allOnes, BitVec.toNat_xor, BitVec.toNat_ofNat, Nat.mod_eq_of_lt ha] at this
    exact this
  have hflip (h : k < 2 ^ 31) : k ^^^ 2 ^ 31 = k + 2 ^ 31 := by
    have hd := Nat.xor_div_two_pow (a := k) (b := 2 ^ 31) (n := 31)
    have hm := Nat.xor_mod_two_pow (a := k) (b := 2 ^ 31) (n := 31)
    rw [Nat.div_eq_of_lt h, Nat.div_self (by omega), Nat.zero_xor] at hd
    rw [Nat.mod_eq_of_lt h, Nat.mod_self, Nat.xor_zero] at hm
    omega
  rw [ordKey, hbit]
  by_cases h : 2 ^ 31 ≤ k
  · rw [if_pos (decide_eq_true h), if_neg (by omega), hnot k hk]
  · rw [if_neg (by simpa using h), if_pos (by omega)]
    exact hflip (by omega)

theorem joinCell_argmax (c v : Nat) (hc : c < 2 ^ 64) (hv : v < 2 ^ 64) :
    joinCell 11 c v =
      if ordKey (c % 2 ^ 32) < ordKey (v % 2 ^ 32) ∨
        (ordKey (c % 2 ^ 32) = ordKey (v % 2 ^ 32) ∧ c / 2 ^ 32 < v / 2 ^ 32) then v else c := by
  have hrank : argRank c < argRank v ↔ ordKey (c % 2 ^ 32) < ordKey (v % 2 ^ 32) ∨
      (ordKey (c % 2 ^ 32) = ordKey (v % 2 ^ 32) ∧ c / 2 ^ 32 < v / 2 ^ 32) := by
    unfold argRank
    generalize ordKey (c % 2 ^ 32) = a
    generalize ordKey (v % 2 ^ 32) = b
    omega
  rw [← if_congr hrank rfl rfl]
  unfold joinCell
  simp only

theorem testBit_bits (v hi lo i : Nat) : (bits v hi lo).testBit i = (decide (i < hi + 1 - lo) && v.testBit (lo + i)) := by
  rw [bits, Nat.testBit_mod_two_pow, Nat.testBit_div_two_pow, Nat.add_comm i lo]

/-! ## SUMF32 (R73) -/

/-- The fields of a growing SUMF32 cell (Table 3.2). -/
theorem sumCell_fields {a n g : Nat} (ha : a < 2 ^ 320) (hn : n < 2 ^ 32) (hg : g < 2 ^ 4) :
    (a + n * 2 ^ 320 + g * 2 ^ 352) % 2 ^ 320 = a ∧ (a + n * 2 ^ 320 + g * 2 ^ 352) / 2 ^ 320 % 2 ^ 32 = n ∧
    (a + n * 2 ^ 320 + g * 2 ^ 352) < 2 ^ 356 ∧ (a + n * 2 ^ 320 + g * 2 ^ 352) / 2 ^ 352 = g := by
  refine ⟨?_, ?_, ?_, ?_⟩ <;> omega

/-- CSAT, NINF, PINF and NANS of a SUMF32 cell after a join: those of either side, and CSAT when CNT does not fit (R73). -/
def joinedFlags (a b : Nat) : Nat :=
  bits a 355 352 ||| bits b 355 352 ||| (if 0xFFFFFFFF < bits a 351 320 + bits b 351 320 then 8 else 0)

theorem joinSum_eq (a b : Nat) :
    joinSum a b = (a % 2 ^ 320 + b % 2 ^ 320) % 2 ^ 320 + min (bits a 351 320 + bits b 351 320) 0xFFFFFFFF * 2 ^ 320
      + joinedFlags a b * 2 ^ 352 := rfl

theorem joinedFlags_testBit (a b i : Nat) (hi : i < 4) :
    (joinedFlags a b).testBit i = (a.testBit (352 + i) || b.testBit (352 + i) ||
      (decide (i = 3) && decide (0xFFFFFFFF < bits a 351 320 + bits b 351 320))) := by
  have hbig : (if 0xFFFFFFFF < bits a 351 320 + bits b 351 320 then 8 else 0).testBit i
      = (decide (i = 3) && decide (0xFFFFFFFF < bits a 351 320 + bits b 351 320)) := by
    split
    · next h =>
      rw [decide_eq_true h, Bool.and_true]
      interval_cases i <;> rfl
    · next h => rw [decide_eq_false h, Bool.and_false, Nat.zero_testBit]
  rw [joinedFlags, Nat.testBit_or, Nat.testBit_or, testBit_bits, testBit_bits, hbig, decide_eq_true (by omega : i < 355 + 1 - 352),
    Bool.true_and, Bool.true_and]

theorem joinedFlags_lt (a b : Nat) : joinedFlags a b < 2 ^ 4 := by
  have h (x : Nat) : bits x 355 352 < 2 ^ 4 := Nat.mod_lt _ (by omega)
  exact Nat.or_lt_two_pow (Nat.or_lt_two_pow (h a) (h b)) (by split <;> omega)

/-- The fields of a SUMF32 cell after a join. -/
theorem joinSum_fields (c b : Nat) :
    joinSum c b % 2 ^ 320 = (c + b) % 2 ^ 320 ∧
    joinSum c b / 2 ^ 320 % 2 ^ 32 = min (c / 2 ^ 320 % 2 ^ 32 + b / 2 ^ 320 % 2 ^ 32) 0xFFFFFFFF ∧
    joinSum c b < 2 ^ 356 ∧
    (joinSum c b).testBit 355 = (c.testBit 355 || b.testBit 355 ||
      decide (0xFFFFFFFF < c / 2 ^ 320 % 2 ^ 32 + b / 2 ^ 320 % 2 ^ 32)) ∧
    ∀ i, 352 ≤ i → i < 355 → (joinSum c b).testBit i = (c.testBit i || b.testBit i) := by
  have hcount (x : Nat) : bits x 351 320 = x / 2 ^ 320 % 2 ^ 32 := rfl
  obtain ⟨hsum, hn, hlt, hflags⟩ := sumCell_fields (a := (c % 2 ^ 320 + b % 2 ^ 320) % 2 ^ 320)
    (n := min (bits c 351 320 + bits b 351 320) 0xFFFFFFFF) (Nat.mod_lt _ (by omega)) (by omega) (joinedFlags_lt c b)
  rw [← joinSum_eq] at hsum hn hlt hflags
  have hbit (i : Nat) : (joinSum c b).testBit (352 + i) = (joinedFlags c b).testBit i := by
    rw [← hflags, Nat.testBit_div_two_pow, Nat.add_comm]
  refine ⟨hsum.trans (Nat.add_mod _ _ _).symm, hn, hlt, ?_, fun i h0 h1 => ?_⟩
  · rw [hbit 3, joinedFlags_testBit _ _ _ (by omega), hcount, hcount]
    rfl
  · obtain ⟨j, rfl⟩ := Nat.exists_eq_add_of_le h0
    rw [hbit, joinedFlags_testBit _ _ _ (by omega), decide_eq_false (by omega : ¬ j = 3), Bool.false_and, Bool.or_false]

/-- The value of an FP32 code by its fields (R143). -/
theorem fp32_value (v : Nat) :
    fp32.value v =
      if v / 2 ^ 23 % 2 ^ 8 = 255 then
        if v % 2 ^ 23 = 0 then .inf (v.testBit 31) else .nan (v.testBit 31) (v % 2 ^ 23 / 2 ^ 22 == 0)
      else if v / 2 ^ 23 % 2 ^ 8 = 0 then .fin (v.testBit 31) (v % 2 ^ 23) (-149)
      else .fin (v.testBit 31) (2 ^ 23 + v % 2 ^ 23) ((v / 2 ^ 23 % 2 ^ 8 : Nat) - 127 - 23) := by
  have hsign : (bits v 31 31 == 1) = v.testBit 31 := by
    rw [bits_one_bit]
    cases v.testBit 31 <;> rfl
  rw [← hsign]
  rfl

/-- `state_of` of a finite FP32 code: its value in units of 2^-149, counted once (R73). -/
theorem sumState_finite (v : Nat) (he : v / 2 ^ 23 % 2 ^ 8 < 255) :
    sumState v = (BitVec.ofInt 320 (if v.testBit 31 then
        -(((if v / 2 ^ 23 % 2 ^ 8 = 0 then v % 2 ^ 23 else 2 ^ 23 + v % 2 ^ 23) * 2 ^ (v / 2 ^ 23 % 2 ^ 8 - 1) : Nat) : Int)
      else (((if v / 2 ^ 23 % 2 ^ 8 = 0 then v % 2 ^ 23 else 2 ^ 23 + v % 2 ^ 23) * 2 ^ (v / 2 ^ 23 % 2 ^ 8 - 1) : Nat) : Int))).toNat
      + 2 ^ 320 := by
  rw [sumState, fp32_value, if_neg (by omega)]
  by_cases h0 : v / 2 ^ 23 % 2 ^ 8 = 0
  · rw [if_pos h0, if_pos h0, h0]
    simp only [wrapInt_eq_ofInt, scaledInt, Int.sub_self, Int.toNat_zero, Nat.zero_sub, pow_zero, mul_one]
  · have hexp : ((v / 2 ^ 23 % 2 ^ 8 : Nat) - 127 - 23 - -149 : Int).toNat = v / 2 ^ 23 % 2 ^ 8 - 1 := by omega
    rw [if_neg h0, if_neg h0]
    simp only [wrapInt_eq_ofInt, scaledInt, hexp, Nat.cast_mul, Nat.cast_pow, Nat.cast_ofNat]

theorem sumState_nan (v : Nat) (he : v / 2 ^ 23 % 2 ^ 8 = 255) (hf : v % 2 ^ 23 ≠ 0) : sumState v = 2 ^ 320 + 2 ^ 352 := by
  rw [sumState, fp32_value, if_pos he, if_neg hf]

theorem sumState_inf (v : Nat) (he : v / 2 ^ 23 % 2 ^ 8 = 255) (hf : v % 2 ^ 23 = 0) :
    sumState v = 2 ^ 320 + (if v.testBit 31 then 2 ^ 354 else 2 ^ 353) := by
  rw [sumState, fp32_value, if_pos he, if_pos hf]
  cases v.testBit 31
  · rw [if_neg Bool.false_ne_true]
  · rw [if_pos rfl]

/-! ## Frozen images (Table 3.3) -/

/-- Saturation of a SUMI64 cell at its freeze (R75). -/
theorem freezeCell_sumInt (c : Nat) :
    freezeCell 10 c = if (BitVec.ofNat 128 c).toInt < -(2 ^ 63) then 2 ^ 64 + 2 ^ 63
      else if 2 ^ 63 ≤ (BitVec.ofNat 128 c).toInt then 2 ^ 64 + 2 ^ 63 - 1
      else (BitVec.ofInt 64 (BitVec.ofNat 128 c).toInt).toNat := by
  show freezeInt c = _
  rw [freezeInt, sextNat_eq_toInt, wrapInt_eq_ofInt]
  generalize (BitVec.ofNat 128 c).toInt = q
  split_ifs <;> omega

theorem freezeCell_other (ty c : Nat) (h9 : ty ≠ 9) (h10 : ty ≠ 10) : freezeCell ty c = c := by
  unfold freezeCell
  split
  · exact absurd rfl h9
  · exact absurd rfl h10
  · rfl

/-- An FP32 code has 32 bits. -/
theorem fp32_round_lt (x : FVal) (r : RndMode) : (fp32.round x r).1 < 2 ^ 32 := by
  have hsign (neg : Bool) : fp32.signBit neg ≤ 2 ^ 31 := by cases neg <;> decide
  have hmax : fp32.largestCode = 0x7F7FFFFF := by decide
  have hinf : fp32.infCode = 0x7F800000 := by decide
  have hover (neg : Bool) : (fp32.overflow neg r).1 < 2 ^ 32 := by
    have hsg := hsign neg
    have hbig (b : Bool) : (if b = true then fp32.largestCode else fp32.infCode) ≤ 0x7F800000 := by cases b <;> decide
    show (if fp32.saturates r.sat then _ else _ : Nat × Flags).1 < _
    split
    · show fp32.signBit neg + fp32.largestCode < _
      omega
    · exact (Nat.add_le_add hsg (hbig _)).trans_lt (by omega)
  cases x with
  | nan neg sig => exact (by decide : fp32.canonNaN < 2 ^ 32)
  | inf neg =>
    have hsg := hsign neg
    show (if fp32.saturates r.sat then _ else _ : Nat × Flags).1 < _
    split
    · show fp32.signBit neg + fp32.largestCode < _
      omega
    · show fp32.signBit neg + fp32.infCode < _
      omega
  | fin neg m e =>
    have hsg := hsign neg
    rw [Fmt.round]
    by_cases hm : m = 0
    · rw [if_pos hm]
      exact hsg.trans_lt (by omega)
    · rw [if_neg hm]
      dsimp only
      generalize fp32.pack false _ _ = code
      by_cases hc : fp32.largestCode < code
      · rw [if_pos hc]
        exact hover neg
      · rw [if_neg hc]
        exact (Nat.add_le_add hsg (not_lt.mp hc)).trans_lt (by omega)

/-- What a SUMF32 cell freezes to: the FP32 code, and the flags of its one rounding (R74). -/
def sumResult (s : Nat) : Nat × Flags :=
  if s.testBit 355 || s.testBit 352 || (s.testBit 353 && s.testBit 354) then (0x7FC00000, 0)
  else if s.testBit 353 then (0x7F800000, 0)
  else if s.testBit 354 then (0xFF800000, 0)
  else fp32.round (FVal.ofInt (sextNat s 320) (-149) false) { rm := .rne, sat := .nosat }

theorem sumResult_lt (s : Nat) : (sumResult s).1 < 2 ^ 32 := by
  unfold sumResult
  split
  · decide
  · split
    · decide
    · split
      · decide
      · exact fp32_round_lt _ _

/-- The fields of a frozen SUMF32 cell (Table 3.3). -/
theorem freezeSum_fields (s : Nat) :
    freezeSum s % 2 ^ 32 = (sumResult s).1 ∧ freezeSum s / 2 ^ 32 % 2 ^ 32 = s / 2 ^ 320 % 2 ^ 32 ∧
    freezeSum s / 2 ^ 64 % 2 ^ 4 = s / 2 ^ 352 % 2 ^ 4 ∧
    freezeSum s / 2 ^ 68 = ((sumResult s).2 &&& fNX != 0).toNat + 2 * ((sumResult s).2 &&& fOF != 0).toNat := by
  have heq : freezeSum s = (sumResult s).1 + bits s 351 320 * 2 ^ 32 + bits s 355 352 * 2 ^ 64
      + ((sumResult s).2 &&& fNX != 0).toNat * 2 ^ 68 + ((sumResult s).2 &&& fOF != 0).toNat * 2 ^ 69 := rfl
  have hcode := sumResult_lt s
  have hn : bits s 351 320 = s / 2 ^ 320 % 2 ^ 32 := rfl
  have hg : bits s 355 352 = s / 2 ^ 352 % 2 ^ 4 := rfl
  have hx := Bool.toNat_le ((sumResult s).2 &&& fNX != 0)
  have hy := Bool.toNat_le ((sumResult s).2 &&& fOF != 0)
  rw [heq, ← hn, ← hg]
  have hn' : bits s 351 320 < 2 ^ 32 := Nat.mod_lt _ (by omega)
  have hg' : bits s 355 352 < 2 ^ 4 := Nat.mod_lt _ (by omega)
  clear heq hn hg
  generalize bits s 351 320 = n at *
  generalize bits s 355 352 = g at *
  refine ⟨?_, ?_, ?_, ?_⟩ <;> omega

/-- Bits 68 and 69 of a frozen SUMF32 cell (Table 3.3). -/
theorem freezeSum_flagBits (s : Nat) :
    (freezeSum s).testBit 68 = ((sumResult s).2 &&& fNX != 0) ∧ (freezeSum s).testBit 69 = ((sumResult s).2 &&& fOF != 0) := by
  obtain ⟨-, -, -, hflags⟩ := freezeSum_fields s
  have hbit (i : Nat) : (freezeSum s).testBit (68 + i) = (freezeSum s / 2 ^ 68).testBit i := by
    rw [Nat.testBit_div_two_pow, Nat.add_comm]
  rw [hbit 0, hbit 1, hflags]
  cases (sumResult s).2 &&& fNX != 0 <;> cases (sumResult s).2 &&& fOF != 0 <;> exact ⟨rfl, rfl⟩

/-! ## Triggers (Table 3.4) -/

theorem and_beq_iff_testBit (c t : Nat) : (c &&& t == t) = true ↔ ∀ i, t.testBit i = true → c.testBit i = true := by
  rw [beq_iff_eq]
  constructor
  · intro h i ht
    rw [← h, Nat.testBit_and, Bool.and_eq_true] at ht
    exact ht.1
  · intro h
    refine Nat.eq_of_testBit_eq fun i => ?_
    rw [Nat.testBit_and]
    cases ht : t.testBit i with
    | false => exact Bool.and_false _
    | true => rw [h i ht, Bool.and_true]

/-- CSAT, NANS, or both PINF and NINF: a growing SUMF32 cell that freezes to NaN (Table 3.2, R74). -/
def SumIsNan (s : Nat) : Prop :=
  s.testBit 355 = true ∨ s.testBit 352 = true ∨ (s.testBit 353 = true ∧ s.testBit 354 = true)

/-- PINF or NINF: a growing SUMF32 cell that has taken an infinity. -/
def SumIsInf (s : Nat) : Prop := s.testBit 353 = true ∨ s.testBit 354 = true

section
variable {s : Nat}

theorem sumResult_nan (hn : SumIsNan s) : sumResult s = (0x7FC00000, 0) := by
  refine if_pos ?_
  rw [SumIsNan] at hn
  rwa [Bool.or_eq_true, Bool.or_eq_true, Bool.and_eq_true, or_assoc]

theorem sumResult_of_notNan (hn : ¬ SumIsNan s) :
    sumResult s = if s.testBit 353 then (0x7F800000, 0) else if s.testBit 354 then (0xFF800000, 0)
      else fp32.round (FVal.ofInt (sextNat s 320) (-149) false) { rm := .rne, sat := .nosat } := by
  refine if_neg ?_
  rw [SumIsNan] at hn
  rwa [Bool.or_eq_true, Bool.or_eq_true, Bool.and_eq_true, or_assoc]

theorem sumResult_inf (hn : ¬ SumIsNan s) (hi : SumIsInf s) :
    sumResult s = (if s.testBit 353 then 0x7F800000 else 0xFF800000, 0) := by
  rw [sumResult_of_notNan hn]
  by_cases h : s.testBit 353 = true
  · rw [if_pos h, if_pos h]
  · rw [if_neg h, if_neg h, if_pos (hi.resolve_left h)]

theorem sumResult_finite (hn : ¬ SumIsNan s) (hi : ¬ SumIsInf s) :
    sumResult s = fp32.round (FVal.ofInt (BitVec.ofNat 320 s).toInt (-149) false) { rm := .rne, sat := .nosat } := by
  rw [SumIsInf, not_or] at hi
  rw [sumResult_of_notNan hn, if_neg hi.1, if_neg hi.2, sextNat_eq_toInt]

theorem sumResult_zero (hn : ¬ SumIsNan s) (hi : ¬ SumIsInf s) (h0 : s % 2 ^ 320 = 0) : sumResult s = (0, 0) := by
  have hz : BitVec.ofNat 320 s = 0#320 :=
    BitVec.eq_of_toNat_eq (by simp only [BitVec.toNat_ofNat, h0, Nat.zero_mod])
  rw [sumResult_finite hn hi, hz, BitVec.toInt_zero]
  rfl

end

/-! ## Operations at a freeze unit (R78) -/

/-- The unit that an operation of a generation which is not behind finds: one ahead advances it first (R78). -/
def reached (ty gen : Nat) (u : LUnit) : LUnit := if genDist gen u.gen = 1 then u.advance ty gen else u

theorem reached_current (ty : Nat) {gen : Nat} {u : LUnit} (hd : genDist gen u.gen = 0) : reached ty gen u = u :=
  if_neg (by omega)

/-- What an update into a unit of its generation does, by the unit's state. -/
def updateCurrent (ty idx v : Nat) (u : LUnit) : Applied :=
  match u.st with
  | .conflict => { u := u }
  | .frozen => { u := u, fault := some 1 }
  | .growing => u.join ty idx v

section
variable {ty gen idx v : Nat} {u : LUnit} {kind : LKind}

/-- An operation whose generation is behind is stale. -/
theorem apply_stale (hd : 32768 ≤ genDist gen u.gen) : u.apply ty kind gen idx v = { u := u, fault := some 2 } :=
  if_pos hd

theorem apply_of_notStale (hd : genDist gen u.gen < 32768) :
    u.apply ty kind gen idx v =
      if kind = .freeze then (if genDist gen u.gen ≠ 0 then { u := u, fault := some 3 } else { u := u.freeze ty })
      else if 2 ≤ genDist gen u.gen then { u := u, fault := some 3 }
      else if kind = .renew then { u := reached ty gen u }
      else updateCurrent ty idx v (reached ty gen u) :=
  if_neg (by omega)

/-- An operation whose generation is too far ahead is early. -/
theorem apply_early (hlo : 2 ≤ genDist gen u.gen) (hhi : genDist gen u.gen < 32768) :
    u.apply ty kind gen idx v = { u := u, fault := some 3 } := by
  rw [apply_of_notStale hhi]
  by_cases hk : kind = .freeze
  · rw [if_pos hk, if_pos (by omega)]
  · rw [if_neg hk, if_pos hlo]

/-- A FREEZE one ahead is early. -/
theorem apply_freeze_ahead (hd : genDist gen u.gen = 1) : u.apply ty .freeze gen idx v = { u := u, fault := some 3 } := by
  rw [apply_of_notStale (by omega), if_pos rfl, if_pos (by omega)]

theorem apply_freeze_current (hd : genDist gen u.gen = 0) : u.apply ty .freeze gen idx v = { u := u.freeze ty } := by
  rw [apply_of_notStale (by omega), if_pos rfl, if_neg (by omega)]

theorem apply_renew (hd : genDist gen u.gen ≤ 1) : u.apply ty .renew gen idx v = { u := reached ty gen u } := by
  rw [apply_of_notStale (by omega), if_neg (by decide), if_neg (by omega), if_pos rfl]

theorem apply_update (hd : genDist gen u.gen ≤ 1) (hf : kind ≠ .freeze) (hr : kind ≠ .renew) :
    u.apply ty kind gen idx v = updateCurrent ty idx v (reached ty gen u) := by
  rw [apply_of_notStale (by omega), if_neg hf, if_neg (by omega), if_neg hr]

theorem updateCurrent_growing (hs : u.st = .growing) : updateCurrent ty idx v u = u.join ty idx v := by
  rw [updateCurrent, hs]

theorem updateCurrent_frozen (hs : u.st = .frozen) : updateCurrent ty idx v u = { u := u, fault := some 1 } := by
  rw [updateCurrent, hs]

theorem updateCurrent_conflict (hs : u.st = .conflict) : updateCurrent ty idx v u = { u := u } := by
  rw [updateCurrent, hs]

theorem freeze_growing (hs : u.st = .growing) :
    u.freeze ty = { u with st := .frozen, cells := u.cells.map (freezeCell ty) } :=
  if_pos hs

theorem freeze_notGrowing (hs : u.st ≠ .growing) : u.freeze ty = u :=
  if_neg hs

/-- A type whose cells the freeze leaves as they are only changes its state. -/
theorem freeze_growing_plain (hs : u.st = .growing) (h9 : ty ≠ 9) (h10 : ty ≠ 10) : u.freeze ty = { u with st := .frozen } := by
  have hid : freezeCell ty = id := funext fun c => freezeCell_other ty c h9 h10
  rw [freeze_growing hs, hid, List.map_id]

/-! ### The join into a growing unit (R70, R78) -/

/-- Whether a SATN32L cell is complete: AF and a full COUNT (R78). -/
theorem satComplete_iff (ty c : Nat) :
    (ty = 6 ∧ bits c 96 96 = 1 ∧ bits c 31 0 = bits c 95 64) ↔
      (ty = 6 ∧ c.testBit 96 = true ∧ c % 2 ^ 32 = c / 2 ^ 64 % 2 ^ 32) := by
  have hlim : bits c 95 64 = c / 2 ^ 64 % 2 ^ 32 := rfl
  have hbit : (c.testBit 96).toNat = 1 ↔ c.testBit 96 = true := by cases c.testBit 96 <;> decide
  rw [bits_one_bit, bits_low, hlim, hbit]

theorem join_cell (h8 : ty ≠ 8)
    (hs : ¬ (ty = 6 ∧ (joinCell ty (nth u.cells idx) v).testBit 96 = true ∧
      joinCell ty (nth u.cells idx) v % 2 ^ 32 = joinCell ty (nth u.cells idx) v / 2 ^ 64 % 2 ^ 32)) :
    u.join ty idx v = { u := { u with cells := u.cells.set idx (joinCell ty (nth u.cells idx) v) } } := by
  rw [← satComplete_iff] at hs
  simp only [LUnit.join, if_neg h8, if_neg hs]

theorem join_complete (hg : u.st = .growing) (h6 : ty = 6) (hb : (joinCell ty (nth u.cells idx) v).testBit 96 = true)
    (hn : joinCell ty (nth u.cells idx) v % 2 ^ 32 = joinCell ty (nth u.cells idx) v / 2 ^ 64 % 2 ^ 32) :
    u.join ty idx v =
      { u := { u with st := .frozen, cells := u.cells.set idx (joinCell ty (nth u.cells idx) v) } } := by
  have hfreeze := freeze_growing_plain (ty := ty) (u := { u with cells := u.cells.set idx (joinCell ty (nth u.cells idx) v) })
    hg (by omega) (by omega)
  simp only [LUnit.join, if_neg (show ty ≠ 8 by omega), if_pos ((satComplete_iff _ _).mpr ⟨h6, hb, hn⟩), hfreeze]

theorem join_fill_empty (hf : u.filled.getD idx false = false) :
    u.join 8 idx v = { u := { u with cells := u.cells.set idx v, filled := u.filled.set idx true } } := by
  rw [LUnit.join, if_pos rfl, hf]
  rfl

theorem join_fill_same (hf : u.filled.getD idx false = true) (hv : nth u.cells idx = v) : u.join 8 idx v = { u := u } := by
  rw [LUnit.join, if_pos rfl, if_pos hf, if_pos hv]

theorem join_fill_other (hf : u.filled.getD idx false = true) (hv : nth u.cells idx ≠ v) :
    u.join 8 idx v = { u := { u with st := .conflict }, conflict := true } := by
  rw [LUnit.join, if_pos rfl, if_pos hf, if_neg hv]

end

/-! ## Reads at a freeze unit (R80, R83) -/

theorem mem_countFrom (a n i : Nat) : i ∈ countFrom a n ↔ a ≤ i ∧ i < a + n := by
  induction n generalizing a with
  | zero =>
    rw [countFrom]
    simp only [List.not_mem_nil, false_iff]
    omega
  | succ n ih =>
    rw [countFrom, List.mem_cons, ih]
    omega

/-- The first number of a run that a condition picks. -/
theorem find?_countFrom (p : Nat → Bool) (a n i : Nat) (hi : i < n) (hp : p (a + i) = true)
    (hlt : ∀ j, j < i → p (a + j) = false) : (countFrom a n).find? p = some (a + i) := by
  induction n generalizing a i with
  | zero => omega
  | succ n ih =>
    rw [countFrom]
    cases i with
    | zero => exact List.find?_cons_of_pos hp
    | succ i =>
      have h0 : ¬ p a = true := by
        rw [show p a = false from hlt 0 (by omega)]
        exact Bool.false_ne_true
      have hshift (j : Nat) : a + 1 + j = a + (j + 1) := by omega
      rw [List.find?_cons_of_neg h0, ih (a + 1) i (by omega) (by rwa [hshift])
        (fun j hj => by rw [hshift]; exact hlt (j + 1) (by omega)), hshift]

section
variable {ty c : Nat} {filled cand : Bool} {l : List Nat}

theorem firstPassed_eq_some {i : Nat} (hi : i < l.length) (hp : passed ty c filled cand (nth l i) = true)
    (hlt : ∀ j, j < i → passed ty c filled cand (nth l j) = false) : firstPassed ty c filled cand l = some i := by
  have := find?_countFrom (fun i => passed ty c filled cand (nth l i)) 0 l.length i hi (by rwa [Nat.zero_add])
    (fun j hj => by rw [Nat.zero_add]; exact hlt j hj)
  rwa [Nat.zero_add] at this

theorem firstPassed_eq_none (h : ∀ t, t ∈ l → passed ty c filled cand t = false) : firstPassed ty c filled cand l = none := by
  refine List.find?_eq_none.mpr fun i hi => ?_
  rw [mem_countFrom, Nat.zero_add] at hi
  have hmem : nth l i ∈ l := by
    rw [nth, List.getD_eq_getElem _ _ hi.2]
    exact List.getElem_mem hi.2
  rw [h _ hmem]
  exact Bool.false_ne_true

end

section
variable {ty sz idx : Nat} {r : LReq} {u : LUnit}

theorem evaluate_stale (hd : 32768 ≤ genDist r.gen u.gen) : u.evaluate ty sz r idx = .wake 6 0 :=
  if_pos hd

theorem evaluate_ahead (h0 : 0 < genDist r.gen u.gen) (hd : genDist r.gen u.gen < 32768) : u.evaluate ty sz r idx = .park := by
  rw [LUnit.evaluate, if_neg (by omega), if_pos (by omega)]

theorem evaluate_conflict (hd : genDist r.gen u.gen = 0) (hs : u.st = .conflict) : u.evaluate ty sz r idx = .wake 5 0 := by
  rw [LUnit.evaluate, if_neg (by omega), if_neg (by omega), if_pos hs]

/-- A read of the generation wakes with the first trigger that has passed. -/
theorem evaluate_passed (hd : genDist r.gen u.gen = 0) (hs : u.st ≠ .conflict) {i : Nat} (hi : i < r.trigs.length)
    (hp : passed ty (nth u.cells idx) (u.filled.getD idx false) r.cand (nth r.trigs i) = true)
    (hlt : ∀ j, j < i → passed ty (nth u.cells idx) (u.filled.getD idx false) r.cand (nth r.trigs j) = false) :
    u.evaluate ty sz r idx = .wake i (if ty = 8 ∧ sz = 0 then nth u.cells idx else 0) := by
  rw [LUnit.evaluate, if_neg (by omega), if_neg (by omega), if_neg hs, firstPassed_eq_some hi hp hlt]

/-- A read of the generation of which no trigger has passed: it ends when none can pass any more. -/
theorem evaluate_unpassed (hd : genDist r.gen u.gen = 0) (hs : u.st ≠ .conflict)
    (hn : ∀ t, t ∈ r.trigs → passed ty (nth u.cells idx) (u.filled.getD idx false) r.cand t = false) :
    u.evaluate ty sz r idx =
      if u.st = .frozen then .wake 4 0 else if ty = 8 ∧ r.cand ∧ u.filled.getD idx false then .wake 4 0 else .park := by
  rw [LUnit.evaluate, if_neg (by omega), if_neg (by omega), if_neg hs, firstPassed_eq_none hn]

end

section
variable {ty sz gen off len : Nat} {u : LUnit}

theorem readFrozen_stale (hd : 32768 ≤ genDist gen u.gen) : u.readFrozen ty sz gen off len = .trap 0x13 :=
  if_pos hd

theorem readFrozen_ahead (h0 : 0 < genDist gen u.gen) (hd : genDist gen u.gen < 32768) :
    u.readFrozen ty sz gen off len = .park := by
  rw [LUnit.readFrozen, if_neg (by omega), if_pos (by omega)]

theorem readFrozen_conflict (hd : genDist gen u.gen = 0) (hs : u.st = .conflict) :
    u.readFrozen ty sz gen off len = .trap 0x12 := by
  rw [LUnit.readFrozen, if_neg (by omega), if_neg (by omega), hs]

theorem readFrozen_growing (hd : genDist gen u.gen = 0) (hs : u.st = .growing) :
    u.readFrozen ty sz gen off len = .park := by
  rw [LUnit.readFrozen, if_neg (by omega), if_neg (by omega), hs]

theorem readFrozen_frozen (hd : genDist gen u.gen = 0) (hs : u.st = .frozen) :
    u.readFrozen ty sz gen off len = .data (u.image ty sz / 2 ^ (8 * off) % 2 ^ (8 * len)) := by
  rw [LUnit.readFrozen, if_neg (by omega), if_neg (by omega), hs]

end

section
variable (c t : Nat) (filled cand : Bool)

theorem passed_maxSigned :
    passed 2 c filled cand t = true ↔ (BitVec.ofNat 64 t).toInt ≤ (BitVec.ofNat 64 c).toInt := by
  rw [← sextNat_eq_toInt, ← sextNat_eq_toInt]
  exact decide_eq_true_iff

theorem passed_saturating : passed 6 c filled cand t = true ↔ t ≤ c % 2 ^ 32 := by
  rw [← bits_low c 31]
  exact decide_eq_true_iff

theorem passed_argmax : passed 11 c filled cand t = true ↔ ordKey (t % 2 ^ 32) ≤ ordKey (c % 2 ^ 32) :=
  decide_eq_true_iff

theorem passed_fill : passed 8 c filled cand t = true ↔ filled = true ∧ (cand = true → c = t) := by
  show (filled && (!cand || c == t)) = true ↔ _
  rw [Bool.and_eq_true, Bool.or_eq_true, Bool.not_eq_true', beq_iff_eq, ← Bool.not_eq_true, imp_iff_not_or]

end

/-- The frozen image of a SUMF32 cell, field by field (Table 3.3, R74). -/
theorem freezeCell_sum (c : Nat) :
    let r := freezeCell 9 c
    let nan := c.testBit 355 = true ∨ c.testBit 352 = true ∨ (c.testBit 353 = true ∧ c.testBit 354 = true)
    let inf := c.testBit 353 = true ∨ c.testBit 354 = true
    r / 2 ^ 32 % 2 ^ 32 = c / 2 ^ 320 % 2 ^ 32 ∧ r / 2 ^ 64 % 2 ^ 4 = c / 2 ^ 352 % 2 ^ 4 ∧
    (nan → r % 2 ^ 32 = 0x7FC00000 ∧ r / 2 ^ 68 = 0) ∧
    (¬ nan → inf → r % 2 ^ 32 = (if c.testBit 353 then 0x7F800000 else 0xFF800000) ∧ r / 2 ^ 68 = 0) ∧
    (¬ nan → ¬ inf → c % 2 ^ 320 = 0 → r % 2 ^ 32 = 0 ∧ r / 2 ^ 68 = 0) ∧
    (¬ nan → ¬ inf → ∀ q, q = fp32.round (FVal.ofInt (BitVec.ofNat 320 c).toInt (-149) false) { rm := .rne, sat := .nosat } →
      r % 2 ^ 32 = q.1 ∧ r.testBit 68 = (q.2 &&& fNX != 0) ∧ r.testBit 69 = (q.2 &&& fOF != 0)) := by
  intro r nan inf
  obtain ⟨hcode, hcount, hcarry, hflags⟩ := freezeSum_fields c
  obtain ⟨hinexact, hover⟩ := freezeSum_flagBits c
  have hclear : ((0 : Flags) &&& fNX != 0).toNat + 2 * ((0 : Flags) &&& fOF != 0).toNat = 0 := by decide
  have hexact (k : Nat) (h : sumResult c = (k, 0)) : r % 2 ^ 32 = k ∧ r / 2 ^ 68 = 0 := by
    rw [h] at hcode hflags
    exact ⟨hcode, hflags.trans hclear⟩
  refine ⟨hcount, hcarry, fun hn => hexact _ (sumResult_nan hn), fun hn hi => hexact _ (sumResult_inf hn hi),
    fun hn hi h0 => hexact _ (sumResult_zero hn hi h0), fun hn hi q hq => ?_⟩
  rw [sumResult_finite hn hi, ← hq] at hcode hinexact hover
  exact ⟨hcode, hinexact, hover⟩

/-! ## What O43 says, put together -/

/-- A JOIN, by the type of the cell and by whether it completes a SATN32L cell. -/
theorem apply_join_growing {ty gen idx v : Nat} {u : LUnit} (hd : genDist gen u.gen ≤ 1) (hg : (reached ty gen u).st = .growing)
    (h8 : ty ≠ 8) (c : Nat) (hc : c = joinCell ty (nth (reached ty gen u).cells idx) v) :
    (¬ (ty = 6 ∧ c.testBit 96 = true ∧ c % 2 ^ 32 = c / 2 ^ 64 % 2 ^ 32) →
      u.apply ty .join gen idx v = { u := { reached ty gen u with cells := (reached ty gen u).cells.set idx c } }) ∧
    (ty = 6 → c.testBit 96 = true → c % 2 ^ 32 = c / 2 ^ 64 % 2 ^ 32 →
      u.apply ty .join gen idx v =
        { u := { reached ty gen u with st := .frozen, cells := (reached ty gen u).cells.set idx c } }) := by
  rw [apply_update hd (by decide) (by decide), updateCurrent_growing hg, hc]
  exact ⟨join_cell h8, join_complete hg⟩

/-- A FILL, by whether the cell is filled and with what. -/
theorem apply_fill_growing {gen idx v : Nat} {u : LUnit} (hd : genDist gen u.gen ≤ 1) (hg : (reached 8 gen u).st = .growing) :
    let b := reached 8 gen u
    (b.filled.getD idx false = false →
      u.apply 8 .fill gen idx v = { u := { b with cells := b.cells.set idx v, filled := b.filled.set idx true } }) ∧
    (b.filled.getD idx false = true → nth b.cells idx = v → u.apply 8 .fill gen idx v = { u := b }) ∧
    (b.filled.getD idx false = true → nth b.cells idx ≠ v →
      u.apply 8 .fill gen idx v = { u := { b with st := .conflict }, conflict := true }) := by
  rw [apply_update hd (by decide) (by decide), updateCurrent_growing hg]
  exact ⟨join_fill_empty, join_fill_same, join_fill_other⟩

/-- An update into a unit of its generation that is frozen is refused. -/
theorem apply_update_frozen {ty gen idx v : Nat} {u : LUnit} {kind : LKind} (hd : genDist gen u.gen = 0) (hs : u.st = .frozen)
    (hf : kind ≠ .freeze) (hr : kind ≠ .renew) : u.apply ty kind gen idx v = { u := u, fault := some 1 } := by
  rw [apply_update (by omega) hf hr, reached_current ty hd, updateCurrent_frozen hs]

/-- An update into a unit of its generation in conflict has no effect. -/
theorem apply_update_conflict {ty gen idx v : Nat} {u : LUnit} {kind : LKind} (hd : genDist gen u.gen = 0) (hs : u.st = .conflict)
    (hf : kind ≠ .freeze) (hr : kind ≠ .renew) : u.apply ty kind gen idx v = { u := u } := by
  rw [apply_update (by omega) hf hr, reached_current ty hd, updateCurrent_conflict hs]

/-- A read of the generation that no trigger passes, by the state of the unit and the cell. -/
theorem evaluate_unpassed_cases {ty sz idx : Nat} {r : LReq} {u : LUnit} (hd : genDist r.gen u.gen = 0) (hs : u.st ≠ .conflict)
    (hn : ∀ t, t ∈ r.trigs → passed ty (nth u.cells idx) (u.filled.getD idx false) r.cand t = false) :
    (u.st = .frozen → u.evaluate ty sz r idx = .wake 4 0) ∧
    (ty = 8 → r.cand = true → u.filled.getD idx false = true → u.evaluate ty sz r idx = .wake 4 0) ∧
    (u.st = .growing → (r.cand = false ∨ u.filled.getD idx false = false) → u.evaluate ty sz r idx = .park) := by
  rw [evaluate_unpassed hd hs hn]
  refine ⟨fun hf => if_pos hf, fun h8 hc hfull => ?_, fun hg hopen => ?_⟩
  · rw [if_pos (show ty = 8 ∧ _ ∧ _ from ⟨h8, hc, hfull⟩), ite_self]
  · rw [if_neg (by rw [hg]; decide), if_neg]
    rintro ⟨-, hc, hfull⟩
    rcases hopen with h | h
    · exact Bool.false_ne_true (h.symm.trans hc)
    · exact Bool.false_ne_true (h.symm.trans hfull)

/-- Settles O43: the apply, evaluate and frozen-read rules by the distance of the generation and the state of the unit, and the
tables of cell values field by field. -/
theorem joinUnitsFollowTheGenerations : Obligations.JoinUnitsFollowTheGenerations := by
  unfold Obligations.JoinUnitsFollowTheGenerations
  refine ⟨fun u ty sz idx v gen => ?_, rfl, fun c v => ?_⟩
  · intro d a w b
    refine ⟨fun _ => apply_stale, fun _ => apply_early, apply_freeze_ahead, fun hd hs => ?_, fun hd hs => ?_, apply_renew,
      fun hd hs => ⟨?_, ?_⟩, fun hd hs => ⟨?_, ?_⟩, apply_join_growing, fun hd hg h8 => ?_, fun r hr => ?_,
      fun off len => ?_⟩
    · exact (apply_freeze_current hd).trans (by rw [freeze_growing hs])
    · exact (apply_freeze_current hd).trans (by rw [freeze_notGrowing hs])
    · exact apply_update_frozen hd hs (by decide) (by decide)
    · exact apply_update_frozen hd hs (by decide) (by decide)
    · exact apply_update_conflict hd hs (by decide) (by decide)
    · exact apply_update_conflict hd hs (by decide) (by decide)
    · subst h8
      exact apply_fill_growing hd hg
    · subst hr
      exact ⟨evaluate_stale, evaluate_ahead, evaluate_conflict, fun hd hs i hi hp hlt => evaluate_passed hd hs hi hp hlt,
        evaluate_unpassed_cases⟩
    · exact ⟨readFrozen_stale, readFrozen_ahead, fun hd =>
        ⟨readFrozen_conflict hd, readFrozen_growing hd, readFrozen_frozen hd⟩⟩
  · intro cs vs ord key
    have hkey (x : Nat) : ordKey (x % 2 ^ 32) = key x := ordKey_eq _ (Nat.mod_lt _ (by omega))
    refine ⟨joinCell_max c v, joinCell_min c v, joinCell_maxSigned c v, fun i => Nat.testBit_or c v i,
      fun i => Nat.testBit_or c v i, joinCell_saturating c v, rfl, joinCell_sumInt c v, fun hc hv => ?_, fun b hb => ?_,
      fun _ => ⟨sumState_finite v, sumState_nan v, sumState_inf v⟩, fun ty h9 h10 => freezeCell_other ty c h9 h10,
      freezeCell_sumInt c, freezeCell_sum c, fun filled cand => ?_⟩
    · rw [joinCell_argmax c v hc hv, hkey, hkey]
    · subst hb
      exact joinSum_fields c (sumState v)
    · refine ⟨decide_eq_true_iff, ?_, decide_eq_true_iff, and_beq_iff_testBit c v, and_beq_iff_testBit c v, ?_, decide_eq_true_iff,
        passed_fill c v filled cand, rfl, rfl, ?_⟩
      · rw [passed_maxSigned]
      · rw [passed_saturating]
      · rw [passed_argmax, hkey, hkey]

end Sys2Proof.LatticeCells
end

section
/-! PROOFS. Messages that reach their homes (R78, R80, R83, R94 to R99, R57): O44. -/

namespace Sys2Proof.LatticeCells

open Sys2Proof Sys2Proof.Machine

/-! ## Searches in changed lists -/

/-- The first element that meets a condition, after a change that the condition does not see. -/
theorem find?_updWhere {α : Type} (p q : α → Bool) (f : α → α) (l : List α) (hp : ∀ a, q a = true → p (f a) = p a) :
    (updWhere q f l).find? p = (l.find? p).map (fun a => if q a then f a else a) := by
  have hcomp : (p ∘ fun a => if q a then f a else a) = p := by
    funext a
    show p (if q a then f a else a) = p a
    split
    · next h => exact hp a h
    · rfl
  rw [updWhere, List.find?_map, hcomp]

/-- The first element with a key, after one has been put in the place of those of its key, or at the end. -/
theorem find?_put {α κ : Type} [DecidableEq κ] (key : α → κ) (u : α) (l : List α) (q : κ) :
    (if l.any (fun v => key v == key u) then updWhere (fun v => key v == key u) (fun _ => u) l else l ++ [u]).find?
      (fun v => key v == q) = if q = key u then some u else l.find? (fun v => key v == q) := by
  have hsame (v : α) (h : (key v == key u) = true) : (key u == q) = (key v == q) := by rw [eq_of_beq h]
  by_cases hany : l.any (fun v => key v == key u) = true
  · rw [if_pos hany, find?_updWhere _ _ _ _ hsame]
    cases hfind : l.find? (fun v => key v == q) with
    | none =>
      have hq : q ≠ key u := by
        rintro rfl
        obtain ⟨v, hv, hkey⟩ := List.any_eq_true.mp hany
        exact List.find?_eq_none.mp hfind v hv hkey
      rw [if_neg hq, Option.map_none]
    | some v =>
      have hv : key v = q := by
        have := List.find?_some hfind
        exact eq_of_beq this
      by_cases hq : q = key u
      · rw [if_pos hq, Option.map_some, if_pos (beq_iff_eq.mpr (hv.trans hq))]
      · rw [if_neg hq, Option.map_some, if_neg (fun h => hq (hv.symm.trans (eq_of_beq h)))]
  · rw [if_neg hany, List.find?_append]
    by_cases hq : q = key u
    · have hnone : l.find? (fun v => key v == q) = none := by
        refine List.find?_eq_none.mpr fun v hv hkey => hany (List.any_eq_true.mpr ⟨v, hv, ?_⟩)
        rwa [← hq]
      rw [if_pos hq, hnone, Option.none_or]
      exact List.find?_cons_of_pos (beq_iff_eq.mpr hq.symm)
    · have hnone : [u].find? (fun v => key v == q) = none := List.find?_cons_of_neg (fun h => hq (eq_of_beq h).symm)
      rw [if_neg hq, hnone, Option.or_none]

/-! ## Freeze units of the state -/

theorem find_unit_pa {s : State} {pa : Nat} {u : LUnit} (h : s.lat.units.find? (fun u => u.pa == pa) = some u) : u.pa = pa := by
  have := List.find?_some h
  exact eq_of_beq this

theorem unitInit_pa (s : State) (pa : Nat) : (s.unitInit pa).pa = pa := by
  unfold State.unitInit
  split
  · rfl
  · dsimp only
    split <;> rfl

theorem unitInit_parked (s : State) (pa : Nat) : (s.unitInit pa).parked = [] := by
  unfold State.unitInit
  split
  · rfl
  · dsimp only
    split <;> rfl

theorem unitInit_held (s : State) (pa : Nat) : (s.unitInit pa).held = [] := by
  unfold State.unitInit
  split
  · rfl
  · dsimp only
    split <;> rfl

/-- The unit at a place: the listed one, or one as its page's creation left it. -/
theorem unitAt_eq (s : State) (pa : Nat) : s.unitAt pa = (s.lat.units.find? (fun u => u.pa == pa)).getD (s.unitInit pa) := by
  unfold State.unitAt
  split
  · next h => rw [h, Option.getD_some]
  · next h => rw [h, Option.getD_none]

theorem unitAt_of_find {s : State} {pa : Nat} {u : LUnit} (h : s.lat.units.find? (fun u => u.pa == pa) = some u) :
    s.unitAt pa = u := by
  rw [unitAt_eq, h, Option.getD_some]

@[simp] theorem unitAt_pa (s : State) (pa : Nat) : (s.unitAt pa).pa = pa := by
  rw [unitAt_eq]
  cases h : s.lat.units.find? (fun u => u.pa == pa) with
  | none => exact unitInit_pa s pa
  | some u => exact find_unit_pa h

theorem unitInit_congr {s t : State} (hf : t.lat.frames = s.lat.frames) (hm : t.mem = s.mem) (pa : Nat) :
    t.unitInit pa = s.unitInit pa := by
  unfold State.unitInit State.frameOf
  rw [hf, hm]

theorem unitAt_congr {s t : State} (hu : t.lat.units = s.lat.units) (hf : t.lat.frames = s.lat.frames) (hm : t.mem = s.mem)
    (pa : Nat) : t.unitAt pa = s.unitAt pa := by
  rw [unitAt_eq, unitAt_eq, hu, unitInit_congr hf hm]

/-- What waits at a unit depends on the listed units alone. -/
theorem unitAt_waiting_congr {s t : State} (hu : t.lat.units = s.lat.units) (pa : Nat) :
    (t.unitAt pa).parked = (s.unitAt pa).parked ∧ (t.unitAt pa).held = (s.unitAt pa).held := by
  rw [unitAt_eq, unitAt_eq, hu]
  cases s.lat.units.find? (fun u => u.pa == pa) with
  | none =>
    exact ⟨(unitInit_parked t pa).trans (unitInit_parked s pa).symm, (unitInit_held t pa).trans (unitInit_held s pa).symm⟩
  | some u => exact ⟨rfl, rfl⟩

/-- The listed unit of a place, after one has been put back. -/
theorem find_putUnit (s : State) (u : LUnit) (q : Nat) :
    (s.putUnit u).lat.units.find? (fun v => v.pa == q) =
      if q = u.pa then some u else s.lat.units.find? (fun v => v.pa == q) :=
  find?_put LUnit.pa u s.lat.units q

theorem unitAt_putUnit_same {s : State} {u : LUnit} {pa : Nat} (h : u.pa = pa) : (s.putUnit u).unitAt pa = u :=
  unitAt_of_find (by rw [find_putUnit, if_pos h.symm])

theorem unitAt_putUnit_ne {s : State} {u : LUnit} {q : Nat} (h : q ≠ u.pa) : (s.putUnit u).unitAt q = s.unitAt q := by
  rw [unitAt_eq, unitAt_eq, find_putUnit, if_neg h]
  rfl

/-! ## Reports: the replies and faults of a home -/

/-- What a home does when it answers: it sends messages and reports faults; memory, the harts, the rest of the lattice, the places
of the cores, and which contexts stop are as before. -/
structure Reports (s t : State) : Prop where
  h : t.h = s.h
  harts : t.harts = s.harts
  mem : t.mem = s.mem
  lat : ∃ net sent, t.lat = { s.lat with net := net, sent := sent }
  cores : t.work.cores = s.work.cores
  stopping : ∀ c, t.isStopping c = s.isStopping c

namespace Reports

theorem refl (s : State) : Reports s s := ⟨rfl, rfl, rfl, ⟨_, _, rfl⟩, rfl, fun _ => rfl⟩

theorem trans {s t u : State} (a : Reports s t) (b : Reports t u) : Reports s u where
  h := b.h.trans a.h
  harts := b.harts.trans a.harts
  mem := b.mem.trans a.mem
  lat := by
    obtain ⟨n, m, ha⟩ := a.lat
    obtain ⟨n', m', hb⟩ := b.lat
    exact ⟨n', m', by rw [hb, ha]⟩
  cores := b.cores.trans a.cores
  stopping c := (b.stopping c).trans (a.stopping c)

section
variable {s t : State} (r : Reports s t)
include r

theorem units : t.lat.units = s.lat.units := by
  obtain ⟨_, _, h⟩ := r.lat
  rw [h]
theorem frames : t.lat.frames = s.lat.frames := by
  obtain ⟨_, _, h⟩ := r.lat
  rw [h]
theorem cache : t.lat.cache = s.lat.cache := by
  obtain ⟨_, _, h⟩ := r.lat
  rw [h]
theorem unitAt (pa : Nat) : t.unitAt pa = s.unitAt pa := unitAt_congr r.units r.frames r.mem pa

theorem physOf (c : Nat) : t.physOf c = s.physOf c := by
  unfold State.physOf State.core?
  rw [r.cores]

theorem hart? (id : HartId) : t.hart? id = s.hart? id := by
  unfold State.hart?
  rw [r.h, r.harts]

end

end Reports

/-- A change of contexts that keeps their handles and whether they stop. -/
theorem isStopping_updCtx (s : State) (c : Nat) (f : Ctx → Ctx) (hh : ∀ x, (f x).handle = x.handle)
    (hs : ∀ x, (f x).stopping = x.stopping) (d : Nat) : (s.updCtx c f).isStopping d = s.isStopping d := by
  have hfind : (s.updCtx c f).ctx? d = (s.ctx? d).map (fun x => if x.handle == c then f x else x) :=
    find?_updWhere _ _ _ _ (fun x _ => by rw [hh])
  unfold State.isStopping
  rw [hfind]
  cases s.ctx? d with
  | none => rfl
  | some x =>
    show (if x.handle == c then f x else x).stopping = x.stopping
    split
    · exact hs x
    · rfl

theorem reports_raise (s : State) (c : Nat) (r : List Nat) (stop : Bool) : Reports s (s.raise c r stop) :=
  ⟨rfl, rfl, rfl, ⟨_, _, rfl⟩, rfl, isStopping_updCtx s c _ (fun _ => rfl) (fun _ => rfl)⟩

theorem reports_send (s : State) (m : Msg) : Reports s (s.send m) where
  h := rfl
  harts := rfl
  mem := rfl
  lat := by
    show ∃ net sent, (if s.discards m then s.lat else _) = _
    split
    · exact ⟨_, _, rfl⟩
    · exact ⟨_, _, rfl⟩
  cores := rfl
  stopping _ := rfl

theorem reports_replyTo (s : State) (src : Who) (ctx : Nat) (w : Who) (b : Body) : Reports s (s.replyTo src ctx w b) := by
  cases w with
  | thread c k => exact reports_send s _
  | op c k g u => exact reports_send s _
  | gate t g => exact reports_send s _
  | host _ _ | rill _ | ju _ | core _ => exact Reports.refl s

theorem reports_setPkg (s : State) (p : Nat) (v : Pkg) : Reports s (s.setPkg p v) :=
  ⟨rfl, rfl, rfl, ⟨_, _, rfl⟩, rfl, fun _ => rfl⟩

theorem reports_refuseWrite (s : State) (cxl : Bool) (p cause win ctx va gen found : Nat) :
    Reports s (s.refuseWrite cxl p cause win ctx va gen found) := by
  unfold State.refuseWrite
  dsimp only
  split
  · exact reports_setPkg s _ _
  · exact (reports_setPkg s _ _).trans (reports_setPkg _ _ _)

/-- A run of reports, one for each element of a list. -/
theorem reports_foldl {α : Type} (f : State → α → State) (hf : ∀ s a, Reports s (f s a)) (l : List α) (s : State) :
    Reports s (l.foldl f s) := by
  induction l generalizing s with
  | nil => exact Reports.refl s
  | cons a l ih => exact (hf s a).trans (ih (f s a))

theorem reports_hostRefuseAll (s : State) (cxl : Bool) (ctx w gop : Nat) (l : List Verdict) :
    Reports s (s.hostRefuseAll cxl ctx w gop l) := by
  refine reports_foldl _ (fun t v => ?_) l s
  split
  · exact reports_refuseWrite t _ _ _ _ _ _ _ _
  · exact Reports.refl t

theorem reports_replyGroup (s : State) (src : Who) (ctx gop : Nat) (l : List Verdict) :
    Reports s (s.replyGroup src ctx gop l) := by
  unfold State.replyGroup
  split
  · split
    · exact reports_hostRefuseAll s _ _ _ _ _
    · exact reports_replyTo s _ _ _ _
  · exact reports_replyTo s _ _ _ _
  · exact Reports.refl s

theorem reports_replyAll (s : State) (src : Who) (ctx gop n : Nat) (l : List Verdict) :
    Reports s (s.replyAll src ctx gop n l) := by
  induction n generalizing s l with
  | zero => exact Reports.refl s
  | succ n ih =>
    cases l with
    | nil => exact Reports.refl s
    | cons v l => exact (reports_replyGroup s _ _ _ _).trans (ih _ _)

theorem reports_answerRead (s : State) (src : Who) (ctx pkg : Nat) (r : LReq) (m : Member) (found : Nat) (a : Answer) :
    Reports s (s.answerRead src ctx pkg r m found a) := by
  cases a with
  | park => exact Reports.refl s
  | wake o v =>
    have hstale : Reports s (if o = 6 then s.raiseStale ctx pkg m r.gen found else s) := by
      split
      · exact reports_raise s _ _ _
      · exact Reports.refl s
    unfold State.answerRead
    dsimp only
    split
    · exact hstale.trans (reports_replyTo _ _ _ _ _)
    · exact hstale.trans (reports_replyTo _ _ _ _ _)
  | data v => exact reports_replyTo s _ _ _ _
  | trap c => exact reports_replyTo s _ _ _ _

theorem reports_answerLand (s : State) (src : Who) (ctx pkg : Nat) (r : LReq) (m : Member) (found : Nat) (a : Answer) :
    Reports s (s.answerLand src ctx pkg r m found a) := by
  unfold State.answerLand
  split
  · exact reports_replyTo s _ _ _ _
  · exact reports_answerRead s _ _ _ _ _ _ _

/-! ## What a thread is sent -/

/-- The network after the home of a unit has sent a core a reply, which a context that stops does not get (R398). -/
def replied (s : State) (net : List Msg) (pa ctx c : Nat) (b : Body) : List Msg :=
  if s.isStopping ctx then net else net ++ [{ src := .ju (paHome pa), ctx := ctx, dest := .core c, body := b }]

theorem replyTo_thread_net (s : State) (pa ctx c k : Nat) (b : Body) (hb : b.isReply = true) :
    (s.replyTo (.ju (paHome pa)) ctx (.thread c k) b).lat.net = replied s s.lat.net pa ctx c b := by
  show (if (b.isReply && s.isStopping ctx) then s.lat else _ : Lattice).net = _
  rw [hb, Bool.true_and, replied]
  split <;> rfl

theorem replied_congr {s t : State} (h : ∀ c, t.isStopping c = s.isStopping c) (net : List Msg) (pa ctx c : Nat) (b : Body) :
    replied t net pa ctx c b = replied s net pa ctx c b := by
  rw [replied, replied, h]

/-! ## Cluster caches -/

/-- Only caches, and what DRAM and memory hold of the lines that they give up, differ. -/
def CachesOnly (s t : State) : Prop :=
  ∃ mem cache dram writeBacks,
    t = { s with mem := mem, lat := { s.lat with cache := cache, dram := dram, writeBacks := writeBacks } }

namespace CachesOnly

theorem refl (s : State) : CachesOnly s s := ⟨_, _, _, _, rfl⟩

theorem trans {s t u : State} (a : CachesOnly s t) (b : CachesOnly t u) : CachesOnly s u := by
  obtain ⟨_, _, _, _, rfl⟩ := a
  obtain ⟨_, _, _, _, rfl⟩ := b
  exact ⟨_, _, _, _, rfl⟩

theorem foldl {α : Type} {f : State → α → State} (hf : ∀ s a, CachesOnly s (f s a)) (l : List α) (s : State) :
    CachesOnly s (l.foldl f s) := by
  induction l generalizing s with
  | nil => exact refl s
  | cons a l ih => exact (hf s a).trans (ih (f s a))

end CachesOnly

theorem settleLine_cachesOnly (s : State) (line : Nat) (dirty : Bool) : CachesOnly s (s.settleLine line dirty) := by
  unfold State.settleLine
  split
  · exact CachesOnly.refl s
  · dsimp only
    split
    · exact ⟨_, _, _, _, rfl⟩
    · exact ⟨_, _, _, _, rfl⟩

theorem uncache_cachesOnly (s : State) (p : CLine → Bool) : CachesOnly s (s.uncache p) := by
  unfold State.uncache
  refine CachesOnly.trans (t := { s with lat := { s.lat with cache := s.lat.cache.filter (fun c => !(c.plain && p c)) } })
    ⟨_, _, _, _, rfl⟩ (CachesOnly.foldl (fun t c => ?_) _ _)
  split
  · exact CachesOnly.refl t
  · exact settleLine_cachesOnly t _ _

theorem evict_cachesOnly (s : State) (cluster : Nat) : CachesOnly s (s.evict cluster) := by
  unfold State.evict
  dsimp only
  split
  · exact CachesOnly.refl s
  · split
    · exact CachesOnly.refl s
    · split
      · exact uncache_cachesOnly s _
      · exact ⟨_, _, _, _, rfl⟩

/-- The lines that the cache of a cluster holds. -/
def cached (s : State) (cluster : Nat) : Nat := (s.lat.cache.filter (fun x => x.cluster == cluster)).length

/-- A cache with room gives up no line. -/
theorem evict_room (s : State) (cluster : Nat) (h : cached s cluster ≤ cacheLines) : s.evict cluster = s :=
  if_pos h

theorem cacheCopy_cachesOnly (s : State) (w : Who) (pa gen img : Nat) : CachesOnly s (s.cacheCopy w pa gen img) := by
  cases w with
  | thread c k => exact CachesOnly.trans ⟨_, _, _, _, rfl⟩ (evict_cachesOnly _ _)
  | op _ _ _ _ | host _ _ | gate _ _ | rill _ | ju _ | core _ => exact CachesOnly.refl s

/-- A line that replaces a copy of itself takes at most one place more. -/
theorem length_filter_replace (e : CLine) (p q : CLine → Bool) (l : List CLine) :
    ((e :: l.filter p).filter q).length ≤ (l.filter q).length + 1 := by
  rw [List.filter_cons, List.filter_comm]
  have hle := List.length_filter_le p (l.filter q)
  split
  · rw [List.length_cons]
    omega
  · omega

/-- A copy of a frozen line put in the place of an earlier one of its cluster (log 91). -/
def withCopy (s : State) (e : CLine) : State :=
  { s with lat := { s.lat with
    cache := e :: s.lat.cache.filter (fun x => !(x.cluster == e.cluster && x.line == e.line && x.gen.isSome)) } }

theorem cached_withCopy (s : State) (e : CLine) (d : Nat) : cached (withCopy s e) d ≤ cached s d + 1 :=
  length_filter_replace e _ _ _

/-- A copy that finds room in the thread's cluster cache leaves memory as it is. -/
theorem cacheCopy_room (s : State) (c k pa gen img : Nat) (h : cached s (physCluster (s.physOf c)) < cacheLines) :
    (s.cacheCopy (.thread c k) pa gen img).mem = s.mem ∧
    ∀ d, cached (s.cacheCopy (.thread c k) pa gen img) d ≤ cached s d + 1 := by
  have heq : s.cacheCopy (.thread c k) pa gen img
      = withCopy s { cluster := physCluster (s.physOf c), line := pa / 64, dirty := false, gen := some gen, img := img } :=
    evict_room _ _ ((cached_withCopy s _ _).trans h)
  rw [heq]
  exact ⟨rfl, cached_withCopy s _⟩

/-! ## Answers to readers -/

/-- What answering up to `n` readers does: messages, faults and cached copies; units and frames are as before, and with room for
`n` more lines in every cache so is memory. -/
structure Serves (n : Nat) (s t : State) : Prop where
  units : t.lat.units = s.lat.units
  frames : t.lat.frames = s.lat.frames
  room : (∀ c, cached s c + n ≤ cacheLines) → t.mem = s.mem ∧ ∀ c, cached t c ≤ cached s c + n

theorem Serves.trans {m n : Nat} {s t u : State} (a : Serves m s t) (b : Serves n t u) : Serves (m + n) s u where
  units := b.units.trans a.units
  frames := b.frames.trans a.frames
  room h := by
    obtain ⟨hm, hc⟩ := a.room (fun c => by have := h c; omega)
    obtain ⟨hm', hc'⟩ := b.room (fun c => by have := h c; have := hc c; omega)
    exact ⟨hm'.trans hm, fun c => by have := hc c; have := hc' c; omega⟩

theorem Reports.cached {s t : State} (r : Reports s t) (c : Nat) : cached t c = cached s c := by
  unfold LatticeCells.cached
  rw [r.cache]

theorem Reports.serves {s t : State} (r : Reports s t) : Serves 0 s t :=
  ⟨r.units, r.frames, fun _ => ⟨r.mem, fun c => (r.cached c).le⟩⟩

theorem Serves.mono {m n : Nat} {s t : State} (a : Serves m s t) (h : m ≤ n) : Serves n s t :=
  ⟨a.units, a.frames, fun hr =>
    (a.room fun c => by have := hr c; omega).imp_right fun hc c => by have := hc c; omega⟩

theorem cacheCopy_serves (s : State) (w : Who) (pa gen img : Nat) : Serves 1 s (s.cacheCopy w pa gen img) := by
  obtain ⟨_, _, _, _, heq⟩ := cacheCopy_cachesOnly s w pa gen img
  refine ⟨by rw [heq], by rw [heq], fun h => ?_⟩
  cases w with
  | thread c k => exact cacheCopy_room s c k pa gen img (h _)
  | op _ _ _ _ | host _ _ | gate _ _ | rill _ | ju _ | core _ => exact ⟨rfl, fun d => Nat.le_succ _⟩

/-- What answering a reader does beside the answer: bytes of a frozen unit are kept in a cache. -/
theorem answerHome_eq (s : State) (ctx ty sz : Nat) (r : LReq) (m : Member) (u : LUnit) (a : Answer) :
    let s1 := s.answerRead (.ju (paHome u.pa)) ctx (paPkg u.pa) r m u.gen a
    s.answerHome ctx ty sz r m u a = s1 ∨ ∃ img, s.answerHome ctx ty sz r m u a = s1.cacheCopy m.who m.pa u.gen img := by
  cases a with
  | data v => exact .inr ⟨_, rfl⟩
  | park | wake _ _ | trap _ => exact .inl rfl

theorem answerHome_serves (s : State) (ctx ty sz : Nat) (r : LReq) (m : Member) (u : LUnit) (a : Answer) :
    Serves 1 s (s.answerHome ctx ty sz r m u a) := by
  have hr := (reports_answerRead s (.ju (paHome u.pa)) ctx (paPkg u.pa) r m u.gen a).serves
  rcases answerHome_eq s ctx ty sz r m u a with h | ⟨img, h⟩
  · rw [h]
    exact hr.mono (by omega)
  · rw [h]
    exact (hr.trans (cacheCopy_serves _ _ _ _ _)).mono (by omega)

theorem answerHome_net (s : State) (ctx ty sz : Nat) (r : LReq) (m : Member) (u : LUnit) (a : Answer) :
    (s.answerHome ctx ty sz r m u a).lat.net = (s.answerRead (.ju (paHome u.pa)) ctx (paPkg u.pa) r m u.gen a).lat.net := by
  rcases answerHome_eq s ctx ty sz r m u a with h | ⟨img, h⟩
  · rw [h]
  · obtain ⟨_, _, _, _, heq⟩ := cacheCopy_cachesOnly (s.answerRead (.ju (paHome u.pa)) ctx (paPkg u.pa) r m u.gen a) m.who m.pa
      u.gen img
    rw [h, heq]

/-- Of the readers that are evaluated anew, each is answered or stays parked. -/
theorem reevaluate_serves (ty sz : Nat) (u : LUnit) (l keep : List Msg) (s : State) :
    ∃ n, Serves n s (s.reevaluate ty sz u l keep).1 ∧ (s.reevaluate ty sz u l keep).2.length + n ≤ keep.length + l.length := by
  induction l generalizing s keep with
  | nil => exact ⟨0, (Reports.refl s).serves, le_refl _⟩
  | cons p l ih =>
    have hskip : ∃ n, Serves n s (s.reevaluate ty sz u l keep).1 ∧
        (s.reevaluate ty sz u l keep).2.length + n ≤ keep.length + (p :: l).length := by
      obtain ⟨n, hs, hl⟩ := ih keep s
      exact ⟨n, hs, by rw [List.length_cons]; omega⟩
    unfold State.reevaluate
    split
    · split
      · split
        · obtain ⟨n, hs, hl⟩ := ih (keep ++ [p]) s
          refine ⟨n, hs, ?_⟩
          rw [List.length_append, List.length_singleton] at hl
          rw [List.length_cons]
          omega
        · obtain ⟨n, hs, hl⟩ := ih keep (s.answerHome p.ctx ty sz _ _ u _)
          refine ⟨1 + n, (answerHome_serves s _ _ _ _ _ _ _).trans hs, ?_⟩
          rw [List.length_cons]
          omega
      · exact hskip
    · exact hskip

/-! ## Weirs -/

theorem insertBy_perm {α : Type} (f : α → Nat) (a : α) (l : List α) : (insertBy f a l).Perm (a :: l) := by
  induction l with
  | nil => exact List.Perm.refl _
  | cons b l ih =>
    rw [insertBy]
    split
    · exact List.Perm.refl _
    · exact (ih.cons b).trans (List.Perm.swap a b l)

theorem sortBy_perm {α : Type} (f : α → Nat) (l : List α) : (sortBy f l).Perm l := by
  have hfold (l acc : List α) : (l.foldl (fun acc a => insertBy f a acc) acc).Perm (acc ++ l) := by
    induction l generalizing acc with
    | nil => rw [List.append_nil]; exact List.Perm.refl _
    | cons a l ih => exact ((ih _).trans ((insertBy_perm f a acc).append_right l)).trans List.perm_middle.symm
  exact hfold l []

/-- Whether a reader has room depends on the other readers of the table, not on their order. -/
theorem weirFits_sortBy (f : LReq → Nat) (l : List LReq) (r : LReq) :
    weirFits (sortBy f (l.filter (fun x => !x.moved))) r = weirFits l r := by
  have hperm : ((sortBy f (l.filter (fun x => !x.moved))).filter (fun x => !x.moved)).Perm (l.filter (fun x => !x.moved)) := by
    have := (sortBy_perm f (l.filter (fun x => !x.moved))).filter (fun x => !x.moved)
    simpa only [List.filter_filter, Bool.and_self] using this
  unfold weirFits
  dsimp only
  rw [hperm.length_eq, (hperm.map _).sum_eq]

/-- Where a reader has room nothing moves to the overflow area. -/
theorem weirRoom_of_fits {s : State} {ch : Nat} {r : LReq} (h : weirFits (s.weir ch) r = true) : s.weirRoom ch r = s := by
  have hmoves : weirMoves r (s.weirHere ch) = [] := by
    have hfit : weirFits (s.weirHere ch) r = true := (weirFits_sortBy _ _ r).trans h
    cases hl : s.weirHere ch with
    | nil => rfl
    | cons x l =>
      rw [hl] at hfit
      exact if_pos hfit
  rw [State.weirRoom, hmoves]
  rfl

/-- Only the entries parked at units differ, and the unit of a place has as many as before. -/
def WeirsOnly (pa : Nat) (s t : State) : Prop :=
  (∃ units, t = { s with lat := { s.lat with units := units } }) ∧
  ∃ l, l.length = (s.unitAt pa).parked.length ∧ t.unitAt pa = { s.unitAt pa with parked := l }

theorem WeirsOnly.refl (pa : Nat) (s : State) : WeirsOnly pa s s := ⟨⟨_, rfl⟩, _, rfl, rfl⟩

theorem WeirsOnly.trans {pa : Nat} {s t u : State} (a : WeirsOnly pa s t) (b : WeirsOnly pa t u) : WeirsOnly pa s u := by
  obtain ⟨⟨us, rfl⟩, l, hl, hu⟩ := a
  obtain ⟨⟨us', rfl⟩, l', hl', hu'⟩ := b
  refine ⟨⟨us', rfl⟩, l', ?_, ?_⟩
  · rw [hl', hu, hl]
  · rw [hu', hu]

theorem updWeir_weirsOnly (pa : Nat) (s : State) (ch n : Nat) (f : LReq → LReq) : WeirsOnly pa s (s.updWeir ch n f) := by
  refine ⟨⟨_, rfl⟩, ?_⟩
  obtain ⟨g, hg⟩ : ∃ g : Msg → Msg, (s.updWeir ch n f).lat.units =
      updWhere (fun u => paHome u.pa == ch) (fun u => { u with parked := u.parked.map g }) s.lat.units := ⟨_, rfl⟩
  have hfind := find?_updWhere (fun u : LUnit => u.pa == pa) (fun u => paHome u.pa == ch)
    (fun u => { u with parked := u.parked.map g }) s.lat.units (fun _ _ => rfl)
  rw [← hg] at hfind
  rw [unitAt_eq, unitAt_eq, hfind]
  cases s.lat.units.find? (fun u => u.pa == pa) with
  | none => exact ⟨_, rfl, rfl⟩
  | some u =>
    show ∃ l, l.length = u.parked.length ∧
      (if paHome u.pa == ch then { u with parked := u.parked.map g } else u) = { u with parked := l }
    split
    · exact ⟨_, List.length_map _, rfl⟩
    · exact ⟨_, rfl, rfl⟩

theorem weirRoom_weirsOnly (pa : Nat) (s : State) (ch : Nat) (r : LReq) : WeirsOnly pa s (s.weirRoom ch r) := by
  unfold State.weirRoom
  generalize weirMoves r (s.weirHere ch) = l
  induction l generalizing s with
  | nil => exact WeirsOnly.refl pa s
  | cons x l ih => exact (updWeir_weirsOnly pa s _ _ _).trans (ih _)

theorem assocGet_assocSet_same {α : Type} (d : α) (k : Nat) (v : α) (l : List (Nat × α)) : assocGet d k (assocSet k v l) = v := by
  induction l with
  | nil => exact if_pos rfl
  | cons x l ih =>
    obtain ⟨j, w⟩ := x
    rw [assocSet]
    split
    · exact if_pos rfl
    · next h => rw [assocGet, if_neg h, ih]

/-- A reader's message as it stands in a weir: with its arrival number and its place in the trigger store (R98, R99). -/
def asParked (p : Msg) (r : LReq) (n k : Nat) : Msg := { p with body := .lat { r with seq := n, tidx := k, moved := false } }

/-- A join unit has counted one more arrival. -/
def countArrival (s : State) (ch : Nat) : State :=
  { s with lat := { s.lat with arrivals := assocSet ch (assocGet 0 ch s.lat.arrivals + 1) s.lat.arrivals } }

theorem parkReader_eq (s : State) (p : Msg) (r : LReq) (u : LUnit) :
    let s1 := (s.putUnit u).weirRoom (paHome u.pa) r
    let n := assocGet 0 (paHome u.pa) s1.lat.arrivals
    let v := s1.unitAt u.pa
    s.parkReader p r u = countArrival (s1.putUnit
      { v with parked := v.parked ++ [asParked p r n (weirSlot (s1.weir (paHome u.pa)) r.slots)] }) (paHome u.pa) := rfl

/-- A reader has parked at its unit: it is the newest entry there, with the next arrival number of the join unit; entries of other
readers may have moved to the overflow area where it had no room (R98, R99). -/
structure Parks (p : Msg) (r : LReq) (pa : Nat) (s t : State) : Prop where
  net : t.lat.net = s.lat.net
  mem : t.mem = s.mem
  frames : t.lat.frames = s.lat.frames
  cache : t.lat.cache = s.lat.cache
  arrivals : assocGet 0 (paHome pa) t.lat.arrivals = assocGet 0 (paHome pa) s.lat.arrivals + 1
  unit : ∃ l k, l.length = (s.unitAt pa).parked.length ∧
    t.unitAt pa = { s.unitAt pa with parked := l ++ [asParked p r (assocGet 0 (paHome pa) s.lat.arrivals) k] } ∧
    (weirFits ((s.putUnit (s.unitAt pa)).weir (paHome pa)) r = true → l = (s.unitAt pa).parked)

theorem parkReader_parks (s : State) (p : Msg) (r : LReq) (pa : Nat) : Parks p r pa s (s.parkReader p r (s.unitAt pa)) := by
  have hput : (s.putUnit (s.unitAt pa)).unitAt pa = s.unitAt pa := unitAt_putUnit_same (unitAt_pa s pa)
  obtain ⟨⟨us, hs1⟩, l, hlen, hunit⟩ := weirRoom_weirsOnly pa (s.putUnit (s.unitAt pa)) (paHome pa) r
  have hfits : weirFits ((s.putUnit (s.unitAt pa)).weir (paHome pa)) r = true → l = (s.unitAt pa).parked := by
    intro h
    rw [weirRoom_of_fits h, hput] at hunit
    exact (congrArg LUnit.parked hunit).symm
  have harr : ((s.putUnit (s.unitAt pa)).weirRoom (paHome pa) r).lat.arrivals = s.lat.arrivals := by
    rw [hs1]
    rfl
  rw [hput] at hlen hunit
  rw [parkReader_eq, unitAt_pa, harr, hunit]
  generalize weirSlot _ _ = k
  rw [hs1]
  exact ⟨rfl, rfl, rfl, rfl, assocGet_assocSet_same 0 _ _ _, l, k, hlen,
    (unitAt_congr rfl rfl rfl pa).trans (unitAt_putUnit_same (unitAt_pa s pa)), hfits⟩

/-! ## Updates at a home -/

/-- Two values of one unit with the same messages waiting there. -/
structure KeepsWaiting (u v : LUnit) : Prop where
  pa : v.pa = u.pa
  parked : v.parked = u.parked
  held : v.held = u.held

theorem KeepsWaiting.refl (u : LUnit) : KeepsWaiting u u := ⟨rfl, rfl, rfl⟩

theorem KeepsWaiting.trans {u v w : LUnit} (a : KeepsWaiting u v) (b : KeepsWaiting v w) : KeepsWaiting u w :=
  ⟨b.pa.trans a.pa, b.parked.trans a.parked, b.held.trans a.held⟩

theorem freeze_keepsWaiting (ty : Nat) (u : LUnit) : KeepsWaiting u (u.freeze ty) := by
  unfold LUnit.freeze
  split
  · exact ⟨rfl, rfl, rfl⟩
  · exact KeepsWaiting.refl u

theorem reached_keepsWaiting (ty gen : Nat) (u : LUnit) : KeepsWaiting u (reached ty gen u) := by
  unfold reached
  split
  · exact ⟨rfl, rfl, rfl⟩
  · exact KeepsWaiting.refl u

theorem join_keepsWaiting (ty idx v : Nat) (u : LUnit) : KeepsWaiting u (u.join ty idx v).u := by
  unfold LUnit.join
  split
  · split
    · split
      · exact KeepsWaiting.refl u
      · exact ⟨rfl, rfl, rfl⟩
    · exact ⟨rfl, rfl, rfl⟩
  · dsimp only
    split
    · exact KeepsWaiting.trans (v := { u with cells := u.cells.set idx (joinCell ty (nth u.cells idx) v) }) ⟨rfl, rfl, rfl⟩
        (freeze_keepsWaiting ty _)
    · exact ⟨rfl, rfl, rfl⟩

theorem updateCurrent_keepsWaiting (ty idx v : Nat) (u : LUnit) : KeepsWaiting u (updateCurrent ty idx v u).u := by
  cases hs : u.st with
  | growing => rw [updateCurrent_growing hs]; exact join_keepsWaiting ty idx v u
  | frozen => rw [updateCurrent_frozen hs]; exact KeepsWaiting.refl u
  | conflict => rw [updateCurrent_conflict hs]; exact KeepsWaiting.refl u

/-- An operation leaves what waits at the unit. -/
theorem apply_keepsWaiting (ty : Nat) (kind : LKind) (gen idx v : Nat) (u : LUnit) :
    KeepsWaiting u (u.apply ty kind gen idx v).u := by
  by_cases hd : genDist gen u.gen < 32768
  · rw [apply_of_notStale hd]
    split
    · split
      · exact KeepsWaiting.refl u
      · exact freeze_keepsWaiting ty u
    · split
      · exact KeepsWaiting.refl u
      · split
        · exact reached_keepsWaiting ty gen u
        · exact (reached_keepsWaiting ty gen u).trans (updateCurrent_keepsWaiting ty idx v _)
  · rw [apply_stale (by omega)]
    exact KeepsWaiting.refl u

theorem applyMembers_keepsWaiting (ty sz : Nat) (kind : LKind) (gen : Nat) (l : List Member) (u : LUnit) (vs : List Verdict)
    (cs : List (Member × Nat)) : KeepsWaiting u (applyMembers ty sz kind gen l u vs cs).1 := by
  induction l generalizing u vs cs with
  | nil => exact KeepsWaiting.refl u
  | cons m l ih => exact (apply_keepsWaiting ty kind gen _ _ u).trans (ih _ _ _)

/-- The lines of a range have been written: only key checks and lost lines differ. -/
theorem wrote_eq (s : State) (pa n : Nat) :
    ∃ checks lost, s.wrote pa n = { s with lat := { s.lat with checks := checks, lost := lost } } := by
  unfold State.wrote
  split
  · exact ⟨_, _, rfl⟩
  · exact ⟨_, _, rfl⟩

theorem wrote_serves (s : State) (pa n : Nat) : Serves 0 s (s.wrote pa n) := by
  obtain ⟨_, _, h⟩ := wrote_eq s pa n
  rw [h]
  exact ⟨rfl, rfl, fun _ => ⟨rfl, fun _ => le_refl _⟩⟩

/-- What applying a message to its unit does: reports, and where the unit has changed its lines are written and its readers
evaluated anew. -/
theorem applyAt_eq (s : State) (p : Msg) (r : LReq) (pa : Nat) :
    let ty := (s.cellType pa).1
    let sz := (s.cellType pa).2
    let a := applyMembers ty sz r.kind r.gen r.members (s.unitAt pa) [] []
    ∃ s2, Reports s s2 ∧
      s2 = (a.2.2.foldl (fun z c => z.raiseConflict p.ctx (paPkg pa) c.1 r.gen c.2) s).replyAll (.ju (paHome pa)) p.ctx r.gen
        r.members.length a.2.1 ∧
      (a.1 = s.unitAt pa → s.applyAt p r pa = s2) ∧
      (a.1 ≠ s.unitAt pa →
        let e := (s2.wrote pa (unitBytes ty sz)).reevaluate ty sz a.1 (s.unitAt pa).parked []
        s.applyAt p r pa = e.1.putUnit { a.1 with parked := e.2 }) :=
  ⟨_, (reports_foldl _ (fun _ _ => reports_raise _ _ _ _) _ s).trans (reports_replyAll _ _ _ _ _ _), rfl, fun h => if_pos h,
    fun h => if_neg h⟩

/-! ## What a home leaves when it takes up a message -/

/-- The lines of a cluster's cache and the readers at a unit, any of which may come to need a line. -/
def load (s : State) (pa cluster : Nat) : Nat := cached s cluster + (s.unitAt pa).parked.length

/-- What a home that takes up `n` messages of a unit leaves: the frames, the messages that the unit holds back, and with room for
the lines that readers may need also memory. -/
structure TakesUp (pa n : Nat) (s t : State) : Prop where
  frames : t.lat.frames = s.lat.frames
  held : (t.unitAt pa).held = (s.unitAt pa).held
  room : (∀ c, load s pa c + n ≤ cacheLines) → t.mem = s.mem ∧ ∀ c, load t pa c ≤ load s pa c + n

namespace TakesUp

theorem refl (pa : Nat) (s : State) : TakesUp pa 0 s s := ⟨rfl, rfl, fun _ => ⟨rfl, fun _ => le_refl _⟩⟩

theorem trans {pa m n : Nat} {s t u : State} (a : TakesUp pa m s t) (b : TakesUp pa n t u) : TakesUp pa (m + n) s u where
  frames := b.frames.trans a.frames
  held := b.held.trans a.held
  room h := by
    obtain ⟨hm, hc⟩ := a.room (fun c => by have := h c; omega)
    obtain ⟨hm', hc'⟩ := b.room (fun c => by have := h c; have := hc c; omega)
    exact ⟨hm'.trans hm, fun c => by have := hc c; have := hc' c; omega⟩

theorem mono {pa m n : Nat} {s t : State} (a : TakesUp pa m s t) (h : m ≤ n) : TakesUp pa n s t :=
  ⟨a.frames, a.held, fun hr => (a.room fun c => by have := hr c; omega).imp_right fun hc c => by have := hc c; omega⟩

end TakesUp

theorem Serves.takesUp {n : Nat} {s t : State} (a : Serves n s t) (pa : Nat) : TakesUp pa n s t := by
  obtain ⟨hparked, hheld⟩ := unitAt_waiting_congr a.units pa
  refine ⟨a.frames, hheld, fun h => ?_⟩
  obtain ⟨hm, hc⟩ := a.room (fun c => by have := h c; rw [load] at this; omega)
  refine ⟨hm, fun c => ?_⟩
  have := hc c
  rw [load, load, hparked]
  omega

theorem replicasOf_congr {s t : State} (h : t.lat.frames = s.lat.frames) (pa : Nat) : t.replicasOf pa = s.replicasOf pa := by
  unfold State.replicasOf State.frameOf
  rw [h]

theorem applyAt_takesUp (s : State) (p : Msg) (r : LReq) (pa : Nat) : TakesUp pa 0 s (s.applyAt p r pa) := by
  obtain ⟨s2, hrep, -, hsame, hnew⟩ := applyAt_eq s p r pa
  have hkeep := applyMembers_keepsWaiting (s.cellType pa).1 (s.cellType pa).2 r.kind r.gen r.members (s.unitAt pa) [] []
  generalize (applyMembers _ _ r.kind r.gen r.members (s.unitAt pa) [] []).1 = u at hkeep hsame hnew
  by_cases heq : u = s.unitAt pa
  · rw [hsame heq]
    exact hrep.serves.takesUp pa
  · obtain ⟨n, hserve, hlen⟩ := reevaluate_serves (s.cellType pa).1 (s.cellType pa).2 u (s.unitAt pa).parked []
      (s2.wrote pa (unitBytes (s.cellType pa).1 (s.cellType pa).2))
    have hall := (hrep.serves.trans (wrote_serves s2 _ _)).trans hserve
    rw [hnew heq]
    generalize (s2.wrote pa _).reevaluate _ _ u _ [] = e at hall hlen
    have hunit : (e.1.putUnit { u with parked := e.2 }).unitAt pa = { u with parked := e.2 } :=
      unitAt_putUnit_same (hkeep.pa.trans (unitAt_pa s pa))
    refine ⟨hall.frames, by rw [hunit, ← hkeep.held], fun h => ?_⟩
    rw [List.length_nil] at hlen
    obtain ⟨hm, hc⟩ := hall.room (fun c => by have := h c; rw [load] at this; omega)
    refine ⟨hm, fun c => ?_⟩
    have hput : cached (e.1.putUnit { u with parked := e.2 }) c = cached e.1 c := rfl
    have := hc c
    rw [load, load, hunit, hput]
    dsimp only
    omega

theorem Parks.takesUp {p : Msg} {r : LReq} {pa : Nat} {s t : State} (h : Parks p r pa s t) : TakesUp pa 1 s t := by
  obtain ⟨l, k, hlen, hunit, -⟩ := h.unit
  refine ⟨h.frames, by rw [hunit], fun _ => ⟨h.mem, fun c => ?_⟩⟩
  rw [load, load, hunit, cached, cached, h.cache, List.length_append, hlen, List.length_singleton]
  omega

/-- A read at its home parks in the weir or is answered. -/
theorem readAt_cases (s : State) (p : Msg) (r : LReq) (m : Member) (l : List Member) (pa : Nat) (hm : r.members = m :: l) :
    ((s.unitAt pa).answer (s.cellType pa).1 (s.cellType pa).2 r m.pa = .park → s.readAt p r pa = s.parkReader p r (s.unitAt pa)) ∧
    ∀ a, a ≠ .park → (s.unitAt pa).answer (s.cellType pa).1 (s.cellType pa).2 r m.pa = a →
      s.readAt p r pa = s.answerHome p.ctx (s.cellType pa).1 (s.cellType pa).2 r m (s.unitAt pa) a := by
  unfold State.readAt
  rw [hm]
  dsimp only
  refine ⟨fun h => by rw [h], fun a hne h => ?_⟩
  rw [h]
  cases a with
  | park => exact absurd rfl hne
  | wake _ _ | data _ | trap _ => rfl

theorem readAt_takesUp (s : State) (p : Msg) (r : LReq) (pa : Nat) : TakesUp pa 1 s (s.readAt p r pa) := by
  cases hm : r.members with
  | nil =>
    have heq : s.readAt p r pa = s := by
      unfold State.readAt
      rw [hm]
    rw [heq]
    exact (TakesUp.refl pa s).mono (by omega)
  | cons m l =>
    obtain ⟨hpark, hanswer⟩ := readAt_cases s p r m l pa hm
    by_cases ha : (s.unitAt pa).answer (s.cellType pa).1 (s.cellType pa).2 r m.pa = .park
    · rw [hpark ha]
      exact (parkReader_parks s p r pa).takesUp
    · rw [hanswer _ ha rfl]
      exact (answerHome_serves s _ _ _ _ _ _ _).takesUp pa

theorem loseAt_takesUp (s : State) (p : Msg) (r : LReq) (pa : Nat) : TakesUp pa 0 s (s.loseAt p r pa) := by
  unfold State.loseAt
  split
  · exact (reports_raise s _ _ _).serves.takesUp pa
  · exact TakesUp.refl pa s

/-- What a home does with a message that it need not hold back (R95). -/
theorem homeStep_eq (s : State) (p : Msg) (r : LReq) (pa : Nat) (hheld : (s.unitAt pa).held = [])
    (hadv : r.advances (s.unitAt pa) = true → s.replicasOf pa = []) :
    s.homeStep p r pa =
      if s.isLost pa (unitBytes (s.cellType pa).1 (s.cellType pa).2) then s.loseAt p r pa
      else if s.atReplica r (s.unitAt pa) pa then s.readAt p r pa
      else if r.kind.isUpdate || r.kind == .freeze then s.applyAt p r pa else s.readAt p r pa := by
  have hfree : ¬ (!(s.unitAt pa).held.isEmpty || r.advances (s.unitAt pa) && !(s.replicasOf pa).isEmpty) = true := by
    rw [hheld]
    intro h
    rw [List.isEmpty_nil, Bool.not_true, Bool.false_or, Bool.and_eq_true] at h
    obtain ⟨hgen, hrep⟩ := h
    rw [hadv hgen] at hrep
    exact Bool.false_ne_true hrep
  unfold State.homeStep
  dsimp only
  rw [if_neg hfree]

/-- A home takes up a message of a unit that holds none back, on a page without replicas. -/
theorem homeStep_takesUp (s : State) (p : Msg) (r : LReq) (pa : Nat) (hheld : (s.unitAt pa).held = [])
    (hrep : s.replicasOf pa = []) : TakesUp pa 1 s (s.homeStep p r pa) := by
  rw [homeStep_eq s p r pa hheld (fun _ => hrep)]
  split
  · exact (loseAt_takesUp s p r pa).mono (by omega)
  · split
    · exact readAt_takesUp s p r pa
    · split
      · exact (applyAt_takesUp s p r pa).mono (by omega)
      · exact readAt_takesUp s p r pa

/-- A unit's messages that were held back are taken up, or wait in the network again. -/
theorem releaseHeld_takesUp (pa : Nat) (l : List Msg) (s : State) (hheld : (s.unitAt pa).held = []) (hrep : s.replicasOf pa = []) :
    TakesUp pa l.length s (s.releaseHeld pa l) := by
  induction l generalizing s with
  | nil => exact TakesUp.refl pa s
  | cons p l ih =>
    rw [List.length_cons, Nat.add_comm]
    unfold State.releaseHeld
    split
    · next r _ =>
      split
      · have hstep := homeStep_takesUp s p r pa hheld hrep
        exact hstep.trans (ih _ (hstep.held.trans hheld) ((replicasOf_congr hstep.frames pa).trans hrep))
      · have hback : Serves 0 s (s.backToNet (p :: l)) := ⟨rfl, rfl, fun _ => ⟨rfl, fun _ => le_refl _⟩⟩
        exact (hback.takesUp pa).mono (by omega)
    · exact (ih s hheld hrep).mono (by omega)

/-- A page whose replicas are invalidated has none. -/
theorem dropReplicas_replicasOf (s : State) (pa : Nat) : (s.dropReplicas pa).replicasOf pa = [] := by
  obtain ⟨l, hl⟩ : ∃ l, (s.dropReplicas pa).lat.frames = updWhere (fun f => decide (f.pa ≤ pa) && decide (pa < f.pa + f.size))
    (fun f => { f with replicas := [] }) l := ⟨_, rfl⟩
  rw [State.replicasOf, State.frameOf, hl, find?_updWhere _ _ (fun f : Frame => { f with replicas := [] }) _ (fun _ _ => rfl)]
  cases hf : l.find? (fun f => decide (f.pa ≤ pa) && decide (pa < f.pa + f.size)) with
  | none => rfl
  | some f =>
    have hin := List.find?_some hf
    rw [Option.map_some, if_pos hin]
    rfl

theorem invalidationComplete_answers (s : State) (pa : Nat) (hev : s.evArg 0 = pa) (hheld : (s.unitAt pa).held ≠ []) :
    Answers (exec .invalidationComplete s) fun t =>
      t.replicasOf pa = [] ∧ (t.unitAt pa).held = [] ∧
      ((∀ c, cached s c + (s.unitAt pa).held.length + (s.unitAt pa).parked.length ≤ cacheLines) → SameMem s t) := by
  let s0 := (s.dropReplicas pa).putUnit { s.unitAt pa with held := [] }
  have hunit : s0.unitAt pa = { s.unitAt pa with held := [] } := unitAt_putUnit_same (unitAt_pa s pa)
  have hrep : s0.replicasOf pa = [] := dropReplicas_replicasOf s pa
  have hrelease := releaseHeld_takesUp pa (s.unitAt pa).held s0 (by rw [hunit]) hrep
  have hexec : exec .invalidationComplete s = .next (s0.releaseHeld pa (s.unitAt pa).held) := by
    show (if (s.unitAt (s.evArg 0)).held.isEmpty then _ else _) = _
    rw [hev, if_neg (by rwa [List.isEmpty_iff])]
  refine ⟨_, hexec, (replicasOf_congr hrelease.frames pa).trans hrep, by rw [hrelease.held, hunit], fun h a => ?_⟩
  have hload (c : Nat) : load s0 pa c = cached s c + (s.unitAt pa).parked.length := by
    rw [load, hunit]
    rfl
  rw [(hrelease.room fun c => by rw [hload]; have := h c; omega).1]
  rfl

/-! ## The delivery of a message -/

theorem takeMsg_undeliverable {s : State} {i : Nat} (h : s.deliverable i = false) : s.takeMsg i = none := by
  rw [State.takeMsg, h, if_neg Bool.false_ne_true]

/-- A message that an event names leaves the network. -/
theorem takeMsg_delivers {s : State} {p : Msg} (h : s.delivers p) (hdest : ∀ n, p.dest ≠ .node n) :
    s.takeMsg (s.evArg 0) = some (p, s.dropMsg (s.evArg 0) p.ctx) := by
  obtain ⟨hdel, hnet, -⟩ := h
  rw [State.takeMsg, if_pos hdel, hnet, Option.map_some]
  unfold State.taken
  split
  · next n hn => exact absurd hn (hdest n)
  · rfl

theorem toHome_undeliverable {s : State} (k : LKind → Bool) (h : s.deliverable (s.evArg 0) = false) :
    s.toHome (s.evArg 0) k = .next s := by
  rw [State.toHome, takeMsg_undeliverable h]

/-- A lattice message of a class that the event delivers is taken up at its home. -/
theorem toHome_delivers {s : State} {p : Msg} {r : LReq} {pa : Nat} {k : LKind → Bool} (h : s.delivers p)
    (hbody : p.body = .lat r) (hdest : p.dest = .unit pa) (hk : k r.kind = true) (htakes : s.homeTakes r pa = true) :
    s.toHome (s.evArg 0) k = .next ((s.dropMsg (s.evArg 0) p.ctx).homeStep p r pa) := by
  rw [State.toHome, takeMsg_delivers h (fun n hn => by rw [hdest] at hn; cases hn)]
  dsimp only
  rw [hbody, hdest]
  exact if_pos ⟨hk, htakes⟩

theorem landingApply_undeliverable {s : State} (h : s.deliverable (s.evArg 0) = false) : execLandingApply s = .next s := by
  rw [execLandingApply, takeMsg_undeliverable h]

theorem unitAt_dropMsg (s : State) (i ctx pa : Nat) : (s.dropMsg i ctx).unitAt pa = s.unitAt pa := unitAt_congr rfl rfl rfl pa

/-! ## The reply to the one member of a message -/

theorem foldl_raiseConflict_lat (ctx pkg gen : Nat) (l : List (Member × Nat)) (s : State) :
    (l.foldl (fun z c => z.raiseConflict ctx pkg c.1 gen c.2) s).lat = s.lat := by
  induction l generalizing s with
  | nil => rfl
  | cons c l ih => exact ih _

/-- The reply to a verdict: an acknowledgement, or the refusal of its lane (R94, R121). -/
def verdictBody (gop : Nat) (v : Verdict) : Body :=
  match v.fault with
  | none => .ack v.m
  | some f => .refuse v.m (2 ^ v.m.lane) f v.tcode gop v.found

theorem replyAll_thread_net (s : State) (pa ctx gop c k : Nat) (v : Verdict) (hw : v.m.who = .thread c k) :
    (s.replyAll (.ju (paHome pa)) ctx gop 1 [v]).lat.net = replied s s.lat.net pa ctx c (verdictBody gop v) := by
  show (s.replyGroup (.ju (paHome pa)) ctx gop [v]).lat.net = _
  obtain ⟨m, fault, tcode, found⟩ := v
  dsimp only at hw
  unfold State.replyGroup verdictBody
  cases fault with
  | none =>
    dsimp only [List.find?, Option.isSome]
    rw [hw]
    exact replyTo_thread_net s pa ctx c k _ rfl
  | some f =>
    dsimp only [List.find?, Option.isSome]
    rw [hw]
    dsimp only [List.foldl, Option.isSome, Option.getD]
    rw [if_pos rfl, Nat.zero_or]
    exact replyTo_thread_net s pa ctx c k _ rfl

/-- What a thread is told of its read. -/
def answerBody (r : LReq) (m : Member) (found : Nat) (a : Answer) : Body :=
  match a with
  | .park => .ack m
  | .wake o v => .wake m o v
  | .data v => .data m r.part r.len v 0 0
  | .trap x => .data m r.part r.len 0 x found

theorem answerRead_thread_net (s : State) (pa ctx pkg c k : Nat) (r : LReq) (m : Member) (found : Nat) (a : Answer) (ha : a ≠ .park)
    (hw : m.who = .thread c k) :
    (s.answerRead (.ju (paHome pa)) ctx pkg r m found a).lat.net = replied s s.lat.net pa ctx c (answerBody r m found a) := by
  unfold State.answerRead answerBody
  cases a with
  | park => exact absurd rfl ha
  | wake o v =>
    dsimp only
    rw [hw]
    dsimp only
    rw [replyTo_thread_net _ _ _ _ _ _ rfl]
    split
    · exact replied_congr (reports_raise s _ _ _).stopping _ _ _ _ _
    · rfl
  | data v | trap x =>
    dsimp only
    rw [hw]
    exact replyTo_thread_net s pa ctx c k _ rfl

/-! ## An update of one member -/

theorem applyMembers_one (ty sz : Nat) (kind : LKind) (gen : Nat) (m : Member) (u : LUnit) :
    let a := u.apply ty kind gen ((m.pa - u.pa) / cellBytes ty sz) m.v
    applyMembers ty sz kind gen [m] u [] [] =
      (a.u, [{ m := m, fault := a.fault, found := u.gen }], if a.conflict then [(m, u.gen)] else []) := rfl

theorem applyAt_one (s : State) (p : Msg) (r : LReq) (m : Member) (pa c k : Nat) (hm : r.members = [m]) (hw : m.who = .thread c k)
    (hparked : (s.unitAt pa).parked = []) :
    let t := s.applyAt p r pa
    let a := (s.unitAt pa).apply (s.cellType pa).1 r.kind r.gen ((m.pa - pa) / cellBytes (s.cellType pa).1 (s.cellType pa).2) m.v
    t.unitAt pa = a.u ∧ t.mem = s.mem ∧ (∀ q, q ≠ pa → t.unitAt q = s.unitAt q) ∧
    t.lat.net = replied s s.lat.net pa p.ctx c (verdictBody r.gen { m := m, fault := a.fault, found := (s.unitAt pa).gen }) := by
  obtain ⟨s2, hrep, hs2, hsame, hnew⟩ := applyAt_eq s p r pa
  have hone := applyMembers_one (s.cellType pa).1 (s.cellType pa).2 r.kind r.gen m (s.unitAt pa)
  have hkeep := apply_keepsWaiting (s.cellType pa).1 r.kind r.gen ((m.pa - pa) / cellBytes (s.cellType pa).1 (s.cellType pa).2) m.v
    (s.unitAt pa)
  rw [unitAt_pa] at hone
  rw [hm, hone] at hs2 hsame hnew
  rw [hparked] at hnew
  dsimp only at hs2 hsame hnew ⊢
  generalize (s.unitAt pa).apply (s.cellType pa).1 r.kind r.gen _ m.v = a at hs2 hsame hnew hkeep
  have hnet : s2.lat.net = replied s s.lat.net pa p.ctx c
      (verdictBody r.gen { m := m, fault := a.fault, found := (s.unitAt pa).gen }) := by
    have hfold := reports_foldl (fun z (c : Member × Nat) => z.raiseConflict p.ctx (paPkg pa) c.1 r.gen c.2)
      (fun _ _ => reports_raise _ _ _ _) (if a.conflict = true then [(m, (s.unitAt pa).gen)] else []) s
    rw [hs2]
    refine (replyAll_thread_net _ pa p.ctx r.gen c k _ hw).trans ?_
    rw [foldl_raiseConflict_lat]
    exact replied_congr hfold.stopping _ _ _ _ _
  by_cases heq : a.u = s.unitAt pa
  · rw [hsame heq]
    exact ⟨(hrep.unitAt pa).trans heq.symm, hrep.mem, fun q _ => hrep.unitAt q, hnet⟩
  · have hput := hnew heq
    obtain ⟨_, _, hwrote⟩ := wrote_eq s2 pa (unitBytes (s.cellType pa).1 (s.cellType pa).2)
    have hnone : ({ a.u with parked := [] } : LUnit) = a.u := by
      rw [← hparked, ← hkeep.parked]
    have hpa : a.u.pa = pa := hkeep.pa.trans (unitAt_pa s pa)
    dsimp only [State.reevaluate] at hput
    rw [hnone, hwrote] at hput
    rw [hput]
    refine ⟨unitAt_putUnit_same hpa, hrep.mem, fun q hq => ?_, hnet⟩
    rw [unitAt_putUnit_ne (by rwa [hpa])]
    exact (unitAt_congr (s := s2) rfl rfl rfl q).trans (hrep.unitAt q)

theorem homeStep_update (s : State) (p : Msg) (r : LReq) (pa : Nat) (hheld : (s.unitAt pa).held = [])
    (hlost : s.isLost pa (unitBytes (s.cellType pa).1 (s.cellType pa).2) = false)
    (hk : r.kind.isUpdate = true ∨ r.kind = .freeze) (hadv : r.advances (s.unitAt pa) = true → s.replicasOf pa = []) :
    s.homeStep p r pa = s.applyAt p r pa := by
  have hupd : (r.kind.isUpdate || r.kind == .freeze) = true := by
    rcases hk with h | h
    · rw [h, Bool.true_or]
    · rw [h]; rfl
  have hreplica : ¬ s.atReplica r (s.unitAt pa) pa = true := by
    rw [State.atReplica, bne, ← Bool.not_or, hupd]
    simp only [Bool.not_true, Bool.false_and, Bool.false_eq_true, not_false_eq_true]
  rw [homeStep_eq s p r pa hheld hadv, if_neg (by rw [hlost]; exact Bool.false_ne_true), if_neg hreplica, if_pos hupd]

/-! ## A read of one member -/

theorem homeStep_read (s : State) (p : Msg) (r : LReq) (pa : Nat) (hheld : (s.unitAt pa).held = [])
    (hlost : s.isLost pa (unitBytes (s.cellType pa).1 (s.cellType pa).2) = false)
    (hu : r.kind.isUpdate = false) (hf : r.kind ≠ .freeze) : s.homeStep p r pa = s.readAt p r pa := by
  have hadv : r.advances (s.unitAt pa) = true → s.replicasOf pa = [] := by
    intro h
    rw [LReq.advances, hu, Bool.false_and] at h
    exact absurd h Bool.false_ne_true
  have hnot : ¬ (r.kind.isUpdate || r.kind == .freeze) = true := by
    rw [hu, Bool.false_or, beq_iff_eq]
    exact hf
  rw [homeStep_eq s p r pa hheld hadv, if_neg (by rw [hlost]; exact Bool.false_ne_true), if_neg hnot, ite_self]

/-- An answer that hands out no bytes of a frozen unit leaves memory, and so does one whose line the cache has room for. -/
theorem answerHome_mem (s : State) (ctx ty sz : Nat) (r : LReq) (m : Member) (u : LUnit) (a : Answer) (c k : Nat)
    (hw : m.who = .thread c k) (h : (∀ v, a ≠ .data v) ∨ cached s (physCluster (s.physOf c)) < cacheLines) :
    (s.answerHome ctx ty sz r m u a).mem = s.mem := by
  have hrep := reports_answerRead s (.ju (paHome u.pa)) ctx (paPkg u.pa) r m u.gen a
  cases a with
  | data v =>
    have hroom := h.resolve_left (fun hne => hne v rfl)
    rw [← hrep.cached, ← hrep.physOf] at hroom
    show ((s.answerRead _ ctx _ r m u.gen (.data v)).cacheCopy m.who _ _ _).mem = s.mem
    rw [hw]
    exact (cacheCopy_room _ c k _ _ _ hroom).1.trans hrep.mem
  | park | wake _ _ | trap _ => exact hrep.mem

/-- A read of a thread at its home, by what the unit answers. -/
theorem readAt_one (s : State) (p : Msg) (r : LReq) (m : Member) (pa c k : Nat) (hm : r.members = [m]) (hw : m.who = .thread c k)
    (a : Answer) (ha : (s.unitAt pa).answer (s.cellType pa).1 (s.cellType pa).2 r m.pa = a) :
    let t := s.readAt p r pa
    (((∀ v, a ≠ .data v) ∨ cached s (physCluster (s.physOf c)) < cacheLines) → t.mem = s.mem) ∧
    (a = .park → Parks p r pa s t) ∧
    (a ≠ .park → t.lat.net = replied s s.lat.net pa p.ctx c (answerBody r m (s.unitAt pa).gen a)) ∧
    ((∀ v, a ≠ .data v) → a ≠ .park → t.unitAt pa = s.unitAt pa) := by
  obtain ⟨hpark, hanswer⟩ := readAt_cases s p r m [] pa hm
  by_cases hne : a = .park
  · have hparks := parkReader_parks s p r pa
    rw [← hpark (ha.trans hne)] at hparks
    exact ⟨fun _ => hparks.mem, fun _ => hparks, fun h => absurd hne h, fun _ h => absurd hne h⟩
  · have hserve := answerHome_serves s p.ctx (s.cellType pa).1 (s.cellType pa).2 r m (s.unitAt pa) a
    have hmem := answerHome_mem s p.ctx (s.cellType pa).1 (s.cellType pa).2 r m (s.unitAt pa) a c k hw
    have hnet := answerHome_net s p.ctx (s.cellType pa).1 (s.cellType pa).2 r m (s.unitAt pa) a
    rw [unitAt_pa, answerRead_thread_net s pa p.ctx _ c k r m _ a hne hw] at hnet
    rw [← hanswer a hne ha] at hserve hmem hnet
    exact ⟨hmem, fun h => absurd h hne, fun _ => hnet, fun hd _ => unitAt_congr hserve.units hserve.frames (hmem (.inl hd)) pa⟩

/-- A threshold read hands out no bytes of a frozen unit. -/
theorem evaluate_ne_data (ty sz : Nat) (r : LReq) (idx : Nat) (u : LUnit) (v : Nat) : u.evaluate ty sz r idx ≠ .data v := by
  unfold LUnit.evaluate
  dsimp only
  cases firstPassed ty (nth u.cells idx) (u.filled.getD idx false) r.cand r.trigs with
  | none => split_ifs <;> exact Answer.noConfusion
  | some i => split_ifs <;> exact Answer.noConfusion

/-! ## Eddies (R96, R97) -/

theorem eddyMerge_answers (s : State) {p q : Msg} {a b : LReq} (h : s.canMerge (s.evArg 0) (s.evArg 1) = true)
    (hp : s.lat.net[s.evArg 0]? = some p) (hq : s.lat.net[s.evArg 1]? = some q) (ha : p.body = .lat a) (hb : q.body = .lat b) :
    Answers (exec .eddyMerge s) fun t =>
      t.lat.net = (s.lat.net.set (s.evArg 0) { p with body := .lat { a with members := a.members ++ b.members } }).eraseIdx
        (s.evArg 1) ∧ SameMem s t := by
  have hexec : exec .eddyMerge s = .next (({ s with lat := { s.lat with
      net := (s.lat.net.set (s.evArg 0) { p with body := .lat { a with members := a.members ++ b.members } }).eraseIdx
        (s.evArg 1) } } : State).gotMsg q.ctx) := by
    show execEddyMerge s = _
    unfold execEddyMerge
    dsimp only
    rw [if_pos h, hp, hq]
    dsimp only
    rw [ha, hb]
  exact ⟨_, hexec, rfl, fun _ => rfl⟩

/-! ## Harts by their names -/

theorem hart?_thread_id {s : State} {c k : Nat} {h : Hart} (hh : s.hart? (.thread c k) = some h) : h.id = .thread c k := by
  unfold State.hart? at hh
  split at hh
  · next hid => rw [← Option.some.inj hh, hid]
  · cases hfind : s.harts.find? (fun g => g.id == .thread c k) with
    | none =>
      rw [hfind] at hh
      cases hh
    | some g =>
      have hid := List.find?_some hfind
      rw [hfind] at hh
      rw [← Option.some.inj hh]
      exact eq_of_beq hid

theorem hart?_thread_memWf {s : State} (w : Canonical s) {c k : Nat} {h : Hart} (hh : s.hart? (.thread c k) = some h) :
    h.memWf = true := by
  unfold State.hart? at hh
  split at hh
  · rw [← Option.some.inj hh]
    exact w.h
  · cases hfind : s.harts.find? (fun g => g.id == .thread c k) with
    | none =>
      rw [hfind] at hh
      cases hh
    | some g =>
      rw [hfind] at hh
      rw [← Option.some.inj hh]
      exact w.harts g (List.mem_of_find?_eq_some hfind)

theorem view_wf {h : Hart} (w : h.memWf = true) (buf : Nat) : Mem.wf (h.t.scr.view buf) = true := by
  rw [Hart.memWf, Bool.and_eq_true, Bool.and_eq_true, Bool.and_eq_true, Bool.and_eq_true] at w
  obtain ⟨⟨⟨-, hw⟩, ha⟩, hc⟩ := w
  unfold Scratch.view
  split
  · exact hw
  · exact ha
  · exact hc

/-- A hart that has been put back is found under its name. -/
theorem hart?_putHart (s : State) (h : Hart) : (s.putHart h).hart? h.id = some h := by
  unfold State.putHart
  by_cases hid : s.h.id = h.id
  · rw [if_pos hid]
    exact if_pos rfl
  · have hfind := find?_put Hart.id h s.harts h.id
    rw [if_pos rfl] at hfind
    rw [if_neg hid]
    by_cases hany : s.harts.any (fun g => g.id == h.id) = true
    · rw [if_pos hany] at hfind ⊢
      unfold State.hart?
      rw [if_neg hid, hfind]
    · rw [if_neg hany] at hfind ⊢
      unfold State.hart?
      rw [if_neg hid, hfind]

theorem hart?_updHart {s : State} {id : HartId} {h : Hart} (f : Hart → Hart) (hh : s.hart? id = some h) (hid : (f h).id = id) :
    (s.updHart id f).hart? id = some (f h) := by
  unfold State.updHart
  rw [hh]
  dsimp only
  rw [← hid]
  exact hart?_putHart s (f h)

theorem updHart_mem (s : State) (id : HartId) (f : Hart → Hart) : (s.updHart id f).mem = s.mem := by
  unfold State.updHart
  split
  · rfl
  · unfold State.putHart
    split
    · rfl
    · split <;> rfl

/-! ## Landing regions (R57 to R59) -/

theorem landAt_buf {l : List Win} {buf off : Nat} {w : Win} (h : landAt l buf off = some w) : w.buf = buf := by
  have hin := List.find?_some h
  rw [Bool.and_eq_true, Bool.and_eq_true, Bool.and_eq_true, beq_iff_eq] at hin
  exact hin.1.1.2

/-- The region that an operation reaches at a live member lies in the view it names, whose bytes it has. -/
theorem landOf_eq {h : Hart} {buf off : Nat} {l : Land} (hl : h.landOf buf off = some l) :
    l.w.buf = buf ∧ l.view = h.t.scr.view buf := by
  obtain ⟨w, hw, rfl⟩ := Option.map_eq_some_iff.mp hl
  exact ⟨landAt_buf hw, rfl⟩

theorem view_setView (c : Scratch) (buf : Nat) (m : List Host.Cell) : (c.setView buf m).view buf = m := by
  match buf with
  | 0 => rfl
  | 1 => rfl
  | _ + 2 => rfl

theorem putLand_view (h : Hart) (l : Land) : (h.putLand l).t.scr.view l.w.buf = l.view :=
  view_setView h.t.scr l.w.buf l.view

/-- A FILL of an empty tile of a growing region writes the tile (Table 2.8). -/
theorem fill_empty {l : Land} {r : LReq} {off v : Nat} (hsz : r.sz = l.w.tsize) (htile : (off - l.w.base) % l.w.tile = 0)
    (hgen : genDist r.gen l.w.lgen = 0) (hs : l.w.lstate = .growing)
    (hf : l.w.filled.getD ((off - l.w.base) / l.w.tile) false = false) :
    l.fill r off v =
      { l := { w := { l.w with filled := l.w.filled.set ((off - l.w.base) / l.w.tile) true }
               view := Mem.writeN l.view off l.w.tile v } } := by
  unfold Land.fill
  dsimp only
  rw [if_neg (by rw [not_or, not_not, not_not]; exact ⟨hsz, htile⟩), if_neg (by omega), if_neg (by omega), hs, hf]
  exact if_neg Bool.false_ne_true

/-- What evaluating the readers of a region leaves: the harts and memory. -/
theorem reevalLand_harts (src : Who) (pkg gang rank : Nat) (l : Land) (ps keep : List Msg) (s : State) :
    (∀ id, (s.reevalLand src pkg gang rank l ps keep).hart? id = s.hart? id) ∧
    (s.reevalLand src pkg gang rank l ps keep).mem = s.mem := by
  induction ps generalizing s keep with
  | nil => exact ⟨fun _ => rfl, rfl⟩
  | cons p ps ih =>
    unfold State.reevalLand
    split
    · split
      · split
        · exact ih _ s
        · exact ⟨fun id => ((ih _ _).1 id).trans ((reports_answerLand s _ _ _ _ _ _ _).hart? id),
            (ih _ _).2.trans (reports_answerLand s _ _ _ _ _ _ _).mem⟩
        · exact ih _ s
      · exact ih _ s
    · exact ih _ s

/-- A FILL of one cell that a member's region takes leaves the region as the FILL gives, in the member's view, and memory. -/
theorem judgeLand_fill {s : State} {p : Msg} {r : LReq} {m : Member} {d : ToMember} {l l' : Land} {h : Hart} {c k : Nat}
    (src : Who) (pkg : Nat) (armed : Bool) (hm : r.members = [m]) (hk : r.kind = .fill) (hh : s.hart? (.thread c k) = some h)
    (hfill : l.fill r d.off m.v = { l := l' }) (hbuf : l'.w.buf = l.w.buf) (hview : l.view = h.t.scr.view l.w.buf) :
    let t := s.judgeLand src pkg p r d l armed true (fun l t => t.updHart (.thread c k) (fun g => g.putLand l))
    t.mem = s.mem ∧ ∃ f, t.hart? (.thread c k) = some f ∧ f.t.scr.view l.w.buf = l'.view := by
  intro t
  have hall (owner : Member → Bool) : (l.applyAll r d.off owner armed).1 = { l := l' } := by
    unfold Land.applyAll Land.apply
    rw [hm, hk]
    exact hfill
  obtain ⟨s2, hrep, hsame, hput⟩ : ∃ s2, Reports s s2 ∧ (l' = l → t = s2) ∧
      (l' ≠ l → t = (s2.updHart (.thread c k) (fun g => g.putLand l')).reevalLand src pkg d.gang d.rank l'
        s2.lat.landParked []) := by
    refine ⟨_, reports_replyAll s src p.ctx r.gen r.members.length
      (l.applyAll r d.off (fun x => true && s.rankOf x.who == some (d.gang, d.rank)) armed).2, fun he => ?_, fun he => ?_⟩
    all_goals
      show s.judgeLand _ _ _ _ _ _ _ _ _ = _
      unfold State.judgeLand
      rw [hm]
      dsimp only
      rw [hk, hall]
    · exact if_pos he
    · exact if_neg he
  have hid : h.id = .thread c k := hart?_thread_id hh
  have hh2 : s2.hart? (.thread c k) = some h := (hrep.hart? _).trans hh
  by_cases he : l' = l
  · rw [hsame he]
    exact ⟨hrep.mem, h, hh2, by rw [← hview, he]⟩
  · obtain ⟨hharts, hmem⟩ := reevalLand_harts src pkg d.gang d.rank l' s2.lat.landParked []
      (s2.updHart (.thread c k) (fun g => g.putLand l'))
    rw [hput he]
    refine ⟨hmem.trans ((updHart_mem s2 _ _).trans hrep.mem), h.putLand l', ?_, ?_⟩
    · rw [hharts]
      exact hart?_updHart (fun g => g.putLand l') hh2 hid
    · rw [← hbuf]
      exact putLand_view h l'

theorem landStep_live {s : State} {p : Msg} {r : LReq} {d : ToMember} {c k : Nat} {h : Hart} {l : Land}
    (hpast : s.past? d.gang d.rank = none) (hmem : s.memberAt d.gang d.rank = some (c, k))
    (hh : s.hart? (.thread c k) = some h) (hl : h.landOf d.buf d.off = some l) :
    s.landStep p r d = s.judgeLand (.core c) (physPkg (s.physOf c)) p r d l (h.t.scr.onArmed l.w.buf l.w.base l.w.len) true
      (fun l t => t.updHart (.thread c k) (fun g => g.putLand l)) := by
  unfold State.landStep
  rw [hpast]
  dsimp only
  rw [hmem]
  dsimp only
  rw [hh]
  dsimp only
  rw [hl]

theorem landingApply_delivers {s : State} {p : Msg} {r : LReq} {g rank b o : Nat} (h : s.delivers p) (hbody : p.body = .lat r)
    (hdest : p.dest = .member g rank b o) :
    execLandingApply s = .next ((s.dropMsg (s.evArg 0) p.ctx).landStep p r { gang := g, rank := rank, buf := b, off := o }) := by
  rw [execLandingApply, takeMsg_delivers h (fun n hn => by rw [hdest] at hn; cases hn)]
  dsimp only
  rw [hbody, hdest]

/-- A FILL that reaches a growing landing region fills one empty tile. -/
theorem landingApply_fill {s : State} {p : Msg} {r : LReq} {m : Member} {g rank b o c k : Nat} {h : Hart} {l : Land}
    (hc : Canonical s) (hdel : s.delivers p) (hbody : p.body = .lat r) (hdest : p.dest = .member g rank b o)
    (hm : r.members = [m]) (hpast : s.past? g rank = none) (hmem : s.memberAt g rank = some (c, k))
    (hh : s.hart? (.thread c k) = some h) (hl : h.landOf b o = some l) (hk : r.kind = .fill) (hgen : r.gen = l.w.lgen)
    (hlt : l.w.lgen < 65536) (hs : l.w.lstate = .growing) (hsz : r.sz = l.w.tsize) (htile : (o - l.w.base) % l.w.tile = 0)
    (hf : l.w.filled.getD ((o - l.w.base) / l.w.tile) false = false) :
    Answers (execLandingApply s) fun t => SameMem s t ∧ ∃ f, t.hart? (.thread c k) = some f ∧
      Mem.readN (f.t.scr.view b) o l.w.tile = m.v % 2 ^ (8 * l.w.tile) ∧
      SameOutside (h.t.scr.view b) (f.t.scr.view b) o l.w.tile := by
  obtain ⟨hbuf, hview⟩ := landOf_eq hl
  have hwf : Mem.wf l.view = true := by
    rw [hview]
    exact view_wf (hart?_thread_memWf hc hh) b
  have hdist : genDist r.gen l.w.lgen = 0 := by
    rw [genDist, hgen, Nat.mod_eq_of_lt hlt, Nat.add_sub_cancel_left, Nat.mod_self]
  obtain ⟨hsame, f, hfind, hnew⟩ := judgeLand_fill (s := s.dropMsg (s.evArg 0) p.ctx) (p := p)
    (d := { gang := g, rank := rank, buf := b, off := o }) (h := h) (c := c) (k := k) (.core c) (physPkg (s.physOf c))
    (h.t.scr.onArmed l.w.buf l.w.base l.w.len) hm hk hh (fill_empty hsz htile hdist hs hf) rfl
    (by rw [hview, hbuf])
  rw [hbuf] at hnew
  refine ⟨_, (landingApply_delivers hdel hbody hdest).trans (congrArg Host.Outcome.next (landStep_live hpast hmem hh hl)),
    fun a => ?_, f, hfind, ?_, fun a ha => ?_⟩
  · show Mem.read (State.judgeLand _ _ _ _ _ _ _ _ _ _).mem a = _
    exact congrArg (Mem.read · a) hsame
  · rw [hnew, Mem.readN_writeN hwf, Nat.pow_mul]
  · rw [hnew, ← hview]
    exact Mem.read_writeN_out hwf _ _ _ ha

/-! ## What O44 says, put together -/

/-- An update or a FREEZE of one member that its home takes up. -/
theorem apply_answers {s : State} {p : Msg} {r : LReq} {m : Member} {pa c k : Nat} (hdel : s.delivers p) (hbody : p.body = .lat r)
    (hdest : p.dest = .unit pa) (hm : r.members = [m]) (hw : m.who = .thread c k) (hheld : (s.unitAt pa).held = [])
    (htakes : s.homeTakes r pa = true) (hlost : s.isLost pa (unitBytes (s.cellType pa).1 (s.cellType pa).2) = false)
    (hk : r.kind.isUpdate = true ∨ r.kind = .freeze) (hparked : (s.unitAt pa).parked = [])
    (hadv : r.advances (s.unitAt pa) = true → s.replicasOf pa = []) :
    Answers (s.toHome (s.evArg 0) fun k => k.isUpdate || k == .freeze) fun t =>
      let a := (s.unitAt pa).apply (s.cellType pa).1 r.kind r.gen ((m.pa - pa) / cellBytes (s.cellType pa).1 (s.cellType pa).2) m.v
      t.unitAt pa = a.u ∧ SameMem s t ∧ (∀ q, q ≠ pa → t.unitAt q = s.unitAt q) ∧
      t.lat.net = replied s (s.lat.net.eraseIdx (s.evArg 0)) pa p.ctx c
        (verdictBody r.gen { m := m, fault := a.fault, found := (s.unitAt pa).gen }) := by
  have hsel : (r.kind.isUpdate || r.kind == .freeze) = true := by
    rcases hk with h | h
    · rw [h, Bool.true_or]
    · rw [h]; rfl
  have hunit := unitAt_dropMsg s (s.evArg 0) p.ctx
  obtain ⟨hu, hmem, hother, hnet⟩ := applyAt_one (s.dropMsg (s.evArg 0) p.ctx) p r m pa c k hm hw (by rwa [hunit])
  have hstep := homeStep_update (s.dropMsg (s.evArg 0) p.ctx) p r pa (by rwa [hunit]) hlost hk (by rwa [hunit])
  rw [← hstep] at hu hmem hother hnet
  rw [hunit] at hu hnet
  exact ⟨_, toHome_delivers (k := fun k => k.isUpdate || k == .freeze) hdel hbody hdest hsel htakes, hu,
    fun a => congrArg (Mem.read · a) hmem, fun q hq => (hother q hq).trans (hunit q), hnet⟩

/-- A read of one member that its home takes up: the answer of the unit decides. -/
theorem read_answers {s : State} {p : Msg} {r : LReq} {m : Member} {pa c k : Nat} {f : LKind → Bool} (hdel : s.delivers p)
    (hbody : p.body = .lat r) (hdest : p.dest = .unit pa) (hm : r.members = [m]) (hw : m.who = .thread c k)
    (hheld : (s.unitAt pa).held = []) (htakes : s.homeTakes r pa = true)
    (hlost : s.isLost pa (unitBytes (s.cellType pa).1 (s.cellType pa).2) = false)
    (hf : f r.kind = true) (hu : r.kind.isUpdate = false) (hfr : r.kind ≠ .freeze) (a : Answer)
    (ha : (s.unitAt pa).answer (s.cellType pa).1 (s.cellType pa).2 r m.pa = a) :
    Answers (s.toHome (s.evArg 0) f) fun t =>
      (((∀ v, a ≠ .data v) ∨ cached s (physCluster (s.physOf c)) < cacheLines) → SameMem s t) ∧
      (a = .park → Parks p r pa (s.dropMsg (s.evArg 0) p.ctx) t) ∧
      (a ≠ .park → t.lat.net = replied s (s.lat.net.eraseIdx (s.evArg 0)) pa p.ctx c (answerBody r m (s.unitAt pa).gen a)) ∧
      ((∀ v, a ≠ .data v) → a ≠ .park → t.unitAt pa = s.unitAt pa) := by
  have hunit := unitAt_dropMsg s (s.evArg 0) p.ctx pa
  obtain ⟨hmem, hpark, hnet, hsame⟩ := readAt_one (s.dropMsg (s.evArg 0) p.ctx) p r m pa c k hm hw a (by rw [hunit]; exact ha)
  have hstep := homeStep_read (s.dropMsg (s.evArg 0) p.ctx) p r pa (by rwa [hunit]) hlost hu hfr
  rw [← hstep] at hmem hpark hnet hsame
  rw [hunit] at hnet hsame
  exact ⟨_, toHome_delivers hdel hbody hdest hf htakes, fun h a => congrArg (Mem.read · a) (hmem h), hpark, hnet, hsame⟩

theorem exec_apply (s : State) : exec .apply s = s.toHome (s.evArg 0) (fun k => k.isUpdate || k == .freeze) := rfl
theorem exec_evaluate (s : State) : exec .evaluate s = s.toHome (s.evArg 0) (fun k => k == .thr || k == .thrF) := rfl
theorem exec_frozenReadEvaluate (s : State) : exec .frozenReadEvaluate s = s.toHome (s.evArg 0) (fun k => k == .frd) := rfl
theorem exec_landingApply (s : State) : exec .landingApply s = execLandingApply s := rfl

theorem answer_threshold (ty sz : Nat) (r : LReq) (pa : Nat) (u : LUnit) (h : r.kind ≠ .frd) :
    u.answer ty sz r pa = u.evaluate ty sz r ((pa - u.pa) / cellBytes ty sz) := by
  unfold LUnit.answer
  split
  · next hk => exact absurd hk h
  · rfl

theorem answer_frozen (ty sz : Nat) (r : LReq) (pa : Nat) (u : LUnit) (h : r.kind = .frd) :
    u.answer ty sz r pa = u.readFrozen ty sz r.gen (pa - u.pa) r.len := by
  rw [LUnit.answer, h]

/-- Settles O44: each message is taken out of the network and goes through its home's step; a home's step reports, keeps cached
copies, and puts its own unit back. -/
theorem homesTakeUpMessages : Obligations.HomesTakeUpMessages := by
  unfold Obligations.HomesTakeUpMessages
  intro s
  rw [exec_apply, exec_evaluate, exec_frozenReadEvaluate, exec_landingApply]
  refine ⟨fun hd => ⟨toHome_undeliverable _ hd, toHome_undeliverable _ hd, toHome_undeliverable _ hd,
    landingApply_undeliverable hd⟩,
    ?_, fun p q a b h hp hq ha hb => eddyMerge_answers s h hp hq ha hb, invalidationComplete_answers s _ rfl, ?_⟩
  · intro p r m pa c k hdel hbody hdest hm hw u ty sz rest reply parks hheld htakes hlost
    have hparks {t : State} (h : Parks p r pa (s.dropMsg (s.evArg 0) p.ctx) t) : parks t := by
      have hunit := h.unit
      rw [unitAt_dropMsg] at hunit
      exact ⟨h.net, h.arrivals, hunit⟩
    refine ⟨fun hk hparked hadv => ?_, fun hk => ?_, fun hk => ?_⟩
    · obtain ⟨t, ht, hu, hmem, hother, hnet⟩ := apply_answers hdel hbody hdest hm hw hheld htakes hlost hk hparked hadv
      refine ⟨t, ht, hu, hmem, hother, hnet.trans ?_⟩
      unfold verdictBody
      rfl
    · have hread : r.kind.isUpdate = false ∧ r.kind ≠ .freeze ∧ r.kind ≠ .frd ∧
          (r.kind == .thr || r.kind == .thrF) = true := by
        rcases hk with h | h <;> rw [h] <;> decide
      obtain ⟨hupd, hfreeze, hfrd, hclass⟩ := hread
      have ha : u.answer ty sz r m.pa = u.evaluate ty sz r ((m.pa - pa) / cellBytes ty sz) := by
        rw [answer_threshold _ _ _ _ _ hfrd, show u.pa = pa from unitAt_pa s pa]
      obtain ⟨t, ht, hmem, hpark, hnet, hunit⟩ := read_answers (f := fun k => k == .thr || k == .thrF) hdel hbody hdest hm hw hheld
        htakes hlost hclass hupd hfreeze _ ha
      have hdata := evaluate_ne_data ty sz r ((m.pa - pa) / cellBytes ty sz) u
      refine ⟨t, ht, hmem (.inl hdata), fun h => hparks (hpark h), fun o v h => ?_⟩
      rw [h] at hnet hunit
      exact ⟨hunit (fun _ => Answer.noConfusion) Answer.noConfusion, hnet Answer.noConfusion⟩
    · have ha : u.answer ty sz r m.pa = u.readFrozen ty sz r.gen (m.pa - pa) r.len := by
        rw [answer_frozen _ _ _ _ _ hk, show u.pa = pa from unitAt_pa s pa]
      obtain ⟨t, ht, hmem, hpark, hnet, -⟩ := read_answers (f := fun k => k == .frd) hdel hbody hdest hm hw hheld
        htakes hlost (by rw [hk]; rfl) (by rw [hk]; rfl) (by rw [hk]; decide) _ ha
      refine ⟨t, ht, fun h => hmem (.inr h), fun h => hparks (hpark h), fun v h => ?_, fun x h => ?_⟩
      · rw [h] at hnet
        exact hnet Answer.noConfusion
      · rw [h] at hnet
        exact hnet Answer.noConfusion
  · intro p r m g rank b o c k h l hc hdel hbody hdest hm hpast hmem hh hl hk hgen hlt hs hsz htile hf
    exact landingApply_fill hc hdel hbody hdest hm hpast hmem hh hl hk hgen hlt hs hsz htile hf

end Sys2Proof.LatticeCells
end

section
/-! PROOFS. Bank units, and the end of a bank call whose thread has gone (R20, R103, R105, R204): O49. -/

namespace Sys2Proof.BankUnits

open Sys2Proof Sys2Proof.Machine

/-- BUSEG ends the late unit of a bank unit (R103). -/
theorem buseg_late {s : State} {u : BqUnit} (hcur : (s.bank (s.evArg 0)).cur = some u) (hlate : (s.bank (s.evArg 0)).late = true) :
    exec .buseg s =
      .next (({ s := s, bu := s.evArg 0, b := { s.bank (s.evArg 0) with cur := none }, u := u } : BuRun).close u true) := by
  show execBuseg s = _
  unfold execBuseg
  dsimp only
  rw [hcur]
  exact if_pos hlate

/-! ## A detached bank call whose thread has exited -/

/-- The PRIV region of the context: one page, whose rows the call fills. -/
def rowRegion : Region :=
  { base := 0x100000, len := 0x1000, psize := 0, kind := 1, ctype := 0, csize := 0, pol := 0, win := 0, key := 0, gen := 0 }

/-- A bank call of one row by a thread of task 7, detached with its redirect entry free (R204, R205). -/
def detachedCall : Op :=
  { core := 1, slot := 5, gen := 0, thread := 0, task := 7, ctx := 1, kind := 4, prio := 0, order := 1, hold := 3, st := .running
    arrived := true, begun := true, cell := some (0x200000, 0x10000, 0)
    work := .bankcall 5 0 [1] [(1, 0x100000, 0, 1024, [0x8000])] }

/-- The row of the call, as its bank unit has it. -/
def detachedRow : BqUnit :=
  { first := true, entry := 5, prio := 0, ch := 0, bank := 0, call := 0, row := 0, ag := [0x8000, 0, 0, 0], args := [1], lc0 := 16
    lc1 := 0, gens := [none], op := some (1, 5, 0) }

/-- A bank unit that has run the row for 193 cycles from an ACT. -/
def lateUnit : BankUnit := { cur := some detachedRow, phase := .unit, since := some 193 }

/-- Task 7 has exited. It owns the page at 0x100000, whose leaf stands at 0x7000, in the last of four tables; of its operations only
the detached call, late on bank unit 0, has not ended. -/
def leftBehind : State where
  ev := [0]
  mem := [(0, 3), (1, 0x20), (0x2000, 3), (0x2001, 0x40), (0x4000, 3), (0x4001, 0x60), (0x7000, 0x21), (0x7001, 0x80), (0x700C, 7)]
  lat := { frames := [{ pa := 0x8000, size := 0x1000, ctx := 1, va := 0x100000, kind := 1 }], roots := [(1, 0, 3)] }
  work := {
    ctxs := [{ handle := 1, prio := 0, key := 0, dbg := false, hgrp := 0, pkgs := [0], regions := [rowRegion] }]
    tasks := [{ num := 7, ctx := 1, name := 0, words := [], st := .exited }]
    ops := [detachedCall] }
  dev := { banks := [(0, lateUnit)] }

theorem leftBehind_canonical : Canonical leftBehind where
  mem := by decide
  host := by decide
  h := by decide
  harts _ hh := absurd hh List.not_mem_nil
  past _ hg := absurd hg List.not_mem_nil

/-- The leaf of the task's page is not marked retired while the call runs. -/
theorem leaf_before : Mem.read leftBehind.mem 0x7000 = 0x21 := by decide

/-- The end of the call is that of the task's last operation, and marks the leaf of its page retired (R20, Table 1.5). -/
theorem leaf_after : Mem.read
    (({ s := leftBehind, bu := 0, b := { lateUnit with cur := none }, u := detachedRow } : BuRun).close detachedRow true).mem 0x7000
      = 0x25 := by
  decide +kernel

/-- Refutes O49: BUSEG, which is to change no byte of memory, ends a detached bank call as failed; when its task has exited and the
call was its last operation, the task's pages retire with it (R20), which is written into their leaves in the page tables. -/
theorem not_bankUnitsRunRowsAndYield : ¬ Obligations.BankUnitsRunRowsAndYield := by
  unfold Obligations.BankUnitsRunRowsAndYield
  intro h
  obtain ⟨-, -, hbuseg, -⟩ := h leftBehind leftBehind_canonical
  have hcall (o : Op) (ho : leftBehind.unitOp detachedRow = some o) : o = detachedCall := Option.some.inj ho.symm
  obtain ⟨t, ht, hmem, -⟩ := hbuseg detachedRow rfl rfl
    (fun x hx => by
      obtain rfl := List.mem_singleton.mp hx
      rfl)
    (fun o ho => by
      rw [hcall o ho]
      exact ⟨rfl, rfl, rfl⟩)
    (fun _ => rfl)
  rw [buseg_late (s := leftBehind) rfl rfl] at ht
  obtain rfl := Host.Outcome.next.inj ht
  have hleaf := (leaf_after.symm.trans (hmem 0x7000)).trans leaf_before
  exact absurd hleaf (by decide)

end Sys2Proof.BankUnits
end

section
/-! PROOFS. Replies to threads, repairs and forwarding (R31, R33, R94, R119 to R124, R384): O45. -/

namespace Sys2Proof.ThreadReplies

open Sys2Proof Sys2Proof.Machine Sys2Proof.LatticeCells

/-! ## The arrival of a message -/

/-- The state in which the message that an event names is out of the network and counts as received (R186). -/
def arrived (s : State) (p : Msg) : State :=
  ({ s with lat := { s.lat with net := s.lat.net.eraseIdx (s.evArg 0) } } : State).taken p

/-- The step of an event that delivers a message: what its taker makes of it, or nothing where it is not taken. -/
theorem deliver_eq {s : State} {p : Msg} (h : s.delivers p) (k : Msg → State → Option State) :
    s.deliver (s.evArg 0) k = .next ((k p (arrived s p)).getD s) := by
  obtain ⟨hdel, hnet, hdisc⟩ := h
  unfold State.deliver State.takeMsg
  rw [if_pos hdel, hnet]
  dsimp only [Option.map]
  rw [if_neg (by rw [hdisc]; exact Bool.false_ne_true)]
  rfl

section
variable (s : State) (p : Msg)

theorem arrived_net : (arrived s p).lat.net = s.lat.net.eraseIdx (s.evArg 0) := by
  unfold arrived State.taken
  split <;> rfl

theorem arrived_mem : (arrived s p).mem = s.mem := by
  unfold arrived State.taken
  split <;> rfl

theorem arrived_hart? (id : HartId) : (arrived s p).hart? id = s.hart? id := by
  unfold arrived State.taken
  split <;> rfl

theorem arrived_faultsAt (n : Nat) : (arrived s p).faultsAt n = s.faultsAt n := by
  unfold arrived State.taken
  split <;> rfl

theorem arrived_walk (ctx va : Nat) : (arrived s p).walk ctx va = s.walk ctx va := by
  unfold arrived State.taken
  split <;> rfl

end

/-- The regions of a context are those of the same context before a rill core served it (R424). -/
theorem regionOf_servedBy (s : State) (ctx node c va : Nat) : (s.servedBy ctx node).regionOf c va = s.regionOf c va := by
  have hctx : (s.servedBy ctx node).ctx? c = (s.ctx? c).map (fun x =>
      if x.handle == ctx then (if x.served.contains node then x else { x with served := node :: x.served }) else x) :=
    find?_updWhere _ _ _ _ (fun x _ => by split <;> rfl)
  unfold State.regionOf
  rw [hctx]
  cases s.ctx? c with
  | none => rfl
  | some x =>
    have hregions : (if x.handle == ctx then (if x.served.contains node then x else { x with served := node :: x.served })
        else x).regions = x.regions := by
      split_ifs <;> rfl
    dsimp only [Option.map]
    rw [hregions]

theorem arrived_regionOf (s : State) (p : Msg) (c va : Nat) : (arrived s p).regionOf c va = s.regionOf c va := by
  unfold arrived State.taken
  split
  · exact regionOf_servedBy _ _ _ _ _
  · rfl

theorem arrived_isStopping (s : State) (p : Msg) (c : Nat) : (arrived s p).isStopping c = s.isStopping c := by
  unfold arrived State.taken
  split
  · exact isStopping_updCtx _ _ _ (fun x => by split <;> rfl) (fun x => by split <;> rfl) c
  · rfl

/-! ## Harts that an answer changes -/

theorem putHart_lat (s : State) (h : Hart) : (s.putHart h).lat = s.lat := by
  unfold State.putHart
  split
  · rfl
  · split <;> rfl

theorem putHart_mem (s : State) (h : Hart) : (s.putHart h).mem = s.mem := by
  unfold State.putHart
  split
  · rfl
  · split <;> rfl

theorem updHart_eq {s : State} {id : HartId} {h : Hart} (hh : s.hart? id = some h) (f : Hart → Hart) :
    s.updHart id f = s.putHart (f h) := by
  unfold State.updHart
  rw [hh]

/-- A core that holds no access of a thread has none to let go (R33). -/
theorem flushAt_idle {s : State} {id : HartId} {h : Hart} (hh : s.hart? id = some h) (hl : h.t.post.later = []) :
    s.flushAt id = s := by
  unfold State.flushAt
  rw [hh]
  exact if_pos (by rw [hl]; rfl)

/-- A message has reached a thread, which it leaves as `g`: it is out of the network, and no byte of memory has changed. -/
structure Reaches (s t : State) (c k : Nat) (g : Hart) : Prop where
  net : t.lat.net = s.lat.net.eraseIdx (s.evArg 0)
  mem : SameMem s t
  hart : t.hart? (.thread c k) = some g

section
variable {s : State} {p : Msg} {c k : Nat} {h : Hart}

theorem reaches_putHart {g : Hart} (hg : g.id = .thread c k) : Reaches s ((arrived s p).putHart g) c k g where
  net := by rw [putHart_lat, arrived_net]
  mem a := by rw [putHart_mem, arrived_mem]
  hart := by rw [← hg]; exact hart?_putHart _ g

theorem reaches_updHart (hh : s.hart? (.thread c k) = some h) {f : Hart → Hart} (hf : (f h).id = h.id) :
    Reaches s ((arrived s p).updHart (.thread c k) f) c k (f h) := by
  rw [updHart_eq ((arrived_hart? s p _).trans hh)]
  exact reaches_putHart (hf.trans (hart?_thread_id hh))

/-- The same where the core then lets go what it may of the thread's accesses, and holds none. -/
theorem reaches_flushAt {t : State} {g : Hart} (r : Reaches s t c k g) (hl : g.t.post.later = []) :
    Reaches s (t.flushAt (.thread c k)) c k g := by
  rw [flushAt_idle r.hart hl]
  exact r

end

/-! ## The posted state after a reply (R119, R121) -/

theorem getD_setIfInBounds {α : Type} {n : Nat} (v : Vector α n) (i j : Nat) (a d : α) :
    (v.setIfInBounds i a).getD j d = if i = j ∧ i < n then a else v.getD j d := by
  have hget (w : Vector α n) (i : Nat) : w.getD i d = w[i]?.getD d := by
    rw [Vector.getD, Array.getD_eq_getD_getElem?, Vector.getElem?_toArray]
  rw [hget, hget, Vector.getElem?_setIfInBounds]
  by_cases hij : i = j
  · subst hij
    by_cases hn : i < n
    · rw [if_pos rfl, if_pos hn, if_pos ⟨rfl, hn⟩, Option.getD_some]
    · rw [if_pos rfl, if_neg hn, if_neg (fun h => hn h.2), Vector.getElem?_eq_none (by omega)]
  · rw [if_neg hij, if_neg (fun h => hij h.1)]

/-- The counter of its class and the message counted in its home are one fewer; of the journal only the entry of the message may
differ, and the accesses that the core holds are as before. -/
structure CountsReply (m : Member) (old new : Posted) : Prop where
  p : new.p = old.p - (if m.cls = 1 then 1 else 0)
  f : new.f = old.f - (if m.cls = 2 then 1 else 0)
  b : new.b = old.b - (if m.cls = 3 then 1 else 0)
  sent : new.sent = old.sent.filter (fun x => !(some x.home == m.home && x.seq == m.seq))
  others : ∀ i, i ≠ m.entry → new.j.getD i {} = old.j.getD i {}
  later : new.later = old.later

theorem uncount_counters (p : Posted) (cls : Nat) :
    (p.uncount cls).p = p.p - (if cls = 1 then 1 else 0) ∧ (p.uncount cls).f = p.f - (if cls = 2 then 1 else 0) ∧
    (p.uncount cls).b = p.b - (if cls = 3 then 1 else 0) ∧ (p.uncount cls).later = p.later := by
  unfold Posted.uncount
  split
  · exact ⟨rfl, rfl, rfl, rfl⟩
  · exact ⟨rfl, rfl, rfl, rfl⟩
  · exact ⟨rfl, rfl, rfl, rfl⟩
  · next h1 h2 h3 => rw [if_neg h1, if_neg h2, if_neg h3]; exact ⟨rfl, rfl, rfl, rfl⟩

theorem replied_counts (p : Posted) (m : Member) : CountsReply m p (p.replied m) := by
  obtain ⟨hp, hf, hb, hl⟩ := uncount_counters p m.cls
  exact ⟨hp, hf, hb, rfl, fun i hi => (getD_setIfInBounds _ _ _ _ _).trans (if_neg fun h => hi h.1.symm), hl⟩

theorem CountsReply.setEntry {m : Member} {p q : Posted} (h : CountsReply m p q) (e : JEntry) :
    CountsReply m p { q with j := q.j.setIfInBounds m.entry e } :=
  ⟨h.p, h.f, h.b, h.sent, fun i hi => ((getD_setIfInBounds _ _ _ _ _).trans (if_neg fun h => hi h.1.symm)).trans (h.others i hi),
    h.later⟩

theorem freeDone_counts {m : Member} {p q : Posted} (h : CountsReply m p q) : CountsReply m p (q.freeDone m.entry) := by
  unfold Posted.freeDone
  dsimp only
  split
  · exact h.setEntry {}
  · exact h

/-- The journal entry of a message that has been answered counts one message fewer. -/
theorem replied_entry (p : Posted) {m : Member} (hm : m.entry < 16) :
    (p.replied m).j.getD m.entry {} = { p.j.getD m.entry {} with out := (p.j.getD m.entry {}).out - 1 } :=
  (getD_setIfInBounds _ _ _ _ _).trans (if_pos ⟨rfl, hm⟩)

/-- An entry is free once its last message has been acknowledged and none was refused. -/
theorem freeDone_entry (p : Posted) {i : Nat} (hi : i < 16) :
    (p.freeDone i).j.getD i {} = if (p.j.getD i {}).out = 0 ∧ (p.j.getD i {}).ref = false then {} else p.j.getD i {} := by
  unfold Posted.freeDone
  dsimp only
  split
  · exact (getD_setIfInBounds _ _ _ _ _).trans (if_pos ⟨rfl, hi⟩)
  · rfl

/-! ## ACK (R94, R119, R121) -/

theorem ack_thread {s : State} {p : Msg} {m : Member} {c k : Nat} (hd : s.delivers p) (hb : p.body = .ack m)
    (hw : m.who = .thread c k) :
    exec .ack s = .next (((arrived s p).updHart (.thread c k) (fun h => h.setPost ((h.t.post.replied m).freeDone m.entry))).flushAt
      (.thread c k)) := by
  show execAck s = _
  unfold execAck
  rw [deliver_eq hd, hb]
  dsimp only
  rw [hw]
  rfl

/-- An ACK that reaches its thread. -/
theorem ack_answers {s : State} {p : Msg} {m : Member} {c k : Nat} {h : Hart} (hd : s.delivers p) (hb : p.body = .ack m)
    (hw : m.who = .thread c k) (hh : s.hart? (.thread c k) = some h) (hm : m.entry < 16) (hl : h.t.post.later = []) :
    Answers (exec .ack s) fun t => ∃ g, Reaches s t c k g ∧ CountsReply m h.t.post g.t.post ∧
      let e := h.t.post.j.getD m.entry {}
      g.t.post.j.getD m.entry {} = if e.out ≤ 1 ∧ e.ref = false then {} else { e with out := e.out - 1 } := by
  have hcounts := freeDone_counts (replied_counts h.t.post m)
  refine ⟨_, ack_thread hd hb hw, _, reaches_flushAt (reaches_updHart hh rfl) (hcounts.later.trans hl), hcounts, ?_⟩
  refine (freeDone_entry _ hm).trans ?_
  rw [replied_entry _ hm]
  exact if_congr (and_congr_left' Nat.sub_eq_zero_iff_le) rfl rfl

/-! ## REFUSE (R94, R121, R122) -/

/-- The posted state of a thread after a REFUSE that is the `n`th event to be ordered (R188). -/
def refusedPost (p : Posted) (n : Nat) (m : Member) (lanes fault tcode gop gfound : Nat) : Posted :=
  let q := p.replied m
  let e := q.j.getD m.entry {}
  { q with
    j := q.j.setIfInBounds m.entry { e.refuse m lanes fault tcode gop gfound with stamp := if e.ref then e.stamp else n } }

section
variable (s : State) (h : Hart) (m : Member) (lanes f tc go gf : Nat)

theorem refuseAt_eq :
    let e := (h.t.post.replied m).j.getD m.entry {}
    let s1 := s.putHart (h.setPost (refusedPost h.t.post s.work.nextOrder m lanes f tc go gf))
    s.refuseAt h m lanes f tc go gf =
      if e.ref then s1
      else ({ s1 with work := { s1.work with nextOrder := s1.work.nextOrder + 1 } } : State).entryFault h 0x0B
        { e.refuse m lanes f tc go gf with stamp := if e.ref then e.stamp else s.work.nextOrder } := rfl

/-- A REFUSE changes its thread's posted state; the first one of an entry raises the refusal context fault as well (R125). -/
theorem reports_refuseAt :
    Reports (s.putHart (h.setPost (refusedPost h.t.post s.work.nextOrder m lanes f tc go gf)))
      (s.refuseAt h m lanes f tc go gf) := by
  rw [refuseAt_eq]
  generalize refusedPost h.t.post s.work.nextOrder m lanes f tc go gf = q
  split
  · exact Reports.refl _
  · refine Reports.trans ?_ (reports_raise _ _ _ _)
    exact ⟨rfl, rfl, rfl, ⟨_, _, rfl⟩, rfl, fun _ => rfl⟩

theorem refuseAt_lat : (s.refuseAt h m lanes f tc go gf).lat = s.lat := by
  rw [refuseAt_eq]
  generalize refusedPost h.t.post s.work.nextOrder m lanes f tc go gf = q
  split
  · exact putHart_lat _ _
  · exact putHart_lat s _

end

theorem reaches_refuseAt {s : State} {p : Msg} {c k : Nat} {h : Hart} (hh : s.hart? (.thread c k) = some h) (m : Member)
    (lanes f tc go gf : Nat) :
    Reaches s ((arrived s p).refuseAt h m lanes f tc go gf) c k
      (h.setPost (refusedPost h.t.post (arrived s p).work.nextOrder m lanes f tc go gf)) := by
  have hid : h.id = .thread c k := hart?_thread_id hh
  have hput := reaches_putHart (s := s) (p := p)
    (g := h.setPost (refusedPost h.t.post (arrived s p).work.nextOrder m lanes f tc go gf)) hid
  have hrep := reports_refuseAt (arrived s p) h m lanes f tc go gf
  exact ⟨by rw [refuseAt_lat, arrived_net], fun a => by rw [hrep.mem, hput.mem], (hrep.hart? _).trans hput.hart⟩

theorem refuse_thread {s : State} {p : Msg} {m : Member} {c k lanes f tc go gf : Nat} {h : Hart} (hd : s.delivers p)
    (hb : p.body = .refuse m lanes f tc go gf) (hw : m.who = .thread c k) (hh : s.hart? (.thread c k) = some h) :
    exec .refuse s = .next (((arrived s p).refuseAt h m lanes f tc go gf).flushAt (.thread c k)) := by
  show execRefuse s = _
  unfold execRefuse
  rw [deliver_eq hd, hb]
  dsimp only
  rw [hw]
  dsimp only
  rw [arrived_hart?, hh]
  rfl

/-- The journal entry of a refused message: one message fewer, and the refusal where it is the entry's first. -/
theorem refusedPost_entry (p : Posted) (n : Nat) {m : Member} (lanes f tc go gf : Nat) (hm : m.entry < 16) :
    let e := p.j.getD m.entry {}
    let r := (refusedPost p n m lanes f tc go gf).j.getD m.entry {}
    r.out = e.out - 1 ∧ r.ref = true ∧ (e.ref = true → r.lanes = e.lanes ||| lanes ∧ r.fault = e.fault ∧ r.addr = e.addr) ∧
    (e.ref = false → r.lanes = lanes ∧ r.fault = f ∧ r.tcode = tc ∧ r.addr = m.va ∧ r.gop = go ∧ r.gfound = gf) := by
  have hentry : (refusedPost p n m lanes f tc go gf).j.getD m.entry {} = _ :=
    (getD_setIfInBounds _ _ _ _ _).trans (if_pos ⟨rfl, hm⟩)
  rw [replied_entry p hm] at hentry
  rw [hentry]
  unfold JEntry.refuse
  dsimp only
  cases href : (p.j.getD m.entry {}).ref with
  | true => exact ⟨rfl, rfl, fun _ => ⟨rfl, rfl, rfl⟩, Bool.noConfusion⟩
  | false => exact ⟨rfl, rfl, Bool.noConfusion, fun _ => ⟨rfl, rfl, rfl, rfl, rfl, rfl⟩⟩

/-- A REFUSE that reaches its thread. -/
theorem refuse_answers {s : State} {p : Msg} {m : Member} {c k lanes f tc go gf : Nat} {h : Hart} (hd : s.delivers p)
    (hb : p.body = .refuse m lanes f tc go gf) (hw : m.who = .thread c k) (hh : s.hart? (.thread c k) = some h)
    (hl : h.t.post.later = []) :
    Answers (exec .refuse s) fun t => ∃ n, Reaches s t c k (h.setPost (refusedPost h.t.post n m lanes f tc go gf)) ∧
      CountsReply m h.t.post (refusedPost h.t.post n m lanes f tc go gf) := by
  have hcounts (n : Nat) : CountsReply m h.t.post (refusedPost h.t.post n m lanes f tc go gf) :=
    (replied_counts h.t.post m).setEntry _
  exact ⟨_, refuse_thread hd hb hw hh, _,
    reaches_flushAt (reaches_refuseAt hh m lanes f tc go gf) ((hcounts _).later.trans hl), hcounts _⟩

/-! ## WAKE, DATA and RESUME (R33, R94) -/

theorem wake_answers {s : State} {p : Msg} {m : Member} {c k o v : Nat} {h : Hart} (hd : s.delivers p) (hb : p.body = .wake m o v)
    (hw : m.who = .thread c k) (hh : s.hart? (.thread c k) = some h) :
    Answers (exec .wake s) fun t => Reaches s t c k { h with reply := some (.value o v) } := by
  refine ⟨_, ?_, reaches_updHart (p := p) (f := fun h => { h with reply := some (.value o v) }) hh rfl⟩
  show execWake s = _
  unfold execWake State.answerThread
  rw [deliver_eq hd, hb]
  dsimp only
  rw [hw]
  rfl

theorem data_answers {s : State} {p : Msg} {m : Member} {c k n v : Nat} {h : Hart} (hd : s.delivers p)
    (hb : p.body = .data m 0 n v 0 0) (hw : m.who = .thread c k) (hh : s.hart? (.thread c k) = some h) :
    Answers (exec .data s) fun t => Reaches s t c k { h with reply := some (.value 0 v) } := by
  refine ⟨_, ?_, reaches_updHart (p := p) (f := fun h => h.takeData m 0 v 0 0) hh rfl⟩
  show execData s = _
  unfold execData State.answerThread
  rw [deliver_eq hd, hb]
  dsimp only
  rw [hw]
  rfl

/-- A thread that waits for a repair, with no access held by its core, is ready after it. -/
theorem repaired_waiting {h : Hart} {va : Nat} (hs : h.stat = .waiting (.repair va)) (hl : h.t.post.later = []) :
    h.repaired va 0 = { h with stat := .ready } := by
  have hsame : h.setPost { h.t.post with later := h.t.post.later.map (fun l => l.answered va 0) } = h := by
    have hpost : ({ h.t.post with later := h.t.post.later.map (fun l => l.answered va 0) } : Posted) = h.t.post := by
      rw [hl, List.map_nil, ← hl]
    rw [hpost]
    rfl
  unfold Hart.repaired
  dsimp only
  rw [hsame]
  exact if_pos hs

theorem resume_answers {s : State} {p : Msg} {x va c k : Nat} {h : Hart} (hd : s.delivers p)
    (hb : p.body = .resume x va (.thread c k) 0) (hh : s.hart? (.thread c k) = some h) (hs : h.stat = .waiting (.repair va))
    (hl : h.t.post.later = []) :
    Answers (exec .resume s) fun t => Reaches s t c k { h with stat := .ready } := by
  have hready := repaired_waiting hs hl
  have hupd := reaches_updHart (p := p) (f := fun h => h.repaired va 0) hh (by rw [hready])
  rw [hready] at hupd
  refine ⟨_, ?_, reaches_flushAt hupd hl⟩
  show execResume s = _
  unfold execResume
  rw [deliver_eq hd, hb]
  rfl

/-! ## The making of translation tables (R26, R31) -/

/-- The frame of a table page of a context. -/
def tableFrame (ctx pa : Nat) : Frame := { pa := pa, size := 8192, ctx := ctx, va := 2 ^ 64, kind := 0 }

/-- A context's table page at `pa`, to which an entry of the table above it points. -/
def linkedTable (s : State) (ctx entry pa : Nat) : State :=
  let s1 := s.takeFrame (tableFrame ctx pa)
  { s1 with mem := Mem.writeN s1.mem entry 8 (pa + 3) }

/-- A context's root table at `pa`. -/
def rootedTable (s : State) (ctx va pa : Nat) : State :=
  let s1 := s.takeFrame (tableFrame ctx pa)
  { s1 with lat := { s1.lat with roots := (ctx, bits va 56 48, pa + 3) :: s1.lat.roots } }

section
variable {s : State}

theorem tableAt_empty {entry : Nat} (h : ¬ (Mem.readN s.mem entry 8).testBit 0 = true) (pkg ctx : Nat) :
    s.tableAt pkg ctx entry = (s.lat.placeBy false pkg 0 8192).map (fun pa => (pa, linkedTable s ctx entry pa)) := by
  refine (if_neg h).trans ?_
  cases s.lat.placeBy false pkg 0 8192 <;> rfl

theorem tableAt_valid {entry : Nat} (h : (Mem.readN s.mem entry 8).testBit 0 = true) (pkg ctx : Nat) :
    s.tableAt pkg ctx entry =
      if (Mem.readN s.mem entry 8).testBit 1 then some (bits (Mem.readN s.mem entry 8) 57 13 * 8192, s) else none :=
  if_pos h

theorem rootTable_empty {ctx va : Nat} (h : ¬ (s.root ctx va).testBit 0 = true) (pkg : Nat) :
    s.rootTable pkg ctx va = (s.lat.placeBy false pkg 0 8192).map (fun pa => (pa, rootedTable s ctx va pa)) := by
  refine (if_neg h).trans ?_
  cases s.lat.placeBy false pkg 0 8192 <;> rfl

theorem rootTable_valid {ctx va : Nat} (h : (s.root ctx va).testBit 0 = true) (pkg : Nat) :
    s.rootTable pkg ctx va = some (bits (s.root ctx va) 57 13 * 8192, s) :=
  if_pos h

end

/-! ## Page creation beside the counts of messages (R31) -/

/-- A state with other counts of received messages and other work: neither bears on translation tables or frames. -/
def beside (s : State) (r : List (Nat × Nat)) (w : Work) : State :=
  { s with lat := { s.lat with received := r }, work := w }

/-- A message that has arrived is out of the network; beside that only counts of messages and work differ. -/
theorem arrived_eq_beside (s : State) (p : Msg) :
    ∃ r w, arrived s p = beside { s with lat := { s.lat with net := s.lat.net.eraseIdx (s.evArg 0) } } r w := by
  unfold arrived State.taken
  split
  · exact ⟨_, _, rfl⟩
  · exact ⟨_, _, rfl⟩

section
variable (s : State) (r : List (Nat × Nat)) (w : Work)

theorem placeBy_beside (near : Bool) (pkg st size : Nat) :
    (beside s r w).lat.placeBy near pkg st size = s.lat.placeBy near pkg st size := rfl

theorem linkedTable_beside (ctx entry pa : Nat) :
    linkedTable (beside s r w) ctx entry pa = beside (linkedTable s ctx entry pa) r w := rfl

theorem rootedTable_beside (ctx va pa : Nat) :
    rootedTable (beside s r w) ctx va pa = beside (rootedTable s ctx va pa) r w := rfl

theorem tableAt_beside (pkg ctx entry : Nat) :
    (beside s r w).tableAt pkg ctx entry = (s.tableAt pkg ctx entry).map (fun x => (x.1, beside x.2 r w)) := by
  by_cases hv : (Mem.readN s.mem entry 8).testBit 0 = true
  · rw [tableAt_valid hv, tableAt_valid (s := beside s r w) hv, apply_ite (Option.map _)]
    rfl
  · rw [tableAt_empty hv, tableAt_empty (s := beside s r w) hv, placeBy_beside, Option.map_map]
    rfl

theorem descend_beside (pkg ctx va k lvl tab : Nat) :
    (beside s r w).descend pkg ctx va k lvl tab = (s.descend pkg ctx va k lvl tab).map (fun x => (x.1, beside x.2 r w)) := by
  induction k generalizing s lvl tab with
  | zero => rfl
  | succ k ih =>
    unfold State.descend
    rw [tableAt_beside]
    cases s.tableAt pkg ctx _ with
    | none => rfl
    | some x => exact ih x.2 _ _

theorem rootTable_beside (pkg ctx va : Nat) :
    (beside s r w).rootTable pkg ctx va = (s.rootTable pkg ctx va).map (fun x => (x.1, beside x.2 r w)) := by
  by_cases hv : (s.root ctx va).testBit 0 = true
  · rw [rootTable_valid hv, rootTable_valid (s := beside s r w) hv]
    rfl
  · rw [rootTable_empty hv, rootTable_empty (s := beside s r w) hv, placeBy_beside, Option.map_map]
    rfl

theorem setLeaf_beside (pkg ctx : Nat) (l : Leaf) :
    (beside s r w).setLeaf pkg ctx l = (s.setLeaf pkg ctx l).map (fun t => beside t r w) := by
  unfold State.setLeaf
  dsimp only
  rw [rootTable_beside]
  cases s.rootTable pkg ctx l.va with
  | none => rfl
  | some x =>
    dsimp only [Option.map]
    rw [descend_beside]
    cases x.2.descend pkg ctx l.va _ 4 x.1 <;> rfl

theorem createPage_beside (ctx : Nat) (g : Region) (va task pkg st : Nat) :
    (beside s r w).createPage ctx g va task pkg st = (s.createPage ctx g va task pkg st).map (fun t => beside t r w) := by
  unfold State.createPage
  dsimp only
  rw [show (beside s r w).walk ctx _ = s.walk ctx (va / pageBytes g.psize * pageBytes g.psize) from rfl]
  cases s.walk ctx (va / pageBytes g.psize * pageBytes g.psize) with
  | ok l => rfl
  | error e =>
    dsimp only
    split
    · exact setLeaf_beside s r w pkg ctx _
    · rw [placeBy_beside]
      cases s.lat.placeBy (g.pol == 1) pkg st (pageBytes g.psize) with
      | none => rfl
      | some pa => exact setLeaf_beside (s.takeFrame _) r w pkg ctx _

end

/-- A page that is there already stays (R32). -/
theorem createPage_present {s : State} {ctx va : Nat} {g : Region} {l : Leaf}
    (hl : s.walk ctx (va / pageBytes g.psize * pageBytes g.psize) = .ok l) (task pkg st : Nat) :
    s.createPage ctx g va task pkg st = some s := by
  unfold State.createPage
  dsimp only
  rw [hl]

/-! ## Page faults (R31) -/

section
variable (s : State) (n ctx va : Nat) (w : Who) (code : Nat)

theorem sendResume_net (h : s.isStopping ctx = false) :
    ∃ q, (s.sendResume n ctx va w code).lat.net = s.lat.net ++ [q] ∧ q.body = .resume ctx va w code := by
  unfold State.sendResume State.send State.discards
  dsimp only [Body.isReply]
  rw [h]
  exact ⟨_, rfl, rfl⟩

theorem sendResume_tables :
    (s.sendResume n ctx va w code).lat.frames = s.lat.frames ∧ (s.sendResume n ctx va w code).lat.roots = s.lat.roots := by
  obtain ⟨net, sent, hlat⟩ : ∃ net sent, (s.sendResume n ctx va w code).lat = { s.lat with net := net, sent := sent } :=
    (reports_send s _).lat
  rw [hlat]
  exact ⟨rfl, rfl⟩

end

section
variable {s : State} {m : Msg} {ctx va task n : Nat} {a : Acc} {w : Who} (hb : m.body = .pageFault ctx va a w task)
include hb

theorem repairPage_noRegion (hg : s.regionOf ctx va = none) : s.repairPage n m = some (s.sendResume n ctx va w 3) := by
  unfold State.repairPage
  rw [hb]
  dsimp only
  rw [hg]

theorem repairPage_region {g : Region} {u : State} (hg : s.regionOf ctx va = some g)
    (hu : s.createPage ctx g va task (n / 1024) (nodeStack n) = some u) : s.repairPage n m = some (u.sendResume n ctx va w 0) := by
  unfold State.repairPage
  rw [hb]
  dsimp only
  rw [hg]
  dsimp only
  rw [hu]
  rfl

variable (hd : s.delivers m) (he : s.evArg 0 < 2 ^ 32) (hn : m.dest = .node n)
include hd he hn

/-- A rill core with 64 fault messages that it has not answered takes no more. -/
theorem pageFaultRepair_full (hf : 64 ≤ (s.faultsAt n).length) : exec .pageFaultRepair s = .next s := by
  show execPageFaultRepair s = _
  unfold execPageFaultRepair
  rw [if_neg (by omega), deliver_eq hd]
  dsimp only
  rw [hb, hn]
  dsimp only
  rw [if_pos (by rwa [arrived_faultsAt]), Option.getD_none]

theorem pageFaultRepair_room (hf : (s.faultsAt n).length < 64) {u : State} (hu : (arrived s m).repairPage n m = some u) :
    exec .pageFaultRepair s = .next u := by
  show execPageFaultRepair s = _
  unfold execPageFaultRepair
  rw [if_neg (by omega), deliver_eq hd]
  dsimp only
  rw [hb, hn]
  dsimp only
  rw [if_neg (by rw [arrived_faultsAt]; omega), hu]
  rfl

/-- An address without a region is answered NOREGION. -/
theorem pageFaultRepair_noRegion (hf : (s.faultsAt n).length < 64) (hs : s.isStopping ctx = false)
    (hg : s.regionOf ctx va = none) :
    Answers (exec .pageFaultRepair s) fun t => SameMem s t ∧ ∃ q, t.lat.net = s.lat.net.eraseIdx (s.evArg 0) ++ [q] ∧
      q.body = .resume ctx va w 3 := by
  refine ⟨_, pageFaultRepair_room hb hd he hn hf (repairPage_noRegion hb ((arrived_regionOf s m ctx va).trans hg)),
    fun a => congrArg (Mem.read · a) (arrived_mem s m), ?_⟩
  rw [← arrived_net s m]
  exact sendResume_net _ _ _ _ _ _ ((arrived_isStopping s m ctx).trans hs)

/-- A page that is there already is answered at once. -/
theorem pageFaultRepair_present (hf : (s.faultsAt n).length < 64) (hs : s.isStopping ctx = false) {g : Region} {l : Leaf}
    (hg : s.regionOf ctx va = some g) (hl : s.walk ctx (va / pageBytes g.psize * pageBytes g.psize) = .ok l) :
    Answers (exec .pageFaultRepair s) fun t => SameMem s t ∧ ∃ q, t.lat.net = s.lat.net.eraseIdx (s.evArg 0) ++ [q] ∧
      q.body = .resume ctx va w 0 := by
  have hpage := createPage_present ((arrived_walk s m ctx _).trans hl) task (n / 1024) (nodeStack n)
  refine ⟨_, pageFaultRepair_room hb hd he hn hf (repairPage_region hb ((arrived_regionOf s m ctx va).trans hg) hpage),
    fun a => congrArg (Mem.read · a) (arrived_mem s m), ?_⟩
  rw [← arrived_net s m]
  exact sendResume_net _ _ _ _ _ _ ((arrived_isStopping s m ctx).trans hs)

/-- A page that can be created is. -/
theorem pageFaultRepair_created (hf : (s.faultsAt n).length < 64) {g : Region} {u : State} (hg : s.regionOf ctx va = some g)
    (hu : ({ s with lat := { s.lat with net := s.lat.net.eraseIdx (s.evArg 0) } } : State).createPage ctx g va task (n / 1024)
      (nodeStack n) = some u) :
    Answers (exec .pageFaultRepair s) fun t => t.mem = u.mem ∧ t.lat.frames = u.lat.frames ∧ t.lat.roots = u.lat.roots := by
  obtain ⟨r, work, harr⟩ := arrived_eq_beside s m
  have hpage : (arrived s m).createPage ctx g va task (n / 1024) (nodeStack n) = some (beside u r work) := by
    rw [harr, createPage_beside, hu, Option.map_some]
  exact ⟨_, pageFaultRepair_room hb hd he hn hf (repairPage_region hb ((arrived_regionOf s m ctx va).trans hg) hpage), rfl,
    sendResume_tables _ _ _ _ _ _⟩

end

/-! ## The posted-refusal trap and forwarding (R124, R384) -/

theorem postedRefusalTrap_eq {s : State} {i : Nat} (hh : s.h.ctl.h = false) (hr : s.h.replay = false)
    (hi : s.h.t.post.firstRefused = some i) : exec .postedRefusalTrap s = .next (s.refusalTrap i) := by
  show execPostedRefusalTrap s = _
  unfold execPostedRefusalTrap
  rw [if_neg (by rw [hh, hr]; decide), hi]

theorem messageForward_eq {s : State} {m : Msg} {v c : Nat} (hm : s.lat.net[s.evArg 0]? = some m) (hv : m.via = some v)
    (hc : m.dest = .core c) (hp : s.isPlaced c = true) :
    exec .messageForward s =
      .next (({ s with lat := { s.lat with net := s.lat.net.set (s.evArg 0) { m with via := none } } } : State).trimForward v) := by
  show execMessageForward s = _
  unfold execMessageForward
  rw [hm]
  dsimp only
  rw [hv, hc]
  dsimp only
  rw [if_pos (by rw [hp, Bool.true_or])]

/-- Settles O45: each reply leaves the network and changes its thread alone, in the posted state, the reply slot or the state of
waiting; a fault message is answered by its rill core, and a page is created whatever the counts of messages are. -/
theorem repliesReachTheirThreads : Obligations.RepliesReachTheirThreads := by
  unfold Obligations.RepliesReachTheirThreads
  intro s
  refine ⟨fun p m c k h hd hw hh => ⟨fun hb hm hl => ?_, fun lanes f tc go gf hb hm hl => ?_, fun o v hb => ?_, fun n v hb => ?_⟩,
    fun p x va c k h hd hb hh hs hl => ?_, fun p x va task n w a hd he hb hn => ⟨pageFaultRepair_full hb hd he hn, fun hf hs =>
      ⟨pageFaultRepair_noRegion hb hd he hn hf hs, fun g l => pageFaultRepair_present hb hd he hn hf hs,
        fun g u => pageFaultRepair_created hb hd he hn hf⟩⟩,
    fun i => postedRefusalTrap_eq, fun m v c hm hv hc hp => ⟨_, messageForward_eq hm hv hc hp, rfl, fun _ => rfl⟩⟩
  · obtain ⟨t, ht, g, hr, hc, hj⟩ := ack_answers hd hb hw hh hm hl
    exact ⟨t, ht, hr.net, hr.mem, g, hr.hart, ⟨hc.p, hc.f, hc.b, hc.sent, hc.others⟩, hj⟩
  · obtain ⟨t, ht, n, hr, hc⟩ := refuse_answers hd hb hw hh hl
    exact ⟨t, ht, hr.net, hr.mem, _, hr.hart, ⟨hc.p, hc.f, hc.b, hc.sent, hc.others⟩, refusedPost_entry _ n _ _ _ _ _ hm⟩
  · obtain ⟨t, ht, hr⟩ := wake_answers hd hb hw hh
    exact ⟨t, ht, hr.net, hr.mem, hr.hart⟩
  · obtain ⟨t, ht, hr⟩ := data_answers hd hb hw hh
    exact ⟨t, ht, hr.net, hr.mem, hr.hart⟩
  · obtain ⟨t, ht, hr⟩ := resume_answers hd hb hh hs hl
    exact ⟨t, ht, hr.net, hr.mem, hr.hart⟩

end Sys2Proof.ThreadReplies
end

section
/-! PROOFS. Units of the engines: a stream whose operation a cancel ends with its unit (R198, R203, R334): O48. -/

namespace Sys2Proof.EngineUnits

open Sys2Proof Sys2Proof.Machine Sys2Proof.LatticeCells

/-! ## The end of a unit at which a cancel takes effect (R203) -/

/-- An operation in its token slot that ends at its engine leaves every hart as it is: its reply is still under way (R199). -/
theorem endOp_hart? {s : State} {o : Op} (hhold : o.hold = 0) (st : OpState) (cls code addr : Nat) (id : HartId) :
    (s.endOp o st cls code addr).hart? id = s.hart? id := by
  unfold State.endOp State.collFinish State.collEnds
  dsimp only
  rw [if_neg (by rw [hhold]; decide)]
  split <;> rfl

/-- A unit that is not the last ends its operation as cancelled when a cancel waited for its end (R203). -/
theorem retireOf_cut {s : State} {o : Op} {n : Nat} (hcut : o.cut = true) (hn : o.units + 1 < n) :
    s.retireOf n o = (s.setOp o.nextUnit).stopOp o.nextUnit .cancelled 0 0 0 := by
  unfold State.retireOf
  dsimp only
  rw [if_neg (show ¬ n ≤ o.nextUnit.units from Nat.not_le.mpr hn), if_pos (show o.nextUnit.cut = true from hcut)]

/-- The streams that an operation feeds, once it has not ended done: each has the fault record (R334). -/
def failedStreams (o : Op) (addr : Nat) (l : List Stream) : List Stream :=
  updWhere (fun b => b.slot == o.slot && b.gen == o.gen) (fun b => { b with fail := some (addr % 2 ^ 57) }) l

theorem failedStreams_fail {o : Op} {addr : Nat} {l : List Stream} {b : Stream} (hb : b ∈ failedStreams o addr l)
    (hslot : b.slot = o.slot) (hgen : b.gen = o.gen) : b.fail = some (addr % 2 ^ 57) := by
  obtain ⟨a, -, rfl⟩ := List.mem_map.mp hb
  split
  · rfl
  · next hno =>
    rw [if_neg hno] at hslot hgen
    exact absurd (Bool.and_eq_true_iff.mpr ⟨beq_iff_eq.mpr hslot, beq_iff_eq.mpr hgen⟩) hno

theorem hart?_updScr {s : State} {o : Op} {h : Hart} (hh : s.hart? o.hart = some h) (f : Hart → Scratch) :
    (s.updHart o.hart (fun g => g.setScr (f g))).hart? o.hart = some (h.setScr (f h)) := by
  have hid : h.id = o.hart := hart?_thread_id hh
  exact hart?_updHart _ hh hid

theorem stopOp_streams {s : State} {o : Op} {h : Hart} (hhold : o.hold = 0) (hh : s.hart? o.hart = some h) (st : OpState)
    (cls code addr : Nat) : ∃ g, (s.stopOp o st cls code addr).hart? o.hart = some g ∧
      g.t.scr.streams = failedStreams o addr h.t.scr.streams :=
  ⟨_, hart?_updScr ((endOp_hart? hhold st cls code addr o.hart).trans hh) _, rfl⟩

/-! ## A strip of a stream (R334) -/

theorem queueImages_hart? {s : State} {o : Op} {h : Hart} (hh : s.hart? o.hart = some h) (n : Nat) (buf : List Host.Cell) :
    ∃ g, (s.queueImages o n buf).hart? o.hart = some g :=
  ⟨_, hart?_updScr hh _⟩

/-- A strip that has read its images queues them and retires. -/
theorem finish_stream {r : Run} {o : Op} {vreg ssp conv src rm sat : Nat} {d : List Nat}
    (hwork : o.work = .sbind vreg ssp conv src rm sat d) (hrun : r.st = .ok) :
    r.finish o = (r.s.queueImages o (streamImages ((affineOf d).images conv) o.units) r.buf).retireOf
      (ceilDiv ((affineOf d).images conv) 21) o := by
  unfold Run.finish
  dsimp only
  rw [if_neg (by rw [hrun]; exact fun h => h rfl)]
  unfold State.retireUnit State.unitsOf
  dsimp only
  rw [hwork]

/-- STREAM_STRIP of a unit for whose end a cancel waits: every stream that the operation feeds then has its fault record, whatever
the strip has queued. -/
theorem streamStrip_cut {s : State} {o : Op} {h : Hart} {vreg ssp conv src rm sat : Nat} {d : List Nat}
    (hop : s.opAt (s.evArg 0) = some o) (hkind : o.kind = 3) (hturn : s.keepsTurn o = true) (herr : s.evArg 1 ≠ 1)
    (hwork : o.work = .sbind vreg ssp conv src rm sat d) (hhold : o.hold = 0) (hcut : o.cut = true)
    (hmore : o.units + 1 < ceilDiv ((affineOf d).images conv) 21) (hrun : (s.runUnit o).st = .ok)
    (hh : (s.runUnit o).s.hart? o.hart = some h) :
    ∃ t g, exec .streamStrip s = .next t ∧ t.hart? o.hart = some g ∧
      ∀ b, b ∈ g.t.scr.streams → b.slot = o.slot → b.gen = o.gen → b.fail = some 0 := by
  obtain ⟨g, hg⟩ := queueImages_hart? hh (streamImages ((affineOf d).images conv) o.units) (s.runUnit o).buf
  obtain ⟨f, hf, hstreams⟩ := stopOp_streams
    (s := (((s.runUnit o).s.queueImages o (streamImages ((affineOf d).images conv) o.units) (s.runUnit o).buf).setOp o.nextUnit))
    (o := o.nextUnit) hhold hg .cancelled 0 0 0
  refine ⟨_, f, ?_, hf, fun b hb hslot hgen => failedStreams_fail (hstreams ▸ hb) hslot hgen⟩
  show s.strip (s.evArg 0) (s.evArg 1) 3 = _
  unfold State.strip
  rw [hop]
  dsimp only
  rw [if_pos ⟨hkind, hturn⟩, if_neg herr, finish_stream hwork hrun, retireOf_cut hcut hmore]

/-! ## A stream of two units that a cancel ends with its first -/

/-- One element of 4,096 bytes: 22 images, in two units. -/
def pattern : List Nat := [4096, 0, 0, 0, 0, 0, 0, 0]

/-- The stream's operation, in its first unit; a cancel waits for the end of the unit. -/
def cutOp : Op :=
  { core := 1, slot := 5, gen := 0, thread := 0, task := 7, ctx := 1, kind := 3, prio := 0, st := .running, arrived := true
    begun := true, cut := true, work := .sbind 0 1 0 0 0 0 pattern }

/-- The binding of v24, with an empty queue. -/
def binding : Stream := { vreg := 0, slot := 5, gen := 0, total := 22 }

/-- The thread: one window of W, which holds the element. -/
def feeder : Hart := { id := .thread 1 0, t := { scr := { wins := [{ buf := 0, base := 0, len := 0x6000 }], streams := [binding] } } }

/-- The machine with that thread on core 0 and that operation. -/
def cutStream : State where
  ev := [0]
  h := feeder
  work := {
    ctxs := [{ handle := 1, prio := 0, key := 0, dbg := false, hgrp := 0, pkgs := [0], regions := [] }]
    cores := [{ id := 1, tag := 1, ctx := 1, loc := .at 0 }]
    ops := [cutOp] }

theorem cutStream_canonical : Canonical cutStream where
  mem := by decide
  host := by decide
  h := by decide
  harts _ hh := absurd hh List.not_mem_nil
  past _ hg := absurd hg List.not_mem_nil

theorem cutStream_keepsTurn : cutStream.keepsTurn cutOp = true := by
  decide +kernel

/-- The strip of the first unit reads all its bytes, and leaves the thread's hart. -/
theorem cutStream_runUnit : (cutStream.runUnit cutOp).st = .ok ∧ (cutStream.runUnit cutOp).s.hart? cutOp.hart = some feeder := by
  decide +kernel

/-- The one window covers every range of W below its end. -/
theorem feeder_inWindows {x k : Nat} (h : x + k ≤ 0x6000) : feeder.t.scr.inWindows 0 x k = true := by
  by_cases hk : k = 0
  · subst hk
    unfold Scratch.inWindows Scratch.covers
    exact if_pos (Nat.le_refl x)
  · have hwin : feeder.t.scr.winAt 0 x = some { buf := 0, base := 0, len := 0x6000 } := by
      refine List.find?_cons_of_pos ?_
      rw [Bool.and_eq_true, Bool.and_eq_true, decide_eq_true_eq, decide_eq_true_eq]
      exact ⟨⟨rfl, Nat.zero_le x⟩, show x < 0 + 0x6000 by omega⟩
    unfold Scratch.inWindows Scratch.covers
    rw [if_neg (by omega), hwin]
    unfold Scratch.covers
    exact if_pos (show x + k ≤ 0 + 0x6000 by omega)

theorem feeder_readable : feeder.t.scr.readable 0 0 4096 :=
  fun _ _ _ hle => ⟨feeder_inWindows (by omega), rfl⟩

/-- The element lies at byte 0 of the view: its strides are zero. -/
theorem pattern_address (i : Nat) : wrapInt (((0 : Nat) : Int) + (affineOf pattern).offset (affineOf pattern).ss i) 64 = 0 := by
  have hss : (affineOf pattern).ss = [0, 0, 0, 0] := by decide
  rw [hss]
  simp [Affine.offset, Affine.index, wrapInt]

/-- Refutes O48: its clause for a strip of a stream keeps every field of the binding but the queue, and does not leave out an
operation whose cancel waits for the end of the unit (its clause for a block that a member supplies does, by `o.cut = false`). At
that end the cancel takes effect (R203), and the stream has the fault record of an operation that did not end done (R334). -/
theorem not_unitsComputeAndRetire : ¬ Obligations.UnitsComputeAndRetire := by
  unfold Obligations.UnitsComputeAndRetire
  intro h
  obtain ⟨-, -, -, -, -, -, -, hstream, -⟩ :=
    h cutStream cutOp feeder cutStream_canonical rfl rfl rfl cutStream_keepsTurn rfl
  obtain ⟨hrun, hhart⟩ := cutStream_runUnit
  obtain ⟨t, g, ht, hg, hfail⟩ := streamStrip_cut (s := cutStream) rfl rfl cutStream_keepsTurn (by decide) rfl rfl rfl (by decide)
    hrun hhart
  obtain ⟨u, hu, -, -, f, hf, hqueued⟩ := hstream 0 1 0 0 0 pattern rfl rfl (by decide) (by decide) rfl rfl (by decide) (by decide)
    fun i _ => by
      dsimp only
      rw [pattern_address]
      exact ⟨by decide, feeder_readable⟩
  obtain rfl := Host.Outcome.next.inj (ht.symm.trans hu)
  obtain rfl := Option.some.inj (hg.symm.trans hf)
  obtain ⟨im, him, -⟩ := hqueued 0 binding rfl rfl rfl
  have hrecord := hfail _ (List.mem_of_getElem? him) rfl rfl
  exact absurd hrecord (show binding.fail ≠ some 0 by decide)

end Sys2Proof.EngineUnits
end

section
/-! PROOFS. Thread moves: a thread number past the slots of a core, where an exited thread stands (R137, R170, R387): O50. -/

namespace Sys2Proof.CoreMoves

open Sys2Proof Sys2Proof.Machine

/-! ## A thread that moves to the number of an exited one -/

/-- A thread that waits for granules of W, at number 8 of core state 1. -/
def mover : Hart := { id := .thread 1 8, stat := .waiting (.space 0 0x6000), t := { task := { ctx := 1 } } }

/-- A thread of the same core state whose window takes all of W. -/
def holder : Hart :=
  { id := .thread 1 0, t := { task := { ctx := 1 }, scr := { wins := [{ buf := 0, base := 0, len := 0x300000 }] } } }

/-- A thread of core state 2 that has exited, at number 8. -/
def departed : Hart := { id := .thread 2 8, stat := .exited, t := { task := { ctx := 1 } } }

/-- An operation that it detached and that still runs. -/
def detached : Op :=
  { core := 2, slot := 5, gen := 0, thread := 8, task := 0, ctx := 1, kind := 2, prio := 0
    work := .cpy 0 0 0 0 0 0 192 0 0, st := .running, hold := 1 }

/-- The machine with these threads, about to move the first to number 8 of core state 2. -/
def namesakes : State where
  ev := [1, 8, 2, 8]
  h := departed
  harts := [mover, holder]
  work := {
    ctxs := [{ handle := 1, prio := 0, key := 0, dbg := false, hgrp := 0, pkgs := [0], regions := [] }]
    cores := [{ id := 1, tag := 1, ctx := 1, loc := .at 0 }, { id := 2, tag := 2, ctx := 1, loc := .at 1 }]
    phys := [{ n := 0, st := .held 1 }, { n := 1, st := .held 2 }]
    ops := [detached] }

theorem namesakes_canonical : Canonical namesakes where
  mem := by decide
  host := by decide
  h := by decide
  harts := by decide
  past _ hg := absurd hg List.not_mem_nil

theorem namesakes_mayMove : namesakes.mayMove mover = true := by
  decide +kernel

theorem namesakes_canReceive : namesakes.canReceive { core := 1, slot := 8, dst := 2, dslot := 8 } mover = true := by
  decide +kernel

/-- The first number past the slots that no order of issue has used is 8, so that the exited thread keeps the name that the moving
one takes (`State.vacate`), and stands before it. -/
theorem namesakes_threadMove :
    ∃ t, exec .threadMove namesakes = .next t ∧ (t.hart? (.thread 2 8)).map (·.stat) = some .exited :=
  ⟨_, rfl, by decide +kernel⟩

/-- Refutes O50: its clause for THREAD_MOVE takes the slot from the operands with no bound, where PLACEMENT's takes one of the
eight of a core (R170). Numbers from 8 on are those of exited threads whose detached operations still run (R137): such a thread at
the destination may keep its number, so that two threads bear the name of the one that moved. -/
theorem not_tasksArePlacedAndCoresMove : ¬ Obligations.TasksArePlacedAndCoresMove := by
  unfold Obligations.TasksArePlacedAndCoresMove
  intro h
  obtain ⟨-, -, -, -, -, -, -, -, -, -, -, hmove, -⟩ := h namesakes namesakes_canonical
  obtain ⟨t, ht, -, -, -, g, hg, -, -, hstat, -⟩ := hmove { id := 1, tag := 1, ctx := 1, loc := .at 0 } mover 0 rfl rfl rfl
    namesakes_mayMove rfl namesakes_canReceive (by decide +kernel) (by decide +kernel)
  obtain ⟨u, hu, hexited⟩ := namesakes_threadMove
  obtain rfl := Host.Outcome.next.inj (ht.symm.trans hu)
  have hg' : t.hart? (.thread 2 8) = some g := hg
  rw [hg', Option.map_some, hstat] at hexited
  cases hexited

end Sys2Proof.CoreMoves
end

section
/-! PROOFS. Halt groups: stops with their cross-triggers, run, step and debug writes (R403 to R407): O51. -/

namespace Sys2Proof.HaltGroups

open Sys2Proof Sys2Proof.Machine Sys2Proof.LatticeCells Sys2Proof.ThreadReplies

/-! ## Packages and their halt groups -/

theorem assocGet_assocSet_ne {α : Type} (d : α) {j k : Nat} (h : j ≠ k) (v : α) (l : List (Nat × α)) :
    assocGet d j (assocSet k v l) = assocGet d j l := by
  induction l with
  | nil => exact if_neg (Ne.symm h)
  | cons a l ih =>
    obtain ⟨i, w⟩ := a
    by_cases hik : i = k
    · subst hik
      rw [assocSet, if_pos rfl, assocGet, assocGet, if_neg (Ne.symm h), if_neg (Ne.symm h)]
    · rw [assocSet, if_neg hik, assocGet, assocGet, ih]

theorem pkg_setPkg (s : State) (p : Nat) (v : Pkg) (q : Nat) : (s.setPkg p v).pkg q = if q = p then v else s.pkg q := by
  by_cases h : q = p
  · subst h
    rw [if_pos rfl]
    exact assocGet_assocSet_same _ _ _ _
  · rw [if_neg h]
    exact assocGet_assocSet_ne _ h _ _

theorem group_eq_getD (s : State) (x : Nat) : s.group x = (s.pkg (x / 16)).halts.getD (x % 16) {} := by
  rw [State.group, List.getD_eq_getElem?_getD, Vector.getElem?_toList, Vector.getD, Array.getD_eq_getD_getElem?,
    Vector.getElem?_toArray]

/-- The halt groups once group `j` of package `p` has been replaced. -/
theorem group_setPkg_halts (s : State) (p j : Nat) (b : HaltGroup) (x : Nat) :
    (s.setPkg p { s.pkg p with halts := (s.pkg p).halts.setIfInBounds j b }).group x =
      if x / 16 = p ∧ x % 16 = j then b else s.group x := by
  rw [group_eq_getD, group_eq_getD, pkg_setPkg]
  by_cases hp : x / 16 = p
  · rw [if_pos hp, hp, getD_setIfInBounds]
    by_cases hj : x % 16 = j
    · rw [if_pos ⟨hj.symm, by omega⟩, if_pos ⟨rfl, hj⟩]
    · rw [if_neg (fun h => hj h.1.symm), if_neg (fun h => hj h.2)]
  · rw [if_neg hp, if_neg (fun h => hp h.1)]

theorem group_setGroup (s : State) (g : Nat) (b : HaltGroup) : (s.setGroup g b).group g = b :=
  (group_setPkg_halts s (g / 16) (g % 16) b g).trans (if_pos ⟨rfl, rfl⟩)

/-! ## Harts that halt (R404, R234) -/

/-- The write of one pending result. -/
def writeOne (h : Hart) (e : Pend) : Hart :=
  match e.later.or e.held with
  | some v => h.setRawReg e.reg v
  | none => h

theorem writePending_eq (h : Hart) : h.writePending =
    { (h.board.foldl writeOne h) with board := h.board.map (fun e => { e with held := none, later := none }) } :=
  rfl

/-- What no register write and no change of the scoreboard touches, writing the pending results leaves. -/
theorem writePending_keeps {α : Type} (f : Hart → α) (hreg : ∀ h r v, f (Hart.setRawReg h r v) = f h)
    (hboard : ∀ (h : Hart) b, f { h with board := b } = f h) (h : Hart) : f h.writePending = f h := by
  have hfold (l : List Pend) (g : Hart) : f (l.foldl writeOne g) = f g := by
    induction l generalizing g with
    | nil => rfl
    | cons e l ih =>
      rw [List.foldl_cons, ih, writeOne]
      cases e.later.or e.held with
      | none => rfl
      | some v => exact hreg g e.reg v
  rw [writePending_eq]
  exact (hboard _ _).trans (hfold h.board h)

/-- A hart whose registers all show their results has nothing to write. -/
theorem writePending_plain {h : Hart} (hp : h.Plain) : h.writePending = h := by
  have hfold (l : List Pend) (hl : ∀ e, e ∈ l → e.held = none ∧ e.later = none) : l.foldl writeOne h = h := by
    induction l with
    | nil => rfl
    | cons e l ih =>
      obtain ⟨hheld, hlater⟩ := hl e List.mem_cons_self
      rw [List.foldl_cons, writeOne, hheld, hlater]
      exact ih fun e he => hl e (List.mem_cons_of_mem _ he)
  have hboard : h.board.map (fun e => { e with held := none, later := none }) = h.board := by
    refine (List.map_congr_left fun e he => ?_).trans (List.map_id _)
    obtain ⟨hheld, hlater⟩ := hp e he
    obtain ⟨reg, left, old, held, later⟩ := e
    subst hheld hlater
    rfl
  rw [writePending_eq, hfold h.board hp, hboard]

/-- A hart that issues nothing: it neither is ready nor waits. -/
def Idle (h : Hart) : Prop := h.stat ≠ .ready ∧ ∀ w, h.stat ≠ .waiting w

theorem halt_idle (h : Hart) : Idle h.halt := by
  unfold Hart.halt
  cases hs : h.stat with
  | ready | waiting _ | stopped => exact ⟨ThreadStat.noConfusion, fun _ => ThreadStat.noConfusion⟩
  | halted _ _ | exited =>
    show Idle h
    rw [Idle, hs]
    exact ⟨ThreadStat.noConfusion, fun _ => ThreadStat.noConfusion⟩

theorem halt_halt (h : Hart) : h.halt.halt = h.halt := by
  cases hs : h.stat <;> simp [Hart.halt, hs]

/-- Halting keeps a hart's name, its pc and its task. -/
theorem halt_keeps (h : Hart) : h.halt.id = h.id ∧ h.halt.pc = h.pc ∧ h.halt.t.task = h.t.task := by
  have hw := writePending_keeps (fun h => (h.id, h.pc, h.t.task)) (fun h r v => by unfold Hart.setRawReg; cases r.file <;> rfl)
    (fun _ _ => rfl) h
  obtain ⟨hid, hw⟩ := Prod.mk.inj hw
  obtain ⟨hpc, htask⟩ := Prod.mk.inj hw
  unfold Hart.halt
  cases h.stat with
  | ready | waiting _ | stopped => exact ⟨hid, hpc, htask⟩
  | halted _ _ | exited => exact ⟨rfl, rfl, rfl⟩

/-- Membership in a halt group depends on the contexts, the places of the cores, and a hart's name and task. -/
theorem inGroup_congr {s t : State} (hctxs : t.work.ctxs = s.work.ctxs) (hcores : t.work.cores = s.work.cores) {h h' : Hart}
    (hid : h'.id = h.id) (htask : h'.t.task = h.t.task) (p g : Nat) : t.inGroup p g h' = s.inGroup p g h := by
  unfold State.inGroup Hart.isThread State.pkgOf HartId.pkg State.physOf State.core? State.ctx? Hart.task
  rw [hctxs, hcores, hid, htask]

/-- Every hart, after a change of all harts. -/
theorem mem_mapHarts {s : State} (f : Hart → Hart) {h : Hart} (hh : h ∈ s.h :: s.harts) :
    f h ∈ (s.mapHarts f).h :: (s.mapHarts f).harts :=
  List.mem_map_of_mem (f := f) hh

/-! ## What stops leave (R403) -/

/-- What stops of halt groups leave: memory, the contexts, the places of the cores, the host's memory, and of every hart all but
that it may have halted. -/
structure Halts (s t : State) : Prop where
  mem : t.mem = s.mem
  ctxs : t.work.ctxs = s.work.ctxs
  cores : t.work.cores = s.work.cores
  host : t.dev.host = s.dev.host
  harts : ∃ f : Hart → Hart, (∀ h, f h = h ∨ f h = h.halt) ∧ t.h = f s.h ∧ t.harts = s.harts.map f

namespace Halts

theorem refl (s : State) : Halts s s :=
  ⟨rfl, rfl, rfl, rfl, id, fun _ => .inl rfl, rfl, (List.map_id _).symm⟩

theorem trans {s t u : State} (a : Halts s t) (b : Halts t u) : Halts s u := by
  obtain ⟨f, hf, hfh, hfl⟩ := a.harts
  obtain ⟨f', hf', hfh', hfl'⟩ := b.harts
  refine ⟨b.mem.trans a.mem, b.ctxs.trans a.ctxs, b.cores.trans a.cores, b.host.trans a.host, f' ∘ f, fun h => ?_,
    by rw [hfh', hfh]; rfl, by rw [hfl', hfl, List.map_map]⟩
  show f' (f h) = h ∨ f' (f h) = h.halt
  rcases hf' (f h) with h2 | h2 <;> rcases hf h with h1 | h1 <;> rw [h2, h1]
  · exact .inl rfl
  · exact .inr rfl
  · exact .inr rfl
  · exact .inr (halt_halt h)

theorem foldl {α : Type} {f : State → α → State} (hf : ∀ s a, Halts s (f s a)) (l : List α) (s : State) :
    Halts s (l.foldl f s) := by
  induction l generalizing s with
  | nil => exact refl s
  | cons a l ih => exact (hf s a).trans (ih (f s a))

section
variable {s t : State} (a : Halts s t)
include a

theorem ctx? (c : Nat) : t.ctx? c = s.ctx? c := by
  unfold State.ctx?
  rw [a.ctxs]

/-- Each hart is as before or has halted. -/
theorem of_mem {h : Hart} (hh : h ∈ t.h :: t.harts) : ∃ g, g ∈ s.h :: s.harts ∧ (h = g ∨ h = g.halt) := by
  obtain ⟨f, hf, hfh, hfl⟩ := a.harts
  rw [hfh, hfl, ← List.map_cons, List.mem_map] at hh
  obtain ⟨g, hg, rfl⟩ := hh
  exact ⟨g, hg, hf g⟩

/-- The threads of a group that issue nothing still issue nothing. -/
theorem keepsIdle {p g : Nat} (hs : ∀ h, h ∈ s.h :: s.harts → s.inGroup p g h = true → Idle h) :
    ∀ h, h ∈ t.h :: t.harts → t.inGroup p g h = true → Idle h := by
  intro h hh hin
  obtain ⟨k, hk, rfl | rfl⟩ := a.of_mem hh
  · exact hs _ hk ((inGroup_congr a.ctxs a.cores rfl rfl p g).symm.trans hin)
  · exact halt_idle k

end

end Halts

/-! ## One stop -/

section
variable (s : State) (p g src sidx : Nat)

theorem stopOne_halts : Halts s (s.stopOne p g src sidx) := by
  refine ⟨rfl, rfl, rfl, rfl, _, fun h => ?_, rfl, rfl⟩
  split
  · exact .inr rfl
  · exact .inl rfl

theorem stopOne_group (x : Nat) : (s.stopOne p g src sidx).group x =
    if x / 16 = p ∧ x % 16 = g then { (s.pkg p).halts.getD g {} with stop := true, src := src, sidx := sidx % 16 } else s.group x :=
  group_setPkg_halts s p g _ x

/-- A thread of the group halts. -/
theorem stopOne_h (hin : s.inGroup p g s.h = true) : (s.stopOne p g src sidx).h = s.h.halt :=
  if_pos hin

/-- No thread of the group issues. -/
theorem stopOne_idle : ∀ h, h ∈ (s.stopOne p g src sidx).h :: (s.stopOne p g src sidx).harts →
    (s.stopOne p g src sidx).inGroup p g h = true → Idle h := by
  intro h hh hin
  obtain ⟨k, hk, rfl⟩ : ∃ k, k ∈ s.h :: s.harts ∧ (if s.inGroup p g k then k.halt else k) = h := List.mem_map.mp hh
  by_cases hk' : s.inGroup p g k = true
  · rw [if_pos hk']
    exact halt_idle k
  · rw [if_neg hk'] at hin
    exact absurd hin hk'

end

/-! ## Cross-triggers -/

theorem crossStop_halts (p fuel : Nat) (l : List Nat) (s : State) : Halts s (State.crossStop p fuel l s) := by
  induction fuel generalizing l s with
  | zero => exact Halts.refl s
  | succ n ih =>
    cases l with
    | nil => exact Halts.refl s
    | cons g l => exact (Halts.foldl (fun t j => stopOne_halts t p j 6 g) _ s).trans (ih _ _)

/-- Cross-triggers stop groups that are not stopped; a stopped one keeps its source. -/
theorem crossStop_group (p fuel : Nat) (l : List Nat) (s : State) {x : Nat} (hx : (s.group x).stop = true) :
    (State.crossStop p fuel l s).group x = s.group x := by
  induction fuel generalizing l s with
  | zero => rfl
  | succ n ih =>
    cases l with
    | nil => rfl
    | cons g l =>
      have hfold (new : List Nat) (hnew : ∀ j, j ∈ new → ¬ (x / 16 = p ∧ x % 16 = j)) (t : State) :
          (new.foldl (fun t j => t.stopOne p j 6 g) t).group x = t.group x := by
        induction new generalizing t with
        | nil => rfl
        | cons j new ihn =>
          rw [List.foldl_cons, ihn (fun i hi => hnew i (List.mem_cons_of_mem _ hi)), stopOne_group,
            if_neg (hnew j List.mem_cons_self)]
      have hkeep := hfold ((countFrom 0 16).filter
        (fun j => ((s.pkg p).halts.getD g {}).xmask.testBit j && !((s.pkg p).halts.getD j {}).stop)) (fun j hj => by
          rintro ⟨rfl, rfl⟩
          have hfree := (List.mem_filter.mp hj).2
          rw [← group_eq_getD, hx, Bool.not_true, Bool.and_false] at hfree
          exact Bool.false_ne_true hfree) s
      exact (ih _ _ (by rw [hkeep, hx])).trans hkeep

/-! ## The stop of a group -/

section
variable (s : State) (p g src sidx : Nat)

theorem stopGroup_halts : Halts s (s.stopGroup p g src sidx) :=
  (stopOne_halts s p g src sidx).trans (crossStop_halts p 17 [g] _)

/-- The group is stopped, with the source that the stop names (Table 16.7). -/
theorem stopGroup_group {x : Nat} (hp : x / 16 = p) (hg : x % 16 = g) : (s.stopGroup p g src sidx).group x =
    { (s.pkg p).halts.getD g {} with stop := true, src := src, sidx := sidx % 16 } := by
  have hone := (stopOne_group s p g src sidx x).trans (if_pos ⟨hp, hg⟩)
  exact (crossStop_group p 17 [g] _ (by rw [hone])).trans hone

theorem stopGroup_idle : ∀ h, h ∈ (s.stopGroup p g src sidx).h :: (s.stopGroup p g src sidx).harts →
    (s.stopGroup p g src sidx).inGroup p g h = true → Idle h :=
  (crossStop_halts p 17 [g] _).keepsIdle (stopOne_idle s p g src sidx)

/-- The issuing thread, if it is of the group, halts. -/
theorem stopGroup_h (hin : s.inGroup p g s.h = true) : (s.stopGroup p g src sidx).h = s.h.halt := by
  obtain ⟨f, hf, hfh, -⟩ := (crossStop_halts p 17 [g] (s.stopOne p g src sidx)).harts
  rw [stopOne_h s p g src sidx hin] at hfh
  rcases hf s.h.halt with h | h
  · exact hfh.trans h
  · exact (hfh.trans h).trans (halt_halt s.h)

end

/-! ## BREAKPOINT and HALT_GROUP_STOP (R403, R404) -/

theorem breakpoint_answers {s : State} {c : Ctx} {g i : Nat} (hc : s.ctx? s.h.task.ctx = some c) (hgrp : c.hgrp < 16)
    (hg : s.myGroup = some g) (hi : s.atBreakpoint = some i) (hr : s.h.stat = .ready) :
    Answers (exec .breakpoint s) fun t => SameMem s t ∧ (t.group g).stop = true ∧ (t.group g).src = 3 ∧ (t.group g).sidx = i ∧
      t.h.stat = .halted none false ∧ t.h.pc = s.h.pc := by
  have hexec : exec .breakpoint s = .next (s.stopGroup (g / 16) (g % 16) 3 i) := by
    show execBreakpoint s = _
    unfold execBreakpoint Hart.isHalted
    rw [hg, hi, hr]
    rfl
  have hi4 : i < 4 := by
    unfold State.atBreakpoint at hi
    split at hi
    · cases hi
    · rw [hg] at hi
      have hmem := List.mem_of_find?_eq_some hi
      rw [mem_countFrom] at hmem
      omega
  have hin : s.inGroup (g / 16) (g % 16) s.h = true := by
    unfold State.myGroup at hg
    rw [hc] at hg
    dsimp only at hg
    split at hg
    · next hthread =>
      rw [Bool.and_eq_true] at hthread
      obtain ⟨hthread, hdbg⟩ := hthread
      have hsum := Option.some.inj hg
      have hpkg : g / 16 = s.pkgOf s.h := by omega
      have hnum : g % 16 = c.hgrp := by omega
      unfold State.inGroup
      rw [hc, hthread, hpkg, hnum, beq_self_eq_true]
      show (c.dbg && c.hgrp == c.hgrp) = true
      rw [hdbg, beq_self_eq_true]
      rfl
    · cases hg
  have hgroup := stopGroup_group s (g / 16) (g % 16) 3 i rfl rfl
  have hh := stopGroup_h s (g / 16) (g % 16) 3 i hin
  refine ⟨_, hexec, fun a => by rw [(stopGroup_halts s _ _ _ _).mem], by rw [hgroup], by rw [hgroup], ?_, ?_, ?_⟩
  · rw [hgroup]
    exact Nat.mod_eq_of_lt (by omega)
  · rw [hh, Hart.halt, hr]
  · rw [hh]
    exact (halt_keeps s.h).2.1

theorem haltGroupStop_answers {s : State} (hs : (s.group (s.evArg 0)).stop = false) :
    Answers (exec .haltGroupStop s) fun t => SameMem s t ∧ (t.group (s.evArg 0)).stop = true ∧ (t.group (s.evArg 0)).src = 1 ∧
      ∀ h, h ∈ t.h :: t.harts → t.inGroup (s.evArg 0 / 16) (s.evArg 0 % 16) h = true → Idle h := by
  have hgroup := stopGroup_group s (s.evArg 0 / 16) (s.evArg 0 % 16) 1 0 rfl rfl
  refine ⟨s.stopGroup (s.evArg 0 / 16) (s.evArg 0 % 16) 1 0, ?_, fun a => by rw [(stopGroup_halts s _ _ _ _).mem], by rw [hgroup],
    by rw [hgroup], stopGroup_idle s _ _ 1 0⟩
  show execHaltGroupStop s = _
  unfold execHaltGroupStop
  dsimp only
  rw [hs]
  rfl

/-! ## HALT_GROUP_RUN and HALT_GROUP_STEP (R406) -/

/-- A hart of the group, after a change of the group's harts. -/
theorem mem_mapGroup {s : State} {g : Nat} (f : Hart → Hart) {h : Hart} (hh : h ∈ s.h :: s.harts)
    (hin : s.inGroup (g / 16) (g % 16) h = true) : f h ∈ (s.mapGroup g f).h :: (s.mapGroup g f).harts := by
  have hmem := mem_mapHarts (fun h => if s.inGroup (g / 16) (g % 16) h then f h else h) hh
  rwa [if_pos hin] at hmem

/-- The same after a change of the group's control block. -/
theorem mem_mapGroup_setGroup {s : State} {g : Nat} (b : HaltGroup) (f : Hart → Hart) {h : Hart} (hh : h ∈ s.h :: s.harts)
    (hin : s.inGroup (g / 16) (g % 16) h = true) :
    f h ∈ ((s.setGroup g b).mapGroup g f).h :: ((s.setGroup g b).mapGroup g f).harts :=
  mem_mapGroup (s := s.setGroup g b) f hh hin

theorem haltGroupRun_eq {s : State} (hs : (s.group (s.evArg 0)).stop = true) :
    exec .haltGroupRun s = .next (s.runAll (s.evArg 0)) := by
  show execHaltGroupRun s = _
  unfold execHaltGroupRun
  dsimp only
  rw [if_pos hs]

theorem releaseHart_ready {s : State} {h : Hart} {b : Bool} (hs : s.willStop h.task.ctx = false) (hh : h.stat = .halted none b) :
    s.releaseHart h = { h with stat := .ready, pass := true } := by
  unfold State.releaseHart Hart.release
  rw [hs, hh]
  rfl

theorem releaseHart_waiting {s : State} {h : Hart} {w : WaitOn} {b : Bool} (hs : s.willStop h.task.ctx = false)
    (hh : h.stat = .halted (some w) b) : s.releaseHart h = { h with stat := .waiting w, pass := true } := by
  unfold State.releaseHart Hart.release
  rw [hs, hh]
  rfl

theorem runAll_group (s : State) (g : Nat) : ((s.runAll g).group g).stop = false :=
  congrArg HaltGroup.stop (group_setGroup s g { s.group g with stop := false })

theorem haltGroupRun_answers {s : State} (hs : (s.group (s.evArg 0)).stop = true) :
    Answers (exec .haltGroupRun s) fun t => SameMem s t ∧ (t.group (s.evArg 0)).stop = false ∧
      ∀ h, h ∈ s.h :: s.harts → s.inGroup (s.evArg 0 / 16) (s.evArg 0 % 16) h = true → s.willStop h.task.ctx = false →
        (∀ b, h.stat = .halted none b → { h with stat := .ready, pass := true } ∈ t.h :: t.harts) ∧
        (∀ w b, h.stat = .halted (some w) b → { h with stat := .waiting w, pass := true } ∈ t.h :: t.harts) := by
  refine ⟨_, haltGroupRun_eq hs, fun _ => rfl, runAll_group s _, fun h hh hin hstop => ?_⟩
  have hmem : s.releaseHart h ∈ (s.runAll (s.evArg 0)).h :: (s.runAll (s.evArg 0)).harts :=
    mem_mapGroup_setGroup { s.group (s.evArg 0) with stop := false } s.releaseHart hh hin
  refine ⟨fun b hb => ?_, fun w b hb => ?_⟩
  · rwa [releaseHart_ready hstop hb] at hmem
  · rwa [releaseHart_waiting hstop hb] at hmem

/-- With no reply in the network none waits for the group. -/
theorem takeReplies_none (g n : Nat) {s : State} (h : ∀ m, m ∈ s.lat.net → m.body.isReply = false) :
    State.takeReplies g n s = s := by
  have hheld : s.heldReply g = none := by
    refine List.find?_eq_none.mpr fun i _ hi => ?_
    rw [Bool.and_eq_true, Option.any_eq_true] at hi
    obtain ⟨-, m, hm, hreply⟩ := hi
    rw [h m (List.mem_of_getElem? hm)] at hreply
    exact Bool.false_ne_true hreply
  cases n with
  | zero => rfl
  | succ n =>
    unfold State.takeReplies
    rw [hheld]

/-- A thread that a release and a new stop leave halted, at the place where it was, issues one group, also in a context that is to
stop. -/
theorem step1_halt_releaseHart {s u : State} {h : Hart} {b : Bool} (hp : h.Plain) (hh : h.stat = .halted none b) :
    u.step1 { (s.releaseHart h).halt with pass := false } = { h with stat := .halted none true, pass := true } := by
  have hrel : ∃ st, (st = .ready ∨ st = .stopped) ∧ s.releaseHart h = { h with stat := st, pass := true } := by
    unfold State.releaseHart Hart.release
    rw [hh]
    cases s.willStop h.task.ctx with
    | false => exact ⟨_, .inl rfl, rfl⟩
    | true => exact ⟨_, .inr rfl, rfl⟩
  obtain ⟨st, hst, hrel⟩ := hrel
  have hplain : ({ h with stat := st, pass := true } : Hart).writePending = { h with stat := st, pass := true } :=
    writePending_plain hp
  rw [hrel]
  rcases hst with rfl | rfl
  · unfold Hart.halt
    dsimp only
    rw [hplain]
    rfl
  · unfold Hart.halt
    dsimp only
    rw [hplain]
    rfl

theorem haltGroupStep_answers {s : State} (hs : (s.group (s.evArg 0)).stop = true)
    (hnet : ∀ m, m ∈ s.lat.net → m.body.isReply = false) :
    Answers (exec .haltGroupStep s) fun t => SameMem s t ∧ (t.group (s.evArg 0)).stop = true ∧
      ∀ h, h ∈ s.h :: s.harts → s.inGroup (s.evArg 0 / 16) (s.evArg 0 % 16) h = true → h.Plain → ∀ b, h.stat = .halted none b →
        { h with stat := .halted none true, pass := true } ∈ t.h :: t.harts := by
  have hsettle : s.settleReplies (s.evArg 0) =
      { ((s.runAll (s.evArg 0)).setGroup (s.evArg 0) { (s.runAll (s.evArg 0)).group (s.evArg 0) with stop := true }).mapGroup (s.evArg 0)
        (fun h => { h.halt with pass := false }) with ev := s.ev } := by
    unfold State.settleReplies
    rw [takeReplies_none (s.evArg 0) s.lat.net.length (s := s.runAll (s.evArg 0)) hnet]
  have hexec : exec .haltGroupStep s =
      .next ((s.settleReplies (s.evArg 0)).mapGroup (s.evArg 0) (s.settleReplies (s.evArg 0)).step1) := by
    show execHaltGroupStep s = _
    unfold execHaltGroupStep
    dsimp only
    rw [if_pos hs]
  refine ⟨_, hexec, ?_, ?_, fun h hh hin hp b hb => ?_⟩
  · rw [hsettle]
    exact fun _ => rfl
  · rw [hsettle]
    exact congrArg HaltGroup.stop (group_setGroup (s.runAll (s.evArg 0)) _ _)
  · have hkeep : (s.releaseHart h).id = h.id ∧ (s.releaseHart h).t.task = h.t.task := by
      unfold State.releaseHart Hart.release
      rw [hb]
      cases s.willStop h.task.ctx <;> exact ⟨rfl, rfl⟩
    obtain ⟨hid, -, htask⟩ := halt_keeps (s.releaseHart h)
    have hrun : s.releaseHart h ∈ (s.runAll (s.evArg 0)).h :: (s.runAll (s.evArg 0)).harts :=
      mem_mapGroup_setGroup { s.group (s.evArg 0) with stop := false } s.releaseHart hh hin
    have hstop := mem_mapGroup_setGroup { (s.runAll (s.evArg 0)).group (s.evArg 0) with stop := true }
      (fun h => { h.halt with pass := false }) hrun ((inGroup_congr rfl rfl hkeep.1 hkeep.2 _ _).trans hin)
    have hin2 : (s.settleReplies (s.evArg 0)).inGroup (s.evArg 0 / 16) (s.evArg 0 % 16) { (s.releaseHart h).halt with pass := false } =
        true := by
      rw [hsettle]
      exact (inGroup_congr rfl rfl (hid.trans hkeep.1) (htask.trans hkeep.2) _ _).trans hin
    have hstep := mem_mapGroup (s := s.settleReplies (s.evArg 0)) (s.settleReplies (s.evArg 0)).step1
      (by rw [hsettle]; exact hstop) hin2
    rwa [step1_halt_releaseHart hp hb] at hstep

end Sys2Proof.HaltGroups
end

section
/-! PROOFS. Contexts: fault records, stop, completion, sweeps and debug writes (R184, R187, R188, R396 to R398, R407): O51. -/

namespace Sys2Proof.ContextEnds

open Sys2Proof Sys2Proof.Machine Sys2Proof.LatticeCells Sys2Proof.ThreadReplies Sys2Proof.HaltGroups

/-! ## A context after a change -/

/-- A context after a change that keeps its handle. -/
theorem ctx?_updCtx {s : State} {c : Nat} {x : Ctx} {f : Ctx → Ctx} (hc : s.ctx? c = some x)
    (hf : ∀ y, (f y).handle = y.handle) : (s.updCtx c f).ctx? c = some (f x) := by
  have hx : (x.handle == c) = true := List.find?_some (p := fun y : Ctx => y.handle == c) hc
  have hfind : (s.updCtx c f).ctx? c = (s.ctx? c).map (fun y => if y.handle == c then f y else y) :=
    find?_updWhere _ _ _ _ (fun y _ => by rw [hf])
  rw [hfind, hc, Option.map_some, if_pos hx]

/-! ## CONTEXT_FAULT_RECORD (R396, R398) -/

theorem onFault_halts (s : State) (c : Nat) (r : List Nat) : Halts s (s.onFault c r) := by
  unfold State.onFault
  split
  · dsimp only
    split
    · exact stopGroup_halts s _ _ _ _
    · exact Halts.refl s
  · exact Halts.refl s

theorem stopIssue_idle (h : Hart) : Idle h.stopIssue := by
  unfold Hart.stopIssue
  cases hs : h.stat with
  | ready | waiting _ => exact ⟨ThreadStat.noConfusion, fun _ => ThreadStat.noConfusion⟩
  | stopped | halted _ _ | exited =>
    show Idle h
    rw [Idle, hs]
    exact ⟨ThreadStat.noConfusion, fun _ => ThreadStat.noConfusion⟩

theorem stopCtx_ctx? {s : State} {c : Nat} {x : Ctx} (hc : s.ctx? c = some x) :
    (s.stopCtx c).ctx? c = some { x with stopping := true } :=
  ctx?_updCtx hc fun _ => rfl

/-- No thread of a stopping context issues. -/
theorem stopCtx_idle (s : State) (c : Nat) : ∀ h, h ∈ (s.stopCtx c).h :: (s.stopCtx c).harts → h.isThread = true →
    h.task.ctx = c → Idle h := by
  intro h hh hthread hctx
  obtain ⟨k, -, rfl⟩ : ∃ k, k ∈ s.h :: s.harts ∧ (if k.isThread && k.task.ctx == c then k.stopIssue else k) = h :=
    List.mem_map.mp hh
  by_cases hk : (k.isThread && k.task.ctx == c) = true
  · rw [if_pos hk]
    exact stopIssue_idle k
  · rw [if_neg hk] at hthread hctx
    exact absurd (by rw [hthread, hctx, beq_self_eq_true]; rfl) hk

/-- A state in which the oldest pending record `r` of context `n` has been appended; `rest` stay pending. -/
def recorded (s : State) (n : Nat) (r : List Nat) (rest : List (List Nat × Bool)) : State :=
  (s.updCtx n (fun x => ({ x with pend := rest } : Ctx).append r)).onFault n r

theorem recorded_halts (s : State) (n : Nat) (r : List Nat) (rest : List (List Nat × Bool)) :
    Halts (s.updCtx n (fun x => ({ x with pend := rest } : Ctx).append r)) (recorded s n r rest) :=
  onFault_halts _ n r

theorem recorded_ctx? {s : State} {n : Nat} {c : Ctx} (hc : s.ctx? n = some c) (r : List Nat) (rest : List (List Nat × Bool)) :
    (recorded s n r rest).ctx? n = some (({ c with pend := rest } : Ctx).append r) :=
  ((recorded_halts s n r rest).ctx? n).trans (ctx?_updCtx hc fun _ => rfl)

theorem contextFaultRecord_eq {s : State} {c : Ctx} (hc : s.ctx? (s.evArg 0) = some c) {r : List Nat} {stop : Bool}
    {rest : List (List Nat × Bool)} (hpend : c.pend = (r, stop) :: rest) : exec .contextFaultRecord s =
      .next (if stop then (recorded s (s.evArg 0) r rest).stopCtx (s.evArg 0) else recorded s (s.evArg 0) r rest) := by
  show execContextFaultRecord s = _
  unfold execContextFaultRecord
  dsimp only
  rw [hc]
  dsimp only
  rw [hpend]
  rfl

theorem contextFaultRecord_answers {s : State} {c : Ctx} (hc : s.ctx? (s.evArg 0) = some c) {r : List Nat} {stop : Bool}
    {rest : List (List Nat × Bool)} (hpend : c.pend = (r, stop) :: rest) :
    Answers (exec .contextFaultRecord s) fun t => SameMem s t ∧
      ∃ y, t.ctx? (s.evArg 0) = some y ∧ y.pend = rest ∧ y.nfault = (c.nfault + 1) % 2 ^ 32 ∧
        y.log = (if c.log.length < 4096 then c.log ++ [r.set 0 (nth r 0 + c.log.length)] else c.log) ∧
        (stop = true → y.stopping = true ∧ ∀ h, h ∈ t.h :: t.harts → h.isThread = true → h.task.ctx = s.evArg 0 → Idle h) := by
  refine ⟨_, contextFaultRecord_eq hc hpend, ?_⟩
  have hctx := recorded_ctx? hc r rest
  have hmem : SameMem s (recorded s (s.evArg 0) r rest) := fun a => congrArg (Mem.read · a) (recorded_halts s _ r rest).mem
  cases stop with
  | false => exact ⟨hmem, _, hctx, rfl, rfl, rfl, Bool.noConfusion⟩
  | true => exact ⟨hmem, _, stopCtx_ctx? hctx, rfl, rfl, rfl, fun _ => ⟨rfl, stopCtx_idle _ _⟩⟩

/-! ## CONTEXT_STOPPED and CONTEXT_COMPLETE (R184, R397, R398) -/

/-- The notification of context `y` with handle `n` stands at `a` of the host's memory, whose other bytes are as in `m`. -/
def Notified (m : List Host.Cell) (t : State) (n a : Nat) (y : Ctx) : Prop :=
  Mem.readN t.dev.host a 8 = n % 2 ^ 64 ∧ Mem.readN t.dev.host (a + 8) 8 = t.statusWord y % 2 ^ 64 ∧
    SameOutside m t.dev.host a 16

/-- Two words written to a memory read back, and every other byte is as before. -/
theorem writeWords_pair {m : List Host.Cell} (hm : Mem.wf m = true) (a v w : Nat) :
    Mem.readN (Mem.writeWords m a [v, w]) a 8 = v % 2 ^ 64 ∧ Mem.readN (Mem.writeWords m a [v, w]) (a + 8) 8 = w % 2 ^ 64 ∧
      SameOutside m (Mem.writeWords m a [v, w]) a 16 := by
  have hw := Mem.writeN_wf hm a 8 v
  have hpow : (256 : Nat) ^ 8 = 2 ^ 64 := by norm_num
  rw [Mem.writeWords, Mem.writeWords, Mem.writeWords, ← hpow]
  refine ⟨?_, Mem.readN_writeN hw (a + 8) 8 w, fun b hb => ?_⟩
  · rw [Mem.readN_writeN_out hw (a + 8) 8 w a 8 (.inl (le_refl _)), Mem.readN_writeN hm]
  · rw [Mem.read_writeN_out hw (a + 8) 8 w (by omega), Mem.read_writeN_out hm a 8 v (by omega)]

/-- The status word does not depend on host memory. -/
theorem statusWord_hostPut (s : State) (a : Nat) (l : List Nat) (y : Ctx) : (s.hostPut a l).statusWord y = s.statusWord y := by
  unfold State.statusWord
  rfl

theorem hostPut_host (s : State) (a : Nat) (l : List Nat) : (s.hostPut a l).dev.host = Mem.writeWords s.dev.host a l := rfl

/-- A notification writes the handle and the status word. -/
theorem notify_notified {s : State} {n : Nat} {y : Ctx} (hhost : Mem.wf s.dev.host = true) (hy : s.ctx? n = some y) :
    Notified s.dev.host (s.notify n) n y.compl y := by
  have hput : s.notify n = s.hostPut y.compl [n, s.statusWord y] := by
    unfold State.notify
    rw [hy]
  rw [hput, Notified, statusWord_hostPut, hostPut_host]
  exact writeWords_pair hhost y.compl n (s.statusWord y)

/-- A notification leaves DRAM and the contexts. -/
theorem notify_keeps (s : State) (n : Nat) : (s.notify n).mem = s.mem ∧ (s.notify n).work = s.work := by
  unfold State.notify
  cases s.ctx? n with
  | none => exact ⟨rfl, rfl⟩
  | some y => exact ⟨State.hostPut_mem _ _ _, State.hostPut_work _ _ _⟩

theorem notify_ctx? (s : State) (n : Nat) : (s.notify n).ctx? n = s.ctx? n := by
  unfold State.ctx?
  rw [(notify_keeps s n).2]

theorem contextStopped_answers {s : State} (hcan : Canonical s) {c : Ctx} (hc : s.ctx? (s.evArg 0) = some c)
    (hstopping : c.stopping = true) (hstopped : c.stopped = false) (hdone : c.done = false)
    (hhalted : s.anyHalted (s.evArg 0) = false) (hflight : s.inFlight (s.evArg 0) = false) (hmoving : s.moving (s.evArg 0) = false) :
    Answers (exec .contextStopped s) fun t => SameMem s t ∧ t.ctx? (s.evArg 0) = some { c with stopped := true } ∧
      Notified s.dev.host t (s.evArg 0) c.compl { c with stopped := true } := by
  have hctx := ctx?_updCtx (f := fun x => { x with stopped := true }) hc fun _ => rfl
  have hexec : exec .contextStopped s =
      .next ((s.updCtx (s.evArg 0) (fun x => { x with stopped := true })).notify (s.evArg 0)) := by
    show execContextStopped s = _
    unfold execContextStopped
    dsimp only
    rw [hc]
    dsimp only
    rw [hstopping, hstopped, hdone, hhalted, hflight, hmoving]
    rfl
  refine ⟨_, hexec, fun a => ?_, (notify_ctx? _ _).trans hctx, ?_⟩
  · rw [(notify_keeps _ _).1]
    rfl
  · exact notify_notified (s := s.updCtx (s.evArg 0) (fun x => { x with stopped := true })) hcan.host hctx

/-- Records appended to a fault log leave the context's handle and where it is notified. -/
theorem foldl_append_keeps (rs : List (List Nat)) (c : Ctx) :
    (rs.foldl Ctx.append c).handle = c.handle ∧ (rs.foldl Ctx.append c).compl = c.compl := by
  induction rs generalizing c with
  | nil => exact ⟨rfl, rfl⟩
  | cons r rs ih => exact ih (c.append r)

theorem contextComplete_answers {s : State} (hcan : Canonical s) {c : Ctx} (hc : s.ctx? (s.evArg 0) = some c)
    (hcomplete : s.isComplete (s.evArg 0) = true) :
    Answers (exec .contextComplete s) fun t => SameMem s t ∧ ∃ y, t.ctx? (s.evArg 0) = some y ∧ y.done = true ∧
      (s.orphanRecords (s.evArg 0) = [] → y = { c with done := true }) ∧ Notified s.dev.host t (s.evArg 0) c.compl y := by
  generalize hrs : s.orphanRecords (s.evArg 0) = rs
  have hctx := ctx?_updCtx (f := fun x => { rs.foldl Ctx.append x with done := true }) hc
    fun x => (foldl_append_keeps rs x).1
  have hhalts := Halts.foldl (fun u r => onFault_halts u (s.evArg 0) r) rs
    (s.updCtx (s.evArg 0) (fun x => { rs.foldl Ctx.append x with done := true }))
  have hctx' := (hhalts.ctx? (s.evArg 0)).trans hctx
  have hexec : exec .contextComplete s = .next ((rs.foldl (fun u r => u.onFault (s.evArg 0) r)
      (s.updCtx (s.evArg 0) (fun x => { rs.foldl Ctx.append x with done := true }))).notify (s.evArg 0)) := by
    show execContextComplete s = _
    unfold execContextComplete
    dsimp only
    rw [if_pos hcomplete, hrs]
  have hnote := notify_notified (by rw [hhalts.host]; exact hcan.host) hctx'
  rw [hhalts.host] at hnote
  refine ⟨_, hexec, fun a => ?_, _, (notify_ctx? _ _).trans hctx', rfl, fun h => ?_, ?_⟩
  · rw [(notify_keeps _ _).1, hhalts.mem]
    rfl
  · rw [h]
    rfl
  · rw [← (foldl_append_keeps rs c).2]
    exact hnote

/-! ## QUIESCENCE_SWEEP (R187, R188) -/

theorem raise_ctx? {s : State} {n : Nat} {c : Ctx} (hc : s.ctx? n = some c) (r : List Nat) (stop : Bool) :
    (s.raise n r stop).ctx? n = some { c with pend := c.pend ++ [(r, stop)] } :=
  ctx?_updCtx hc fun _ => rfl

/-- Several faults that do not stop the context, raised in turn. -/
theorem foldl_raise_ctx? (n : Nat) (l : List (List Nat)) {s : State} {c : Ctx} (hc : s.ctx? n = some c) :
    (l.foldl (fun t r => t.raise n r false) s).ctx? n = some { c with pend := c.pend ++ l.map (·, false) } := by
  induction l generalizing s c with
  | nil => rwa [List.foldl_nil, List.map_nil, List.append_nil]
  | cons r l ih => rw [List.foldl_cons, ih (raise_ctx? hc r false), List.append_assoc, List.map_cons, List.singleton_append]

/-- The deadlock fault with its report is pending after what was. -/
theorem raiseDeadlock_ctx? {s : State} {n : Nat} {c : Ctx} (hc : s.ctx? n = some c) : (s.raiseDeadlock n).ctx? n =
    some { c with pend := c.pend ++ [([6 * 2 ^ 56 + c.home * 2 ^ 38, 0, 0, 0, 0, (s.deadReport n).length,
      min (s.deadReport n).length 256, 0], true)] ++ ((s.deadReport n).take 256).map (·, false) } := by
  unfold State.raiseDeadlock
  rw [hc]
  exact foldl_raise_ctx? n _ (raise_ctx? hc _ true)

theorem raiseDeadlock_mem (s : State) (n : Nat) : (s.raiseDeadlock n).mem = s.mem :=
  ((reports_raise s n _ true).trans (reports_foldl _ (fun t r => reports_raise t n r false) _ _)).mem

/-- A sweep starts only when no record is pending. -/
theorem pend_of_maySweep {s : State} {n : Nat} {c : Ctx} (hc : s.ctx? n = some c) (hsweep : s.maySweep n = true) : c.pend = [] := by
  unfold State.maySweep at hsweep
  rw [hc] at hsweep
  simp only [Bool.and_eq_true] at hsweep
  exact List.isEmpty_iff.mp hsweep.1.1.2

section
variable {s : State} {c : Ctx} (hc : s.ctx? (s.evArg 0) = some c) (hsweep : s.maySweep (s.evArg 0) = true)
  (hquiet : s.quiescent (s.evArg 0) = true) (hplace : s.placePending (s.evArg 0) = false) (hmoving : s.moving (s.evArg 0) = false)
include hc hsweep hquiet hplace hmoving

theorem quiescenceSweep_open (hopen : s.inputsOpen (s.evArg 0) = true) :
    Answers (exec .quiescenceSweep s) fun t => SameMem s t ∧ t.ctx? (s.evArg 0) = some { c with quiet := true } := by
  refine ⟨s.updCtx (s.evArg 0) (fun x => { x with quiet := true }), ?_, fun _ => rfl, ctx?_updCtx hc fun _ => rfl⟩
  show execQuiescenceSweep s = _
  unfold execQuiescenceSweep
  dsimp only
  rw [hsweep, hquiet, hplace, hmoving, hopen]
  rfl

theorem quiescenceSweep_deadlock (hopen : s.inputsOpen (s.evArg 0) = false) (hcomplete : s.isComplete (s.evArg 0) = false) :
    Answers (exec .quiescenceSweep s) fun t => SameMem s t ∧ ∃ y, t.ctx? (s.evArg 0) = some y ∧
      y.pend.head? = some ([6 * 2 ^ 56 + c.home * 2 ^ 38, 0, 0, 0, 0, (s.deadReport (s.evArg 0)).length,
        min (s.deadReport (s.evArg 0)).length 256, 0], true) ∧
      y.pend.length = 1 + min (s.deadReport (s.evArg 0)).length 256 := by
  have hexec : exec .quiescenceSweep s = .next (s.raiseDeadlock (s.evArg 0)) := by
    show execQuiescenceSweep s = _
    unfold execQuiescenceSweep
    dsimp only
    rw [hsweep, hquiet, hplace, hmoving, hopen, hcomplete]
    rfl
  refine ⟨_, hexec, fun a => by rw [raiseDeadlock_mem], _, raiseDeadlock_ctx? hc, ?_, ?_⟩
  · rw [pend_of_maySweep hc hsweep]
    rfl
  · rw [pend_of_maySweep hc hsweep, List.nil_append, List.length_append, List.length_map, List.length_take, Nat.min_comm]
    rfl

end

/-! ## DEBUG_REGISTER_WRITE (R407) -/

theorem putHart_work (s : State) (h : Hart) : (s.putHart h).work = s.work := by
  unfold State.putHart
  split
  · rfl
  · split <;> rfl

theorem reports_setDetrel (s : State) (n : Nat) : Reports s (s.setDetrel n) := by
  unfold State.setDetrel
  split
  · exact Reports.refl s
  · split
    · exact Reports.refl s
    · exact ⟨rfl, rfl, rfl, ⟨_, _, rfl⟩, rfl, isStopping_updCtx s n _ (fun _ => rfl) (fun _ => rfl)⟩

theorem setDetrel_detrel {s : State} {n : Nat} {c : Ctx} (hc : s.ctx? n = some c) :
    ∃ y, (s.setDetrel n).ctx? n = some y ∧ y.detrel = true := by
  unfold State.setDetrel
  rw [hc]
  dsimp only
  by_cases hd : c.detrel = true
  · exact ⟨c, by rw [if_pos hd]; exact hc, hd⟩
  · exact ⟨{ c with detrel := true }, by rw [if_neg hd]; exact ctx?_updCtx hc fun _ => rfl, rfl⟩

/-- The operand that names register `r` in a debug write (log 28). -/
theorem debugPut_reg (h : Hart) (r : Fin 32) (v : Nat) :
    h.debugPut (r.val / 2 ^ 32) (r.val % 2 ^ 32) v = h.setX r (BitVec.ofNat 64 v) := by
  have hkind : r.val / 2 ^ 32 = 0 := Nat.div_eq_of_lt (by omega)
  have hidx : r.val % 2 ^ 32 = r.val := Nat.mod_eq_of_lt (by omega)
  have hreg : Fin.ofNat 32 r.val = r := Fin.ext (Nat.mod_eq_of_lt r.isLt)
  rw [hkind, hidx]
  exact congrArg (fun q => h.setX q (BitVec.ofNat 64 v)) hreg

/-- A stored scalar register after a write: the write of x0 is discarded (R224). -/
theorem x_setX (h : Hart) (r q : Fin 32) (v : Word) : (h.setX r v).x[q] = if q = r ∧ r ≠ 0 then v else h.x[q] := by
  unfold Hart.setX
  by_cases hr : r = 0
  · rw [if_pos hr, if_neg (fun h => h.2 hr)]
  · rw [if_neg hr]
    by_cases hq : q = r
    · subst hq
      rw [if_pos ⟨rfl, hr⟩]
      exact Vector.getElem_set_self q.isLt
    · rw [if_neg (fun h => hq h.1)]
      exact Vector.getElem_set_ne r.isLt q.isLt (fun h => hq (Fin.ext h.symm))

/-- Writing a scalar register keeps the rest of the hart. -/
theorem setX_keeps (h : Hart) (r : Fin 32) (v : Word) :
    (h.setX r v).id = h.id ∧ (h.setX r v).pc = h.pc ∧ (h.setX r v).stat = h.stat ∧ (h.setX r v).t = h.t := by
  unfold Hart.setX
  split <;> exact ⟨rfl, rfl, rfl, rfl⟩

/-- A debug write to a halted thread leaves the hart `g` that it makes, and sets DETREL. -/
theorem debugRegisterWrite_wrote {s : State} {h : Hart} (hh : s.hart? (.thread (s.evArg 0) (s.evArg 1)) = some h)
    (hhalted : h.isHalted = true) (hdbg : h.task.dbg = true) (hlater : h.t.post.later = []) {g : Hart}
    (hput : h.debugPut (s.evArg 2 / 2 ^ 32) (s.evArg 2 % 2 ^ 32) (s.evArg 3) = g) (hid : g.id = h.id)
    (hpost : g.t.post = h.t.post) :
    Answers (exec .debugRegisterWrite s) fun t => SameMem s t ∧ t.hart? (.thread (s.evArg 0) (s.evArg 1)) = some g ∧
      ∀ x, s.ctx? h.task.ctx = some x → ∃ y, t.ctx? h.task.ctx = some y ∧ y.detrel = true := by
  have hreports := reports_setDetrel s h.task.ctx
  have hd : (s.setDetrel h.task.ctx).hart? (.thread (s.evArg 0) (s.evArg 1)) = some h := (hreports.hart? _).trans hh
  have hg : ((s.setDetrel h.task.ctx).putHart g).hart? (.thread (s.evArg 0) (s.evArg 1)) = some g := by
    rw [← hart?_thread_id hh, ← hid]
    exact hart?_putHart _ g
  have hexec : exec .debugRegisterWrite s = .next ((s.setDetrel h.task.ctx).putHart g) := by
    show execDebugRegisterWrite s = _
    unfold execDebugRegisterWrite
    dsimp only
    rw [hh]
    dsimp only
    rw [hhalted, hdbg, Bool.and_self, if_pos rfl, updHart_eq hd, hput, flushAt_idle hg (by rw [hpost, hlater])]
  refine ⟨_, hexec, fun a => by rw [putHart_mem, hreports.mem], hg, fun x hx => ?_⟩
  obtain ⟨y, hy, hdet⟩ := setDetrel_detrel hx
  refine ⟨y, ?_, hdet⟩
  unfold State.ctx? at hy ⊢
  rwa [putHart_work]

theorem debugRegisterWrite_running {s : State} {h : Hart} (hh : s.hart? (.thread (s.evArg 0) (s.evArg 1)) = some h)
    (hhalted : h.isHalted = false) : exec .debugRegisterWrite s = .next s := by
  show execDebugRegisterWrite s = _
  unfold execDebugRegisterWrite
  dsimp only
  rw [hh]
  dsimp only
  rw [hhalted]
  rfl

/-! ## The obligation -/

/-- Settles O51: the faults, stops and sweeps of a context by what its list of contexts and the stops of halt groups leave, and
the halt groups by what each stop does to the harts of a group. -/
theorem contextsStopAndHaltGroupsRun : Obligations.ContextsStopAndHaltGroupsRun := by
  unfold Obligations.ContextsStopAndHaltGroupsRun
  intro s hcan
  refine ⟨fun c hc => ⟨fun r stop rest hpend => contextFaultRecord_answers hc hpend,
      contextStopped_answers hcan hc, contextComplete_answers hcan hc, fun hsweep hquiet hplace hmoving =>
      ⟨quiescenceSweep_open hc hsweep hquiet hplace hmoving, quiescenceSweep_deadlock hc hsweep hquiet hplace hmoving⟩⟩,
    fun c g i hc hgrp hg hi hr => breakpoint_answers hc hgrp hg hi hr,
    ⟨haltGroupStop_answers, fun hs => ⟨haltGroupRun_answers hs, haltGroupStep_answers hs⟩⟩,
    fun h hh => ⟨debugRegisterWrite_running hh, fun hhalted hdbg hlater => ⟨fun r hr => ?_, fun hkind => ?_, fun hop => ?_⟩⟩⟩
  case refine_1 =>
    obtain ⟨hid, hpc, hstat, ht⟩ := setX_keeps h r (BitVec.ofNat 64 (s.evArg 3))
    obtain ⟨t, hexec, hmem, hg, hdet⟩ := debugRegisterWrite_wrote hh hhalted hdbg hlater
      (by rw [hr]; exact debugPut_reg h r (s.evArg 3)) hid (by rw [ht])
    exact ⟨t, hexec, hmem, ⟨_, hg, hstat, by rw [ht], hpc, fun q => x_setX h r q _⟩, hdet⟩
  case refine_2 =>
    obtain ⟨t, hexec, hmem, hg, hdet⟩ := debugRegisterWrite_wrote hh hhalted hdbg hlater (by rw [hkind]; rfl) rfl rfl
    exact ⟨t, hexec, hmem, ⟨h, hg, rfl, rfl, rfl⟩, hdet⟩
  case refine_3 =>
    obtain ⟨t, hexec, hmem, hg, hdet⟩ := debugRegisterWrite_wrote hh hhalted hdbg hlater
      (g := { h with pc := BitVec.ofNat 64 (bits (s.evArg 3) 56 2 * 4) }) (by rw [hop]; rfl) rfl rfl
    exact ⟨t, hexec, hmem, ⟨_, hg, rfl, rfl, rfl, rfl⟩, hdet⟩

end Sys2Proof.ContextEnds
end

section
/-! PROOFS. Child operations by their names, and groups that change tokens and operations (R137, R196, R199, R205): for O40, O41, O47. -/

namespace Sys2Proof.ChildOps

open Sys2Proof Sys2Proof.Machine Sys2Proof.LatticeCells

/-! ## Operations by their names (R205) -/

/-- The first element that meets a condition, once it and others have been replaced by one that meets it too. -/
theorem find?_replaced {α : Type} {p q : α → Bool} {a b : α} {l : List α} (hfind : l.find? p = some a) (hq : q a = true)
    (hp : p b = true) : (updWhere q (fun _ => b) l).find? p = some b := by
  induction l with
  | nil => cases hfind
  | cons c l ih =>
    rw [updWhere, List.map_cons]
    by_cases hc : q c = true
    · rw [if_pos hc, List.find?_cons_of_pos hp]
    · rw [if_neg hc]
      have hpc : ¬ p c = true := by
        intro hpc
        rw [List.find?_cons_of_pos hpc] at hfind
        exact hc (Option.some.inj hfind ▸ hq)
      rw [List.find?_cons_of_neg hpc] at hfind ⊢
      exact ih hfind

theorem same_self (o : Op) : o.same o = true := by
  unfold Op.same Op.is
  simp only [beq_self_eq_true, Bool.and_self]

section
variable {s : State} {c k g : Nat} {o : Op}

theorem op?_name (ho : s.op? c k g = some o) : o.core = c ∧ o.slot = k ∧ o.gen = g ∧ o.hold ≠ 4 ∧ o.hold ≠ 5 := by
  have h := List.find?_some ho
  simp only [Op.is, Bool.and_eq_true, beq_iff_eq, bne_iff_ne] at h
  obtain ⟨⟨⟨⟨hcore, hslot⟩, hgen⟩, h4⟩, h5⟩ := h
  exact ⟨hcore, hslot, hgen, h4, h5⟩

/-- An operation that is found by its name is found under it once it has been replaced, unless an orphan area holds it then. -/
theorem op?_setOp (ho : s.op? c k g = some o) {p : Op} (hsame : o.same p = true) (h4 : p.hold ≠ 4) (h5 : p.hold ≠ 5) :
    (s.setOp p).op? c k g = some p := by
  obtain ⟨hcore, hslot, hgen, -, -⟩ := op?_name ho
  refine find?_replaced ho hsame ?_
  simp only [Op.same, Op.is, Bool.and_eq_true, beq_iff_eq, bne_iff_ne] at hsame ⊢
  obtain ⟨-, ⟨hcore', hslot'⟩, hgen'⟩ := hsame
  exact ⟨⟨⟨⟨hcore'.symm.trans hcore, hslot'.symm.trans hslot⟩, hgen'.symm.trans hgen⟩, h4⟩, h5⟩

theorem op?_congr {t : State} (h : t.work.ops = s.work.ops) (c k g : Nat) : t.op? c k g = s.op? c k g := by
  unfold State.op?
  rw [h]

end

/-! ## What a group leaves of its thread -/

theorem sameCtl_of_ctl {s u t : State} (h : SameCtl u t) (hctl : u.h.ctl = s.h.ctl) : SameCtl s t := by
  obtain ⟨hrmode, hchk, hsptr, htvec, htepc, htcause, htaddr, hh⟩ := h
  rw [hctl] at hrmode hchk hsptr htvec htepc htcause htaddr hh
  exact ⟨hrmode, hchk, hsptr, htvec, htepc, htcause, htaddr, hh⟩

/-- No vector, mask or control register, pc or byte of memory differs. -/
structure KeepsFiles (s u : State) : Prop where
  v : u.h.t.vec.v = s.h.t.vec.v
  m : u.h.t.vec.m = s.h.t.vec.m
  ctl : u.h.ctl = s.h.ctl
  pc : u.h.pc = s.h.pc
  grp : u.grp = s.grp
  mem : u.mem = s.mem

namespace KeepsFiles

theorem refl (s : State) : KeepsFiles s s := ⟨rfl, rfl, rfl, rfl, rfl, rfl⟩

theorem trans {s t u : State} (a : KeepsFiles s t) (b : KeepsFiles t u) : KeepsFiles s u :=
  ⟨b.v.trans a.v, b.m.trans a.m, b.ctl.trans a.ctl, b.pc.trans a.pc, b.grp.trans a.grp, b.mem.trans a.mem⟩

theorem of_eq {s u : State} (hh : u.h = s.h) (hgrp : u.grp = s.grp) (hmem : u.mem = s.mem) : KeepsFiles s u :=
  ⟨by rw [hh], by rw [hh], by rw [hh], by rw [hh], hgrp, hmem⟩

section
variable {s u : State} (a : KeepsFiles s u)
include a

theorem sameV : SameV s u.retire := fun r => by
  rw [State.retire_v, State.v, a.v, State.v]

theorem sameM : SameM s u.retire := fun r => by
  rw [State.retire_m, State.m, a.m, State.m]

theorem sameMem : SameMem s u.retire := fun b => by
  rw [State.retire_mem, a.mem]

theorem sameFlags : SameFlags s u.retire := by
  rw [SameFlags, State.retire_fflags, a.ctl]

theorem sameCtl : SameCtl s u.retire :=
  sameCtl_of_ctl (State.retire_frame u).ctl a.ctl

theorem endOfBody : EndOfBody s u.retire := by
  refine (State.retire_endOfBody u).congr (by simp only [a.ctl, and_self]) ?_
  rw [State.nextAddr, a.pc, a.grp, State.nextAddr]

end

end KeepsFiles

theorem retire_sameX {s u : State} (hx : u.h.x = s.h.x) : SameX s u.retire := fun r => by
  rw [State.retire_x, State.x, Hart.getX, hx, State.x, Hart.getX]

/-- A group that changes no register but tokens completes. -/
theorem keepsRegisters {s u : State} (a : KeepsFiles s u) (hx : u.h.x = s.h.x) : SameX s u.retire ∧ SameV s u.retire ∧
    SameM s u.retire ∧ SameMem s u.retire ∧ SameFlags s u.retire ∧ SameCtl s u.retire ∧ EndOfBody s u.retire :=
  ⟨retire_sameX hx, a.sameV, a.sameM, a.sameMem, a.sameFlags, a.sameCtl, a.endOfBody⟩

/-- A group that changes no more than scalar, vector, mask and token registers completes. -/
theorem retire_regFrame {s u : State} (world : SameWorld s u) (hart : SameHart s u) (hctl : u.h.ctl = s.h.ctl) :
    RegFrame s u.retire := by
  obtain ⟨fworld, fhart, fctl⟩ := State.retire_frame u
  refine ⟨⟨fun a => (fworld.mem a).trans (world.mem a), fworld.lat.trans world.lat, fworld.work.trans world.work,
    fworld.dev.trans world.dev, fworld.harts.trans world.harts, fworld.free.trans world.free⟩,
    ⟨fhart.id.trans hart.id, fhart.task.trans hart.task, fhart.post.trans hart.post, fhart.scr.trans hart.scr,
      fhart.rlt.trans hart.rlt, fhart.hist.trans hart.hist, fhart.rill.trans hart.rill, fhart.board.trans hart.board⟩, ?_⟩
  exact sameCtl_of_ctl fctl hctl

/-- A group that does nothing completes. -/
theorem retire_onlyAdvances (s : State) : OnlyAdvances (.next s.retire) s := by
  have hkeep := KeepsFiles.refl s
  exact ⟨_, rfl, retire_sameX rfl, hkeep.sameV, hkeep.sameM, State.retire_k s, hkeep.sameFlags, State.retire_frame s, hkeep.endOfBody⟩

theorem setX_keepsFiles (s : State) (d : Fin 32) (v : Word) : KeepsFiles s (s.setX d v) := by
  obtain ⟨hctl, ht, -, -, -, hpc, hgrp⟩ := State.setX_setCtl_free s d v
  exact ⟨by rw [ht], by rw [ht], hctl, hpc, hgrp, rfl⟩

theorem setK_keepsFiles (s : State) (k : Fin 16) (v : Word) : KeepsFiles s (s.setK k v) := ⟨rfl, rfl, rfl, rfl, rfl, rfl⟩

/-- The token registers of a completed group whose last write was to one of them. -/
theorem setK_retire_kAfter {s u : State} (hk : ∀ r, u.k r = s.k r) (k : Fin 16) (v : Word) : KAfter s (u.setK k v).retire k v :=
  fun r => by rw [State.retire_k, State.k_setK, hk]

/-! ## The release of an operation (R137, R196, R199) -/

/-- Only the contexts of the work, and the audit log, may differ. -/
theorem setDetrel_keeps (s : State) (c : Nat) : (s.setDetrel c).grp = s.grp ∧ (s.setDetrel c).h = s.h ∧ (s.setDetrel c).mem = s.mem ∧
    (s.setDetrel c).lat = s.lat ∧ (s.setDetrel c).work.ops = s.work.ops ∧ (s.setDetrel c).work.cores = s.work.cores := by
  unfold State.setDetrel
  split
  · exact ⟨rfl, rfl, rfl, rfl, rfl, rfl⟩
  · split <;> exact ⟨rfl, rfl, rfl, rfl, rfl, rfl⟩

theorem dropOp_keeps (s : State) (o : Op) : (s.dropOp o).grp = s.grp ∧ (s.dropOp o).h = s.h ∧ (s.dropOp o).mem = s.mem ∧
    (s.dropOp o).work.ops = s.work.ops.filter (fun x => !x.same o) ∧ (s.dropOp o).work.cores = s.work.cores := by
  unfold State.dropOp
  dsimp only
  split
  · obtain ⟨hgrp, hh, hmem, -, hops, hcores⟩ :=
      setDetrel_keeps { s with work := { s.work with ops := s.work.ops.filter (fun x => !x.same o) } } o.ctx
    exact ⟨hgrp, hh, hmem, hops, hcores⟩
  · exact ⟨rfl, rfl, rfl, rfl, rfl⟩

/-- A core state after its slot has been freed. -/
def freedSlot (slot : Nat) (c : Core) : Core :=
  { c with gens := assocSet slot ((assocGet 0 slot c.gens + 1) % 65536) c.gens, tags := c.tags.filter (fun x => x.1 != slot) }

theorem core?_bumpGen (s : State) (core slot c : Nat) :
    (s.bumpGen core slot).core? c = (s.core? c).map (fun x => if x.id == core then freedSlot slot x else x) :=
  find?_updWhere _ _ _ _ (fun _ _ => rfl)

theorem core?_bumpGen_same {s : State} {core slot : Nat} {c : Core} (hc : s.core? core = some c) :
    (s.bumpGen core slot).core? core = some (freedSlot slot c) := by
  have hid : (c.id == core) = true := List.find?_some (p := fun x : Core => x.id == core) hc
  rw [core?_bumpGen, hc, Option.map_some, if_pos hid]

theorem freedSlot_gen (slot : Nat) (c : Core) : assocGet 0 slot (freedSlot slot c).gens = (assocGet 0 slot c.gens + 1) % 65536 :=
  assocGet_assocSet_same _ _ _ _

section
variable (s : State) (o : Op)

theorem release_h : (s.release o).h = { s.h with t := { s.h.t with
    rlt := s.h.t.rlt.filter (fun e => !(e.2.kslot == o.slot && e.2.kgen == o.gen))
    hist := s.h.t.hist ++ [.opReleased o.slot o.gen] } } := by
  obtain ⟨-, hh, -⟩ := dropOp_keeps s o
  unfold State.release State.note
  dsimp only
  rw [State.bumpGen, State.updCore_h, hh]
  rfl

theorem release_ops : (s.release o).work.ops = s.work.ops.filter (fun x => !x.same o) := by
  obtain ⟨-, -, -, hops, -⟩ := dropOp_keeps s o
  exact hops

theorem release_core? (c : Nat) :
    (s.release o).core? c = (s.core? c).map (fun x => if x.id == o.core then freedSlot o.slot x else x) := by
  obtain ⟨-, -, -, -, hcores⟩ := dropOp_keeps s o
  refine (core?_bumpGen (s.dropOp o) o.core o.slot c).trans ?_
  rw [State.core?, hcores, State.core?]

theorem release_keepsFiles : KeepsFiles s (s.release o) := by
  obtain ⟨hgrp, -, hmem, -⟩ := dropOp_keeps s o
  have hh := release_h s o
  exact ⟨by rw [hh], by rw [hh], by rw [hh], by rw [hh], hgrp, hmem⟩

theorem release_k (r : Fin 16) : (s.release o).k r = s.k r := by
  rw [State.k, release_h, State.k]

theorem release_x : (s.release o).h.x = s.h.x := by
  rw [release_h]

end

/-- A group that releases an operation and empties its token completes; `u` is the state after its other writes. -/
theorem release_released {s u : State} (a : KeepsFiles s u) (hwork : u.work = s.work) (hrlt : u.h.t.rlt = s.h.t.rlt) (o : Op)
    (k : Fin 16) : Released s ((u.release o).setK k 0).retire o := by
  have hkeep := (a.trans (release_keepsFiles u o)).trans (setK_keepsFiles _ k 0)
  refine ⟨?_, fun c hc => ?_, ?_, hkeep.sameMem, hkeep.sameV, hkeep.sameM, hkeep.sameFlags, hkeep.endOfBody⟩
  · rw [State.retire_work, State.setK_work, release_ops, hwork]
  · have hid : (c.id == o.core) = true := List.find?_some (p := fun x : Core => x.id == o.core) hc
    refine ⟨freedSlot o.slot c, ?_, freedSlot_gen _ _⟩
    have hcore : (u.release o).core? o.core = some (freedSlot o.slot c) := by
      rw [release_core?, State.core?, hwork, ← State.core?, hc, Option.map_some, if_pos hid]
    exact hcore
  · rw [(State.retire_frame _).hart.rlt, ← hrlt]
    show (u.release o).h.t.rlt = _
    rw [release_h]

end Sys2Proof.ChildOps
end

section
/-! PROOFS. WAIT, WAITM and KSTAT (R193, R196, R199, R345): O40. -/

namespace Sys2Proof.TokenWaits

open Sys2Proof Sys2Proof.Machine Sys2Proof.LatticeCells Sys2Proof.ChildOps

/-! ## WAIT (R199) -/

section
variable {s : State} {k : Fin 16}

theorem wait_empty (h : s.tokenOp (s.k k) = none) : exec (.wait k) s = .next s.retire := by
  show execWait k s = _
  unfold execWait
  rw [h]

variable {o : Op} (h : s.tokenOp (s.k k) = some o)
include h

theorem wait_pending (hr : o.replied = false) : exec (.wait k) s = .next (s.block (.tokens [o.slot] (s.k k).toNat)) := by
  show execWait k s = _
  unfold execWait
  rw [h]
  exact if_pos hr

theorem wait_failed (hr : o.replied = true) (hf : o.st = .failed) :
    exec (.wait k) s = .next (s.takeTrap { cause := 0x11, addr := o.addr % 2 ^ 57, detail := k.val }) := by
  show execWait k s = _
  unfold execWait
  rw [h]
  dsimp only
  rw [if_neg (by rw [hr]; decide), if_pos hf]
  rfl

theorem wait_ended (hr : o.replied = true) (hf : o.st ≠ .failed) : exec (.wait k) s = .next ((s.release o).setK k 0).retire := by
  show execWait k s = _
  unfold execWait
  rw [h]
  dsimp only
  rw [if_neg (by rw [hr]; decide), if_neg hf]

theorem wait_answers (hr : o.replied = true) (hf : o.st ≠ .failed) :
    Answers (exec (.wait k) s) fun t => Released s t o ∧ KAfter s t k 0 ∧ SameX s t :=
  ⟨_, wait_ended h hr hf, release_released (KeepsFiles.refl s) rfl rfl o k, setK_retire_kAfter (release_k s o) k 0,
    retire_sameX (release_x s o)⟩

end

/-! ## KSTAT (R199, R345) -/

theorem putRecord_keepsFiles (s : State) (d : Fin 32) (w : Nat × Nat) : KeepsFiles s (s.putRecord d w) :=
  (setX_keepsFiles s d _).trans (setX_keepsFiles _ _ _)

theorem putRecord_t (s : State) (d : Fin 32) (w : Nat × Nat) : (s.putRecord d w).h.t = s.h.t := by
  obtain ⟨-, ht, -⟩ := State.setX_setCtl_free s d (BitVec.ofNat 64 w.1)
  obtain ⟨-, ht', -⟩ := State.setX_setCtl_free (s.setX d (BitVec.ofNat 64 w.1)) (Fin.ofNat 32 (d.val + 1)) (BitVec.ofNat 64 w.2)
  exact ht'.trans ht

theorem putRecord_setK_sameHart (s : State) (d : Fin 32) (w : Nat × Nat) (k : Fin 16) :
    SameHart s ((s.putRecord d w).setK k 0) := by
  obtain ⟨-, -, hid, hr, hboard, -, -⟩ := State.setX_setCtl_free s d (BitVec.ofNat 64 w.1)
  obtain ⟨-, -, hid', hr', hboard', -, -⟩ :=
    State.setX_setCtl_free (s.setX d (BitVec.ofNat 64 w.1)) (Fin.ofNat 32 (d.val + 1)) (BitVec.ofNat 64 w.2)
  have ht := putRecord_t s d w
  exact ⟨hid'.trans hid, (congrArg ThreadPart.task ht :), (congrArg ThreadPart.post ht :), (congrArg ThreadPart.scr ht :),
    (congrArg ThreadPart.rlt ht :), (congrArg ThreadPart.hist ht :), hr'.trans hr, hboard'.trans hboard⟩

/-- The scalar registers after the two words of KSTAT. -/
theorem putRecord_x {d : Fin 32} (hd : d.val < 31) (s : State) (w : Nat × Nat) (r : Fin 32) : (s.putRecord d w).x r =
    if r.val = d.val + 1 then BitVec.ofNat 64 w.2 else if r = d ∧ d ≠ 0 then BitVec.ofNat 64 w.1 else s.x r := by
  have hnext : (Fin.ofNat 32 (d.val + 1)).val = d.val + 1 := Nat.mod_eq_of_lt (by omega)
  have hne : Fin.ofNat 32 (d.val + 1) ≠ 0 := fun h => by
    have hzero := congrArg Fin.val h
    rw [hnext] at hzero
    exact Nat.succ_ne_zero _ hzero
  rw [State.putRecord, State.x_setX, State.x_setX]
  refine if_congr ⟨fun h => ?_, fun h => ⟨Fin.ext (h.trans hnext.symm), hne⟩⟩ rfl rfl
  rw [h.1, hnext]

section
variable {s : State} {k : Fin 16} {d : Fin 32}

theorem kstat_illegal (hd : d.val = 31) : exec (.kstat d k) s = .next (s.takeTrap { cause := 1, addr := s.word0 }) := by
  show execKstat d k s = _
  unfold execKstat
  exact if_pos hd

variable (hd : d.val < 31)
include hd

theorem kstat_empty (h : s.tokenOp (s.k k) = none) :
    exec (.kstat d k) s = .next ((s.putRecord d (3 * 2 ^ 61, 0)).setK k 0).retire := by
  show execKstat d k s = _
  unfold execKstat
  rw [if_neg (by omega), h]

theorem kstat_pending {o : Op} (h : s.tokenOp (s.k k) = some o) (hr : o.replied = false) :
    exec (.kstat d k) s = .next (s.block (.tokens [o.slot] (s.k k).toNat)) := by
  show execKstat d k s = _
  unfold execKstat
  rw [if_neg (by omega), h]
  exact if_pos hr

theorem kstat_ended {o : Op} (h : s.tokenOp (s.k k) = some o) (hr : o.replied = true) :
    exec (.kstat d k) s = .next (((s.putRecord d o.record).release o).setK k 0).retire := by
  show execKstat d k s = _
  unfold execKstat
  rw [if_neg (by omega), h]
  exact if_neg (by rw [hr]; decide)

/-- The words of KSTAT stand in its registers once the group has completed. -/
theorem retire_pair {u : State} {w : Nat × Nat} (hx : u.h.x = (s.putRecord d w).h.x) (r : Fin 32) : u.retire.x r =
    if r.val = d.val + 1 then BitVec.ofNat 64 w.2 else if r = d ∧ d ≠ 0 then BitVec.ofNat 64 w.1 else s.x r :=
  (retire_sameX hx r).trans (putRecord_x hd s w r)

theorem kstat_empty_answers (h : s.tokenOp (s.k k) = none) : Answers (exec (.kstat d k) s) fun t =>
    (∀ r, t.x r = if r.val = d.val + 1 then BitVec.ofNat 64 0 else if r = d ∧ d ≠ 0 then BitVec.ofNat 64 (3 * 2 ^ 61) else s.x r) ∧
      KAfter s t k 0 ∧ SameV s t ∧ SameM s t ∧ RegFrame s t ∧ EndOfBody s t := by
  have hkeep := (putRecord_keepsFiles s d (3 * 2 ^ 61, 0)).trans (setK_keepsFiles _ k 0)
  have hk (r : Fin 16) : (s.putRecord d (3 * 2 ^ 61, 0)).k r = s.k r := by
    rw [State.k, putRecord_t, State.k]
  exact ⟨_, kstat_empty hd h, retire_pair hd (w := (3 * 2 ^ 61, 0)) rfl, setK_retire_kAfter hk k 0, hkeep.sameV, hkeep.sameM,
    retire_regFrame ⟨fun _ => rfl, rfl, rfl, rfl, rfl, rfl⟩ (putRecord_setK_sameHart s d _ k) hkeep.ctl, hkeep.endOfBody⟩

theorem kstat_ended_answers {o : Op} (h : s.tokenOp (s.k k) = some o) (hr : o.replied = true) :
    Answers (exec (.kstat d k) s) fun t => Released s t o ∧ KAfter s t k 0 ∧
      ∀ r, t.x r = if r.val = d.val + 1 then BitVec.ofNat 64 (o.addr % 2 ^ 57) else if r = d ∧ d ≠ 0 then
        BitVec.ofNat 64 (o.st.code * 2 ^ 61 + o.cls * 2 ^ 56 + o.code * 2 ^ 48 + o.units % 2 ^ 32) else s.x r := by
  have hk (r : Fin 16) : ((s.putRecord d o.record).release o).k r = s.k r := by
    rw [release_k, State.k, putRecord_t, State.k]
  exact ⟨_, kstat_ended hd h hr,
    release_released (putRecord_keepsFiles s d _) rfl (by rw [putRecord_t]) o k, setK_retire_kAfter hk k 0,
    retire_pair hd (w := o.record) (release_x _ o)⟩

end

/-! ## WAITM (R199) -/

theorem mem_maskRegs (mask : BitVec 16) (r : Fin 16) : r ∈ maskRegs mask ↔ mask.getLsbD r.val = true := by
  unfold maskRegs
  rw [List.mem_filterMap]
  constructor
  · rintro ⟨i, -, hi⟩
    split at hi
    · next hbit =>
      have hlt : i < 16 := BitVec.lt_of_getLsbD hbit
      rw [← Option.some.inj hi]
      show mask.getLsbD (i % 16) = true
      rwa [Nat.mod_eq_of_lt hlt]
    · cases hi
  · intro hbit
    refine ⟨r.val, (mem_countFrom 0 16 r.val).mpr ⟨Nat.zero_le _, by omega⟩, ?_⟩
    rw [if_pos hbit]
    exact congrArg some (Fin.ext (Nat.mod_eq_of_lt r.isLt))

theorem tokenOp_eq_none_iff {s : State} {v : Word} : s.tokenOp v = none ↔
    (v.getLsbD 0 = true → ∀ c, s.core? s.coreId = some c → c.admits (tokSlot v) (tokTag v) = true →
      ∀ o, o ∈ s.work.ops → (o.is s.coreId (tokSlot v) (tokGen v) && o.hold == 0) = false) := by
  unfold State.tokenOp
  constructor
  · intro h hv c hc hadm o ho
    rw [if_pos (by rw [hv, hc]; exact hadm)] at h
    exact Bool.eq_false_iff.mpr (List.find?_eq_none.mp h o ho)
  · intro h
    split
    · next hcond =>
      rw [Bool.and_eq_true, Option.any_eq_true] at hcond
      obtain ⟨hv, c, hc, hadm⟩ := hcond
      exact List.find?_eq_none.mpr fun o ho => Bool.eq_false_iff.mp (h hv c hc hadm o ho)
    · rfl

/-- The empty token names no operation (log 23). -/
theorem tokenOp_zero (s : State) : s.tokenOp 0 = none :=
  tokenOp_eq_none_iff.mpr fun h => absurd h (by decide)

/-- No token names an operation that it did not name before, and a token register is as before or empty. -/
structure Empties (s u : State) : Prop where
  named : ∀ v, s.tokenOp v = none → u.tokenOp v = none
  regs : ∀ r, u.k r = s.k r ∨ u.k r = 0
  files : KeepsFiles s u
  x : u.h.x = s.h.x

theorem Empties.refl (s : State) : Empties s s := ⟨fun _ => id, fun _ => .inl rfl, KeepsFiles.refl s, rfl⟩

theorem Empties.trans {s t u : State} (a : Empties s t) (b : Empties t u) : Empties s u := by
  refine ⟨fun v h => b.named v (a.named v h), fun r => ?_, a.files.trans b.files, b.x.trans a.x⟩
  rcases b.regs r with h | h
  · rw [h]
    exact a.regs r
  · exact .inr h

/-- A register whose token names nothing stays so. -/
theorem Empties.stays {s u : State} (a : Empties s u) {r : Fin 16} (h : s.tokenOp (s.k r) = none) : u.tokenOp (u.k r) = none := by
  rcases a.regs r with hr | hr
  · rw [hr]
    exact a.named _ h
  · rw [hr]
    exact tokenOp_zero u

/-- A core state admits no more tags once a slot of it has been freed (R196). -/
theorem admits_of_freed {core slot tslot tag : Nat} {c : Core}
    (h : (if c.id == core then freedSlot slot c else c).admits tslot tag = true) : c.admits tslot tag = true := by
  split at h
  · unfold Core.admits freedSlot at h
    unfold Core.admits
    rw [Bool.or_eq_true, List.contains_iff_mem] at h ⊢
    exact h.imp_right fun hmem => List.mem_of_mem_filter hmem
  · exact h

theorem release_named {s : State} (o : Op) {v : Word} (h : s.tokenOp v = none) : (s.release o).tokenOp v = none := by
  have hcore : (s.release o).coreId = s.coreId := by
    rw [State.coreId, release_h, State.coreId]
    rfl
  rw [tokenOp_eq_none_iff] at h ⊢
  rw [hcore, release_ops]
  intro hv c hc hadm p hp
  rw [release_core?, Option.map_eq_some_iff] at hc
  obtain ⟨c', hc', rfl⟩ := hc
  exact h hv c' hc' (admits_of_freed hadm) p (List.mem_of_mem_filter hp)

theorem releaseReg_none {s : State} {q : Fin 16} (h : s.tokenOp (s.k q) = none) : s.releaseReg q = s := by
  unfold State.releaseReg
  rw [h]

theorem releaseReg_some {s : State} {q : Fin 16} {o : Op} (h : s.tokenOp (s.k q) = some o) :
    s.releaseReg q = (s.release o).setK q 0 := by
  unfold State.releaseReg
  rw [h]

theorem releaseReg_k (s : State) (q r : Fin 16) : (s.releaseReg q).k r = if r = q ∧ s.tokenOp (s.k q) ≠ none then 0 else s.k r := by
  cases h : s.tokenOp (s.k q) with
  | none => rw [releaseReg_none h, if_neg (fun hq => hq.2 rfl)]
  | some o =>
    rw [releaseReg_some h, State.k_setK, release_k]
    exact if_congr ⟨fun hq => ⟨hq, Option.some_ne_none o⟩, And.left⟩ rfl rfl

theorem releaseReg_empties (s : State) (q : Fin 16) : Empties s (s.releaseReg q) := by
  cases h : s.tokenOp (s.k q) with
  | none =>
    rw [releaseReg_none h]
    exact Empties.refl s
  | some o =>
    refine ⟨fun v hv => ?_, fun r => ?_, ?_, ?_⟩
    · rw [releaseReg_some h]
      exact release_named o hv
    · rw [releaseReg_k]
      split
      · exact .inr rfl
      · exact .inl rfl
    · rw [releaseReg_some h]
      exact (release_keepsFiles s o).trans (setK_keepsFiles _ q 0)
    · rw [releaseReg_some h]
      exact release_x s o

theorem releaseReg_token (s : State) (q : Fin 16) : (s.releaseReg q).tokenOp ((s.releaseReg q).k q) = none := by
  rw [releaseReg_k]
  cases h : s.tokenOp (s.k q) with
  | none =>
    rw [releaseReg_none h, if_neg (fun hq => hq.2 rfl)]
    exact h
  | some o =>
    rw [if_pos ⟨rfl, Option.some_ne_none o⟩]
    exact tokenOp_zero _

/-- The releases of WAITM: every register of the list names no operation any more, and the others are as before. -/
theorem foldl_releaseReg (rs : List (Fin 16)) (s : State) : Empties s (rs.foldl State.releaseReg s) ∧
    (∀ r, r ∉ rs → (rs.foldl State.releaseReg s).k r = s.k r) ∧
    ∀ r, r ∈ rs → (rs.foldl State.releaseReg s).tokenOp ((rs.foldl State.releaseReg s).k r) = none := by
  induction rs generalizing s with
  | nil => exact ⟨Empties.refl s, fun _ _ => rfl, fun _ h => absurd h List.not_mem_nil⟩
  | cons q rs ih =>
    obtain ⟨hempties, hothers, hnamed⟩ := ih (s.releaseReg q)
    refine ⟨(releaseReg_empties s q).trans hempties, fun r hr => ?_, fun r hr => ?_⟩
    · rw [List.mem_cons, not_or] at hr
      rw [List.foldl_cons, hothers r hr.2, releaseReg_k, if_neg (fun h => hr.1 h.1)]
    · rcases List.mem_cons.mp hr with rfl | hr
      · exact hempties.stays (releaseReg_token s r)
      · exact hnamed r hr

section
variable {s : State} {mask : BitVec 16} (hended : ∀ r : Fin 16, mask.getLsbD r.val = true → ∀ o, s.tokenOp (s.k r) = some o →
  o.replied = true ∧ o.st ≠ .failed)
include hended

theorem waitm_eq : exec (.waitm mask) s = .next ((maskRegs mask).foldl State.releaseReg s).retire := by
  have hopen : (maskRegs mask).filterMap (fun r => (s.tokenOp (s.k r)).bind (fun o =>
      if o.replied then none else some (o.slot, (s.k r).toNat))) = [] := by
    refine List.filterMap_eq_nil_iff.mpr fun r hr => ?_
    cases h : s.tokenOp (s.k r) with
    | none => rfl
    | some o =>
      obtain ⟨hreplied, -⟩ := hended r ((mem_maskRegs mask r).mp hr) o h
      exact if_pos hreplied
  have hbad : (maskRegs mask).find? (fun r => (s.tokenOp (s.k r)).any (fun o => o.st == .failed)) = none := by
    refine List.find?_eq_none.mpr fun r hr hfail => ?_
    obtain ⟨o, ho, hst⟩ := (Option.any_eq_true _ _).mp hfail
    obtain ⟨-, hne⟩ := hended r ((mem_maskRegs mask r).mp hr) o ho
    exact hne (eq_of_beq hst)
  show execWaitm mask s = _
  unfold execWaitm
  dsimp only
  rw [hopen, hbad]
  rfl

theorem waitm_answers : Answers (exec (.waitm mask) s) fun t => SameX s t ∧ SameV s t ∧ SameM s t ∧ SameMem s t ∧ EndOfBody s t ∧
    ∀ r : Fin 16, (mask.getLsbD r.val = false → t.k r = s.k r) ∧ (mask.getLsbD r.val = true → t.tokenOp (t.k r) = none) := by
  obtain ⟨⟨-, -, hfiles, hx⟩, hothers, hnamed⟩ := foldl_releaseReg (maskRegs mask) s
  refine ⟨_, waitm_eq hended, retire_sameX hx, hfiles.sameV, hfiles.sameM, hfiles.sameMem, hfiles.endOfBody, fun r =>
    ⟨fun hr => ?_, fun hr => ?_⟩⟩
  · rw [State.retire_k, hothers r (fun h => Bool.false_ne_true (hr.symm.trans ((mem_maskRegs mask r).mp h)))]
  · rw [State.retire_k]
    refine tokenOp_eq_none_iff.mpr ?_
    have h := tokenOp_eq_none_iff.mp (hnamed r ((mem_maskRegs mask r).mpr hr))
    have hcore (u : State) : u.retire.coreId = u.coreId := by
      rw [State.coreId, Hart.coreSlot, (State.retire_frame u).hart.id, State.coreId, Hart.coreSlot]
    rw [hcore]
    exact h

end

/-- Settles O40: each wait by what its token names, and the releases of WAITM by induction over its registers. -/
theorem tokensWaitAndRelease : Obligations.TokensWaitAndRelease := by
  unfold Obligations.TokensWaitAndRelease
  intro s k d
  refine ⟨kstat_illegal, fun hempty => ⟨?_, fun hd => ?_⟩, fun o hnamed => ⟨fun hr => ⟨wait_pending hnamed hr, fun hd =>
    kstat_pending hd hnamed hr⟩, fun hr => ⟨wait_failed hnamed hr, wait_answers hnamed hr, fun hd => ?_⟩⟩,
    fun mask hended => waitm_answers hended⟩
  · rw [wait_empty hempty]
    exact retire_onlyAdvances s
  · obtain ⟨t, ht, hpair, hk, hv, hm, hframe, hbody⟩ := kstat_empty_answers hd hempty
    exact ⟨t, ht, hpair, hk, hv, hm, hframe, hbody⟩
  · obtain ⟨t, ht, hreleased, hk, hpair⟩ := kstat_ended_answers hd hnamed hr
    exact ⟨t, ht, hreleased, hk, hpair⟩

end Sys2Proof.TokenWaits
end

section
/-! PROOFS. CANCEL, KPRIO, KMOV, DETACH, ADOPT and FENCE.K (R130, R202 to R207, R346): O41. -/

namespace Sys2Proof.TokenMoves

open Sys2Proof Sys2Proof.Machine Sys2Proof.LatticeCells Sys2Proof.ChildOps

/-- What a group that changes tokens and operations leaves of its thread. -/
def KeepsThread (s t : State) : Prop :=
  SameX s t ∧ SameV s t ∧ SameM s t ∧ SameMem s t ∧ SameFlags s t ∧ SameCtl s t ∧ EndOfBody s t

/-- A message that is no reply enters the network, also in a context that stops (R398). -/
theorem send_net {s : State} {m : Msg} (h : m.body.isReply = false) : (s.send m).lat.net = s.lat.net ++ [m] := by
  unfold State.send State.discards
  rw [h, Bool.false_and]
  rfl

/-! ## CANCEL (R203) -/

section
variable {s : State} {k : Fin 16}

theorem cancel_empty (h : s.tokenOp (s.k k) = none) : exec (.cancel k) s = .next s.retire := by
  show execCancel k s = _
  unfold execCancel
  rw [h]

theorem cancel_answers {o : Op} (h : s.tokenOp (s.k k) = some o) : Answers (exec (.cancel k) s) fun t => KeepsThread s t ∧
    SameK s t ∧ t.work = s.work ∧ t.lat.net = s.lat.net ++
      [{ src := s.me, ctx := s.h.task.ctx, dest := o.inbox, body := .cancel o.core o.slot o.gen }] := by
  have hexec : exec (.cancel k) s = .next (s.send
      { src := s.me, ctx := s.h.task.ctx, dest := o.inbox, body := .cancel o.core o.slot o.gen }).retire := by
    show execCancel k s = _
    unfold execCancel
    rw [h]
  exact ⟨_, hexec, keepsRegisters (KeepsFiles.of_eq rfl rfl rfl) rfl, fun r => State.retire_k _ r, rfl, send_net rfl⟩

end

/-! ## KPRIO (R202) -/

/-- PRIO of a token is bits [20:17] (Table 8.2). -/
theorem getLsbD_tokSetPrio (v : Word) {p : Nat} (hp : p < 16) {i : Nat} (hi : i < 64) :
    (tokSetPrio v p).getLsbD i = if 17 ≤ i ∧ i < 21 then p.testBit (i - 17) else v.getLsbD i := by
  have hmask : (15 * 2 ^ 17).testBit i = decide (17 ≤ i ∧ i < 21) := by
    rw [Nat.testBit_mul_two_pow, show 15 = 2 ^ 4 - 1 from rfl, Nat.testBit_two_pow_sub_one]
    by_cases h : 17 ≤ i
    · simp only [h, decide_true, Bool.true_and, true_and]
      exact decide_eq_decide.mpr (by omega)
    · simp only [h, decide_false, Bool.false_and, false_and]
  have hprio : (p % 16 * 2 ^ 17).testBit i = (decide (17 ≤ i) && p.testBit (i - 17)) := by
    rw [Nat.mod_eq_of_lt hp, Nat.testBit_mul_two_pow]
  unfold tokSetPrio
  rw [BitVec.getLsbD_or, BitVec.getLsbD_and, BitVec.getLsbD_not, BitVec.getLsbD_ofNat, BitVec.getLsbD_ofNat, hmask, hprio]
  by_cases hin : 17 ≤ i ∧ i < 21
  · simp [hi, hin]
  · rw [if_neg hin]
    have hhigh : (decide (17 ≤ i) && p.testBit (i - 17)) = false := by
      by_cases h : 17 ≤ i
      · rw [Nat.testBit_lt_two_pow (lt_of_lt_of_le (hp.trans_le (show 16 ≤ 2 ^ 4 from le_refl _))
          (Nat.pow_le_pow_right (by decide) (show 4 ≤ i - 17 by omega))), Bool.and_false]
      · rw [decide_eq_false h, Bool.false_and]
    rw [hhigh]
    simp [hi, hin]

/-- A token with another priority, and the operation that it names with it while that has not ended. -/
def reprioritized (s : State) (k : Fin 16) (p : Nat) : State :=
  match s.tokenOp (s.k k) with
  | none => s.setK k (tokSetPrio (s.k k) p)
  | some o => if o.st.ended then s.setK k (tokSetPrio (s.k k) p) else (s.setK k (tokSetPrio (s.k k) p)).setOp { o with prio := p }

theorem reprioritized_keeps (s : State) (k : Fin 16) (p : Nat) : (reprioritized s k p).h = (s.setK k (tokSetPrio (s.k k) p)).h ∧
    (reprioritized s k p).grp = s.grp ∧ (reprioritized s k p).mem = s.mem := by
  unfold reprioritized
  split
  · exact ⟨rfl, rfl, rfl⟩
  · split <;> exact ⟨rfl, rfl, rfl⟩

section
variable {s : State} {k : Fin 16} {b : Fin 32}

theorem kprio_illegal (hb : 11 < (s.x b).toNat) : exec (.kprio k b) s = .next (s.takeTrap { cause := 0x0F, addr := s.word0 }) := by
  show execKprio k b s = _
  unfold execKprio
  exact if_pos hb

theorem kprio_eq (hb : (s.x b).toNat ≤ 11) :
    exec (.kprio k b) s = .next (reprioritized s k (min (s.x b).toNat s.h.task.prio)).retire := by
  show execKprio k b s = _
  unfold execKprio reprioritized
  rw [if_neg (by omega)]
  dsimp only
  cases s.tokenOp (s.k k) with
  | none => rfl
  | some o =>
    dsimp only
    split <;> rfl

theorem kprio_answers (hb : (s.x b).toNat ≤ 11) : let p := min (s.x b).toNat s.h.task.prio
    Answers (exec (.kprio k b) s) fun t => KeepsThread s t ∧ (∀ r, r ≠ k → t.k r = s.k r) ∧
      (∀ i, i < 64 → (t.k k).getLsbD i = if 17 ≤ i ∧ i < 21 then p.testBit (i - 17) else (s.k k).getLsbD i) ∧
      (∀ o, s.tokenOp (s.k k) = some o → s.hasOp o → o.st.ended = false → t.op? o.core o.slot o.gen = some { o with prio := p }) ∧
      (s.tokenOp (s.k k) = none → t.work.ops = s.work.ops) := by
  intro p
  obtain ⟨hh, hgrp, hmem⟩ := reprioritized_keeps s k p
  have hk (r : Fin 16) : (reprioritized s k p).retire.k r = if r = k then tokSetPrio (s.k k) p else s.k r := by
    rw [State.retire_k, State.k, hh]
    exact State.k_setK s k r _
  have hkeep : KeepsFiles s (reprioritized s k p) :=
    (setK_keepsFiles s k (tokSetPrio (s.k k) p)).trans (KeepsFiles.of_eq hh hgrp hmem)
  refine ⟨_, kprio_eq hb, keepsRegisters hkeep (congrArg Hart.x hh :), fun r hr => ?_, fun i hi => ?_, fun o ho hop hended => ?_,
    fun hnone => ?_⟩
  · rw [hk, if_neg hr]
  · rw [hk, if_pos rfl]
    exact getLsbD_tokSetPrio _ (show min (s.x b).toNat s.h.task.prio < 16 by omega) hi
  · have hset : reprioritized s k p = (s.setK k (tokSetPrio (s.k k) p)).setOp { o with prio := p } := by
      unfold reprioritized
      rw [ho]
      exact if_neg (by rw [hended]; decide)
    obtain ⟨-, -, -, h4, h5⟩ := op?_name hop
    rw [hset]
    exact op?_setOp (s := s.setK k (tokSetPrio (s.k k) p)) hop (same_self o) h4 h5
  · rw [reprioritized, hnone]
    rfl

end

/-! ## KMOV (R346) -/

theorem kmov_answers (s : State) (d k : Fin 16) : Answers (exec (.kmov d k) s) fun t => KeepsThread s t ∧ t.work = s.work ∧
    ∀ r, t.k r = if d = k then s.k r else if r = d then s.k k else if r = k then 0 else s.k r := by
  by_cases hd : d = k
  · have hexec : exec (.kmov d k) s = .next s.retire := by
      show execKmov d k s = _
      unfold execKmov
      exact if_pos hd
    exact ⟨_, hexec, keepsRegisters (KeepsFiles.refl s) rfl, rfl, fun r => by rw [if_pos hd, State.retire_k]⟩
  · have hexec : exec (.kmov d k) s = .next ((s.setK d (s.k k)).setK k 0).retire := by
      show execKmov d k s = _
      unfold execKmov
      exact if_neg hd
    refine ⟨_, hexec, keepsRegisters ⟨rfl, rfl, rfl, rfl, rfl, rfl⟩ rfl, rfl, fun r => ?_⟩
    rw [State.retire_k, State.k_setK, State.k_setK, if_neg hd]
    by_cases hr : r = d
    · rw [if_pos hr, if_pos hr, if_neg (fun h => hd (hr.symm.trans h))]
    · rw [if_neg hr, if_neg hr]

/-! ## DETACH (R204, R205) -/

/-- A translation changes TLBs alone (R29). -/
theorem translate_tlb (s : State) (core : Option Nat) (die ctx task va : Nat) (a : Acc) :
    ∃ tlb, (s.translate core die ctx task va a).1 = { s with lat := { s.lat with tlb := tlb } } := by
  unfold State.translate
  split
  · exact ⟨_, rfl⟩
  · split
    · exact ⟨_, rfl⟩
    · split
      · exact ⟨_, rfl⟩
      · split
        · exact ⟨_, rfl⟩
        · exact ⟨_, rfl⟩

/-- The state with the TLBs that an access of the issuing thread leaves. -/
def reached (s : State) (va : Nat) (a : Acc) : State :=
  (s.translate (some s.coreId) (physDie s.phys) s.h.task.ctx s.h.task.num va a).1

/-- An access that its translation lets through goes on with TLBs filled. -/
theorem access_ok {s : State} {va : Nat} {a : Acc} {l : Leaf} {pa : Nat} (hlater : s.h.t.post.later = [])
    (h : s.reaches va a = .ok l pa) (onFault : Nat → State → Out) (f : Leaf → Nat → State → Out) :
    s.access va a onFault f = f l pa (reached s va a) := by
  unfold State.reaches at h
  unfold State.access
  rw [hlater, List.isEmpty_nil, if_neg (by decide)]
  dsimp only
  rw [h]
  rfl

/-- An operation in a redirect entry, with its completion cell. -/
def detachedOp (o : Op) (cell : Nat × Nat × Nat) : Op := { o with hold := 1, cell := some cell, entry := true }

/-- The operation has left its slot for a redirect entry, and its engine is told. -/
def movedOut (s : State) (o : Op) (cell : Nat × Nat × Nat) : State :=
  ((s.setOp (detachedOp o cell)).bumpGen o.core o.slot).send
    { src := s.me, ctx := o.ctx, dest := o.inbox, body := .redirect o.core o.slot o.gen }

/-- An operation whose end is not known is moved out; its thread holds its ring for it (R328). -/
theorem detach_live (s : State) {o : Op} (hr : o.replied = false) (cell : Nat × Nat × Nat) :
    ∃ scr, s.detach o cell = (movedOut s o cell).setScr scr := by
  have hsame : ∃ scr, movedOut s o cell = (movedOut s o cell).setScr scr := ⟨(movedOut s o cell).h.t.scr, rfl⟩
  unfold State.detach
  dsimp only
  rw [if_neg (by rw [hr]; decide)]
  split
  · split
    · exact hsame
    · exact ⟨_, rfl⟩
  · exact hsame

section
variable {s : State} {k : Fin 16} {b c : Fin 32} {l : Leaf} {pa : Nat} {o : Op}
  (hreach : s.reaches (s.x b).toNat .latUpdate = .ok l pa) (hkind : l.kind = 3) (htype : l.ctype = 6 ∨ l.ctype = 7)
  (halign : (s.x b).toNat % cellBytes l.ctype 0 = 0) (hgen : (s.x c).toNat ≤ 65535) (ho : s.tokenOp (s.k k) = some o)
  (hbound : s.stillBound o = false) (hroom : s.redirectsUsed s.coreId < 32) (hlater : s.h.t.post.later = [])
include hreach hkind htype halign hgen ho hbound hroom hlater

theorem detach_eq : exec (.detach k b c) s = .next
    (((reached s (s.x b).toNat .latUpdate).detach o ((s.x b).toNat, pa, (s.x c).toNat)).setK k 0).retire := by
  have hoperands : ¬ (65535 < (s.x c).toNat ∨ false = true) := by
    rintro (h | h)
    · omega
    · cases h
  have hcell : ¬ (l.kind ≠ 3 ∨ (!(l.ctype == 6 || l.ctype == 7)) = true) := by
    rcases htype with h | h <;> simp [hkind, h]
  obtain ⟨tlb, ht⟩ : ∃ tlb, reached s (s.x b).toNat .latUpdate = { s with lat := { s.lat with tlb := tlb } } :=
    translate_tlb s _ _ _ _ _ _
  have htoken : (reached s (s.x b).toNat .latUpdate).tokenOp ((reached s (s.x b).toNat .latUpdate).k k) = some o := by
    rw [ht]
    exact ho
  have hused : ¬ 32 ≤ (reached s (s.x b).toNat .latUpdate).redirectsUsed (reached s (s.x b).toNat .latUpdate).coreId := by
    rw [ht]
    exact Nat.not_le.mpr hroom
  have hx : (reached s (s.x b).toNat .latUpdate).x c = s.x c := by
    rw [ht]
    rfl
  show execDetach k b c s = _
  unfold execDetach
  dsimp only
  rw [ho, Option.any_some, hbound, if_neg hoperands, access_ok hlater hreach, if_neg hcell,
    if_neg (not_not.mpr halign), htoken]
  dsimp only
  rw [if_neg hused, hx]

theorem detach_answers (hr : o.replied = false) (hop : s.hasOp o) : Answers (exec (.detach k b c) s) fun t =>
    KeepsThread s t ∧ KAfter s t k 0 ∧
      t.op? o.core o.slot o.gen = some (detachedOp o ((s.x b).toNat, pa, (s.x c).toNat)) ∧
      (∀ q, s.core? o.core = some q → t.slotGen o.core o.slot = (assocGet 0 o.slot q.gens + 1) % 65536) ∧
      t.lat.net = s.lat.net ++ [{ src := s.me, ctx := o.ctx, dest := o.inbox, body := .redirect o.core o.slot o.gen }] := by
  have hexec := detach_eq hreach hkind htype halign hgen ho hbound hroom hlater
  obtain ⟨tlb, ht⟩ : ∃ tlb, reached s (s.x b).toNat .latUpdate = { s with lat := { s.lat with tlb := tlb } } :=
    translate_tlb s _ _ _ _ _ _
  obtain ⟨scr, hdetach⟩ := detach_live { s with lat := { s.lat with tlb := tlb } } hr ((s.x b).toNat, pa, (s.x c).toNat)
  rw [ht, hdetach] at hexec
  refine ⟨_, hexec, keepsRegisters ⟨rfl, rfl, rfl, rfl, rfl, rfl⟩ rfl, setK_retire_kAfter (fun _ => rfl) k 0, ?_, fun q hq => ?_, ?_⟩
  · exact op?_setOp (s := s) hop (same_self o) (show 1 ≠ 4 by decide) (show 1 ≠ 5 by decide)
  · have hcore := core?_bumpGen_same (s := s.setOp (detachedOp o ((s.x b).toNat, pa, (s.x c).toNat))) (slot := o.slot) hq
    have hgen : ((some (freedSlot o.slot q)).map (fun c => assocGet 0 o.slot c.gens)).getD 0 =
        (assocGet 0 o.slot q.gens + 1) % 65536 := freedSlot_gen o.slot q
    rw [← hcore] at hgen
    exact hgen
  · exact send_net (m := { src := s.me, ctx := o.ctx, dest := o.inbox, body := .redirect o.core o.slot o.gen }) rfl

end

/-! ## ADOPT (R206, R207) -/

/-- The orphan that an operand of ADOPT names: its low 16 bits the child, the others the orphan's number (R207). -/
def namedOrphan (s : State) (v : Nat) : Option Op :=
  s.orphanOf (s.children s.h.task.num (v % 65536)) (s.children s.h.task.num (v % 65536)).length 0 (v / 65536)

section
variable {s : State} {k : Fin 16} {a : Fin 32} (hv : (s.x a).toNat < 2 ^ 48) (hspawned : (s.x a).toNat % 65536 < s.h.task.spawns)
  (hexited : ∀ q, q ∈ s.children s.h.task.num ((s.x a).toNat % 65536) → q.st = .exited)
include hv hspawned hexited

/-- ADOPT of a child that has exited goes by the orphan that its operand names. -/
theorem adopt_eq : exec (.adopt k a) s = match namedOrphan s (s.x a).toNat with
      | none => .next (s.setK k 0).retire
      | some o => if 32 ≤ s.slotsHeld s.coreId s.h.coreSlot.2 then .next (s.takeTrap { cause := 0x10, detail := k.val })
        else .next (s.adopt o k).retire := by
  have hlow : bits (s.x a).toNat 15 0 = (s.x a).toNat % 65536 := bits_low _ 15
  have hhigh : bits (s.x a).toNat 47 16 = (s.x a).toNat / 65536 := Nat.mod_eq_of_lt (by omega)
  have hdone : s.childDone s.h.task.num ((s.x a).toNat % 65536) = true :=
    List.all_eq_true.mpr fun q hq => beq_iff_eq.mpr (hexited q hq)
  show execAdopt k a s = _
  unfold execAdopt
  dsimp only
  rw [hlow, hhigh, if_neg (by omega), hdone]
  rfl

theorem adopt_none (h : namedOrphan s (s.x a).toNat = none) :
    Answers (exec (.adopt k a) s) fun t => KeepsThread s t ∧ KAfter s t k 0 ∧ t.work = s.work := by
  have hexec := adopt_eq (k := k) hv hspawned hexited
  rw [h] at hexec
  exact ⟨_, hexec, keepsRegisters (setK_keepsFiles s k 0) rfl, setK_retire_kAfter (fun _ => rfl) k 0, rfl⟩

theorem adopt_some {o : Op} (h : namedOrphan s (s.x a).toNat = some o)
    (hroom : s.slotsHeld s.coreId s.h.coreSlot.2 < 32) : Answers (exec (.adopt k a) s) fun t =>
      let slot := s.freeSlot s.coreId
      let gen := s.slotGen s.coreId slot
      KeepsThread s t ∧ KAfter s t k (tokenValue gen s.tag slot s.h.coreSlot.2 7 o.prio) ∧
      ∃ q, t.work.ops.getLast? = some q ∧ q.kind = 7 ∧ q.replied = true ∧ q.slot = slot ∧ q.gen = gen ∧ q.core = s.coreId ∧
        q.record = o.record := by
  have hexec := adopt_eq (k := k) hv hspawned hexited
  rw [h] at hexec
  dsimp only at hexec
  rw [if_neg (Nat.not_le.mpr hroom)] at hexec
  obtain ⟨hgrp, hh, hmem, -, -⟩ := dropOp_keeps s o
  refine ⟨_, hexec, keepsRegisters ?_ (congrArg Hart.x hh :), fun r => ?_, _, List.getLast?_concat, rfl, rfl, rfl, rfl, rfl, rfl⟩
  · exact (KeepsFiles.of_eq hh hgrp hmem).trans ⟨rfl, rfl, rfl, rfl, rfl, rfl⟩
  · rw [State.retire_k]
    refine (State.k_setK (s.dropOp o) k r _).trans ?_
    rw [State.k, hh, State.k]

end

/-! ## FENCE.K (R130) -/

section
variable {s : State} {f : Fin 8}

theorem fenceK_illegal (hf : 5 < f.val) : exec (.fenceK f) s = .next (s.takeTrap { cause := 1, addr := s.word0 }) := by
  show execFenceK f s = _
  unfold execFenceK
  exact if_pos hf

theorem fenceK_holds (hf : f.val ≤ 5) (h : s.fenceKHolds s.h f.val = true) :
    exec (.fenceK f) s = .next (s.block (.fenceK f.val)) := by
  show execFenceK f s = _
  unfold execFenceK
  rw [if_neg (by omega), if_pos h]

/-- No operation that has ended is still to be accepted. -/
theorem fenceK_open (h : ∀ o, o ∈ s.work.ops → o.hart = s.h.id → o.st.ended = true) (scope : Nat) :
    s.fenceKHolds s.h scope = false := by
  refine Bool.eq_false_iff.mpr fun hholds => ?_
  unfold State.fenceKHolds at hholds
  rw [List.any_eq_true] at hholds
  obtain ⟨o, ho, hwaits⟩ := hholds
  rw [Bool.and_eq_true, Bool.and_eq_true] at hwaits
  obtain ⟨⟨hhart, -⟩, hwaits⟩ := hwaits
  unfold State.fenceWaits at hwaits
  rw [h o ho (eq_of_beq hhart)] at hwaits
  exact Bool.false_ne_true hwaits

theorem fenceK_answers (hf : f.val ≤ 5) (h : ∀ o, o ∈ s.work.ops → o.hart = s.h.id → o.st.ended = true) :
    OnlyAdvances (exec (.fenceK f) s) s := by
  have hexec : exec (.fenceK f) s = .next s.retire := by
    show execFenceK f s = _
    unfold execFenceK
    rw [if_neg (by omega), if_neg (by rw [fenceK_open h]; decide)]
  rw [hexec]
  exact retire_onlyAdvances s

end

/-- Settles O41: each instruction by the operation that its token names, and what the group leaves of its thread. -/
theorem tokensAreMovedAndCancelled : Obligations.TokensAreMovedAndCancelled := by
  unfold Obligations.TokensAreMovedAndCancelled
  intro s k a b c
  refine ⟨fun hempty => ?_, fun o ho => cancel_answers ho, ⟨kprio_illegal, kprio_answers⟩, fun d => kmov_answers s d k,
    fun l pa o hreach hkind htype halign hgen ho hbound hroom hr hop hlater =>
      detach_answers hreach hkind htype halign hgen ho hbound hroom hlater hr hop,
    fun hv hspawned hexited => ⟨adopt_none hv hspawned hexited, fun o => adopt_some hv hspawned hexited⟩,
    fun f => ⟨fenceK_illegal, fenceK_holds, fenceK_answers⟩⟩
  rw [cancel_empty hempty]
  exact retire_onlyAdvances s

end Sys2Proof.TokenMoves
end

section
/-! PROOFS. The end of an INVALR while a CLEANR of the same line is under way (R129, R265): O46. -/

namespace Sys2Proof.Maintenance

open Sys2Proof Sys2Proof.Machine

/-- WRITE_BACK_COMPLETE of a CLEANR or INVALR of which nothing is left to write: each of its lines is done in turn (R265). -/
theorem writeBackComplete_clean {s : State} {w : WriteBack} (hw : s.lat.writeBacks[s.evArg 0]? = some w)
    (hclean : ∀ x, x ∈ w.lines → x.2 = none) : exec .writeBackComplete s =
      .next (w.lines.foldl (fun u x => u.lineDone w.inval x)
        { s with lat := { s.lat with writeBacks := s.lat.writeBacks.eraseIdx (s.evArg 0) } }) := by
  have hwaits : ¬ w.lines.any (fun x => x.2.isSome && s.dramWaits (w.hart.pkg s) (64 * x.1)) = true := by
    intro h
    obtain ⟨x, hx, hwait⟩ := List.any_eq_true.mp h
    rw [hclean x hx] at hwait
    exact Bool.false_ne_true hwait
  show execWriteBackComplete s = _
  unfold execWriteBackComplete
  rw [hw]
  exact if_neg hwaits

/-! ## An INVALR that ends before an earlier CLEANR of its line -/

/-- A CLEANR of line 0, which was dirty at the instruction and held 1. -/
def cleaning : WriteBack := { hart := .thread 1 0, ctx := 1, lo := 0, hi := 64, inval := false, lines := [(0, some 1)] }

/-- A later INVALR of the line, which the CLEANR has left clean. -/
def removing : WriteBack := { hart := .thread 1 1, ctx := 1, lo := 0, hi := 64, inval := true, lines := [(0, none)] }

/-- The machine with both under way, about to end the INVALR: a cluster cache holds the line clean, and DRAM has not yet what the
CLEANR writes back. -/
def overlapping : State where
  ev := [1]
  mem := [(0, 1)]
  lat := { cache := [{ cluster := 0, line := 0, dirty := false }], dram := [(0, 0)], writeBacks := [cleaning, removing] }

/-- The line that leaves the caches is written back, so that the CLEANR has nothing of it left to write (`State.settleLine`). -/
theorem overlapping_after : (removing.lines.foldl (fun u x => State.lineDone u true x)
    { overlapping with lat := { overlapping.lat with writeBacks := [cleaning] } }).lat.writeBacks = [cleaning.written 0] := by
  decide +kernel

/-- Refutes O46: its clause for WRITE_BACK_COMPLETE keeps every other CLEANR and INVALR under way as it is. Where an INVALR ends
while an earlier CLEANR of its line is under way, the line that it takes out of the caches is written back (R129, R265), and the
CLEANR is left with nothing of that line to write. -/
theorem not_operationsHandlersAndPages : ¬ Obligations.OperationsHandlersAndPages := by
  unfold Obligations.OperationsHandlersAndPages
  intro h
  obtain ⟨-, -, -, -, -, hdone, -⟩ := h overlapping
  have hclean (x : Nat × Option Nat) (hx : x ∈ removing.lines) : x.2 = none := by
    rw [List.mem_singleton.mp hx]
  obtain ⟨t, ht, hleft, -⟩ := hdone removing rfl (fun x hx hsome => absurd (hclean x hx) hsome)
  rw [writeBackComplete_clean (s := overlapping) (w := removing) rfl hclean] at ht
  obtain rfl := Host.Outcome.next.inj ht
  have hsame : [cleaning.written 0] = [cleaning] := overlapping_after.symm.trans hleft
  exact absurd hsame (by decide)

end Sys2Proof.Maintenance
end

section
/-! PROOFS. Arrival, start and cancel of operations (R192, R201 to R203, R454): O47. -/

namespace Sys2Proof.EngineOps

open Sys2Proof Sys2Proof.Machine Sys2Proof.LatticeCells Sys2Proof.ThreadReplies Sys2Proof.ContextEnds Sys2Proof.ChildOps

/-! ## What the arrival of a message leaves -/

section
variable (s : State) (p : Msg)

theorem arrived_sameMem : SameMem s (arrived s p) := fun a => by rw [arrived_mem]

theorem arrived_ops : (arrived s p).work.ops = s.work.ops := by
  unfold arrived State.taken
  split <;> rfl

theorem arrived_op? (c k g : Nat) : (arrived s p).op? c k g = s.op? c k g := op?_congr (arrived_ops s p) c k g

theorem arrived_ctx? {c : Nat} {x : Ctx} (hx : s.ctx? c = some x) : ∃ y, (arrived s p).ctx? c = some y := by
  unfold arrived State.taken
  split
  · refine ⟨_, (find?_updWhere (fun y : Ctx => y.handle == c) _ _ s.work.ctxs fun y _ => ?_).trans (congrArg _ hx)⟩
    split <;> rfl
  · exact ⟨x, hx⟩

end

/-! ## ENGINE_MESSAGE_ARRIVAL (R192, R201, R337, R454) -/

theorem foldl_send_work {α : Type} (f : α → Msg) (l : List α) (s : State) : (l.foldl (fun t a => t.send (f a)) s).work = s.work := by
  induction l generalizing s with
  | nil => rfl
  | cons a l ih => exact ih (s.send (f a))

theorem foldl_send_mem {α : Type} (f : α → Msg) (l : List α) (s : State) : (l.foldl (fun t a => t.send (f a)) s).mem = s.mem :=
  (reports_foldl _ (fun t a => reports_send t (f a)) l s).mem

/-- An operation whose message arrives is marked so; what else its engine does are messages and the instances of its gang. -/
theorem arrive_keeps (s : State) (o : Op) : (s.arrive o).mem = s.mem ∧
    (s.arrive o).work.ops = (s.setOp { o with arrived := true }).work.ops ∧ (o.kind ≤ 3 → (s.arrive o).lat = s.lat) := by
  unfold State.arrive
  dsimp only
  split
  · next h4 =>
    exact ⟨foldl_send_mem _ _ _, congrArg Work.ops (foldl_send_work _ _ _), fun h => by omega⟩
  · split
    · next h5 =>
      refine ⟨?_, ?_, fun h => by omega⟩
      · unfold State.collArrive
        split <;> rfl
      · unfold State.collArrive
        split <;> rfl
    · split
      · next h6 => exact ⟨rfl, rfl, fun h => by omega⟩
      · exact ⟨rfl, rfl, fun _ => rfl⟩

section
variable {s : State} {p : Msg} {c k g : Nat} {o : Op} (hd : s.delivers p) (ho : s.op? c k g = some o)

section
variable (hb : p.body = .engine c k g) (hst : o.st.ended = false)
include hd ho hb hst

theorem engineMessageArrival_eq : exec .engineMessageArrival s = .next (if o.aft.isEmpty then (arrived s p).arrive o else s) := by
  show execEngineMessageArrival s = _
  unfold execEngineMessageArrival
  rw [deliver_eq hd, hb]
  dsimp only
  rw [arrived_op?, ho]
  dsimp only
  rw [if_neg (by rw [hst]; decide)]
  split <;> rfl

theorem engineMessageArrival_answers (haft : o.aft = []) : Answers (exec .engineMessageArrival s) fun t => SameMem s t ∧
    t.op? c k g = some { o with arrived := true } ∧ (o.kind ≤ 3 → t.lat.net = s.lat.net.eraseIdx (s.evArg 0)) := by
  have hexec := engineMessageArrival_eq hd ho hb hst
  rw [haft] at hexec
  obtain ⟨hmem, hops, hlat⟩ := arrive_keeps (arrived s p) o
  obtain ⟨-, -, -, h4, h5⟩ := op?_name ho
  refine ⟨_, hexec, fun a => ?_, ?_, fun hkind => ?_⟩
  · exact (congrArg (Mem.read · a) hmem).trans (arrived_sameMem s p a)
  · refine (op?_congr hops c k g).trans ?_
    exact op?_setOp ((arrived_op? s p c k g).trans ho) (same_self o) h4 h5
  · exact (congrArg Lattice.net (hlat hkind)).trans (arrived_net s p)

theorem engineMessageArrival_waits (haft : o.aft ≠ []) : exec .engineMessageArrival s = .next s := by
  rw [engineMessageArrival_eq hd ho hb hst, if_neg (fun h => haft (List.isEmpty_iff.mp h))]

end

/-! ## OPERATION_START (R202) -/

/-- The first tile of a matrix operation that starts. -/
def withHead (o : Op) (n : Nat) (p : Op) : Op := if p.same o ∧ o.kind = 1 ∧ o.st = .queued then { p with h0 := n } else p

/-- An operation of the list after `o` has started, with `n` its first tile. -/
def started (o : Op) (n : Nat) (p : Op) : Op := withHead o n (o.afterStart p)

theorem withHead_keeps (o : Op) (n : Nat) (p : Op) : (withHead o n p).core = p.core ∧ (withHead o n p).slot = p.slot ∧
    (withHead o n p).gen = p.gen ∧ (withHead o n p).hold = p.hold ∧ (withHead o n p).st = p.st := by
  unfold withHead
  split <;> exact ⟨rfl, rfl, rfl, rfl, rfl⟩

theorem afterStart_name (o p : Op) : (o.afterStart p).core = p.core ∧ (o.afterStart p).slot = p.slot ∧ (o.afterStart p).gen = p.gen ∧
    (o.afterStart p).hold = p.hold := by
  unfold Op.afterStart
  split
  · exact ⟨rfl, rfl, rfl, rfl⟩
  · split <;> exact ⟨rfl, rfl, rfl, rfl⟩

theorem started_st (o : Op) (n : Nat) : (started o n o).st = .running := by
  obtain ⟨-, -, -, -, hst⟩ := withHead_keeps o n (o.afterStart o)
  rw [started, hst, Op.afterStart, if_pos (same_self o)]

/-- Another operation that its engine ran, at a unit boundary, is suspended. -/
theorem started_other {o q : Op} (n : Nat) (hkind : o.kind ≠ 4) (hq : q.same o = false) (heng : q.sameEngine o = true)
    (hst : q.st = .running) (hbegun : q.begun = false) : started o n q = { q with st := .suspended } := by
  have hexcl : o.exclusive = true := bne_iff_ne.mpr hkind
  have hafter : o.afterStart q = { q with st := .suspended } := by
    unfold Op.afterStart
    rw [if_neg (by rw [hq]; decide), hexcl, heng, hst, hbegun]
    rfl
  have hsame : ({ q with st := .suspended } : Op).same o = false := hq
  rw [started, hafter, withHead, if_neg (fun h => Bool.false_ne_true (hsame.symm.trans h.1))]

/-- An operation by its name, after a change of all operations that keeps names and holds. -/
theorem op?_map {s : State} {c k g : Nat} (f : Op → Op) (hf : ∀ x, (f x).core = x.core ∧ (f x).slot = x.slot ∧ (f x).gen = x.gen ∧
    (f x).hold = x.hold) : ({ s with work := { s.work with ops := s.work.ops.map f } } : State).op? c k g = (s.op? c k g).map f := by
  have hcond : ((fun o : Op => o.is c k g && o.hold != 4 && o.hold != 5) ∘ f) = fun o => o.is c k g && o.hold != 4 && o.hold != 5 := by
    funext x
    obtain ⟨hcore, hslot, hgen, hhold⟩ := hf x
    simp only [Function.comp, Op.is, hcore, hslot, hgen, hhold]
  unfold State.op?
  rw [List.find?_map, hcond]

theorem operationStart_eq {s : State} {o : Op} (ho : s.opAt (s.evArg 0) = some o) (hkind : o.kind ≠ 4) (hstart : s.startable o = true)
    (hready : s.collReady o = true) (hfits : s.unitFits o = true) (hnext : s.isNext o = true) :
    ∃ n, exec .operationStart s = .next { s with work := { s.work with ops := s.work.ops.map (started o n) } } := by
  refine ⟨(o.work.ring?.map (fun r => (s.ringOf o r).head)).getD 0, ?_⟩
  have hgo : (o.kind ≠ 4 && s.canStart o && (!o.exclusive || (s.unitFits o && s.isNext o))) = true := by
    rw [State.canStart, hstart, hready, hfits, hnext, decide_eq_true hkind, Bool.and_self, Bool.and_self, Bool.or_true, Bool.and_self]
  show execOperationStart s = _
  unfold execOperationStart
  rw [ho]
  dsimp only
  rw [if_pos hgo, List.map_map]
  rfl

theorem operationStart_answers {s : State} {o : Op} (ho : s.opAt (s.evArg 0) = some o) (hop : s.hasOp o) (hkind : o.kind ≠ 4)
    (hstart : s.startable o = true) (hready : s.collReady o = true) (hfits : s.unitFits o = true) (hnext : s.isNext o = true) :
    Answers (exec .operationStart s) fun t => SameMem s t ∧ t.lat = s.lat ∧
      (∃ n, t.op? o.core o.slot o.gen = some n ∧ n.st = .running) ∧
      (∀ q, q ∈ s.work.ops → q.same o = false → q.sameEngine o = true → q.st = .running → q.begun = false →
        { q with st := .suspended } ∈ t.work.ops) := by
  obtain ⟨n, hexec⟩ := operationStart_eq ho hkind hstart hready hfits hnext
  refine ⟨_, hexec, fun _ => rfl, rfl, ⟨started o n o, ?_, started_st o n⟩, fun q hq hsame heng hst hbegun => ?_⟩
  · refine (op?_map (started o n) fun x => ?_).trans (congrArg (Option.map (started o n)) hop)
    obtain ⟨hcore, hslot, hgen, hhold⟩ := afterStart_name o x
    obtain ⟨hcore', hslot', hgen', hhold', -⟩ := withHead_keeps o n (o.afterStart x)
    exact ⟨hcore'.trans hcore, hslot'.trans hslot, hgen'.trans hgen, hhold'.trans hhold⟩
  · rw [← started_other n hkind hsame heng hst hbegun]
    exact List.mem_map_of_mem hq

/-! ## CANCEL_ARRIVAL (R203, R454) -/

theorem updHart_lat (s : State) (id : HartId) (f : Hart → Hart) : (s.updHart id f).lat = s.lat := by
  unfold State.updHart
  split
  · rfl
  · exact putHart_lat _ _

theorem updHart_work (s : State) (id : HartId) (f : Hart → Hart) : (s.updHart id f).work = s.work := by
  unfold State.updHart
  split
  · rfl
  · exact putHart_work _ _

/-- The ends of a collective's instances are noted at their gang. -/
theorem collEnds_gangs (s : State) (o : Op) (code : Nat) :
    ∃ gangs, s.collEnds o code = { s with work := { s.work with gangs := gangs } } := by
  unfold State.collEnds
  split
  · exact ⟨_, rfl⟩
  · exact ⟨_, rfl⟩

/-- An operation that has been cancelled, on a core of a package. -/
def cancelledOp (o : Op) (pkg : Nat) : Op := { o with st := .cancelled, cls := 0, code := 0, addr := 0, waitVa := none, pkg := pkg }

/-- The reply of an operation that ends as cancelled (R199, R205). -/
def cancelReply (o : Op) : Msg :=
  { src := o.engine, ctx := o.ctx, dest := .core o.core
    body := .opReply o.core o.slot o.gen (5 * 2 ^ 61 + o.units % 2 ^ 32) 0 }

theorem send_reply {s : State} {m : Msg} (h : s.isStopping m.ctx = false) : (s.send m).lat.net = s.lat.net ++ [m] := by
  unfold State.send State.discards
  rw [h, Bool.and_false]
  rfl

/-- An operation in its token slot is cancelled at its engine, which replies. -/
theorem stopOp_cancelled {s : State} {o : Op} (hhold : o.hold = 0) (hstop : s.isStopping o.ctx = false) :
    let t := s.stopOp o .cancelled 0 0 0
    t.mem = s.mem ∧ t.work.ops = (s.setOp (cancelledOp o (physPkg (s.physOf o.core)))).work.ops ∧ t.work.ctxs = s.work.ctxs ∧
      t.lat.net = s.lat.net ++ [cancelReply o] := by
  have hend : ∃ gangs, s.endOp o .cancelled 0 0 0 = ({ s.setOp (cancelledOp o (physPkg (s.physOf o.core))) with
      work := { (s.setOp (cancelledOp o (physPkg (s.physOf o.core)))).work with gangs := gangs } } : State).send
        (cancelReply o) := by
    obtain ⟨gangs, hgangs⟩ := collEnds_gangs (s.setOp (cancelledOp o (physPkg (s.physOf o.core))))
      (cancelledOp o (physPkg (s.physOf o.core))) 5
    refine ⟨gangs, ?_⟩
    rw [← hgangs]
    unfold State.endOp
    dsimp only
    rw [if_neg (by rw [hhold]; decide)]
    rfl
  obtain ⟨gangs, hend⟩ := hend
  dsimp only
  rw [State.stopOp, hend, State.failStream, updHart_mem, updHart_work, updHart_lat]
  exact ⟨rfl, rfl, rfl, send_reply hstop⟩

end

end Sys2Proof.EngineOps
end

section
/-! PROOFS. A cancel that reaches the engine of its operation (R203, R454): O47. -/

namespace Sys2Proof.EngineOps

open Sys2Proof Sys2Proof.Machine Sys2Proof.LatticeCells Sys2Proof.ThreadReplies Sys2Proof.ContextEnds Sys2Proof.ChildOps

/-! ## What a cancel makes of its operation -/

section
variable {s : State} {o : Op}

/-- A cancel at a unit boundary, in a stall or with the page under repair ends the operation. -/
theorem cancelRunning_boundary (h : o.begun = false ∨ o.waitVa.isSome = true ∨ s.stalled o = true) :
    s.cancelRunning o = (s.setDetrel o.ctx).stopOp o .cancelled 0 0 0 := by
  unfold State.cancelRunning
  refine if_neg fun hgo => ?_
  rw [Bool.and_eq_true, Bool.and_eq_true, Bool.not_eq_true', Option.isNone_iff_eq_none] at hgo
  obtain ⟨⟨hbegun, hwait⟩, hstall⟩ := hgo
  rcases h with h | h | h
  · exact Bool.false_ne_true (h.symm.trans hbegun)
  · rw [hwait] at h
    exact Bool.false_ne_true h
  · exact Bool.false_ne_true (hstall.symm.trans h)

theorem cancelRunning_begun (hbegun : o.begun = true) (hwait : o.waitVa = none) (hstall : s.stalled o = false) :
    s.cancelRunning o = (s.setDetrel o.ctx).setOp { o with cut := true } := by
  unfold State.cancelRunning
  rw [hbegun, hwait, hstall]
  rfl

theorem cancelAt_started (h : o.st = .running ∨ o.st = .suspended) : s.cancelAt o = s.cancelRunning o := by
  unfold State.cancelAt
  rcases h with h | h <;> rw [h]

theorem cancelAt_over (h : o.st = .done ∨ o.st = .failed) : s.cancelAt o = s.setDetrel o.ctx := by
  unfold State.cancelAt
  rcases h with h | h <;> rw [h]

/-- A cancel that takes effect at once stops its operation, in a state that keeps memory, the network and the operations. -/
theorem cancelAt_stops (hst : o.st.ended = false) (h : o.begun = false ∨ o.waitVa.isSome = true ∨ s.stalled o = true) :
    ∃ u l, s.cancelAt o = u.stopOp { o with aft := l } .cancelled 0 0 0 ∧ u.mem = s.mem ∧ u.lat = s.lat ∧
      u.work.ops = s.work.ops ∧ u.isStopping o.ctx = s.isStopping o.ctx ∧ (o.st ≠ .queued → u = s.setDetrel o.ctx) := by
  have hrun : s.cancelAt o = s.cancelRunning o → ∃ u l, s.cancelAt o = u.stopOp { o with aft := l } .cancelled 0 0 0 ∧
      u.mem = s.mem ∧ u.lat = s.lat ∧ u.work.ops = s.work.ops ∧ u.isStopping o.ctx = s.isStopping o.ctx ∧
      (o.st ≠ .queued → u = s.setDetrel o.ctx) := by
    intro hat
    obtain ⟨-, -, hmem, hlat, hops, -⟩ := setDetrel_keeps s o.ctx
    exact ⟨_, o.aft, hat.trans (cancelRunning_boundary h), hmem, hlat, hops, (reports_setDetrel s o.ctx).stopping o.ctx, fun _ => rfl⟩
  cases hq : o.st with
  | queued =>
    by_cases hcoll : s.collArrived o = true
    · refine hq ▸ hrun ?_
      unfold State.cancelAt
      rw [hq]
      exact if_pos hcoll
    · obtain ⟨gangs, hgangs⟩ := collEnds_gangs s o 6
      refine ⟨s.collEnds o 6, [], ?_, ?_, ?_, ?_, ?_, fun hne => absurd rfl hne⟩
      · unfold State.cancelAt
        rw [hq]
        exact if_neg hcoll
      · rw [hgangs]
      · rw [hgangs]
      · rw [hgangs]
      · rw [hgangs]
        rfl
  | running => exact hq ▸ hrun (cancelAt_started (.inl hq))
  | suspended => exact hq ▸ hrun (cancelAt_started (.inr hq))
  | done => rw [hq] at hst; cases hst
  | failed => rw [hq] at hst; cases hst
  | cancelled => rw [hq] at hst; cases hst

end

/-! ## CANCEL_ARRIVAL -/

section
variable {s : State} {p : Msg}

theorem takeMsg_eq (hd : s.delivers p) : s.takeMsg (s.evArg 0) = some (p, arrived s p) := by
  obtain ⟨hdel, hnet, -⟩ := hd
  unfold State.takeMsg
  rw [if_pos hdel, hnet]
  rfl

/-- A cancel that arrives for a started operation releases its context from determinism (R203). -/
theorem arrived_setDetrel_detrel {n : Nat} {x : Ctx} (hx : s.ctx? n = some x) :
    ∃ y, ((arrived s p).setDetrel n).ctx? n = some y ∧ y.detrel = true := by
  obtain ⟨y, hy⟩ := arrived_ctx? s p hx
  exact setDetrel_detrel hy

theorem arrived_setDetrel_keeps (s : State) (p : Msg) (n : Nat) : SameMem s ((arrived s p).setDetrel n) ∧
    ((arrived s p).setDetrel n).lat.net = s.lat.net.eraseIdx (s.evArg 0) ∧
    ((arrived s p).setDetrel n).work.ops = s.work.ops := by
  obtain ⟨-, -, hmem, hlat, hops, -⟩ := setDetrel_keeps (arrived s p) n
  refine ⟨fun a => ?_, (congrArg Lattice.net hlat).trans (arrived_net s p), hops.trans (arrived_ops s p)⟩
  rw [hmem, arrived_mem]

section
variable {c k g : Nat} {o : Op} (hd : s.delivers p) (hb : p.body = .cancel c k g) (ho : s.op? c k g = some o)
include hd hb ho

theorem cancelArrival_eq : exec .cancelArrival s = .next ((arrived s p).cancelAt o) := by
  show execCancelArrival s = _
  unfold execCancelArrival
  rw [deliver_eq hd, hb]
  dsimp only
  rw [arrived_op?, ho]
  rfl

theorem cancelArrival_cancels (hhold : o.hold = 0) (hst : o.st.ended = false) (hstop : s.isStopping o.ctx = false)
    (h : o.begun = false ∨ o.waitVa.isSome = true ∨ (arrived s p).stalled o = true) :
    Answers (exec .cancelArrival s) fun t => SameMem s t ∧
      (∃ n, t.op? c k g = some n ∧ n.st = .cancelled ∧ n.units = o.units) ∧
      t.lat.net = s.lat.net.eraseIdx (s.evArg 0) ++ [cancelReply o] ∧
      (o.st ≠ .queued → ∀ x, s.ctx? o.ctx = some x → ∃ y, t.ctx? o.ctx = some y ∧ y.detrel = true) := by
  obtain ⟨u, l, hat, hmem, hlat, hops, hustop, hdetrel⟩ := cancelAt_stops (s := arrived s p) hst h
  have hgo : u.isStopping o.ctx = false := hustop.trans ((arrived_isStopping s p o.ctx).trans hstop)
  obtain ⟨hmem', hops', hctxs', hnet'⟩ := stopOp_cancelled (s := u) (o := { o with aft := l }) hhold hgo
  refine ⟨u.stopOp { o with aft := l } .cancelled 0 0 0, by rw [cancelArrival_eq hd hb ho, hat], fun a => ?_,
    ⟨cancelledOp { o with aft := l } (physPkg (u.physOf o.core)), ?_, rfl, rfl⟩, ?_, fun hne x hx => ?_⟩
  · rw [hmem', hmem, arrived_mem]
  · refine (op?_congr hops' c k g).trans (op?_setOp (o := o) ?_ (same_self o) ?_ ?_)
    · exact (op?_congr (hops.trans (arrived_ops s p)) c k g).trans ho
    · show o.hold ≠ 4
      omega
    · show o.hold ≠ 5
      omega
  · rw [hnet', hlat, arrived_net]
    rfl
  · obtain ⟨y, hy, hrel⟩ := arrived_setDetrel_detrel (p := p) hx
    refine ⟨y, ?_, hrel⟩
    rw [State.ctx?, hctxs', ← State.ctx?, hdetrel hne, hy]

theorem cancelArrival_waits (hrun : o.st = .running ∨ o.st = .suspended) (hbegun : o.begun = true) (hwait : o.waitVa = none)
    (hstall : (arrived s p).stalled o = false) : Answers (exec .cancelArrival s) fun t => SameMem s t ∧
      t.op? c k g = some { o with cut := true } ∧ t.lat.net = s.lat.net.eraseIdx (s.evArg 0) ∧
      ∀ x, s.ctx? o.ctx = some x → ∃ y, t.ctx? o.ctx = some y ∧ y.detrel = true := by
  obtain ⟨hmem, hnet, hops⟩ := arrived_setDetrel_keeps s p o.ctx
  obtain ⟨-, -, -, h4, h5⟩ := op?_name ho
  refine ⟨((arrived s p).setDetrel o.ctx).setOp { o with cut := true }, ?_, hmem, ?_, hnet, fun x hx => arrived_setDetrel_detrel hx⟩
  · rw [cancelArrival_eq hd hb ho, cancelAt_started hrun, cancelRunning_begun hbegun hwait hstall]
  · exact op?_setOp ((op?_congr hops c k g).trans ho) (same_self o) h4 h5

theorem cancelArrival_over (hover : o.st = .done ∨ o.st = .failed) : Answers (exec .cancelArrival s) fun t => SameMem s t ∧
    t.op? c k g = some o ∧ t.lat.net = s.lat.net.eraseIdx (s.evArg 0) ∧
    ∀ x, s.ctx? o.ctx = some x → ∃ y, t.ctx? o.ctx = some y ∧ y.detrel = true := by
  obtain ⟨hmem, hnet, hops⟩ := arrived_setDetrel_keeps s p o.ctx
  refine ⟨(arrived s p).setDetrel o.ctx, ?_, hmem, (op?_congr hops c k g).trans ho, hnet, fun x hx => arrived_setDetrel_detrel hx⟩
  rw [cancelArrival_eq hd hb ho, cancelAt_over hover]

end

end

end Sys2Proof.EngineOps
end

section
/-! PROOFS. The arm sequencer and the retention of armed macros (R52, R53, R55): O47. -/

namespace Sys2Proof.EngineOps

open Sys2Proof Sys2Proof.Machine Sys2Proof.LatticeCells Sys2Proof.ThreadReplies Sys2Proof.ContextEnds Sys2Proof.ChildOps

/-! ## A thread and its core state, both changed -/

theorem core?_updCore {s : State} {n : Nat} {c : Core} {f : Core → Core} (hc : s.core? n = some c) (hf : ∀ x, (f x).id = x.id) :
    (s.updCore n f).core? n = some (f c) := by
  have hid : (c.id == n) = true := List.find?_some (p := fun x : Core => x.id == n) hc
  have hfind : (s.updCore n f).core? n = (s.core? n).map (fun x => if x.id == n then f x else x) :=
    find?_updWhere _ _ _ _ (fun x _ => by rw [hf])
  rw [hfind, hc, Option.map_some, if_pos hid]

theorem core?_updHart (s : State) (id : HartId) (f : Hart → Hart) (n : Nat) : (s.updHart id f).core? n = s.core? n := by
  rw [State.core?, updHart_work, ← State.core?]

/-- A core state, a thread of it that it lists, and memory that is as in `s`. -/
structure Holds (s t : State) (core slot : Nat) (h : Hart) (c : Core) : Prop where
  mem : SameMem s t
  hart : t.hart? (.thread core slot) = some h
  core : t.core? core = some c

namespace Holds

variable {s t : State} {core slot : Nat} {h : Hart} {c : Core}

theorem updHart (a : Holds s t core slot h c) {f : Hart → Hart} (hf : (f h).id = h.id) :
    Holds s (t.updHart (.thread core slot) f) core slot (f h) c :=
  ⟨fun b => by rw [updHart_mem, a.mem], hart?_updHart f a.hart (hf.trans (hart?_thread_id a.hart)),
    (core?_updHart t _ f core).trans a.core⟩

theorem updCore (a : Holds s t core slot h c) {f : Core → Core} (hf : ∀ x, (f x).id = x.id) :
    Holds s (t.updCore core f) core slot h (f c) :=
  ⟨a.mem, a.hart, core?_updCore a.core hf⟩

theorem seqDone (a : Holds s t core slot h c) (r : Reply) :
    Holds s (t.seqDone core slot r) core slot { h with reply := some r } { c with seq := c.seq.drop 1 } :=
  (a.updCore (f := fun x => { x with seq := x.seq.drop 1 }) fun _ => rfl).updHart (f := fun g => { g with reply := some r }) rfl

end Holds

/-! ## ARM_SEQUENCER_MACRO (R52, R53) -/

/-- The region that the macros of a request share: the one the first of them took, or the next of its core state. -/
def seqRegion (q : SeqReq) (c : Core) : Nat := if q.scanned then q.region else c.arms

/-- The core state once its sequencer has finished the next of the macros of the request at its head. -/
def seqCore (q : SeqReq) (l : List SeqReq) (c x : Core) : Core :=
  { x with seq := { q with scanned := true, region := seqRegion q c, next := q.next + 1 } :: l
           arms := if q.scanned then x.arms else x.arms + 1 }

/-- The state once the sequencer has finished the next of a request's macros, before it answers the thread. -/
def seqStepped (s : State) (n : Nat) (q : SeqReq) (l : List SeqReq) (c : Core) : State :=
  (s.updHart (.thread n q.slot) (fun g => g.seqMacro q (seqRegion q c))).updCore n (seqCore q l c)

theorem seqMacro_keeps (h : Hart) (q : SeqReq) (k : Nat) : (h.seqMacro q k).id = h.id ∧ (h.seqMacro q k).reply = h.reply := by
  unfold Hart.seqMacro
  split <;> exact ⟨rfl, rfl⟩

theorem seqMacro_armed (h : Hart) (q : SeqReq) (k : Nat) : (h.seqMacro q k).t.scr.armed =
    if q.arm then h.t.scr.armed ++ [armMacro h.t.scr.w q.fmt (q.off + q.next * 0x6000) (q.soff + q.next * mxN q.fmt) k]
    else h.t.scr.armed.filter (fun a => a.off != q.off + q.next * 0x6000) := by
  unfold Hart.seqMacro
  split <;> rfl

theorem seqStepped_holds {s : State} {n : Nat} {c : Core} {q : SeqReq} {h : Hart} (l : List SeqReq) (hc : s.core? n = some c)
    (hh : s.hart? (.thread n q.slot) = some h) :
    Holds s (seqStepped s n q l c) n q.slot (h.seqMacro q (seqRegion q c)) (seqCore q l c c) :=
  ((Holds.mk (fun _ => rfl) hh hc : Holds s s n q.slot h c).updHart (seqMacro_keeps h q _).1).updCore fun _ => rfl

section
variable {s : State} {c : Core} {q : SeqReq} {l : List SeqReq} {h : Hart} (hc : s.core? (s.evArg 0) = some c) (hseq : c.seq = q :: l)
  (hh : s.hart? (.thread (s.evArg 0) q.slot) = some h) (hplaced : s.isPlaced (s.evArg 0) = true) (hok : s.evArg 1 ≠ 1)
include hc hseq hh hplaced hok

theorem armSequencerMacro_eq : exec .armSequencerMacro s = .next (match if q.arm && !q.scanned then h.t.scr.armTrap q else none with
    | some (a, d) => s.seqDone (s.evArg 0) q.slot (.trap 0x0C (s.rawW h.task.ctx a) d)
    | none => if q.next + 1 < q.n then seqStepped s (s.evArg 0) q l c
      else (seqStepped s (s.evArg 0) q l c).seqDone (s.evArg 0) q.slot (.value 0 0)) := by
  show execArmSequencerMacro s = _
  unfold execArmSequencerMacro
  dsimp only
  rw [hc]
  dsimp only
  rw [if_pos hplaced, hseq]
  dsimp only
  rw [hh]
  dsimp only
  rw [if_neg hok]
  cases (if q.arm && !q.scanned then h.t.scr.armTrap q else none) <;> rfl

/-- After the last of a request's macros the sequencer answers the thread. -/
theorem armSequencerMacro_steps (hgo : q.arm = false ∨ q.scanned = true ∨ h.t.scr.armTrap q = none) :
    exec .armSequencerMacro s = .next (if q.next + 1 < q.n then seqStepped s (s.evArg 0) q l c
      else (seqStepped s (s.evArg 0) q l c).seqDone (s.evArg 0) q.slot (.value 0 0)) := by
  have hnone : (if q.arm && !q.scanned then h.t.scr.armTrap q else none) = none := by
    rcases hgo with hgo | hgo | hgo
    · rw [hgo]
      rfl
    · rw [hgo, Bool.not_true, Bool.and_false]
      rfl
    · rw [hgo, ite_self]
  rw [armSequencerMacro_eq hc hseq hh hplaced hok, hnone]

theorem armSequencerMacro_finishes (hgo : q.arm = false ∨ q.scanned = true ∨ h.t.scr.armTrap q = none) :
    Answers (exec .armSequencerMacro s) fun t => SameMem s t ∧
      ∃ x y, t.hart? (.thread (s.evArg 0) q.slot) = some x ∧ t.core? (s.evArg 0) = some y ∧
        x.t.scr.armed = (h.seqMacro q (seqRegion q c)).t.scr.armed ∧
        (q.n ≤ q.next + 1 → y.seq = l ∧ x.reply = some (.value 0 0)) ∧
        (q.next + 1 < q.n → x.reply = h.reply ∧ ∃ z, y.seq = z :: l ∧ z.next = q.next + 1) := by
  have hexec := armSequencerMacro_steps hc hseq hh hplaced hok hgo
  have hstep := seqStepped_holds l hc hh
  by_cases hlast : q.n ≤ q.next + 1
  · rw [if_neg (Nat.not_lt.mpr hlast)] at hexec
    have hdone := hstep.seqDone (.value 0 0)
    exact ⟨_, hexec, hdone.mem, _, _, hdone.hart, hdone.core, rfl, fun _ => ⟨rfl, rfl⟩, fun hlt => absurd hlt (Nat.not_lt.mpr hlast)⟩
  · rw [if_pos (Nat.not_le.mp hlast)] at hexec
    exact ⟨_, hexec, hstep.mem, _, _, hstep.hart, hstep.core, rfl, fun hle => absurd hle hlast,
      fun _ => ⟨(seqMacro_keeps h q _).2, _, rfl, rfl⟩⟩

theorem armSequencerMacro_trap {a d : Nat} (harm : q.arm = true) (hscanned : q.scanned = false)
    (htrap : h.t.scr.armTrap q = some (a, d)) : Answers (exec .armSequencerMacro s) fun t => SameMem s t ∧
      ∃ x y, t.hart? (.thread (s.evArg 0) q.slot) = some x ∧ t.core? (s.evArg 0) = some y ∧ x.t.scr = h.t.scr ∧ y.seq = l ∧
        x.reply = some (.trap 0x0C (s.rawW h.task.ctx a) d) := by
  have hholds := (Holds.mk (fun _ => rfl) hh hc : Holds s s (s.evArg 0) q.slot h c).seqDone (.trap 0x0C (s.rawW h.task.ctx a) d)
  refine ⟨_, ?_, hholds.mem, _, _, hholds.hart, hholds.core, rfl, by rw [hseq]; rfl, rfl⟩
  rw [armSequencerMacro_eq hc hseq hh hplaced hok, harm, hscanned, htrap]
  rfl

end

/-! ## RETENTION_ENTRY (R55) -/

/-- Those of a thread's macros that stand at a view offset have entered retention. -/
def retainAt (off : Nat) (h : Hart) : Hart :=
  h.setScr { h.t.scr with armed := updWhere (fun a => a.off == off) (fun a => { a with retained := true }) h.t.scr.armed }

theorem retentionEntry_answers {s : State} {h : Hart} (hh : s.hart? (.thread (s.evArg 0) (s.evArg 1)) = some h) (hok : s.evArg 3 ≠ 1) :
    Answers (exec .retentionEntry s) fun t => SameMem s t ∧
      ∃ x, t.hart? (.thread (s.evArg 0) (s.evArg 1)) = some x ∧ x.t.scr.armed.length = h.t.scr.armed.length ∧
        ∀ (i : Nat) (a : Armed), h.t.scr.armed[i]? = some a →
          x.t.scr.armed[i]? = some (if a.off = s.evArg 2 then { a with retained := true } else a) := by
  have hexec : exec .retentionEntry s = .next (s.updHart (.thread (s.evArg 0) (s.evArg 1)) (retainAt (s.evArg 2))) :=
    if_neg fun hloss => hok hloss.1
  refine ⟨_, hexec, fun b => by rw [updHart_mem], retainAt (s.evArg 2) h, ?_, List.length_map .., fun i a ha => ?_⟩
  · have hid : h.id = .thread (s.evArg 0) (s.evArg 1) := hart?_thread_id hh
    exact hart?_updHart _ hh hid
  · refine (List.getElem?_map ..).trans ?_
    rw [ha]
    simp only [Option.map_some, beq_iff_eq]

end Sys2Proof.EngineOps
end

section
/-! PROOFS. The rendezvous of a remote copy (R336, R337), and the engines' obligation: O47. -/

namespace Sys2Proof.EngineOps

open Sys2Proof Sys2Proof.Machine Sys2Proof.LatticeCells Sys2Proof.ThreadReplies Sys2Proof.ContextEnds Sys2Proof.ChildOps

/-! ## The rendezvous of a remote copy (R336, R337) -/

theorem arrived_physOf (s : State) (p : Msg) (n : Nat) : (arrived s p).physOf n = s.physOf n := by
  unfold arrived State.taken
  split <;> rfl

/-- What an address translates to does not depend on a message that arrives. -/
theorem arrived_translate (s : State) (p : Msg) (core : Option Nat) (die ctx task va : Nat) (a : Acc) :
    ((arrived s p).translate core die ctx task va a).2 = (s.translate core die ctx task va a).2 := by
  obtain ⟨r, w, heq⟩ := arrived_eq_beside s p
  have hfind : (arrived s p).tlbFind core die ctx va = s.tlbFind core die ctx va := by rw [heq]; rfl
  have hlost : (arrived s p).lostEntry ctx va = s.lostEntry ctx va := by rw [heq]; rfl
  have hcheck (l : Leaf) : (arrived s p).checkLeaf l va a task = s.checkLeaf l va a task := by rw [heq]; rfl
  unfold State.translate
  rw [hfind, hlost, arrived_walk]
  by_cases hva : bits va 63 57 ≠ 0
  · rw [if_pos hva, if_pos hva]
  · rw [if_neg hva, if_neg hva]
    cases s.tlbFind core die ctx va with
    | some l => exact hcheck l
    | none =>
      cases s.lostEntry ctx va with
      | some pa => rfl
      | none =>
        cases s.walk ctx va with
        | error c => rfl
        | ok l => exact hcheck l

theorem dstFits_go {dst len cs : Nat} (pa : Nat) (h : dst % cs = 0 ∧ len % cs = 0) : dstFits dst len pa cs = .go pa cs :=
  if_neg fun hne => hne.elim (· h.1) (· h.2)

theorem dstFits_refuse {dst len cs : Nat} (pa : Nat) (h : ¬ (dst % cs = 0 ∧ len % cs = 0)) : dstFits dst len pa cs = .refuse 9 0 :=
  if_pos (not_and_or.mp h)

/-- A state with other TLBs. -/
def withTlb (s : State) (tlb : List TlbEntry) : State := { s with lat := { s.lat with tlb := tlb } }

/-- A destination on a page of cells, judged at its rill core: TLBs are filled, and its alignment decides (R336). -/
theorem judgeDst_cells {s : State} {o : Op} {dst pa : Nat} {l : Leaf} (len : Nat)
    (hok : (s.translate none (physDie (s.physOf o.core)) o.ctx o.task dst .latUpdate).2 = .ok l pa) (hkind : l.kind ≠ 6)
    (hctype : l.ctype = 8) : ∃ tlb, s.judgeDst o dst len = (withTlb s tlb, dstFits dst len pa (cellBytes 8 l.csize)) := by
  obtain ⟨tlb, htlb⟩ := TokenMoves.translate_tlb s none (physDie (s.physOf o.core)) o.ctx o.task dst .latUpdate
  refine ⟨tlb, ?_⟩
  unfold State.judgeDst
  dsimp only
  rw [hok]
  dsimp only
  rw [if_neg hkind, if_neg (not_not.mpr hctype), htlb]
  rfl

theorem arrived_judgeDst {s : State} (p : Msg) {o : Op} {dst pa : Nat} {l : Leaf} (len : Nat)
    (hok : (s.translate none (physDie (s.physOf o.core)) o.ctx o.task dst .latUpdate).2 = .ok l pa) (hkind : l.kind ≠ 6)
    (hctype : l.ctype = 8) :
    ∃ tlb, (arrived s p).judgeDst o dst len = (withTlb (arrived s p) tlb, dstFits dst len pa (cellBytes 8 l.csize)) := by
  refine judgeDst_cells len ?_ hkind hctype
  rw [arrived_translate, arrived_physOf]
  exact hok

/-- The answer of the rill core at a destination (R337). -/
def readyReply (p : Msg) (o : Op) (pa : Option Nat) (cls code : Nat) : Msg :=
  { src := .rill p.dest.nodeOf, ctx := o.ctx, dest := .core o.core, body := .ready o.core o.slot o.gen pa cls code }

section
variable {s : State} {p : Msg} {c k g : Nat} {o : Op} (hd : s.delivers p) (ho : s.op? c k g = some o)
include hd ho

/-- A request whose destination is judged is answered, and its operation keeps the cell size of one that is accepted. -/
theorem cpyrRequest_eq {ssp dst src len gen : Nat} {u : State} {r : DstRes} (hb : p.body = .cpyrRequest c k g)
    (hw : o.work = .cpyr ssp dst src len gen) (hjudge : (arrived s p).judgeDst o dst len = (u, r)) :
    exec .cpyrRequest s = .next ((match r with
      | .wait => none
      | .refuse cls code => some (u.send (readyReply p o none cls code))
      | .go pa cs => some ((u.setOp { o with h0 := cs }).send (readyReply p o (some pa) 0 0))).getD s) := by
  show execCpyrRequest s = _
  unfold execCpyrRequest
  rw [deliver_eq hd, hb]
  dsimp only
  rw [arrived_op?, ho]
  dsimp only
  rw [hw]
  dsimp only
  rw [hjudge]
  cases r <;> rfl

theorem cpyrRequest_answers {ssp dst src len gen pa : Nat} {l : Leaf} (hb : p.body = .cpyrRequest c k g)
    (hw : o.work = .cpyr ssp dst src len gen) (hstop : s.isStopping o.ctx = false)
    (hok : (s.translate none (physDie (s.physOf o.core)) o.ctx o.task dst .latUpdate).2 = .ok l pa) (hkind : l.kind ≠ 6)
    (hctype : l.ctype = 8) : Answers (exec .cpyrRequest s) fun t => SameMem s t ∧
      (dst % cellBytes 8 l.csize = 0 ∧ len % cellBytes 8 l.csize = 0 → t.op? c k g = some { o with h0 := cellBytes 8 l.csize } ∧
        t.lat.net = s.lat.net.eraseIdx (s.evArg 0) ++ [readyReply p o (some pa) 0 0]) ∧
      (¬ (dst % cellBytes 8 l.csize = 0 ∧ len % cellBytes 8 l.csize = 0) → t.op? c k g = some o ∧
        t.lat.net = s.lat.net.eraseIdx (s.evArg 0) ++ [readyReply p o none 9 0]) := by
  obtain ⟨tlb, hjudge⟩ := arrived_judgeDst p len hok hkind hctype
  have hexec := cpyrRequest_eq hd ho hb hw hjudge
  have hmem : SameMem s (withTlb (arrived s p) tlb) := arrived_sameMem s p
  have hgo : (arrived s p).isStopping o.ctx = false := (arrived_isStopping s p o.ctx).trans hstop
  have hop : (withTlb (arrived s p) tlb).op? c k g = some o := (arrived_op? s p c k g).trans ho
  obtain ⟨-, -, -, h4, h5⟩ := op?_name ho
  by_cases hfit : dst % cellBytes 8 l.csize = 0 ∧ len % cellBytes 8 l.csize = 0
  · rw [dstFits_go pa hfit] at hexec
    refine ⟨_, hexec, hmem, fun _ => ⟨op?_setOp hop (same_self o) h4 h5, ?_⟩, fun hne => absurd hfit hne⟩
    refine (send_reply ?_).trans (congrArg (· ++ _) (arrived_net s p))
    exact hgo
  · rw [dstFits_refuse pa hfit] at hexec
    refine ⟨_, hexec, hmem, fun h => absurd h hfit, fun _ => ⟨hop, ?_⟩⟩
    refine (send_reply ?_).trans (congrArg (· ++ _) (arrived_net s p))
    exact hgo

theorem readyToReceive_answers {pa : Nat} (hb : p.body = .ready c k g (some pa) 0 0) (hst : o.st.ended = false) :
    Answers (exec .readyToReceive s) fun t => SameMem s t ∧ t.lat.net = s.lat.net.eraseIdx (s.evArg 0) ∧
      t.op? c k g = some { o with dstPa := some pa } := by
  have hexec : exec .readyToReceive s = .next ((arrived s p).setOp { o with dstPa := some pa }) := by
    show execReadyToReceive s = _
    unfold execReadyToReceive
    rw [deliver_eq hd, hb]
    dsimp only
    rw [arrived_op?, ho]
    dsimp only
    rw [if_neg (by rw [hst]; exact Bool.false_ne_true)]
    rfl
  obtain ⟨-, -, -, h4, h5⟩ := op?_name ho
  refine ⟨_, hexec, arrived_sameMem s p, arrived_net s p, ?_⟩
  exact op?_setOp ((arrived_op? s p c k g).trans ho) (same_self o) h4 h5

end

/-! ## O47 -/

/-- Settles O47, event by event; the state in which a cancel looks at stalls is the one that its message leaves. -/
theorem enginesTakeUpOperations : Obligations.EnginesTakeUpOperations := by
  intro s rest reply
  refine ⟨fun p c k g o hd hb ho hst => ?_, fun o ho hop hkind hstart hready hfits hnext => ?_, fun p c k g o hd hb ho hhold => ?_,
    fun c q l h hc hseq hh hplaced hok => ?_, fun h hh hok => retentionEntry_answers hh hok,
    fun p c k g ssp dst src len gen pa o l hd hb ho hcore hslot hgen hw hstop hok hkind hctype => ?_,
    fun p c k g pa o hd hb ho hst => readyToReceive_answers hd ho hb hst⟩
  case refine_1 => exact ⟨engineMessageArrival_answers hd ho hb hst, engineMessageArrival_waits hd ho hb hst⟩
  case refine_2 => exact operationStart_answers ho hop hkind hstart hready hfits hnext
  case refine_3 =>
    obtain ⟨hcore, hslot, hgen, -, -⟩ := op?_name ho
    subst hcore hslot hgen
    refine ⟨fun hst hstop h => ?_, fun hrun hbegun hwait hstall => ?_, cancelArrival_over hd hb ho⟩
    · exact cancelArrival_cancels hd hb ho hhold hst hstop (h.imp_right (Or.imp_right (· _ (takeMsg_eq hd))))
    · exact cancelArrival_waits hd hb ho hrun hbegun hwait (hstall _ (takeMsg_eq hd))
  case refine_4 =>
    refine ⟨fun hgo => ?_, fun a d => armSequencerMacro_trap hc hseq hh hplaced hok⟩
    have h := armSequencerMacro_finishes hc hseq hh hplaced hok hgo
    rw [seqMacro_armed] at h
    exact h
  case refine_5 =>
    subst hcore hslot hgen
    exact cpyrRequest_answers hd ho hb hw hstop hok hkind hctype

end Sys2Proof.EngineOps
end

section
/-! PROOFS. The opcode map gives each row its class, and decoding undoes encoding (R218, R219, R223, R236, R237): O59. -/

namespace Sys2Proof.Encodings

open Sys2Proof Sys2Proof.Machine Sys2Proof.Laws

/-! ## The class of a row (Tables 9.6 to 9.10) -/

/-- The class of the instruction that a row of the opcode map shows, sound or refused by its entry. -/
def rowClass (r : Row) : Class :=
  match r.i with
  | .ok i => i.cls
  | .error i => i.cls

section

variable {p : List Pfx} {fn w b a d op w1 : Nat} {r : Row}

theorem decPage0_class (h : decPage0 p ⟨fn, b, a, d, op⟩ = some r) : tableClass (some 0) op = some (rowClass r) := by
  dsimp only [decPage0, dec0x01, dec0x02, dec0x0D, dec0x1A, dec0x1B, dec0x1C, dec0x1D, dec0x30, dec0x31, dec0x32, dec0x36,
    dec0x37] at h
  repeat' split at h
  all_goals cases h <;> rfl

theorem decPage1_class (h : decPage1 p ⟨fn, b, a, d, op⟩ = some r) : tableClass (some 1) op = some (rowClass r) := by
  dsimp only [decPage1, dec1x01, dec1x02, dec1x03, dec1x04, dec1x05, dec1x06] at h
  repeat' split at h
  all_goals cases h <;> rfl

theorem decPage2_class (h : decPage2 p ⟨fn, b, a, d, op⟩ = some r) : tableClass (some 2) op = some (rowClass r) := by
  dsimp only [decPage2, dec2x03, dec2x04, dec2x05, dec2x06, dec2x10, dec2x11, dec2x12, dec2x13, dec2x14, dec2x15, dec2x16,
    dec2x17, dec2x18, dec2x19] at h
  repeat' split at h
  all_goals cases h <;> rfl

theorem decWinalloc_class (f : Fields64) (w1 : Nat) : rowClass (decWinalloc f w1) = .scratch := by
  dsimp only [decWinalloc]
  repeat' split
  all_goals rfl

theorem dec64_class (h : dec64 p ⟨w, b, a, d, op⟩ w1 = some r) : tableClass none op = some (rowClass r) := by
  by_cases hop : op = 122
  · subst hop
    rw [dec64_winalloc] at h
    cases h
    rw [decWinalloc_class]
    rfl
  · dsimp only [dec64, dec64Lattice, dec64Engine, dec64Coll, dec64Token, dec64Misc] at h
    rw [if_neg hop] at h
    repeat' split at h
    all_goals cases h <;> rfl

/-- The payload of the first word of a kind, as the class tables look it up. -/
theorem payloadOf_eq_find? (k : PKind) (p : List Pfx) : payloadOf k p = (p.find? (fun q => q.kind == k)).map (·.payload) := by
  induction p with
  | nil => rfl
  | cons q p ih =>
    rw [payloadOf, List.find?_cons]
    by_cases hk : q.kind = k
    · rw [if_pos hk, beq_iff_eq.2 hk]
      rfl
    · rw [if_neg hk, beq_eq_false_iff_ne.2 hk]
      exact ih

theorem dec32_class (h : dec32 p ⟨fn, b, a, d, op⟩ = some r) :
    tableClass (some ((payloadOf .page p).getD 0 % 4)) op = some (rowClass r) := by
  unfold dec32 at h
  split at h
  · next hpage => rw [hpage]; exact decPage0_class h
  · next hpage => rw [hpage]; exact decPage1_class h
  · next hpage => rw [hpage]; exact decPage2_class h
  · cases h

/-! ## Decoding -/

/-- The row that the opcode map gives for the words of a group, if it assigns their opcode and fn (R236, R237). -/
def rowOf (p : List Pfx) (w0 w1 : Nat) : Option Row :=
  if w0 % 4 = 2 then dec64 p (fields64Of w0) w1 else dec32 p (fieldsOf w0)

theorem opcodeClass_of_rowOf {w0 : Nat} (h : rowOf p w0 w1 = some r) : opcodeClass p w0 = some (rowClass r) := by
  unfold rowOf at h
  unfold opcodeClass
  split at h
  · next h64 => rw [if_pos h64]; exact dec64_class h
  · next h64 =>
    rw [if_neg h64, ← payloadOf_eq_find?]
    exact dec32_class h

theorem decode_of_rowOf_none {w0 : Nat} (h : rowOf p w0 w1 = none) : decode p w0 w1 = .error .unassigned := by
  unfold decode
  rw [← rowOf, h]

theorem decode_of_rowOf_some {w0 : Nat} (h : rowOf p w0 w1 = some r) : decode p w0 w1 = r.judge p := by
  unfold decode
  rw [← rowOf, h]

/-- A row that passes orders 1 to 3 gives the instruction it shows. -/
theorem shown_of_judge {i : Instr} (h : r.judge p = .ok i) : r.i = .ok i := by
  unfold Row.judge at h
  repeat' split at h
  all_goals cases h
  assumption

theorem opcodeClass_of_decode {w0 : Nat} {i : Instr} (h : decode p w0 w1 = .ok i) : opcodeClass p w0 = some i.cls := by
  cases hrow : rowOf p w0 w1 with
  | none =>
    rw [decode_of_rowOf_none hrow] at h
    cases h
  | some r =>
    rw [decode_of_rowOf_some hrow] at h
    rw [opcodeClass_of_rowOf hrow, rowClass, shown_of_judge h]

theorem decode_unassigned {w0 : Nat} (h : opcodeClass p w0 = none) : decode p w0 w1 = .error .unassigned := by
  refine decode_of_rowOf_none (Option.eq_none_iff_forall_ne_some.2 fun r hrow => ?_)
  rw [opcodeClass_of_rowOf hrow] at h
  cases h

end

/-! ## O59 -/

/-- The words that encode an instruction decode to it: the round trip of each constructor, in their order. -/
theorem roundTrip (i : Instr) : RoundTrip.Statement i :=
  Instr.rec
    RoundTrip.add RoundTrip.sub RoundTrip.and RoundTrip.or RoundTrip.xor RoundTrip.sll RoundTrip.srl RoundTrip.sra
    RoundTrip.slt RoundTrip.sltn RoundTrip.min RoundTrip.max RoundTrip.minn RoundTrip.maxn RoundTrip.andn
    RoundTrip.orn RoundTrip.mul RoundTrip.mulh RoundTrip.mulhn RoundTrip.mulhsn RoundTrip.div RoundTrip.divn
    RoundTrip.rem RoundTrip.remn RoundTrip.clz RoundTrip.ctz RoundTrip.popc RoundTrip.rev8 RoundTrip.addi
    RoundTrip.andi RoundTrip.ori RoundTrip.xori RoundTrip.slli RoundTrip.srli RoundTrip.srai RoundTrip.slti
    RoundTrip.sltni RoundTrip.movi RoundTrip.sext8 RoundTrip.sext16 RoundTrip.sext32 RoundTrip.zext8 RoundTrip.zext16
    RoundTrip.zext32 RoundTrip.beq RoundTrip.bne RoundTrip.blt RoundTrip.bge RoundTrip.bltn RoundTrip.bgen
    RoundTrip.jmp RoundTrip.jal RoundTrip.jalr RoundTrip.loop RoundTrip.bmaskNone RoundTrip.bmaskAny
    RoundTrip.bmaskAll RoundTrip.bflClr RoundTrip.bflSet RoundTrip.trap RoundTrip.faddF32 RoundTrip.fsubF32
    RoundTrip.fmulF32 RoundTrip.fdivF32 RoundTrip.fminF32 RoundTrip.fmaxF32 RoundTrip.fltF32 RoundTrip.feqF32
    RoundTrip.cvtF32I64 RoundTrip.cvtI64F32 RoundTrip.ldI8 RoundTrip.ldN8 RoundTrip.ldI16 RoundTrip.ldN16
    RoundTrip.ldI32 RoundTrip.ldN32 RoundTrip.ld64 RoundTrip.st8 RoundTrip.st16 RoundTrip.st32 RoundTrip.st64
    RoundTrip.prf RoundTrip.vaddF32 RoundTrip.vsubF32 RoundTrip.vmulF32 RoundTrip.vdivF32 RoundTrip.vminF32
    RoundTrip.vmaxF32 RoundTrip.vabsF32 RoundTrip.vnegF32 RoundTrip.vsqrtF32 RoundTrip.vaddI32 RoundTrip.vsubI32
    RoundTrip.vmulI32 RoundTrip.vminI32 RoundTrip.vmaxI32 RoundTrip.vminN32 RoundTrip.vmaxN32 RoundTrip.vand
    RoundTrip.vor RoundTrip.vxor RoundTrip.vsllI32 RoundTrip.vsrlI32 RoundTrip.vsraI32 RoundTrip.vcmpeqF32
    RoundTrip.vcmpltF32 RoundTrip.vcmpleF32 RoundTrip.vcmpeqI32 RoundTrip.vcmpltI32 RoundTrip.vcmpltN32 RoundTrip.vsel
    RoundTrip.vld RoundTrip.vst RoundTrip.vbcast32 RoundTrip.vbcast16 RoundTrip.vbcast8 RoundTrip.vmovx
    RoundTrip.vcvtF32I32 RoundTrip.vcvtI32F32 RoundTrip.vcvtBf16F32 RoundTrip.vcvtF32Bf16 RoundTrip.vcvtF16F32
    RoundTrip.vcvtF32F16 RoundTrip.vcvtE4m3F32 RoundTrip.vcvtE5m2F32 RoundTrip.vcvtF32E4m3 RoundTrip.vcvtF32E5m2
    RoundTrip.vperm RoundTrip.vslideup RoundTrip.vslidedn RoundTrip.vzip RoundTrip.vunzip RoundTrip.vrev
    RoundTrip.vredAddF32 RoundTrip.vredMaxF32 RoundTrip.vredMinF32 RoundTrip.vredAddI32 RoundTrip.mand RoundTrip.mor
    RoundTrip.mxor RoundTrip.mnot RoundTrip.mpopc RoundTrip.mfirst RoundTrip.vquantB48e4m3 RoundTrip.vquantB48e5m2
    RoundTrip.vquantB48e2m1 RoundTrip.vquantB48i8 RoundTrip.vquantB48i4 RoundTrip.vquantB48t2 RoundTrip.vdeqB48e4m3
    RoundTrip.vdeqB48e5m2 RoundTrip.vdeqB48e2m1 RoundTrip.vdeqB48i8 RoundTrip.vdeqB48i4 RoundTrip.vdeqB48t2
    RoundTrip.vspill RoundTrip.vfill RoundTrip.rdc RoundTrip.wrc RoundTrip.fenceJ RoundTrip.fenceM RoundTrip.fenceK
    RoundTrip.cleanr RoundTrip.invalr RoundTrip.spawn RoundTrip.send RoundTrip.sendh RoundTrip.recv RoundTrip.recvLd
    RoundTrip.recvSt RoundTrip.reply RoundTrip.dtcfg RoundTrip.bqpush RoundTrip.bqwait RoundTrip.rcombAddF32
    RoundTrip.rcombMaxF32 RoundTrip.rcombMinF32 RoundTrip.rcombAddI32 RoundTrip.rcombMaxI32 RoundTrip.rcombMinI32
    RoundTrip.rcombWidBf16 RoundTrip.rcombNarBf16 RoundTrip.baddqB48e4m3 RoundTrip.baddqB48e5m2 RoundTrip.baddqB48e2m1
    RoundTrip.baddqB48i8 RoundTrip.baddqB48i4 RoundTrip.movl RoundTrip.addl RoundTrip.arm RoundTrip.disarm
    RoundTrip.winallocW RoundTrip.winallocA RoundTrip.winallocC RoundTrip.winallocWl RoundTrip.winallocAl
    RoundTrip.join RoundTrip.joinv RoundTrip.fill RoundTrip.thr RoundTrip.thrF RoundTrip.freeze RoundTrip.freezeR
    RoundTrip.frd RoundTrip.frdv RoundTrip.renew RoundTrip.mxsBf16 RoundTrip.mxsF16 RoundTrip.mxsF8 RoundTrip.mxsE2m1
    RoundTrip.mxsI8 RoundTrip.mxsI4 RoundTrip.mxsT2 RoundTrip.mxsB48 RoundTrip.mxz RoundTrip.mxe RoundTrip.ringcfg
    RoundTrip.cpy RoundTrip.cpya RoundTrip.cpyg RoundTrip.cpys RoundTrip.cpyr RoundTrip.sbind RoundTrip.sunbind
    RoundTrip.bankcall RoundTrip.collAr RoundTrip.collRs RoundTrip.collAg RoundTrip.collA2a RoundTrip.collBc
    RoundTrip.wait RoundTrip.waitm RoundTrip.cancel RoundTrip.detach RoundTrip.adopt RoundTrip.kprio RoundTrip.kstat
    RoundTrip.kmov RoundTrip.vfmaF32 RoundTrip.vfnmaF32 RoundTrip.vfmaI32 RoundTrip.collectiveBlock RoundTrip.nop
    RoundTrip.exit RoundTrip.yield RoundTrip.eret RoundTrip.halt RoundTrip.mret RoundTrip.ack RoundTrip.refuse
    RoundTrip.wake RoundTrip.data RoundTrip.postedRefusalTrap RoundTrip.pageFaultRepair RoundTrip.resume
    RoundTrip.operationReply RoundTrip.redirectAcknowledgement RoundTrip.eddyMerge RoundTrip.apply
    RoundTrip.invalidationComplete RoundTrip.evaluate RoundTrip.frozenReadEvaluate RoundTrip.landingApply
    RoundTrip.armSequencerMacro RoundTrip.retentionEntry RoundTrip.engineMessageArrival RoundTrip.operationStart
    RoundTrip.cancelArrival RoundTrip.matrixUnit RoundTrip.copyStrip RoundTrip.streamStrip RoundTrip.cpyrRequest
    RoundTrip.readyToReceive RoundTrip.remoteCopyStrip RoundTrip.bankcallMessage RoundTrip.bankRowUnit RoundTrip.buseg
    RoundTrip.ordinaryAccessArrival RoundTrip.buSuspend RoundTrip.ordinaryPhaseEnd RoundTrip.rfm RoundTrip.stackAlert
    RoundTrip.modeSwitchNormal RoundTrip.modeSwitchNearBank RoundTrip.modeSwitchComplete RoundTrip.controlStoreLoad
    RoundTrip.handlerDispatch RoundTrip.messageForward RoundTrip.launchEntryProcess RoundTrip.queueBind
    RoundTrip.gateWake RoundTrip.placement RoundTrip.levelConfinementExpiry RoundTrip.gangPlacement
    RoundTrip.coreReturn RoundTrip.preemption RoundTrip.drainComplete RoundTrip.streamComplete RoundTrip.restore
    RoundTrip.threadMove RoundTrip.migration RoundTrip.coreEmptyRequest RoundTrip.coreReturnToService
    RoundTrip.pageMove RoundTrip.quiescenceSweep RoundTrip.contextComplete RoundTrip.contextStopped
    RoundTrip.contextFaultRecord RoundTrip.breakpoint RoundTrip.haltGroupStop RoundTrip.haltGroupRun
    RoundTrip.haltGroupStep RoundTrip.debugRegisterWrite RoundTrip.queueEnable RoundTrip.queueDisable
    RoundTrip.queueClose RoundTrip.notify RoundTrip.windowEnable RoundTrip.windowClose RoundTrip.registerWrite
    RoundTrip.create RoundTrip.release RoundTrip.scrubComplete RoundTrip.seal RoundTrip.sealComplete
    RoundTrip.auditread RoundTrip.hostWrite RoundTrip.hostRead RoundTrip.keyLoad RoundTrip.getVersion
    RoundTrip.getCapabilities RoundTrip.negotiateAlgorithms RoundTrip.getDigests RoundTrip.getCertificate
    RoundTrip.challenge RoundTrip.getMeasurements RoundTrip.keyExchange RoundTrip.finish RoundTrip.endSession
    RoundTrip.deviceReset RoundTrip.linkBringup RoundTrip.flitReceive RoundTrip.linkKeyReplace RoundTrip.laneSpare
    RoundTrip.linkRetrainComplete RoundTrip.redirect RoundTrip.writeBackComplete RoundTrip.replicaCreate
    RoundTrip.throttling RoundTrip.functionLevelReset i

/-- Settles O59, by the round trip of each constructor and by the class of each row of the opcode map. -/
theorem encodingsRoundTrip : Obligations.EncodingsRoundTrip :=
  ⟨roundTrip, fun _ _ _ => ⟨fun _ => opcodeClass_of_decode, decode_unassigned⟩⟩

end Sys2Proof.Encodings
end

section
/-! PROOFS. What a step does with the words of a group: it runs their instruction, or takes the trap of the first check they fail
(R181, R189, R218 to R220, R236, R379, R425, R456): O55. -/

namespace Sys2Proof.GroupIssue

open Sys2Proof Sys2Proof.Machine Sys2Proof.LatticeCells Sys2Proof.TokenMoves

/-! ## What the fetch and the clock of a group leave -/

@[simp] theorem fetchTrans_h (s : State) (va : Nat) : (s.fetchTrans va).1.h = s.h := by
  obtain ⟨tlb, h⟩ := translate_tlb s (some s.coreId) (physDie s.phys) s.h.task.ctx s.h.task.num va .fetch
  rw [State.fetchTrans, h]

@[simp] theorem fetched_h (s : State) (n : Nat) : (s.fetched n).h = s.h := by
  have hfold (l : List Nat) (t : State) : (l.foldl (fun t i => (t.fetchTrans (t.wordAddr i)).1) t).h = t.h := by
    induction l generalizing t with
    | nil => rfl
    | cons i l ih => rw [List.foldl_cons, ih, fetchTrans_h]
  unfold State.fetched
  split
  · exact hfold _ s
  · rfl

@[simp] theorem clocked_pc (s : State) : s.clocked.h.pc = s.h.pc := by
  unfold State.clocked
  split <;> rfl

@[simp] theorem clocked_grp (s : State) : s.clocked.grp = s.grp := by
  unfold State.clocked
  split <;> rfl

theorem wordAddr_congr {s t : State} (h : t.h.pc = s.h.pc) (n : Nat) : t.wordAddr n = s.wordAddr n := by
  unfold State.wordAddr
  rw [h]

@[simp] theorem decodes_pc (s : State) (g : Group) : (s.decodes g).h.pc = s.h.pc := by
  rw [State.decodes, clocked_pc]
  exact congrArg Hart.pc (fetched_h s g.words)

@[simp] theorem decodes_wordAddr (s : State) (g : Group) (n : Nat) : (s.decodes g).wordAddr n = s.wordAddr n :=
  wordAddr_congr (decodes_pc s g) n

/-- Word 0 of a group's instruction stands after its extension words (R219). -/
@[simp] theorem decodes_word0 (s : State) (g : Group) : (s.decodes g).word0 = s.wordAddr g.pfx.length := by
  have hwords : (s.decodes g).grp.words - (s.decodes g).grp.iw = g.pfx.length := by
    rw [State.decodes, clocked_grp]
    exact Nat.add_sub_cancel _ _
  rw [State.word0, hwords, decodes_pc, State.wordAddr]

/-! ## The scoreboard check (R232, R233) -/

section

variable {s : State} {u : RegUse}

theorem mem_undersized {r : RegId} : r ∈ s.h.undersized u ↔ r ∈ u.src ++ u.dst ∧ s.h.isPending r = true := by
  rw [Hart.undersized, List.mem_dedup, List.mem_filter]

/-- The register that a trap of the scoreboard names is one of those that are pending. -/
theorem pickReg_eq_detail {l : List RegId} (h : l ≠ []) : ∃ r ∈ l, pickReg l = r.detail := by
  match l, h with
  | [r], _ => exact ⟨r, List.mem_singleton_self r, rfl⟩
  | r :: q :: l, _ =>
    have hlt : Config.pendingPick ((r :: q :: l).map RegId.detail) % (r :: q :: l).length < (r :: q :: l).length :=
      Nat.mod_lt _ (Nat.succ_pos _)
    refine ⟨_, List.getElem_mem hlt, ?_⟩
    rw [pickReg, List.getElem?_eq_getElem hlt, Option.getD_some]
    exact List.cons_ne_nil q l

theorem gapCheck_clear (h : ∀ r, r ∈ u.src ++ u.dst → s.h.isPending r = false) : s.gapCheck u = .ok s := by
  have hnone : s.h.undersized u = [] := List.eq_nil_iff_forall_not_mem.2 fun r hr => by
    obtain ⟨hmem, hpend⟩ := mem_undersized.1 hr
    rw [h r hmem] at hpend
    cases hpend
  rw [State.gapCheck, hnone]

theorem gapCheck_pending (hen : s.h.ctl.chk.getLsbD 0 = true) (h : ∃ r, r ∈ u.src ++ u.dst ∧ s.h.isPending r = true) :
    ∃ r, r ∈ u.src ++ u.dst ∧ s.h.isPending r = true ∧ s.gapCheck u = .error r.detail := by
  obtain ⟨q, hq⟩ := h
  have hne : s.h.undersized u ≠ [] := List.ne_nil_of_mem (mem_undersized.2 hq)
  obtain ⟨r, hr, hpick⟩ := pickReg_eq_detail hne
  obtain ⟨hmem, hpend⟩ := mem_undersized.1 hr
  refine ⟨r, hmem, hpend, ?_⟩
  unfold State.gapCheck
  split
  · next hnil => exact absurd hnil hne
  · rw [if_pos hen, hpick]

end

/-! ## Running a decoded instruction (Table 9.11, orders 4 to 6) -/

section

variable {s : State} {i : Instr}

theorem implements_eq_false_iff : s.h.implements i.cls = false ↔ s.LacksClass i := by
  unfold Hart.implements State.LacksClass
  cases s.h.isThread
  · simp [and_assoc]
  · simp [or_iff_not_imp_left]

theorem implements_of_not_lacksClass (h : ¬ s.LacksClass i) : s.h.implements i.cls = true :=
  Bool.not_eq_false _ ▸ mt implements_eq_false_iff.1 h

theorem runInstr_lacksClass (h : s.LacksClass i) : s.runInstr i = .next (s.takeTrap { cause := 4, addr := s.word0 }) := by
  rw [State.runInstr, if_pos (implements_eq_false_iff.2 h)]

theorem runInstr_lacksPrivilege (hcls : s.h.implements i.cls = true) (h : s.lacksPrivilege i = true) :
    s.runInstr i = .next (s.takeTrap { cause := 5, addr := s.word0 }) := by
  rw [State.runInstr, if_neg (ne_false_of_eq_true hcls), if_pos h]
  rfl

theorem runInstr_gap {d : Nat} (hcls : s.h.implements i.cls = true) (hpriv : s.lacksPrivilege i = false)
    (h : s.gapCheck (s.uses i) = .error d) : s.runInstr i = .next (s.takeTrap { cause := 6, addr := s.word0, detail := d }) := by
  simp only [State.runInstr, hcls, hpriv, h, reduceCtorEq, if_false]

/-- What an instruction answers, with what stands after every group. -/
def answered (s : State) (i : Instr) (o : Out) : Out :=
  match o with
  | .next v => .next (v.afterGroup s.h i s.grp.gap)
  | .fault r => .fault r
  | .refused r => .refused r

theorem runInstr_exec {u : State} (hcls : s.h.implements i.cls = true) (hpriv : s.lacksPrivilege i = false)
    (h : s.gapCheck (s.uses i) = .ok u) : s.runInstr i = answered s i (exec i u) := by
  simp only [State.runInstr, hcls, hpriv, h, reduceCtorEq, if_false] <;> rfl

theorem decodeTrap_lacksClass (h : s.LacksClass i) : s.decodeTrap (.entry i) = s.takeTrap { cause := 4, addr := s.word0 } := by
  rw [State.decodeTrap, if_pos (implements_eq_false_iff.2 h)]

theorem decodeTrap_gap {d : Nat} (hcls : s.h.implements i.cls = true) (h : s.gapCheck (s.uses i) = .error d) :
    s.decodeTrap (.entry i) = s.takeTrap { cause := 6, addr := s.word0, detail := d } := by
  simp only [State.decodeTrap, hcls, h, reduceCtorEq, if_false]

theorem decodeTrap_entry (hcls : s.h.implements i.cls = true) (h : s.gapCheck (s.uses i) = .ok s) :
    s.decodeTrap (.entry i) = s.takeTrap { cause := 1, addr := s.word0 } := by
  simp only [State.decodeTrap, hcls, h, reduceCtorEq, if_false]
  rfl

end

/-! ## A group that is read (R220) -/

section

variable {s : State} {g : Group} (hg : readGroup s.fetchWord = .ok g)
include hg

theorem runGroup_decoded {i : Instr} (h : decode g.pfx g.w0 g.w1 = .ok i) : s.runGroup = stepEnd ((s.decodes g).runInstr i) := by
  rw [State.runGroup, hg]
  dsimp only
  rw [h]
  rfl

theorem runGroup_refused {e : DecErr} (h : decode g.pfx g.w0 g.w1 = .error e) :
    s.runGroup = stepEnd (.next ((s.decodes g).decodeTrap e)) := by
  rw [State.runGroup, hg]
  dsimp only
  rw [h]
  rfl

end

theorem runGroup_runsDecoded (s : State) : RunsDecoded s.runGroup s := by
  intro g i u hg hd hcls hpriv hgap
  rw [runGroup_decoded hg hd, runInstr_exec hcls hpriv hgap]
  refine ⟨fun v hv => ?_, fun r hr => ?_, fun r hr => ?_⟩
  · rw [hv]; rfl
  · rw [hr]; rfl
  · rw [hr]; rfl

theorem runGroup_refusesGroup (s : State) : RefusesGroup s.runGroup s := by
  intro g hg b w0 traps
  have hw0 : b.word0 = w0 := decodes_word0 s g
  have herr {e : DecErr} {c a d : Nat} (hd : decode g.pfx g.w0 g.w1 = .error e)
      (h : b.decodeTrap e = b.takeTrap { cause := c, addr := a, detail := d }) : traps c a d := by
    show s.runGroup = _
    rw [runGroup_refused hg hd, h]
    rfl
  have hrun {i : Instr} {c a d : Nat} (hd : decode g.pfx g.w0 g.w1 = .ok i)
      (h : b.runInstr i = .next (b.takeTrap { cause := c, addr := a, detail := d })) : traps c a d := by
    show s.runGroup = _
    rw [runGroup_decoded hg hd, h]
    rfl
  rw [← hw0]
  refine ⟨fun hd => herr hd rfl, fun hd => herr hd rfl, fun hd => herr hd rfl, fun n hd => ?_, fun hd => herr hd rfl,
    fun i hi => ⟨fun hlacks => ?_, fun himpl => ⟨fun hd hpriv => ?_, fun hpriv => ⟨fun hen hpend => ?_, fun hd hclear => ?_⟩⟩⟩⟩
  · rw [← decodes_wordAddr s g n]
    exact herr hd rfl
  · exact hi.elim (fun hd => hrun hd (runInstr_lacksClass hlacks)) (fun hd => herr hd (decodeTrap_lacksClass hlacks))
  · exact hrun hd (runInstr_lacksPrivilege (implements_of_not_lacksClass himpl) hpriv)
  · obtain ⟨r, hmem, hr, hgap⟩ := gapCheck_pending hen hpend
    refine ⟨r, hmem, hr, hi.elim (fun hd => ?_) (fun hd => ?_)⟩
    · exact hrun hd (runInstr_gap (implements_of_not_lacksClass himpl) (hpriv hd) hgap)
    · exact herr hd (decodeTrap_gap (implements_of_not_lacksClass himpl) hgap)
  · exact herr hd (decodeTrap_entry (implements_of_not_lacksClass himpl) (gapCheck_clear hclear))

/-! ## Words that make no group (R220, R229) -/

theorem pkindOf_code (k : PKind) : pkindOf k.code = some k := by
  cases k <;> rfl

theorem code_injective : Function.Injective PKind.code := fun a b h =>
  Option.some.inj ((pkindOf_code a).symm.trans ((congrArg pkindOf h).trans (pkindOf_code b)))

/-- Table 9.4 lists the codes of the four kinds. -/
theorem exists_code {n : Nat} (h : n ∈ [1, 3, 6, 10]) : ∃ k : PKind, k.code = n := by
  simp only [List.mem_cons, List.not_mem_nil, or_false] at h
  rcases h with rfl | rfl | rfl | rfl
  · exact ⟨.imm, rfl⟩
  · exact ⟨.rnd, rfl⟩
  · exact ⟨.page, rfl⟩
  · exact ⟨.wait, rfl⟩

theorem pkindOf_eq_none {n : Nat} (h : n ∉ [1, 3, 6, 10]) : pkindOf n = none := by
  simp only [List.mem_cons, List.not_mem_nil, or_false, not_or] at h
  obtain ⟨h1, h3, h6, h10⟩ := h
  unfold pkindOf
  split
  · exact absurd rfl h1
  · exact absurd rfl h3
  · exact absurd rfl h6
  · exact absurd rfl h10
  · rfl

/-- Whether a kind has been read is whether its code has. -/
theorem any_kind_iff {seen : List Pfx} {k : PKind} :
    seen.any (fun q => q.kind == k) = true ↔ k.code ∈ seen.map (·.kind.code) := by
  rw [List.any_eq_true, List.mem_map]
  refine exists_congr fun q => and_congr_right fun _ => ?_
  rw [beq_iff_eq, code_injective.eq_iff]

section

variable {ε : Type} {fetch : Nat → Except ε Nat} {fuel n w v : Nat} {seen : List Pfx} {k : PKind}

theorem readFrom_extension (hsel : w % 4 = 1) (hkind : bits w 6 3 = k.code) (hnew : k.code ∉ seen.map (·.kind.code))
    (hlen : seen.length ≠ 4) (hv : fetch (n + 1) = .ok v) :
    readFrom fetch (fuel + 1) n seen w = if bits v 2 2 = 0 then .error (.orphan (n + 1))
      else readFrom fetch fuel (n + 1) ({ kind := k, payload := bits w 31 7 } :: seen) v := by
  have hfresh : (seen.any (fun q => q.kind == k) || seen.length == 4) = false := by
    rw [Bool.or_eq_false_iff, beq_eq_false_iff_ne]
    exact ⟨Bool.eq_false_iff.2 (mt any_kind_iff.1 hnew), hlen⟩
  simp only [readFrom, hsel, hkind, pkindOf_code, hfresh, hv, Bool.false_eq_true, if_false]

/-- A selector 0b11, an unlisted kind and a second word of one kind are illegal words. -/
theorem readFrom_illegal
    (h : w % 4 = 3 ∨ (w % 4 = 1 ∧ (bits w 6 3 ∉ [1, 3, 6, 10] ∨ bits w 6 3 ∈ seen.map (·.kind.code)))) :
    readFrom fetch fuel n seen w = .error (.illegal n) := by
  cases fuel with
  | zero => rfl
  | succ fuel =>
    obtain hsel | ⟨hsel, hkind⟩ := h
    · simp only [readFrom, hsel]
    by_cases hlisted : bits w 6 3 ∈ [1, 3, 6, 10]
    · obtain ⟨k, hk⟩ := exists_code hlisted
      have hseen : k.code ∈ seen.map (·.kind.code) := hk ▸ hkind.resolve_left (not_not_intro hlisted)
      simp only [readFrom, hsel, ← hk, pkindOf_code, any_kind_iff.2 hseen, Bool.true_or, if_true]
    · simp only [readFrom, hsel, pkindOf_eq_none hlisted]

end

theorem readGroup_split {s : State} {w : Nat} (hw : s.fetchWord 0 = .ok w) (hp : bits w 2 2 = 1) :
    readGroup s.fetchWord = .error .splitGroup := by
  simp only [readGroup, hw, hp, if_true]

theorem not_orphan {n w : Nat} (hp : n ≠ 0 → bits w 2 2 = 1) : ¬ (n ≠ 0 ∧ bits w 2 2 = 0) := fun ⟨hn, h0⟩ =>
  Nat.one_ne_zero ((hp hn).symm.trans h0)

section

variable {s : State} {l : List Nat} (hl : s.HasPrefixes l)
include hl

theorem extensions_length : l.length ≤ 4 := by
  obtain ⟨hnodup, hwords⟩ := hl
  have hsub : l ⊆ [1, 3, 6, 10] := fun k hk => by
    obtain ⟨j, hj, rfl⟩ := List.mem_iff_getElem.1 hk
    exact (hwords j _ (List.getElem?_eq_getElem hj)).1
  exact (List.subperm_of_subset hnodup hsub).length_le

/-- The reader comes to the word after the first `j` extension words with their kinds in hand, and P = 0 there is an orphan. -/
theorem readGroup_extensions {j w : Nat} (hj : j ≤ l.length) (hw : s.fetchWord j = .ok w) (h0 : j = 0 → bits w 2 2 ≠ 1) :
    ∃ seen : List Pfx, seen.map (·.kind.code) = (l.take j).reverse ∧
      readGroup s.fetchWord = if j ≠ 0 ∧ bits w 2 2 = 0 then .error (.orphan j) else readFrom s.fetchWord (6 - j) j seen w := by
  induction j generalizing w with
  | zero =>
    refine ⟨[], rfl, ?_⟩
    rw [readGroup, hw, if_neg (fun h => h.1 rfl)]
    exact if_neg (h0 rfl)
  | succ j ih =>
    have hlt : j < l.length := hj
    have h4 := extensions_length hl
    obtain ⟨hlisted, v, hv, hsel, hkind, hp⟩ := hl.2 j _ (List.getElem?_eq_getElem hlt)
    obtain ⟨k, hcode⟩ := exists_code hlisted
    obtain ⟨seen, hseen, hread⟩ := ih (le_of_lt hlt) hv fun h0 => mt hp.1 (not_not_intro h0)
    have hnew : k.code ∉ seen.map (·.kind.code) := by
      rw [hcode, hseen, List.mem_reverse]
      intro hmem
      obtain ⟨i, hi, heq⟩ := List.mem_take_iff_getElem.1 hmem
      have := (hl.1.getElem_inj_iff).1 heq
      omega
    have hlen : seen.length = j := by
      rw [← List.length_map (f := fun q : Pfx => q.kind.code), hseen, List.length_reverse, List.length_take,
        min_eq_left (le_of_lt hlt)]
    refine ⟨{ kind := k, payload := bits v 31 7 } :: seen, ?_, ?_⟩
    · rw [List.map_cons, hseen, List.take_succ_eq_append_getElem hlt, List.reverse_append, hcode]
      rfl
    · have hfuel : 6 - j = (6 - (j + 1)) + 1 := by omega
      rw [hread, if_neg (not_orphan hp.2), hfuel, readFrom_extension hsel (hkind.trans hcode.symm) hnew (by omega) hw]
      exact if_congr (by simp) rfl rfl

theorem readGroup_orphan {w : Nat} (hw : s.fetchWord l.length = .ok w) (hne : l ≠ []) (hp : bits w 2 2 = 0) :
    readGroup s.fetchWord = .error (.orphan l.length) := by
  obtain ⟨seen, -, h⟩ := readGroup_extensions hl le_rfl hw fun _ => by omega
  rw [h, if_pos ⟨mt List.length_eq_zero_iff.1 hne, hp⟩]

theorem readGroup_illegal {w : Nat} (hw : s.fetchWord l.length = .ok w) (hp : bits w 2 2 = 1 ↔ l ≠ [])
    (h : w % 4 = 3 ∨ (w % 4 = 1 ∧ (bits w 6 3 ∉ [1, 3, 6, 10] ∨ bits w 6 3 ∈ l))) :
    readGroup s.fetchWord = .error (.illegal l.length) := by
  obtain ⟨seen, hseen, hread⟩ := readGroup_extensions hl le_rfl hw fun h0 h1 => hp.1 h1 (List.length_eq_zero_iff.1 h0)
  rw [hread, if_neg (not_orphan fun hne => hp.2 (mt List.length_eq_zero_iff.2 hne))]
  refine readFrom_illegal (h.imp_right (And.imp_right (Or.imp_right fun hmem => ?_)))
  rw [hseen, List.mem_reverse, List.take_length]
  exact hmem

end

theorem runGroup_unread {s : State} {e : GroupErr FetchStop} (h : readGroup s.fetchWord = .error e) :
    s.runGroup = stepEnd (({ s with grp := {} } : State).clocked.groupTrap e) := by
  rw [State.runGroup, h]

theorem runGroup_refusesWords (s : State) : RefusesWords s.runGroup s := by
  intro l w hl hw traps
  have haddr (n : Nat) : ({ s with grp := {} } : State).clocked.wordAddr n = s.wordAddr n :=
    wordAddr_congr (clocked_pc _) n
  have htrap {e : GroupErr FetchStop} {c : Nat} (he : readGroup s.fetchWord = .error e)
      (h : ({ s with grp := {} } : State).clocked.groupTrap e = .next (({ s with grp := {} } : State).clocked.takeTrap
        { cause := c, addr := ({ s with grp := {} } : State).clocked.wordAddr l.length })) : traps c := by
    show s.runGroup = _
    rw [runGroup_unread he, h, haddr]
    rfl
  refine ⟨fun hnil hp => ?_, fun hne hp => htrap (readGroup_orphan hl hw hne hp) rfl,
    fun hp h => htrap (readGroup_illegal hl hw hp h) rfl⟩
  subst hnil
  exact htrap (readGroup_split hw hp) rfl

/-! ## The boundary of a group (R124, R189, R392, R403) -/

@[simp] theorem awake_id (h : Hart) : h.awake.id = h.id := by
  unfold Hart.awake
  split <;> rfl

@[simp] theorem awake_replay (h : Hart) : h.awake.replay = h.replay := by
  unfold Hart.awake
  split <;> rfl

/-- The state in which a rill core comes to its next group (R189). -/
def rillNext (s : State) : State :=
  { s with h := if s.h.replay = true then s.h.awake else s.h.awake.rillBoundary }

theorem rillNext_held {s : State} (h : s.h.replay = true) : rillNext s = { s with h := s.h.awake } := by
  rw [rillNext, if_pos h]

theorem rillNext_boundary {s : State} (h : s.h.replay = false) : rillNext s = { s with h := s.h.awake.rillBoundary } := by
  rw [rillNext, if_neg (Bool.eq_false_iff.1 h)]

theorem issueNext_rill {s : State} {n : Nat} (hid : s.h.id = .rill n) :
    s.issueNext = (rillNext s).runGroup := by
  have hid' : s.h.awake.id = .rill n := (awake_id _).trans hid
  unfold State.issueNext
  dsimp only
  rw [awake_replay, hid']
  split
  · next hreplay => rw [rillNext_held hreplay]
  · next hreplay => rw [rillNext_boundary (Bool.eq_false_iff.2 hreplay)]

theorem issueNext_thread {s : State} {c k : Nat} (hid : s.h.id = .thread c k)
    (hpass : ({ s with h := s.h.awake } : State).passesBoundary) :
    s.issueNext = ({ s with h := s.h.awake } : State).runGroup := by
  have hid' : s.h.awake.id = .thread c k := (awake_id _).trans hid
  obtain hreplay | ⟨hbreak, hrefused⟩ := hpass
  · have hheld : s.h.awake.replay = true := hreplay
    simp only [State.issueNext, hheld, if_true]
  · have hstops : (({ s with h := s.h.awake } : State).atBreakpoint.isSome && !s.h.awake.isHalted) = false := by
      rcases hbreak with h | h <;> rw [h]
      · rfl
      · exact Bool.and_false _
    have htraps : (!s.h.awake.ctl.h && s.h.awake.t.post.firstRefused.isSome) = false := by
      rcases hrefused with h | h <;> rw [h]
      · rfl
      · exact Bool.and_false _
    simp only [State.issueNext, hid', hstops, htraps, Bool.false_eq_true, if_false, ite_self]

/-! ## The thread that a core selects (R181, R379) -/

theorem select_slot {c c' : Core} {ready : List Hart} {slot : Nat} (h : c.select ready = some (slot, c')) :
    ∃ x ∈ ready, x.coreSlot.2 = slot := by
  obtain ⟨k, hk, heq⟩ := Option.map_eq_some_iff.1 h
  have hfound := List.find?_some hk
  obtain ⟨x, hx, hmatch⟩ := List.any_eq_true.1 hfound
  obtain ⟨-, hslot⟩ := Bool.and_eq_true_iff.1 hmatch
  refine ⟨x, ?_, (beq_iff_eq.1 hslot).trans (Prod.mk.inj heq).1⟩
  split at hx
  · exact (List.mem_filter.1 (List.mem_filter.1 hx).1).1
  · exact (List.mem_filter.1 hx).1

theorem mem_readyOn {s : State} {c : Nat} {x : Hart} (h : x ∈ s.readyOn c) :
    x ∈ s.allHarts ∧ x.id = .thread c x.coreSlot.2 := by
  obtain ⟨hmem, hready⟩ := List.mem_filter.1 h
  obtain ⟨hthread, -⟩ := Bool.and_eq_true_iff.1 hready
  obtain ⟨hthread, hcore⟩ := Bool.and_eq_true_iff.1 hthread
  refine ⟨hmem, ?_⟩
  unfold Hart.isThread at hthread
  unfold Hart.coreSlot at hcore ⊢
  split at hthread
  · next hid =>
    rw [hid] at hcore ⊢
    exact congrArg (HartId.thread · _) (beq_iff_eq.1 hcore)
  · cases hthread

theorem switchTo_self {s : State} {id : HartId} (h : s.h.id = id) : s.switchTo id = s := if_pos h

/-- A listed thread is the issuing hart after a switch to it. -/
theorem switchTo_id {s : State} {c k : Nat} (h : ∃ x ∈ s.allHarts, x.id = .thread c k) :
    (s.switchTo (.thread c k)).h.id = .thread c k := by
  by_cases hid : s.h.id = .thread c k
  · rw [switchTo_self hid, hid]
  · obtain ⟨x, hx, hxid⟩ := h
    have hx : x ∈ s.harts := (List.mem_cons.1 hx).resolve_left fun heq => hid (heq ▸ hxid)
    obtain ⟨y, hy⟩ := Option.isSome_iff_exists.1
      (List.find?_isSome (p := fun g : Hart => g.id == .thread c k).2 ⟨x, hx, beq_iff_eq.2 hxid⟩)
    have hfound : s.hart? (.thread c k) = some y := by rw [State.hart?, if_neg hid, hy]
    rw [State.switchTo, if_neg hid, hfound]
    exact hart?_thread_id hfound

/-! ## A step that issues -/

/-- The state in which the thread that a core selects comes to its next group; `k'` is the core after the selection (R379). -/
def threadNext (s : State) (c slot : Nat) (k' : Core) : State :=
  let r := (s.updCore c (fun _ => k')).switchTo (.thread c slot)
  { r with h := r.h.awake }

theorem hasWork_self {s : State} (h : s.canIssue s.h = true) {n : Nat} (hid : s.h.id = .rill n) : s.hasWork s.h.id = true := by
  have hself : s.hart? s.h.id = some s.h := if_pos rfl
  unfold State.hasWork
  rw [hid] at hself ⊢
  dsimp only
  rw [hself, Option.any_some, h]

theorem step_idle {s : State} (hagenda : s.agenda = []) (hwork : s.hasWork s.h.id = true) : step s = s.issueAt s.h.id := by
  rw [step, hagenda]
  exact if_pos hwork

theorem issueAt_rill {s : State} {n : Nat} (hid : s.h.id = .rill n) (h : s.canIssue s.h = true) :
    s.issueAt (.rill n) = s.issueNext := by
  simp only [State.issueAt, switchTo_self hid, hid, h, and_self, if_true]

section

variable {s : State} {c j slot : Nat} {k k' : Core} (hcore : s.core? c = some k)
  (hselect : (k.wait (s.readyOn c)).select (s.readyOn c) = some (slot, k'))
include hselect

theorem hasWork_of_select : s.hasWork (.thread c j) = true := by
  obtain ⟨x, hx, -⟩ := select_slot hselect
  have hne : s.readyOn c ≠ [] := List.ne_nil_of_mem hx
  simpa [State.hasWork] using hne

include hcore

theorem issueAt_thread (hpass : (threadNext s c slot k').passesBoundary) :
    s.issueAt (.thread c j) = (threadNext s c slot k').runGroup := by
  obtain ⟨x, hx, hslot⟩ := select_slot hselect
  obtain ⟨hmem, hid⟩ := mem_readyOn hx
  simp only [State.issueAt, hcore, hselect]
  exact issueNext_thread (switchTo_id ⟨x, hmem, hslot ▸ hid⟩) hpass

end

/-! ## O55 -/

/-- What a step owes to the group of a state that issues it. -/
theorem runGroup_checks (s : State) : RunsDecoded s.runGroup s ∧ RefusesWords s.runGroup s ∧ RefusesGroup s.runGroup s :=
  ⟨runGroup_runsDecoded s, runGroup_refusesWords s, runGroup_refusesGroup s⟩

theorem step_rill {s : State} {n : Nat} (hagenda : s.agenda = []) (hid : s.h.id = .rill n) (h : s.canIssue s.h = true) :
    step s = (rillNext s).runGroup := by
  rw [step_idle hagenda (hasWork_self h hid), hid, issueAt_rill hid h, issueNext_rill hid]

/-- Settles O55: whatever a step issues is the group of one state, and each check of that group has its own lemma. -/
theorem stepRunsTheDecodedInstruction : Obligations.StepRunsTheDecodedInstruction := by
  refine ⟨fun s n hagenda hid h => ?rillRuns, fun s n hagenda hid h => ?rillTraps,
    fun s c j slot k k' hid hagenda hcore hselect => ?thread, fun s id rest h => ?issueOn, fun s id rest h => ?errorOn,
    fun s p ty ctx data rest h => ?auditOn, fun s c slot k k' j hcore hselect => ?issueAt⟩
  case rillRuns =>
    rw [step_rill hagenda hid h]
    exact ⟨fun hreplay => rillNext_held hreplay ▸ runGroup_runsDecoded _,
      fun hreplay => rillNext_boundary hreplay ▸ runGroup_runsDecoded _⟩
  case rillTraps =>
    rw [step_rill hagenda hid h]
    exact (runGroup_checks _).2
  case thread =>
    intro _ _ hpass
    rw [step_idle hagenda (hid ▸ hasWork_of_select hselect), hid, issueAt_thread hcore hselect hpass]
    exact runGroup_checks _
  case issueOn => rw [step, h]
  case errorOn =>
    rw [step, h]
    rfl
  case auditOn => rw [step, h]
  case issueAt =>
    intro _ _ hpass
    rw [issueAt_thread hcore hselect hpass]
    exact runGroup_runsDecoded _

end Sys2Proof.GroupIssue
end

section
/-! PROOFS. The scalar instructions on integers and FP32 values (R246 to R251): O1 to O4. -/

namespace Sys2Proof.ScalarResults

open Sys2Proof Sys2Proof.Machine

/-! ## Frames in sequence -/

section
variable {s u t : State}

theorem sameWorld_trans (a : SameWorld s u) (b : SameWorld u t) : SameWorld s t :=
  ⟨fun p => (b.mem p).trans (a.mem p), b.lat.trans a.lat, b.work.trans a.work, b.dev.trans a.dev, b.harts.trans a.harts,
    b.free.trans a.free⟩

theorem sameHart_trans (a : SameHart s u) (b : SameHart u t) : SameHart s t :=
  ⟨b.id.trans a.id, b.task.trans a.task, b.post.trans a.post, b.scr.trans a.scr, b.rlt.trans a.rlt, b.hist.trans a.hist,
    b.rill.trans a.rill, b.board.trans a.board⟩

theorem sameCtl_trans (a : SameCtl s u) (b : SameCtl u t) : SameCtl s t :=
  ⟨b.rmode.trans a.rmode, b.chk.trans a.chk, b.sptr.trans a.sptr, b.tvec.trans a.tvec, b.tepc.trans a.tepc, b.tcause.trans a.tcause,
    b.taddr.trans a.taddr, b.handler.trans a.handler⟩

theorem regFrame_trans (a : RegFrame s u) (b : RegFrame u t) : RegFrame s t :=
  ⟨sameWorld_trans a.world b.world, sameHart_trans a.hart b.hart, sameCtl_trans a.ctl b.ctl⟩

end

/-! ## Scalar results -/

/-- An instruction that answers a scalar result writes any word that equals it. -/
theorem writesX_result {s : State} {d : Fin 32} {v w : Word} {o : Out} (ho : o = s.result d v) (hv : v = w) :
    WritesX o s d w := by
  subst ho hv
  exact State.result_writes s d v

/-! ## Words of Table 10.3 (R246) -/

section
variable (x y : Word)

theorem add_eq_ofNat : x + y = BitVec.ofNat 64 (x.toNat + y.toNat) := by
  rw [BitVec.ofNat_add, BitVec.ofNat_toNat, BitVec.ofNat_toNat, BitVec.setWidth_eq, BitVec.setWidth_eq]

theorem sub_eq_ofInt : x - y = BitVec.ofInt 64 ((x.toNat : Int) - y.toNat) := by
  rw [Int.sub_eq_add_neg, BitVec.ofInt_add, BitVec.ofInt_neg, BitVec.ofInt_natCast, BitVec.ofInt_natCast, BitVec.ofNat_toNat,
    BitVec.ofNat_toNat, BitVec.setWidth_eq, BitVec.setWidth_eq, BitVec.sub_eq_add_neg]

theorem mul_eq_ofNat : x * y = BitVec.ofNat 64 (x.toNat * y.toNat) := by
  rw [BitVec.ofNat_mul, BitVec.ofNat_toNat, BitVec.ofNat_toNat, BitVec.setWidth_eq, BitVec.setWidth_eq]

theorem shiftLeft_eq_ofNat (n : Nat) : x <<< n = BitVec.ofNat 64 (x.toNat * 2 ^ n) :=
  BitVec.eq_of_toNat_eq (by rw [BitVec.toNat_shiftLeft, Nat.shiftLeft_eq, BitVec.toNat_ofNat])

theorem ushiftRight_eq_ofNat (n : Nat) : x >>> n = BitVec.ofNat 64 (x.toNat / 2 ^ n) := by
  refine BitVec.eq_of_toNat_eq ?_
  rw [BitVec.toNat_ushiftRight, Nat.shiftRight_eq_div_pow, BitVec.toNat_ofNat,
    Nat.mod_eq_of_lt ((Nat.div_le_self _ _).trans_lt x.isLt)]

theorem sshiftRight_eq_ofInt (n : Nat) : x.sshiftRight n = BitVec.ofInt 64 (x.toInt / 2 ^ n) := by
  rw [BitVec.sshiftRight, Int.shiftRight_eq_div_pow]
  rfl

theorem ofBool_slt : Word.ofBool (x.slt y) = if x.toInt < y.toInt then 1 else 0 := by
  unfold Word.ofBool
  simp only [BitVec.slt_iff_toInt_lt]

theorem ofBool_ult : Word.ofBool (x.ult y) = if x.toNat < y.toNat then 1 else 0 := by
  unfold Word.ofBool
  simp only [BitVec.ult_iff_toNat_lt]

end

/-- Settles O1: each instruction answers a scalar result, whose word is the table's function. -/
theorem aluWritesTheTable : Obligations.AluWritesTheTable := by
  unfold Obligations.AluWritesTheTable
  intro s d a b
  refine ⟨writesX_result rfl (add_eq_ofNat _ _), writesX_result rfl (sub_eq_ofInt _ _), writesX_result rfl rfl,
    writesX_result rfl rfl, writesX_result rfl rfl, writesX_result rfl (shiftLeft_eq_ofNat _ _),
    writesX_result rfl (ushiftRight_eq_ofNat _ _), writesX_result rfl (sshiftRight_eq_ofInt _ _),
    writesX_result rfl (ofBool_slt _ _), writesX_result rfl (ofBool_ult _ _), writesX_result rfl ?_, writesX_result rfl ?_,
    writesX_result rfl ?_, writesX_result rfl ?_, writesX_result rfl rfl, writesX_result rfl rfl⟩
  · simp only [BitVec.slt_iff_toInt_lt]
  · simp only [BitVec.slt_iff_toInt_lt]
  · simp only [BitVec.ult_iff_toNat_lt]
  · simp only [BitVec.ult_iff_toNat_lt]

/-! ## Products, quotients and bit counts (R247) -/

theorem clz64_le (x : Word) : clz64 x ≤ 64 ∧ x.toNat < 2 ^ (64 - clz64 x) ∧ (clz64 x < 64 → 2 ^ (63 - clz64 x) ≤ x.toNat) := by
  unfold clz64
  by_cases h : x.toNat = 0
  · simp [h]
  · have hlog : Nat.log2 x.toNat < 64 := (Nat.log2_lt h).mpr x.isLt
    rw [if_neg h, show 64 - (63 - Nat.log2 x.toNat) = Nat.log2 x.toNat + 1 by omega,
      show 63 - (63 - Nat.log2 x.toNat) = Nat.log2 x.toNat by omega]
    exact ⟨by omega, Nat.lt_log2_self, fun _ => Nat.log2_self_le h⟩

/-- The trailing zero bits of a number below 2^n: they are zero, and the bit above them is one unless there are n of them. -/
theorem ctzFrom_spec (n v : Nat) : ctzFrom v n ≤ n ∧ v % 2 ^ ctzFrom v n = 0 ∧ (ctzFrom v n < n → v / 2 ^ ctzFrom v n % 2 = 1) := by
  induction n generalizing v with
  | zero => exact ⟨le_refl 0, Nat.mod_one v, fun h => absurd h (lt_irrefl 0)⟩
  | succ n ih =>
    unfold ctzFrom
    by_cases hodd : v % 2 = 1
    · rw [if_pos hodd]
      exact ⟨Nat.zero_le _, Nat.mod_one v, fun _ => by rwa [pow_zero, Nat.div_one]⟩
    · obtain ⟨hle, hzero, hone⟩ := ih (v / 2)
      rw [if_neg hodd, Nat.pow_succ', Nat.mod_mul, hzero, ← Nat.div_div_eq_div_mul]
      exact ⟨by omega, by omega, fun h => hone (by omega)⟩

/-- The one bits of a number among its low n bits. -/
theorem popFrom_eq (n v : Nat) : popFrom v n = ((List.range n).filter (fun i => v.testBit i)).length := by
  induction n generalizing v with
  | zero => rfl
  | succ n ih =>
    have hshift : (fun i => v.testBit i) ∘ Nat.succ = fun i => (v / 2).testBit i :=
      funext fun i => by rw [Function.comp_apply, Nat.testBit_succ]
    rw [popFrom, ih, List.range_succ_eq_map, List.filter_cons, List.filter_map, hshift, Nat.testBit_zero]
    by_cases hodd : v % 2 = 1
    · simp only [hodd, decide_true, if_true, List.length_cons, List.length_map]
      omega
    · have heven : v % 2 = 0 := by omega
      simp [heven]

theorem packCodes_byte (l : List Nat) (hl : ∀ c, c ∈ l → c < 256) (i : Nat) : packCodes 8 l / 256 ^ i % 256 = l.getD i 0 := by
  induction l generalizing i with
  | nil => simp [packCodes]
  | cons c l ih =>
    have hc := hl c List.mem_cons_self
    cases i with
    | zero => simp only [packCodes, List.getD_cons_zero]; omega
    | succ i =>
      have hdiv : packCodes 8 (c :: l) / 256 = packCodes 8 l := by rw [packCodes]; omega
      rw [Nat.pow_succ', ← Nat.div_div_eq_div_mul, hdiv, List.getD_cons_succ, ih fun e he => hl e (List.mem_cons_of_mem _ he)]

theorem packCodes_lt (l : List Nat) : packCodes 8 l < 256 ^ l.length := by
  induction l with
  | nil => exact Nat.one_pos
  | cons c l ih =>
    rw [packCodes, List.length_cons, Nat.pow_succ']
    omega

theorem length_unpackCodes (v n : Nat) : (unpackCodes 8 v n).length = n := by
  induction n generalizing v with
  | zero => rfl
  | succ n ih => rw [unpackCodes, List.length_cons, ih]

theorem unpackCodes_getD (v n i : Nat) (hi : i < n) : (unpackCodes 8 v n).getD i 0 = v / 256 ^ i % 256 := by
  induction n generalizing v i with
  | zero => omega
  | succ n ih =>
    cases i with
    | zero => simp [unpackCodes]
    | succ i =>
      rw [unpackCodes, List.getD_cons_succ, ih _ _ (by omega), Nat.pow_succ' (m := 256), ← Nat.div_div_eq_div_mul]
      rfl

theorem unpackCodes_lt (v n : Nat) : ∀ c, c ∈ unpackCodes 8 v n → c < 256 := by
  induction n generalizing v with
  | zero => intro c hc; cases hc
  | succ n ih =>
    intro c hc
    rcases List.mem_cons.mp hc with rfl | hc
    · exact Nat.mod_lt _ (by decide)
    · exact ih _ c hc

/-- REV8 puts each byte at the place counted from the other end. -/
theorem rev8_byte (x : Word) (i : Nat) (hi : i < 8) : (rev8 x).toNat / 256 ^ i % 256 = x.toNat / 256 ^ (7 - i) % 256 := by
  have hlen : (unpackCodes 8 x.toNat 8).reverse.length = 8 := by rw [List.length_reverse, length_unpackCodes]
  have hlt : packCodes 8 (unpackCodes 8 x.toNat 8).reverse < 2 ^ 64 := by
    have := packCodes_lt (unpackCodes 8 x.toNat 8).reverse
    rwa [hlen] at this
  rw [rev8, BitVec.toNat_ofNat, Nat.mod_eq_of_lt hlt,
    packCodes_byte _ (fun c hc => unpackCodes_lt _ _ c (List.mem_reverse.mp hc)),
    ← unpackCodes_getD x.toNat 8 (7 - i) (by omega), List.getD_eq_getElem?_getD, List.getD_eq_getElem?_getD,
    List.getElem?_reverse (by rw [length_unpackCodes]; exact hi), length_unpackCodes]

/-- Settles O2: each instruction answers a scalar result; the counts are those of `clz64_le`, `ctzFrom_spec` and `popFrom_eq`. -/
theorem multiplyDivideAndCountBits : Obligations.MultiplyDivideAndCountBits := by
  unfold Obligations.MultiplyDivideAndCountBits
  intro s d a b
  obtain ⟨hclz, hclz_lt, hclz_ge⟩ := clz64_le (s.x a)
  obtain ⟨hctz, hctz_zero, hctz_one⟩ := ctzFrom_spec 64 (s.x a).toNat
  refine ⟨writesX_result rfl (mul_eq_ofNat _ _), writesX_result rfl rfl, writesX_result rfl ?_, writesX_result rfl rfl,
    writesX_result rfl rfl, writesX_result rfl rfl, writesX_result rfl rfl, writesX_result rfl rfl,
    ⟨_, hclz, writesX_result rfl rfl, hclz_lt, hclz_ge⟩, ⟨_, hctz, writesX_result rfl rfl, hctz_zero, hctz_one⟩,
    writesX_result rfl ?_, ⟨_, writesX_result rfl rfl, rev8_byte _⟩⟩
  · unfold mulHigh
    rw [← BitVec.ofInt_natCast]
    push_cast
    rfl
  · rw [popFrom_eq]
    rfl

/-! ## Immediates and extensions (R248 to R250) -/

theorem imm64_toInt (imm : BitVec 34) : (imm64 imm).toInt = imm.toInt :=
  BitVec.toInt_signExtend_of_le (by decide)

/-- The low `n` bits of a word, with zeros above them. -/
theorem zeroExtend_setWidth (x : Word) (n : Nat) : (x.setWidth n).zeroExtend 64 = BitVec.ofNat 64 (x.toNat % 2 ^ n) := by
  refine BitVec.eq_of_toNat_eq ?_
  rw [BitVec.toNat_setWidth, BitVec.toNat_setWidth, BitVec.toNat_ofNat]

/-- A shift by an immediate below 64 answers a scalar result. -/
theorem writesX_shift {s : State} {d : Fin 32} {imm : BitVec 34} (h : imm.toNat < 64) {v w : Word} {o : Out}
    (ho : o = if 63 < imm.toNat then .next s.illegal else s.result d v) (hv : v = w) : WritesX o s d w :=
  writesX_result (ho.trans (if_neg (by omega))) hv

/-- Settles O3: each instruction answers a scalar result of its extended operand. -/
theorem immediateFormsCompute : Obligations.ImmediateFormsCompute := by
  unfold Obligations.ImmediateFormsCompute
  intro s d a imm big
  refine ⟨writesX_result rfl rfl, writesX_result rfl rfl, writesX_result rfl rfl, writesX_result rfl rfl, writesX_result rfl ?_,
    writesX_result rfl (ofBool_ult _ _), fun himm => ⟨writesX_shift himm rfl (shiftLeft_eq_ofNat _ _),
      writesX_shift himm rfl (ushiftRight_eq_ofNat _ _), writesX_shift himm rfl (sshiftRight_eq_ofInt _ _)⟩,
    writesX_result rfl rfl, writesX_result rfl rfl, writesX_result rfl rfl, writesX_result rfl rfl, writesX_result rfl rfl,
    writesX_result rfl rfl, writesX_result rfl (zeroExtend_setWidth _ _),
    writesX_result rfl (zeroExtend_setWidth _ _), writesX_result rfl (zeroExtend_setWidth _ _)⟩
  rw [ofBool_slt, imm64_toInt]

/-! ## Scalar float (R251) -/

theorem addFlags_setX (s : State) (rnd : Option Rnd) (d : Fin 32) (v : Word) (f : Flags) :
    (s.setX d v).addFlags rnd f = (s.addFlags rnd f).setX d v := by
  unfold State.addFlags State.setCtl State.setX Hart.setX
  by_cases h : d = 0
  · rw [if_pos h, if_pos h]
  · rw [if_neg h, if_neg h]

/-- A scalar float instruction writes its result, raises its flags, and completes: it is a scalar result in the state that has the
flags, which differs from the first in nothing else. -/
theorem writesXF_retire (s : State) (rnd : Option Rnd) (d : Fin 32) (v : Word) (f : Flags) :
    WritesXF (.next ((s.setX d v).addFlags rnd f).retire) s d v ((unmasked rnd f).zeroExtend 64) := by
  have hframe : RegFrame s (s.addFlags rnd f) :=
    ⟨⟨fun _ => rfl, rfl, rfl, rfl, rfl, rfl⟩, ⟨rfl, rfl, rfl, rfl, rfl, rfl, rfl, rfl⟩, ⟨rfl, rfl, rfl, rfl, rfl, rfl, rfl, rfl⟩⟩
  rw [addFlags_setX]
  obtain ⟨t, ht, hx, hv, hm, hk, hflags, hrest, hend⟩ := State.result_writes (s.addFlags rnd f) d v
  exact ⟨t, ht, hx, hv, hm, hk, hflags, regFrame_trans hframe hrest, hend.congr ⟨rfl, rfl, rfl, rfl, rfl, rfl⟩ rfl⟩

/-- A NaN equals no value (R251). -/
theorem eqv_nan {x y : FVal} (h : x.isNaN = true ∨ y.isNaN = true) : x.eqv y = false := by
  unfold FVal.eqv
  split
  · rcases h with h | h <;> cases h
  · rcases h with h | h <;> cases h
  · rfl

section
variable {x y : Nat}

theorem f32minmax_both_nan (hx : (fp32.value x).isNaN = true) (hy : (fp32.value y).isNaN = true) (mx : Bool) :
    (f32minmax mx x y).1 = 0x7FC00000 := by
  unfold f32minmax
  dsimp only
  rw [hx, hy]
  rfl

theorem f32minmax_one_nan (hx : (fp32.value x).isNaN = true) (hy : (fp32.value y).isNaN = false) (mx : Bool) :
    (f32minmax mx x y).1 = y ∧ (f32minmax mx y x).1 = y := by
  unfold f32minmax
  dsimp only
  rw [hx, hy]
  exact ⟨rfl, rfl⟩

theorem f32less_nan (h : (fp32.value x).isNaN = true ∨ (fp32.value y).isNaN = true) : f32less false x y = (false, fNV) := by
  unfold f32less
  exact if_pos (Bool.or_eq_true _ _ ▸ h)

/-- FEQ raises NV for a signalling NaN alone. -/
theorem f32eq_flags : (f32eq x y).2 = fNV ↔ (fp32.value x).snan = true ∨ (fp32.value y).snan = true := by
  unfold f32eq
  dsimp only
  rw [← Bool.or_eq_true]
  split
  · next h => exact iff_of_true rfl h
  · next h => exact iff_of_false (by decide) h

end

/-- Settles O4: each instruction answers a float result; what NaN operands and signed zeros give. -/
theorem scalarFloatComputes : Obligations.ScalarFloatComputes := by
  unfold Obligations.ScalarFloatComputes
  refine ⟨fun s rnd d a b => ?_, fun x y hx hy => f32minmax_both_nan hx hy, fun x y hx hy => f32minmax_one_nan hx hy,
    fun x y h => ⟨f32less_nan h, eqv_nan h, f32eq_flags⟩, ?_, ?_, ?_, ?_, ?_⟩
  · exact ⟨writesXF_retire .., writesXF_retire .., writesXF_retire .., writesXF_retire .., writesXF_retire .., writesXF_retire ..,
      writesXF_retire .., writesXF_retire .., writesXF_retire .., writesXF_retire ..⟩
  all_goals decide

end Sys2Proof.ScalarResults
end

section
/-! PROOFS. Branches, jumps, loops and thread control (R252 to R258, R261, R267): O5, O6, O7, O9, O14. -/

namespace Sys2Proof.ControlFlow

open Sys2Proof Sys2Proof.Machine Sys2Proof.LatticeCells Sys2Proof.HaltGroups Sys2Proof.ChildOps Sys2Proof.ScalarResults

/-! ## Transfers of control (R252, R253, R256) -/

/-- What a transfer of control leaves: the hart's pc is its target, and nothing else that statements name differs. -/
theorem jumpTo_frame (s : State) (p : Word) : RegFrame s (s.jumpTo p) :=
  ⟨⟨fun _ => rfl, rfl, rfl, rfl, rfl, rfl⟩, ⟨rfl, rfl, rfl, rfl, rfl, rfl, rfl, rfl⟩, ⟨rfl, rfl, rfl, rfl, rfl, rfl, rfl, rfl⟩⟩

/-- A group that completes changes no register and no flag. -/
theorem retire_keeps (s : State) : SameX s s.retire ∧ SameV s s.retire ∧ SameM s s.retire ∧ SameK s s.retire ∧ SameFlags s s.retire ∧
    RegFrame s s.retire :=
  ⟨State.retire_x s, State.retire_v s, State.retire_m s, State.retire_k s, State.retire_fflags s, State.retire_frame s⟩

/-- A branch goes to its target, and the loop registers stay, or it falls through under the end-of-body check. -/
theorem branch_answers {s : State} {o : Out} {taken : Bool} {off : BitVec 34} {c : Prop} (ho : o = s.branch taken off)
    (hc : taken = true ↔ c) :
    (c → Answers o fun t => t.h.pc = s.h.pc + 4 * BitVec.ofInt 64 off.toInt ∧
      (SameX s t ∧ SameV s t ∧ SameM s t ∧ SameK s t ∧ SameFlags s t ∧ RegFrame s t) ∧ t.h.ctl = s.h.ctl) ∧
    (¬ c → Answers o fun t => EndOfBody s t ∧ SameX s t ∧ SameV s t ∧ SameM s t ∧ SameK s t ∧ SameFlags s t ∧ RegFrame s t) := by
  subst ho
  unfold State.branch
  refine ⟨fun h => ?_, fun h => ?_⟩
  · rw [if_pos (hc.mpr h)]
    exact ⟨_, rfl, rfl, ⟨fun _ => rfl, fun _ => rfl, fun _ => rfl, fun _ => rfl, rfl, jumpTo_frame s _⟩, rfl⟩
  · rw [if_neg (fun ht => h (hc.mp ht))]
    exact ⟨_, rfl, State.retire_endOfBody s, retire_keeps s⟩

theorem mask_none_iff (m : MWord) : (m == 0) = true ↔ ∀ i, i < 48 → m.getLsbD i = false := by
  rw [beq_iff_eq]
  exact ⟨fun h i _ => h ▸ BitVec.getLsbD_zero, fun h => BitVec.eq_of_getLsbD_eq fun i hi => (h i hi).trans BitVec.getLsbD_zero.symm⟩

theorem mask_any_iff (m : MWord) : (m != 0) = true ↔ ∃ i, i < 48 ∧ m.getLsbD i = true := by
  rw [bne, Bool.not_eq_true', ← Bool.not_eq_true, mask_none_iff]
  simp only [not_forall, Bool.not_eq_false, exists_prop]

theorem mask_all_iff (m : MWord) : (m == BitVec.allOnes 48) = true ↔ ∀ i, i < 48 → m.getLsbD i = true := by
  have hones (i : Nat) (hi : i < 48) : (BitVec.allOnes 48).getLsbD i = true := by rw [BitVec.getLsbD_allOnes, decide_eq_true hi]
  rw [beq_iff_eq]
  exact ⟨fun h i hi => h ▸ hones i hi, fun h => BitVec.eq_of_getLsbD_eq fun i hi => (h i hi).trans (hones i hi).symm⟩

/-- Settles O5: each branch is taken when its comparison holds. -/
theorem branchesGoWhereTheySay : Obligations.BranchesGoWhereTheySay := by
  unfold Obligations.BranchesGoWhereTheySay
  intro s a b m n off
  refine ⟨branch_answers rfl beq_iff_eq, branch_answers rfl bne_iff_ne, branch_answers rfl BitVec.slt_iff_toInt_lt,
    branch_answers rfl ?_, branch_answers rfl BitVec.ult_iff_toNat_lt, branch_answers rfl ?_, branch_answers rfl (mask_none_iff _),
    branch_answers rfl (mask_any_iff _), branch_answers rfl (mask_all_iff _), branch_answers rfl (iff_of_eq (Bool.not_eq_true' _)),
    branch_answers rfl Iff.rfl⟩
  · rw [Bool.not_eq_true', ← Bool.not_eq_true, BitVec.slt_iff_toInt_lt, not_lt]
  · rw [Bool.not_eq_true', ← Bool.not_eq_true, BitVec.ult_iff_toNat_lt, not_lt]

theorem setX_frame (s : State) (d : Fin 32) (v : Word) : RegFrame s (s.setX d v) := by
  obtain ⟨hctl, ht, hid, hr, hboard, -, -⟩ := State.setX_setCtl_free s d v
  exact ⟨⟨fun _ => rfl, rfl, rfl, rfl, rfl, rfl⟩, ⟨hid, by rw [ht], by rw [ht], by rw [ht], by rw [ht], by rw [ht], hr, hboard⟩,
    ⟨by rw [hctl], by rw [hctl], by rw [hctl], by rw [hctl], by rw [hctl], by rw [hctl], by rw [hctl], by rw [hctl]⟩⟩

/-- A jump that writes a link leaves all but the link's register and the pc. -/
theorem link_jump (s : State) (d : Fin 32) (v p : Word) : Answers (.next ((s.setX d v).jumpTo p)) fun t => t.h.pc = p ∧ XAfter s t d v ∧
    SameV s t ∧ SameM s t ∧ SameK s t ∧ SameFlags s t ∧ RegFrame s t ∧ t.h.ctl = s.h.ctl := by
  obtain ⟨hctl, ht, -, -, -, -, -⟩ := State.setX_setCtl_free s d v
  have hvec : ((s.setX d v).jumpTo p).h.t.vec = s.h.t.vec := by rw [State.jumpTo_vec, ht]
  refine ⟨_, rfl, rfl, fun r => ?_, fun r => ?_, fun r => ?_, fun r => ?_, congrArg Ctl.fflags hctl,
    regFrame_trans (setX_frame s d v) (jumpTo_frame _ p), hctl⟩
  · rw [State.jumpTo_x, State.x_setX]
  · rw [State.v, hvec, State.v]
  · rw [State.m, hvec, State.m]
  · rw [State.k, hvec, State.k]

/-- Settles O6: a jump goes to its target; the link is written beside it. -/
theorem jumpsLinkAndGo : Obligations.JumpsLinkAndGo := by
  unfold Obligations.JumpsLinkAndGo
  intro s d a off imm
  refine ⟨⟨_, rfl, rfl, fun _ => rfl, fun _ => rfl, fun _ => rfl, fun _ => rfl, rfl, jumpTo_frame s _, rfl⟩,
    link_jump s 1 s.nextAddr _, fun h => ?_, fun h => if_pos h⟩
  have hexec : exec (.jalr d a imm) s = .next ((s.setX d s.nextAddr).jumpTo (s.x a + BitVec.ofInt 64 imm.toInt)) := if_neg (not_not.mpr h)
  rw [hexec]
  exact link_jump s d s.nextAddr _

/-! ## LOOP, NOP and YIELD (R255, R257, R258) -/

section
variable {s : State} {n : Fin 2} {a : Fin 32} {imm : BitVec 34}

theorem loop_illegal (h : imm.toNat ≤ s.grp.words) : exec (.loop n a imm) s = .next (s.takeTrap { cause := 1, addr := s.word0 }) :=
  if_pos h

theorem loop_skips (hext : s.grp.words < imm.toNat) (hzero : s.x a = 0) :
    exec (.loop n a imm) s = .next (s.jumpTo (s.h.pc + 4 * BitVec.ofNat 64 imm.toNat)) := by
  rw [BitVec.ofNat_toNat]
  exact (if_neg (by omega)).trans (if_pos hzero)

/-- The loop registers of a level once its loop begins. -/
def loopCtl (c : Ctl) (n : Fin 2) (count start stop : Word) : Ctl :=
  if n = 0 then { c with lcnt0 := count, lbeg0 := start, lend0 := stop } else { c with lcnt1 := count, lbeg1 := start, lend1 := stop }

theorem loop_begins (hext : s.grp.words < imm.toNat) (hcount : s.x a ≠ 0) : exec (.loop n a imm) s = .next
    (s.setCtl (loopCtl s.h.ctl n (s.x a - 1) (codeAddr s.nextAddr) (codeAddr (s.h.pc + 4 * BitVec.ofNat 64 imm.toNat)))).retire := by
  rw [BitVec.ofNat_toNat]
  exact (if_neg (by omega)).trans (if_neg hcount)

/-- A group that changes control registers other than the flags and those of `SameCtl` completes. -/
theorem setCtl_retire {c : Ctl} (hflags : c.fflags = s.h.ctl.fflags) (hctl : SameCtl s (s.setCtl c)) :
    Answers (.next (s.setCtl c).retire) fun t => (SameX s t ∧ SameV s t ∧ SameM s t ∧ SameK s t ∧ SameFlags s t ∧ RegFrame s t) ∧
      EndOfBody (s.setCtl c) t := by
  have hframe : RegFrame s (s.setCtl c) :=
    ⟨⟨fun _ => rfl, rfl, rfl, rfl, rfl, rfl⟩, ⟨rfl, rfl, rfl, rfl, rfl, rfl, rfl, rfl⟩, hctl⟩
  obtain ⟨hx, hv, hm, hk, hf, hrest⟩ := retire_keeps (s.setCtl c)
  exact ⟨_, rfl, ⟨hx, hv, hm, hk, hf.trans hflags, regFrame_trans hframe hrest⟩, State.retire_endOfBody _⟩

end

/-- YIELD marks its core's last group as yielding (R235). -/
def yielded (s : State) : State :=
  match s.h.id with
  | .thread c _ => s.updCore c (fun k => { k with lastY := true })
  | .rill _ => s

theorem yielded_thread {s : State} {c k : Nat} (h : s.h.id = .thread c k) :
    yielded s = s.updCore c (fun k => { k with lastY := true }) := by
  unfold yielded
  rw [h]

theorem yielded_rill {s : State} {n : Nat} (h : s.h.id = .rill n) : yielded s = s := by
  unfold yielded
  rw [h]

theorem yield_eq (s : State) : exec .yield s = .next (yielded s).retire := rfl

/-- YIELD touches the core states alone. -/
theorem yielded_keeps (s : State) : ∃ cores, yielded s = { s with work := { s.work with cores := cores } } := by
  cases h : s.h.id with
  | thread c k => exact ⟨_, yielded_thread h⟩
  | rill n => exact ⟨_, yielded_rill h⟩

theorem yielded_lastY {s : State} {c k : Nat} (h : s.h.id = .thread c k) {q : Core} (hq : (yielded s).core? c = some q) :
    q.lastY = true := by
  have hfind : (yielded s).core? c = (s.core? c).map (fun x => if x.id == c then { x with lastY := true } else x) := by
    rw [yielded_thread h]
    exact find?_updWhere _ _ _ _ (fun _ _ => rfl)
  rw [hfind, Option.map_eq_some_iff] at hq
  obtain ⟨x, hx, rfl⟩ := hq
  have hid : (x.id == c) = true := List.find?_some (p := fun x : Core => x.id == c) hx
  rw [if_pos hid]

theorem yield_answers (s : State) : Answers (exec .yield s) fun t => EndOfBody s t ∧ SameX s t ∧ SameV s t ∧ SameM s t ∧ SameK s t ∧
    SameFlags s t ∧ SameHart s t ∧ SameCtl s t ∧ SameMem s t ∧ t.lat = s.lat ∧ t.dev = s.dev ∧ t.harts = s.harts ∧
    (∀ c k, s.h.id = .thread c k → ∀ q, t.core? c = some q → q.lastY = true) ∧ (∀ n, s.h.id = .rill n → t.work = s.work) := by
  obtain ⟨cores, hu⟩ := yielded_keeps s
  have hfiles : KeepsFiles s (yielded s) := by rw [hu]; exact ⟨rfl, rfl, rfl, rfl, rfl, rfl⟩
  have hhart : SameHart s (yielded s) := by rw [hu]; exact ⟨rfl, rfl, rfl, rfl, rfl, rfl, rfl, rfl⟩
  refine ⟨_, yield_eq s, hfiles.endOfBody, retire_sameX (by rw [hu]), hfiles.sameV, hfiles.sameM, fun r => ?_, hfiles.sameFlags,
    sameHart_trans hhart (State.retire_frame _).hart, hfiles.sameCtl, hfiles.sameMem, ?_, ?_, ?_,
    fun c k h q hq => yielded_lastY h hq, fun n h => ?_⟩
  · rw [State.retire_k, hu]
    rfl
  · rw [State.retire_lat, hu]
  · rw [State.retire_dev, hu]
  · rw [State.retire_harts, hu]
  · rw [State.retire_work, yielded_rill h]

/-- Settles O7: LOOP by its extent and its count; NOP and YIELD complete. -/
theorem loopNopAndYield : Obligations.LoopNopAndYield := by
  unfold Obligations.LoopNopAndYield
  refine ⟨fun s a imm => ⟨fun n h => loop_illegal h, fun n hext hzero => ?_, fun hext hcount => ⟨?_, ?_⟩⟩, fun s =>
    ⟨⟨_, rfl, State.retire_endOfBody s, retire_keeps s⟩, yield_answers s⟩⟩
  · exact ⟨_, loop_skips hext hzero, rfl, ⟨fun _ => rfl, fun _ => rfl, fun _ => rfl, fun _ => rfl, rfl, jumpTo_frame s _⟩, rfl⟩
  · rw [loop_begins hext hcount]
    exact setCtl_retire rfl ⟨rfl, rfl, rfl, rfl, rfl, rfl, rfl, rfl⟩
  · rw [loop_begins hext hcount]
    exact setCtl_retire rfl ⟨rfl, rfl, rfl, rfl, rfl, rfl, rfl, rfl⟩

/-! ## ERET (R261) -/

/-- A hart whose pending results have been written keeps all but its registers. -/
theorem leaveHandler_keeps (h : Hart) : h.leaveHandler.pc = h.ctl.tepc ∧ h.leaveHandler.ctl = { h.ctl with h := false } ∧
    h.leaveHandler.t.rlt = h.t.rlt ∧ h.leaveHandler.t.scr = h.t.scr ∧ h.leaveHandler.t.post = h.t.post ∧ h.leaveHandler.board = [] := by
  have hw := writePending_keeps (fun h => (h.ctl, h.t.rlt, h.t.scr, h.t.post))
    (fun h r v => by unfold Hart.setRawReg; cases r.file <;> rfl) (fun _ _ => rfl) h
  simp only [Prod.mk.injEq] at hw
  obtain ⟨hctl, hrlt, hscr, hpost⟩ := hw
  exact ⟨congrArg Ctl.tepc hctl, congrArg (fun c : Ctl => { c with h := false }) hctl, hrlt, hscr, hpost, rfl⟩

/-- Where no pending result stands beside its register, leaving the handler writes none. -/
theorem leaveHandler_plain {h : Hart} (hp : h.Plain) : h.leaveHandler.x = h.x ∧ h.leaveHandler.t.vec = h.t.vec := by
  have hw := writePending_plain hp
  unfold Hart.leaveHandler Hart.settleBoard
  rw [hw]
  exact ⟨rfl, rfl⟩

/-- Settles O9: ERET leaves the handler that is active; without one it is the privilege trap. -/
theorem eretReturns : Obligations.EretReturns := by
  unfold Obligations.EretReturns
  refine ⟨fun s hh => ?_, fun s hh => if_neg (by rw [hh]; decide)⟩
  obtain ⟨hpc, hctl, hrlt, hscr, hpost, hboard⟩ := leaveHandler_keeps s.h
  refine ⟨{ s with h := s.h.leaveHandler }, if_pos hh, hpc, hctl, ⟨fun _ => rfl, rfl, rfl, rfl, rfl, rfl⟩, hrlt, hscr, hpost, hboard,
    fun hp => ?_⟩
  obtain ⟨hx, hvec⟩ := leaveHandler_plain hp
  refine ⟨fun r => ?_, fun r => ?_, fun r => ?_, fun r => ?_⟩
  · rw [State.x, Hart.getX, hx, State.x, Hart.getX]
  · rw [State.v, hvec, State.v]
  · rw [State.m, hvec, State.m]
  · rw [State.k, hvec, State.k]

/-! ## HALT (R267, R403) -/

theorem endCheck0_stat (h : Hart) (p : Word) : (h.endCheck0 p).stat = h.stat := by
  unfold Hart.endCheck0
  dsimp only
  split
  · split <;> rfl
  · rfl

@[simp] theorem retire_stat (s : State) : s.retire.h.stat = s.h.stat := by
  show (s.h.endCheck s.nextAddr).stat = s.h.stat
  unfold Hart.endCheck
  dsimp only
  split
  · split
    · rfl
    · exact endCheck0_stat _ _
  · exact endCheck0_stat _ _

/-- The end-of-body check speaks of the pc and the loop registers alone. -/
theorem endOfBody_congr {s t u : State} (h : EndOfBody s t) (hpc : u.h.pc = t.h.pc) (hctl : u.h.ctl = t.h.ctl) : EndOfBody s u := by
  unfold EndOfBody at h ⊢
  rw [hpc, hctl]
  exact h

/-- A hart that is ready halts: its pending results are written. -/
theorem halt_ready {h : Hart} (hs : h.stat = .ready) : h.halt = { h.writePending with stat := .halted none false } := by
  unfold Hart.halt
  rw [hs]

theorem halt_ready_keeps {h : Hart} (hs : h.stat = .ready) : h.halt.pc = h.pc ∧ h.halt.ctl = h.ctl := by
  have hw := writePending_keeps (fun h => (h.pc, h.ctl)) (fun h r v => by unfold Hart.setRawReg; cases r.file <;> rfl)
    (fun _ _ => rfl) h
  rw [halt_ready hs]
  exact Prod.mk.inj hw

theorem halt_ready_plain {h : Hart} (hs : h.stat = .ready) (hp : h.Plain) : h.halt = { h with stat := .halted none false } := by
  rw [halt_ready hs, writePending_plain hp]

theorem halt_answers {s : State} {c k : Nat} {x : Ctx} (hid : s.h.id = .thread c k) (hdbg : s.h.task.dbg = true)
    (hready : s.h.stat = .ready) (hx : s.ctx? s.h.task.ctx = some x) (hxdbg : x.dbg = true) (hgrp : x.hgrp < 16) :
    Answers (exec .halt s) fun t =>
      ((t.pkg (s.pkgOf s.h)).halts.getD x.hgrp {}).stop = true ∧ ((t.pkg (s.pkgOf s.h)).halts.getD x.hgrp {}).src = 2 ∧
      t.h.stat = .halted none false ∧ EndOfBody s t ∧ SameMem s t ∧
      (s.h.Plain → SameX s t ∧ SameV s t ∧ SameM s t ∧ SameK s t ∧ t.h.board = s.h.board) := by
  have hthread : s.h.isThread = true := by unfold Hart.isThread; rw [hid]
  have hexec : exec .halt s = .next (s.retire.stopGroup (s.pkgOf s.h) x.hgrp 2 0) := by
    show execHalt s = _
    unfold execHalt
    rw [hdbg, hthread, hx]
    rfl
  have hframe := State.retire_frame s
  have hin : s.retire.inGroup (s.pkgOf s.h) x.hgrp s.retire.h = true := by
    rw [inGroup_congr (t := s.retire) (s := s) rfl rfl hframe.hart.id hframe.hart.task]
    unfold State.inGroup
    rw [hx, hthread, beq_self_eq_true]
    show (x.dbg && x.hgrp == x.hgrp) = true
    rw [hxdbg, beq_self_eq_true]
    rfl
  have hstat : s.retire.h.stat = .ready := (retire_stat s).trans hready
  have hh := stopGroup_h s.retire (s.pkgOf s.h) x.hgrp 2 0 hin
  have hgroup := stopGroup_group s.retire (s.pkgOf s.h) x.hgrp 2 0 (x := s.pkgOf s.h * 16 + x.hgrp) (by omega) (by omega)
  rw [group_eq_getD, show (s.pkgOf s.h * 16 + x.hgrp) / 16 = s.pkgOf s.h by omega,
    show (s.pkgOf s.h * 16 + x.hgrp) % 16 = x.hgrp by omega] at hgroup
  obtain ⟨hpc, hctl⟩ := halt_ready_keeps hstat
  refine ⟨_, hexec, by rw [hgroup], by rw [hgroup], by rw [hh, halt_ready hstat],
    endOfBody_congr (State.retire_endOfBody s) (by rw [hh, hpc]) (by rw [hh, hctl]),
    fun a => by rw [(stopGroup_halts s.retire _ _ _ _).mem, State.retire_mem], fun hp => ?_⟩
  have hplain : s.retire.h.Plain := by unfold Hart.Plain; rw [hframe.hart.board]; exact hp
  rw [halt_ready_plain hstat hplain] at hh
  refine ⟨fun r => ?_, fun r => ?_, fun r => ?_, fun r => ?_, ?_⟩
  · rw [State.x, hh]
    exact State.retire_x s r
  · rw [State.v, hh]
    exact State.retire_v s r
  · rw [State.m, hh]
    exact State.retire_m s r
  · rw [State.k, hh]
    exact State.retire_k s r
  · rw [hh]
    exact hframe.hart.board

/-- Settles O14: HALT of a debugged thread completes and stops its group, which halts the thread; without debugging it is the
privilege trap. -/
theorem haltStopsItsGroup : Obligations.HaltStopsItsGroup := by
  unfold Obligations.HaltStopsItsGroup
  refine ⟨fun s c k x hid hdbg hready hx hxdbg hgrp => halt_answers hid hdbg hready hx hxdbg hgrp, fun s hdbg => ?_⟩
  show execHalt s = _
  unfold execHalt
  rw [hdbg]
  rfl

end Sys2Proof.ControlFlow
end

section
/-! PROOFS. The fences, cache maintenance and the prefetch (R33, R83, R128, R129, R264, R265, R298): O26. -/

namespace Sys2Proof.MemFences

open Sys2Proof Sys2Proof.Machine Sys2Proof.LatticeCells Sys2Proof.ChildOps Sys2Proof.TokenMoves Sys2Proof.ScalarResults

/-! ## Groups that change their thread's history alone -/

/-- What a memory group without a result leaves of its thread. -/
def KeepsHart (s t : State) : Prop := SameX s t ∧ SameV s t ∧ SameM s t ∧ SameK s t ∧ SameFlags s t ∧ t.h.t.scr = s.h.t.scr ∧
  SameCtl s t ∧ EndOfBody s t

/-- The issuing thread is as before but for its program-order history (R339). -/
def HistOnly (s u : State) : Prop := ∃ hist, u.h = { s.h with t := { s.h.t with hist := hist } }

/-- A group that changes its thread's history alone completes; memory may differ. -/
theorem HistOnly.retire_keepsHart {s u : State} (a : HistOnly s u) (hgrp : u.grp = s.grp) : KeepsHart s u.retire := by
  obtain ⟨hist, hh⟩ := a
  have hkeep : KeepsFiles s { u with mem := s.mem } :=
    ⟨by rw [hh], by rw [hh], by rw [hh], by rw [hh], hgrp, rfl⟩
  have hk : SameK s u.retire := fun r => by rw [State.retire_k, State.k, hh, State.k]
  exact ⟨retire_sameX (by rw [hh]), hkeep.sameV, hkeep.sameM, hk, hkeep.sameFlags,
    (State.retire_frame u).hart.scr.trans (by rw [hh]), sameCtl_of_ctl (State.retire_frame u).ctl (by rw [hh]), hkeep.endOfBody⟩

theorem histOnly_refl (s : State) : HistOnly s s := ⟨s.h.t.hist, rfl⟩

/-- A group that notes something, or nothing, in its thread's history completes, and nothing outside the thread differs. -/
theorem HistOnly.retire_answers {s u : State} (a : HistOnly s u) (hworld : SameWorld s u) (hgrp : u.grp = s.grp) :
    Answers (.next u.retire) fun t => KeepsHart s t ∧ SameWorld s t :=
  ⟨_, rfl, a.retire_keepsHart hgrp, sameWorld_trans hworld (State.retire_frame u).world⟩

theorem retire_answers (s : State) : Answers (.next s.retire) fun t => KeepsHart s t ∧ SameWorld s t :=
  (histOnly_refl s).retire_answers ⟨fun _ => rfl, rfl, rfl, rfl, rfl, rfl⟩ rfl

/-! ## FENCE.J (R128) -/

section
variable {s : State} {k : Fin 8}

theorem quietIn_iff (p : Posted) (scope : Nat) : p.quietIn scope = true ↔
    (∀ e, e ∈ p.j.toList → e.v = true → e.hscope ≤ scope → e.out = 0) ∧ ∀ l, l ∈ p.later → l.unresolved = false := by
  unfold Posted.quietIn
  rw [Bool.and_eq_true, List.all_eq_true, Bool.not_eq_true', List.any_eq_false]
  refine and_congr (forall₂_congr fun e _ => ?_) (forall₂_congr fun l _ => by rw [Bool.not_eq_true])
  rw [Bool.or_eq_true, Bool.or_eq_true, Bool.not_eq_true', decide_eq_true_eq, beq_iff_eq, ← Bool.not_eq_true, ← Nat.not_le]
  tauto

theorem fenceJ_illegal (hk : 5 < k.val) : exec (.fenceJ k) s = .next (s.takeTrap { cause := 1, addr := s.word0 }) :=
  if_pos hk

theorem fenceJ_quiet (hk : k.val ≤ 5) (hq : s.h.t.post.quietIn k.val = true) : exec (.fenceJ k) s = .next s.retire :=
  (if_neg (by omega)).trans (if_pos hq)

theorem fenceJ_waits (hk : k.val ≤ 5) (hq : ¬ s.h.t.post.quietIn k.val = true) :
    exec (.fenceJ k) s = .next (s.block (.fenceJ k.val)) :=
  (if_neg (by omega)).trans (if_neg hq)

/-- A journal entry with replies to come, or an operation whose homes are not known, keeps the journal from being quiet. -/
theorem not_quietIn {p : Posted} {scope : Nat} (h : (∃ e, e ∈ p.j.toList ∧ e.v = true ∧ e.hscope ≤ scope ∧ e.out ≠ 0) ∨
    ∃ l, l ∈ p.later ∧ l.unresolved = true) : ¬ p.quietIn scope = true := by
  rw [quietIn_iff]
  rintro ⟨hj, hlater⟩
  rcases h with ⟨e, he, hv, hscope, hout⟩ | ⟨l, hl, hun⟩
  · exact hout (hj e he hv hscope)
  · exact Bool.false_ne_true ((hlater l hl).symm.trans hun)

/-! ## FENCE.M (R129) -/

theorem fenceM_illegal (hk : 5 < k.val) : exec (.fenceM k) s = .next (s.takeTrap { cause := 1, addr := s.word0 }) :=
  if_pos hk

theorem fenceM_waits (hk : k.val ≤ 5) (hw : s.fenceMWaits s.h (decide (2 ≤ k.val)) = true) :
    exec (.fenceM k) s = .next (s.block (.fenceM (decide (2 ≤ k.val)))) :=
  (if_neg (by omega)).trans (if_pos hw)

theorem fenceM_passes (hk : k.val ≤ 5) (hw : s.fenceMWaits s.h (decide (2 ≤ k.val)) = false) :
    Answers (exec (.fenceM k) s) fun t => KeepsHart s t ∧ SameWorld s t := by
  have hexec : exec (.fenceM k) s = if k.val < 2 then .next s.retire else .next (s.note .fenceM).retire :=
    (if_neg (by omega)).trans (if_neg (by rw [hw]; decide))
  rw [hexec]
  split
  · exact retire_answers s
  · exact HistOnly.retire_answers (u := s.note .fenceM) ⟨_, rfl⟩ ⟨fun _ => rfl, rfl, rfl, rfl, rfl, rfl⟩ rfl

/-- Whether FENCE.M waits: for a store that its core holds, or, at a wide scope, for a write-back of the thread. -/
theorem fenceMWaits_iff (wide : Bool) : s.fenceMWaits s.h wide = true ↔
    (∃ l, l ∈ s.h.t.post.later ∧ l.isStore = true) ∨ (wide = true ∧ ∃ b, b ∈ s.lat.writeBacks ∧ b.hart = s.h.id) := by
  unfold State.fenceMWaits State.writingBack
  rw [Bool.or_eq_true, Bool.and_eq_true, List.any_eq_true, List.any_eq_true]
  simp only [beq_iff_eq]

end

/-! ## CLEANR and INVALR (R265) -/

section
variable {s : State} {w : Option (Fin 4)} {a b : Fin 32}

theorem maintenance_eq (s : State) (w : Option (Fin 4)) (a b : Fin 32) (inv : Bool) :
    exec (if inv then .invalr w a b else .cleanr w a b) s = s.maintain w a b inv := by
  cases inv
  · rfl
  · rfl

/-- The maintenance of no bytes completes. -/
theorem maintain_empty (hclear : s.h.t.post.clear (waitOfPfx w) = true) (hn : (s.x b).toNat = 0) (inv : Bool) :
    s.maintain w a b inv = .next s.retire := by
  unfold State.maintain State.held
  dsimp only
  rw [if_pos hclear, if_pos hn]

/-- The maintenance of a range within one mapped page starts at once. -/
theorem maintain_page {l : Leaf} {pa : Nat} (hclear : s.h.t.post.clear (waitOfPfx w) = true) (hn : (s.x b).toNat ≠ 0)
    (hend : (s.x a).toNat + (s.x b).toNat ≤ 2 ^ 57) (hlater : s.h.t.post.later = [])
    (hreach : s.reaches (s.x a).toNat .maint = .ok l pa) (hpage : (s.x a).toNat + (s.x b).toNat ≤ l.va + pageBytes l.size) (inv : Bool) :
    let lo := (s.x a).toNat
    let hi := lo + (s.x b).toNat
    s.maintain w a b inv =
      .next (((reached s lo .maint).note (if inv then .invalr lo hi else .cleanr lo hi)).startWriteBack lo hi inv).retire := by
  unfold State.maintain State.held
  dsimp only
  rw [if_pos hclear, if_neg hn, if_neg (by omega), State.eachPage, if_neg (by omega)]
  dsimp only
  rw [access_ok hlater hreach, State.eachPage, if_pos (show _ ≤ l.stop from hpage)]

end

/-- What the start of a write-back leaves: the dirty lines of the range are clean, and one CLEANR or INVALR more is under way. -/
theorem startWriteBack_lines (s : State) (lo hi : Nat) (inv : Bool) :
    ∃ ls, (s.startWriteBack lo hi inv).lat.writeBacks = s.lat.writeBacks ++
        [{ hart := s.h.id, ctx := s.h.task.ctx, lo := lo, hi := hi, inval := inv, lines := ls }] ∧
      ∀ x, x ∈ ls ↔ (∃ c, c ∈ s.lat.cache ∧ s.lineIn s.h.task.ctx lo hi c.line = true ∧ c.line = x.1) ∧
        x.2 = if s.lat.cache.any (fun c => c.line == x.1 && c.dirty) then some (Mem.readN s.mem (64 * x.1) 64) else none := by
  refine ⟨_, rfl, fun x => ?_⟩
  rw [List.mem_map]
  simp only [List.mem_dedup, List.mem_map, List.mem_filter]
  constructor
  · rintro ⟨n, ⟨c, ⟨hc, hit⟩, rfl⟩, rfl⟩
    exact ⟨⟨c, hc, hit, rfl⟩, rfl⟩
  · rintro ⟨⟨c, hc, hit, hline⟩, hx⟩
    exact ⟨x.1, ⟨c, ⟨hc, hit⟩, hline⟩, Prod.ext rfl hx.symm⟩

theorem maintain_answers {s : State} {w : Option (Fin 4)} {a b : Fin 32} {l : Leaf} {pa : Nat}
    (hclear : s.h.t.post.clear (waitOfPfx w) = true) (hn : (s.x b).toNat ≠ 0) (hend : (s.x a).toNat + (s.x b).toNat ≤ 2 ^ 57)
    (hlater : s.h.t.post.later = []) (hreach : s.reaches (s.x a).toNat .maint = .ok l pa)
    (hpage : (s.x a).toNat + (s.x b).toNat ≤ l.va + pageBytes l.size) (inv : Bool) :
    let lo := (s.x a).toNat
    let hi := lo + (s.x b).toNat
    let hit := fun (c : CLine) => s.lineIn s.h.task.ctx lo hi c.line
    Answers (s.maintain w a b inv) fun t => KeepsHart s t ∧ SameMem s t ∧
      t.lat.cache = s.lat.cache.map (fun c => if hit c then { c with dirty := false } else c) ∧
      ∃ ls, t.lat.writeBacks = s.lat.writeBacks ++
          [{ hart := s.h.id, ctx := s.h.task.ctx, lo := lo, hi := hi, inval := inv, lines := ls }] ∧
        (∀ x, x ∈ ls ↔ (∃ c, c ∈ s.lat.cache ∧ hit c = true ∧ c.line = x.1) ∧
          x.2 = if s.lat.cache.any (fun c => c.line == x.1 && c.dirty) then some (Mem.readN s.mem (64 * x.1) 64) else none) := by
  have hexec := maintain_page hclear hn hend hlater hreach hpage inv
  obtain ⟨tlb, ht⟩ : ∃ tlb, reached s (s.x a).toNat .maint = { s with lat := { s.lat with tlb := tlb } } :=
    translate_tlb s _ _ _ _ _ _
  dsimp only at hexec ⊢
  rw [ht] at hexec
  refine ⟨_, hexec, HistOnly.retire_keepsHart ⟨_, rfl⟩ rfl, fun _ => rfl, rfl, ?_⟩
  exact startWriteBack_lines (({ s with lat := { s.lat with tlb := tlb } } : State).note _) _ _ inv

/-! ## Lines that a cache gives up (R83, R104, R129) -/

/-- A write of one byte leaves every other byte, whatever form the memory has. -/
theorem read_write_ne (m : List Host.Cell) (a : Nat) (v : Byte) {b : Nat} (h : b ≠ a) : Mem.read (Mem.write m a v) b = Mem.read m b := by
  have hcons (x : Byte) (l : List Host.Cell) : Mem.read ((a, x) :: l) b = Mem.read l b := if_neg (Ne.symm h)
  induction m with
  | nil =>
    unfold Mem.write
    split
    · rfl
    · exact hcons v []
  | cons c m ih =>
    obtain ⟨k, x⟩ := c
    unfold Mem.write
    split
    · split
      · rfl
      · exact hcons v _
    · split
      · next hk =>
        subst hk
        rw [hcons x m]
        split
        · rfl
        · exact hcons v m
      · rw [Mem.read, ih, Mem.read]

/-- A write leaves the bytes outside it, whatever form the memory has. -/
theorem read_writeN_outside (m : List Host.Cell) (a n v : Nat) {b : Nat} (h : b < a ∨ a + n ≤ b) :
    Mem.read (Mem.writeN m a n v) b = Mem.read m b := by
  induction n generalizing m a v with
  | zero => rfl
  | succ n ih => rw [Mem.writeN, ih _ _ _ (by omega), read_write_ne _ _ _ (by omega)]

theorem mem_of_mem_assocDel {α : Type} {k : Nat} {l : List (Nat × α)} {x : Nat × α} (h : x ∈ assocDel k l) : x ∈ l := by
  induction l with
  | nil => exact h
  | cons c l ih =>
    obtain ⟨j, w⟩ := c
    rw [assocDel] at h
    split at h
    · exact List.mem_cons_of_mem _ (ih h)
    · rcases List.mem_cons.mp h with rfl | h
      · exact List.mem_cons_self
      · exact List.mem_cons_of_mem _ (ih h)

/-- What giving up lines leaves: the bytes of the lines that caches and DRAM hold alike, which stay so, and the key checks and the
losses. -/
structure GivesUp (s t : State) : Prop where
  apart : ∀ a, s.settled a → t.settled a ∧ Mem.read t.mem a = Mem.read s.mem a
  checks : t.lat.checks = s.lat.checks
  lost : t.lat.lost = s.lat.lost

theorem GivesUp.of_eq {s t : State} (hdram : t.lat.dram = s.lat.dram) (hmem : t.mem = s.mem) (hchecks : t.lat.checks = s.lat.checks)
    (hlost : t.lat.lost = s.lat.lost) : GivesUp s t :=
  ⟨fun a h => ⟨fun d hd => h d (hdram ▸ hd), by rw [hmem]⟩, hchecks, hlost⟩

theorem GivesUp.refl (s : State) : GivesUp s s := GivesUp.of_eq rfl rfl rfl rfl

theorem GivesUp.trans {s t u : State} (a : GivesUp s t) (b : GivesUp t u) : GivesUp s u where
  apart p h := by
    obtain ⟨hset, hread⟩ := a.apart p h
    obtain ⟨hset', hread'⟩ := b.apart p hset
    exact ⟨hset', hread'.trans hread⟩
  checks := b.checks.trans a.checks
  lost := b.lost.trans a.lost

theorem GivesUp.foldl {α : Type} {f : State → α → State} (hf : ∀ s a, GivesUp s (f s a)) (l : List α) (s : State) :
    GivesUp s (l.foldl f s) := by
  induction l generalizing s with
  | nil => exact GivesUp.refl s
  | cons a l ih => exact (hf s a).trans (ih (f s a))

/-- Writing a line's 64 bytes leaves the bytes of the other lines; the size is a variable so that the write is never unfolded. -/
theorem read_writeN_outside_line (m : List Host.Cell) (line v a : Nat) (h : line ≠ a / 64) (n : Nat) (hn : n = 64) :
    Mem.read (Mem.writeN m (64 * line) n v) a = Mem.read m a := by
  have hout : a < 64 * line ∨ 64 * line + n ≤ a := by omega
  exact read_writeN_outside m (64 * line) n v hout

/-- A line that leaves the caches changes memory only where DRAM held it otherwise. -/
theorem settleLine_givesUp (s : State) (line : Nat) (dirty : Bool) : GivesUp s (s.settleLine line dirty) := by
  unfold State.settleLine
  split
  · exact GivesUp.refl s
  · next d hd =>
    have hline : d.1 = line := by
      have := List.find?_some hd
      exact eq_of_beq this
    have hkeep (a : Nat) (h : s.settled a) : ∀ x, x ∈ assocDel line s.lat.dram → x.1 ≠ a / 64 := fun x hx => h x (mem_of_mem_assocDel hx)
    dsimp only
    split
    · exact ⟨fun a h => ⟨hkeep a h, rfl⟩, rfl, rfl⟩
    · refine ⟨fun a h => ⟨hkeep a h, ?_⟩, rfl, rfl⟩
      have hne : line ≠ a / 64 := hline ▸ h d (List.mem_of_find?_eq_some hd)
      have hw := read_writeN_outside_line s.mem line d.2 a hne 64 rfl
      dsimp only
      rw [hw]

theorem uncache_givesUp (s : State) (p : CLine → Bool) : GivesUp s (s.uncache p) := by
  unfold State.uncache
  refine GivesUp.trans (t := { s with lat := { s.lat with cache := s.lat.cache.filter (fun c => !(c.plain && p c)) } })
    (GivesUp.of_eq rfl rfl rfl rfl) (GivesUp.foldl (fun t c => ?_) _ _)
  split
  · exact GivesUp.refl t
  · exact settleLine_givesUp t _ _

theorem evict_givesUp (s : State) (cluster : Nat) : GivesUp s (s.evict cluster) := by
  unfold State.evict
  dsimp only
  split
  · exact GivesUp.refl s
  · split
    · exact GivesUp.refl s
    · split
      · exact uncache_givesUp s _
      · exact GivesUp.of_eq rfl rfl rfl rfl

/-- A plain line put into a cluster's cache as the newest one, in the place of the entry that it had. -/
def withLine (s : State) (cluster : Nat) (dirty : Bool) (line : Nat) : State :=
  let here := fun (c : CLine) => c.plain && c.cluster == cluster && c.line == line
  { s with lat := { s.lat with
    cache := { cluster := cluster, line := line, dirty := (s.lat.cache.find? here).any (·.dirty) || dirty } ::
      s.lat.cache.filter (fun c => !here c) } }

theorem touchLine_eq (s : State) (cluster : Nat) (dirty : Bool) (line : Nat) :
    s.touchLine cluster dirty line = (withLine s cluster dirty line).evict cluster := rfl

theorem touchLine_givesUp (s : State) (cluster : Nat) (dirty : Bool) (line : Nat) : GivesUp s (s.touchLine cluster dirty line) :=
  GivesUp.trans (t := withLine s cluster dirty line) (GivesUp.of_eq rfl rfl rfl rfl) (evict_givesUp _ cluster)

theorem touchLine_cachesOnly (s : State) (cluster : Nat) (dirty : Bool) (line : Nat) : CachesOnly s (s.touchLine cluster dirty line) :=
  CachesOnly.trans (t := withLine s cluster dirty line) ⟨_, _, _, _, rfl⟩ (evict_cachesOnly _ cluster)

/-- A line that finds room in its cache makes it give up none. -/
theorem touchLine_room (s : State) (cluster : Nat) (dirty : Bool) (line : Nat) (h : cached s cluster < cacheLines) :
    s.touchLine cluster dirty line = withLine s cluster dirty line :=
  (touchLine_eq s cluster dirty line).trans (evict_room _ _ ((length_filter_replace _ _ _ s.lat.cache).trans h))

/-! ## PRF (R298) -/

/-- The one byte that PRF names lies in one line. -/
theorem noteAccess_byte (s : State) (l : Leaf) (va pa : Nat) :
    s.noteAccess l va pa 1 = (s.touchLine s.cluster false (pa / 64)).noteHist l va 1 false := by
  have hlines : linesOf pa 1 = [pa / 64] := by
    unfold linesOf
    rw [Nat.add_sub_cancel, Nat.add_sub_cancel_left]
    rfl
  unfold State.noteAccess State.touch State.touchIn
  rw [hlines]
  rfl

/-- A note of an access, or none, changes the thread's history alone. -/
theorem noteHist_eq (s : State) (l : Leaf) (va n : Nat) (store : Bool) :
    ∃ hist, s.noteHist l va n store = { s with h := { s.h with t := { s.h.t with hist := hist } } } := by
  unfold State.noteHist
  split
  · exact ⟨_, rfl⟩
  · exact ⟨s.h.t.hist, rfl⟩

/-- What a prefetch leaves when its group completes: TLBs, caches with what they give up, and the history may differ. -/
structure Prefetched (s u : State) : Prop where
  hist : HistOnly s u
  grp : u.grp = s.grp
  lat : u.lat = { s.lat with tlb := u.lat.tlb, cache := u.lat.cache, dram := u.lat.dram, writeBacks := u.lat.writeBacks }
  work : u.work = s.work
  dev : u.dev = s.dev
  harts : u.harts = s.harts
  free : u.free = s.free
  gives : GivesUp s u
  room : s.cacheRoom → u.mem = s.mem ∧ u.lat.writeBacks = s.lat.writeBacks

theorem Prefetched.refl (s : State) : Prefetched s s :=
  ⟨histOnly_refl s, rfl, rfl, rfl, rfl, rfl, rfl, GivesUp.refl s, fun _ => ⟨rfl, rfl⟩⟩

theorem Prefetched.retire_answers {s u : State} (p : Prefetched s u) : Answers (.next u.retire) fun t =>
    KeepsHart s t ∧ LoadMem s t ∧ MemFrame s t := by
  have f := (State.retire_frame u).hart
  refine ⟨_, rfl, p.hist.retire_keepsHart p.grp, ⟨fun h a => ?_, fun a h => (p.gives.apart a h).2, fun h => (p.room h).2,
    p.gives.checks, p.gives.lost⟩, ?_⟩
  · rw [State.retire_mem, (p.room h).1]
  · obtain ⟨hist, hh⟩ := p.hist
    have hlat : u.lat = { s.lat with tlb := u.lat.tlb, cache := u.lat.cache, dram := u.lat.dram, writeBacks := u.lat.writeBacks
                                     checks := u.lat.checks, lost := u.lat.lost } := by
      rw [p.gives.checks, p.gives.lost]
      exact p.lat
    exact ⟨hlat, p.work, p.dev, p.harts, p.free, f.id.trans (by rw [hh]), f.task.trans (by rw [hh]), f.post.trans (by rw [hh]),
      f.rlt.trans (by rw [hh]), f.rill.trans (by rw [hh]), f.board.trans (by rw [hh]),
      sameCtl_of_ctl (State.retire_frame u).ctl (by rw [hh])⟩

/-- TLBs filled. -/
theorem prefetched_tlb (s : State) (tlb : List TlbEntry) : Prefetched s { s with lat := { s.lat with tlb := tlb } } :=
  ⟨histOnly_refl s, rfl, rfl, rfl, rfl, rfl, rfl, GivesUp.of_eq rfl rfl rfl rfl, fun _ => ⟨rfl, rfl⟩⟩

/-- A line taken into the cluster cache. -/
theorem Prefetched.touchLine {s b : State} (p : Prefetched s b) (hcache : b.lat.cache = s.lat.cache) (hcluster : b.cluster = s.cluster)
    (line : Nat) : Prefetched s (b.touchLine b.cluster false line) := by
  have hgives := p.gives.trans (touchLine_givesUp b b.cluster false line)
  have hroom (h : s.cacheRoom) : b.touchLine b.cluster false line = withLine b b.cluster false line := by
    refine touchLine_room b _ _ _ ?_
    unfold cached
    rw [hcache, hcluster]
    unfold State.cacheRoom at h
    omega
  obtain ⟨mem, cache, dram, writeBacks, hu⟩ := touchLine_cachesOnly b b.cluster false line
  refine ⟨?_, ?_, ?_, ?_, ?_, ?_, ?_, hgives, fun h => ?_⟩
  · rw [hu]; exact p.hist
  · rw [hu]; exact p.grp
  · rw [hu, p.lat]
  · rw [hu]; exact p.work
  · rw [hu]; exact p.dev
  · rw [hu]; exact p.harts
  · rw [hu]; exact p.free
  · rw [hroom h]
    exact p.room h

/-- An access noted in the history. -/
theorem Prefetched.noteHist {s b : State} (p : Prefetched s b) (l : Leaf) (va n : Nat) (store : Bool) :
    Prefetched s (b.noteHist l va n store) := by
  obtain ⟨hist, hn⟩ := noteHist_eq b l va n store
  obtain ⟨old, hh⟩ := p.hist
  rw [hn]
  exact ⟨⟨hist, by rw [hh]⟩, p.grp, p.lat, p.work, p.dev, p.harts, p.free,
    p.gives.trans (GivesUp.of_eq rfl rfl rfl rfl), p.room⟩

theorem prf_answers {s : State} {w : Option (Fin 4)} (a : Fin 32) (imm : BitVec 34) (hclear : s.h.t.post.clear (waitOfPfx w) = true) :
    Answers (exec (.prf w a imm) s) fun t => KeepsHart s t ∧ LoadMem s t ∧ MemFrame s t := by
  have hnone : Answers (.next s.retire) fun t => KeepsHart s t ∧ LoadMem s t ∧ MemFrame s t :=
    (Prefetched.refl s).retire_answers
  obtain ⟨tlb, ht⟩ := translate_tlb s (some s.coreId) (physDie s.phys) s.h.task.ctx s.h.task.num (s.va a imm) .load
  show Answers (execPrf w a imm s) _
  unfold execPrf State.held
  dsimp only
  rw [if_pos hclear, ht]
  split
  · split
    · exact hnone
    · rw [noteAccess_byte]
      exact (((prefetched_tlb s tlb).touchLine rfl rfl _).noteHist _ _ _ _).retire_answers
  · exact hnone

/-- Settles O26: each instruction by its cases, and what its group leaves of its thread and of memory. -/
theorem fencesAndMaintenanceComplete : Obligations.FencesAndMaintenanceComplete := by
  unfold Obligations.FencesAndMaintenanceComplete
  intro s
  refine ⟨fun k hk => ⟨fenceJ_illegal hk, fenceM_illegal hk⟩, fun k hk => ⟨fun hj hlater => ?_, fun h => ?_, fun hstore => ⟨fun h => ?_,
    fun hwide h => ?_⟩, fun h => ?_⟩, fun w a b inv hclear => ⟨fun hn => ?_, fun l pa hn hend hlater hreach hpage => ?_⟩,
    fun w a imm hclear => prf_answers a imm hclear⟩
  · rw [fenceJ_quiet hk ((quietIn_iff _ _).mpr ⟨hj, hlater⟩)]
    exact retire_answers s
  · exact fenceJ_waits hk (not_quietIn h)
  · refine fenceM_passes hk (Bool.eq_false_iff.mpr fun hw => ?_)
    rcases (fenceMWaits_iff _).mp hw with ⟨l, hl, hs⟩ | ⟨hwide, b, hb, hhart⟩
    · exact Bool.false_ne_true ((hstore l hl).symm.trans hs)
    · rcases h with h | h
      · exact absurd (of_decide_eq_true hwide) (by omega)
      · exact h b hb hhart
  · have hexec := fenceM_waits hk ((fenceMWaits_iff _).mpr (.inr ⟨decide_eq_true hwide, h⟩))
    rwa [decide_eq_true hwide] at hexec
  · exact fenceM_waits hk ((fenceMWaits_iff _).mpr (.inl h))
  · rw [maintenance_eq, maintain_empty hclear hn]
    exact retire_answers s
  · rw [maintenance_eq]
    exact maintain_answers hclear hn hend hlater hreach hpage inv

end Sys2Proof.MemFences
end

section
/-! PROOFS. The arm sequencer, rings, windows and streams (R42, R43, R52 to R62, R268 to R270, R328, R335): O39. -/

namespace Sys2Proof.Windows

open Sys2Proof Sys2Proof.Machine Sys2Proof.LatticeCells Sys2Proof.ChildOps Sys2Proof.EngineOps

/-! ## Groups that change their thread's scratchpad alone -/

/-- What a group that changes its thread's scratchpad, or nothing, leaves of the rest beside the vector registers. -/
def KeepsRest (s t : State) : Prop := SameX s t ∧ SameM s t ∧ SameK s t ∧ SameFlags s t ∧ SameMem s t ∧ SameCtl s t ∧ EndOfBody s t

/-- The issuing thread has a scratchpad of its own beside what it had; lattice, work and the other harts may differ. -/
structure ScrOnly (s u : State) (c : Scratch) : Prop where
  h : u.h = s.h.setScr c
  grp : u.grp = s.grp
  mem : u.mem = s.mem

section
variable {s u : State} {c : Scratch}

theorem setScr_scrOnly (s : State) (c : Scratch) : ScrOnly s (s.setScr c) c := ⟨rfl, rfl, rfl⟩

theorem ScrOnly.keepsFiles (a : ScrOnly s u c) : KeepsFiles s u :=
  ⟨by rw [a.h]; rfl, by rw [a.h]; rfl, by rw [a.h]; rfl, by rw [a.h]; rfl, a.grp, a.mem⟩

/-- A group that changes its thread's scratchpad alone completes. -/
theorem ScrOnly.retire (a : ScrOnly s u c) : KeepsRest s u.retire ∧ SameV s u.retire ∧ u.retire.h.t.scr = c := by
  obtain ⟨hx, hv, hm, hmem, hflags, hctl, hend⟩ := keepsRegisters a.keepsFiles (by rw [a.h]; rfl)
  have hk : SameK s u.retire := fun r => by rw [State.retire_k, State.k, a.h]; rfl
  exact ⟨⟨hx, hm, hk, hflags, hmem, hctl, hend⟩, hv, (State.retire_frame u).hart.scr.trans (by rw [a.h]; rfl)⟩

theorem ScrOnly.answers (a : ScrOnly s u c) :
    Answers (.next u.retire) fun t => KeepsRest s t ∧ SameV s t ∧ t.h.t.scr = c := ⟨_, rfl, a.retire⟩

theorem retire_answers (s : State) : Answers (.next s.retire) fun t => KeepsRest s t ∧ SameV s t ∧ t.h.t.scr = s.h.t.scr :=
  ScrOnly.answers ⟨rfl, rfl, rfl⟩

end

/-! ## ARM and DISARM (R52 to R54) -/

/-- The thread is held for its core's arm sequencer, and nothing of it differs. -/
def Held (s t : State) : Prop := t.h.stat = .waiting .sequencer ∧ SameX s t ∧ SameV s t ∧ SameM s t ∧ SameK s t ∧ SameFlags s t ∧
  SameMem s t ∧ SameCtl s t ∧ t.h.t.scr = s.h.t.scr ∧ t.h.pc = s.h.pc

section
variable {s : State} {fmt : Fin 16} {a b c : Fin 32} {q : Core}

theorem arm_value (o v : Nat) (hr : s.h.reply = some (.value o v)) : exec (.arm fmt a b c) s = .next s.retire := by
  show execArm fmt a b c s = _
  unfold execArm State.finishArm
  rw [hr]
  rfl

theorem disarm_value (o v : Nat) (hr : s.h.reply = some (.value o v)) : exec (.disarm a b) s = .next s.retire := by
  show execDisarm a b s = _
  unfold execDisarm State.finishArm
  rw [hr]
  rfl

theorem arm_trap (k x d : Nat) (hr : s.h.reply = some (.trap k x d)) :
    exec (.arm fmt a b c) s = .next (s.takeTrap { cause := k, addr := x, detail := d }) := by
  show execArm fmt a b c s = _
  unfold execArm State.finishArm
  rw [hr]
  rfl

/-- A request joins the core's arm sequencer, behind the others (R52). -/
theorem toSequencer_answers (hcore : s.core? s.coreId = some q) (hstat : s.h.stat = .ready) (arm : Bool) (off n fmt soff : Nat) :
    Answers (s.toSequencer arm off n fmt soff) fun t => Held s t ∧ ∃ r, t.core? s.coreId = some r ∧
      r.seq = q.seq ++ [{ slot := s.h.coreSlot.2, arm := arm, off := off, n := n, fmt := fmt, soff := soff }] := by
  refine ⟨_, rfl, ⟨?_, fun _ => rfl, fun _ => rfl, fun _ => rfl, fun _ => rfl, rfl, fun _ => rfl,
    ⟨rfl, rfl, rfl, rfl, rfl, rfl, rfl, rfl⟩, rfl, rfl⟩, ?_⟩
  · unfold State.block
    dsimp only
    rw [State.updCore_h, hstat]
  · exact ⟨_, core?_updCore hcore (fun _ => rfl), rfl⟩

/-- No landing region lies in an empty range at the view's start. -/
theorem landings_empty (p : Scratch) : p.landings 0 0 0 = [] := by
  unfold Scratch.landings overlaps
  simp

section
variable (hready : s.h.reply = none ∧ s.h.replay = false) (hn : 0 < (s.x b).toNat ∧ (s.x b).toNat ≤ 128)
  (halign : (s.x a).toNat % 0x6000 = 0)
include hready hn halign

/-- ARM of macros in one window, none of them armed and none in a growing landing region, in a format without scales. -/
theorem arm_joins (hfmt : fmt.val < 8) (hin : s.h.t.scr.inOne 0 (s.x a).toNat ((s.x b).toNat * 0x6000) = true)
    (harmed : s.h.t.scr.onArmed 0 (s.x a).toNat ((s.x b).toNat * 0x6000) = false)
    (hland : ∀ w, w ∈ s.h.t.scr.landings 0 (s.x a).toNat ((s.x b).toNat * 0x6000) → w.lstate ≠ .growing) :
    exec (.arm fmt a b 0) s = s.toSequencer true (s.x a).toNat (s.x b).toNat fmt.val 0 := by
  have hx0 : (s.x 0).toNat = 0 := congrArg BitVec.toNat (Hart.getX_zero s.h)
  have hnone : (s.h.t.scr.landings 0 (s.x a).toNat ((s.x b).toNat * 0x6000)).find? (fun w => w.lstate == .growing) = none :=
    List.find?_eq_none.mpr fun w hw => by rw [beq_iff_eq]; exact hland w hw
  show execArm fmt a b 0 s = _
  unfold execArm
  dsimp only
  rw [hready.1, hready.2, if_neg (by decide), if_neg (by simp), if_neg (by omega), if_neg (by omega), if_neg (by omega),
    if_neg (by rw [hin, harmed]; decide), if_neg (by omega), hx0, if_neg (show ¬ 8 ≤ fmt.val by omega), landings_empty,
    List.append_nil, hnone]

/-- DISARM of whole regions, with no access of the thread held by its core: an update on its way to a landing region comes first. -/
theorem disarm_judges (hwhole : s.h.t.scr.wholeRegions (s.x a).toNat (s.x b).toNat = true) (hlater : s.h.t.post.later = []) :
    (∀ d, s.updateOnMacros (s.x a).toNat (s.x b).toNat = some d → exec (.disarm a b) s = .next (s.block (.order d))) ∧
    (s.updateOnMacros (s.x a).toNat (s.x b).toNat = none → s.matrixOn s.h.id (s.x a).toNat (s.x b).toNat = false →
      exec (.disarm a b) s = s.toSequencer false (s.x a).toNat (s.x b).toNat 0 0) := by
  show (∀ d, _ → execDisarm a b s = _) ∧ (_ → _ → execDisarm a b s = _)
  unfold execDisarm
  dsimp only
  rw [hready.1, hready.2, if_neg (by decide), if_neg (by simp), if_neg (by omega), if_neg (by omega),
    if_neg (by rw [hwhole]; decide), if_neg (by rw [hlater]; simp)]
  refine ⟨fun d hd => ?_, fun hnone hmx => ?_⟩
  · rw [hd]
  · rw [hnone]
    exact if_neg (by rw [hmx]; decide)

end

/-- No update of the thread is on its way to a landing region among the macros. -/
theorem updateOnMacros_none {off n : Nat} (h : ∀ g w, s.h.task.gang = some g → w ∈ s.h.t.scr.landings 0 off (n * 0x6000) →
    s.mustStay s.h (.member g s.h.task.rank 0 w.base) false = false) : s.updateOnMacros off n = none := by
  unfold State.updateOnMacros
  split
  · rfl
  · next g hg =>
    refine List.find?_eq_none.mpr fun d hd => ?_
    obtain ⟨w, hw, rfl⟩ := List.mem_map.mp hd
    rw [h g w hg hw]
    decide

theorem updateOnMacros_some {off n g : Nat} {w : Win} (hg : s.h.task.gang = some g)
    (hone : s.h.t.scr.landings 0 off (n * 0x6000) = [w]) (h : s.mustStay s.h (.member g s.h.task.rank 0 w.base) false = true) :
    s.updateOnMacros off n = some (.member g s.h.task.rank 0 w.base) := by
  unfold State.updateOnMacros
  rw [hg]
  dsimp only
  rw [hone]
  exact List.find?_cons_of_pos h

end

/-! ## RINGCFG (R60, R328) -/

section
variable {s : State} {ring : Fin 8} {a b : Fin 32}

/-- The fields of RINGCFG's first operand. -/
theorem bits_ring {x : Nat} (hx : x < 2 ^ 42) : bits x 20 0 = x % 2 ^ 21 ∧ bits x 41 21 = x / 2 ^ 21 := by
  unfold bits
  omega

/-- A condition that no ring but the one configured meets. -/
theorem others_any {f : Nat → Bool} (hf : ∀ i : Fin 8, i ≠ ring → f i.val = false) :
    ((countFrom 0 8).filter (fun i => i != ring.val)).any f = false := by
  rw [List.any_eq_false]
  intro i hi
  obtain ⟨hmem, hne⟩ := List.mem_filter.mp hi
  obtain ⟨-, hlt⟩ := (mem_countFrom 0 8 i).mp hmem
  have hring : (⟨i, hlt⟩ : Fin 8) ≠ ring := fun he => bne_iff_ne.mp hne (congrArg Fin.val he)
  rw [hf ⟨i, hlt⟩ hring]
  decide

theorem ring_unnamed (hnamed : s.h.t.scr.rings[ring].v = false ∨ s.ringNamed ring.val = false) :
    ¬ (s.h.t.scr.rings[ring].v && s.ringNamed ring.val) = true := by
  rw [Bool.and_eq_true]
  rintro ⟨hv, hn⟩
  rcases hnamed with h | h
  · exact Bool.false_ne_true (h.symm.trans hv)
  · exact Bool.false_ne_true (h.symm.trans hn)

/-- The ring that RINGCFG makes of its operands. -/
def ringOf (xa xb : Nat) : Ring := { v := true, size := xa / 2 ^ 21, base := xa % 2 ^ 21, tile := xb }

/-- RINGCFG with a size and a place that meet the rules of R60. -/
theorem ringcfg_sets (hx : (s.x a).toNat < 2 ^ 42) (hnamed : s.h.t.scr.rings[ring].v = false ∨ s.ringNamed ring.val = false)
    (hsize : 0 < (s.x a).toNat / 2 ^ 21) (htile : 0 < (s.x b).toNat ∧ (s.x b).toNat < 2 ^ 21)
    (halign : (s.x a).toNat % 2 ^ 21 % 64 = 0 ∧ (s.x b).toNat % 64 = 0 ∧ (s.x a).toNat / 2 ^ 21 % (s.x b).toNat = 0)
    (hclear : ∀ i : Fin 8, i ≠ ring → s.h.t.scr.rings[i].v = true →
      overlaps ((s.x a).toNat % 2 ^ 21) ((s.x a).toNat % 2 ^ 21 + (s.x a).toNat / 2 ^ 21) s.h.t.scr.rings[i].base
        (s.h.t.scr.rings[i].base + s.h.t.scr.rings[i].size) = false)
    (hin : ∃ w, w ∈ s.h.t.scr.wins ∧ w.buf = 1 ∧ w.land = false ∧ w.base ≤ (s.x a).toNat % 2 ^ 21 ∧
      (s.x a).toNat % 2 ^ 21 + (s.x a).toNat / 2 ^ 21 ≤ w.base + w.len) :
    exec (.ringcfg ring a b) s =
      .next (s.setScr { s.h.t.scr with rings := s.h.t.scr.rings.set ring (ringOf (s.x a).toNat (s.x b).toNat) }).retire := by
  obtain ⟨hbase, hsz⟩ := bits_ring hx
  obtain ⟨hb64, ht64, hdvd⟩ := halign
  have hinside : (s.h.t.scr.wins.any fun w => w.buf == 1 && !w.land && decide (w.base ≤ (s.x a).toNat % 2 ^ 21) &&
      decide ((s.x a).toNat % 2 ^ 21 + (s.x a).toNat / 2 ^ 21 ≤ w.base + w.len)) = true := by
    obtain ⟨w, hw, hbuf, hland, hlo, hhi⟩ := hin
    refine List.any_eq_true.mpr ⟨w, hw, ?_⟩
    rw [hbuf, hland, decide_eq_true hlo, decide_eq_true hhi]
    rfl
  show execRingcfg ring a b s = _
  unfold execRingcfg
  dsimp only
  rw [hbase, hsz, if_neg (by omega), if_neg (ring_unnamed hnamed), if_neg (by omega), hinside, others_any (ring := ring) ?_, hb64,
    ht64, hdvd, beq_false_of_ne (by omega : (s.x b).toNat ≠ 0)]
  · exact if_neg (by decide)
  · intro i hi
    have hget : s.h.t.scr.rings.toList[i.val]? = some s.h.t.scr.rings[i] := by simp
    rw [hget]
    dsimp only
    cases hv : s.h.t.scr.rings[i].v with
    | false => rfl
    | true => rw [hclear i hi hv]; rfl

theorem ringcfg_clears (hnamed : s.h.t.scr.rings[ring].v = false ∨ s.ringNamed ring.val = false)
    (hxa : (s.x a).toNat = 0) (hxb : (s.x b).toNat = 0) :
    exec (.ringcfg ring a b) s = .next (s.setScr { s.h.t.scr with rings := s.h.t.scr.rings.set ring ({} : Ring) }).retire := by
  have hx : (s.x a).toNat < 2 ^ 42 := by omega
  obtain ⟨hbase, hsz⟩ := bits_ring hx
  show execRingcfg ring a b s = _
  unfold execRingcfg
  dsimp only
  rw [hbase, hsz, if_neg (by omega), if_neg (ring_unnamed hnamed), if_pos (by omega)]

end

/-! ## Spill slots that a new window moves (R62) -/

/-- The issuing thread's spill map may differ, and threads other than it; nothing else. -/
structure Respills (s t : State) : Prop where
  h : ∃ m, t.h = s.h.setScr { s.h.t.scr with spillMap := m }
  grp : t.grp = s.grp
  mem : t.mem = s.mem

/-- A hart that is found by a name has it. -/
theorem hart?_id {s : State} {id : HartId} {h : Hart} (hh : s.hart? id = some h) : h.id = id := by
  unfold State.hart? at hh
  split at hh
  · next hid => rw [← Option.some.inj hh, hid]
  · split at hh
    · next g hfind =>
      have hg := List.find?_some hfind
      rw [← Option.some.inj hh]
      exact eq_of_beq hg
    · split at hh
      · rw [← Option.some.inj hh]
      · cases hh

/-- The hart that is found by the issuing hart's name is the issuing hart. -/
theorem hart?_issuing {s : State} {id : HartId} {h : Hart} (hh : s.hart? id = some h) (hid : s.h.id = h.id) : h = s.h := by
  rw [hart?_id hh] at hid
  unfold State.hart? at hh
  rw [if_pos hid] at hh
  exact (Option.some.inj hh).symm

namespace Respills

theorem refl (s : State) : Respills s s := ⟨⟨s.h.t.scr.spillMap, rfl⟩, rfl, rfl⟩

theorem trans {s t u : State} (a : Respills s t) (b : Respills t u) : Respills s u := by
  obtain ⟨m, hm⟩ := a.h
  obtain ⟨n, hn⟩ := b.h
  exact ⟨⟨n, by rw [hn, hm]; rfl⟩, b.grp.trans a.grp, b.mem.trans a.mem⟩

theorem foldl {α : Type} {f : State → α → State} (hf : ∀ s a, Respills s (f s a)) (l : List α) (s : State) :
    Respills s (l.foldl f s) := by
  induction l generalizing s with
  | nil => exact refl s
  | cons a l ih => exact (hf s a).trans (ih (f s a))

theorem updHart (s : State) (id : HartId) (g : Hart → List (Nat × SpillAt)) :
    Respills s (s.updHart id fun h => h.setScr { h.t.scr with spillMap := g h }) := by
  unfold State.updHart
  split
  · exact refl s
  · next h hh =>
    unfold State.putHart
    split
    · next hid => exact ⟨⟨g h, by rw [hart?_issuing hh hid]⟩, rfl, rfl⟩
    · split
      · exact ⟨⟨s.h.t.scr.spillMap, rfl⟩, rfl, rfl⟩
      · exact ⟨⟨s.h.t.scr.spillMap, rfl⟩, rfl, rfl⟩

end Respills

theorem respill_respills (s : State) (core : Nat) : Respills s (s.respill core) := by
  unfold State.respill
  refine Respills.foldl (fun t h => Respills.foldl (fun u x => ?_) _ t) _ s
  exact (Respills.updHart u h.id fun g => assocDel x.1 g.t.scr.spillMap).trans (Respills.updHart _ h.id _)

/-! ## WINALLOC (R42, R43, R56, R270) -/

theorem read_clear_inside (m : List Host.Cell) {lo hi a : Nat} (h : lo ≤ a ∧ a < hi) : Mem.read (Mem.clear m lo hi) a = 0 := by
  unfold Mem.clear
  induction m with
  | nil => rfl
  | cons x m ih =>
    rw [List.filter_cons]
    split
    · next hx =>
      have hne : x.1 ≠ a := fun he => by
        rw [he, Bool.or_eq_true, decide_eq_true_eq, decide_eq_true_eq] at hx
        omega
      rw [Mem.read, if_neg hne, ih]
    · exact ih

theorem read_clear_outside (m : List Host.Cell) {lo hi a : Nat} (h : a < lo ∨ hi ≤ a) :
    Mem.read (Mem.clear m lo hi) a = Mem.read m a := by
  unfold Mem.clear
  induction m with
  | nil => rfl
  | cons x m ih =>
    rw [List.filter_cons, Mem.read]
    split
    · rw [Mem.read, ih]
    · next hx =>
      have hne : x.1 ≠ a := fun he => by
        rw [he, Bool.or_eq_true, decide_eq_true_eq, decide_eq_true_eq] at hx
        exact hx h
      rw [ih, if_neg hne]

/-- The scratchpad `d` has a window more than `c`, whose bytes read as zero; its spill map may differ. -/
def Fresh (c d : Scratch) (buf : Nat) (w : Win) : Prop :=
  d = { c.setView buf (d.view buf) with wins := c.wins ++ [w], spillMap := d.spillMap } ∧
  (∀ o, w.base ≤ o → o < w.base + w.len → Mem.read (d.view buf) o = 0) ∧
  ∀ o, (o < w.base ∨ w.base + w.len ≤ o) → Mem.read (d.view buf) o = Mem.read (c.view buf) o

theorem addWin_view (c : Scratch) (w : Win) (m : List (Nat × SpillAt)) :
    ({ c.addWin w with spillMap := m } : Scratch).view w.buf = Mem.clear (c.view w.buf) w.base (w.base + w.len) := by
  unfold Scratch.addWin Scratch.setView Scratch.view
  rcases w.buf with _ | _ | _ <;> rfl

theorem addWin_fresh (c : Scratch) (w : Win) (m : List (Nat × SpillAt)) : Fresh c { c.addWin w with spillMap := m } w.buf w := by
  have hwins : (c.setView w.buf (Mem.clear (c.view w.buf) w.base (w.base + w.len))).wins = c.wins := by
    unfold Scratch.setView
    split <;> rfl
  unfold Fresh
  rw [addWin_view]
  refine ⟨?_, fun o hlo hhi => read_clear_inside _ ⟨hlo, hhi⟩, fun o ho => read_clear_outside _ ho⟩
  unfold Scratch.addWin
  dsimp only
  rw [hwins]

/-- Operations that waited for a landing region go back to the network: lattice alone differs. -/
theorem newWin_respills (s : State) (w : Win) : Respills (s.setScr (s.h.t.scr.addWin w)) (s.newWin w) := by
  have h := respill_respills (s.setScr (s.h.t.scr.addWin w)) s.coreId
  unfold State.newWin
  dsimp only
  split
  · split
    · exact ⟨h.h, h.grp, h.mem⟩
    · exact h
  · exact h

section
variable {s : State}

/-- A window within the rules of R43 and R56 is created once its core has room. -/
theorem winCreate_answers {w : Win} (hok : s.h.t.scr.badWin w.buf w.base w.len w.tsize w.land = false)
    (hroom : s.hasRoom s.coreId w.buf w.len = true) :
    Answers (s.winCreate w) fun t => KeepsRest s t ∧ SameV s t ∧ Fresh s.h.t.scr t.h.t.scr w.buf w := by
  obtain ⟨⟨m, hm⟩, hgrp, hmem⟩ := newWin_respills s w
  have honly : ScrOnly s (s.newWin w) { s.h.t.scr.addWin w with spillMap := m } := ⟨by rw [hm]; rfl, hgrp, hmem⟩
  obtain ⟨hrest, hv, hscr⟩ := honly.retire
  unfold State.winCreate
  rw [hok, if_neg Bool.false_ne_true, if_pos hroom]
  refine ⟨_, rfl, hrest, hv, ?_⟩
  rw [hscr]
  exact addWin_fresh s.h.t.scr w m

theorem winPlain_creates {buf : Nat} {a b : Fin 32} (hlen : 0 < (s.x b).toNat) :
    s.winPlain buf a b = s.winCreate { buf := buf, base := (s.x a).toNat, len := (s.x b).toNat } := if_pos (by omega)

theorem winPlain_releases {buf : Nat} {a b : Fin 32} {w : Win} (hlen : (s.x b).toNat = 0)
    (hw : s.h.t.scr.wins.find? (fun q => q.buf == buf && q.base == (s.x a).toNat) = some w) (hfree : s.h.t.scr.mayNotFree w = false) :
    s.winPlain buf a b = .next (s.setScr { s.h.t.scr with
      wins := s.h.t.scr.wins.filter fun q => !(q.buf == buf && q.base == (s.x a).toNat) }).retire := by
  unfold State.winPlain
  dsimp only
  rw [if_neg (not_not_intro hlen), hw]
  exact if_neg (by rw [hfree]; decide)

theorem winLand_illegal {buf : Nat} {tz : Fin 16} {a b c : Fin 32} (h : tz.val < 3 ∨ 9 < tz.val) :
    s.winLand buf tz a b c = .next (s.takeTrap { cause := 1, addr := s.word0 }) := if_pos h

theorem winLand_creates {buf : Nat} {tz : Fin 16} {a b c : Fin 32} (h : 3 ≤ tz.val ∧ tz.val ≤ 9) (hgen : (s.x c).toNat ≤ 65535)
    (hlen : 0 < (s.x b).toNat) :
    s.winLand buf tz a b c = s.winCreate
      { buf := buf, base := (s.x a).toNat, len := (s.x b).toNat, land := true, tsize := tz.val, lgen := (s.x c).toNat
        filled := List.replicate ((s.x b).toNat / (8 * 2 ^ tz.val)) false } := by
  unfold State.winLand
  dsimp only
  rw [if_neg (by omega), if_neg (by omega)]

/-! ## SUNBIND (R335) -/

/-- A stream register is unbound and reads as zero. -/
theorem sunbind_answers {w : Fin 4} {v : Fin 8} (hclear : s.h.t.post.clear w.val = true)
    (hbound : ∃ q, q ∈ s.h.t.scr.streams ∧ q.vreg = v.val) : Answers (exec (.sunbind w v) s) fun t => KeepsRest s t ∧
      VAfter s t (Fin.ofNat 32 (24 + v.val)) 0 ∧
      t.h.t.scr = { s.h.t.scr with streams := s.h.t.scr.streams.filter fun q => q.vreg != v.val } := by
  have hany : s.h.t.scr.streams.any (fun q => q.vreg == v.val) = true := by
    obtain ⟨q, hq, hv⟩ := hbound
    exact List.any_eq_true.mpr ⟨q, hq, beq_iff_eq.mpr hv⟩
  have hexec : exec (.sunbind w v) s = .next ((s.setStreams (s.h.t.scr.streams.filter fun q => q.vreg != v.val)).setV
      (Fin.ofNat 32 (24 + v.val)) 0).retire := by
    show execSunbind w v s = _
    unfold execSunbind State.held
    dsimp only
    rw [if_pos hany, if_pos hclear]
  have hkeep : KeepsFiles (s.setV (Fin.ofNat 32 (24 + v.val)) 0) ((s.setStreams (s.h.t.scr.streams.filter fun q => q.vreg != v.val)).setV
      (Fin.ofNat 32 (24 + v.val)) 0) := ⟨rfl, rfl, rfl, rfl, rfl, rfl⟩
  obtain ⟨hx, hv, hm, hmem, hflags, hctl, hend⟩ := keepsRegisters hkeep rfl
  rw [hexec]
  exact ⟨_, rfl, ⟨hx, hm, fun r => State.retire_k _ r, hflags, hmem, sameCtl_of_ctl hctl rfl, hend⟩, fun r => (hv r).trans (State.v_setV s _ r 0),
    (State.retire_frame _).hart.scr⟩

theorem sunbind_unbound {w : Fin 4} {v : Fin 8} (hfree : ∀ q, q ∈ s.h.t.scr.streams → q.vreg ≠ v.val) :
    exec (.sunbind w v) s = .next (s.takeTrap { cause := 0x0F, addr := s.word0 }) := by
  have hany : ¬ s.h.t.scr.streams.any (fun q => q.vreg == v.val) = true := by
    rw [List.any_eq_true]
    rintro ⟨q, hq, hv⟩
    exact hfree q hq (beq_iff_eq.mp hv)
  exact if_neg hany

end

/-- Settles O39: each form by its shared operation, and what the group leaves of its thread. -/
theorem macrosRingsAndWindows : Obligations.MacrosRingsAndWindows := by
  unfold Obligations.MacrosRingsAndWindows
  intro s a b c
  refine ⟨fun fmt => ⟨fun o v hr => ?_, fun k x d => arm_trap k x d, fun q hcore hreply hreplay hstat hpos hmax halign => ⟨?_, ?_⟩⟩,
    fun ring hx hnamed => ⟨?_, ?_⟩, ?_, ?_, fun w v hclear => ⟨sunbind_answers hclear, sunbind_unbound⟩⟩
  · rw [arm_value o v hr, disarm_value o v hr]
    exact ⟨retire_answers s, retire_answers s⟩
  · rintro hfmt rfl hin harmed hland
    rw [arm_joins ⟨hreply, hreplay⟩ ⟨hpos, hmax⟩ halign hfmt hin harmed hland]
    exact toSequencer_answers hcore hstat true _ _ _ _
  · intro hwhole hlater
    obtain ⟨horders, hjoins⟩ := disarm_judges ⟨hreply, hreplay⟩ ⟨hpos, hmax⟩ halign hwhole hlater
    refine ⟨fun hout hmx => ?_, fun g w hg hone hout => ?_⟩
    · rw [hjoins (updateOnMacros_none hout) hmx]
      exact toSequencer_answers hcore hstat false _ _ _ _
    · exact horders _ (updateOnMacros_some hg hone hout)
  · intro hsize htile hmax hb hb' hdvd hclear hin
    rw [ringcfg_sets hx hnamed hsize ⟨htile, hmax⟩ ⟨hb, hb', hdvd⟩ hclear hin]
    exact (setScr_scrOnly s _).answers
  · intro hxa hxb
    rw [ringcfg_clears hnamed hxa hxb]
    exact (setScr_scrOnly s _).answers
  · intro buf i hi
    have hexec : exec i s = s.winPlain buf a b := by
      simp only [List.mem_cons, List.not_mem_nil, or_false, Prod.mk.injEq] at hi
      rcases hi with ⟨rfl, rfl⟩ | ⟨rfl, rfl⟩ | ⟨rfl, rfl⟩ <;> rfl
    rw [hexec]
    refine ⟨fun hlen hok hroom => ?_, fun w hlen hw hfree => ?_⟩
    · rw [winPlain_creates hlen]
      exact winCreate_answers hok hroom
    · rw [winPlain_releases hlen hw hfree]
      exact (setScr_scrOnly s _).answers
  · intro tz buf i hi
    have hexec : exec i s = s.winLand buf tz a b c := by
      simp only [List.mem_cons, List.not_mem_nil, or_false, Prod.mk.injEq] at hi
      rcases hi with ⟨rfl, rfl⟩ | ⟨rfl, rfl⟩ <;> rfl
    rw [hexec]
    refine ⟨winLand_illegal, fun hlo hhi hgen hlen hok hroom => ?_⟩
    rw [winLand_creates ⟨hlo, hhi⟩ hgen hlen]
    exact winCreate_answers hok hroom

end Sys2Proof.Windows
end

section
/-! PROOFS. SPAWN of a thread whose core still holds a posted access (R33, R176, R266): O42. -/

namespace Sys2Proof.SpawnHeld

open Sys2Proof Sys2Proof.Machine

/-- A SPAWN whose record no range lock keeps from it waits behind the accesses that its core holds (R33). -/
theorem spawn_waits {s : State} {a : Fin 32} (halign : (s.x a).toNat % 64 = 0)
    (hlock : lockJudge false 0 (s.x a).toNat 64 s.locks = .ok) (hlater : s.h.t.post.later.isEmpty = false) :
    exec (.spawn a) s = .next (s.block .accesses) := by
  show execSpawn a s = _
  unfold execSpawn
  dsimp only
  rw [if_neg (not_not_intro halign)]
  unfold State.readBlock State.locked
  rw [hlock]
  dsimp only
  unfold State.access
  rw [if_pos hlater]

/-- The page of the launch record. -/
def recordPage : Leaf :=
  { va := 0x100000, size := 0, kind := 1, pa := 0x100000, key := 0, ret := false, owner := 7, ctype := 0, csize := 0, win := 0 }

/-- The task that spawns, with the page in one region of its context. -/
def spawner : Task := { num := 7, ctx := 1, name := 0, words := List.replicate 8 0, st := .placed 1 0 }

/-- A plain store of the thread to another page, which its core has taken in and not yet let go. -/
def heldStore : Later := { entry := 0, pc := 0x200000, what := .store 0x300000 8 7 }

/-- A thread that may read a valid record without gates at the address in x1, while its core holds the store. -/
def holding : State where
  h := { id := .thread 1 0
         x := (Vector.replicate 32 0).set 1 0x100000
         pc := 0x200004
         t := { task := { ctx := 1, num := 7 }, post := { later := [heldStore] } } }
  mem := [(0x100002, 0x20)]
  lat := { tlb := [{ core := some 1, die := 0, ctx := 1, leaf := recordPage }] }
  work := { ctxs := [{ handle := 1, prio := 0, key := 0, dbg := false, hgrp := 0, pkgs := [0]
                       regions := [{ base := 0x100000, len := 0x1000, psize := 0, kind := 1, ctype := 0, csize := 0, pol := 0
                                     win := 0, key := 0, gen := 5 }] }]
            tasks := [spawner]
            cores := [{ id := 1, tag := 1, ctx := 1, loc := .at 0 }]
            phys := [{ n := 0, st := .held 1 }]
            nextTask := 8
            nextCore := 2 }

/-- The record: its first instruction at 0x200000, and no gates. -/
def record : List Nat := [0x200000, 0, 0, 0, 0, 0, 0, 0]

theorem holding_lock : lockJudge false 0 (holding.x 1).toNat 64 holding.locks = .ok := by decide +kernel

theorem holding_readsBlock : holding.readsBlock (holding.x 1).toNat record := by
  refine ⟨by decide +kernel, by decide +kernel, holding_lock, recordPage, 0x100000, by decide +kernel, by decide, by decide +kernel,
    ?_, by decide +kernel⟩
  unfold State.fills
  decide +kernel

theorem holding_storeRoom : holding.storeFull holding.h.task.ctx (physPkg holding.phys) = false := by decide +kernel

theorem holding_spawn : exec (.spawn 1) holding = .next (holding.block .accesses) :=
  spawn_waits (by decide +kernel) holding_lock rfl

/-- Refutes O42: a SPAWN of a valid record that the thread may read is to make the task and count it. While the core of the thread
still holds a posted access, the read of the record waits behind that access (R33), and so the SPAWN has made no task. -/
theorem not_spawnAndExit : ¬ Obligations.SpawnAndExit := by
  unfold Obligations.SpawnAndExit
  intro h
  obtain ⟨hspawn, -⟩ := h holding
  obtain ⟨-, hread⟩ := hspawn 1 record
  obtain ⟨-, hvalid⟩ := hread holding_readsBlock
  obtain ⟨hready, -⟩ := hvalid (by decide) holding_storeRoom
  obtain ⟨t, ht, ⟨-, -, -, -, -, -, hcount⟩, -⟩ := hready (by decide) (fun q hq => by
    obtain rfl := List.mem_singleton.mp hq
    decide)
  rw [holding_spawn] at ht
  obtain rfl := Host.Outcome.next.inj ht
  exact absurd hcount (by decide)

end Sys2Proof.SpawnHeld
end

section
/-! PROOFS. Vector lanes, and the integer, move and mask instructions on registers (R272 to R285): O15, O16, O17. -/

namespace Sys2Proof.VectorLanes

open Sys2Proof Sys2Proof.Machine Sys2Proof.ScalarResults

/-! ## Lanes (R272) -/

theorem countFrom_eq_range' (a n : Nat) : countFrom a n = List.range' a n := by
  induction n generalizing a with
  | zero => rfl
  | succ n ih => rw [countFrom, ih, List.range'_succ]

theorem countFrom_zero (n : Nat) : countFrom 0 n = List.range n := by
  rw [countFrom_eq_range', List.range_eq_range']

theorem packCodes_code (w : Nat) (l : List Nat) (i : Nat) : packCodes w l / 2 ^ (w * i) % 2 ^ w = l.getD i 0 % 2 ^ w := by
  induction l generalizing i with
  | nil => simp [packCodes]
  | cons c l ih =>
    cases i with
    | zero => rw [Nat.mul_zero, pow_zero, Nat.div_one, packCodes, Nat.add_mul_mod_self_left, Nat.mod_mod, List.getD_cons_zero]
    | succ i =>
      have hdiv : packCodes w (c :: l) / 2 ^ w = packCodes w l := by
        rw [packCodes, Nat.add_mul_div_left _ _ (Nat.two_pow_pos w), Nat.div_eq_of_lt (Nat.mod_lt _ (Nat.two_pow_pos w)), Nat.zero_add]
      rw [Nat.mul_succ, Nat.add_comm, Nat.pow_add, ← Nat.div_div_eq_div_mul, hdiv, List.getD_cons_succ, ih]

theorem packCodes_lt (w : Nat) (l : List Nat) : packCodes w l < 2 ^ (w * l.length) := by
  induction l with
  | nil => exact Nat.two_pow_pos _
  | cons c l ih =>
    have hc := Nat.mod_lt c (Nat.two_pow_pos w)
    rw [packCodes, List.length_cons, Nat.mul_succ, Nat.add_comm (w * _) w, Nat.pow_add]
    calc c % 2 ^ w + 2 ^ w * packCodes w l < 2 ^ w + 2 ^ w * packCodes w l := Nat.add_lt_add_right hc _
      _ = 2 ^ w * (packCodes w l + 1) := by rw [Nat.mul_succ, Nat.add_comm]
      _ ≤ 2 ^ w * 2 ^ (w * l.length) := Nat.mul_le_mul_left _ ih

theorem lane_lt (w : Nat) (v : VWord) (i : Nat) : lane w v i < 2 ^ w := Nat.mod_lt _ (Nat.two_pow_pos w)

/-- A lane of a register put together from codes that it has room for. -/
theorem lane_ofLanes {w : Nat} {l : List Nat} (h : w * l.length ≤ 1536) (i : Nat) : lane w (ofLanes w l) i = l.getD i 0 % 2 ^ w := by
  rw [lane, ofLanes, BitVec.toNat_ofNat, Nat.mod_eq_of_lt ((packCodes_lt w l).trans_le (Nat.pow_le_pow_right (by decide) h)),
    packCodes_code]

theorem lane_build (f : Nat → Nat) {i : Nat} (hi : i < 48) : lane 32 (build f) i = f i % 2 ^ 32 := by
  rw [build, countFrom_zero, lane_ofLanes (by simp), List.getD_eq_getElem?_getD, List.getElem?_map, List.getElem?_range hi]
  rfl

/-- A lane of a view is two lanes of the view with lanes of half the width. -/
theorem lane_halves (w : Nat) (v : VWord) (i : Nat) : lane (2 * w) v i = lane w v (2 * i) + 2 ^ w * lane w v (2 * i + 1) := by
  have hpow : 2 ^ (w * (2 * i + 1)) = 2 ^ (2 * w * i) * 2 ^ w := by rw [← Nat.pow_add]; congr 1; ring
  rw [lane, lane, lane, hpow, ← Nat.div_div_eq_div_mul, show w * (2 * i) = 2 * w * i by ring, Nat.two_mul w, Nat.pow_add, Nat.mod_mul]

theorem getD_replicate {n i : Nat} (hi : i < n) (x : Nat) : (List.replicate n x).getD i 0 = x := by
  rw [List.getD_eq_getElem?_getD, List.getElem?_replicate_of_lt hi, Option.getD_some]

/-- A 32-bit lane as a two's-complement number. -/
theorem s32_lane (v : VWord) (i : Nat) : s32 (lane 32 v i) = lane32s v i := by
  have hlt := lane_lt 32 v i
  rw [lane32s, BitVec.toInt_eq_toNat_cond, BitVec.toNat_ofNat, Nat.mod_eq_of_lt hlt, s32, sextNat, Nat.mod_eq_of_lt hlt]
  split <;> split <;> omega

theorem wrapInt_eq (n : Int) : wrapInt n 32 = (BitVec.ofInt 32 n).toNat := by
  rw [BitVec.toNat_ofInt, wrapInt]
  rfl

/-- A number that a lane's two's-complement value differs from by a multiple of 2^32. -/
theorem lane32s_emod (v : VWord) (i : Nat) : lane32s v i % 2 ^ 32 = (lane 32 v i : Int) % 2 ^ 32 := by
  have h := BitVec.toInt_eq_toNat_bmod (BitVec.ofNat 32 (lane 32 v i))
  rw [lane32s, h, BitVec.toNat_ofNat, Nat.mod_eq_of_lt (lane_lt 32 v i)]
  exact Int.bmod_emod

/-! ## Groups that change registers and flags alone -/

/-- The issuing hart's registers and flags may differ, and nothing else. -/
def FilesOnly (s u : State) : Prop :=
  ∃ x vec fflags, u = { s with h := { s.h with x := x, t := { s.h.t with vec := vec }, ctl := { s.h.ctl with fflags := fflags } } }

namespace FilesOnly

theorem refl (s : State) : FilesOnly s s := ⟨_, _, _, rfl⟩

theorem trans {s t u : State} (a : FilesOnly s t) (b : FilesOnly t u) : FilesOnly s u := by
  obtain ⟨_, _, _, rfl⟩ := a
  obtain ⟨_, _, _, rfl⟩ := b
  exact ⟨_, _, _, rfl⟩

theorem setV (s : State) (d : Fin 32) (v : VWord) : FilesOnly s (s.setV d v) := ⟨_, _, _, rfl⟩

theorem setX (s : State) (d : Fin 32) (v : Word) : FilesOnly s (s.setX d v) := by
  unfold State.setX Hart.setX
  split
  · exact ⟨_, _, _, rfl⟩
  · exact ⟨_, _, _, rfl⟩

theorem setM (s : State) (d : Fin 8) (v : MWord) : FilesOnly s (s.setM d v) := by
  unfold State.setM
  split
  · exact refl s
  · exact ⟨_, _, _, rfl⟩

theorem addFlags (s : State) (rnd : Option Rnd) (f : Flags) : FilesOnly s (s.addFlags rnd f) := ⟨_, _, _, rfl⟩

section
variable {s u : State} (a : FilesOnly s u)
include a

/-- A group that changes registers and flags alone completes. -/
theorem retire_frame : RegFrame s u.retire := by
  have hframe : RegFrame s u := by
    obtain ⟨_, _, _, rfl⟩ := a
    exact ⟨⟨fun _ => rfl, rfl, rfl, rfl, rfl, rfl⟩, ⟨rfl, rfl, rfl, rfl, rfl, rfl, rfl, rfl⟩,
      ⟨rfl, rfl, rfl, rfl, rfl, rfl, rfl, rfl⟩⟩
  exact regFrame_trans hframe (State.retire_frame u)

theorem retire_endOfBody : EndOfBody s u.retire := by
  refine (State.retire_endOfBody u).congr ?_ ?_
  · obtain ⟨_, _, _, rfl⟩ := a
    exact ⟨rfl, rfl, rfl, rfl, rfl, rfl⟩
  · obtain ⟨_, _, _, rfl⟩ := a
    rfl

end

end FilesOnly

/-- No flag raised leaves the flags. -/
theorem addFlags_zero (s : State) (rnd : Option Rnd) : s.addFlags rnd 0 = s := by
  have hnone : unmasked rnd 0 = 0 := by
    cases rnd
    · rfl
    · exact BitVec.zero_and
  have hor : s.h.ctl.fflags ||| (0 : Flags).zeroExtend 64 = s.h.ctl.fflags := BitVec.or_zero
  unfold State.addFlags State.setCtl
  rw [hnone, hor]

/-! ## Vector results -/

/-- A vector result with flags: the register is written, the flags are raised, and the group completes. -/
theorem writesVF_retire (s : State) (rnd : Option Rnd) (d : Fin 32) (v : VWord) (f : Flags) :
    WritesVF (.next ((s.setV d v).addFlags rnd f).retire) s d v ((unmasked rnd f).zeroExtend 64) := by
  have hfiles := (FilesOnly.setV s d v).trans (FilesOnly.addFlags _ rnd f)
  exact ⟨_, rfl, fun r => (State.retire_v _ r).trans (State.v_setV s d r v), State.retire_x _, State.retire_m _, State.retire_k _,
    State.retire_fflags _, hfiles.retire_frame, hfiles.retire_endOfBody⟩

/-- A vector result without flags. -/
theorem writesVF_vresult (s : State) (d : Fin 32) (v : VWord) : WritesVF (s.vresult d v) s d v 0 := by
  have h := writesVF_retire s none d v 0
  rw [addFlags_zero] at h
  exact h

/-- What a vector result without flags leaves in each lane. -/
theorem writesLanes_vresult {s : State} {d : Fin 32} {v : VWord} {f : Nat → Nat} (h : ∀ i, i < 48 → lane 32 v i = f i) :
    WritesLanes (s.vresult d v) s d f := by
  obtain ⟨t, ht, hv, hx, hm, hk, hflags, hframe, hend⟩ := writesVF_vresult s d v
  exact ⟨t, ht, fun i hi => by rw [hv, if_pos rfl, h i hi], fun r hr => (hv r).trans (if_neg hr), hx, hm, hk,
    hflags.trans BitVec.or_zero, hframe, hend⟩

theorem writesLanes_build {s : State} {d : Fin 32} {f g : Nat → Nat} (h : ∀ i, i < 48 → f i % 2 ^ 32 = g i) :
    WritesLanes (s.vresult d (build f)) s d g :=
  writesLanes_vresult fun i hi => (lane_build f hi).trans (h i hi)

/-! ## Mask results -/

theorem setM_keeps (s : State) (p : Fin 8) (v : MWord) : (s.setM p v).h.x = s.h.x ∧ (s.setM p v).h.t.vec.v = s.h.t.vec.v ∧
    (s.setM p v).h.t.vec.k = s.h.t.vec.k ∧ (s.setM p v).h.ctl.fflags = s.h.ctl.fflags := by
  unfold State.setM
  split
  · exact ⟨rfl, rfl, rfl, rfl⟩
  · exact ⟨rfl, rfl, rfl, rfl⟩

/-- A mask result with flags: the register is written, the flags are raised, and the group completes. -/
theorem mask_retire (s : State) (rnd : Option Rnd) (p : Fin 8) (v : MWord) (f : Flags) :
    Answers (.next ((s.setM p v).addFlags rnd f).retire) fun t => MAfter s t p v ∧ SameX s t ∧ SameV s t ∧ SameK s t ∧
      RegFrame s t ∧ EndOfBody s t ∧ FlagsAfter s t ((unmasked rnd f).zeroExtend 64) := by
  have hfiles := (FilesOnly.setM s p v).trans (FilesOnly.addFlags _ rnd f)
  obtain ⟨hx, hv, hk, hflags⟩ := setM_keeps s p v
  refine ⟨_, rfl, fun r => (State.retire_m _ r).trans (State.m_setM s p r v), fun r => ?_, fun r => ?_, fun r => ?_,
    hfiles.retire_frame, hfiles.retire_endOfBody, (State.retire_fflags _).trans ?_⟩
  · rw [State.retire_x, State.x, State.x]
    exact congrArg (fun x : Vector Word 32 => if r = 0 then 0 else x[r]) hx
  · rw [State.retire_v]
    exact congrArg (fun w : Vector VWord 32 => w[r]) hv
  · rw [State.retire_k]
    exact congrArg (fun w : Vector Word 16 => w[r]) hk
  · exact congrArg (fun w : Word => w ||| (unmasked rnd f).zeroExtend 64) hflags

/-- Bit `i` of a mask register after a write, for a register that is not m0 (R272). -/
theorem writesMask_mresult {s : State} {p : Fin 8} {v : MWord} {f : Nat → Bool} (h : ∀ i, i < 48 → v.getLsbD i = f i) :
    WritesMask (s.mresult p v) s p f := by
  have hret := mask_retire s none p v 0
  rw [addFlags_zero] at hret
  obtain ⟨t, ht, hm, hx, hv, hk, hframe, hend, hflags⟩ := hret
  refine ⟨t, ht, fun hp i hi => ?_, fun r hr => (hm r).trans (if_neg fun h => hr h.1), ?_, hx, hv, hk, hflags.trans BitVec.or_zero,
    hframe, hend⟩
  · rw [hm, if_pos ⟨rfl, hp⟩, h i hi]
  · rw [State.m_zero, State.m_zero]

/-! ## Bound streams (R274) -/

theorem pop_unbound {s : State} {r : Fin 32} (h : s.stream? r = none) : s.pop r = s := by
  unfold State.pop
  rw [h]

theorem popStop_unbound {s : State} {l : List (Fin 32)} (h : Unbound s l) : s.popStop l = .ready := by
  induction l with
  | nil => rfl
  | cons r l ih =>
    have hr : s.popState r = .ready := by
      unfold State.popState
      rw [h r List.mem_cons_self]
    rw [State.popStop, hr]
    exact ih fun q hq => h q (List.mem_cons_of_mem _ hq)

theorem foldl_pop_unbound {s : State} {l : List (Fin 32)} (h : Unbound s l) : l.foldl State.pop s = s := by
  induction l with
  | nil => rfl
  | cons r l ih =>
    rw [List.foldl_cons, pop_unbound (h r List.mem_cons_self)]
    exact ih fun q hq => h q (List.mem_cons_of_mem _ hq)

theorem any_isSome_unbound {s : State} {l : List (Fin 32)} (h : Unbound s l) : l.any (fun r => (s.stream? r).isSome) = false :=
  List.any_eq_false.mpr fun r hr => by rw [h r hr]; decide

/-- A group whose registers are not bound to a stream pops nothing. -/
theorem withPops_unbound {s : State} {dst src : List (Fin 32)} (hdst : Unbound s dst) (hsrc : Unbound s src) (k : State → Out) :
    s.withPops dst src k = k s := by
  have hend : src.any s.pastEnd = false := List.any_eq_false.mpr fun r hr => by
    unfold State.pastEnd
    rw [hsrc r hr]
    decide
  unfold State.withPops
  split
  · rfl
  · next hpop =>
    have hmark : s.markPopped false = s := by
      rw [← Bool.eq_false_iff.mpr hpop]
      rfl
    rw [any_isSome_unbound hdst, hend, if_neg (by decide), popStop_unbound hsrc, any_isSome_unbound hsrc,
      foldl_pop_unbound fun r hr => hsrc r (List.mem_dedup.mp hr), hmark]

/-! ## Forms on registers that are not bound -/

section
variable {s : State} {d a b c : Fin 32}

theorem unbound_append {k l : List (Fin 32)} (h : Unbound s (k ++ l)) : Unbound s k ∧ Unbound s l :=
  ⟨fun r hr => h r (List.mem_append_left l hr), fun r hr => h r (List.mem_append_right k hr)⟩

/-- The groups of one destination and its sources. -/
theorem withPops_append {dst src : List (Fin 32)} (h : Unbound s (dst ++ src)) (k : State → Out) : s.withPops dst src k = k s :=
  withPops_unbound (unbound_append h).1 (unbound_append h).2 k

/-- The integer form on two sources writes its function of the lanes (R277). -/
theorem via_writes (h : Unbound s [d, a, b]) {f : Nat → Nat → Nat} {g : Nat → Nat}
    (hg : ∀ i, f (lane 32 (s.v a) i) (lane 32 (s.v b) i) % 2 ^ 32 = g i) : WritesLanes (s.via d a b f) s d g := by
  rw [State.via, withPops_append (dst := [d]) h]
  exact writesLanes_build fun i _ => hg i

end

/-! ## Integer lanes (R276, R277) -/

section
variable (v w u : VWord) (i : Nat)

theorem sub_lanes : (lane 32 v i + 2 ^ 32 - lane 32 w i) % 2 ^ 32 % 2 ^ 32 = (BitVec.ofInt 32 (lane32s v i - lane32s w i)).toNat := by
  have hv := lane32s_emod v i
  have hw := lane32s_emod w i
  have hlt := lane_lt 32 w i
  rw [BitVec.toNat_ofInt]
  omega

theorem sra_lanes (n : Nat) : wrapInt (s32 (lane 32 v i) / 2 ^ n) 32 % 2 ^ 32 = (BitVec.ofInt 32 (lane32s v i / 2 ^ n)).toNat := by
  rw [s32_lane, wrapInt_eq, Nat.mod_eq_of_lt (BitVec.isLt _)]

theorem fma_lanes : (lane 32 v i * lane 32 w i + lane 32 u i) % 2 ^ 32 % 2 ^ 32 =
    (BitVec.ofInt 32 (lane32s v i * lane32s w i + lane32s u i)).toNat := by
  have hcongr : (lane32s v i * lane32s w i + lane32s u i) % 2 ^ 32 =
      ((lane 32 v i : Int) * lane 32 w i + lane 32 u i) % 2 ^ 32 :=
    Int.ModEq.add (Int.ModEq.mul (lane32s_emod v i) (lane32s_emod w i)) (lane32s_emod u i)
  have hpow : ((2 ^ 32 : Nat) : Int) = 2 ^ 32 := rfl
  rw [BitVec.toNat_ofInt, hpow, hcongr, Nat.mod_mod]
  omega

end

/-- VFMA.I32 on registers that are not bound. -/
theorem vfmaI32_writes {s : State} {d a b c : Fin 32} (h : Unbound s [d, a, b, c]) {g : Nat → Nat}
    (hg : ∀ i, (lane 32 (s.v a) i * lane 32 (s.v b) i + lane 32 (s.v c) i) % 2 ^ 32 % 2 ^ 32 = g i) :
    WritesLanes (execVfmaI32 d a b c s) s d g := by
  rw [execVfmaI32, withPops_append (dst := [d]) h]
  exact writesLanes_build fun i _ => hg i

/-- A choice between two lanes. -/
theorem ite_lane_mod (p : Prop) [Decidable p] (v w : VWord) (i : Nat) :
    (if p then lane 32 v i else lane 32 w i) % 2 ^ 32 = if p then lane 32 v i else lane 32 w i := by
  split
  · exact Nat.mod_eq_of_lt (lane_lt 32 v i)
  · exact Nat.mod_eq_of_lt (lane_lt 32 w i)

/-- Settles O15: each form writes its function of the lanes, which the table gives modulo 2^32. -/
theorem vectorIntegerLanes : Obligations.VectorIntegerLanes := by
  unfold Obligations.VectorIntegerLanes
  intro s d a b c h
  have h3 : Unbound s [d, a, b] := (unbound_append (k := [d, a, b]) h).1
  have hx := lane_lt 32 (s.v a)
  have hy := lane_lt 32 (s.v b)
  dsimp only [exec]
  refine ⟨via_writes h3 fun i => Nat.mod_mod _ _, via_writes h3 (sub_lanes _ _), via_writes h3 fun i => Nat.mod_mod _ _,
    via_writes h3 fun i => ?_, via_writes h3 fun i => ?_, via_writes h3 fun i => ?_, via_writes h3 fun i => ?_,
    via_writes h3 fun i => Nat.mod_eq_of_lt (Nat.and_lt_two_pow _ (hy i)),
    via_writes h3 fun i => Nat.mod_eq_of_lt (Nat.or_lt_two_pow (hx i) (hy i)),
    via_writes h3 fun i => Nat.mod_eq_of_lt (Nat.xor_lt_two_pow (hx i) (hy i)), via_writes h3 fun i => Nat.mod_mod _ _,
    via_writes h3 fun i => Nat.mod_eq_of_lt ((Nat.div_le_self _ _).trans_lt (hx i)), via_writes h3 fun i => sra_lanes _ _ _,
    vfmaI32_writes h (fma_lanes _ _ _), vfmaI32_writes h fun i => Nat.mod_mod _ _⟩
  · rw [s32_lane, s32_lane, ite_lane_mod]
  · rw [s32_lane, s32_lane, ite_lane_mod]
  · rw [show Nat.min _ _ = _ from min_def_lt _ _, ite_lane_mod]
  · rw [show Nat.max _ _ = _ from max_def_lt _ _, ite_lane_mod]

/-! ## Selections, broadcasts and moves (R279 to R282) -/

/-- A permutation of one register's lanes writes the lanes it names (R282). -/
theorem vprm1_writes {s : State} {d a : Fin 32} (h : Unbound s [d, a]) {f : (Nat → Nat) → Nat → Nat}
    (hf : ∀ i, f (lane 32 (s.v a)) i < 2 ^ 32) : WritesLanes (s.vprm1 d a f) s d (f (lane 32 (s.v a))) := by
  rw [State.vprm1, withPops_append (dst := [d]) h]
  exact writesLanes_build fun i _ => Nat.mod_eq_of_lt (hf i)

/-- A permutation of two registers' lanes (R282). -/
theorem vprm2_writes {s : State} {d a b : Fin 32} (h : Unbound s [d, a, b]) {f : (Nat → Nat) → (Nat → Nat) → Nat → Nat}
    (hf : ∀ i, f (lane 32 (s.v a)) (lane 32 (s.v b)) i < 2 ^ 32) :
    WritesLanes (s.vprm2 d a b f) s d (f (lane 32 (s.v a)) (lane 32 (s.v b))) := by
  rw [State.vprm2, withPops_append (dst := [d]) h]
  exact writesLanes_build fun i _ => Nat.mod_eq_of_lt (hf i)

theorem vsel_writes {s : State} {d a b : Fin 32} (h : Unbound s [d, a, b]) (m : Fin 8) : WritesLanes (execVsel d a b m s) s d
    (fun i => if (s.m m).getLsbD i then lane 32 (s.v a) i else lane 32 (s.v b) i) := by
  rw [execVsel, withPops_append (dst := [d]) h]
  exact writesLanes_build fun i _ => ite_lane_mod _ _ _ _

/-- A lane of a value repeated in every lane. -/
theorem lane_repeat {w n i x : Nat} (hn : w * n ≤ 1536) (hi : i < n) : lane w (ofLanes w (List.replicate n x)) i = x % 2 ^ w := by
  rw [lane_ofLanes (by rwa [List.length_replicate]), getD_replicate hi]

theorem vbcast32_writes {s : State} {d : Fin 32} (h : Unbound s [d]) (a : Fin 32) :
    WritesLanes (execVbcast32 d a s) s d (fun _ => (s.x a).toNat % 2 ^ 32) := by
  rw [execVbcast32, withPops_append (dst := [d]) (src := []) h]
  exact writesLanes_vresult fun i hi => by rw [lane_repeat (by decide) hi, Nat.mod_mod]

theorem vbcast16_writes {s : State} {d : Fin 32} (h : Unbound s [d]) (a : Fin 32) :
    WritesLanes (execVbcast16 d a s) s d (fun _ => (s.x a).toNat % 2 ^ 16 + 2 ^ 16 * ((s.x a).toNat % 2 ^ 16)) := by
  rw [execVbcast16, withPops_append (dst := [d]) (src := []) h]
  refine writesLanes_vresult fun i hi => ?_
  rw [lane_halves 16, lane_repeat (by decide) (by omega), lane_repeat (by decide) (by omega), Nat.mod_mod]

theorem vbcast8_writes {s : State} {d : Fin 32} (h : Unbound s [d]) (a : Fin 32) :
    let q := (s.x a).toNat % 2 ^ 8
    WritesLanes (execVbcast8 d a s) s d (fun _ => q + 2 ^ 8 * q + 2 ^ 16 * q + 2 ^ 24 * q) := by
  rw [execVbcast8, withPops_append (dst := [d]) (src := []) h]
  refine writesLanes_vresult fun i hi => ?_
  rw [lane_halves 16, lane_halves 8, lane_halves 8, lane_repeat (by decide) (by omega), lane_repeat (by decide) (by omega),
    lane_repeat (by decide) (by omega), lane_repeat (by decide) (by omega), Nat.mod_mod]
  ring

/-- VMOVX of a lane that there is writes it (R281). -/
theorem vmovx_writes {s : State} {a b : Fin 32} (h : Unbound s [a]) (d : Fin 32) (hn : (s.x b).toNat ≤ 47) :
    WritesX (execVmovx d a b s) s d (BitVec.ofNat 64 (lane 32 (s.v a) (s.x b).toNat)) := by
  rw [execVmovx, if_neg (by omega), withPops_append (dst := []) h]
  exact State.result_writes s d _

/-- Settles O16: each move by the lanes that it names, and VMOVX by its bound. -/
theorem vectorSelectsAndMoves : Obligations.VectorSelectsAndMoves := by
  unfold Obligations.VectorSelectsAndMoves
  intro s d a b m h
  have hd : Unbound s [d] := (unbound_append (k := [d]) h).1
  have hda : Unbound s [d, a] := (unbound_append (k := [d, a]) h).1
  have ha : Unbound s [a] := (unbound_append (k := [d]) hda).2
  have hx := lane_lt 32 (s.v a)
  have hy := lane_lt 32 (s.v b)
  dsimp only [exec]
  refine ⟨vsel_writes h m, vbcast32_writes hd a, vbcast16_writes hd a, vbcast8_writes hd a, vprm2_writes h fun i => ?_,
    vprm1_writes hda fun i => ?_, vprm1_writes hda fun i => ?_, vprm2_writes h fun i => ?_, vprm2_writes h fun i => ?_,
    vprm1_writes hda fun i => hx _, vmovx_writes ha d, fun hn => if_pos hn⟩
  · split
    · exact hx _
    · decide
  · split
    · exact hx _
    · decide
  · split
    · exact hx _
    · decide
  · split
    · exact hx _
    · exact hy _
  · split
    · exact hx _
    · exact hy _

/-! ## Masks (R278, R285) -/

theorem popc_eq (m : MWord) : popFrom m.toNat 48 = ((List.range 48).filter m.getLsbD).length := by
  rw [popFrom_eq]
  rfl

/-- The count of trailing zeros of a mask names its lowest bit that is set, or 48. -/
theorem mfirst_spec (m : MWord) : (∀ i, i < ctzFrom m.toNat 48 → m.getLsbD i = false) ∧
    (ctzFrom m.toNat 48 < 48 → m.getLsbD (ctzFrom m.toNat 48) = true) := by
  obtain ⟨-, hzero, hone⟩ := ctzFrom_spec 48 m.toNat
  refine ⟨fun i hi => ?_, fun h => ?_⟩
  · have hbit := Nat.testBit_mod_two_pow m.toNat (ctzFrom m.toNat 48) i
    rw [hzero, Nat.zero_testBit, decide_eq_true hi, Bool.true_and] at hbit
    exact hbit.symm
  · rw [BitVec.getLsbD, Nat.testBit_eq_decide_div_mod_eq, hone h]
    rfl

/-- Bit `i` of a mask put together from lane results. -/
theorem getLsbD_packed (f : Nat → Bool) {i : Nat} (hi : i < 48) :
    (BitVec.ofNat 48 (packCodes 1 ((List.range 48).map fun j => (f j).toNat))).getLsbD i = f i := by
  have hcode := packCodes_code 1 ((List.range 48).map fun j => (f j).toNat) i
  rw [List.getD_eq_getElem?_getD, List.getElem?_map, List.getElem?_range hi, Nat.one_mul, pow_one] at hcode
  rw [BitVec.getLsbD_ofNat, decide_eq_true hi, Bool.true_and, Nat.testBit_eq_decide_div_mod_eq, hcode]
  cases hf : f i <;> simp [hf]

/-- A comparison of lanes sets the mask bits and raises the flags of every lane (R278). -/
theorem vcmp_answers {s : State} {a b : Fin 32} (h : Unbound s [a, b]) (p : Fin 8) (f : Nat → Nat → Bool × Flags) :
    let g := fun i => f (lane 32 (s.v a) i) (lane 32 (s.v b) i)
    Answers (s.vcmp p a b f) fun t => (p ≠ 0 → ∀ j, j < 48 → (t.m p).getLsbD j = (g j).1) ∧ (∀ r, r ≠ p → t.m r = s.m r) ∧
      SameX s t ∧ SameV s t ∧ SameK s t ∧ RegFrame s t ∧ EndOfBody s t ∧
      FlagsAfter s t ((orFlags ((List.range 48).map fun j => boolFlags (g j))).zeroExtend 64) := by
  intro g
  rw [State.vcmp, withPops_append (dst := []) h]
  dsimp only
  rw [countFrom_zero]
  obtain ⟨t, ht, hm, hx, hv, hk, hframe, hend, hflags⟩ := mask_retire s none p
    (BitVec.ofNat 48 (packCodes 1 (((List.range 48).map fun j => boolFlags (g j)).map (·.1))))
    (orFlags ((List.range 48).map fun j => boolFlags (g j)))
  refine ⟨t, ht, fun hp j hj => ?_, fun r hr => (hm r).trans (if_neg fun h => hr h.1), hx, hv, hk, hframe, hend, hflags⟩
  rw [hm, if_pos ⟨rfl, hp⟩, List.map_map]
  exact getLsbD_packed (fun j => (g j).1) hj

theorem orFlags_none (l : List Nat) (f : Nat → Bool) : orFlags (l.map fun j => boolFlags (f j, 0)) = 0 := by
  unfold orFlags
  induction l with
  | nil => rfl
  | cons j l ih =>
    have hzero : (0 : Flags) ||| (boolFlags (f j, 0)).2 = 0 := BitVec.zero_or
    rw [List.map_cons, List.foldl_cons, hzero, ih]

/-- An integer comparison raises no flag. -/
theorem vcmp_writes {s : State} {a b : Fin 32} (h : Unbound s [a, b]) (p : Fin 8) (f : Nat → Nat → Bool) {g : Nat → Bool}
    (hg : ∀ i, f (lane 32 (s.v a) i) (lane 32 (s.v b) i) = g i) : WritesMask (s.vcmp p a b fun x y => (f x y, 0)) s p g := by
  obtain ⟨t, ht, hbits, hm, hx, hv, hk, hframe, hend, hflags⟩ := vcmp_answers h p fun x y => (f x y, 0)
  rw [orFlags_none] at hflags
  refine ⟨t, ht, fun hp i hi => (hbits hp i hi).trans (hg i), hm, ?_, hx, hv, hk, hflags.trans BitVec.or_zero, hframe, hend⟩
  rw [State.m_zero, State.m_zero]

/-- Settles O17: the mask forms by the bits of their words, the counts by `popFrom_eq` and `ctzFrom_spec`, the comparisons by their
lanes. -/
theorem maskInstructionsCompute : Obligations.MaskInstructionsCompute := by
  unfold Obligations.MaskInstructionsCompute
  intro s p q r d a b
  obtain ⟨hfirst, hset⟩ := mfirst_spec (s.m q)
  dsimp only [exec]
  refine ⟨writesMask_mresult fun i _ => BitVec.getLsbD_and, writesMask_mresult fun i _ => BitVec.getLsbD_or,
    writesMask_mresult fun i _ => BitVec.getLsbD_xor, writesMask_mresult fun i hi => ?_, ?_,
    ⟨_, (ctzFrom_spec 48 _).1, State.result_writes s d _, hfirst, hset⟩, fun h => ⟨?_, ?_, ?_⟩⟩
  · rw [BitVec.getLsbD_not, decide_eq_true hi, Bool.true_and]
  · rw [← popc_eq]
    exact State.result_writes s d _
  · exact vcmp_writes h p (· == ·) fun i => rfl
  · exact vcmp_writes h p (fun x y => decide (s32 x < s32 y)) fun i => by rw [s32_lane, s32_lane]
  · exact vcmp_writes h p (fun x y => decide (x < y)) fun i => rfl

end Sys2Proof.VectorLanes
end

section
/-! PROOFS. The floating vector instructions, conversions, blocks and reductions (R157, R273 to R276, R278, R283 to R287): O18, O19, O20. -/

namespace Sys2Proof.VectorFloats

open Sys2Proof Sys2Proof.Machine Sys2Proof.ScalarResults Sys2Proof.VectorLanes

/-! ## Lane results with flags (R152, R273) -/

/-- A vector result from the lane results of a run of lanes. -/
theorem vfresult_writes (s : State) (rnd : Option Rnd) (d : Fin 32) (w n : Nat) (g : Nat → Nat × Flags) :
    WritesVF (s.vfresult rnd d w ((List.range n).map g)) s d (ofLanes w ((List.range n).map fun j => (g j).1))
      (laneFlags rnd ((List.range n).map g)) := by
  have hfst : (List.range n).map (fun j => (g j).1) = ((List.range n).map g).map (·.1) := by
    rw [List.map_map]
    rfl
  rw [hfst]
  exact writesVF_retire s rnd d _ _

section
variable {s : State} {d a b c : Fin 32}

theorem vfa_writes (h : Unbound s [d, a, b]) (rnd : Option Rnd) (f : Nat → Nat → Nat × Flags) :
    let g := fun i => f (lane 32 (s.v a) i) (lane 32 (s.v b) i)
    WritesVF (s.vfa rnd d a b f) s d (ofLanes 32 ((List.range 48).map fun j => (g j).1)) (laneFlags rnd ((List.range 48).map g)) := by
  rw [State.vfa, withPops_append (dst := [d]) h, countFrom_zero]
  exact vfresult_writes s rnd d 32 48 _

theorem vf1_writes (h : Unbound s [d, a]) (rnd : Option Rnd) (n wi wo : Nat) (f : Nat → Nat × Flags) :
    let g := fun i => f (lane wi (s.v a) i)
    WritesVF (s.vf1 rnd d a n wi wo f) s d (ofLanes wo ((List.range n).map fun j => (g j).1)) (laneFlags rnd ((List.range n).map g)) := by
  rw [State.vf1, withPops_append (dst := [d]) h, countFrom_zero]
  exact vfresult_writes s rnd d wo n _

theorem vfma_writes (h : Unbound s [d, a, b, c]) (rnd : Option Rnd) (sub : Bool) :
    let g := fun i => f32fma sub (lane 32 (s.v a) i) (lane 32 (s.v b) i) (lane 32 (s.v c) i) (s.rnd rnd)
    WritesVF (s.vfma rnd d a b c sub) s d (ofLanes 32 ((List.range 48).map fun j => (g j).1)) (laneFlags rnd ((List.range 48).map g)) := by
  rw [State.vfma, withPops_append (dst := [d]) h, countFrom_zero]
  exact vfresult_writes s rnd d 32 48 _

end

/-- Settles O18: each form by its shared operation, whose lanes each round once. -/
theorem vectorFloatComputes : Obligations.VectorFloatComputes := by
  unfold Obligations.VectorFloatComputes
  intro s rnd d a b c p h
  have hdab : Unbound s [d, a, b] := (unbound_append (k := [d, a, b]) h).1
  have hda : Unbound s [d, a] := (unbound_append (k := [d, a]) h).1
  have hab : Unbound s [a, b] := (unbound_append (k := [d]) hdab).2
  dsimp only [exec]
  exact ⟨vfa_writes hdab rnd _, vfa_writes hdab rnd _, vfa_writes hdab rnd _, vfa_writes hdab rnd _, vfa_writes hdab rnd _,
    vfa_writes hdab rnd _, vf1_writes hda rnd 48 32 32 _, vf1_writes hda rnd 48 32 32 _, vf1_writes hda rnd 48 32 32 _,
    vfma_writes h rnd false, vfma_writes h rnd true, vcmp_answers hab p _, vcmp_answers hab p _, vcmp_answers hab p _⟩

/-! ## Conversions (R283) -/

/-- A run of numbers of which the first are sent by one function and the rest by another. -/
theorem map_range_split {α β : Type} (n m : Nat) (p q : Nat → α) (f : α → β) :
    (List.range (n + m)).map (fun i => f (if i < n then p i else q (i - n))) =
      ((List.range n).map p).map f ++ ((List.range m).map q).map f := by
  rw [List.range_add, List.map_append, List.map_map, List.map_map, List.map_map]
  congr 1
  · exact List.map_congr_left fun i hi => by rw [if_pos (List.mem_range.mp hi), Function.comp_apply]
  · refine List.map_congr_left fun i _ => ?_
    rw [Function.comp_apply, Function.comp_apply, if_neg (by omega), Nat.add_sub_cancel_left]

theorem lanes_map {α : Type} (w n : Nat) (v : VWord) (f : Nat → α) : (lanes w n v).map f = (List.range n).map fun i => f (lane w v i) := by
  rw [lanes, countFrom_zero, List.map_map]
  rfl

/-- The lanes of two registers narrowed, one register after the other. -/
theorem narrow16_writes {s : State} {d a b : Fin 32} (h : Unbound s [d, a, b]) (rnd : Option Rnd) (f : Fmt) :
    let g := fun i => f.round (if i < 48 then fp32.value (lane 32 (s.v a) i) else fp32.value (lane 32 (s.v b) (i - 48))) (s.rnd rnd)
    WritesVF (s.narrow16 rnd d a b f) s d (ofLanes 16 ((List.range 96).map fun j => (g j).1))
      (laneFlags rnd ((List.range 96).map g)) := by
  intro g
  have hsplit := map_range_split 48 48 (fun i => fp32.value (lane 32 (s.v a) i)) (fun i => fp32.value (lane 32 (s.v b) i))
    fun x => f.round x (s.rnd rnd)
  have hexec : s.narrow16 rnd d a b f = s.vfresult rnd d 16 ((List.range 96).map g) := by
    rw [State.narrow16, withPops_append (dst := [d]) h]
    dsimp only
    rw [lanes_map, lanes_map, show (List.range 96).map g = _ from hsplit, List.map_map, List.map_map]
    rfl
  rw [hexec]
  exact vfresult_writes s rnd d 16 96 g

/-- A lane's integer result as the word of its two's complement. -/
theorem vcvtI32F32_writes {s : State} {d a : Fin 32} (h : Unbound s [d, a]) (rnd : Option Rnd) :
    let g := fun i =>
      let q := (fp32.value (lane 32 (s.v a) i)).toIntClamp (-(2 ^ 31)) (2 ^ 31 - 1) (s.rnd rnd).rm
      ((BitVec.ofInt 32 q.1).toNat, q.2)
    WritesVF (execVcvtI32F32 rnd d a s) s d (ofLanes 32 ((List.range 48).map fun j => (g j).1)) (laneFlags rnd ((List.range 48).map g)) := by
  have hres := vf1_writes h rnd 48 32 32 fun x =>
    let q := (fp32.value x).toIntClamp (-(2 ^ 31)) (2 ^ 31 - 1) (s.rnd rnd).rm
    (wrapInt q.1 32, q.2)
  dsimp only at hres ⊢
  simp only [wrapInt_eq] at hres
  exact hres

theorem vcvtF32I32_writes {s : State} {d a : Fin 32} (h : Unbound s [d, a]) (rnd : Option Rnd) :
    let g := fun i => fp32.round (.int (lane32s (s.v a) i)) (s.rnd rnd)
    WritesVF (execVcvtF32I32 rnd d a s) s d (ofLanes 32 ((List.range 48).map fun j => (g j).1)) (laneFlags rnd ((List.range 48).map g)) := by
  have hres := vf1_writes h rnd 48 32 32 fun x => fp32.round (.int (s32 x)) (s.rnd rnd)
  dsimp only at hres ⊢
  simp only [s32_lane] at hres
  exact hres

/-! ## Blocks (R286, R287) -/

/-- VQUANT writes the block image and the scale, and raises the block's flags. -/
theorem vquant_answers {s : State} {d a : Fin 32} (h : Unbound s [d, a]) (rnd : Option Rnd) (b : Fin 32) (f : BFmt) :
    ∀ q, q = quantBlock f ((List.range 48).map fun i => fp32.value (lane 32 (s.v a) i)) (s.rnd rnd) →
      Answers (s.vquant rnd d a b f) fun r => VAfter s r d (ofLanes f.ebits q.2.1) ∧ XAfter s r b (BitVec.ofNat 64 q.1) ∧
        FlagsAfter s r ((unmasked rnd q.2.2).zeroExtend 64) ∧ SameM s r ∧ SameK s r ∧ RegFrame s r ∧ EndOfBody s r := by
  rintro q rfl
  generalize hq : quantBlock f ((List.range 48).map fun i => fp32.value (lane 32 (s.v a) i)) (s.rnd rnd) = q
  have hexec : s.vquant rnd d a b f =
      .next (((s.setV d (ofLanes f.ebits q.2.1)).setX b (BitVec.ofNat 64 q.1)).addFlags rnd q.2.2).retire := by
    rw [State.vquant, withPops_append (dst := [d]) h]
    dsimp only
    rw [lanes_map, hq]
  have hfiles := ((FilesOnly.setV s d (ofLanes f.ebits q.2.1)).trans (FilesOnly.setX _ b (BitVec.ofNat 64 q.1))).trans
    (FilesOnly.addFlags _ rnd q.2.2)
  obtain ⟨hctl, ht, -⟩ := State.setX_setCtl_free (s.setV d (ofLanes f.ebits q.2.1)) b (BitVec.ofNat 64 q.1)
  refine ⟨_, hexec, fun r => ?_, fun r => (State.retire_x _ r).trans (State.x_setX _ b r _), ?_, fun r => ?_, fun r => ?_,
    hfiles.retire_frame, hfiles.retire_endOfBody⟩
  · rw [State.retire_v, ← State.v_setV]
    exact congrArg (fun t : ThreadPart => t.vec.v[r]) ht
  · rw [FlagsAfter, State.retire_fflags]
    exact congrArg (fun c : Ctl => c.fflags ||| (unmasked rnd q.2.2).zeroExtend 64) hctl
  · rw [State.retire_m]
    exact (congrArg (fun t : ThreadPart => if r = 0 then BitVec.allOnes 48 else t.vec.m[r]) ht :)
  · rw [State.retire_k]
    exact (congrArg (fun t : ThreadPart => t.vec.k[r]) ht :)

theorem vdeq_writes {s : State} {d a : Fin 32} (h : Unbound s [d, a]) (b : Fin 32) (f : BFmt) (g : Nat → Nat × Flags) :
    (g = fun j => fp32.round (f.blockValue ((s.x b).toNat % 256) (lane f.ebits (s.v a) j)) { rm := .rne, sat := .nosat }) →
    WritesVF (s.vdeq d a b f) s d (ofLanes 32 ((List.range 48).map fun j => (g j).1)) (laneFlags none ((List.range 48).map g)) := by
  rintro rfl
  rw [State.vdeq, withPops_append (dst := [d]) h, lanes_map]
  exact vfresult_writes s none d 32 48 _

/-- Settles O19: each conversion lane by lane, and the blocks by `quantBlock` and their elements' values. -/
theorem vectorConversionsAndBlocks : Obligations.VectorConversionsAndBlocks := by
  unfold Obligations.VectorConversionsAndBlocks
  intro s rnd d a b h
  have hda : Unbound s [d, a] := (unbound_append (k := [d, a]) h).1
  dsimp only [exec]
  exact ⟨vcvtF32I32_writes hda rnd, vcvtI32F32_writes hda rnd, narrow16_writes h rnd bf16, narrow16_writes h rnd fp16,
    vf1_writes hda rnd 48 32 8 _, vf1_writes hda rnd 48 32 8 _, vf1_writes hda rnd 48 16 32 _, vf1_writes hda rnd 48 16 32 _,
    vf1_writes hda rnd 48 8 32 _, vf1_writes hda rnd 48 8 32 _, vquant_answers hda rnd b _, vquant_answers hda rnd b _,
    vquant_answers hda rnd b _, vquant_answers hda rnd b _, vquant_answers hda rnd b _, vquant_answers hda rnd b _,
    fun g => ⟨vdeq_writes hda b _ g, vdeq_writes hda b _ g, vdeq_writes hda b _ g, vdeq_writes hda b _ g, vdeq_writes hda b _ g,
      vdeq_writes hda b _ g⟩⟩

/-! ## Reductions (R284) -/

section
variable {α : Type} {f : α → α → α × Flags}

theorem redLevel_pair (p q : Option α) (l : List (Option α)) :
    redLevel f (p :: q :: l) = ((redPair f p q).1 :: (redLevel f l).1, (redPair f p q).2 ||| (redLevel f l).2) := rfl

/-- A level of the tree has half the elements, a last odd one carried up. -/
theorem length_redLevel : ∀ l : List (Option α), (redLevel f l).1.length = (l.length + 1) / 2
  | [] => by rw [show redLevel f [] = ([], 0) from rfl, List.length_nil]
  | [p] => by rw [show redLevel f [p] = ([p], 0) from rfl, List.length_singleton]
  | p :: q :: l => by
    rw [redLevel_pair, List.length_cons, length_redLevel l, List.length_cons, List.length_cons]
    omega

/-- What every level keeps of its elements and of the flags so far holds at the tree's root. -/
theorem redTree_keeps {P : List (Option α) → Flags → Prop} (hlevel : ∀ l g, P l g → P (redLevel f l).1 (g ||| (redLevel f l).2)) (n : Nat)
    {l : List (Option α)} {g : Flags} (h : P l g) : P (redTree f n (l, g)).1 (redTree f n (l, g)).2 := by
  induction n generalizing l g with
  | zero => exact h
  | succ n ih => exact ih (hlevel l g h)

theorem length_redTree (n : Nat) (l : List (Option α)) (g : Flags) :
    (redTree f n (l, g)).1.length = (fun k => (k + 1) / 2)^[n] l.length := by
  induction n generalizing l g with
  | zero => rfl
  | succ n ih => rw [redTree, ih, length_redLevel, Function.iterate_succ_apply]

/-- The root of the tree over 48 elements is one element, which may be absent. -/
theorem vred_root {l : List (Option α)} (h : l.length = 48) (e : α) :
    vred f e l = ((redTree f 6 (l, 0)).1.reduceOption.headD e, (redTree f 6 (l, 0)).2) := by
  have hlen : (redTree f 6 (l, 0)).1.length = 1 := by
    rw [length_redTree, h]
    rfl
  obtain ⟨o, ho⟩ := List.length_eq_one_iff.mp hlen
  rw [vred, ho]
  cases o
  · rfl
  · rfl

/-- A level leaves a lone element as it is, and raises no flag. -/
theorem redLevel_lone : ∀ {l : List (Option α)}, l.reduceOption.length ≤ 1 →
    (redLevel f l).1.reduceOption = l.reduceOption ∧ (redLevel f l).2 = 0
  | [], _ => ⟨rfl, rfl⟩
  | [_], _ => ⟨rfl, rfl⟩
  | none :: none :: l, h => by
    obtain ⟨hel, hfl⟩ := redLevel_lone (l := l) h
    exact ⟨hel, (BitVec.zero_or).trans hfl⟩
  | some x :: none :: l, h => by
    obtain ⟨hel, hfl⟩ := redLevel_lone (l := l) (Nat.le_of_succ_le h)
    exact ⟨congrArg (x :: ·) hel, (BitVec.zero_or).trans hfl⟩
  | none :: some y :: l, h => by
    obtain ⟨hel, hfl⟩ := redLevel_lone (l := l) (Nat.le_of_succ_le h)
    exact ⟨congrArg (y :: ·) hel, (BitVec.zero_or).trans hfl⟩
  | some x :: some y :: l, h => absurd h (by simp [List.reduceOption_cons_of_some])

/-- An element that is alone, or none, goes through the tree as it is, with no flag. -/
theorem vred_lone {l : List (Option α)} (hlen : l.length = 48) (h : l.reduceOption.length ≤ 1) (e : α) :
    vred f e l = (l.reduceOption.headD e, 0) := by
  obtain ⟨hel, hfl⟩ := redTree_keeps (f := f) (P := fun k g => k.reduceOption = l.reduceOption ∧ g = 0)
    (fun k g hk => by
      obtain ⟨hel, rfl⟩ := hk
      obtain ⟨hel', hfl'⟩ := redLevel_lone (f := f) (l := k) (by rwa [hel])
      exact ⟨hel'.trans hel, (BitVec.zero_or).trans hfl'⟩) 6 (l := l) (g := 0) ⟨rfl, rfl⟩
  rw [vred_root hlen, hel, hfl]

theorem reduceOption_nones {l : List (Option α)} (h : ∀ p, p ∈ l → p = none) : l.reduceOption = [] :=
  List.filterMap_eq_nil_iff.mpr h

/-- The elements of a list of which one is there. -/
theorem reduceOption_one {l : List (Option α)} {i : Nat} {v : α} (hi : l[i]? = some (some v))
    (hne : ∀ j, j ≠ i → ∀ p, l[j]? = some p → p = none) : l.reduceOption = [v] := by
  induction l generalizing i with
  | nil => cases hi
  | cons o l ih =>
    cases i with
    | zero =>
      obtain rfl : o = some v := Option.some.inj hi
      have hrest : l.reduceOption = [] := reduceOption_nones fun p hp => by
        obtain ⟨j, hj⟩ := List.mem_iff_getElem?.mp hp
        exact hne (j + 1) (by omega) p hj
      rw [List.reduceOption_cons_of_some, hrest]
    | succ i =>
      obtain rfl : o = none := hne 0 (by omega) o rfl
      rw [List.reduceOption_cons_of_none]
      exact ih hi fun j hj p hp => hne (j + 1) (by omega) p hp

end

/-- A level of integer sums leaves the sum of its elements. -/
theorem redLevel_sum : ∀ l : List (Option Int), (redLevel (fun p q => (p + q, 0)) l).1.reduceOption.sum = l.reduceOption.sum
  | [] => rfl
  | [_] => rfl
  | none :: none :: l => redLevel_sum l
  | some x :: none :: l => congrArg (x + ·) (redLevel_sum l)
  | none :: some y :: l => congrArg (y + ·) (redLevel_sum l)
  | some x :: some y :: l => (congrArg (x + y + ·) (redLevel_sum l)).trans (Int.add_assoc x y _)

/-- The tree of integer sums gives the sum of the elements. -/
theorem vred_sum {l : List (Option Int)} (hlen : l.length = 48) : (vred (fun p q => (p + q, 0)) 0 l).1 = l.reduceOption.sum := by
  have hsum := redTree_keeps (f := fun p q : Int => (p + q, 0)) (P := fun k _ => k.reduceOption.sum = l.reduceOption.sum)
    (fun k _ hk => (redLevel_sum k).trans hk) 6 (l := l) (g := 0) rfl
  have hone : (redTree (fun p q : Int => (p + q, 0)) 6 (l, 0)).1.reduceOption.length ≤ 1 := by
    refine (List.reduceOption_length_le _).trans ?_
    rw [length_redTree, hlen]
    decide
  rw [vred_root hlen, ← hsum]
  match (redTree (fun p q : Int => (p + q, 0)) 6 (l, 0)).1.reduceOption, hone with
  | [], _ => rfl
  | [x], _ => exact (Int.add_zero x).symm

/-- The sum of the elements that a condition selects. -/
theorem sum_selected (p : Nat → Bool) (f : Nat → Int) (l : List Nat) :
    (l.map fun i => if p i then some (f i) else none).reduceOption.sum = (l.map fun i => if p i then f i else 0).sum := by
  induction l with
  | nil => rfl
  | cons i l ih =>
    rw [List.map_cons, List.map_cons, List.sum_cons, ← ih]
    cases p i
    · exact (Int.zero_add _).symm
    · rfl

theorem vredF_writes {s : State} {a : Fin 32} (h : Unbound s [a]) (rnd : Option Rnd) (d : Fin 32) (m : Fin 8)
    (f : Nat → Nat → Nat × Flags) (e : Nat) :
    let r := vred f e ((List.range 48).map fun i => if (s.m m).getLsbD i then some (lane 32 (s.v a) i) else none)
    WritesXF (s.vredF rnd d a m f e) s d (BitVec.ofNat 64 r.1) ((unmasked rnd r.2).zeroExtend 64) := by
  rw [State.vredF, withPops_append (dst := []) h, masked, countFrom_zero]
  exact writesXF_retire s rnd d _ _

theorem vredAddI32_writes {s : State} {a : Fin 32} (h : Unbound s [a]) (rnd : Option Rnd) (d : Fin 32) (m : Fin 8) :
    WritesX (execVredAddI32 rnd d a m s) s d
      (BitVec.ofInt 64 (((List.range 48).map fun i => if (s.m m).getLsbD i then lane32s (s.v a) i else 0).sum)) := by
  rw [execVredAddI32, withPops_append (dst := []) h, masked, countFrom_zero, vred_sum (by simp), sum_selected]
  simp only [s32_lane]
  exact State.result_writes s d _

/-- Settles O20: the float forms by the tree itself, the integer sum by what every level keeps, and the lone element by its way
through the levels. -/
theorem reductionsFollowTheTree : Obligations.ReductionsFollowTheTree := by
  unfold Obligations.ReductionsFollowTheTree
  refine ⟨fun s rnd d a m h => ?_, fun f e l hlen => ⟨fun hnone => ?_, fun i v _ hv hnone => ?_⟩, fun f p q l => ⟨rfl, rfl, rfl, rfl⟩⟩
  · dsimp only [exec]
    exact ⟨vredF_writes h rnd d m _ _, vredF_writes h rnd d m _ _, vredF_writes h rnd d m _ _, vredAddI32_writes h rnd d m⟩
  · have hel := reduceOption_nones hnone
    rw [vred_lone hlen (by rw [hel]; decide), hel, List.headD_nil]
  · have hel := reduceOption_one hv fun j hj p hp => by
      have hlt : j < 48 := hlen ▸ (List.getElem?_eq_some_iff.mp hp).1
      exact Option.some.inj (hp.symm.trans (hnone j hlt hj))
    rw [vred_lone hlen (by rw [hel]; rfl), hel, List.headD_cons]

end Sys2Proof.VectorFloats
end

section
/-! PROOFS. The bytes that a store of whole lines' bytes leaves in memory, through the cluster caches (R83, R90, R104, R129, R265): for O25. -/

namespace Sys2Proof.CachedStores

open Sys2Proof Sys2Proof.Machine Sys2Proof.LatticeCells Sys2Proof.MemFences

/-! ## Maintenance that comes before a store (R265) -/

theorem cached_le {s t : State} (h : t.lat.cache = s.lat.cache) (c : Nat) : cached t c ≤ cached s c := by
  rw [cached, h, cached]

/-- What the maintenance of some lines leaves: every byte of other lines, and what DRAM and caches hold alike of them. -/
structure Maintains (ls : List Nat) (s t : State) : Prop where
  caches : CachesOnly s t
  read : ∀ a, a / 64 ∉ ls → Mem.read t.mem a = Mem.read s.mem a
  settled : ∀ a, a / 64 ∉ ls → s.settled a → t.settled a
  wf : Mem.wf s.mem = true → Mem.wf t.mem = true
  fewer : ∀ c, cached t c ≤ cached s c

namespace Maintains

theorem refl (ls : List Nat) (s : State) : Maintains ls s s :=
  ⟨CachesOnly.refl s, fun _ _ => rfl, fun _ _ h => h, fun h => h, cached_le rfl⟩

theorem trans {ls : List Nat} {s t u : State} (a : Maintains ls s t) (b : Maintains ls t u) : Maintains ls s u :=
  ⟨a.caches.trans b.caches, fun p h => (b.read p h).trans (a.read p h), fun p h hs => b.settled p h (a.settled p h hs),
    fun h => b.wf (a.wf h), fun c => (b.fewer c).trans (a.fewer c)⟩

theorem foldl {α : Type} {ls : List Nat} {f : State → α → State} {l : List α} (hf : ∀ s a, a ∈ l → Maintains ls s (f s a))
    (s : State) : Maintains ls s (l.foldl f s) :=
  List.foldlRecOn l f (refl ls s) fun t ht a ha => ht.trans (hf t a ha)

/-- Caches that lose lines. -/
theorem uncached (ls : List Nat) (s : State) (p : CLine → Bool) :
    Maintains ls s { s with lat := { s.lat with cache := s.lat.cache.filter p } } := by
  refine ⟨⟨_, _, _, _, rfl⟩, fun _ _ => rfl, fun _ _ h => h, fun h => h, fun c => ?_⟩
  unfold cached
  dsimp only
  rw [List.filter_comm]
  exact List.length_filter_le _ _

end Maintains

theorem mem_assocSet {α : Type} {k : Nat} {v : α} {l : List (Nat × α)} {x : Nat × α} (h : x ∈ assocSet k v l) : x.1 = k ∨ x ∈ l := by
  induction l with
  | nil => exact .inl (congrArg Prod.fst (List.mem_singleton.mp h))
  | cons c l ih =>
    obtain ⟨j, w⟩ := c
    rw [assocSet] at h
    split at h
    · rcases List.mem_cons.mp h with rfl | h
      · exact .inl rfl
      · exact .inr (List.mem_cons_of_mem _ h)
    · rcases List.mem_cons.mp h with rfl | h
      · exact .inr List.mem_cons_self
      · exact (ih h).imp id (List.mem_cons_of_mem _)

theorem settleLine_maintains {ls : List Nat} (s : State) {line : Nat} (dirty : Bool) (hline : line ∈ ls) :
    Maintains ls s (s.settleLine line dirty) := by
  have hother (a : Nat) (ha : a / 64 ∉ ls) : line ≠ a / 64 := fun h => ha (h ▸ hline)
  unfold State.settleLine
  split
  · exact Maintains.refl ls s
  · next d _ =>
    have hkeep (a : Nat) (h : s.settled a) : ∀ x, x ∈ assocDel line s.lat.dram → x.1 ≠ a / 64 := fun x hx => h x (mem_of_mem_assocDel hx)
    dsimp only
    split
    · exact ⟨⟨_, _, _, _, rfl⟩, fun _ _ => rfl, fun a _ h => hkeep a h, fun h => h, cached_le rfl⟩
    · have hread (a : Nat) (ha : a / 64 ∉ ls) := read_writeN_outside_line s.mem line d.2 a (hother a ha) 64 rfl
      have hwf (h : Mem.wf s.mem = true) := Mem.writeN_wf h (64 * line) 64 d.2
      refine ⟨⟨_, _, _, _, rfl⟩, fun a ha => ?_, fun a _ h => hkeep a h, fun h => ?_, cached_le rfl⟩
      · dsimp only
        rw [hread a ha]
      · dsimp only
        rw [hwf h]

theorem uncache_maintains {ls : List Nat} (s : State) {p : CLine → Bool} (hp : ∀ c, p c = true → c.line ∈ ls) :
    Maintains ls s (s.uncache p) := by
  unfold State.uncache
  refine (Maintains.uncached ls s _).trans (Maintains.foldl (fun t c hc => ?_) _)
  obtain ⟨-, hcp⟩ := List.mem_filter.mp hc
  split
  · exact Maintains.refl ls t
  · exact settleLine_maintains t _ (hp c ((Bool.and_eq_true _ _).mp hcp).2)

theorem lineDone_maintains {ls : List Nat} (s : State) (inval : Bool) {x : Nat × Option Nat} (hx : x.1 ∈ ls) :
    Maintains ls s (s.lineDone inval x) := by
  obtain ⟨line, left⟩ := x
  have hdram : ∀ v : Nat, Maintains ls s { s with lat := { s.lat with
      dram := if s.lineNow line = v then assocDel line s.lat.dram else assocSet line v s.lat.dram } } := fun v => by
    refine ⟨⟨_, _, _, _, rfl⟩, fun _ _ => rfl, fun a ha h d hd => ?_, fun h => h, cached_le rfl⟩
    dsimp only at hd
    split at hd
    · exact h d (mem_of_mem_assocDel hd)
    · rcases mem_assocSet hd with hk | hd
      · exact fun he => ha (he ▸ hk ▸ hx)
      · exact h d hd
  have hdone : ∀ t, Maintains ls s t → Maintains ls s (if inval then
      let u := t.uncache (fun c => c.line == line)
      { u with lat := { u.lat with cache := u.lat.cache.filter (fun c => c.line != line) } } else t) := fun t ht => by
    split
    · exact (ht.trans (uncache_maintains t fun c hc => by rwa [show c.line = line from eq_of_beq hc])).trans (Maintains.uncached ls _ _)
    · exact ht
  cases left with
  | none => exact hdone s (Maintains.refl ls s)
  | some v => exact hdone _ (hdram v)

theorem maintainFirst_maintains {ls : List Nat} (s : State) {line : Nat} (hline : line ∈ ls) : Maintains ls s (s.maintainFirst line) := by
  unfold State.maintainFirst
  dsimp only
  have hwriteBacks : Maintains ls s { s with lat := { s.lat with
      writeBacks := s.lat.writeBacks.map (fun w => { w with lines := w.lines.filter (fun x => x.1 != line) }) } } :=
    ⟨⟨_, _, _, _, rfl⟩, fun _ _ => rfl, fun _ _ h => h, fun h => h, cached_le rfl⟩
  refine hwriteBacks.trans (Maintains.foldl (fun t x hx => lineDone_maintains t x.1 ?_) _)
  obtain ⟨w, -, hx⟩ := List.mem_flatMap.mp hx
  obtain ⟨y, hy, rfl⟩ := List.mem_map.mp hx
  obtain ⟨-, hy⟩ := List.mem_filter.mp hy
  exact eq_of_beq hy ▸ hline

/-- A line that no CLEANR or INVALR is taking needs no maintenance before it is written. -/
theorem maintainFirst_settled {s : State} {line : Nat} (h : ∀ w, w ∈ s.lat.writeBacks → ∀ x, x ∈ w.lines → x.1 ≠ line) :
    s.maintainFirst line = s := by
  have hmine : s.lat.writeBacks.flatMap (fun w => (w.lines.filter (fun x => x.1 == line)).map (fun x => (w.inval, x))) = [] := by
    refine List.flatMap_eq_nil_iff.mpr fun w hw => ?_
    rw [List.map_eq_nil_iff, List.filter_eq_nil_iff]
    exact fun x hx hline => h w hw x hx (eq_of_beq hline)
  have hsame : s.lat.writeBacks.map (fun w => { w with lines := w.lines.filter (fun x => x.1 != line) }) = s.lat.writeBacks := by
    refine (List.map_congr_left fun w hw => ?_).trans (List.map_id' _)
    have hlines : w.lines.filter (fun x => x.1 != line) = w.lines :=
      List.filter_eq_self.mpr fun x hx => bne_iff_ne.mpr (h w hw x hx)
    rw [hlines]
  unfold State.maintainFirst
  dsimp only
  rw [hmine, hsame]
  rfl

/-! ## Lines that a store takes into the caches (R83, R129) -/

theorem mem_linesOf (pa n line : Nat) : line ∈ linesOf pa n ↔ pa / 64 ≤ line ∧ line ≤ (pa + n - 1) / 64 := by
  unfold linesOf
  rw [mem_countFrom]
  omega

theorem not_mem_linesOf {pa n line : Nat} (h : line < pa / 64 ∨ (pa + n - 1) / 64 < line) : line ∉ linesOf pa n := by
  rw [mem_linesOf]
  omega

theorem length_linesOf (pa n : Nat) : (linesOf pa n).length = (pa + n - 1) / 64 + 1 - pa / 64 := by
  unfold linesOf
  rw [VectorLanes.countFrom_eq_range', List.length_range']

theorem touchIn_cachesOnly (s : State) (cluster pa n : Nat) (dirty : Bool) : CachesOnly s (s.touchIn cluster pa n dirty) :=
  CachesOnly.foldl (fun t l => touchLine_cachesOnly t cluster dirty l) _ s

theorem touchIn_givesUp (s : State) (cluster pa n : Nat) (dirty : Bool) : GivesUp s (s.touchIn cluster pa n dirty) :=
  GivesUp.foldl (fun t l => touchLine_givesUp t cluster dirty l) _ s

/-- Lines that find room in a cache make it give up none. -/
theorem foldl_touchLine_room (cluster : Nat) (dirty : Bool) (ls : List Nat) (s : State) (h : cached s cluster + ls.length ≤ cacheLines) :
    (ls.foldl (fun t l => t.touchLine cluster dirty l) s).mem = s.mem ∧
    (ls.foldl (fun t l => t.touchLine cluster dirty l) s).lat.writeBacks = s.lat.writeBacks := by
  induction ls generalizing s with
  | nil => exact ⟨rfl, rfl⟩
  | cons line ls ih =>
    rw [List.length_cons] at h
    have hline : s.touchLine cluster dirty line = withLine s cluster dirty line := touchLine_room s _ _ _ (by omega)
    have hmore : cached (withLine s cluster dirty line) cluster ≤ cached s cluster + 1 := length_filter_replace _ _ _ _
    rw [List.foldl_cons, hline]
    exact ih _ (by omega)

theorem touchIn_room {s : State} {cluster pa n : Nat} (dirty : Bool) (h : cached s cluster + (linesOf pa n).length ≤ cacheLines) :
    (s.touchIn cluster pa n dirty).mem = s.mem ∧ (s.touchIn cluster pa n dirty).lat.writeBacks = s.lat.writeBacks :=
  foldl_touchLine_room cluster dirty _ s h

/-! ## The bytes after a store (R90, R297) -/

/-- What DRAM holds stands apart for the lines of the range alone. -/
theorem keepDram_settled (s : State) (pa n : Nat) {a : Nat} (ha : a / 64 ∉ linesOf pa n) (h : s.settled a) :
    (s.keepDram pa n).settled a := by
  unfold State.keepDram State.settled
  dsimp only
  refine List.foldlRecOn (motive := fun d : List (Nat × Nat) => ∀ x, x ∈ d → x.1 ≠ a / 64) _ _ h fun d hd line hline => ?_
  split
  · exact hd
  · intro x hx
    rcases List.mem_cons.mp hx with rfl | hx
    · exact fun he => ha (he ▸ hline)
    · exact hd x hx

/-- The state in which a store has written its bytes, before their lines are the newest of the cache. -/
def written (s : State) (pa n v : Nat) : State :=
  let t := ((linesOf pa n).foldl State.maintainFirst s).keepDram pa n
  ({ t with mem := Mem.writeN t.mem pa n v } : State).wrote pa n

theorem putCached_eq (s : State) (cluster pa n v : Nat) : s.putCached cluster pa n v = (written s pa n v).touchIn cluster pa n true := rfl

/-- What the lines of a range leave when they are maintained one after another. -/
def maintained (s : State) (pa n : Nat) : State := (linesOf pa n).foldl State.maintainFirst s

theorem maintained_maintains (s : State) (pa n : Nat) : Maintains (linesOf pa n) s (maintained s pa n) :=
  Maintains.foldl (fun t _ hline => maintainFirst_maintains t hline) s

theorem maintained_settled {s : State} {pa n : Nat} (h : s.settledRange pa n) : maintained s pa n = s := by
  refine List.foldlRecOn (motive := fun t => t = s) _ _ rfl fun t ht line hline => ?_
  rw [ht]
  refine maintainFirst_settled fun w hw x hx he => ?_
  exact not_mem_linesOf (h w hw x hx) (he ▸ hline)

section
variable (s : State) (pa n v : Nat)

theorem written_keeps : (written s pa n v).mem = Mem.writeN (maintained s pa n).mem pa n v ∧
    (written s pa n v).lat.cache = (maintained s pa n).lat.cache ∧
    (written s pa n v).lat.writeBacks = (maintained s pa n).lat.writeBacks ∧
    (written s pa n v).lat.dram = ((maintained s pa n).keepDram pa n).lat.dram := by
  obtain ⟨checks, lost, h⟩ := wrote_eq { (maintained s pa n).keepDram pa n with mem := Mem.writeN (maintained s pa n).mem pa n v } pa n
  have hw : written s pa n v = _ := h
  rw [hw]
  exact ⟨rfl, rfl, rfl, rfl⟩

theorem written_settled {a : Nat} (ha : a / 64 ∉ linesOf pa n) (h : s.settled a) : (written s pa n v).settled a := by
  obtain ⟨-, -, -, hdram⟩ := written_keeps s pa n v
  have hkeep := keepDram_settled _ pa n ha ((maintained_maintains s pa n).settled a ha h)
  exact fun d hd => hkeep d (hdram ▸ hd)

theorem written_read {a : Nat} (ha : a / 64 < pa / 64 ∨ (pa + n - 1) / 64 < a / 64) :
    Mem.read (written s pa n v).mem a = Mem.read s.mem a := by
  obtain ⟨hmem, -, -, -⟩ := written_keeps s pa n v
  have hline : a / 64 ∉ linesOf pa n := not_mem_linesOf (by omega)
  rw [hmem, read_writeN_outside _ _ _ _ (by omega), (maintained_maintains s pa n).read a hline]

/-- A store changes memory, and of the lattice what caches, checks and losses say of its lines. -/
theorem putCached_frame (cluster : Nat) : ∃ mem cache dram writeBacks checks lost, s.putCached cluster pa n v = { s with
    mem := mem, lat := { s.lat with
      cache := cache, dram := dram, writeBacks := writeBacks, checks := checks, lost := lost } } := by
  obtain ⟨_, _, _, _, htouch⟩ := touchIn_cachesOnly (written s pa n v) cluster pa n true
  obtain ⟨checks, lost, h⟩ := wrote_eq { (maintained s pa n).keepDram pa n with mem := Mem.writeN (maintained s pa n).mem pa n v } pa n
  obtain ⟨_, _, _, _, hmaintain⟩ := (maintained_maintains s pa n).caches
  have hw : written s pa n v = _ := h
  rw [putCached_eq, htouch, hw]
  unfold State.keepDram
  rw [hmaintain]
  exact ⟨_, _, _, _, _, _, rfl⟩

end

/-- The bytes of memory after a store of at most four lines. -/
theorem putCached_storeMem {s : State} {pa n v : Nat} (hwf : Mem.wf s.mem = true) (hlines : (linesOf pa n).length ≤ 4) (hv : v < 256 ^ n) :
    StoreMem s (s.putCached s.cluster pa n v) pa n v := by
  obtain ⟨hmem, hcache, hwb, -⟩ := written_keeps s pa n v
  have hmaintain := maintained_maintains s pa n
  have hroom (h : s.cacheRoom) := touchIn_room (s := written s pa n v) (cluster := s.cluster) (pa := pa) (n := n) true (by
    have hle := (cached_le hcache s.cluster).trans (hmaintain.fewer s.cluster)
    have hfree : cached s s.cluster + 4 ≤ cacheLines := h
    omega)
  refine ⟨fun h => ?_, fun h hset => ⟨fun b hb => ?_, ?_⟩, fun h a ha => ?_, fun a hset ha => ?_⟩
  · rw [putCached_eq, (hroom h).1, hmem, Mem.readN_writeN (hmaintain.wf hwf), Nat.mod_eq_of_lt hv]
  · rw [putCached_eq, (hroom h).1, hmem, maintained_settled hset, read_writeN_outside _ _ _ _ hb]
  · rw [putCached_eq, (hroom h).2, hwb, maintained_settled hset]
  · rw [putCached_eq, (hroom h).1, written_read s pa n v ha]
  · have hgives := (touchIn_givesUp (written s pa n v) s.cluster pa n true).apart a (written_settled s pa n v (not_mem_linesOf ha) hset)
    rw [putCached_eq, hgives.2, written_read s pa n v ha]

end Sys2Proof.CachedStores
end

section
/-! PROOFS. Vector loads, stores and spills (R45 to R47, R62, R290, R291, R293): O25. -/

namespace Sys2Proof.VectorMemory

open Sys2Proof Sys2Proof.Machine Sys2Proof.LatticeCells Sys2Proof.HaltGroups Sys2Proof.ChildOps Sys2Proof.TokenMoves
  Sys2Proof.ScalarResults Sys2Proof.MemFences Sys2Proof.Windows Sys2Proof.VectorLanes Sys2Proof.CachedStores

/-! ## What a translation leaves (R29) -/

theorem reached_tlb (s : State) (va : Nat) (a : Acc) : ∃ tlb, reached s va a = { s with lat := { s.lat with tlb := tlb } } :=
  translate_tlb s _ _ _ _ _ _

/-- What does not look at TLBs is as before. -/
theorem reached_congr {α : Type} (s : State) (va : Nat) (a : Acc) (f : State → α)
    (hf : ∀ tlb, f { s with lat := { s.lat with tlb := tlb } } = f s) : f (reached s va a) = f s := by
  obtain ⟨tlb, h⟩ := reached_tlb s va a
  rw [h, hf]

theorem reached_h (s : State) (va : Nat) (a : Acc) : (reached s va a).h = s.h := reached_congr s va a (·.h) fun _ => rfl

theorem reached_mem (s : State) (va : Nat) (a : Acc) : (reached s va a).mem = s.mem := reached_congr s va a (·.mem) fun _ => rfl

theorem reached_scrOffset (s : State) (va : Nat) (a : Acc) : (reached s va a).scrOffset va = s.scrOffset va :=
  reached_congr s va a (·.scrOffset va) fun _ => rfl

theorem reached_mayRead {s : State} {buf lo n : Nat} (h : s.mayRead buf lo n) (va : Nat) (a : Acc) :
    (reached s va a).mayRead buf lo n :=
  (reached_congr s va a (·.mayRead buf lo n) fun _ => rfl).mpr h

theorem reached_mayWrite {s : State} {buf lo n : Nat} (h : s.mayWrite buf lo n) (va : Nat) (a : Acc) :
    (reached s va a).mayWrite buf lo n :=
  (reached_congr s va a (·.mayWrite buf lo n) fun _ => rfl).mpr h

/-! ## What a vector memory group leaves -/

/-- What a vector load or store leaves beside the bytes, the vector register and the flags that it writes. -/
def Keeps (s t : State) : Prop := SameX s t ∧ SameM s t ∧ SameK s t ∧ MemFrame s t ∧ EndOfBody s t

/-- Vector registers, flags, scratchpad and history of the issuing thread, memory, and what the lattice says of TLBs and caches
may differ; nothing else. -/
def MemGroup (s u : State) : Prop :=
  ∃ v scr hist fflags mem tlb cache dram writeBacks checks lost, u = { s with
    h := { s.h with
      t := { s.h.t with vec := { s.h.t.vec with v := v }, scr := scr, hist := hist }
      ctl := { s.h.ctl with fflags := fflags } }
    mem := mem
    lat := { s.lat with
      tlb := tlb, cache := cache, dram := dram, writeBacks := writeBacks, checks := checks, lost := lost } }

namespace MemGroup

theorem refl (s : State) : MemGroup s s := ⟨_, _, _, _, _, _, _, _, _, _, _, rfl⟩

theorem trans {s t u : State} (a : MemGroup s t) (b : MemGroup t u) : MemGroup s u := by
  obtain ⟨_, _, _, _, _, _, _, _, _, _, _, rfl⟩ := a
  obtain ⟨_, _, _, _, _, _, _, _, _, _, _, rfl⟩ := b
  exact ⟨_, _, _, _, _, _, _, _, _, _, _, rfl⟩

theorem of_reached (s : State) (va : Nat) (a : Acc) : MemGroup s (reached s va a) := by
  obtain ⟨tlb, h⟩ := reached_tlb s va a
  exact ⟨_, _, _, _, _, _, _, _, _, _, _, h⟩

theorem setV (s : State) (d : Fin 32) (v : VWord) : MemGroup s (s.setV d v) := ⟨_, _, _, _, _, _, _, _, _, _, _, rfl⟩

theorem addFlags (s : State) (rnd : Option Rnd) (f : Flags) : MemGroup s (s.addFlags rnd f) := ⟨_, _, _, _, _, _, _, _, _, _, _, rfl⟩

theorem putView (s : State) (buf o n v : Nat) : MemGroup s (s.putView buf o n v) := ⟨_, _, _, _, _, _, _, _, _, _, _, rfl⟩

theorem noteHist (s : State) (l : Leaf) (va n : Nat) (store : Bool) : MemGroup s (s.noteHist l va n store) := by
  obtain ⟨hist, h⟩ := noteHist_eq s l va n store
  exact ⟨_, _, _, _, _, _, _, _, _, _, _, h⟩

theorem putBytes (s : State) (l : Leaf) (va pa n v : Nat) : MemGroup s (s.putBytes l va pa n v) := by
  obtain ⟨_, _, _, _, _, _, h⟩ := putCached_frame s pa n v s.cluster
  exact MemGroup.trans ⟨_, _, _, _, _, _, _, _, _, _, _, h⟩ (noteHist _ l va n true)

/-- A vector memory group completes. -/
theorem retire {s u : State} (a : MemGroup s u) : Keeps s u.retire := by
  obtain ⟨fworld, fhart, frmode, fchk, fsptr, ftvec, ftepc, ftcause, ftaddr, fhandler⟩ := State.retire_frame u
  have hend := State.retire_endOfBody u
  have hx := State.retire_x u
  have hm := State.retire_m u
  have hk := State.retire_k u
  obtain ⟨_, _, _, _, _, _, _, _, _, _, _, rfl⟩ := a
  exact ⟨hx, hm, hk, ⟨rfl, rfl, rfl, rfl, rfl, fhart.id, fhart.task, fhart.post, fhart.rlt, fhart.rill, fhart.board,
    ⟨frmode, fchk, fsptr, ftvec, ftepc, ftcause, ftaddr, fhandler⟩⟩, hend.congr ⟨rfl, rfl, rfl, rfl, rfl, rfl⟩ rfl⟩

end MemGroup

/-! ## Checks of view bytes (R41, R54, R59 to R61, R135) -/

section
variable {s : State} {buf lo n : Nat}

theorem viewRead_ok (h : s.mayRead buf lo n) (va : Nat) (k : Out) : s.viewRead buf lo n va k = k := by
  obtain ⟨hin, hring, hland, hlock⟩ := h
  have hconflict : (s.h.t.scr.landings buf lo n).any (fun w => w.lstate == .conflict) = false :=
    List.any_eq_false.mpr fun w hw he => (hland w hw).1 (eq_of_beq he)
  have hgrowing : (s.h.t.scr.landings buf lo n).find? (fun w => w.lstate == .growing) = none :=
    List.find?_eq_none.mpr fun w hw he => (hland w hw).2 (eq_of_beq he)
  unfold State.viewRead State.locked
  dsimp only
  rw [hin, hring, if_neg (by decide), hlock]
  dsimp only
  rw [hconflict, if_neg (by decide), hgrowing]

theorem viewWrite_ok (h : s.mayWrite buf lo n) (va : Nat) (k : Out) : s.viewWrite buf lo n va k = k := by
  obtain ⟨hin, hring, harmed, hland, hlock⟩ := h
  unfold State.viewWrite State.locked
  dsimp only
  rw [hin, hring, harmed, hland, if_neg (by decide), hlock]

end

/-! ## Accesses through an alias window (R45 to R47) -/

/-- The scale byte of an access through a window: of the A.B48E4M3 window alone (Table 2.4). -/
def scaleByte (s : State) (win o : Nat) : Nat := if win = 5 then (Mem.read (s.h.t.scr.view 1) (s.scaleAt o)).toNat else 0

section
variable {s : State} {win o : Nat} (hal : o % winAlign win = 0) (hscale : win = 5 → s.mayRead 1 (s.scaleAt o) 1)
include hal hscale

theorem vldWin_ok (hread : s.mayRead (winBuf win) (winReach win o).1 (winReach win o).2) (va : Nat) (k : VWord × Flags → Out) :
    s.vldWin win o va k =
      k (winDecode win (Mem.readN (s.h.t.scr.view (winBuf win)) (winReach win o).1 (winReach win o).2) (scaleByte s win o)) := by
  unfold State.vldWin scaleByte
  dsimp only
  rw [if_neg (not_not_intro hal), viewRead_ok hread]
  by_cases hwin : win = 5
  · subst hwin
    rw [if_pos rfl, if_pos rfl, viewRead_ok (hscale rfl)]
    rfl
  · rw [if_neg hwin, if_neg hwin]

theorem vstWin_ok (hwrite : s.mayWrite (winBuf win) (winReach win o).1 (winReach win o).2) (va : Nat) (k : Nat → Out) :
    s.vstWin win o va k = k (scaleByte s win o) := by
  unfold State.vstWin scaleByte
  dsimp only
  rw [if_neg (not_not_intro hal), viewWrite_ok hwrite]
  by_cases hwin : win = 5
  · rw [if_pos hwin, if_pos hwin, viewRead_ok (hscale hwin)]
  · rw [if_neg hwin, if_neg hwin]

end

/-! ## Loads through the cluster cache (R83, R339) -/

/-- A load that is noted changes caches, with what they give up, and the thread's history. -/
theorem noteAccess_frame (s : State) (l : Leaf) (va pa n : Nat) : ∃ hist mem cache dram writeBacks, s.noteAccess l va pa n = { s with
    h := { s.h with t := { s.h.t with hist := hist } }
    mem := mem
    lat := { s.lat with cache := cache, dram := dram, writeBacks := writeBacks } } := by
  obtain ⟨hist, hnote⟩ := noteHist_eq (s.touch pa n false) l va n false
  obtain ⟨_, _, _, _, htouch⟩ := touchIn_cachesOnly s s.cluster pa n false
  rw [State.noteAccess, hnote, State.touch, htouch]
  exact ⟨_, _, _, _, _, rfl⟩

theorem noteAccess_keeps (s : State) (l : Leaf) (va pa n : Nat) : (s.noteAccess l va pa n).h.t.vec = s.h.t.vec ∧
    (s.noteAccess l va pa n).h.t.scr = s.h.t.scr ∧ (s.noteAccess l va pa n).h.ctl = s.h.ctl := by
  obtain ⟨_, _, _, _, _, h⟩ := noteAccess_frame s l va pa n
  rw [h]
  exact ⟨rfl, rfl, rfl⟩

theorem MemGroup.noteAccess (s : State) (l : Leaf) (va pa n : Nat) : MemGroup s (s.noteAccess l va pa n) := by
  obtain ⟨_, _, _, _, _, h⟩ := noteAccess_frame s l va pa n
  exact ⟨_, _, _, _, _, _, _, _, _, _, _, h⟩

/-- What a load of at most four lines leaves of memory. -/
theorem noteAccess_loadMem (s : State) (l : Leaf) (va : Nat) {pa n : Nat} (hlines : (linesOf pa n).length ≤ 4) :
    LoadMem s (s.noteAccess l va pa n) := by
  obtain ⟨hist, hnote⟩ := noteHist_eq (s.touch pa n false) l va n false
  have hroom (h : s.cacheRoom) := touchIn_room (s := s) (cluster := s.cluster) (pa := pa) (n := n) false (by
    have hfree : cached s s.cluster + 4 ≤ cacheLines := h
    omega)
  have hgives := touchIn_givesUp s s.cluster pa n false
  rw [State.noteAccess, hnote]
  exact ⟨fun h a => congrArg (Mem.read · a) (hroom h).1, fun a h => (hgives.apart a h).2, fun h => (hroom h).2, hgives.checks, hgives.lost⟩

theorem linesOf_192 (pa : Nat) : (linesOf pa 192).length ≤ 4 := by
  rw [length_linesOf]
  omega

/-! ## VLD (R290) -/

theorem vld_misaligned {s : State} {d : Fin 32} (h : Unbound s [d]) (w : Option (Fin 4)) {a : Fin 32} {imm : BitVec 34}
    (hal : s.va a imm % 64 ≠ 0) : execVld w d a imm s = .next (s.takeTrap { cause := 7, addr := s.va a imm }) := by
  unfold execVld
  dsimp only
  rw [withPops_append (dst := [d]) (src := []) h, if_pos hal]
  rfl

theorem vst_misaligned {s : State} (w : Option (Fin 4)) (rnd : Option Rnd) (d : Fin 32) {a : Fin 32} {imm : BitVec 34}
    (hal : s.va a imm % 64 ≠ 0) : execVst w rnd d a imm s = .next (s.takeTrap { cause := 7, addr := s.va a imm }) :=
  if_pos hal

section
variable {s : State} {w : Option (Fin 4)} {d a : Fin 32} {imm : BitVec 34} {l : Leaf} {pa : Nat}

/-- What a vector access meets first: its address, its counters, its page and the accesses before it. -/
structure Aligned (s : State) (w : Option (Fin 4)) (va : Nat) (l : Leaf) : Prop where
  align : va % 64 = 0
  clear : s.h.t.post.clear (waitOfPfx w) = true
  page : va + 192 ≤ l.va + pageBytes l.size
  later : s.h.t.post.later = []

section
variable (h : Unbound s [d]) (hal : Aligned s w (s.va a imm) l) (hlock : lockJudge false 0 (s.va a imm) 192 s.locks = .ok)
  (hreach : s.reaches (s.va a imm) .load = .ok l pa)
include h hal hlock hreach

/-- A load whose page lets it through reads memory or goes through the window that the page maps. -/
theorem vld_reached :
    let va := s.va a imm
    let t := reached s va .load
    execVld w d a imm s =
      if l.kind = 5 then t.vldWin l.win (t.scrOffset va) va fun p => .next ((t.setV d p.1).addFlags none p.2).retire
      else if t.isLost pa 192 then t.lose va (t.lossD0 pa 192 ||| 0)
      else if t.fillWaits t.cluster pa 192 then .next (t.block (.bank pa))
      else .next ((t.noteAccess l va pa 192).setV d (BitVec.ofNat 1536 (Mem.readN t.mem pa 192))).retire := by
  obtain ⟨halign, hclear, hpage, hlater⟩ := hal
  unfold execVld State.held State.locked
  dsimp only
  rw [withPops_append (dst := [d]) (src := []) h, if_neg (not_not_intro halign), if_pos hclear, hlock]
  dsimp only
  rw [access_ok hlater hreach]
  unfold State.secondPage
  rw [if_pos (show s.va a imm + 192 ≤ l.stop from hpage)]
  rfl

theorem vld_reads (hkind : l.kind ≠ 5) (hlost : s.isLost pa 192 = false) (hfills : s.fills pa 192) : execVld w d a imm s = .next
    (((reached s (s.va a imm) .load).noteAccess l (s.va a imm) pa 192).setV d (BitVec.ofNat 1536 (Mem.readN s.mem pa 192))).retire := by
  have hlost' : (reached s (s.va a imm) .load).isLost pa 192 = false := (reached_congr s _ _ (·.isLost pa 192) fun _ => rfl).trans hlost
  have hfills' : (reached s (s.va a imm) .load).fillWaits (reached s (s.va a imm) .load).cluster pa 192 = false :=
    (reached_congr s _ _ (fun t => t.fillWaits t.cluster pa 192) fun _ => rfl).trans hfills
  rw [vld_reached h hal hlock hreach, if_neg hkind, hlost', if_neg (by decide), hfills', if_neg (by decide), reached_mem]

theorem vld_memory (hkind : l.kind ≠ 5) (hlost : s.isLost pa 192 = false) (hfills : s.fills pa 192) :
    Answers (execVld w d a imm s) fun t => VAfter s t d (BitVec.ofNat 1536 (Mem.readN s.mem pa 192)) ∧ LoadMem s t ∧ SameFlags s t ∧
      t.h.t.scr = s.h.t.scr ∧ Keeps s t := by
  have hload := noteAccess_loadMem (reached s (s.va a imm) .load) l (s.va a imm) (linesOf_192 pa)
  have hgroup := ((MemGroup.of_reached s (s.va a imm) .load).trans (MemGroup.noteAccess _ l (s.va a imm) pa 192)).trans
    (MemGroup.setV _ d (BitVec.ofNat 1536 (Mem.readN s.mem pa 192)))
  obtain ⟨hvec, hscr, hctl⟩ := noteAccess_keeps (reached s (s.va a imm) .load) l (s.va a imm) pa 192
  rw [reached_h] at hvec hscr hctl
  refine ⟨_, vld_reads h hal hlock hreach hkind hlost hfills, fun r => ?_, ?_, ?_, (State.retire_frame _).hart.scr.trans hscr, hgroup.retire⟩
  · rw [State.retire_v, State.v_setV, State.v, hvec, State.v]
  · obtain ⟨tlb, ht⟩ := reached_tlb s (s.va a imm) .load
    rw [ht] at hload ⊢
    exact ⟨hload.room, hload.apart, hload.writeBacks, hload.checks, hload.lost⟩
  · exact (State.retire_fflags _).trans (congrArg Ctl.fflags hctl)

theorem vld_window {o : Nat} (ho : o = s.scrOffset (s.va a imm)) (hkind : l.kind = 5) (halign : o % winAlign l.win = 0)
    (hread : s.mayRead (winBuf l.win) (winReach l.win o).1 (winReach l.win o).2) (hscale : l.win = 5 → s.mayRead 1 (s.scaleAt o) 1)
    {r : VWord × Flags} (hr : r = winDecode l.win (Mem.readN (s.h.t.scr.view (winBuf l.win)) (winReach l.win o).1 (winReach l.win o).2)
      (scaleByte s l.win o)) :
    Answers (execVld w d a imm s) fun t => VAfter s t d r.1 ∧ FlagsAfter s t (r.2.zeroExtend 64) ∧ SameMem s t ∧
      t.h.t.scr = s.h.t.scr ∧ Keeps s t := by
  have hexec : execVld w d a imm s = .next (((reached s (s.va a imm) .load).setV d r.1).addFlags none r.2).retire := by
    have hscale' (hwin : l.win = 5) : (reached s (s.va a imm) .load).mayRead 1 ((reached s (s.va a imm) .load).scaleAt o) 1 := by
      rw [State.scaleAt, reached_h]
      exact reached_mayRead (hscale hwin) _ _
    have hbyte : scaleByte (reached s (s.va a imm) .load) l.win o = scaleByte s l.win o := reached_congr s _ _ (scaleByte · l.win o) fun _ => rfl
    rw [vld_reached h hal hlock hreach, if_pos hkind, reached_scrOffset, ← ho, vldWin_ok halign hscale' (reached_mayRead hread _ _), hbyte,
      reached_h, ← hr]
  have hgroup := ((MemGroup.of_reached s (s.va a imm) .load).trans (MemGroup.setV _ d r.1)).trans (MemGroup.addFlags _ none r.2)
  refine ⟨_, hexec, fun r' => ?_, ?_, fun b => ?_, ?_, hgroup.retire⟩
  · refine (State.retire_v _ r').trans ((State.v_setV _ d r' r.1).trans ?_)
    rw [State.v, reached_h, State.v]
  · refine (State.retire_fflags _).trans ?_
    exact (congrArg (fun h : Hart => h.ctl.fflags ||| r.2.zeroExtend 64) (reached_h s _ _) :)
  · exact congrArg (Mem.read · b) (reached_mem s _ _)
  · exact (State.retire_frame _).hart.scr.trans (congrArg (fun h : Hart => h.t.scr) (reached_h s _ _) :)

end

/-! ## Stores that their core lets go at once (R33, R297) -/

/-- A translation does not look at harts. -/
theorem translate_withHart (s : State) (g : Hart) (core : Option Nat) (die ctx task va : Nat) (a : Acc) :
    (({ s with h := g } : State).translate core die ctx task va a).2 = (s.translate core die ctx task va a).2 := by
  have htlb : ({ s with h := g } : State).tlbFind core die ctx va = s.tlbFind core die ctx va := rfl
  have hlost : ({ s with h := g } : State).lostEntry ctx va = s.lostEntry ctx va := rfl
  have hwalk : ({ s with h := g } : State).walk ctx va = s.walk ctx va := rfl
  unfold State.translate
  rw [htlb, hlost, hwalk]
  split
  · rfl
  · split
    · rfl
    · split
      · rfl
      · split
        · rfl
        · rfl

section
variable {s : State} {va n : Nat} {l : Leaf} {pa : Nat}

theorem reaches_setLater (s : State) (k : List Later) (va : Nat) (a : Acc) : (s.setLater k).reaches va a = s.reaches va a :=
  translate_withHart s _ _ _ _ _ _ _

/-- A store to one page that lets it through, and whose lines DRAM can give, writes its bytes. -/
theorem turnStore_lands (hreach : s.reaches va .store = .ok l pa) (hpage : va + n ≤ l.stop) (hstores : s.stores pa n) (q : Later) (v : Nat) :
    s.turnStore q va n v = ((reached s va .store).putBytes l va pa n v, none) := by
  have htrans : s.laterTrans { q with bank := none } va .store = (reached s va .store, .ok l pa) := by
    unfold State.reaches at hreach
    unfold State.laterTrans
    dsimp only
    rw [hreach]
    rfl
  have hwaits : (reached s va .store).storeWaits (reached s va .store).cluster pa n = false :=
    (reached_congr s _ _ (fun t => t.storeWaits t.cluster pa n) fun _ => rfl).trans hstores
  unfold State.turnStore
  dsimp only
  rw [htrans]
  dsimp only
  rw [if_pos hpage]
  unfold State.landStore
  dsimp only
  rw [if_pos Option.isNone_none, hwaits, if_neg (by decide)]
  rfl

/-- The core lets a store go that is its only access. -/
theorem give_lands (hgo : s.letsGo) (hreach : s.reaches va .store = .ok l pa) (hpage : va + n ≤ l.stop) (hstores : s.stores pa n)
    {q : Later} {v : Nat} (hq : q.what = .store va n v) :
    s.give q = ((reached (s.setLater [q]) va .store).putBytes l va pa n v).setLater [] := by
  obtain ⟨hlater, hstop⟩ := hgo
  have hturn : (s.setLater [q]).turn q = ((reached (s.setLater [q]) va .store).putBytes l va pa n v, none) := by
    unfold State.turn
    rw [hq]
    dsimp only
    exact turnStore_lands (s := s.setLater [q]) ((reaches_setLater s _ _ _).trans hreach) hpage hstores q v
  have hstop' : (s.setLater [q]).isStopping (s.setLater [q]).h.task.ctx = false := hstop
  unfold State.give
  rw [hlater, List.nil_append]
  unfold State.flush
  rw [show (s.setLater [q]).h.t.post.later = [q] from rfl, hstop', if_neg (by simp)]
  show State.runLater 3 (s.setLater [q]) = _
  rw [State.runLater, show (s.setLater [q]).h.t.post.later = [q] from rfl]
  dsimp only
  rw [hturn]
  rfl

end

/-! ## VST (R291, R297) -/

theorem MemGroup.setLater {s u : State} {q : Later} (hlater : s.h.t.post.later = []) (a : MemGroup (s.setLater [q]) u) :
    MemGroup s (u.setLater []) := by
  have hnone : s.setLater [] = s := by
    rw [← hlater]
    rfl
  have hgroup : MemGroup (s.setLater []) (u.setLater []) := by
    obtain ⟨_, _, _, _, _, _, _, _, _, _, _, rfl⟩ := a
    exact ⟨_, _, _, _, _, _, _, _, _, _, _, rfl⟩
  rwa [hnone] at hgroup

theorem putBytes_keeps (s : State) (l : Leaf) (va pa n v : Nat) : (s.putBytes l va pa n v).h.t.vec = s.h.t.vec ∧
    (s.putBytes l va pa n v).h.t.scr = s.h.t.scr ∧ (s.putBytes l va pa n v).h.ctl = s.h.ctl := by
  obtain ⟨_, _, _, _, _, _, hput⟩ := putCached_frame s pa n v s.cluster
  obtain ⟨_, hnote⟩ := noteHist_eq (s.putCached s.cluster pa n v) l va n true
  rw [State.putBytes, hnote, hput]
  exact ⟨rfl, rfl, rfl⟩

/-- The bytes of memory after a store of at most four lines that its core lets go. -/
theorem putBytes_storeMem {s : State} {pa n v : Nat} (l : Leaf) (va : Nat) (hwf : Mem.wf s.mem = true)
    (hlines : (linesOf pa n).length ≤ 4) (hv : v < 256 ^ n) : StoreMem s (s.putBytes l va pa n v) pa n v := by
  obtain ⟨_, hnote⟩ := noteHist_eq (s.putCached s.cluster pa n v) l va n true
  have hstore := putCached_storeMem hwf hlines hv
  rw [State.putBytes, hnote]
  exact ⟨hstore.holds, hstore.room, hstore.lines, hstore.apart⟩

theorem toNat_lt_pow_bytes {n : Nat} (v : BitVec (8 * n)) : v.toNat < 256 ^ n := lt_of_lt_of_eq v.isLt (Nat.pow_mul 2 8 n)

section
variable (h : Unbound s [d]) (hal : Aligned s w (s.va a imm) l) (hlock : lockJudge true 0 (s.va a imm) 192 s.locks = .ok)
  (hreach : s.reaches (s.va a imm) .store = .ok l pa)
include h hal hlock hreach

/-- A store through a window encodes the register into the bytes of the view that it reaches. -/
theorem vst_window {o : Nat} (ho : o = s.scrOffset (s.va a imm)) (hscr : s.onScr (s.va a imm) = true) (halign : o % winAlign l.win = 0)
    (hwrite : s.mayWrite (winBuf l.win) (winReach l.win o).1 (winReach l.win o).2) (hscale : l.win = 5 → s.mayRead 1 (s.scaleAt o) 1)
    (hwf : Mem.wf (s.h.t.scr.view (winBuf l.win)) = true) (rnd : Option Rnd) {e : Nat × Flags}
    (he : e = winEncode l.win (scaleByte s l.win o) (s.v d) (s.rnd rnd)) :
    let b := winBuf l.win
    let q := winReach l.win o
    Answers (execVst w rnd d a imm s) fun t => Mem.readN (t.h.t.scr.view b) q.1 q.2 = e.1 % 2 ^ (8 * q.2) ∧
      SameOutside (s.h.t.scr.view b) (t.h.t.scr.view b) q.1 q.2 ∧ SameButView s t b ∧
      FlagsAfter s t ((unmasked rnd e.2).zeroExtend 64) ∧ SameMem s t ∧ SameV s t ∧ Keeps s t := by
  intro b q
  have hexec : execVst w rnd d a imm s =
      .next (((reached s (s.va a imm) .store).putView b q.1 q.2 e.1).addFlags rnd e.2).retire := by
    obtain ⟨halign', hclear, hpage, hlater⟩ := hal
    have hscale' (hwin : l.win = 5) : (reached s (s.va a imm) .store).mayRead 1 ((reached s (s.va a imm) .store).scaleAt o) 1 := by
      rw [State.scaleAt, reached_h]
      exact reached_mayRead (hscale hwin) _ _
    have hbyte : scaleByte (reached s (s.va a imm) .store) l.win o = scaleByte s l.win o := reached_congr s _ _ (scaleByte · l.win o) fun _ => rfl
    have hbound : Unbound (reached s (s.va a imm) .store) [d] := (reached_congr s _ _ (Unbound · [d]) fun _ => rfl).mpr h
    unfold execVst State.held State.locked
    dsimp only
    rw [if_neg (not_not_intro halign'), if_pos hclear, hlock]
    dsimp only
    rw [if_pos hscr, access_ok hlater hreach]
    unfold State.secondPage
    rw [if_pos (show s.va a imm + 192 ≤ l.stop from hpage)]
    dsimp only
    rw [reached_scrOffset, ← ho,
      vstWin_ok halign hscale' (reached_mayWrite hwrite _ _), hbyte, withPops_append (dst := []) hbound, State.v, State.rnd, reached_h,
      ← State.v, ← State.rnd, ← he, reached_scrOffset, ← ho]
  have hgroup := ((MemGroup.of_reached s (s.va a imm) .store).trans (MemGroup.putView _ b q.1 q.2 e.1)).trans (MemGroup.addFlags _ rnd e.2)
  have hscr : (((reached s (s.va a imm) .store).putView b q.1 q.2 e.1).addFlags rnd e.2).retire.h.t.scr =
      s.h.t.scr.setView b (Mem.writeN (s.h.t.scr.view b) q.1 q.2 e.1) :=
    (State.retire_frame _).hart.scr.trans
      (congrArg (fun h : Hart => h.t.scr.setView b (Mem.writeN (h.t.scr.view b) q.1 q.2 e.1)) (reached_h s _ _) :)
  refine ⟨_, hexec, ?_, fun o' ho' => ?_, ?_, ?_, fun b => ?_, fun r => ?_, hgroup.retire⟩
  · rw [hscr, view_setView, Mem.readN_writeN hwf, Nat.pow_mul]
  · rw [hscr, view_setView, Mem.read_writeN_out hwf _ _ _ ho']
  · rw [SameButView, hscr, view_setView]
  · refine (State.retire_fflags _).trans ?_
    exact (congrArg (fun h : Hart => h.ctl.fflags ||| (unmasked rnd e.2).zeroExtend 64) (reached_h s _ _) :)
  · exact congrArg (Mem.read · b) (reached_mem s _ _)
  · rw [State.retire_v]
    exact (congrArg (fun h : Hart => h.t.vec.v[r]) (reached_h s _ _) :)

/-- A store to memory is taken in by its core, which lets it go at once. -/
theorem vst_gives (hscr : s.onScr (s.va a imm) = false) (hgo : s.letsGo) (hstores : s.stores pa 192) (rnd : Option Rnd) :
    ∃ q, execVst w rnd d a imm s = .next
      (((reached (s.setLater [q]) (s.va a imm) .store).putBytes l (s.va a imm) pa 192 (s.v d).toNat).setLater []).retire := by
  obtain ⟨halign, hclear, hpage, -⟩ := hal
  unfold execVst State.held State.locked
  dsimp only
  rw [if_neg (not_not_intro halign), if_pos hclear, hlock]
  dsimp only
  rw [hscr, if_neg (by decide), withPops_append (dst := []) h, State.giveStore, give_lands hgo hreach hpage hstores rfl]
  exact ⟨_, rfl⟩

theorem vst_memory (hscr : s.onScr (s.va a imm) = false) (hgo : s.letsGo) (hstores : s.stores pa 192) (hwf : Mem.wf s.mem = true)
    (rnd : Option Rnd) :
    Answers (execVst w rnd d a imm s) fun t => StoreMem s t pa 192 (s.v d).toNat ∧ SameFlags s t ∧ t.h.t.scr = s.h.t.scr ∧
      SameV s t ∧ Keeps s t := by
  obtain ⟨q, hexec⟩ := vst_gives h hal hlock hreach hscr hgo hstores rnd
  obtain ⟨hlater, -⟩ := hgo
  obtain ⟨tlb, ht⟩ := reached_tlb (s.setLater [q]) (s.va a imm) .store
  have hgroup := MemGroup.setLater hlater ((MemGroup.of_reached (s.setLater [q]) (s.va a imm) .store).trans
    (MemGroup.putBytes _ l (s.va a imm) pa 192 (s.v d).toNat))
  rw [ht] at hexec hgroup
  have hstore := putBytes_storeMem (s := { s.setLater [q] with lat := { s.lat with tlb := tlb } }) l (s.va a imm) hwf (linesOf_192 pa)
    (toNat_lt_pow_bytes (n := 192) (s.v d))
  obtain ⟨hvec, hscr', hctl⟩ := putBytes_keeps { s.setLater [q] with lat := { s.lat with tlb := tlb } } l (s.va a imm) pa 192 (s.v d).toNat
  refine ⟨_, hexec, ⟨hstore.holds, hstore.room, hstore.lines, hstore.apart⟩, ?_, ?_, fun r => ?_, hgroup.retire⟩
  · exact (State.retire_fflags _).trans (congrArg Ctl.fflags hctl)
  · exact (State.retire_frame _).hart.scr.trans hscr'
  · exact (State.retire_v _ r).trans (congrArg (·.v[r]) hvec)

end

end

/-! ## VSPILL and VFILL (R62, R293) -/

theorem mem_assocSet_same {α : Type} (k : Nat) (v : α) (l : List (Nat × α)) : (k, v) ∈ assocSet k v l := by
  induction l with
  | nil => exact List.mem_singleton_self _
  | cons c l ih =>
    obtain ⟨j, w⟩ := c
    rw [assocSet]
    split
    · exact List.mem_cons_self
    · exact List.mem_cons_of_mem _ ih

/-- A slot that is placed has a place, and nothing else of the thread differs. -/
theorem placeSpill_places (s : State) (slot : Nat) : ∃ m, s.placeSpill slot = s.setScr { s.h.t.scr with spillMap := m } ∧
    ∃ p, (slot, p) ∈ m := by
  unfold State.placeSpill
  split
  · next h =>
    obtain ⟨⟨k, p⟩, hx, hk⟩ := List.any_eq_true.mp h
    obtain rfl : k = slot := eq_of_beq hk
    exact ⟨s.h.t.scr.spillMap, rfl, p, hx⟩
  · exact ⟨_, rfl, _, mem_assocSet_same _ _ _⟩

section
variable {s : State} {r : Fin 32} {slot : Fin 512}

theorem spill_illegal (h : 63 < slot.val) : execVspill r slot s = .next (s.takeTrap { cause := 1, addr := s.word0 }) ∧
    execVfill r slot s = .next (s.takeTrap { cause := 1, addr := s.word0 }) := ⟨if_pos h, if_pos h⟩

theorem vfill_writes (hslot : slot.val ≤ 63) (h : Unbound s [r]) :
    WritesVF (execVfill r slot s) s r (assocGet 0 slot.val s.h.t.scr.spill) 0 := by
  rw [execVfill, if_neg (by omega), withPops_append (dst := [r]) (src := []) h]
  exact writesVF_vresult s r _

theorem vspill_stores (hslot : slot.val ≤ 63) (h : Unbound s [r]) : Answers (execVspill r slot s) fun t =>
    t.h.t.scr = { s.h.t.scr with spill := t.h.t.scr.spill, spillMap := t.h.t.scr.spillMap } ∧
    (∃ p, (slot.val, p) ∈ t.h.t.scr.spillMap) ∧
    (∀ n, assocGet 0 n t.h.t.scr.spill = if n = slot.val then s.v r else assocGet 0 n s.h.t.scr.spill) ∧
    SameX s t ∧ SameV s t ∧ SameM s t ∧ SameK s t ∧ SameFlags s t ∧ SameWorld s t ∧ SameCtl s t ∧ EndOfBody s t := by
  obtain ⟨m, hplace, p, hp⟩ := placeSpill_places
    (s.setScr { s.h.t.scr with spill := assocSet slot.val (s.v r) s.h.t.scr.spill }) slot.val
  have hexec : execVspill r slot s = .next
      (s.setScr { s.h.t.scr with spill := assocSet slot.val (s.v r) s.h.t.scr.spill, spillMap := m }).retire := by
    rw [execVspill, if_neg (by omega), withPops_append (dst := []) (src := [r]) h, hplace]
    rfl
  obtain ⟨⟨hx, hm, hk, hflags, -, hctl, hend⟩, hv, hscr⟩ :=
    (setScr_scrOnly s { s.h.t.scr with spill := assocSet slot.val (s.v r) s.h.t.scr.spill, spillMap := m }).retire
  refine ⟨_, hexec, ?_, ⟨p, ?_⟩, fun n => ?_, hx, hv, hm, hk, hflags, ?_, hctl, hend⟩
  · rw [hscr]
  · rw [hscr]
    exact hp
  · rw [hscr]
    dsimp only
    by_cases hn : n = slot.val
    · rw [if_pos hn, hn, assocGet_assocSet_same]
    · rw [if_neg hn, assocGet_assocSet_ne _ hn]
  · refine sameWorld_trans ?_ (State.retire_frame _).world
    exact ⟨fun _ => rfl, rfl, rfl, rfl, rfl, rfl⟩

end

/-- Settles O25: a vector access lets its page decide between memory and a window; what a store leaves of memory is the rule of the
cluster caches, and what one through a window leaves is the rule of a view's bytes. -/
theorem vectorLoadsStoresAndSpills : Obligations.VectorLoadsStoresAndSpills := by
  refine ⟨fun s w rnd d a imm l pa hcan h => ?_, fun s r slot => ?_⟩
  · dsimp only [exec]
    refine ⟨fun hal _ => ⟨vld_misaligned h w hal, vst_misaligned w rnd d hal⟩, fun hal hclear hpage hlater =>
      ⟨fun hlock hreach => ⟨fun hkind hlost hfills => vld_memory h ⟨hal, hclear, hpage, hlater⟩ hlock hreach hkind hlost hfills,
        fun hkind halign hread hscale r hr => vld_window h ⟨hal, hclear, hpage, hlater⟩ hlock hreach rfl hkind halign hread hscale hr⟩,
      fun hlock hreach => ⟨fun hscr hgo hstores =>
          vst_memory h ⟨hal, hclear, hpage, hlater⟩ hlock hreach hscr hgo hstores hcan.mem rnd,
        fun hkind hscr halign hwrite hscale e he =>
          vst_window h ⟨hal, hclear, hpage, hlater⟩ hlock hreach rfl hscr halign hwrite hscale (view_wf hcan.h _) rnd he⟩⟩⟩
  · dsimp only [exec]
    exact ⟨spill_illegal, fun hslot h => ⟨vspill_stores hslot h, vfill_writes hslot h⟩⟩

end Sys2Proof.VectorMemory
end

section
/-! PROOFS. Scalar loads (R28, R34, R296): O22. -/

namespace Sys2Proof.ScalarMemory

open Sys2Proof Sys2Proof.Machine Sys2Proof.LatticeCells Sys2Proof.HaltGroups Sys2Proof.ChildOps Sys2Proof.TokenMoves
  Sys2Proof.ScalarResults Sys2Proof.MemFences Sys2Proof.CachedStores Sys2Proof.VectorMemory

/-! ## What a read of memory leaves -/

/-- The bytes of an access of up to 192 bytes lie in at most four lines. -/
theorem linesOf_le_four (pa : Nat) {n : Nat} (hn : n ≤ 192) : (linesOf pa n).length ≤ 4 := by
  rw [length_linesOf]
  omega

theorem loadMem_world {s u t : State} (h : LoadMem s u) (w : SameWorld u t) : LoadMem s t :=
  ⟨fun hr a => (w.mem a).trans (h.room hr a), fun a ha => (w.mem a).trans (h.apart a ha),
    fun hr => (congrArg Lattice.writeBacks w.lat).trans (h.writeBacks hr), (congrArg Lattice.checks w.lat).trans h.checks,
    (congrArg Lattice.lost w.lat).trans h.lost⟩

/-- A translation reads no byte through the caches. -/
theorem loadMem_reached (s : State) (va : Nat) (a : Acc) : LoadMem s (reached s va a) := by
  obtain ⟨tlb, h⟩ := reached_tlb s va a
  rw [h]
  exact ⟨fun _ _ => rfl, fun _ _ => rfl, fun _ => rfl, rfl, rfl⟩

theorem loadMem_of_reached {s u : State} {va : Nat} {a : Acc} (h : LoadMem (reached s va a) u) : LoadMem s u := by
  obtain ⟨tlb, hr⟩ := reached_tlb s va a
  rw [hr] at h
  exact ⟨h.room, h.apart, h.writeBacks, h.checks, h.lost⟩

/-- What a memory group leaves, once a write of registers has completed it. -/
theorem memFrame_of_group {s u t : State} (a : MemGroup s u) (f : RegFrame u t) : MemFrame s t := by
  obtain ⟨world, hart, rmode, chk, sptr, tvec, tepc, tcause, taddr, handler⟩ := f
  obtain ⟨_, _, _, _, _, _, _, _, _, _, _, rfl⟩ := a
  exact ⟨by rw [world.lat], world.work, world.dev, world.harts, world.free, hart.id, hart.task, hart.post, hart.rlt, hart.rill,
    hart.board, ⟨rmode, chk, sptr, tvec, tepc, tcause, taddr, handler⟩⟩

/-! ## Loads of the issuing thread (R296, Table 12.2) -/

/-- The state in which a load that is let through has its bytes. -/
def loaded (s : State) (va n : Nat) (l : Leaf) (pa : Nat) : State :=
  if l.kind = 5 then reached s va .load else (reached s va .load).noteAccess l va pa n

theorem loaded_group (s : State) (va n : Nat) (l : Leaf) (pa : Nat) : MemGroup s (loaded s va n l pa) := by
  have hreached := MemGroup.of_reached s va .load
  unfold loaded
  split
  · exact hreached
  · exact hreached.trans (MemGroup.noteAccess _ l va pa n)

/-- A load leaves registers, the scratchpad and the control registers until its result is written. -/
theorem loaded_keeps (s : State) (va n : Nat) (l : Leaf) (pa : Nat) : (loaded s va n l pa).h.t.vec = s.h.t.vec ∧
    (loaded s va n l pa).h.t.scr = s.h.t.scr ∧ (loaded s va n l pa).h.ctl = s.h.ctl := by
  unfold loaded
  split
  · rw [reached_h]
    exact ⟨rfl, rfl, rfl⟩
  · have h := noteAccess_keeps (reached s va .load) l va pa n
    rwa [reached_h] at h

theorem loaded_loadMem (s : State) (va : Nat) {n : Nat} (l : Leaf) (pa : Nat) (hn : n ≤ 192) : LoadMem s (loaded s va n l pa) := by
  unfold loaded
  split
  · exact loadMem_reached s va .load
  · exact loadMem_of_reached (noteAccess_loadMem _ l va (linesOf_le_four pa hn))

/-- A load through a window reads no memory. -/
theorem loaded_window_sameMem (s : State) (va n : Nat) {l : Leaf} (pa : Nat) (hkind : l.kind = 5) : SameMem s (loaded s va n l pa) := by
  intro b
  rw [loaded, if_pos hkind, reached_mem]

/-- A load that may read its bytes goes on with them. -/
theorem loadFrom_loads {s : State} {va n v : Nat} (h : s.loads va n v) : ∃ l pa, s.reaches va .load = .ok l pa ∧
    ∀ k, s.loadFrom va n k = k v (loaded s va n l pa) := by
  obtain ⟨hlock, hlater, l, pa, hreach, hbytes⟩ := h
  refine ⟨l, pa, hreach, fun k => ?_⟩
  unfold State.loadFrom State.locked loaded
  rw [hlock]
  dsimp only
  rw [access_ok hlater hreach]
  rcases hbytes with ⟨hkind, hlost, hfills, hv⟩ | ⟨hkind, hraw, hread, hv⟩
  · have hlost' : (reached s va .load).isLost pa n = false := (reached_congr s _ _ (·.isLost pa n) fun _ => rfl).trans hlost
    have hfills' : (reached s va .load).fillWaits (reached s va .load).cluster pa n = false :=
      (reached_congr s _ _ (fun t => t.fillWaits t.cluster pa n) fun _ => rfl).trans hfills
    rw [if_neg hkind, if_neg hkind, hlost', if_neg (by decide), hfills', if_neg (by decide), reached_mem, ← hv]
  · rw [if_pos hkind, if_pos hkind, if_pos hraw, reached_scrOffset, viewRead_ok (reached_mayRead hread _ _), reached_h, ← hv]

/-- A load whose translation ends in a fault that is not repaired traps (R34). -/
theorem loadFrom_fault {s : State} {va n c : Nat} (hlater : s.h.t.post.later = []) (hlock : lockJudge false 0 va n s.locks = .ok)
    (hreach : s.reaches va .load = .fault c) (hc : c ≠ 1) (k : Nat → State → Out) :
    s.loadFrom va n k = .next ((reached s va .load).takeTrap (faultTrap c va)) := by
  unfold State.reaches at hreach
  unfold State.loadFrom State.locked State.access
  rw [hlock, hlater]
  dsimp only
  rw [List.isEmpty_nil, if_neg (by decide), hreach]
  exact if_neg hc

section
variable {s : State} {w : Option (Fin 4)} (d : Fin 32) {a : Fin 32} {imm : BitVec 34} {n : Nat} (ext : Nat → Word)

theorem ld_misaligned (hal : s.va a imm % n ≠ 0) : s.ld w d a imm n ext = .next (s.takeTrap { cause := 7, addr := s.va a imm }) :=
  if_pos hal

/-- An aligned load whose counters are clear reads its bytes. -/
theorem ld_held (hal : s.va a imm % n = 0) (hclear : s.h.t.post.clear (waitOfPfx w) = true) :
    s.ld w d a imm n ext = s.loadFrom (s.va a imm) n fun v t => t.result d (ext v) := by
  unfold State.ld State.held
  rw [if_neg (not_not_intro hal), if_pos hclear]

theorem ld_loads (hal : s.va a imm % n = 0) (hclear : s.h.t.post.clear (waitOfPfx w) = true) (hn : n ≤ 8) {v : Nat}
    (h : s.loads (s.va a imm) n v) : Answers (s.ld w d a imm n ext) fun t =>
      XAfter s t d (ext v) ∧ SameV s t ∧ SameM s t ∧ SameK s t ∧ SameFlags s t ∧ LoadMem s t ∧
      (∀ l pa, s.reaches (s.va a imm) .load = .ok l pa → l.kind = 5 → SameMem s t) ∧ t.h.t.scr = s.h.t.scr ∧ MemFrame s t ∧
      EndOfBody s t := by
  obtain ⟨l, pa, hreach, hload⟩ := loadFrom_loads h
  have hgroup := loaded_group s (s.va a imm) n l pa
  obtain ⟨hvec, hscr, hctl⟩ := loaded_keeps s (s.va a imm) n l pa
  obtain ⟨t, ht, hx, hv, hm, hk, hflags, hframe, hend⟩ := State.result_writes (loaded s (s.va a imm) n l pa) d (ext v)
  have hx' (r : Fin 32) : (loaded s (s.va a imm) n l pa).x r = s.x r := by
    obtain ⟨_, _, _, _, _, _, _, _, _, _, _, hu⟩ := hgroup
    rw [hu]
    rfl
  refine ⟨t, by rw [ld_held d ext hal hclear, hload, ht], fun r => by rw [hx, hx'], fun r => ?_, fun r => ?_, fun r => ?_, ?_,
    loadMem_world (loaded_loadMem s _ l pa (by omega)) hframe.world, fun l' pa' hreach' hkind b => ?_, ?_, memFrame_of_group hgroup hframe,
    hend.congr (by simp only [hctl, and_self]) ?_⟩
  · rw [hv, State.v, hvec, State.v]
  · rw [hm, State.m, hvec, State.m]
  · rw [hk, State.k, hvec, State.k]
  · exact hflags.trans (congrArg Ctl.fflags hctl)
  · obtain ⟨rfl, rfl⟩ := TRes.ok.inj (hreach.symm.trans hreach')
    exact (hframe.world.mem b).trans (loaded_window_sameMem s _ n pa hkind b)
  · exact hframe.hart.scr.trans hscr
  · obtain ⟨_, _, _, _, _, _, _, _, _, _, _, hu⟩ := hgroup
    rw [hu]
    rfl

theorem ld_fault (hal : s.va a imm % n = 0) (hclear : s.h.t.post.clear (waitOfPfx w) = true) (hlater : s.h.t.post.later = [])
    (hlock : lockJudge false 0 (s.va a imm) n s.locks = .ok) {c : Nat} (hreach : s.reaches (s.va a imm) .load = .fault c) (hc : c ≠ 1) :
    Answers (s.ld w d a imm n ext) fun t => ∃ u, t = u.takeTrap (faultTrap c (s.va a imm)) ∧ u.h = s.h ∧ SameMem s u := by
  refine ⟨_, by rw [ld_held d ext hal hclear, loadFrom_fault hlater hlock hreach hc], _, rfl, reached_h _ _ _, fun b => ?_⟩
  rw [reached_mem]

end

theorem sextW_eq (n : Nat) : sextW n = fun v => BitVec.ofInt 64 (BitVec.ofNat n v).toInt :=
  funext fun v => congrArg (BitVec.ofInt 64) (sextNat_eq_toInt v n)

/-- Settles O22: a load writes what it reads of memory or of a view, through one rule for every width. -/
theorem loadsReadMemory : Obligations.LoadsReadMemory := by
  intro s w d a imm va ok sx
  have hok (i : Instr) (n : Nat) (ext : Nat → Word) (hi : exec i s = s.ld w d a imm n ext) (hn : n ≤ 8) : ok i n ext := by
    refine ⟨fun hal => hi.trans (ld_misaligned d ext hal), fun v hal hclear h => ?_, fun c hal hclear hlater hlock hreach hc => ?_⟩
    · rw [hi]
      exact ld_loads d ext hal hclear hn h
    · rw [hi]
      exact ld_fault d ext hal hclear hlater hlock hreach hc
  have hsx (m : Nat) : sextW m = sx m := sextW_eq m
  exact ⟨hok _ 1 _ (hsx 8 ▸ rfl) (by decide), hok _ 1 _ rfl (by decide), hok _ 2 _ (hsx 16 ▸ rfl) (by decide), hok _ 2 _ rfl (by decide),
    hok _ 4 _ (hsx 32 ▸ rfl) (by decide), hok _ 4 _ rfl (by decide), hok _ 8 _ rfl (by decide)⟩

end Sys2Proof.ScalarMemory
end

section
/-! PROOFS. Scalar stores (R33, R296, R297): O23. -/

namespace Sys2Proof.ScalarMemory

open Sys2Proof Sys2Proof.Machine Sys2Proof.LatticeCells Sys2Proof.HaltGroups Sys2Proof.ChildOps Sys2Proof.TokenMoves
  Sys2Proof.ScalarResults Sys2Proof.MemFences Sys2Proof.CachedStores Sys2Proof.VectorMemory

/-! ## What a store of bytes leaves -/

/-- A store has written `n` bytes from `pa`; beside memory, TLBs, caches and the thread's history nothing differs. -/
structure Stored (s u : State) (pa n v : Nat) : Prop where
  group : MemGroup s u
  bytes : StoreMem s u pa n v
  vec : u.h.t.vec = s.h.t.vec
  scr : u.h.t.scr = s.h.t.scr
  ctl : u.h.ctl = s.h.ctl

section
variable {s : State} {va pa n v : Nat}

theorem stored_putBytes (l : Leaf) (va : Nat) (hwf : Mem.wf s.mem = true) (hn : n ≤ 192) (hv : v < 256 ^ n) :
    Stored s ((reached s va .store).putBytes l va pa n v) pa n v := by
  have hgroup := (MemGroup.of_reached s va .store).trans (MemGroup.putBytes _ l va pa n v)
  obtain ⟨tlb, ht⟩ := reached_tlb s va .store
  rw [ht] at hgroup ⊢
  have hstore := putBytes_storeMem (s := { s with lat := { s.lat with tlb := tlb } }) l va hwf (linesOf_le_four pa hn) hv
  obtain ⟨hvec, hscr, hctl⟩ := putBytes_keeps { s with lat := { s.lat with tlb := tlb } } l va pa n v
  exact ⟨hgroup, ⟨hstore.holds, hstore.room, hstore.lines, hstore.apart⟩, hvec, hscr, hctl⟩

/-- The same once the core holds the store no longer. -/
theorem Stored.setLater {u : State} {q : Later} (hlater : s.h.t.post.later = []) (a : Stored (s.setLater [q]) u pa n v) :
    Stored s (u.setLater []) pa n v := by
  obtain ⟨hgroup, hstore, hvec, hscr, hctl⟩ := a
  exact ⟨MemGroup.setLater hlater hgroup, ⟨hstore.holds, hstore.room, hstore.lines, hstore.apart⟩, hvec, hscr, hctl⟩

/-- A group that has stored completes. -/
theorem Stored.answers {u : State} (a : Stored s u pa n v) : Answers (.next u.retire) fun t => StoreMem s t pa n v ∧
    t.h.t.scr = s.h.t.scr ∧ SameX s t ∧ SameV s t ∧ SameM s t ∧ SameK s t ∧ SameFlags s t ∧ MemFrame s t ∧ EndOfBody s t := by
  obtain ⟨hgroup, hstore, hvec, hscr, hctl⟩ := a
  obtain ⟨hx, hm, hk, hframe, hend⟩ := hgroup.retire
  exact ⟨_, rfl, ⟨hstore.holds, hstore.room, hstore.lines, hstore.apart⟩, (State.retire_frame u).hart.scr.trans hscr, hx,
    fun r => (State.retire_v u r).trans (congrArg (·.v[r]) hvec), hm, hk, (State.retire_fflags u).trans (congrArg Ctl.fflags hctl), hframe, hend⟩

/-! ## Stores that pass their checks (R297) -/

/-- A store writes memory, at once or through its core, which lets it go. -/
theorem storeTo_memory {l : Leaf} (hlock : lockJudge true 0 va n s.locks = .ok) (hreach : s.reaches va .store = .ok l pa)
    (hkind : l.kind ≠ 5) (hgo : s.letsGo) (hstores : s.stores pa n) (hpage : va + n ≤ l.stop) (hwf : Mem.wf s.mem = true) (hn : n ≤ 192)
    (hv : v < 256 ^ n) : ∃ u, s.storeTo va n v = .next u.retire ∧ Stored s u pa n v := by
  unfold State.storeTo State.locked
  rw [hlock]
  dsimp only
  split
  · rw [access_ok hgo.1 hreach, if_neg hkind]
    exact ⟨_, rfl, stored_putBytes l va hwf hn hv⟩
  · rw [State.giveStore, give_lands hgo hreach hpage hstores rfl]
    exact ⟨_, rfl, (stored_putBytes (s := s.setLater [_]) l va hwf hn hv).setLater hgo.1⟩

/-- A store through a raw window writes the bytes of its view. -/
theorem storeTo_window {l : Leaf} (hlock : lockJudge true 0 va n s.locks = .ok) (hreach : s.reaches va .store = .ok l pa)
    (hkind : l.kind = 5) (hscr : s.onScr va = true) (hlater : s.h.t.post.later = []) (hraw : winRaw l.win = true)
    (hwrite : s.mayWrite (winBuf l.win) (s.scrOffset va) n) :
    s.storeTo va n v = .next ((reached s va .store).putView (winBuf l.win) (s.scrOffset va) n v).retire := by
  unfold State.storeTo State.locked
  rw [hlock]
  dsimp only
  rw [if_pos hscr, access_ok hlater hreach, if_pos hkind, if_pos hraw, reached_scrOffset, viewWrite_ok (reached_mayWrite hwrite _ _)]

theorem putView_answers (buf o : Nat) (hwf : Mem.wf (s.h.t.scr.view buf) = true) (hv : v < 256 ^ n) :
    Answers (.next ((reached s va .store).putView buf o n v).retire) fun t => Mem.readN (t.h.t.scr.view buf) o n = v ∧
      SameOutside (s.h.t.scr.view buf) (t.h.t.scr.view buf) o n ∧ SameButView s t buf ∧ SameMem s t ∧
      SameX s t ∧ SameV s t ∧ SameM s t ∧ SameK s t ∧ SameFlags s t ∧ MemFrame s t ∧ EndOfBody s t := by
  obtain ⟨hx, hm, hk, hframe, hend⟩ := ((MemGroup.of_reached s va .store).trans (MemGroup.putView _ buf o n v)).retire
  have hscr : ((reached s va .store).putView buf o n v).retire.h.t.scr =
      s.h.t.scr.setView buf (Mem.writeN (s.h.t.scr.view buf) o n v) :=
    (State.retire_frame _).hart.scr.trans
      (congrArg (fun h : Hart => h.t.scr.setView buf (Mem.writeN (h.t.scr.view buf) o n v)) (reached_h s _ _) :)
  refine ⟨_, rfl, ?_, fun b hb => ?_, ?_, fun b => ?_, hx, fun r => ?_, hm, hk, ?_, hframe, hend⟩
  · rw [hscr, view_setView, Mem.readN_writeN hwf, Nat.mod_eq_of_lt hv]
  · rw [hscr, view_setView, Mem.read_writeN_out hwf _ _ _ hb]
  · rw [SameButView, hscr, view_setView]
  · exact congrArg (Mem.read · b) (reached_mem s _ _)
  · rw [State.retire_v]
    exact (congrArg (fun h : Hart => h.t.vec.v[r]) (reached_h s _ _) :)
  · exact (State.retire_fflags _).trans (congrArg (fun h : Hart => h.ctl.fflags) (reached_h s _ _) :)

/-! ## Stores behind an access that stays (R33, R398) -/

theorem checkLeaf_ne_absent (s : State) (l : Leaf) (va : Nat) (a : Acc) (task : Nat) : s.checkLeaf l va a task ≠ .fault 1 := by
  unfold State.checkLeaf
  repeat' split
  all_goals simp

/-- A translation that finds no page fills no TLB. -/
theorem reached_absent {a : Acc} (h : s.reaches va a = .fault 1) : reached s va a = s := by
  unfold State.reaches State.translate at h
  unfold TokenMoves.reached State.translate
  split
  · rfl
  · next hva =>
    rw [if_neg hva] at h
    cases htlb : s.tlbFind (some s.coreId) (physDie s.phys) s.h.task.ctx va with
    | some l => rfl
    | none =>
      cases hlost : s.lostEntry s.h.task.ctx va with
      | some p => rfl
      | none =>
        cases hwalk : s.walk s.h.task.ctx va with
        | error c => rfl
        | ok l =>
          rw [htlb, hlost, hwalk] at h
          exact absurd h (checkLeaf_ne_absent _ _ _ _ _)

/-- A store whose page is absent and has been asked for stays as it is. -/
theorem turn_asked {q : Later} {vb nb vv : Nat} {g : Region} (hwhat : q.what = .store vb nb vv) (hbank : q.bank = none)
    (hask : q.ask = some vb) (hreach : s.reaches vb .store = .fault 1) (hregion : s.regionOf s.h.task.ctx vb = some g)
    (hkind : g.kind ≠ 4) : s.turn q = (s, some q) := by
  have hq : { q with bank := none } = q := by rw [← hbank]
  have htrans : s.laterTrans q vb .store = (s, .stay q) := by
    have hstay := reached_absent hreach
    unfold State.reaches at hreach
    unfold TokenMoves.reached at hstay
    unfold State.laterTrans
    dsimp only
    rw [hreach, hstay, hregion, hask]
    simp [hkind]
  unfold State.turn
  rw [hwhat]
  dsimp only
  unfold State.turnStore
  dsimp only
  rw [hq, htrans]

/-- An access is held behind one that stays. -/
theorem give_behind {q : Later} {rest : List Later} (hlater : s.h.t.post.later = q :: rest)
    (h : s.isStopping s.h.task.ctx = true ∨ ∃ vb nb vv g, q.what = .store vb nb vv ∧ q.bank = none ∧ q.ask = some vb ∧
      s.reaches vb .store = .fault 1 ∧ s.regionOf s.h.task.ctx vb = some g ∧ g.kind ≠ 4) (l : Later) :
    s.give l = s.setLater (s.h.t.post.later ++ [l]) := by
  unfold State.give State.flush
  have hheld : (s.setLater (s.h.t.post.later ++ [l])).h.t.post.later = q :: (rest ++ [l]) := by
    show s.h.t.post.later ++ [l] = _
    rw [hlater, List.cons_append]
  split
  · rfl
  · next hgo =>
    rcases h with hstop | ⟨vb, nb, vv, g, hwhat, hbank, hask, hreach, hregion, hkind⟩
    · exact absurd (Bool.or_eq_true_iff.mpr (.inr hstop)) hgo
    · have hturn := turn_asked (s := s.setLater (s.h.t.post.later ++ [l])) hwhat hbank hask
        ((reaches_setLater s _ _ _).trans hreach) hregion hkind
      rw [hheld, List.length_cons, Nat.mul_succ]
      show State.runLater (3 * (rest ++ [l]).length + 2 + 1) _ = _
      rw [State.runLater, hheld]
      dsimp only
      rw [hturn]
      dsimp only
      rw [if_pos rfl, hlater]
      rfl

theorem setLater_answers (s : State) (ls : List Later) : Answers (.next (s.setLater ls).retire) fun t =>
    t.h.t.post = { s.h.t.post with later := ls } ∧ SameX s t ∧ SameV s t ∧ SameM s t ∧ SameK s t ∧ SameFlags s t ∧ SameWorld s t ∧
    t.h.t.scr = s.h.t.scr ∧ EndOfBody s t := by
  have hkeep : KeepsFiles s (s.setLater ls) := ⟨rfl, rfl, rfl, rfl, rfl, rfl⟩
  have hframe := State.retire_frame (s.setLater ls)
  exact ⟨_, rfl, hframe.hart.post, retire_sameX rfl, hkeep.sameV, hkeep.sameM, State.retire_k _, hkeep.sameFlags,
    sameWorld_trans (u := s.setLater ls) ⟨fun _ => rfl, rfl, rfl, rfl, rfl, rfl⟩ hframe.world, hframe.hart.scr, hkeep.endOfBody⟩

end

section
variable {s : State} {w : Option (Fin 4)} {r a : Fin 32} {imm : BitVec 34} {n : Nat}

theorem st_misaligned (hal : s.va a imm % n ≠ 0) : s.st w r a imm n = .next (s.takeTrap { cause := 7, addr := s.va a imm }) :=
  if_pos hal

/-- An aligned store whose counters are clear stores its bytes. -/
theorem st_held (hal : s.va a imm % n = 0) (hclear : s.h.t.post.clear (waitOfPfx w) = true) :
    s.st w r a imm n = s.storeTo (s.va a imm) n ((s.x r).toNat % 2 ^ (8 * n)) := by
  unfold State.st State.held
  rw [if_neg (not_not_intro hal), if_pos hclear]

theorem storeTo_given {va v : Nat} (hlock : lockJudge true 0 va n s.locks = .ok) (hscr : s.onScr va = false) :
    s.storeTo va n v = s.giveStore va n v := by
  unfold State.storeTo State.locked
  rw [hlock, hscr]
  rfl

end

/-- Settles O23: what a store leaves of memory is the rule of the cluster caches, what it leaves of a view that of the view's bytes,
and behind an access that stays the core only holds it. -/
theorem storesWriteTheirBytes : Obligations.StoresWriteTheirBytes := by
  intro s w r a imm hcan va ok
  have hok (i : Instr) (n : Nat) (hi : exec i s = s.st w r a imm n) (hn : n ≤ 8) : ok i n := by
    have hv : (s.x r).toNat % 2 ^ (8 * n) < 256 ^ n := (Nat.mod_lt _ (Nat.two_pow_pos _)).trans_eq (Nat.pow_mul 2 8 n)
    have hst (hal : va % n = 0) (hclear : s.h.t.post.clear (waitOfPfx w) = true) :
        exec i s = s.storeTo va n ((s.x r).toNat % 2 ^ (8 * n)) := hi.trans (st_held hal hclear)
    refine ⟨fun hal => hi.trans (st_misaligned hal), fun l pa hal hclear hlock hreach => ⟨fun hkind hgo hstores hpage => ?_,
      fun hkind hscr hlater hraw b o hb ho hwrite => ?_⟩, fun q rest hal hclear hlock hscr hlater hstays => ?_⟩
    · obtain ⟨u, hu, hstored⟩ := storeTo_memory hlock hreach hkind hgo hstores hpage hcan.mem (by omega) hv
      rw [hst hal hclear, hu]
      exact hstored.answers
    · subst hb ho
      rw [hst hal hclear, storeTo_window hlock hreach hkind hscr hlater hraw hwrite]
      exact putView_answers _ _ (view_wf hcan.h _) hv
    · rw [hst hal hclear, storeTo_given hlock hscr, State.giveStore, give_behind hlater hstays]
      exact setLater_answers s _
  exact ⟨hok _ 1 rfl (by decide), hok _ 2 rfl (by decide), hok _ 4 rfl (by decide), hok _ 8 rfl (by decide)⟩

end Sys2Proof.ScalarMemory
end

section
/-! PROOFS. Accesses that a core takes in and lets go, journal entries, and refused stores (R33, R121, R124, R125, R297): O24. -/

namespace Sys2Proof.PostedAccess

open Sys2Proof Sys2Proof.Machine Sys2Proof.LatticeCells Sys2Proof.ThreadReplies Sys2Proof.ContextEnds Sys2Proof.ChildOps
  Sys2Proof.TokenMoves Sys2Proof.ScalarResults Sys2Proof.VectorLanes Sys2Proof.VectorMemory Sys2Proof.ScalarMemory

/-! ## The only access of a core (R33) -/

section
variable {s u : State} {q x : Later}

theorem give_runs (hgo : s.letsGo) (q : Later) : s.give q = State.runLater 3 (s.setLater [q]) := by
  obtain ⟨hlater, hstop⟩ := hgo
  have hstop' : (s.setLater [q]).isStopping (s.setLater [q]).h.task.ctx = false := hstop
  unfold State.give
  rw [hlater, List.nil_append]
  unfold State.flush
  rw [show (s.setLater [q]).h.t.post.later = [q] from rfl, hstop', if_neg (by simp)]
  rfl

theorem runLater_none {n : Nat} (h : s.h.t.post.later = []) : State.runLater n s = s := by
  cases n with
  | zero => rfl
  | succ n => rw [State.runLater, h]

/-- The turns of the only held access end when nothing is left of it. -/
theorem runLater_gone (n : Nat) (hturn : (s.setLater [q]).turn q = (u, none)) :
    State.runLater (n + 1) (s.setLater [q]) = u.setLater [] := by
  rw [State.runLater, show (s.setLater [q]).h.t.post.later = [q] from rfl]
  dsimp only
  rw [hturn]
  exact runLater_none rfl

/-- What is left of the only held access has its turn when it has moved. -/
theorem runLater_left (n : Nat) (hturn : (s.setLater [q]).turn q = (u, some x)) : State.runLater (n + 1) (s.setLater [q]) =
    if x.what = q.what then u.setLater [x] else State.runLater n (u.setLater [x]) := by
  rw [State.runLater, show (s.setLater [q]).h.t.post.later = [q] from rfl]
  dsimp only
  rw [hturn]

/-- An access of which nothing is left after its turn. -/
theorem give_gone (hgo : s.letsGo) (hturn : (s.setLater [q]).turn q = (u, none)) : s.give q = u.setLater [] := by
  rw [give_runs hgo, runLater_gone 2 hturn]

/-- An access that stays as it is. -/
theorem give_stays (hgo : s.letsGo) (hturn : (s.setLater [q]).turn q = (u, some x)) (hwhat : x.what = q.what) :
    s.give q = u.setLater [x] := by
  rw [give_runs hgo, runLater_left 2 hturn, if_pos hwhat]

/-- An access whose homes are known after one turn, and of which nothing is left after the next. -/
theorem give_moves {v : State} (hgo : s.letsGo) (hturn : (s.setLater [q]).turn q = (u, some x)) (hwhat : x.what ≠ q.what)
    (hnext : (u.setLater [x]).turn x = (v, none)) : s.give q = v.setLater [] := by
  rw [give_runs hgo, runLater_left 2 hturn, if_neg hwhat, runLater_gone 1 hnext]

end

/-! ## The journal (R121) -/

theorem freeEntry_lt {p : Posted} {k : Nat} (h : p.freeEntry = some k) : k < 16 := by
  have hk := List.mem_of_find?_eq_some h
  rw [mem_countFrom] at hk
  omega

theorem takeEntry_full {s : State} (hpj : s.h.t.pj = none) (hfree : s.h.t.post.freeEntry = none) (k : Nat → State → Out) :
    s.takeEntry k = s.noEntry := by
  unfold State.takeEntry
  rw [hpj, hfree]

/-! ## Stores that are refused (R125, R297) -/

section
variable {s : State} {va n v c : Nat}

/-- A state with other TLBs. -/
def translated (s : State) (tlb : List TlbEntry) : State := { s with lat := { s.lat with tlb := tlb } }

/-- A plain store of the issuing thread as its core takes it in. -/
def issuedStore (s : State) (va n v : Nat) : Later := { entry := 0, pc := s.h.pc.toNat, what := .store va n v }

theorem laterTrans_fault {a : Acc} (hreach : s.reaches va a = .fault c) (hc : c ≠ 1) (q : Later) :
    s.laterTrans q va a = (reached s va a, .code c) := by
  unfold State.reaches at hreach
  unfold State.laterTrans
  dsimp only
  rw [hreach]
  dsimp only
  rw [if_pos hc]
  rfl

/-- A store whose page refuses it is refused in its turn. -/
theorem turn_refused (hreach : s.reaches va .store = .fault c) (hc : c ≠ 1) :
    ∃ tlb, (s.setLater [issuedStore s va n v]).turn (issuedStore s va n v) =
      (translated (s.setLater [issuedStore s va n v]) tlb).refuseStore (issuedStore s va n v) va c := by
  obtain ⟨tlb, ht⟩ := reached_tlb (s.setLater [issuedStore s va n v]) va .store
  have htrans := laterTrans_fault ((reaches_setLater s [issuedStore s va n v] va .store).trans hreach) hc (issuedStore s va n v)
  refine ⟨tlb, ?_⟩
  show (s.setLater [issuedStore s va n v]).turnStore (issuedStore s va n v) va n v = _
  unfold State.turnStore
  dsimp only
  rw [show { issuedStore s va n v with bank := none } = issuedStore s va n v from rfl, htrans, ht]
  rfl

/-- What a refused store writes into its journal entry. -/
def refusedEntry (pc va c stamp : Nat) : JEntry :=
  { v := true, ref := true, fault := 4, tcode := c, lanes := 1, addr := va, pc := pc, stamp := stamp }

/-- The fault record of a journal entry of the issuing thread. -/
def refusalRecord (s : State) (e : JEntry) : List Nat :=
  faultRec 0x0B (s.pkgOf s.h) s.h.task.name (e.addr % 2 ^ 57) e.gop e.gfound e.pc e.pjjs e.pjjg 0

theorem refusalRecord_head (s : State) (e : JEntry) : nth (refusalRecord s e) 0 = 0x0B * 2 ^ 56 + s.pkgOf s.h * 2 ^ 38 := by
  rw [refusalRecord, faultRec, nth]
  exact List.getD_cons_zero

/-- The state in which the refusal of a store has been recorded in journal entry `k`. -/
def recorded (s : State) (k : Nat) (e : JEntry) : State :=
  let t := s.raise s.h.task.ctx (refusalRecord s e) false
  { t with
    h := s.h.setPost { s.h.t.post with j := (s.h.t.post.j.setIfInBounds k { v := true, pc := e.pc }).setIfInBounds k e }
    work := { t.work with nextOrder := t.work.nextOrder + 1 } }

/-- The first refusal of an entry that has just been taken is recorded in it. -/
theorem refuseEntry_first {h : Hart} {k pc : Nat} (he : h.t.post.j.getD k {} = { v := true, pc := pc }) :
    s.refuseEntry h k 4 c 0 va 0 0 =
      let e := refusedEntry pc va c s.work.nextOrder
      let t := s.entryFault h 0x0B e
      ({ t with work := { t.work with nextOrder := t.work.nextOrder + 1 } }, h.setEntry k e) := by
  unfold State.refuseEntry
  rw [he]
  dsimp only
  rw [Nat.zero_testBit]
  rfl

theorem refuseStore_free {k : Nat} (hfree : s.h.t.post.freeEntry = some k) (q : Later) :
    s.refuseStore q va c = (recorded s k (refusedEntry q.pc va c s.work.nextOrder), none) := by
  have hentry : (s.h.setEntry k { v := true, pc := q.pc }).t.post.j.getD k {} = { v := true, pc := q.pc } :=
    (getD_setIfInBounds _ _ _ _ _).trans (if_pos ⟨rfl, freeEntry_lt hfree⟩)
  unfold State.refuseStore State.refuseOwn
  rw [hfree]
  dsimp only
  rw [refuseEntry_first hentry]
  rfl

theorem refuseStore_full (hfree : s.h.t.post.freeEntry = none) (q : Later) : s.refuseStore q va c = (s, some q) := by
  unfold State.refuseStore
  rw [hfree]

theorem recorded_getD {k : Nat} (hk : k < 16) (e : JEntry) (m : Nat) :
    (recorded s k e).h.t.post.j.getD m {} = if m = k then e else s.h.t.post.j.getD m {} := by
  refine (getD_setIfInBounds _ _ _ _ _).trans ?_
  by_cases hm : m = k
  · rw [if_pos ⟨hm.symm, hk⟩, if_pos hm]
  · rw [if_neg fun h => hm h.1.symm, if_neg hm, getD_setIfInBounds, if_neg fun h => hm h.1.symm]

theorem recorded_ctx? {k : Nat} {e : JEntry} {x : Ctx} (hx : s.ctx? s.h.task.ctx = some x) :
    (recorded s k e).ctx? s.h.task.ctx = some { x with pend := x.pend ++ [(refusalRecord s e, false)] } :=
  raise_ctx? hx _ _

/-- A store of which only the journal, the held accesses and what lies outside memory differ completes. -/
theorem posted_keeps {s u : State} (hu : KeepsFiles s u) (hx : u.h.x = s.h.x) (hk : u.h.t.vec.k = s.h.t.vec.k) :
    SameX s u.retire ∧ SameV s u.retire ∧ SameM s u.retire ∧ SameK s u.retire ∧ SameMem s u.retire ∧ EndOfBody s u.retire :=
  ⟨retire_sameX hx, hu.sameV, hu.sameM, fun r => (State.retire_k u r).trans (congrArg (fun w : Vector Word 16 => w[r]) hk), hu.sameMem,
    hu.endOfBody⟩

theorem giveStore_refused (hgo : s.letsGo) (hreach : s.reaches va .store = .fault c) (hc : c ≠ 1) {k : Nat}
    (hfree : s.h.t.post.freeEntry = some k) : Answers (s.giveStore va n v) fun t =>
      (SameX s t ∧ SameV s t ∧ SameM s t ∧ SameK s t ∧ SameMem s t ∧ EndOfBody s t) ∧
      (∃ stamp, t.h.t.post.j.getD k {} = refusedEntry s.h.pc.toNat va c stamp) ∧
      (∀ m, m ≠ k → t.h.t.post.j.getD m {} = s.h.t.post.j.getD m {}) ∧ t.h.t.post.later = [] ∧
      ∀ x, s.ctx? s.h.task.ctx = some x → ∃ y f, t.ctx? s.h.task.ctx = some y ∧ y.pend = x.pend ++ [(f, false)] ∧
        nth f 0 = 0x0B * 2 ^ 56 + s.pkgOf s.h * 2 ^ 38 := by
  obtain ⟨tlb, hturn⟩ := turn_refused (n := n) (v := v) hreach hc
  rw [refuseStore_free (by exact hfree)] at hturn
  have hpost := fun u : State => (State.retire_frame u).hart.post
  have hentries := recorded_getD (s := translated (s.setLater [issuedStore s va n v]) tlb) (freeEntry_lt hfree)
    (refusedEntry s.h.pc.toNat va c s.work.nextOrder)
  refine ⟨_, congrArg (fun u : State => Host.Outcome.next u.retire) (give_gone hgo hturn), posted_keeps ⟨rfl, rfl, rfl, rfl, rfl, rfl⟩ rfl rfl,
    ⟨s.work.nextOrder, ?_⟩, fun m hm => ?_, congrArg Posted.later (hpost _),
    fun x hx => ⟨_, _, recorded_ctx? (k := k) (by exact hx), rfl, refusalRecord_head _ _⟩⟩
  · rw [hpost]
    exact (hentries k).trans (if_pos rfl)
  · rw [hpost]
    exact (hentries m).trans (if_neg hm)

/-- With no free journal entry the core holds the store. -/
theorem giveStore_waits (hgo : s.letsGo) (hreach : s.reaches va .store = .fault c) (hc : c ≠ 1)
    (hfree : s.h.t.post.freeEntry = none) : Answers (s.giveStore va n v) fun t =>
      (SameX s t ∧ SameV s t ∧ SameM s t ∧ SameK s t ∧ SameMem s t ∧ EndOfBody s t) ∧
      t.h.t.post = { s.h.t.post with later := [{ entry := 0, pc := s.h.pc.toNat, what := .store va n v }] } := by
  obtain ⟨tlb, hturn⟩ := turn_refused (n := n) (v := v) hreach hc
  rw [refuseStore_full (by exact hfree)] at hturn
  exact ⟨_, congrArg (fun u : State => Host.Outcome.next u.retire) (give_stays hgo hturn rfl), posted_keeps ⟨rfl, rfl, rfl, rfl, rfl, rfl⟩ rfl rfl,
    (State.retire_frame _).hart.post⟩

end

theorem onScr_false {s : State} {va : Nat} {g : Region} (hregion : s.regionOf s.h.task.ctx va = some g) (hkind : g.kind ≠ 5) :
    s.onScr va = false := by
  rw [State.onScr, hregion]
  exact beq_false_of_ne hkind

/-- A vector store to a page of no scratchpad region is taken in by its core. -/
theorem vst_given {s : State} {w : Option (Fin 4)} {r a : Fin 32} {imm : BitVec 34} (rnd : Option Rnd) (h : Unbound s [r])
    (hal : s.va a imm % 64 = 0) (hclear : s.h.t.post.clear (waitOfPfx w) = true)
    (hlock : lockJudge true 0 (s.va a imm) 192 s.locks = .ok) (hscr : s.onScr (s.va a imm) = false) :
    execVst w rnd r a imm s = s.giveStore (s.va a imm) 192 (s.v r).toNat := by
  unfold execVst State.held State.locked
  dsimp only
  rw [if_neg (not_not_intro hal), if_pos hclear, hlock]
  dsimp only
  rw [hscr, if_neg (by decide), withPops_append (dst := []) h]

/-! ## Checks of lattice instructions (R302) -/

theorem latChecks_ok {s : State} {illegal badOp : Bool} {va al : Nat} (hi : illegal = false) (hb : badOp = false) (hal : va % al = 0)
    (k : Out) : s.latChecks illegal badOp va al k = k := by
  unfold State.latChecks
  rw [hi, hb, if_neg (by decide), if_neg (by decide), if_neg (not_not_intro hal)]

theorem badGen_false {s : State} {g : Fin 32} (h : (s.x g).toNat ≤ 65535) : s.badGen g = false :=
  decide_eq_false (by omega)

/-- A posted instruction that passes its checks and finds no free entry waits, or takes the posted-refusal trap (R124). -/
theorem postOne_full {s : State} (hpj : s.h.t.pj = none) (hfree : s.h.t.post.freeEntry = none) (w va gen : Nat) (kind : LKind) (ty sz : Nat)
    (k : State → (Nat → State → Out) → Out) : s.postOne w va gen kind ty sz k = s.noEntry := by
  unfold State.postOne
  split
  · exact takeEntry_full hpj hfree _
  · exact takeEntry_full hpj hfree _

/-- Settles O24: a store whose page refuses it takes its only turn in the core, which records the refusal where an entry is free. -/
theorem refusedStoresArePosted : Obligations.RefusedStoresArePosted := by
  refine ⟨fun s w rnd r a imm g c => ?_, fun s w ty sz off a g => ?_⟩
  · intro va keep ok
    have hok (i : Instr) (n al v : Nat) (hi : va % al = 0 → s.h.t.post.clear (waitOfPfx w) = true → lockJudge true 0 va n s.locks = .ok →
        s.onScr va = false → exec i s = s.giveStore va n v) : ok i n al v := by
      intro hal hclear hlock hgo hreach hc hregion hkind
      have hgiven := hi hal hclear hlock (onScr_false hregion hkind)
      refine ⟨fun k hfree _ => ?_, fun hfree => ?_⟩
      · obtain ⟨t, ht, hkeep, ⟨stamp, hentry⟩, hothers, hlater, hctx⟩ := giveStore_refused (n := n) (v := v) hgo hreach hc hfree
        refine ⟨t, hgiven.trans ht, hkeep, ?_, hothers, hlater, hctx⟩
        rw [hentry]
        exact ⟨rfl, rfl, rfl, rfl, rfl, rfl, rfl⟩
      · rw [hgiven]
        exact giveStore_waits hgo hreach hc hfree
    have hst (n : Nat) (hal : va % n = 0) (hclear : s.h.t.post.clear (waitOfPfx w) = true) (hlock : lockJudge true 0 va n s.locks = .ok)
        (hscr : s.onScr va = false) : s.st w r a imm n = s.giveStore va n ((s.x r).toNat % 2 ^ (8 * n)) :=
      (st_held hal hclear).trans (storeTo_given hlock hscr)
    exact ⟨hok _ 1 1 _ (hst 1), hok _ 2 2 _ (hst 2), hok _ 4 4 _ (hst 4), hok _ 8 8 _ (hst 8),
      fun h => hok _ 192 64 _ fun hal hclear hlock hscr => vst_given rnd h hal hclear hlock hscr⟩
  · intro va hty hgen hal hpj hfree
    have hexec : exec (.freeze w ty sz off a g) s = s.noEntry := by
      show execFreeze w ty sz off a g s = _
      exact (latChecks_ok hty (badGen_false hgen) hal _).trans (postOne_full hpj hfree _ _ _ _ _ _ _)
    rw [hexec]
    unfold State.noEntry
    refine ⟨fun h => if_neg fun hfull => ?_, fun i hh hall hfirst => ?_⟩
    · obtain ⟨hh, hall⟩ := hfull
      rcases h with h | h
      · exact absurd (h.symm.trans hh) (by decide)
      · exact absurd (h.symm.trans hall) (by decide)
    · rw [if_pos ⟨hh, hall⟩, hfirst]
      rfl

end Sys2Proof.PostedAccess
end

section
/-! PROOFS. Posted lattice instructions: their journal entry, what they reach, and the messages that they send (R113, R119, R121,
R302): for O32, O33. -/

namespace Sys2Proof.PostedLattice

open Sys2Proof Sys2Proof.Machine Sys2Proof.LatticeCells Sys2Proof.ThreadReplies Sys2Proof.ChildOps Sys2Proof.TokenMoves
  Sys2Proof.ScalarResults Sys2Proof.MemFences Sys2Proof.VectorLanes Sys2Proof.CachedStores Sys2Proof.VectorMemory
  Sys2Proof.ScalarMemory Sys2Proof.PostedAccess

/-! ## What a posted instruction changes -/

/-- Until a posted instruction translates its operand: the journal, the held accesses and the history of the issuing thread, and what
caches hold beside DRAM, may differ. -/
def Near (s u : State) : Prop :=
  ∃ post pj hist cache dram, u = { s with
    h := { s.h with t := { s.h.t with post := post, pj := pj, hist := hist } }
    lat := { s.lat with cache := cache, dram := dram } }

/-- Until a posted instruction completes, TLBs and the messages in flight may differ too. -/
def Sends (s u : State) : Prop :=
  ∃ post pj hist tlb cache dram net sent, u = { s with
    h := { s.h with t := { s.h.t with post := post, pj := pj, hist := hist } }
    lat := { s.lat with tlb := tlb, cache := cache, dram := dram, net := net, sent := sent } }

section
variable {s t u : State}

theorem Near.refl (s : State) : Near s s := ⟨_, _, _, _, _, rfl⟩

theorem Near.trans (a : Near s t) (b : Near t u) : Near s u := by
  obtain ⟨_, _, _, _, _, rfl⟩ := a
  obtain ⟨_, _, _, _, _, rfl⟩ := b
  exact ⟨_, _, _, _, _, rfl⟩

theorem Near.setLater (a : Near s u) (l : List Later) : Near s (u.setLater l) := a.trans ⟨_, _, _, _, _, rfl⟩

theorem Near.sends (a : Near s u) : Sends s u := by
  obtain ⟨_, _, _, _, _, rfl⟩ := a
  exact ⟨_, _, _, _, _, _, _, _, rfl⟩

theorem Sends.trans (a : Sends s t) (b : Sends t u) : Sends s u := by
  obtain ⟨_, _, _, _, _, _, _, _, rfl⟩ := a
  obtain ⟨_, _, _, _, _, _, _, _, rfl⟩ := b
  exact ⟨_, _, _, _, _, _, _, _, rfl⟩

theorem Sends.setLater (a : Sends s u) (l : List Later) : Sends s (u.setLater l) := a.trans ⟨_, _, _, _, _, _, _, _, rfl⟩

theorem Sends.setEntry (a : Sends s u) (i : Nat) (e : JEntry) : Sends s { u with h := u.h.setEntry i e } :=
  a.trans ⟨_, _, _, _, _, _, _, _, rfl⟩

theorem Sends.translated (a : Sends s u) (tlb : List TlbEntry) : Sends s (translated u tlb) := a.trans ⟨_, _, _, _, _, _, _, _, rfl⟩

/-- A translation does not look at what may differ before it. -/
theorem Near.translate (a : Near s u) (core : Option Nat) (die ctx task va : Nat) (acc : Acc) :
    u.translate core die ctx task va acc =
      (PostedAccess.translated u (s.translate core die ctx task va acc).1.lat.tlb, (s.translate core die ctx task va acc).2) := by
  obtain ⟨post, pj, hist, cache, dram, rfl⟩ := a
  unfold State.translate
  split
  · rfl
  · show (match s.tlbFind core die ctx va with | some l => _ | none => _) = _
    cases s.tlbFind core die ctx va with
    | some l => rfl
    | none =>
      show (match s.lostEntry ctx va with | some p => _ | none => _) = _
      cases s.lostEntry ctx va with
      | some p => rfl
      | none =>
        show (match s.walk ctx va with | .error c => _ | .ok l => _) = _
        cases s.walk ctx va with
        | error c => rfl
        | ok l => rfl

theorem Near.translate_thread (a : Near s u) (va : Nat) (acc : Acc) :
    u.translate (some u.coreId) (physDie u.phys) u.h.task.ctx u.h.task.num va acc =
      (PostedAccess.translated u (reached s va acc).lat.tlb, s.reaches va acc) := by
  have h := a.translate (some s.coreId) (physDie s.phys) s.h.task.ctx s.h.task.num va acc
  obtain ⟨post, pj, hist, cache, dram, rfl⟩ := a
  exact h

theorem Near.reaches (a : Near s u) (va : Nat) (acc : Acc) : u.reaches va acc = s.reaches va acc :=
  (congrArg Prod.snd (a.translate_thread va acc) :)

theorem Near.reached (a : Near s u) (va : Nat) (acc : Acc) :
    TokenMoves.reached u va acc = PostedAccess.translated u (TokenMoves.reached s va acc).lat.tlb :=
  (congrArg Prod.fst (a.translate_thread va acc) :)

theorem Sends.homeOn (a : Sends s u) (q : LatKind) (va : Nat) (l : Leaf) (pa : Nat) : u.homeOn q va l pa = s.homeOn q va l pa := by
  obtain ⟨_, _, _, _, _, _, _, _, rfl⟩ := a
  rfl

/-! ## Messages that must stay in the core (R113, R114) -/

theorem landBase_congr (hwork : u.work = s.work) (hharts : u.harts = s.harts) (hid : u.h.id = s.h.id)
    (hscr : u.h.t.scr = s.h.t.scr) (g r b o : Nat) : u.landBase g r b o = s.landBase g r b o := by
  have hpast : u.past? g r = s.past? g r := by rw [State.past?, State.gang?, hwork, State.past?, State.gang?]
  have hmember : u.memberAt g r = s.memberAt g r := by
    unfold State.memberAt State.gang? State.task?
    rw [hwork]
  have hhart (c k : Nat) : (u.hart? (.thread c k)).bind (fun h => landAt h.t.scr.wins b o) =
      (s.hart? (.thread c k)).bind (fun h => landAt h.t.scr.wins b o) := by
    unfold State.hart?
    rw [hid, hharts]
    by_cases hself : s.h.id = .thread c k
    · rw [if_pos hself, if_pos hself, Option.bind_some, Option.bind_some, hscr]
    · rw [if_neg hself, if_neg hself]
  unfold State.landBase
  rw [hpast, hmember]
  split
  · rfl
  · split
    · rw [hhart]
    · rfl

/-- Whether a message stays in the core of the issuing thread when these have no reply. -/
def blocked (s : State) (sent : List Sent) (d : Dest) (upd : Bool) : Bool :=
  sent.any (fun x => s.sameUnit x.dest d && (x.upd != upd || !s.dieLocal (s.physOf s.h.coreSlot.1) d))

theorem Sends.mustStay (a : Sends s u) (d : Dest) (upd : Bool) : u.mustStay u.h d upd = blocked s u.h.t.post.sent d upd := by
  have hunit (x : Dest) : u.sameUnit x d = s.sameUnit x d := by
    have hland (g r b o : Nat) : u.landBase g r b o = s.landBase g r b o := by
      obtain ⟨_, _, _, _, _, _, _, _, rfl⟩ := a
      refine landBase_congr ?_ ?_ ?_ ?_ g r b o <;> rfl
    unfold State.sameUnit
    split
    · rfl
    · rw [hland, hland]
    · rfl
  have hlocal : u.dieLocal (u.physOf u.h.coreSlot.1) d = s.dieLocal (s.physOf s.h.coreSlot.1) d := by
    obtain ⟨_, _, _, _, _, _, _, _, rfl⟩ := a
    rfl
  unfold State.mustStay blocked
  rw [hlocal]
  simp only [hunit]

end

/-! ## Journal entries (R121, R302) -/

/-- The posted state of a thread whose group has taken entry `e`. -/
def entered (s : State) (e : Nat) : Posted :=
  { s.h.t.post with j := s.h.t.post.j.setIfInBounds e { v := true, pc := s.h.pc.toNat } }

/-- The state in which the group has taken entry `e`. -/
def taken (s : State) (e : Nat) : State := { s with h := { s.h with t := { s.h.t with post := entered s e, pj := some e } } }

theorem taken_near (s : State) (e : Nat) : Near s (taken s e) := ⟨_, _, _, _, _, rfl⟩

section
variable {s u : State} {e : Nat}

theorem takeEntry_free (hpj : s.h.t.pj = none) (hfree : s.h.t.post.freeEntry = some e) (k : Nat → State → Out) :
    s.takeEntry k = k e (taken s e) := by
  unfold State.takeEntry
  rw [hpj, hfree]
  rfl

/-- What an instruction without local refusals reaches is counted in its entry. -/
theorem post_counts {i : Nat} {outs : List Outgoing} (houts : outs ≠ []) : u.post i [] outs =
    { u with h := u.h.setEntry i { u.h.t.post.j.getD i {} with out := outs.length, hscope := u.scopeOf outs } } := by
  have hsome : ¬ (outs.isEmpty = true ∧ (u.h.t.post.j.getD i {}).ref = false) :=
    fun h => houts (List.isEmpty_iff.mp h.1)
  unfold State.post
  rw [List.foldl_nil]
  dsimp only
  rw [if_neg hsome]

/-! ## Sending (R112, R113, R119) -/

theorem seqOf_bumpSeq (p : Posted) (k m : Home) : (p.bumpSeq k).seqOf m = p.seqOf m + (if m = k then 1 else 0) := by
  unfold Posted.bumpSeq
  rw [Posted.seqOf, List.find?_cons]
  by_cases hm : m = k
  · rw [show (k == m) = true from beq_iff_eq.mpr hm.symm, if_pos hm, hm]
    rfl
  · have hother : (p.seqs.filter (fun x => x.1 != k)).find? (fun x => x.1 == m) = p.seqs.find? (fun x => x.1 == m) := by
      rw [List.find?_filter]
      congr 1
      funext x
      by_cases hx : x.1 = m
      · simp [hx, hm]
      · simp [hx]
    rw [show (k == m) = false from beq_false_of_ne (Ne.symm hm), if_neg hm]
    dsimp only
    rw [hother, Posted.seqOf, Nat.add_zero]

theorem count_counters (p : Posted) (cls : Nat) : (p.count cls).p = p.p + (if cls = 1 then 1 else 0) ∧
    (p.count cls).f = p.f + (if cls = 2 then 1 else 0) ∧ (p.count cls).b = p.b + (if cls = 3 then 1 else 0) := by
  unfold Posted.count
  split
  · exact ⟨rfl, rfl, rfl⟩
  · exact ⟨rfl, rfl, rfl⟩
  · exact ⟨rfl, rfl, rfl⟩
  · next h1 h2 h3 =>
    rw [if_neg h1, if_neg h2, if_neg h3]
    exact ⟨rfl, rfl, rfl⟩

theorem count_keeps (p : Posted) (cls : Nat) : (p.count cls).j = p.j ∧ (p.count cls).later = p.later ∧ (p.count cls).sent = p.sent ∧
    (p.count cls).seqs = p.seqs := by
  unfold Posted.count
  split <;> exact ⟨rfl, rfl, rfl, rfl⟩

/-- The posted state of a thread after one more message, of a class, to a destination. -/
def sentPost (p : Posted) (d : Dest) (upd : Bool) (cls : Nat) : Posted :=
  let q := (p.bumpSeq d.home).count cls
  { q with sent := q.sent ++ [{ dest := d, upd := upd, home := d.home, seq := p.seqOf d.home }] }

theorem sentPost_j (p : Posted) (d : Dest) (upd : Bool) (cls : Nat) : (sentPost p d upd cls).j = p.j := (count_keeps _ cls).1

theorem sentPost_sent (p : Posted) (d : Dest) (upd : Bool) (cls : Nat) : (sentPost p d upd cls).sent =
    p.sent ++ [{ dest := d, upd := upd, home := d.home, seq := p.seqOf d.home }] := by
  obtain ⟨-, -, hsent, -⟩ := count_keeps (p.bumpSeq d.home) cls
  unfold sentPost
  dsimp only
  rw [hsent]
  rfl

theorem sentPost_seqOf (p : Posted) (d : Dest) (upd : Bool) (cls : Nat) (k : Home) :
    (sentPost p d upd cls).seqOf k = p.seqOf k + (if k = d.home then 1 else 0) := by
  obtain ⟨-, -, -, hseqs⟩ := count_keeps (p.bumpSeq d.home) cls
  rw [← seqOf_bumpSeq, Posted.seqOf, Posted.seqOf, ← hseqs]
  rfl

/-- One message of a posted instruction leaves the core. -/
theorem sendPosted_eq (a : Sends s u) (o : Outgoing) : u.sendPosted o = { u with
    h := u.h.setPost (sentPost u.h.t.post o.dest o.req.kind.isUpdate (s.homeNow o.dest o.req.ty o.req.sz).cls)
    lat := { u.lat with
      net := u.lat.net ++ [{ src := s.me, ctx := s.h.task.ctx, dest := o.dest
                             body := .lat (o.req.stamp (s.homeNow o.dest o.req.ty o.req.sz) o.dest.home (u.h.t.post.seqOf o.dest.home)) }]
      sent := bumpCount s.h.task.ctx u.lat.sent } } := by
  obtain ⟨_, _, _, _, _, _, _, _, rfl⟩ := a
  rfl

theorem sendPosted_sends (a : Sends s u) (o : Outgoing) : Sends s (u.sendPosted o) := by
  refine a.trans ?_
  rw [sendPosted_eq a]
  exact ⟨_, _, _, _, _, _, _, _, rfl⟩

theorem sendPosted_post (a : Sends s u) (o : Outgoing) : (u.sendPosted o).h.t.post =
    sentPost u.h.t.post o.dest o.req.kind.isUpdate (s.homeNow o.dest o.req.ty o.req.sz).cls := by
  rw [sendPosted_eq a]
  rfl

/-- Messages to units that differ leave the core when none of them must stay behind an earlier one. -/
theorem sendOuts_all (outs : List Outgoing) (a : Sends s u)
    (hfree : ∀ o, o ∈ outs → blocked s u.h.t.post.sent o.dest o.req.kind.isUpdate = false)
    (hapart : outs.Pairwise fun o p => s.sameUnit o.dest p.dest = false) :
    State.sendOuts outs u = (outs.foldl State.sendPosted u, []) := by
  induction outs generalizing u with
  | nil => rfl
  | cons o outs ih =>
    obtain ⟨ho, hapart⟩ := List.pairwise_cons.mp hapart
    rw [State.sendOuts, a.mustStay, hfree o List.mem_cons_self, if_neg (by decide), List.foldl_cons]
    refine ih (sendPosted_sends a o) (fun p hp => ?_) hapart
    have hold : blocked s u.h.t.post.sent p.dest p.req.kind.isUpdate = false := hfree p (List.mem_cons_of_mem _ hp)
    rw [sendPosted_post a, sentPost_sent, blocked, List.any_append, ← blocked, hold, Bool.false_or, List.any_cons, ho p hp,
      Bool.false_and, List.any_nil, Bool.or_false]

/-! ## The turns of a lattice access (R33) -/

/-- Whether a held access is a lattice operation whose homes are not known yet. -/
def reachesHomes (w : LaterOp) : Bool :=
  match w with
  | .cell _ _ _ _ _ _ | .lanes _ _ _ | .range _ _ _ => true
  | .store _ _ _ | .send _ => false

theorem turn_reaches {q : Later} {t : State} {outs : List Outgoing} (hq : reachesHomes q.what = true) (hreach : u.reach q = (t, .all [] outs))
    (houts : outs ≠ []) : u.turn q = (t.post q.entry [] outs, some { q with what := .send outs }) := by
  unfold State.turn
  have hsome : outs.isEmpty = false := List.isEmpty_eq_false_iff.mpr houts
  split
  · next hw => rw [hw] at hq; cases hq
  · next hw => rw [hw] at hq; cases hq
  · rw [hreach]
    dsimp only
    rw [hsome, if_neg (by decide)]

theorem turn_sends {q : Later} {v : State} {outs : List Outgoing} (hq : q.what = .send outs) (hsend : State.sendOuts outs u = (v, [])) :
    u.turn q = (v, none) := by
  unfold State.turn
  rw [hq]
  dsimp only
  rw [hsend]
  rfl

/-- The state in which the messages of an access are known and have not left. -/
def known (t : State) (q : Later) (outs : List Outgoing) : State :=
  ({ t with h := t.h.setEntry q.entry { t.h.t.post.j.getD q.entry {} with out := outs.length, hscope := t.scopeOf outs } } : State).setLater
    [{ q with what := .send outs }]

/-- The core lets a lattice access go that is its only one and whose messages need not stay. -/
theorem give_sends {q : Later} {t : State} {outs : List Outgoing} (hgo : u.letsGo) (hq : reachesHomes q.what = true)
    (hreach : (u.setLater [q]).reach q = (t, .all [] outs)) (houts : outs ≠ []) (a : Sends s t)
    (hfree : ∀ o, o ∈ outs → blocked s t.h.t.post.sent o.dest o.req.kind.isUpdate = false)
    (hapart : outs.Pairwise fun o p => s.sameUnit o.dest p.dest = false) :
    u.give q = (outs.foldl State.sendPosted (known t q outs)).setLater [] := by
  have hturn := turn_reaches hq hreach houts
  rw [post_counts houts] at hturn
  refine give_moves hgo hturn (fun hw => ?_) (turn_sends rfl ?_)
  · rw [← hw] at hq
    cases hq
  · exact sendOuts_all outs ((a.setEntry _ _).setLater _) hfree hapart

end

end Sys2Proof.PostedLattice
end

section
/-! PROOFS. JOIN, FILL, FREEZE and RENEW (R300, R302 to R304, R307, R310, R314): O32. -/

namespace Sys2Proof.PostedLattice

open Sys2Proof Sys2Proof.Machine Sys2Proof.LatticeCells Sys2Proof.ThreadReplies Sys2Proof.ChildOps Sys2Proof.TokenMoves
  Sys2Proof.ScalarResults Sys2Proof.MemFences Sys2Proof.VectorLanes Sys2Proof.CachedStores Sys2Proof.VectorMemory
  Sys2Proof.ScalarMemory Sys2Proof.PostedAccess

/-! ## A group that has sent -/

section
variable {s t u : State}

/-- The registers, and all else that a posted instruction leaves, when its group completes. -/
structure SentFrame (s t : State) : Prop where
  mem : SameMem s t
  work : t.work = s.work
  dev : t.dev = s.dev
  harts : t.harts = s.harts
  x : SameX s t
  v : SameV s t
  m : SameM s t
  k : SameK s t
  flags : SameFlags s t
  ctl : SameCtl s t
  scr : t.h.t.scr = s.h.t.scr
  stop : EndOfBody s t

theorem Sends.retire (a : Sends s u) : SentFrame s u.retire := by
  have hfiles : KeepsFiles s u ∧ u.h.x = s.h.x := by
    obtain ⟨_, _, _, _, _, _, _, _, rfl⟩ := a
    exact ⟨⟨rfl, rfl, rfl, rfl, rfl, rfl⟩, rfl⟩
  obtain ⟨hx, hv, hm, hmem, hflags, hctl, hend⟩ := keepsRegisters hfiles.1 hfiles.2
  have hscr := (State.retire_frame u).hart.scr
  have hk := State.retire_k u
  obtain ⟨_, _, _, _, _, _, _, _, rfl⟩ := a
  exact ⟨hmem, rfl, rfl, rfl, hx, hv, hm, hk, hflags, hctl, hscr, hend⟩

theorem Sends.lat (a : Sends s u) : u.lat = { s.lat with
    net := u.lat.net, sent := u.lat.sent, tlb := u.lat.tlb, cache := u.lat.cache, dram := u.lat.dram } := by
  obtain ⟨_, _, _, _, _, _, _, _, rfl⟩ := a
  rfl

theorem Sends.homeNow (a : Sends s u) (d : Dest) (ty sz : Nat) : u.homeNow d ty sz = s.homeNow d ty sz := by
  obtain ⟨_, _, _, _, _, _, _, _, rfl⟩ := a
  rfl

theorem Sends.scopeOf (a : Sends s u) (outs : List Outgoing) : u.scopeOf outs = s.scopeOf outs := by
  obtain ⟨_, _, _, _, _, _, _, _, rfl⟩ := a
  rfl

/-- The journal once the messages of entry `e` are known. -/
theorem known_getD {e : Nat} (he : e < 16) (a : Sends s t) (hj : t.h.t.post.j = (entered s e).j) {q : Later} (hq : q.entry = e)
    (outs : List Outgoing) (k : Nat) : (known t q outs).h.t.post.j.getD k {} =
      if k = e then { v := true, pc := s.h.pc.toNat, out := outs.length, hscope := s.scopeOf outs } else s.h.t.post.j.getD k {} := by
  have hentered (k : Nat) : t.h.t.post.j.getD k {} = if e = k ∧ e < 16 then { v := true, pc := s.h.pc.toNat } else s.h.t.post.j.getD k {} := by
    rw [hj]
    exact getD_setIfInBounds _ _ _ _ _
  refine (getD_setIfInBounds _ _ _ _ _).trans ?_
  rw [hq, hentered, hentered, a.scopeOf]
  by_cases hk : k = e
  · rw [hk, if_pos ⟨rfl, he⟩, if_pos ⟨rfl, he⟩, if_pos rfl]
  · rw [if_neg fun h => hk h.1.symm, if_neg fun h => hk h.1.symm, if_neg hk]

theorem known_sends (a : Sends s t) (q : Later) (outs : List Outgoing) : Sends s (known t q outs) := (a.setEntry _ _).setLater _

/-- A posted instruction whose one message has left completes. -/
theorem posts_of_known {e : Nat} {q : Later} {o : Outgoing} (he : e < 16) (a : Sends s t) (hpost : t.h.t.post = { entered s e with later := [q] })
    (hlat : t.lat.net = s.lat.net ∧ t.lat.sent = s.lat.sent) (hq : q.entry = e) :
    Posts s (((known t q [o]).sendPosted o).setLater []).retire e o.dest o.req := by
  have hknown := known_sends a q [o]
  have hall := (sendPosted_sends hknown o).setLater []
  obtain ⟨mem, work, dev, harts, x, v, m, k, flags, ctl, scr, stop⟩ := hall.retire
  have hp := (State.retire_frame (((known t q [o]).sendPosted o).setLater [])).hart.post
  have hlater : (((known t q [o]).sendPosted o).setLater []).h.t.post =
      { sentPost (known t q [o]).h.t.post o.dest o.req.kind.isUpdate (s.homeNow o.dest o.req.ty o.req.sz).cls with later := [] } :=
    congrArg (fun p : Posted => { p with later := [] }) (sendPosted_post hknown o)
  rw [hlater] at hp
  have hseq (d : Home) : (known t q [o]).h.t.post.seqOf d = s.h.t.post.seqOf d := by
    rw [Posted.seqOf, show (known t q [o]).h.t.post.seqs = s.h.t.post.seqs from (congrArg Posted.seqs hpost :), Posted.seqOf]
  have hold : (known t q [o]).h.t.post.p = s.h.t.post.p ∧ (known t q [o]).h.t.post.f = s.h.t.post.f ∧
      (known t q [o]).h.t.post.b = s.h.t.post.b ∧ (known t q [o]).h.t.post.sent = s.h.t.post.sent :=
    ⟨(congrArg Posted.p hpost :), (congrArg Posted.f hpost :), (congrArg Posted.b hpost :), (congrArg Posted.sent hpost :)⟩
  obtain ⟨hpp, hpf, hpb, hps⟩ := hold
  obtain ⟨hcp, hcf, hcb⟩ := count_counters ((known t q [o]).h.t.post.bumpSeq o.dest.home) (s.homeNow o.dest o.req.ty o.req.sz).cls
  have hj := known_getD he a (congrArg Posted.j hpost :) hq [o]
  have hjp (i : Nat) : (((known t q [o]).sendPosted o).setLater []).retire.h.t.post.j.getD i {} =
      (known t q [o]).h.t.post.j.getD i {} := by
    rw [hp]
    dsimp only
    rw [sentPost_j]
  refine ⟨?_, (hjp e).trans ((hj e).trans (if_pos rfl)), fun i hi => (hjp i).trans ((hj i).trans (if_neg hi)), ?_, ?_, ?_, ?_, fun d => ?_,
    congrArg Posted.later hp, mem, work, dev, harts, x, v, m, k, flags, ctl, scr, stop⟩
  · have hsent : (((known t q [o]).sendPosted o).setLater []).lat = ((known t q [o]).sendPosted o).lat := rfl
    rw [State.retire_lat]
    refine hall.lat.trans ?_
    rw [hsent, sendPosted_eq hknown, hseq]
    dsimp only
    rw [show (known t q [o]).lat = t.lat from rfl, hlat.1, hlat.2]
  · rw [hp]
    exact hcp.trans (congrArg (· + _) hpp)
  · rw [hp]
    exact hcf.trans (congrArg (· + _) hpf)
  · rw [hp]
    exact hcb.trans (congrArg (· + _) hpb)
  · rw [hp]
    dsimp only
    rw [sentPost_sent, hps, hseq]
  · rw [hp, ← hseq d]
    exact sentPost_seqOf (known t q [o]).h.t.post o.dest o.req.kind.isUpdate (s.homeNow o.dest o.req.ty o.req.sz).cls d

/-! ## One cell (R302, R303) -/

theorem laterTrans_ok {q : Later} {va : Nat} {a : Acc} {l : Leaf} {pa : Nat} (h : s.reaches va a = .ok l pa) :
    s.laterTrans q va a = (reached s va a, .ok l pa) := by
  unfold State.reaches at h
  unfold State.laterTrans
  dsimp only
  rw [h]
  rfl

theorem homeOn_ok {q : LatKind} {l : Leaf} {pa va : Nat} {h : HomeAt} (hq : q.refuses l = false) (hh : s.homeOf l pa va = some h) :
    s.homeOn q va l pa = .ok h := by
  unfold State.homeOf at hh
  unfold State.homeOn
  rw [hq, if_neg (by decide)]
  split at hh
  · next hkind =>
    rw [if_pos hkind]
    split at hh
    · next hg => rw [hg, Option.some.inj hh]
    · cases hh
  · next hkind => rw [if_neg hkind, Option.some.inj hh]

/-- The message of an operation on one cell. -/
def cellReq (s : State) (e : Nat) (kind : LKind) (ty sz gen va pa v : Nat) : LReq :=
  { kind := kind, ty := ty, sz := sz, gen := gen, members := [{ who := s.me, entry := e, pc := s.h.pc.toNat, va := va, pa := pa, v := v }] }

/-- An operation of the issuing thread on one cell as its core takes it in. -/
def cellAccess (s : State) (e : Nat) (kind : LKind) (ty sz gen va v : Nat) : Later :=
  { entry := e, pc := s.h.pc.toNat, what := .cell kind ty sz gen va v }

/-- Its message to a home. -/
def cellOut (s : State) (e : Nat) (kind : LKind) (ty sz gen va v : Nat) (h : HomeAt) : Outgoing :=
  { dest := h.dest, req := cellReq s e kind ty sz gen va h.pa v }

section
variable {e ty sz gen va v pa : Nat} {kind : LKind} {l : Leaf} {h : HomeAt}

theorem Near.me (a : Near s u) : u.me = s.me := by
  obtain ⟨_, _, _, _, _, rfl⟩ := a
  rfl

theorem Near.pc (a : Near s u) : u.h.pc = s.h.pc := by
  obtain ⟨_, _, _, _, _, rfl⟩ := a
  rfl

theorem Near.letsGo (a : Near s u) (hpost : u.h.t.post.later = s.h.t.post.later) (hgo : s.letsGo) : u.letsGo := by
  obtain ⟨hlater, hstop⟩ := hgo
  refine ⟨hpost.trans hlater, ?_⟩
  obtain ⟨_, _, _, _, _, rfl⟩ := a
  exact hstop

/-- The state in which a posted instruction has taken entry `e` and read its operands. -/
structure Entered (s : State) (e : Nat) (u : State) : Prop where
  near : Near s u
  post : u.h.t.post = entered s e
  net : u.lat.net = s.lat.net
  sent : u.lat.sent = s.lat.sent

theorem entered_taken (s : State) (e : Nat) : Entered s e (taken s e) := ⟨taken_near s e, rfl, rfl, rfl⟩

/-- A cell whose page takes the operation is reached with one message. -/
theorem reach_cell (a : Near s u) (hreach : s.reaches va .latUpdate = .ok l pa) (hq : (kind.asks ty sz).refuses l = false)
    (hh : s.homeOf l pa va = some h) : u.reach (cellAccess s e kind ty sz gen va v) =
      (translated u (reached s va .latUpdate).lat.tlb, .all [] [cellOut s e kind ty sz gen va v h]) := by
  have hme : (translated u (reached s va .latUpdate).lat.tlb).me = s.me := a.me
  show u.reachCell _ kind ty sz gen va v = _
  unfold State.reachCell
  dsimp only
  rw [laterTrans_ok ((a.reaches va .latUpdate).trans hreach), a.reached]
  dsimp only
  rw [(a.sends.translated _).homeOn, homeOn_ok hq hh]
  dsimp only
  rw [hme]
  rfl

/-- A posted instruction that reaches one home, perhaps with a TLB copy, sends one message. -/
theorem posted_one {w : LaterOp} {o : Outgoing} {tlb : List TlbEntry} (r : Entered s e u) (he : e < 16) (hgo : s.letsGo)
    (hw : reachesHomes w = true) (hstay : s.mustStay s.h o.dest o.req.kind.isUpdate = false)
    (hreach : ∀ t, Near s t → t.reach { entry := e, pc := s.h.pc.toNat, what := w } = (translated t tlb, .all [] [o])) :
    Answers (u.posted e w) fun t => Posts s t e o.dest o.req := by
  obtain ⟨a, hpost, hnet, hsent⟩ := r
  have hheld (q : Later) : (translated (u.setLater [q]) tlb).h.t.post = { entered s e with later := [q] } :=
    congrArg (fun p : Posted => { p with later := [q] }) hpost
  have hsends (q : Later) : Sends s (translated (u.setLater [q]) tlb) := (a.setLater [q]).sends.translated tlb
  have hfree (q : Later) : ∀ p, p ∈ [o] → blocked s (translated (u.setLater [q]) tlb).h.t.post.sent p.dest p.req.kind.isUpdate = false := by
    intro p hp
    obtain rfl := List.mem_singleton.mp hp
    rw [hheld]
    exact hstay
  have hgive := give_sends (a.letsGo (by rw [hpost]; rfl) hgo) hw (hreach _ (a.setLater _)) (by simp) (hsends _) (hfree _)
    (List.pairwise_singleton _ _)
  refine ⟨_, ?_, posts_of_known (o := o) (q := { entry := e, pc := s.h.pc.toNat, what := w }) he (hsends _) (hheld _) ⟨hnet, hsent⟩ rfl⟩
  unfold State.posted
  rw [a.pc]
  exact congrArg (fun w : State => Host.Outcome.next w.retire) hgive

/-- A posted operation on one cell whose page takes it sends its message. -/
theorem posted_cell (r : Entered s e u) (he : e < 16) (hgo : s.letsGo)
    (hreach : s.reaches va .latUpdate = .ok l pa) (hq : (kind.asks ty sz).refuses l = false)
    (hh : s.homeOf l pa va = some h) (hstay : s.mustStay s.h h.dest kind.isUpdate = false) :
    Answers (u.posted e (.cell kind ty sz gen va v)) fun t => Posts s t e h.dest (cellReq s e kind ty sz gen va h.pa v) :=
  posted_one (o := cellOut s e kind ty sz gen va v h) r he hgo rfl hstay fun _ a => reach_cell a hreach hq hh

end

/-! ## Checks and operands (R302, R307) -/

theorem reaches_canonical {va : Nat} {a : Acc} {l : Leaf} {pa : Nat} (h : s.reaches va a = .ok l pa) (hva : va < 2 ^ 64) : va < 2 ^ 57 := by
  unfold State.reaches State.translate at h
  by_cases hbits : bits va 63 57 = 0
  · unfold bits at hbits
    omega
  · rw [if_pos hbits] at h
    cases h

theorem latChecks_misaligned {badOp : Bool} {va al : Nat} (hb : badOp = false) (hal : va % al ≠ 0) (k : Out) :
    s.latChecks false badOp va al k = .next (s.misaligned va) := by
  unfold State.latChecks
  rw [hb, if_neg (by decide), if_neg (by decide), if_pos hal]

theorem latChecks_badOp {badOp : Bool} {va al : Nat} (hb : badOp = true) (k : Out) : s.latChecks false badOp va al k = .next s.badOperand := by
  unfold State.latChecks
  rw [hb, if_neg (by decide), if_pos rfl]

theorem badGen_true {g : Fin 32} (h : 65535 < (s.x g).toNat) : s.badGen g = true := decide_eq_true h

section
variable {e : Nat} (hpj : s.h.t.pj = none) (hfree : s.h.t.post.freeEntry = some e)
include hpj hfree

/-- A posted instruction on one cell that has passed its checks takes its entry and reads its operand. -/
theorem postOne_free {w va gen : Nat} {kind : LKind} {ty sz : Nat} (hclear : s.h.t.post.clear w = true) (hva : va < 2 ^ 57)
    (k : State → (Nat → State → Out) → Out) : s.postOne w va gen kind ty sz k =
      k (taken s e) fun v u => u.posted e (.cell kind ty sz gen va v) := by
  unfold State.postOne State.held
  rw [if_neg (by omega), takeEntry_free hpj hfree]
  exact if_pos hclear

/-- A posted instruction on one cell. -/
theorem posts_cell {i : Instr} {w va gen al : Nat} {kind : LKind} {ty sz v : Nat} {g : Fin 32} {k : State → (Nat → State → Out) → Out}
    (hclear : s.h.t.post.clear w = true) (hgo : s.letsGo) (hva : va < 2 ^ 64)
    (hexec : exec i s = s.latChecks false (s.badGen g) va al (s.postOne w va gen kind ty sz k))
    (hk : va < 2 ^ 57 → ∃ u, Entered s e u ∧ ∀ f, k (taken s e) f = f v u) :
    (va % al ≠ 0 → (s.x g).toNat ≤ 65535 → exec i s = .next (s.takeTrap { cause := 7, addr := va })) ∧
    (65535 < (s.x g).toNat → exec i s = .next (s.takeTrap { cause := 0x0F, addr := s.word0 })) ∧
    ∀ l pa h, (s.x g).toNat ≤ 65535 → va % al = 0 → s.reaches va .latUpdate = .ok l pa → (kind.asks ty sz).refuses l = false →
      s.homeOf l pa va = some h → s.mustStay s.h h.dest kind.isUpdate = false → Answers (exec i s) fun t =>
        Posts s t e h.dest (cellReq s e kind ty sz gen va h.pa v) := by
  rw [hexec]
  refine ⟨fun hal hgen => latChecks_misaligned (badGen_false hgen) hal _, fun hgen => latChecks_badOp (badGen_true hgen) _,
    fun l pa h hgen hal hreach hq hh hstay => ?_⟩
  obtain ⟨u, hu, hk⟩ := hk (reaches_canonical hreach hva)
  rw [latChecks_ok rfl (badGen_false hgen) hal, postOne_free hpj hfree hclear (reaches_canonical hreach hva), hk]
  exact posted_cell hu (freeEntry_lt hfree) hgo hreach hq hh hstay

end

/-- A load that finds room in the cache leaves memory, and TLBs where its page has a copy, as they are. -/
theorem loaded_near {x n : Nat} {l : Leaf} {pa : Nat} (hroom : s.fillRoom n) (hsame : reached s x .load = s) :
    Near s (loaded s x n l pa) ∧ (loaded s x n l pa).h.t.post = s.h.t.post ∧ (loaded s x n l pa).lat.net = s.lat.net ∧
      (loaded s x n l pa).lat.sent = s.lat.sent := by
  unfold loaded
  rw [hsame]
  split
  · exact ⟨Near.refl s, rfl, rfl, rfl⟩
  · have hlines : cached s s.cluster + (linesOf pa n).length ≤ cacheLines := by
      have h : cached s s.cluster + n / 64 + 2 ≤ cacheLines := hroom
      rw [length_linesOf]
      omega
    obtain ⟨hist, hnote⟩ := noteHist_eq (s.touch pa n false) l x n false
    obtain ⟨mem, cache, dram, writeBacks, htouch⟩ := touchIn_cachesOnly s s.cluster pa n false
    obtain ⟨hmem, hwb⟩ := touchIn_room (s := s) (cluster := s.cluster) (pa := pa) (n := n) false hlines
    rw [htouch] at hmem hwb
    dsimp only at hmem hwb
    rw [State.noteAccess, hnote, State.touch, htouch, hmem, hwb]
    exact ⟨⟨_, _, _, _, _, rfl⟩, rfl, rfl, rfl⟩

/-- FILL reads its source from memory as a load does (R307). -/
theorem taken_loadFrom {e x n v : Nat} (h : s.loads x n v) (hroom : s.fillRoom n)
    (hsame : (s.translate (some s.coreId) (physDie s.phys) s.h.task.ctx s.h.task.num x .load).1 = s) :
    ∃ u, Entered s e u ∧ ∀ f, (taken s e).loadFrom x n f = f v u := by
  obtain ⟨hlock, hlater, l, pa, hreach, hbytes⟩ := h
  have hnear := taken_near s e
  obtain ⟨l', pa', -, hload⟩ := loadFrom_loads (s := taken s e) ⟨hlock, hlater, l, pa, (hnear.reaches x .load).trans hreach, hbytes⟩
  have hstays : reached (taken s e) x .load = taken s e := by
    rw [hnear.reached, show reached s x .load = s from hsame]
    rfl
  obtain ⟨hloaded, hpost, hnet, hsent⟩ := loaded_near (s := taken s e) (l := l') (pa := pa') hroom hstays
  exact ⟨_, ⟨hnear.trans hloaded, hpost, hnet, hsent⟩, hload⟩

end

/-- FILL of assigned codes, with an aligned source where it reads memory. -/
theorem exec_fill {w src : Fin 4} {sz : Fin 16} {off : BitVec 16} {a g c : Fin 32}
    (hlegal : (decide (9 < sz.val) || src.val == 3 || (src.val == 0 && sz.val != 0) || (src.val == 1 && decide (4 < sz.val))) = false)
    (hx : ¬ (src.val = 2 ∧ (s.x c).toNat % (8 * 2 ^ sz.val) ≠ 0)) :
    exec (.fill w src sz off a g c) s = s.latChecks false (s.badGen g) (s.latVa a off) (8 * 2 ^ sz.val)
      (s.postOne w.val (s.latVa a off) (s.x g).toNat .fill 8 sz.val fun t k =>
        if 2 ^ 57 ≤ s.latVa a off ∧ src.val = 2 then k 0 t else t.fillSource src.val (8 * 2 ^ sz.val) c k) := by
  show execFill w src sz off a g c s = _
  unfold execFill
  dsimp only
  rw [hlegal, if_neg hx]

/-- Settles O32: each instruction takes an entry, reads its operand, and gives its core one access, which is its only one and leaves
with one message. -/
theorem postedOperationsSendOneMessage : Obligations.PostedOperationsSendOneMessage := by
  intro s w ty sz af off a g c e va gen hpj hfree hclear hgo posts n x
  have hposts (i : Instr) (kind : LKind) (y z gn v al : Nat) (k : State → (Nat → State → Out) → Out)
      (hexec : exec i s = s.latChecks false (s.badGen g) va al (s.postOne w.val va gn kind y z k))
      (hk : va < 2 ^ 57 → ∃ u, Entered s e u ∧ ∀ f, k (taken s e) f = f v u) : posts i (kind.asks y z) kind y z gn v al :=
    posts_cell hpj hfree hclear hgo (BitVec.isLt _) hexec hk
  have hregister (v : Nat) : ∃ u, Entered s e u ∧ ∀ f : Nat → State → Out, f v (taken s e) = f v u :=
    ⟨_, entered_taken s e, fun _ => rfl⟩
  have hvector (hc : Unbound s [c]) (bytes : VWord → Nat) : ∃ u, Entered s e u ∧ ∀ f : Nat → State → Out,
      (taken s e).withPops [] [c] (fun u => f (bytes (u.v c)) u) = f (bytes (s.v c)) u :=
    ⟨_, entered_taken s e, fun f => withPops_append (dst := []) (s := taken s e) hc _⟩
  have hfill (src : Fin 4) (sz : Fin 16) (v : Nat)
      (hlegal : (decide (9 < sz.val) || src.val == 3 || (src.val == 0 && sz.val != 0) || (src.val == 1 && decide (4 < sz.val))) = false)
      (hx : ¬ (src.val = 2 ∧ (s.x c).toNat % (8 * 2 ^ sz.val) ≠ 0))
      (hk : ∃ u, Entered s e u ∧ ∀ f, (taken s e).fillSource src.val (8 * 2 ^ sz.val) c f = f v u) :
      posts (.fill w src sz off a g c) (LKind.fill.asks 8 sz.val) .fill 8 sz.val gen v (8 * 2 ^ sz.val) := by
    refine hposts _ _ _ _ _ _ _ _ (exec_fill hlegal hx) fun hva => ?_
    obtain ⟨u, hu, hk⟩ := hk
    exact ⟨u, hu, fun f => (if_neg fun h => absurd h.1 (Nat.not_le.mpr hva)).trans (hk f)⟩
  refine ⟨fun hty hnofill haf hc => ?_, ?_, fun hsz hc => ?_, fun v hsz hal hloads hroom hsame => ?_, fun hty => ⟨?_, ?_⟩, ?_⟩
  · have hlegal : (badType ty.val 0 || ty.val == 8 || (af && ty.val != 6)) = false := by
      rw [hty, beq_false_of_ne hnofill]
      cases af with
      | false => rfl
      | true => rw [haf rfl]; rfl
    refine hposts (.join w ty af off a g c) .join ty.val 0 gen _ _ _ (congrArg (s.latChecks · _ _ _ _) hlegal) fun _ => ?_
    by_cases h5 : ty.val = 5
    · simp only [if_pos h5]
      exact hvector (hc h5) fun v => v.toNat % 2 ^ 512
    · simp only [if_neg h5]
      exact hregister _
  · exact hfill 0 0 x rfl (fun h => absurd h.1 (by decide)) (hregister x)
  · refine hfill 1 sz _ ?_ (fun h => absurd h.1 (by decide)) (hvector hc fun v => v.toNat % 2 ^ (8 * n))
    rw [decide_eq_false (show ¬ 9 < sz.val by omega), decide_eq_false (show ¬ 4 < sz.val by omega)]
    rfl
  · refine hfill 2 sz v ?_ (fun h => h.2 hal) (taken_loadFrom hloads hroom hsame)
    rw [decide_eq_false (show ¬ 9 < sz.val by omega)]
    rfl
  · exact hposts (.freeze w ty sz off a g) .freeze ty.val sz.val gen 0 _ _ (congrArg (s.latChecks · _ _ _ _) hty) fun _ => hregister 0
  · exact hposts (.renew w ty sz off a g) .renew ty.val sz.val _ 0 _ _ (congrArg (s.latChecks · _ _ _ _) hty) fun _ => hregister 0
  · rfl

end Sys2Proof.PostedLattice
end

section
/-! PROOFS. JOINV and FREEZE.R (R305, R306, R311): O33. -/

namespace Sys2Proof.PostedLattice

open Sys2Proof Sys2Proof.Machine Sys2Proof.LatticeCells Sys2Proof.ThreadReplies Sys2Proof.ChildOps Sys2Proof.TokenMoves
  Sys2Proof.ScalarResults Sys2Proof.MemFences Sys2Proof.VectorLanes Sys2Proof.CachedStores Sys2Proof.VectorMemory
  Sys2Proof.ScalarMemory Sys2Proof.PostedAccess

/-! ## Several messages of one instruction (R113, R119) -/

/-- The messages of a posted instruction, after those to some destinations. -/
def sentMsgs (s : State) : List Dest → List Outgoing → List Msg
  | _, [] => []
  | b, o :: l => s.postedMsg b o.dest o.req :: sentMsgs s (b ++ [o.dest]) l

section
variable {s t u : State}

theorem seqAfter_snoc (s : State) (b : List Dest) (d k : Dest) :
    s.seqAfter (b ++ [d]) k = s.seqAfter b k + (if k.home = d.home then 1 else 0) := by
  unfold State.seqAfter
  rw [List.filter_append, List.length_append, ← Nat.add_assoc, List.filter_singleton]
  by_cases h : k.home = d.home
  · simp [h]
  · simp [h, beq_false_of_ne (Ne.symm h)]

theorem foldl_sendPosted_sends (outs : List Outgoing) (a : Sends s u) : Sends s (outs.foldl State.sendPosted u) := by
  induction outs generalizing u with
  | nil => exact a
  | cons o outs ih => exact ih (sendPosted_sends a o)

theorem foldl_sendPosted_j (outs : List Outgoing) (a : Sends s u) :
    (outs.foldl State.sendPosted u).h.t.post.j = u.h.t.post.j := by
  induction outs generalizing u with
  | nil => rfl
  | cons o outs ih =>
    rw [List.foldl_cons, ih (sendPosted_sends a o), sendPosted_post a, sentPost_j]

theorem foldl_sendPosted_net (outs : List Outgoing) (b : List Dest) (a : Sends s u)
    (hseq : ∀ k : Dest, u.h.t.post.seqOf k.home = s.seqAfter b k) :
    (outs.foldl State.sendPosted u).lat.net = u.lat.net ++ sentMsgs s b outs := by
  induction outs generalizing u b with
  | nil => exact (List.append_nil _).symm
  | cons o outs ih =>
    have hnext (k : Dest) : (u.sendPosted o).h.t.post.seqOf k.home = s.seqAfter (b ++ [o.dest]) k := by
      rw [sendPosted_post a, sentPost_seqOf, hseq, seqAfter_snoc]
    rw [List.foldl_cons, ih (b ++ [o.dest]) (sendPosted_sends a o) hnext, sendPosted_eq a, hseq]
    exact List.append_assoc _ _ _

/-- Messages that differ by a key, as O33 writes them. -/
theorem sentMsgs_map {α : Type} [BEq α] [LawfulBEq α] (f : α → Dest) (r : α → LReq) (us pre : List α) (h : (pre ++ us).Nodup) :
    sentMsgs s (pre.map f) (us.map fun x => { dest := f x, req := r x }) =
      us.map fun x => s.postedMsg (((pre ++ us).takeWhile (· != x)).map f) (f x) (r x) := by
  induction us generalizing pre with
  | nil => rfl
  | cons x us ih =>
    have hsplit : pre ++ x :: us = (pre ++ [x]) ++ us := by rw [List.append_assoc, List.singleton_append]
    have hfirst : (pre ++ x :: us).takeWhile (· != x) = pre := by
      have hpre : ∀ y, y ∈ pre → (y != x) = true := fun y hy =>
        bne_iff_ne.mpr ((List.nodup_append.mp h).2.2 y hy x List.mem_cons_self)
      rw [List.takeWhile_append_of_pos hpre, List.takeWhile_cons_of_neg (by simp), List.append_nil]
    rw [List.map_cons, List.map_cons, sentMsgs, hfirst]
    refine congrArg _ ?_
    rw [hsplit, ← ih (pre ++ [x]) (hsplit ▸ h), List.map_append]
    rfl

/-- A posted instruction that reaches homes in several units sends one message to each. -/
theorem posted_each {α : Type} [BEq α] [LawfulBEq α] {e : Nat} {w : LaterOp} {us : List α} {f : α → Dest} {r : α → LReq}
    (a : Entered s e u) (he : e < 16) (hgo : s.letsGo) (hw : reachesHomes w = true) (hne : us ≠ []) (hnodup : us.Nodup)
    (hapart : us.Pairwise fun x y => s.sameUnit (f x) (f y) = false)
    (hstay : ∀ x, x ∈ us → s.mustStay s.h (f x) (r x).kind.isUpdate = false)
    (hreach : ∀ t, Near s t → t.reach { entry := e, pc := s.h.pc.toNat, what := w } =
      (t, .all [] (us.map fun x => { dest := f x, req := r x }))) :
    Answers (u.posted e w) fun t =>
      t.lat.net = s.lat.net ++ us.map (fun x => s.postedMsg ((us.takeWhile (· != x)).map f) (f x) (r x)) ∧
        (t.h.t.post.j.getD e {}).out = us.length ∧ t.h.t.post.later = [] ∧ SentFrame s t := by
  obtain ⟨near, hpost, hnet, -⟩ := a
  let q : Later := { entry := e, pc := s.h.pc.toNat, what := w }
  let outs : List Outgoing := us.map fun x => { dest := f x, req := r x }
  have hnear := near.setLater [q]
  have hheld : (u.setLater [q]).h.t.post = { entered s e with later := [q] } := congrArg (fun p : Posted => { p with later := [q] }) hpost
  have hfree : ∀ o, o ∈ outs → blocked s (u.setLater [q]).h.t.post.sent o.dest o.req.kind.isUpdate = false := by
    intro o ho
    obtain ⟨x, hx, rfl⟩ := List.mem_map.mp ho
    rw [hheld]
    exact hstay x hx
  have hgive := give_sends (q := q) (near.letsGo (by rw [hpost]; rfl) hgo) hw (hreach _ hnear)
    (fun h => hne (List.map_eq_nil_iff.mp h)) hnear.sends hfree (List.pairwise_map.mpr hapart)
  have hknown := known_sends hnear.sends q outs
  have hsent := foldl_sendPosted_sends outs hknown
  have hseq (k : Dest) : (known (u.setLater [q]) q outs).h.t.post.seqOf k.home = s.seqAfter [] k := by
    rw [Posted.seqOf, show (known (u.setLater [q]) q outs).h.t.post.seqs = s.h.t.post.seqs from (congrArg Posted.seqs hheld :)]
    rfl
  have hp := (State.retire_frame ((outs.foldl State.sendPosted (known (u.setLater [q]) q outs)).setLater [])).hart.post
  refine ⟨_, ?_, ?_, ?_, congrArg Posted.later hp, (hsent.setLater []).retire⟩
  · unfold State.posted
    rw [near.pc]
    exact congrArg (fun w : State => Host.Outcome.next w.retire) hgive
  · rw [State.retire_lat]
    refine (foldl_sendPosted_net outs [] hknown hseq).trans ?_
    rw [show (known (u.setLater [q]) q outs).lat.net = s.lat.net from hnet]
    exact congrArg (s.lat.net ++ ·) (sentMsgs_map f r us [] hnodup)
  · rw [hp]
    have hj : ((outs.foldl State.sendPosted (known (u.setLater [q]) q outs)).setLater []).h.t.post.j =
        (known (u.setLater [q]) q outs).h.t.post.j := foldl_sendPosted_j outs hknown
    rw [hj, known_getD he hnear.sends (congrArg Posted.j hheld :) rfl, if_pos rfl]
    exact List.length_map _

/-! ## The lanes of a JOINV (R305, R306) -/

/-- The message of JOINV to one unit. -/
def joinvReq (ty gen : Nat) (ms : List Member) : LReq := { kind := .join, ty := ty, gen := gen, members := ms }

/-- The messages of JOINV to units, each with its members. -/
def joinvOuts (ty gen : Nat) (ms : Nat → List Member) (us : List Nat) : List Outgoing :=
  us.map fun x => { dest := .unit x, req := joinvReq ty gen (ms x) }

/-- A lane's member joins those of its unit, or starts a message after the others. -/
theorem addLane_joinvOuts (ty gen y : Nat) (m : Member) (ms : Nat → List Member) (us : List Nat) (h : us.Nodup)
    (hnew : y ∉ us → ms y = []) : addLane ty gen (.unit y) m (joinvOuts ty gen ms us) =
      joinvOuts ty gen (fun x => ms x ++ if y = x then [m] else []) (if y ∈ us then us else us ++ [y]) := by
  induction us with
  | nil => 
    rw [if_neg (List.not_mem_nil), List.nil_append]
    simp [joinvOuts, addLane, joinvReq, hnew]
  | cons x us ih =>
    obtain ⟨hx, hus⟩ := List.nodup_cons.mp h
    have hcons (ms : Nat → List Member) (l : List Nat) : joinvOuts ty gen ms (x :: l) =
      { dest := .unit x, req := joinvReq ty gen (ms x) } :: joinvOuts ty gen ms l := rfl
    rw [hcons, addLane]
    by_cases hy : y = x
    · have hrest : joinvOuts ty gen (fun z => ms z ++ if y = z then [m] else []) us = joinvOuts ty gen ms us := by
        refine List.map_congr_left fun z hz => ?_
        dsimp only
        rw [if_neg (show y ≠ z from fun h => hx (hy ▸ h ▸ hz)), List.append_nil]
      rw [if_pos (congrArg Dest.unit hy.symm), if_pos (hy ▸ List.mem_cons_self), hcons, hrest, if_pos hy]
      rfl
    · have hnew' : y ∉ us → ms y = [] := fun h => hnew fun h' => (List.mem_cons.mp h').elim hy h
      rw [if_neg (fun h => hy (Dest.unit.inj h).symm), ih hus hnew']
      by_cases hmem : y ∈ us
      · rw [if_pos hmem, if_pos (List.mem_cons_of_mem _ hmem), hcons, if_neg hy, List.append_nil]
      · rw [if_neg hmem, if_neg fun h => (List.mem_cons.mp h).elim hy hmem, List.cons_append, hcons, if_neg hy, List.append_nil]

theorem eraseDups_snoc (l : List Nat) (y : Nat) : (l ++ [y]).eraseDups = if y ∈ l.eraseDups then l.eraseDups else l.eraseDups ++ [y] := by
  rw [List.eraseDups_append]
  by_cases h : y ∈ l
  · simp [List.removeAll, h]
  · simp [List.removeAll, h, List.eraseDups_cons]

theorem nodup_eraseDups (l : List Nat) : l.eraseDups.Nodup := by
  induction l using List.reverseRecOn with
  | nil => exact List.nodup_nil
  | append_singleton l y ih =>
    rw [eraseDups_snoc]
    split
    · exact ih
    · next h => exact ih.append (List.nodup_singleton y) (List.disjoint_singleton.mpr h)

/-- The lanes of JOINV gather in one message for each unit, in the order of their first lanes. -/
theorem foldl_addLane (ty gen : Nat) (unit : Nat → Nat) (m : Nat → Member) (on : List Nat) :
    on.foldl (fun outs j => addLane ty gen (.unit (unit j)) (m j) outs) [] =
      joinvOuts ty gen (fun x => (on.filter fun j => unit j == x).map m) (on.map unit).eraseDups := by
  induction on using List.reverseRecOn with
  | nil => rfl
  | append_singleton on j ih =>
    have hnew : unit j ∉ (on.map unit).eraseDups → (on.filter fun k => unit k == unit j).map m = [] := by
      intro h
      rw [List.map_eq_nil_iff, List.filter_eq_nil_iff]
      exact fun k hk heq => h (List.mem_eraseDups.mpr (beq_iff_eq.mp heq ▸ List.mem_map_of_mem hk))
    rw [List.foldl_append, ih, List.foldl_cons, List.foldl_nil, addLane_joinvOuts _ _ _ _ _ _ (nodup_eraseDups _) hnew,
      List.map_append, List.map_singleton, eraseDups_snoc]
    congr 1
    funext x
    rw [List.filter_append, List.map_append, List.filter_singleton]
    by_cases hx : unit j = x
    · simp [hx]
    · simp [beq_false_of_ne hx, hx]

/-- A translation by a TLB copy, of a state that may differ in what a posted instruction has changed. -/
theorem Near.laterTrans (a : Near s t) {va : Nat} {acc : Acc} {l : Leaf} {pa : Nat} (q : Later)
    (h : s.translate (some s.coreId) (physDie s.phys) s.h.task.ctx s.h.task.num va acc = (s, .ok l pa)) :
    t.laterTrans q va acc = (t, .ok l pa) := by
  have htlb : (TokenMoves.reached s va acc).lat.tlb = s.lat.tlb := (congrArg (fun r : State × TRes => r.1.lat.tlb) h :)
  rw [laterTrans_ok ((a.reaches va acc).trans (congrArg Prod.snd h)), a.reached, htlb]
  obtain ⟨_, _, _, _, _, rfl⟩ := a
  rfl

/-- The lanes that JOINV reaches. -/
theorem reachLanes_joined (a : Near s t) {e ty gen : Nat} {at_ v unit pa : Nat → Nat} {l : Nat → Leaf} {w : LaterOp} (on : List Nat)
    (outs : List Outgoing)
    (h : ∀ j, j ∈ on → s.translate (some s.coreId) (physDie s.phys) s.h.task.ctx s.h.task.num (at_ j) .latUpdate = (s, .ok (l j) (pa j)) ∧
      (l j).kind = 3 ∧ (l j).ctype = ty ∧ unitOf ty (l j).csize (pa j) = unit j) :
    State.reachLanes { entry := e, pc := s.h.pc.toNat, what := w } ty gen (on.map fun j => (j, at_ j, v j)) [] outs t =
      (t, .all [] (on.foldl (fun outs j => addLane ty gen (.unit (unit j))
        { who := s.me, entry := e, pc := s.h.pc.toNat, lane := j, va := at_ j, pa := pa j, v := v j } outs) outs)) := by
  induction on generalizing outs with
  | nil => rfl
  | cons j on ih =>
    obtain ⟨htr, hkind, hty, hunit⟩ := h j List.mem_cons_self
    have hhome : t.homeOn { ty := some ty, sz := none, gang := false } (at_ j) (l j) (pa j) =
        .ok (latHome t.phys (l j).ctype (l j).csize (pa j)) := by
      unfold State.homeOn LatKind.refuses
      simp [hkind, hty]
    rw [List.map_cons, State.reachLanes, a.laterTrans _ htr]
    dsimp only
    rw [hhome]
    dsimp only
    rw [a.me, ih _ fun k hk => h k (List.mem_cons_of_mem _ hk), List.foldl_cons, ← hunit, ← hty]
    rfl

/-! ## The units of a FREEZE.R (R311) -/

/-- The message of FREEZE.R to a unit of a page. -/
def freezeReq (s : State) (e gen : Nat) (x : Leaf × Nat) : LReq :=
  { kind := .freeze, ty := x.1.ctype, sz := x.1.csize, gen := gen, members := [
    { who := s.me, entry := e, pc := s.h.pc.toNat, va := x.1.va + (x.2 - x.1.pa), pa := x.2 }] }

/-- The pages of a range are no more than its 4 KiB pieces when the first one starts it. -/
theorem latPages_length_aligned {hi lo : Nat} {ls : List Leaf} (h : s.latPages hi lo ls) (hfirst : ∀ m, ls.head? = some m → m.va = lo) :
    ls.length ≤ (hi - lo) / 4096 + 1 := by
  induction ls generalizing lo with
  | nil => exact Nat.zero_le _
  | cons l ls ih =>
    obtain ⟨-, hlo, -, -, -, hnext, hrest⟩ := h
    have hstop : lo + 4096 ≤ l.stop := by
      rw [← hfirst l rfl, Leaf.stop, pageBytes]
      exact Nat.add_le_add_left (Nat.le_mul_of_pos_right _ (Nat.pow_pos (by decide))) _
    cases ls with
    | nil => exact Nat.succ_le_succ (Nat.zero_le _)
    | cons m ls =>
      have hmore : l.stop < hi := hrest.2.1
      have := ih hrest hnext
      rw [List.length_cons]
      omega

/-- The fuel of FREEZE.R is enough. -/
theorem latPages_length {hi lo : Nat} {ls : List Leaf} (h : s.latPages hi lo ls) : ls.length ≤ (hi - lo) / 4096 + 2 := by
  cases ls with
  | nil => exact Nat.zero_le _
  | cons l ls =>
    obtain ⟨-, -, hstop, -, -, hnext, hrest⟩ := h
    have := latPages_length_aligned hrest hnext
    rw [List.length_cons]
    omega

theorem pageFreezes_eq (s : State) (e gen : Nat) (l : Leaf) (lo hi : Nat) : pageFreezes s.me e s.h.pc.toNat gen l lo hi =
    ((List.range ((l.pa + (hi - 1 - l.va)) / unitBytes l.ctype l.csize + 1 - (l.pa + (lo - l.va)) / unitBytes l.ctype l.csize)).map
      fun k => (l, ((l.pa + (lo - l.va)) / unitBytes l.ctype l.csize + k) * unitBytes l.ctype l.csize)).map
        fun x => { dest := .unit x.2, req := freezeReq s e gen x } := by
  unfold pageFreezes
  dsimp only
  rw [countFrom_eq_range', List.range'_eq_map_range, List.map_map, List.map_map]
  rfl

/-- The units that FREEZE.R reaches. -/
theorem reachRange_pages (a : Near s t) {e gen hi lo fuel : Nat} {ls : List Leaf} {w : LaterOp} (outs : List Outgoing)
    (h : s.latPages hi lo ls) (hfuel : ls.length ≤ fuel) :
    State.reachRange { entry := e, pc := s.h.pc.toNat, what := w } gen hi fuel lo [] outs t =
      (t, .all [] (outs ++ (rangeUnits hi lo ls).map fun x => { dest := .unit x.2, req := freezeReq s e gen x })) := by
  induction ls generalizing lo fuel outs with
  | nil =>
    rw [rangeUnits, List.map_nil, List.append_nil]
    cases fuel with
    | zero => rfl
    | succ fuel => rw [State.reachRange, if_pos (show hi ≤ lo from h)]
  | cons l ls ih =>
    obtain ⟨-, hlo, -, hkind, htr, -, hrest⟩ := h
    cases fuel with
    | zero => cases hfuel
    | succ fuel =>
      rw [State.reachRange, if_neg (Nat.not_le.mpr hlo)]
      dsimp only
      rw [a.laterTrans _ htr]
      dsimp only
      rw [hkind, if_neg (by decide), ih _ hrest (Nat.le_of_succ_le_succ hfuel), a.me, pageFreezes_eq, rangeUnits, List.map_append,
        List.append_assoc]

theorem rangeUnits_ne_nil {hi lo : Nat} {ls : List Leaf} (hlo : lo < hi) (h : s.latPages hi lo ls) : rangeUnits hi lo ls ≠ [] := by
  cases ls with
  | nil => exact absurd h (Nat.not_le.mpr hlo)
  | cons l ls =>
    obtain ⟨-, -, hstop, -⟩ := h
    have hunits : (l.pa + (lo - l.va)) / unitBytes l.ctype l.csize ≤ (l.pa + (min hi l.stop - 1 - l.va)) / unitBytes l.ctype l.csize :=
      Nat.div_le_div_right (by omega)
    intro hnil
    have := congrArg List.length (List.append_eq_nil_iff.mp hnil).1
    rw [List.length_map, List.length_range, List.length_nil] at this
    omega

/-! ## An instruction with nothing to do -/

theorem retire_quiet (s : State) : Answers (.next s.retire) fun t =>
    EndOfBody s t ∧ SameWorld s t ∧ SameHart s t ∧ SameCtl s t ∧ SameX s t ∧ SameV s t ∧ SameM s t := by
  obtain ⟨hworld, hhart, hctl⟩ := State.retire_frame s
  exact ⟨_, rfl, State.retire_endOfBody s, hworld, hhart, hctl, retire_sameX rfl, State.retire_v s, State.retire_m s⟩

/-! ## JOINV (R305) -/

/-- The active lanes of a mask register, in ascending order. -/
def activeLanes (s : State) (m : Fin 8) : List Nat := (List.range 48).filter fun j => (s.m m).getLsbD j

/-- The address of a lane of JOINV. -/
def joinvVa (s : State) (ty : Fin 16) (off : BitVec 16) (d a : Fin 32) (j : Nat) : Nat :=
  ((s.x a + off.signExtend 64).toNat + lane 32 (s.v d) j * cellBytes ty.val 0) % 2 ^ 64

/-- The access that JOINV gives its core. -/
def joinvAccess (s : State) (ty : Fin 16) (m : Fin 8) (off : BitVec 16) (d a g c : Fin 32) : LaterOp :=
  .lanes ty.val (s.x g).toNat ((activeLanes s m).map fun j => (j, joinvVa s ty off d a j, laneValue ty.val (lane 32 (s.v c) j)))

/-- The member of a lane. -/
def joinvMember (s : State) (ty : Fin 16) (off : BitVec 16) (d a c : Fin 32) (e : Nat) (pa : Nat → Nat) (j : Nat) : Member :=
  { who := s.me, entry := e, pc := s.h.pc.toNat, lane := j, va := joinvVa s ty off d a j, pa := pa j
    v := laneValue ty.val (lane 32 (s.v c) j) }

theorem activeLanes_ne_nil {m : Fin 8} (h : s.m m ≠ 0) : activeLanes s m ≠ [] := by
  intro hnil
  refine h (BitVec.eq_of_getLsbD_eq fun j hj => ?_)
  have hclear := List.filter_eq_nil_iff.mp hnil j (List.mem_range.mpr hj)
  rw [Bool.not_eq_true] at hclear
  rw [hclear]
  exact BitVec.getLsbD_zero.symm

section
variable {w : Fin 4} {ty : Fin 16} {m : Fin 8} {off : BitVec 16} {d a g c : Fin 32} {e : Nat}

section
variable (hty : joinvType ty.val = true) (hgen : (s.x g).toNat ≤ 65535) (hal : s.latVa a off % cellBytes ty.val 0 = 0)
  (hclear : s.h.t.post.clear w.val = true)
include hty hgen hal hclear

theorem exec_joinv_none (hm : s.m m = 0) : exec (.joinv w ty m off d a g c) s = .next s.retire := by
  show execJoinv w ty m off d a g c s = _
  unfold execJoinv
  dsimp only
  rw [latChecks_ok (by rw [hty]; rfl) (badGen_false hgen) hal, if_pos hm]
  exact if_pos hclear

theorem exec_joinv_active (hpj : s.h.t.pj = none) (hfree : s.h.t.post.freeEntry = some e) (hm : s.m m ≠ 0) (hdc : Unbound s [d, c]) :
    exec (.joinv w ty m off d a g c) s = (taken s e).posted e (joinvAccess s ty m off d a g c) := by
  show execJoinv w ty m off d a g c s = _
  unfold execJoinv
  dsimp only
  rw [latChecks_ok (by rw [hty]; rfl) (badGen_false hgen) hal, if_neg hm, takeEntry_free hpj hfree]
  unfold State.held
  rw [if_pos (show (taken s e).h.t.post.clear w.val = true from hclear), withPops_append (dst := []) (s := taken s e) hdc, countFrom_zero]
  rfl

end

/-- What a JOINV reaches whose lanes' addresses TLB copies translate. -/
theorem reach_joinv {l : Nat → Leaf} {pa unit : Nat → Nat} (h : ∀ j, j ∈ activeLanes s m →
      s.translate (some s.coreId) (physDie s.phys) s.h.task.ctx s.h.task.num (joinvVa s ty off d a j) .latUpdate = (s, .ok (l j) (pa j)) ∧
        (l j).kind = 3 ∧ (l j).ctype = ty.val ∧ unitOf ty.val (l j).csize (pa j) = unit j) (ht : Near s t) :
    t.reach { entry := e, pc := s.h.pc.toNat, what := joinvAccess s ty m off d a g c } =
      (t, .all [] (joinvOuts ty.val (s.x g).toNat
        (fun x => ((activeLanes s m).filter fun j => unit j == x).map (joinvMember s ty off d a c e pa))
        ((activeLanes s m).map unit).eraseDups)) :=
  (reachLanes_joined ht (activeLanes s m) [] h).trans (congrArg (fun outs => (t, Reach.all [] outs)) (foldl_addLane _ _ _ _ _))

end

/-! ## FREEZE.R (R311) -/

section
variable {w : Fin 4} {off : BitVec 16} {a g c : Fin 32} {e : Nat}

theorem exec_freezeR_far (hn : 2 ^ 32 ≤ (s.x c).toNat) : exec (.freezeR w off a g c) s = .next s.badOperand := by
  show execFreezeR w off a g c s = _
  unfold execFreezeR
  exact latChecks_badOp (Bool.or_eq_true_iff.mpr (Or.inr (decide_eq_true hn))) _

variable (hgen : (s.x g).toNat ≤ 65535) (hclear : s.h.t.post.clear w.val = true)
include hgen hclear

theorem exec_freezeR_none (hn : (s.x c).toNat = 0) : exec (.freezeR w off a g c) s = .next s.retire := by
  show execFreezeR w off a g c s = _
  unfold execFreezeR
  refine (latChecks_ok rfl ?_ (Nat.mod_one _) _).trans ?_
  · rw [badGen_false hgen, hn]
    rfl
  · rw [if_pos hn]
    exact if_pos hclear

theorem exec_freezeR_range (hpj : s.h.t.pj = none) (hfree : s.h.t.post.freeEntry = some e) (hn : 0 < (s.x c).toNat)
    (hn32 : (s.x c).toNat < 2 ^ 32) (hcanon : s.latVa a off + (s.x c).toNat ≤ 2 ^ 57) : exec (.freezeR w off a g c) s =
      (taken s e).posted e (.range (s.x g).toNat (s.latVa a off) (s.latVa a off + (s.x c).toNat)) := by
  show execFreezeR w off a g c s = _
  unfold execFreezeR
  refine (latChecks_ok rfl ?_ (Nat.mod_one _) _).trans ?_
  · rw [badGen_false hgen, Bool.false_or]
    exact decide_eq_false (Nat.not_le.mpr hn32)
  · rw [if_neg (Nat.pos_iff_ne_zero.mp hn), if_neg (Nat.not_lt.mpr hcanon), takeEntry_free hpj hfree]
    exact if_pos hclear

end

theorem units_apart {us : List Nat} (h : us.Nodup) : us.Pairwise fun x y => s.sameUnit (.unit x) (.unit y) = false :=
  h.imp fun hne => beq_false_of_ne hne

theorem translated_self (a : Near s t) : translated t s.lat.tlb = t := by
  obtain ⟨_, _, _, _, _, rfl⟩ := a
  rfl

/-- A list without repetition whose elements are all one has that one alone. -/
theorem eraseDups_const {l : List Nat} {u : Nat} (hne : l ≠ []) (h : ∀ x, x ∈ l → x = u) : l.eraseDups = [u] := by
  rw [List.eq_replicate_of_mem h] at hne ⊢
  cases hn : l.length with
  | zero => rw [hn] at hne; exact absurd rfl hne
  | succ n => simp [List.replicate_succ, List.eraseDups_cons]

end

/-- Settles O33: the active lanes gather in one message for each unit, and each page of a range gives its units in turn; none of the
messages must stay in the core. -/
theorem joinvAndFreezeRangeSendOneMessageEach : Obligations.JoinvAndFreezeRangeSendOneMessageEach := by
  intro s w ty m off d a g c e va gen hgen hpj hfree hclear
  have he := freeEntry_lt hfree
  refine ⟨fun hty hal => ⟨fun hm => ?_, fun hm hdc u => ?_, fun hm hdc hgo => ?_⟩, fun hn => ?_, fun hn => ?_,
    fun ls hn hn32 hcanon hgo hsent hls => ?_⟩
  · rw [exec_joinv_none hty hgen hal hclear hm]
    exact retire_quiet s
  · intro _ _ _ l pa hkind hct hon hgo hstay
    have hone : ((activeLanes s m).map fun _ => u).eraseDups = [u] :=
      eraseDups_const (fun h => activeLanes_ne_nil hm (List.map_eq_nil_iff.mp h)) fun x hx => by
        obtain ⟨_, _, rfl⟩ := List.mem_map.mp hx
        rfl
    rw [exec_joinv_active hty hgen hal hclear hpj hfree hm hdc]
    refine posted_one (o := { dest := .unit u, req := joinvReq ty.val gen ((activeLanes s m).map (joinvMember s ty off d a c e pa)) })
      (tlb := s.lat.tlb) (entered_taken s e) he hgo rfl hstay fun t ht => ?_
    have hall : (activeLanes s m).filter (fun _ => u == u) = activeLanes s m := List.filter_eq_self.mpr fun _ _ => beq_self_eq_true u
    rw [reach_joinv (fun j hj => ⟨(hon j hj).1, hkind, hct, (hon j hj).2⟩) ht, hone, translated_self ht, joinvOuts, List.map_singleton, hall]
  · intro _ _ _ l pa hon u hstay us
    rw [exec_joinv_active hty hgen hal hclear hpj hfree hm hdc]
    have hne : us ≠ [] := fun h => by
      obtain ⟨j, hj⟩ := List.exists_mem_of_ne_nil _ (activeLanes_ne_nil hm)
      exact List.not_mem_nil (h ▸ List.mem_eraseDups.mpr (List.mem_map_of_mem hj) : u j ∈ [])
    have hstays : ∀ x, x ∈ us → s.mustStay s.h (.unit x) true = false := fun x hx => by
      obtain ⟨j, hj, rfl⟩ := List.mem_map.mp (List.mem_eraseDups.mp hx)
      exact hstay j hj
    obtain ⟨t, ht, hnet, hout, hlater, hframe⟩ := posted_each (f := Dest.unit)
      (r := fun x => joinvReq ty.val gen (((activeLanes s m).filter fun j => u j == x).map (joinvMember s ty off d a c e pa)))
      (entered_taken s e) he hgo rfl hne (nodup_eraseDups _) (units_apart (nodup_eraseDups _)) hstays fun t ht =>
        reach_joinv (fun j hj => ⟨(hon j hj).1, (hon j hj).2.1, (hon j hj).2.2, rfl⟩) ht
    exact ⟨t, ht, hnet, hout, hlater, hframe.x, hframe.v, hframe.m, hframe.k, hframe.mem, hframe.stop⟩
  · rw [exec_freezeR_none hgen hclear hn]
    exact retire_quiet s
  · exact exec_freezeR_far hn
  · intro us hnodup hsize
    have hus : us.Nodup := hnodup.of_map
    have hstays : ∀ x, x ∈ us → s.mustStay s.h (.unit x.2) (freezeReq s e gen x).kind.isUpdate = false := fun x _ => by
      unfold State.mustStay
      rw [hsent]
      rfl
    rw [exec_freezeR_range hgen hclear hpj hfree hn hn32 hcanon]
    obtain ⟨t, ht, hnet, hout, hlater, hframe⟩ := posted_each (f := fun x : Leaf × Nat => Dest.unit x.2) (r := freezeReq s e gen)
      (entered_taken s e) he hgo (w := .range gen va (va + (s.x c).toNat)) rfl (rangeUnits_ne_nil (by omega) hls) hus
      (List.pairwise_map.mp (units_apart hnodup)) hstays fun t ht => reachRange_pages ht [] hls (latPages_length hls)
    exact ⟨t, ht, hnet, hout, hlater, hframe.x, hframe.v, hframe.m, hframe.k, hframe.mem, hframe.stop⟩

end Sys2Proof.PostedLattice
end

section
/-! PROOFS. Lattice reads: what parks on its answer and what completes with it (R81, R113), and threshold reads (R308, R309): O34. -/

namespace Sys2Proof.LatticeReads

open Sys2Proof Sys2Proof.Machine Sys2Proof.ChildOps Sys2Proof.TokenMoves Sys2Proof.ScalarResults Sys2Proof.VectorLanes Sys2Proof.VectorMemory
  Sys2Proof.ScalarMemory Sys2Proof.PostedAccess Sys2Proof.PostedLattice

section
variable {s : State} {va : Nat} {h : HomeAt} {req : LReq}

/-! ## Parking (R81) -/

/-- A lattice access whose page takes the operation goes on with its home. -/
theorem latAccess_ok {a : Acc} {q : LatKind} {l : Leaf} {pa : Nat} (hlater : s.h.t.post.later = []) (hreach : s.reaches va a = .ok l pa)
    (hq : q.refuses l = false) (hh : s.homeOf l pa va = some h) (onFault : Nat → State → Out) (k : HomeAt → State → Out) :
    s.latAccess va a q onFault k = k h (translated s (TokenMoves.reached s va a).lat.tlb) := by
  have hreached : TokenMoves.reached s va a = translated s (TokenMoves.reached s va a).lat.tlb := (Near.refl s).reached va a
  unfold State.latAccess
  rw [access_ok hlater hreach, hreached, ((Near.refl s).sends.translated _).homeOn, homeOn_ok hq hh]
  rfl

/-- A read that has been sent parks its thread, whatever answers have come. -/
theorem parks_sent (s : State) (va : Nat) (h : HomeAt) (req : LReq) (tlb : List TlbEntry) (reply : Option Reply) :
    Parks s (({ (translated s tlb).sendRead h req with
      h := { ((translated s tlb).sendRead h req).h with reply := reply } } : State).block (.reply va)) h va req :=
  ⟨rfl, fun hready => by
    show (match s.h.stat with | .halted _ b => ThreadStat.halted (some (WaitOn.reply va)) b | _ => .waiting (.reply va)) = _
    rw [hready], rfl, rfl, fun _ => rfl, fun _ => rfl, fun _ => rfl, fun _ => rfl⟩

/-- A read that need not stay behind an earlier message is sent. -/
theorem park_parks (tlb : List TlbEntry) (hstay : s.mustStay s.h h.dest false = false)
    (hva : (req.members.head?.map (·.va)).getD 0 = va) : Answers ((translated s tlb).park h req) fun t => Parks s t h va req := by
  have hstay' : (translated s tlb).mustStay (translated s tlb).h h.dest false = false :=
    (((Near.refl s).sends.translated tlb).mustStay _ _).trans hstay
  refine ⟨_, ?_, parks_sent s va h req tlb s.h.reply⟩
  unfold State.park
  rw [hstay', if_neg (by decide), hva]
  rfl

/-! ## Threshold reads whose answer has come (R308) -/

theorem finishThr_value {d : Fin 32} {o v : Nat} (hr : s.h.reply = some (.value o v)) :
    s.finishThr d false va = s.result d (BitVec.ofNat 64 o) := by
  unfold State.finishThr
  rw [hr]
  rfl

theorem finishThr_trap {d : Fin 32} {two : Bool} {k x y : Nat} (hr : s.h.reply = some (.trap k x y)) :
    s.finishThr d two va = .next (s.takeTrap { cause := k, addr := x, detail := y }) := by
  unfold State.finishThr
  rw [hr]

/-- Two scalar registers in a row after their writes. -/
theorem x_setX_next {d : Fin 32} (hd : d.val < 31) (x y : Word) (r : Fin 32) : ((s.setX d x).setX (Fin.ofNat 32 (d.val + 1)) y).x r =
    if r = 0 then s.x 0 else if r.val = d.val + 1 then y else if r = d then x else s.x r := by
  have hnext : (Fin.ofNat 32 (d.val + 1)).val = d.val + 1 := Nat.mod_eq_of_lt (by omega)
  have hzero : Fin.ofNat 32 (d.val + 1) ≠ 0 := fun h => Nat.succ_ne_zero _ (hnext.symm.trans (congrArg Fin.val h))
  have hr : r = Fin.ofNat 32 (d.val + 1) ↔ r.val = d.val + 1 := by rw [Fin.ext_iff, hnext]
  rw [State.x_setX, State.x_setX]
  by_cases h0 : r = 0
  · subst h0
    rw [if_pos rfl, if_neg fun h => hzero h.1.symm, if_neg fun h => h.2 h.1.symm]
  · by_cases hlast : r.val = d.val + 1
    · rw [if_neg h0, if_pos hlast, if_pos ⟨hr.mpr hlast, hzero⟩]
    · rw [if_neg h0, if_neg hlast, if_neg fun h => hlast (hr.mp h.1)]
      exact if_congr ⟨And.left, fun h => ⟨h, fun hd0 => h0 (h.trans hd0)⟩⟩ rfl rfl

/-- The read of an 8-byte FILL cell with no trigger also writes its value. -/
theorem finishThr_two {d : Fin 32} {o v : Nat} (hr : s.h.reply = some (.value o v)) (hd : d.val < 31) :
    Answers (s.finishThr d true va) fun t =>
      (SameV s t ∧ SameM s t ∧ SameK s t ∧ SameFlags s t ∧ RegFrame s t ∧ EndOfBody s t) ∧
        ∀ r, t.x r = if r = 0 then s.x 0 else if r.val = d.val + 1 then BitVec.ofNat 64 (if o = 0 then v else 0)
          else if r = d then BitVec.ofNat 64 o else s.x r := by
  have hfiles := (setX_keepsFiles s d (BitVec.ofNat 64 o)).trans
    (setX_keepsFiles _ (Fin.ofNat 32 (d.val + 1)) (BitVec.ofNat 64 (if o = 0 then v else 0)))
  have honly := (FilesOnly.setX s d (BitVec.ofNat 64 o)).trans
    (FilesOnly.setX _ (Fin.ofNat 32 (d.val + 1)) (BitVec.ofNat 64 (if o = 0 then v else 0)))
  have hthread (s : State) (r : Fin 32) (x : Word) : (s.setX r x).h.t = s.h.t := (State.setX_setCtl_free s r x).2.1
  refine ⟨_, ?_, ⟨hfiles.sameV, hfiles.sameM, fun r => ?_, hfiles.sameFlags, honly.retire_frame, hfiles.endOfBody⟩, fun r => ?_⟩
  · unfold State.finishThr
    rw [hr]
    rfl
  · rw [State.retire_k, State.k, hthread, hthread, State.k]
  · rw [State.retire_x, x_setX_next hd]

/-! ## Threshold reads that are sent (R308, R309) -/

/-- Whether a threshold read also writes the value it finds. -/
def thrTwo (ty sz : Fin 16) (nt : Fin 8) : Bool := ty.val == 8 && nt.val == 0 && sz.val == 0

theorem thrTwo_iff (ty sz : Fin 16) (nt : Fin 8) : thrTwo ty sz nt = true ↔ ty.val = 8 ∧ nt.val = 0 ∧ sz.val = 0 := by
  simp [thrTwo, and_assoc]

section
variable {w : Fin 4} {ty sz : Fin 16} {nt : Fin 8} {off : BitVec 16} {d a g c : Fin 32}

theorem exec_thr_reply (hr : s.h.reply.isSome = true) : exec (.thr w ty nt sz off d a g c) s =
    s.finishThr d (thrTwo ty sz nt) (s.latVa a off) := if_pos hr

theorem exec_thrF_reply (hr : s.h.reply.isSome = true) : exec (.thrF w ty sz off d a g) s =
    s.finishThr d false (s.latVa a off) := if_pos hr

theorem thr_legal (hty : badType ty.val sz.val = false) (hnt : nt.val ≤ 4) (hreg : c.val + nt.val ≤ 32)
    (htwo : thrTwo ty sz nt = true → d.val < 31) : (badType ty.val sz.val || decide (4 < nt.val) || decide (31 < c.val + nt.val - 1) ||
      (thrTwo ty sz nt && d.val == 31)) = false := by
  have hlast : (thrTwo ty sz nt && d.val == 31) = false := by
    cases hcase : thrTwo ty sz nt with
    | false => rfl
    | true => exact beq_false_of_ne (Nat.ne_of_lt (htwo hcase))
  rw [hty, decide_eq_false (Nat.not_lt.mpr hnt), decide_eq_false (show ¬ 31 < c.val + nt.val - 1 by omega), hlast]
  rfl

section
variable (hr : s.h.reply = none) (hty : badType ty.val sz.val = false) (hgen : (s.x g).toNat ≤ 65535)
  (hal : s.latVa a off % cellBytes ty.val sz.val = 0)
include hr hty hgen hal

/-- THR.F of a page that takes it sends its read and parks. -/
theorem thrF_parks {l : Leaf} {pa : Nat} (hva : s.latVa a off < 2 ^ 57) (hclear : s.h.t.post.clear w.val = true)
    (hlater : s.h.t.post.later = []) (hreach : s.reaches (s.latVa a off) .latRead = .ok l pa)
    (hq : LatKind.refuses { ty := some ty.val, sz := some sz.val, gang := true } l = false)
    (hh : s.homeOf l pa (s.latVa a off) = some h) (hstay : s.mustStay s.h h.dest false = false) :
    Answers (exec (.thrF w ty sz off d a g) s) fun t => Parks s t h (s.latVa a off)
      { kind := .thrF, ty := ty.val, sz := sz.val, gen := (s.x g).toNat
        members := [{ who := s.me, pc := s.h.pc.toNat, va := s.latVa a off, pa := h.pa, loc := h.loc }] } := by
  show Answers (execThrF w ty sz off d a g s) _
  unfold execThrF State.held
  rw [hr]
  dsimp only
  rw [if_neg (by decide), latChecks_ok hty (badGen_false hgen) hal, if_neg (Nat.not_le.mpr hva), if_pos hclear, latAccess_ok hlater hreach hq hh]
  exact park_parks _ hstay (by rfl)

variable (hnt : nt.val ≤ 4) (hreg : c.val + nt.val ≤ 32) (htwo : thrTwo ty sz nt = true → d.val < 31)
include hnt hreg htwo

theorem thr_badTriggers (hbad : triggersOk ty.val nt.val sz.val (s.x c).toNat (s.candidates c nt.val) = false) :
    exec (.thr w ty nt sz off d a g c) s = .next (s.takeTrap { cause := 0x0D, addr := s.latVa a off }) := by
  show execThr w ty nt sz off d a g c s = _
  unfold execThr
  rw [hr]
  refine (if_neg (by decide)).trans ((latChecks_ok (thr_legal hty hnt hreg htwo) (badGen_false hgen) hal _).trans ?_)
  exact if_pos hbad

/-- THR of a page that takes it sends its read and parks. -/
theorem thr_parks {l : Leaf} {pa : Nat} (hva : s.latVa a off < 2 ^ 57) (hclear : s.h.t.post.clear w.val = true)
    (hlater : s.h.t.post.later = []) (hreach : s.reaches (s.latVa a off) .latRead = .ok l pa)
    (hq : LatKind.refuses { ty := some ty.val, sz := some sz.val, gang := true } l = false)
    (hh : s.homeOf l pa (s.latVa a off) = some h) (hstay : s.mustStay s.h h.dest false = false) (hc : ty.val = 5 → Unbound s [c])
    (hok : triggersOk ty.val nt.val sz.val (s.x c).toNat (s.candidates c nt.val) = true) :
    Answers (exec (.thr w ty nt sz off d a g c) s) fun t => Parks s t h (s.latVa a off)
      { kind := .thr, ty := ty.val, sz := sz.val, gen := (s.x g).toNat
        members := [{ who := s.me, pc := s.h.pc.toNat, va := s.latVa a off, pa := h.pa, loc := h.loc }]
        cand := ty.val == 8 && nt.val != 0
        trigs := if ty.val = 5 then [(s.v c).toNat % 2 ^ 512] else if ty.val ≠ 8 then [(s.x c).toNat]
          else if nt.val = 0 then [1] else s.candidates c nt.val } := by
  show Answers (execThr w ty nt sz off d a g c s) _
  unfold execThr
  rw [hr]
  dsimp only
  rw [if_neg (by decide)]
  refine (congrArg (Answers · _) (latChecks_ok (thr_legal hty hnt hreg htwo) (badGen_false hgen) hal _)).mpr ?_
  unfold State.held
  rw [hok, if_neg (by decide), if_neg (Nat.not_le.mpr hva), if_pos hclear, latAccess_ok hlater hreach hq hh]
  by_cases h5 : ty.val = 5
  · rw [if_pos h5, if_pos h5, withPops_append (dst := []) (s := translated s (TokenMoves.reached s (s.latVa a off) .latRead).lat.tlb) (hc h5)]
    exact park_parks _ hstay (by rfl)
  · rw [if_neg h5, if_neg h5]
    by_cases h8 : ty.val = 8
    · rw [if_pos h8, if_neg (not_not_intro h8)]
      exact park_parks _ hstay (by rfl)
    · rw [if_neg h8, if_pos h8]
      exact park_parks _ hstay (by rfl)

end
end

end

/-- Settles O34: an answer completes the read; without one its checks lead to a trap, or its access to the message that it parks on. -/
theorem thresholdReadsParkAndComplete : Obligations.ThresholdReadsParkAndComplete := by
  intro s w ty sz nt off d a g c va gen two keep
  refine ⟨fun o v hr => ?_, fun k x y hr => ?_, fun hr hty hgen hal => ?_⟩
  · have hsome : s.h.reply.isSome = true := by rw [hr]; rfl
    rw [exec_thr_reply hsome, exec_thrF_reply hsome]
    have hone := finishThr_value (va := va) (d := d) hr ▸ State.result_writes s d (BitVec.ofNat 64 o)
    refine ⟨fun htwo => ?_, fun htwo hd => ?_, hone⟩
    · rw [Bool.eq_false_iff.mpr (fun h => htwo ((thrTwo_iff ty sz nt).mp h))]
      exact hone
    · rw [(thrTwo_iff ty sz nt).mpr htwo]
      exact finishThr_two hr hd
  · have hsome : s.h.reply.isSome = true := by rw [hr]; rfl
    rw [exec_thr_reply hsome, exec_thrF_reply hsome]
    exact ⟨finishThr_trap hr, finishThr_trap hr⟩
  · have hd (htwo : two → d.val < 31) (h : thrTwo ty sz nt = true) : d.val < 31 := htwo ((thrTwo_iff ty sz nt).mp h)
    exact ⟨fun hnt hreg _ htwo hbad => thr_badTriggers hr hty hgen hal hnt hreg (hd htwo) hbad,
      fun l pa h hva hclear hreach hq hh hlater hstay =>
        ⟨fun hnt hreg _ htwo hc hok => thr_parks hr hty hgen hal hnt hreg (hd htwo) hva hclear hlater hreach hq hh hstay hc hok,
          thrF_parks hr hty hgen hal hva hclear hlater hreach hq hh hstay⟩⟩

end Sys2Proof.LatticeReads
end

section
/-! PROOFS. Frozen reads (R81, R83, R312, R313): O35. -/

namespace Sys2Proof.LatticeReads

open Sys2Proof Sys2Proof.Machine Sys2Proof.ChildOps Sys2Proof.TokenMoves Sys2Proof.ScalarResults Sys2Proof.VectorLanes
  Sys2Proof.VectorMemory Sys2Proof.ScalarMemory Sys2Proof.PostedAccess Sys2Proof.PostedLattice

/-! ## The copies that serve a frozen read (R83, R303) -/

/-- What a frozen read asks of its page. -/
def frozenKind : LatKind := { ty := none, sz := none, gang := true }

/-- The copy that serves a frozen read at a home on a page of kind `k`. -/
def servedBy (s : State) (k : Nat) (h : HomeAt) (gen : Nat) : Option CLine := if k = 3 then s.copyOf h.pa gen else none

section
variable {s t u : State} {va gen : Nat} {h : HomeAt} {l : Leaf} {pa : Nat}

theorem frozenKind_refuses (l : Leaf) : frozenKind.refuses l = false := by
  unfold LatKind.refuses
  split <;> rfl

theorem gangHome_member (hh : s.gangHome va = .ok h) : ∃ g r b o, h.dest = .member g r b o := by
  unfold State.gangHome at hh
  dsimp only at hh
  split at hh
  · cases hh
  · rw [if_neg] at hh
    · split at hh
      · cases hh
      · rw [← Except.ok.inj hh]
        unfold State.memberHome
        split
        · exact ⟨_, _, _, _, rfl⟩
        · exact ⟨_, _, _, _, rfl⟩
    · intro hn
      rw [if_pos hn] at hh
      cases hh

/-- The home of a page of these kinds is a freeze unit, which copies serve, or a member, which none serves. -/
theorem homeOf_dest (hkind : l.kind = 3 ∨ l.kind = 6) (hh : s.homeOf l pa va = some h) :
    (l.kind = 3 ∧ ∃ x, h.dest = .unit x) ∨ (l.kind = 6 ∧ ∃ g r b o, h.dest = .member g r b o) := by
  unfold State.homeOf at hh
  rcases hkind with hkind | hkind
  · rw [hkind, if_neg (by decide)] at hh
    exact .inl ⟨hkind, _, congrArg HomeAt.dest (Option.some.inj hh).symm⟩
  · rw [if_pos hkind] at hh
    split at hh
    · next hg => exact .inr ⟨hkind, Option.some.inj hh ▸ gangHome_member hg⟩
    · cases hh

theorem servedBy_none (hq : l.kind = 6 ∨ s.copyOf h.pa gen = none) : servedBy s l.kind h gen = none := by
  unfold servedBy
  rcases hq with h6 | hq
  · rw [h6, if_neg (by decide)]
  · rw [hq, ite_self]

theorem latAccess_frozen (hlater : s.h.t.post.later = []) (hreach : s.reaches va .latRead = .ok l pa)
    (hh : s.homeOf l pa va = some h) (onFault : Nat → State → Out) (k : HomeAt → State → Out) :
    s.latAccess va .latRead { ty := none, sz := none, gang := true } onFault k =
      k h (translated s (TokenMoves.reached s va .latRead).lat.tlb) :=
  latAccess_ok hlater hreach (frozenKind_refuses l) hh onFault k

/-! ## FRD (R312) -/

section
variable {w n : Fin 4} {off : BitVec 16} {d a g : Fin 32}

theorem exec_frd_value {o v : Nat} (hr : s.h.reply = some (.value o v)) :
    exec (.frd w n off d a g) s = s.result d (BitVec.ofNat 64 v) := by
  show execFrd w n off d a g s = _
  unfold execFrd
  rw [hr]

theorem exec_frd_trap {k x y : Nat} (hr : s.h.reply = some (.trap k x y)) :
    exec (.frd w n off d a g) s = .next (s.takeTrap (readTrap k x y (s.x g).toNat)) := by
  show execFrd w n off d a g s = _
  unfold execFrd
  rw [hr]

section
variable (hr : s.h.reply = none) (hgen : (s.x g).toNat ≤ 65535) (hva : s.latVa a off < 2 ^ 57) (hclear : s.h.t.post.clear w.val = true)
  (hreach : s.reaches (s.latVa a off) .latRead = .ok l pa) (hkind : l.kind = 3 ∨ l.kind = 6)
  (hh : s.homeOf l pa (s.latVa a off) = some h) (hlater : s.h.t.post.later = [])
include hr hgen hva hclear hreach hkind hh hlater

/-- A frozen read that a copy serves completes at once. -/
theorem exec_frd_copy (hal : s.latVa a off % 2 ^ n.val = 0) {q : CLine} (hq : servedBy s l.kind h (s.x g).toNat = some q) :
    exec (.frd w n off d a g) s = (translated s (TokenMoves.reached s (s.latVa a off) .latRead).lat.tlb).result d
      (BitVec.ofNat 64 (bits q.img (8 * (h.pa % 64 + 2 ^ n.val) - 1) (8 * (h.pa % 64)))) := by
  show execFrd w n off d a g s = _
  unfold execFrd State.held
  rw [hr]
  dsimp only
  rw [latChecks_ok rfl (badGen_false hgen) hal, if_neg (Nat.not_le.mpr hva), if_pos hclear, latAccess_frozen hlater hreach hh]
  unfold servedBy at hq
  rcases homeOf_dest hkind hh with ⟨h3, x, hx⟩ | ⟨h6, -⟩
  · rw [if_pos h3] at hq
    have hcopy (tlb : List TlbEntry) : (translated s tlb).copyOf h.pa ((translated s tlb).x g).toNat = some q := hq
    rw [hx]
    dsimp only
    rw [hcopy]
  · rw [h6, if_neg (by decide)] at hq
    cases hq

/-- A frozen read that no copy serves sends its message and parks. -/
theorem frd_parks (hal : s.latVa a off % 2 ^ n.val = 0) (hq : servedBy s l.kind h (s.x g).toNat = none)
    (hstay : s.mustStay s.h h.dest false = false) : Answers (exec (.frd w n off d a g) s) fun t => Parks s t h (s.latVa a off)
      { kind := .frd, gen := (s.x g).toNat, len := 2 ^ n.val
        members := [{ who := s.me, pc := s.h.pc.toNat, va := s.latVa a off, pa := h.pa, loc := h.loc }] } := by
  show Answers (execFrd w n off d a g s) _
  unfold execFrd State.held
  rw [hr]
  dsimp only
  rw [latChecks_ok rfl (badGen_false hgen) hal, if_neg (Nat.not_le.mpr hva), if_pos hclear, latAccess_frozen hlater hreach hh]
  unfold servedBy at hq
  rcases homeOf_dest hkind hh with ⟨h3, x, hx⟩ | ⟨-, _, _, _, _, hx⟩
  · rw [if_pos h3] at hq
    have hcopy (tlb : List TlbEntry) : (translated s tlb).copyOf h.pa ((translated s tlb).x g).toNat = none := hq
    rw [hx]
    dsimp only
    rw [hcopy]
    exact park_parks _ hstay (by rfl)
  · rw [hx]
    exact park_parks _ hstay (by rfl)

end
end

/-! ## The lines of an FRDV (R313) -/

theorem linesValue_eq (got : List LineRes) : linesValue got = (got.map fun r => r.value % 2 ^ 512 * 2 ^ (512 * r.part)).sum := by
  rw [linesValue, List.sum_eq_foldl, List.foldl_map]

theorem linesTrap_none {got : List LineRes} {need : Nat} (h : ∀ r, r ∈ got → r.part < need → r.cause = 0) : linesTrap got need = none := by
  unfold linesTrap
  rw [List.findSome?_eq_none_iff]
  intro i hi
  rw [countFrom_zero, List.mem_range] at hi
  rw [List.find?_eq_none]
  intro r hr hbad
  rw [Bool.and_eq_true, beq_iff_eq, bne_iff_ne] at hbad
  exact hbad.2 (h r hr (hbad.1 ▸ hi))

/-- The trap of an FRDV is that of its lowest line. -/
theorem linesTrap_lowest {got : List LineRes} {need : Nat} {r : LineRes} (hr : r ∈ got) (hpart : r.part < need) (hcause : r.cause ≠ 0)
    (hlow : ∀ q, q ∈ got → q.part < r.part → q.cause = 0) (hone : ∀ q, q ∈ got → q.part = r.part → q = r) :
    linesTrap got need = some r := by
  obtain ⟨m, rfl⟩ : ∃ m, need = r.part + (m + 1) := ⟨need - r.part - 1, by omega⟩
  unfold linesTrap
  rw [countFrom_zero, List.range_add, List.range_succ_eq_map, List.map_cons, Nat.add_zero, List.findSome?_eq_some_iff]
  refine ⟨_, _, _, rfl, ?_, fun i hi => ?_⟩
  · cases hf : got.find? fun q => q.part == r.part && q.cause != 0 with
    | none =>
      have := List.find?_eq_none.mp hf r hr
      simp [hcause] at this
    | some q =>
      have hq := List.find?_some hf
      rw [Bool.and_eq_true, beq_iff_eq] at hq
      rw [hone q (List.mem_of_find?_eq_some hf) hq.1]
  · rw [List.find?_eq_none]
    intro q hq hbad
    rw [Bool.and_eq_true, beq_iff_eq, bne_iff_ne] at hbad
    exact hbad.2 (hlow q hq (hbad.1 ▸ List.mem_range.mp hi))

section
variable {d g : Fin 32} {need : Nat} {got : List LineRes}

theorem finishFrdv_waits (h : got.length < need) :
    s.finishFrdv d g va need got = .next (({ s with h := { s.h with reply := some (.lines need got) } } : State).block (.reply va)) := if_pos h

theorem finishFrdv_value (h : need ≤ got.length) (hok : ∀ r, r ∈ got → r.part < need → r.cause = 0) :
    WritesVF (s.finishFrdv d g va need got) s d (BitVec.ofNat 1536 (got.map fun r => r.value % 2 ^ 512 * 2 ^ (512 * r.part)).sum) 0 := by
  unfold State.finishFrdv
  rw [if_neg (Nat.not_lt.mpr h), linesTrap_none hok, ← linesValue_eq]
  exact writesVF_vresult s d _

theorem finishFrdv_trap (h : need ≤ got.length) {r : LineRes} (hr : linesTrap got need = some r) :
    s.finishFrdv d g va need got = .next (s.takeTrap (readTrap r.cause r.addr r.detail (s.x g).toNat)) := by
  unfold State.finishFrdv
  rw [if_neg (Nat.not_lt.mpr h), hr]

end

section
variable {w n : Fin 4} {off : BitVec 16} {d a g : Fin 32}

theorem exec_frdv_lines {need : Nat} {got : List LineRes} (hr : s.h.reply = some (.lines need got)) :
    exec (.frdv w n off d a g) s = s.finishFrdv d g (s.latVa a off) need got := by
  show execFrdv w n off d a g s = _
  unfold execFrdv
  rw [hr]

theorem exec_frdv_trap {k x y : Nat} (hr : s.h.reply = some (.trap k x y)) :
    exec (.frdv w n off d a g) s = .next (s.takeTrap (readTrap k x y (s.x g).toNat)) := by
  show execFrdv w n off d a g s = _
  unfold execFrdv
  rw [hr]

/-- FRDV that has passed its checks resolves its lines. -/
theorem exec_frdv_sends (hr : s.h.reply = none) (hn : n.val ≠ 3) (hd : Unbound s [d]) (hgen : (s.x g).toNat ≤ 65535)
    (hal : s.latVa a off % 64 = 0) (hva : s.latVa a off < 2 ^ 57) (hclear : s.h.t.post.clear w.val = true) :
    exec (.frdv w n off d a g) s = State.frdvLines (s.x g).toNat (s.latVa a off)
      (fun got rs t => t.sendLines rs fun u => u.finishFrdv d g (s.latVa a off) (n.val + 1) got) (List.range (n.val + 1)) [] [] s := by
  show execFrdv w n off d a g s = _
  unfold execFrdv State.held
  rw [hr]
  dsimp only
  rw [if_neg hn, withPops_append (dst := [d]) (src := []) hd, latChecks_ok rfl (badGen_false hgen) hal, if_neg (Nat.not_le.mpr hva),
    if_pos hclear, countFrom_zero]

end

/-- The result of a line that a copy serves. -/
def lineOf (va i : Nat) (c : CLine) : LineRes := { part := i, value := c.img, cause := 0, addr := va + 64 * i, detail := 0 }

/-- A line that a copy serves has its result. -/
theorem frdvLines_copy {k : List LineRes → List (HomeAt × LReq) → State → Out} {i : Nat} {is : List Nat} {got : List LineRes}
    {rs : List (HomeAt × LReq)} (hva : va + 64 * i < 2 ^ 64) (hlater : s.h.t.post.later = [])
    (hreach : s.reaches (va + 64 * i) .latRead = .ok l pa) (hkind : l.kind = 3 ∨ l.kind = 6) (hh : s.homeOf l pa (va + 64 * i) = some h)
    {q : CLine} (hq : servedBy s l.kind h gen = some q) : State.frdvLines gen va k (i :: is) got rs s =
      State.frdvLines gen va k is (got ++ [lineOf va i q]) rs (translated s (TokenMoves.reached s (va + 64 * i) .latRead).lat.tlb) := by
  rw [State.frdvLines]
  dsimp only
  rw [Nat.mod_eq_of_lt hva, latAccess_frozen hlater hreach hh]
  unfold servedBy at hq
  rcases homeOf_dest hkind hh with ⟨h3, x, hx⟩ | ⟨h6, -⟩
  · rw [if_pos h3] at hq
    rw [hx]
    dsimp only
    rw [show (translated s (TokenMoves.reached s (va + 64 * i) .latRead).lat.tlb).copyOf h.pa gen = some q from hq]
    rfl
  · rw [h6, if_neg (by decide)] at hq
    cases hq

/-- A line that no copy serves is read at its home. -/
theorem frdvLines_read {k : List LineRes → List (HomeAt × LReq) → State → Out} {i : Nat} {is : List Nat} {got : List LineRes}
    {rs : List (HomeAt × LReq)} (hva : va + 64 * i < 2 ^ 64) (hlater : s.h.t.post.later = [])
    (hreach : s.reaches (va + 64 * i) .latRead = .ok l pa) (hkind : l.kind = 3 ∨ l.kind = 6) (hh : s.homeOf l pa (va + 64 * i) = some h)
    (hq : servedBy s l.kind h gen = none) : State.frdvLines gen va k (i :: is) got rs s =
      State.frdvLines gen va k is got (rs ++ [(h, s.lineRead i gen (va + 64 * i) h)])
        (translated s (TokenMoves.reached s (va + 64 * i) .latRead).lat.tlb) := by
  rw [State.frdvLines]
  dsimp only
  rw [Nat.mod_eq_of_lt hva, latAccess_frozen hlater hreach hh]
  unfold servedBy at hq
  rcases homeOf_dest hkind hh with ⟨h3, x, hx⟩ | ⟨-, _, _, _, _, hx⟩
  · rw [if_pos h3] at hq
    rw [hx]
    dsimp only
    rw [show (translated s (TokenMoves.reached s (va + 64 * i) .latRead).lat.tlb).copyOf h.pa gen = none from hq]
    rfl
  · rw [hx]
    rfl

/-- The result of a line of an FRDV from what serves it. -/
def lineResult (va : Nat) (hit : Nat → Option CLine) (i : Nat) : LineRes :=
  { part := i, value := ((hit i).map (·.img)).getD 0, cause := 0, addr := va + 64 * i, detail := 0 }

/-- The read of a line at its home. -/
def lineSent (s : State) (gen va : Nat) (home : Nat → HomeAt) (i : Nat) : HomeAt × LReq := (home i, s.lineRead i gen (va + 64 * i) (home i))

/-- Lines whose addresses TLB copies translate have their results from copies, or are read. -/
theorem frdvLines_known {k : List LineRes → List (HomeAt × LReq) → State → Out} {leaf : Nat → Leaf} {pa : Nat → Nat}
    {home : Nat → HomeAt} {hit : Nat → Option CLine} (hlater : s.h.t.post.later = []) (is : List Nat) (got : List LineRes) (rs : List (HomeAt × LReq))
    (h : ∀ i, i ∈ is → va + 64 * i < 2 ^ 64 ∧
      s.translate (some s.coreId) (physDie s.phys) s.h.task.ctx s.h.task.num (va + 64 * i) .latRead = (s, .ok (leaf i) (pa i)) ∧
      ((leaf i).kind = 3 ∨ (leaf i).kind = 6) ∧ s.homeOf (leaf i) (pa i) (va + 64 * i) = some (home i) ∧
      hit i = servedBy s (leaf i).kind (home i) gen) : State.frdvLines gen va k is got rs s =
        k (got ++ (is.filter fun i => hit i != none).map (lineResult va hit))
          (rs ++ (is.filter fun i => hit i == none).map (lineSent s gen va home)) s := by
  induction is generalizing got rs with
  | nil => rw [List.filter_nil, List.filter_nil, List.map_nil, List.map_nil, List.append_nil, List.append_nil, State.frdvLines]
  | cons i is ih =>
    obtain ⟨hva, htr, hkind, hh, hhit⟩ := h i List.mem_cons_self
    have hreach : s.reaches (va + 64 * i) .latRead = .ok (leaf i) (pa i) := congrArg Prod.snd htr
    have hsame : translated s (TokenMoves.reached s (va + 64 * i) .latRead).lat.tlb = s := by
      rw [show TokenMoves.reached s (va + 64 * i) .latRead = s from congrArg Prod.fst htr, translated_self (Near.refl s)]
    have hrest := ih (h := fun j hj => h j (List.mem_cons_of_mem _ hj))
    cases hq : hit i with
    | none =>
      rw [frdvLines_read hva hlater hreach hkind hh (hhit ▸ hq), hsame, hrest, List.filter_cons_of_neg (by simp [hq]),
        List.filter_cons_of_pos (by simp [hq]), List.map_cons, List.append_assoc]
      rfl
    | some q =>
      have hresult : lineResult va hit i = lineOf va i q := by
        unfold lineResult
        rw [hq]
        rfl
      rw [frdvLines_copy hva hlater hreach hkind hh (hhit ▸ hq), hsame, hrest, List.filter_cons_of_pos (by simp [hq]),
        List.filter_cons_of_neg (by simp [hq]), List.map_cons, List.append_assoc, hresult]
      rfl

/-! ## The reads of an FRDV (R113) -/

/-- A read of the issuing thread, after its messages to some destinations. -/
def readMsg (s : State) (before : List Dest) (r : HomeAt × LReq) : Msg :=
  { src := s.me, ctx := s.h.task.ctx, dest := r.1.dest
    body := .lat { r.2 with members := r.2.members.map fun m =>
      { m with loc := r.1.loc, seq := s.seqAfter before r.1.dest, home := some r.1.dest.home } } }

theorem sendRead_eq (a : Sends s u) (h : HomeAt) (req : LReq) : u.sendRead h req = { u with
    h := u.h.setPost (u.h.t.post.bumpSeq h.dest.home)
    lat := { u.lat with
      net := u.lat.net ++ [{ src := s.me, ctx := s.h.task.ctx, dest := h.dest, body := .lat (req.numbered u.h.t.post h) }]
      sent := bumpCount s.h.task.ctx u.lat.sent } } := by
  obtain ⟨_, _, _, _, _, _, _, _, rfl⟩ := a
  rfl

theorem sendRead_sends (a : Sends s u) (h : HomeAt) (req : LReq) : Sends s (u.sendRead h req) := by
  refine a.trans ?_
  rw [sendRead_eq a]
  exact ⟨_, _, _, _, _, _, _, _, rfl⟩

theorem foldl_sendRead_sends (rs : List (HomeAt × LReq)) (a : Sends s u) : Sends s (rs.foldl (fun t r => t.sendRead r.1 r.2) u) := by
  induction rs generalizing u with
  | nil => exact a
  | cons r rs ih => exact ih (sendRead_sends a r.1 r.2)

/-- Reads in ascending order of their lines are numbered in that order. -/
theorem foldl_sendRead_net (f : Nat → HomeAt × LReq) (is pre : List Nat) (hsorted : (pre ++ is).Pairwise (· < ·)) (a : Sends s u)
    (hseq : ∀ k : Dest, u.h.t.post.seqOf k.home = s.seqAfter (pre.map fun i => (f i).1.dest) k) :
    ((is.map f).foldl (fun t r => t.sendRead r.1 r.2) u).lat.net = u.lat.net ++
      is.map fun i => readMsg s (((pre ++ is).filter (· < i)).map fun k => (f k).1.dest) (f i) := by
  induction is generalizing pre u with
  | nil => exact (List.append_nil _).symm
  | cons i is ih =>
    have hsplit : pre ++ i :: is = (pre ++ [i]) ++ is := by rw [List.append_assoc, List.singleton_append]
    obtain ⟨-, hafter, hbefore⟩ := List.pairwise_append.mp hsorted
    have hfirst : (pre ++ i :: is).filter (· < i) = pre := by
      have hrest : (i :: is).filter (· < i) = [] := List.filter_eq_nil_iff.mpr fun j hj => by
        rcases List.mem_cons.mp hj with rfl | hj
        · simp
        · have := (List.pairwise_cons.mp hafter).1 j hj
          simp [Nat.le_of_lt this]
      rw [List.filter_append, hrest, List.append_nil, List.filter_eq_self]
      exact fun j hj => decide_eq_true (hbefore j hj i List.mem_cons_self)
    have hnext (k : Dest) : (u.sendRead (f i).1 (f i).2).h.t.post.seqOf k.home = s.seqAfter ((pre ++ [i]).map fun i => (f i).1.dest) k := by
      rw [sendRead_eq a, List.map_append, List.map_singleton, seqAfter_snoc, ← hseq]
      exact seqOf_bumpSeq _ _ _
    rw [List.map_cons, List.foldl_cons, ih (pre ++ [i]) (hsplit ▸ hsorted) (sendRead_sends a _ _) hnext, sendRead_eq a, List.map_cons,
      hfirst, ← hsplit, LReq.numbered, hseq]
    exact List.append_assoc _ _ _

theorem sendLines_all {rs : List (HomeAt × LReq)} (hstay : ∀ r, r ∈ rs → s.mustStay s.h r.1.dest false = false) (k : State → Out) :
    s.sendLines rs k = k (rs.foldl (fun t r => t.sendRead r.1 r.2) s) := by
  unfold State.sendLines
  rw [List.find?_eq_none.mpr fun r hr => by rw [hstay r hr]; decide]

/-- The thread parks on the reads of its FRDV. -/
theorem lines_park (a : Sends s u) (hready : s.h.stat = .ready) (reply : Option Reply) :
    let t := (({ u with h := { u.h with reply := reply } } : State).block (.reply va))
    t.h.stat = .waiting (.reply va) ∧ t.h.pc = s.h.pc ∧ t.h.reply = reply ∧ t.lat.net = u.lat.net ∧
      SameX s t ∧ SameV s t ∧ SameM s t ∧ SameMem s t := by
  obtain ⟨_, _, _, _, _, _, _, _, rfl⟩ := a
  refine ⟨?_, rfl, rfl, rfl, fun _ => rfl, fun _ => rfl, fun _ => rfl, fun _ => rfl⟩
  unfold State.block
  dsimp only
  rw [hready]

/-- The bytes that FRD takes of a line. -/
theorem bits_bytes (v p : Nat) {len : Nat} (hlen : 0 < len) :
    bits v (8 * (p + len) - 1) (8 * p) = v / 2 ^ (8 * p) % 2 ^ (8 * len) := by
  unfold bits
  rw [show 8 * (p + len) - 1 + 1 - 8 * p = 8 * len by omega]

/-- A result that follows a translation alone. -/
theorem result_translated (s : State) (va : Nat) (a : Acc) (d : Fin 32) (x : Word) :
    Answers ((translated s (TokenMoves.reached s va a).lat.tlb).result d x) fun t => XAfter s t d x ∧
      (SameV s t ∧ SameM s t ∧ SameK s t ∧ SameFlags s t ∧ SameMem s t ∧ EndOfBody s t) ∧ MemFrame s t := by
  obtain ⟨t, ht, hx, hv, hm, hk, hflags, hframe, hend⟩ := State.result_writes (translated s (TokenMoves.reached s va a).lat.tlb) d x
  have hgroup : MemGroup s (translated s (TokenMoves.reached s va a).lat.tlb) :=
    (show TokenMoves.reached s va a = _ from (Near.refl s).reached va a) ▸ MemGroup.of_reached s va a
  exact ⟨t, ht, hx, ⟨hv, hm, hk, hflags, hframe.world.mem, hend⟩, memFrame_of_group hgroup hframe⟩

/-- FRDV of one line that no copy serves sends its message and parks. -/
theorem frdv_one_parks {w : Fin 4} {off : BitVec 16} {d a g : Fin 32} (hr : s.h.reply = none) (hd : Unbound s [d])
    (hgen : (s.x g).toNat ≤ 65535) (hal : s.latVa a off % 64 = 0) (hva : s.latVa a off < 2 ^ 57) (hclear : s.h.t.post.clear w.val = true)
    (hlater : s.h.t.post.later = []) (hreach : s.reaches (s.latVa a off) .latRead = .ok l pa) (hkind : l.kind = 3 ∨ l.kind = 6)
    (hh : s.homeOf l pa (s.latVa a off) = some h) (hq : servedBy s l.kind h (s.x g).toNat = none)
    (hstay : s.mustStay s.h h.dest false = false) : Answers (exec (.frdv w 0 off d a g) s) fun t => Parks s t h (s.latVa a off)
      (s.lineRead 0 (s.x g).toNat (s.latVa a off) h) := by
  have hrest : ∀ r, r ∈ [(h, s.lineRead 0 (s.x g).toNat (s.latVa a off) h)] →
      (translated s (TokenMoves.reached s (s.latVa a off) .latRead).lat.tlb).mustStay
        (translated s (TokenMoves.reached s (s.latVa a off) .latRead).lat.tlb).h r.1.dest false = false := by
    intro r hr
    rw [List.mem_singleton.mp hr, ((Near.refl s).sends.translated _).mustStay]
    exact hstay
  let k (got : List LineRes) (rs : List (HomeAt × LReq)) (t : State) : Out :=
    t.sendLines rs fun u => u.finishFrdv d g (s.latVa a off) 1 got
  have hline : State.frdvLines (s.x g).toNat (s.latVa a off) k [0] [] [] s = k [] [(h, s.lineRead 0 (s.x g).toNat (s.latVa a off) h)]
      (translated s (TokenMoves.reached s (s.latVa a off) .latRead).lat.tlb) :=
    (frdvLines_read (i := 0) (is := []) (show s.latVa a off + 64 * 0 < 2 ^ 64 by omega) hlater hreach hkind hh hq).trans
      (by rw [State.frdvLines]; rfl)
  rw [exec_frdv_sends hr (by decide) hd hgen hal hva hclear]
  refine ⟨_, hline.trans ((sendLines_all hrest _).trans (finishFrdv_waits (got := []) (need := 1) Nat.zero_lt_one)), ?_⟩
  exact parks_sent s (s.latVa a off) h _ _ _

section
variable {w n : Fin 4} {off : BitVec 16} {d a g : Fin 32} {leaf : Nat → Leaf} {pa : Nat → Nat} {home : Nat → HomeAt}
  {hit : Nat → Option CLine} (hr : s.h.reply = none) (hd : Unbound s [d]) (hgen : (s.x g).toNat ≤ 65535)
  (hal : s.latVa a off % 64 = 0) (hva : s.latVa a off < 2 ^ 57) (hn : n.val ≤ 2) (hclear : s.h.t.post.clear w.val = true)
  (hlater : s.h.t.post.later = []) (hlines : ∀ i, i ≤ n.val →
    s.translate (some s.coreId) (physDie s.phys) s.h.task.ctx s.h.task.num (s.latVa a off + 64 * i) .latRead = (s, .ok (leaf i) (pa i)) ∧
    ((leaf i).kind = 3 ∨ (leaf i).kind = 6) ∧ s.homeOf (leaf i) (pa i) (s.latVa a off + 64 * i) = some (home i) ∧
    s.mustStay s.h (home i).dest false = false)
  (hhit : ∀ i, hit i = servedBy s (leaf i).kind (home i) (s.x g).toNat)
include hr hd hgen hal hva hn hclear hlater hlines hhit

/-- FRDV of lines whose addresses TLB copies translate sends its reads. -/
theorem exec_frdv_known : exec (.frdv w n off d a g) s =
    ((((List.range (n.val + 1)).filter fun i => hit i == none).map (lineSent s (s.x g).toNat (s.latVa a off) home)).foldl
      (fun t r => t.sendRead r.1 r.2) s).finishFrdv d g (s.latVa a off) (n.val + 1)
        (((List.range (n.val + 1)).filter fun i => hit i != none).map (lineResult (s.latVa a off) hit)) := by
  rw [exec_frdv_sends hr (by omega) hd hgen hal hva hclear,
    frdvLines_known (leaf := leaf) (pa := pa) (home := home) (hit := hit) hlater _ _ _ fun i hi => ?_, List.nil_append, List.nil_append]
  · refine sendLines_all (fun r hr => ?_) _
    obtain ⟨i, hi, rfl⟩ := List.mem_map.mp hr
    obtain ⟨-, -, -, hstay⟩ := hlines i (Nat.lt_succ_iff.mp (List.mem_range.mp (List.mem_of_mem_filter hi)))
    exact hstay
  · have hle := Nat.lt_succ_iff.mp (List.mem_range.mp hi)
    obtain ⟨htr, hkind, hh, -⟩ := hlines i hle
    exact ⟨by omega, htr, hkind, hh, hhit i⟩

/-- With a copy for each of its lines, FRDV completes at once. -/
theorem frdv_copies (hmiss : (List.range (n.val + 1)).filter (fun i => hit i == none) = []) :
    WritesVF (exec (.frdv w n off d a g) s) s d
      (BitVec.ofNat 1536 ((List.range (n.val + 1)).map fun i => ((hit i).map (·.img)).getD 0 % 2 ^ 512 * 2 ^ (512 * i)).sum) 0 := by
  have hall : (List.range (n.val + 1)).filter (fun i => hit i != none) = List.range (n.val + 1) :=
    List.filter_eq_self.mpr fun i hi => by
      have := List.filter_eq_nil_iff.mp hmiss i hi
      rwa [bne, Bool.not_eq_true', ← Bool.not_eq_true]
  have hvalue := finishFrdv_value (s := s) (va := s.latVa a off) (d := d) (g := g) (need := n.val + 1)
    (got := (List.range (n.val + 1)).map (lineResult (s.latVa a off) hit)) (by rw [List.length_map, List.length_range])
    fun r hr _ => by
      obtain ⟨i, -, rfl⟩ := List.mem_map.mp hr
      rfl
  rw [List.map_map] at hvalue
  rw [exec_frdv_known hr hd hgen hal hva hn hclear hlater hlines hhit, hmiss, hall]
  exact hvalue

/-- With no copy for some of its lines, FRDV parks on their reads. -/
theorem frdv_parks (hready : s.h.stat = .ready) (hmiss : (List.range (n.val + 1)).filter (fun i => hit i == none) ≠ []) :
    Answers (exec (.frdv w n off d a g) s) fun t => t.h.stat = .waiting (.reply (s.latVa a off)) ∧ t.h.pc = s.h.pc ∧
      t.h.reply = some (.lines (n.val + 1) (((List.range (n.val + 1)).filter fun i => hit i != none).map (lineResult (s.latVa a off) hit))) ∧
      t.lat.net = s.lat.net ++ ((List.range (n.val + 1)).filter fun i => hit i == none).map (fun i =>
        readMsg s ((((List.range (n.val + 1)).filter fun i => hit i == none).filter (· < i)).map fun k => (home k).dest)
          (lineSent s (s.x g).toNat (s.latVa a off) home i)) ∧
      SameX s t ∧ SameV s t ∧ SameM s t ∧ SameMem s t := by
  have hshort : (((List.range (n.val + 1)).filter fun i => hit i != none).map (lineResult (s.latVa a off) hit)).length < n.val + 1 := by
    rw [List.length_map]
    refine Nat.lt_of_lt_of_eq (List.length_filter_lt_length_iff_exists.mpr ?_) List.length_range
    obtain ⟨i, hi⟩ := List.exists_mem_of_ne_nil _ hmiss
    rw [List.mem_filter] at hi
    exact ⟨i, hi.1, by rw [bne, hi.2]; decide⟩
  have hsorted : ((List.range (n.val + 1)).filter fun i => hit i == none).Pairwise (· < ·) := List.pairwise_lt_range.filter _
  rw [exec_frdv_known hr hd hgen hal hva hn hclear hlater hlines hhit, finishFrdv_waits hshort]
  obtain ⟨hstat, hpc, hreply, hnet, hsame⟩ := lines_park (va := s.latVa a off) (foldl_sendRead_sends
    (((List.range (n.val + 1)).filter fun i => hit i == none).map (lineSent s (s.x g).toNat (s.latVa a off) home)) (Near.refl s).sends) hready
    (some (.lines (n.val + 1) (((List.range (n.val + 1)).filter fun i => hit i != none).map (lineResult (s.latVa a off) hit))))
  exact ⟨_, rfl, hstat, hpc, hreply, hnet.trans (foldl_sendRead_net _ _ [] hsorted (Near.refl s).sends fun _ => rfl), hsame⟩

end

end

/-- Settles O35: an answer completes the read; without one, copies of its lines serve it, and it parks on the reads of the others. -/
theorem frozenReadsParkAndComplete : Obligations.FrozenReadsParkAndComplete := by
  intro s w n off d a g va gen len keep bad
  refine ⟨fun o v hr => ?_, fun k x y hr => ⟨exec_frd_trap hr, exec_frdv_trap hr⟩, fun need got hr => ?_,
    fun l pa h hr hgen hal hva hclear hreach hkind hh hlater hstay => ⟨fun q h3 hq => ?_, fun hq => ?_, fun hn hal64 hd hq => ?_⟩,
    fun l pa h hr hready hgen hal hva hn hclear hd hlater hlines => ?_⟩
  · rw [exec_frd_value hr]
    obtain ⟨t, ht, hx, hv, hm, hk, hflags, hframe, hend⟩ := State.result_writes s d (BitVec.ofNat 64 v)
    exact ⟨t, ht, hx, ⟨hv, hm, hk, hflags, hframe.world.mem, hend⟩, hframe⟩
  · rw [exec_frdv_lines hr]
    exact ⟨fun h => ⟨_, finishFrdv_waits h, rfl, fun _ => rfl, fun _ => rfl⟩, finishFrdv_value,
      fun h r hmem hpart hcause hlow hone => finishFrdv_trap h (linesTrap_lowest hmem hpart hcause hlow hone)⟩
  · rw [exec_frd_copy hr hgen hva hclear hreach hkind hh hlater hal ((if_pos h3).trans hq), bits_bytes _ _ (Nat.two_pow_pos n.val)]
    exact result_translated s va .latRead d _
  · exact frd_parks hr hgen hva hclear hreach hkind hh hlater hal (servedBy_none hq) hstay
  · subst hn
    exact frdv_one_parks hr hd hgen hal64 hva hclear hlater hreach hkind hh (servedBy_none hq) hstay
  · intro hit all miss
    exact ⟨frdv_copies hr hd hgen hal hva hn hclear hlater hlines fun _ => rfl,
      frdv_parks hr hd hgen hal hva hn hclear hlater hlines (fun _ => rfl) hready⟩

end Sys2Proof.LatticeReads
end
